-- ==== Sys2Proof/Word.lean ====
section
/-! DEFINITION. The words of the machine (spec/00_scope.md R3): a byte is 8 bits, a half 16, a word 32 and a
doubleword 64. Quantities that software never sees as bits are `Nat` or `Int`. Beside them stand the fields that instruction words,
packets, flits and register accesses carry. -/

namespace Sys2Proof

/-- A byte (R3). -/
abbrev Byte := BitVec 8
/-- A half, 16 bits (R3). -/
abbrev Half := BitVec 16
/-- A word, 32 bits (R3). -/
abbrev Word := BitVec 32
/-- A doubleword, 64 bits (R3). -/
abbrev DWord := BitVec 64
/-- A lane mask: lane `l` is bit `l` (R3). -/
abbrev LaneMask := BitVec 16

/-- A modifier E slot's payload (R60), field by field. -/
structure EMod where
  cv : Bool
  creg : BitVec 6
  rm : BitVec 3
  scope : BitVec 3
  cache : BitVec 3
  fmt : BitVec 4
  lf : Bool
  sat : Bool
  det : Bool
  deriving DecidableEq, Repr

/-- A slot of the common layout (R52) with the E slots that extend it. `stop` is bit 31 of the last of its words. -/
structure Slot where
  stop : Bool
  p : BitVec 3
  d : BitVec 6
  a : BitVec 6
  b : BitVec 6
  imm : Option (BitVec 24)
  mod : Option EMod
  deriving DecidableEq, Repr

/-- The two vector classes (R55): one map, two positions of a bundle. -/
inductive VUnit where
  | va
  | vb
  deriving DecidableEq, Repr

/-- A slot of a scanline word (R445). -/
structure SlSlot where
  d : BitVec 5
  x : BitVec 5
  y : BitVec 5
  deriving DecidableEq, Repr

/-- A 64-byte command packet (R101): the header doubleword and the seven payload doublewords. -/
structure Packet where
  hdr : DWord
  dw1 : DWord
  dw2 : DWord
  dw3 : DWord
  dw4 : DWord
  dw5 : DWord
  dw6 : DWord
  dw7 : DWord
  deriving DecidableEq, Repr

/-- The engines that start children (R261): an Oxbow per core, a Millpond per cluster, and the links for collectives. -/
inductive Engine where
  | oxbow (core : Fin 256)
  | millpond (cluster : Fin 64)
  | links
  deriving DecidableEq, Repr

/-- The translation units (R371): core buffers, copy buffers, walk caches, and the two engine buffers (0 queue engine, 1 Tarn). -/
inductive TUnit where
  | core (n : Fin 256)
  | copy (n : Fin 64)
  | walk (n : Fin 8)
  | engine (n : Fin 2)
  deriving DecidableEq, Repr

/-- The SRAM banks that carry spare rows (R380). -/
inductive Sram where
  | pond (cluster : Fin 64) (bank : Fin 32)
  | slice (die : Fin 8) (s : Fin 48)
  | lineStore (core : Fin 64)
  deriving DecidableEq, Repr

/-- The kind of a host-complex access (R22). -/
inductive HostKind where
  | fetch
  | load
  | store
  deriving DecidableEq, Repr

/-- What a host core does (R252): at an address a load, a store, or an AMO that swaps, adds, ands or ors; or a RISC-V FENCE,
which names none. -/
inductive HostOp where
  | fence
  | load
  | store
  | amoSwap
  | amoAdd
  | amoAnd
  | amoOr
  deriving DecidableEq, Repr

/-- A host-complex memory access: the host core, the address, size in bytes, operation, datum, and its acquire and release
marks: .aq and .rl of an AMO, or of a FENCE the successor set's R and the predecessor set's W (R252). -/
structure HostAccess where
  core : Fin 32
  pa : BitVec 52
  size : Nat
  op : HostOp
  value : DWord
  acq : Bool
  rel : Bool
  deriving DecidableEq, Repr

/-- The version masks that the peer sends in negotiation, and its module number (R404). -/
structure PeerOffer where
  peer : BitVec 12
  slp : BitVec 16
  pkt : BitVec 16
  save : BitVec 16
  trc : BitVec 16
  deriving DecidableEq, Repr

/-- What a remote memory request asks for (R411): a read of `len` bytes, the check of a write (for a reduce also of a read),
a write, a reducing write of an element format, the bits of a byte under a mask (`red` 0 replaces them, 4 ors, 5 xors), or an
AMO of a host core on `len` bytes. -/
inductive RemoteOp where
  | read (len : Nat)
  | check (len : Nat) (rd : Bool)
  | write (data : List Byte)
  | reduce (red : Nat) (fmt : Nat) (data : List Byte)
  | merge (red : Nat) (mask value : Byte)
  | amo (op : HostOp) (len : Nat) (value : DWord)
  deriving DecidableEq, Repr

/-- A request that another module makes of this module's memory (R411), with the number that its answer names. -/
structure RemoteRequest where
  src : BitVec 12
  tag : BitVec 24
  off : BitVec 40
  op : RemoteOp
  deriving DecidableEq, Repr

/-- The answer to a request of this module (R411): the request's number, whether it was permitted, and the bytes read. -/
structure RemoteResponse where
  tag : BitVec 24
  ok : Bool
  data : List Byte
  deriving DecidableEq, Repr

/-- A collective flit after the link has checked it (R405, R417): the module and context that sent it and the destination
context, the payload header with the root and the phase (notes/assumptions/23.md), and the data. -/
structure CollFlit where
  srcMod : BitVec 12 := 0
  srcCtx : Fin 4096 := 0
  dstCtx : Fin 4096
  inst : BitVec 32
  chunk : Nat
  src : Nat
  kind : Nat
  op : Nat
  fmt : Nat
  count : Nat
  root : Nat
  down : Bool
  data : List Byte
  /-- It has taken its place in its member's receive buffer (R419), and which. -/
  placed : Bool := false
  entry : Nat := 0
  /-- It carries no chunk: it tells that its member has failed (R417). -/
  fail : Bool := false
  /-- It carries no chunk: its destination's context is not created (R417). -/
  norank : Bool := false
  /-- It carries no chunk: so many credits come back (R418). -/
  credit : Nat := 0
  deriving DecidableEq, Repr

/-- A stream flit as the receiving module sees it (R420), with the module that sent it and the verdict of its ECRC. -/
structure StreamFlit where
  src : BitVec 12
  head : Fin 16
  last : Bool
  frame : BitVec 32
  slice : BitVec 16
  off : BitVec 32
  data : List Byte
  good : Bool
  deriving DecidableEq, Repr

/-- A flash image: the fields of its 128-byte header, and the bytes that follow it, of which the first LEN are its body (R497). -/
structure Image where
  ver : Word
  kind : Word
  len : DWord
  svn : Word
  reserved : BitVec 96
  sigR : BitVec 384
  sigS : BitVec 384
  body : List Byte
  deriving DecidableEq, Repr

/-- What a move of the host complex, the fabric or an engine carries beside its numbers. -/
inductive Payload where
  | none
  | engine (e : Engine)
  | tunit (u : TUnit)
  | sram (b : Sram)
  | kind (k : HostKind)
  | access (a : HostAccess)
  | peer (o : PeerOffer)
  | bytes (f : List Byte)
  | request (r : RemoteRequest)
  | response (r : RemoteResponse)
  | coll (f : CollFlit)
  | stream (f : StreamFlit)
  | images (fw cfg : Image)
  | packet (k : Packet)
  deriving DecidableEq, Repr

/-- The operands of a row that is no slot: the number of the object it acts on (context, queue, sequencer, group place,
link, head, die, scanline core), a second number (path, lane, entry, row), a value (a register value, an address, a
token or a launch number) and what else it carries. -/
structure Args where
  n : Nat := 0
  m : Nat := 0
  v : DWord := 0
  data : Payload := .none
  deriving DecidableEq, Repr

end Sys2Proof
end

