-- ==== Sys2Proof/Config.lean ====
section
/-! DEFINITION. What the spec leaves open as a value: constants without a body, so that no proof can see what they are
(notes/assumptions/3.md). A free value that an instruction draws afresh takes the count of values drawn. -/

namespace Sys2Proof

/-- The value, marked poisoned, of an integer quotient by zero in a poisoned lane (R189 states none). -/
opaque Config.poisonedQuotient : Word → Word

/-- The energy that a read of ENERGY sees below the true count, outside saved, faulted and destroyed (R87). -/
opaque Config.energyShort : Nat → Nat

/-- A signature of the secure element's identity key over a report (R501): the nonce that it draws. -/
opaque Config.identityNonce : Nat → BitVec 384

/-- The identity key of the secure element (R501). -/
opaque Config.identityKey : BitVec 384

/-- The bytes of a DSC 1.2a slice by its pixels' place (R437 names the codec and gives no bit stream). -/
opaque Config.dscByte : Nat → Nat → Byte

/-- A histogram count or a time stamp of capture, which depends on timing (R51, R488, R491). -/
opaque Config.captureTime : Nat → DWord

/-- The ck of the Oxbow's other classes that pass for a child between two k-blocks (R494), which depend on timing. -/
opaque Config.oxbowIdle : Nat → Nat

/-- The entry of RXBUF that a collective flit takes, and the bytes that the device lays there (R419 gives no layout). -/
opaque Config.rxEntry : Nat → Nat
opaque Config.rxByte : Nat → Byte

/-- The taps of an anisotropic GTEX whose derivatives give no ratio, both infinite or a NaN (R348 states none), for the
codes of its two footprints. -/
opaque Config.tapCount : Nat → Nat

/-- What the module's flash and secure element hold when it is made (R496, R497): the images of slot A (0 firmware,
1 configuration) and of slot B (2, 3), the vendor root key and the minimum security version. -/
opaque Config.flash : Nat → Option Image
opaque Config.rootKey : Option (Nat × Nat)
opaque Config.minSvn : Nat
/-- The minimum that a firmware image writes into the secure element, by its body; a lower one has no effect (R498). -/
opaque Config.firmwareMinSvn : List Byte → Nat

/-- The fields of a configuration body, whose layout the spec does not give (R496, R499, R500): the mode that it names,
MODID, the ageing threshold, and the cfg energy weights where they differ from the defaults. -/
opaque Config.imageMode : List Byte → Nat
opaque Config.imageModid : List Byte → Nat
opaque Config.imageThreshold : List Byte → Nat
opaque Config.imageWeight : List Byte → Nat → Option DWord

/-- The rows of an SRAM bank that fail the boot test, and the spare rows that a bank has (R380). -/
opaque Config.failedRows : Sram → List Nat
opaque Config.spareRows : Nat

/-- What a report holds in the places of images that were not booted (R501 states none). -/
opaque Config.unbooted : Nat → Byte

/-- The pose of a slice that is latched before any pose or frame has reached its head (R433 states none). -/
opaque Config.unposed : Nat → DWord

end Sys2Proof
end

