-- ==== Sys2Proof/Syntax.lean ====
section
/-! DEFINITION. The syntax of the machine: one constructor of `Instr` per row of spec/opcode_table.json.
A slot row carries its own word's fields and the E slots that extend it (spec/03_bundles.md R52, R58-R60). A scanline
row takes the fields of its slot from the open word (spec/20_scanline_isa.md R445), and every other row, a step of the
host complex or of an engine, takes its operands from `State.args`: neither is a field of the constructor. -/

namespace Sys2Proof

/-- One constructor per row of spec/opcode_table.json. -/
inductive Instr where
  | uadd (w : Slot)
  | usub (w : Slot)
  | umul (w : Slot)
  | umulhS (w : Slot)
  | umulhU (w : Slot)
  | uand (w : Slot)
  | uor (w : Slot)
  | uxor (w : Slot)
  | ushl (w : Slot)
  | ushr (w : Slot)
  | usar (w : Slot)
  | uminS (w : Slot)
  | uminU (w : Slot)
  | umaxS (w : Slot)
  | umaxU (w : Slot)
  | ucmpS (w : Slot)
  | ucmpU (w : Slot)
  | usel (w : Slot)
  | umov (w : Slot)
  | umovImm (w : Slot)
  | umovHi (w : Slot)
  | umovw (w : Slot)
  | uldx (w : Slot)
  | ustx (w : Slot)
  | upopc (w : Slot)
  | uclz (w : Slot)
  | ubfx (w : Slot)
  | ubfi (w : Slot)
  | urds (w : Slot)
  | uwrs (w : Slot)
  | vadd (u : VUnit) (w : Slot)
  | vsub (u : VUnit) (w : Slot)
  | vmul (u : VUnit) (w : Slot)
  | vmulhS (u : VUnit) (w : Slot)
  | vmulhU (u : VUnit) (w : Slot)
  | vand (u : VUnit) (w : Slot)
  | vor (u : VUnit) (w : Slot)
  | vxor (u : VUnit) (w : Slot)
  | vshl (u : VUnit) (w : Slot)
  | vshr (u : VUnit) (w : Slot)
  | vsar (u : VUnit) (w : Slot)
  | vminS (u : VUnit) (w : Slot)
  | vminU (u : VUnit) (w : Slot)
  | vmaxS (u : VUnit) (w : Slot)
  | vmaxU (u : VUnit) (w : Slot)
  | vclz (u : VUnit) (w : Slot)
  | vpopc (u : VUnit) (w : Slot)
  | vbfx (u : VUnit) (w : Slot)
  | vbfi (u : VUnit) (w : Slot)
  | vsel (u : VUnit) (w : Slot)
  | vcmpS (u : VUnit) (w : Slot)
  | vcmpU (u : VUnit) (w : Slot)
  | fcmpF32 (u : VUnit) (w : Slot)
  | fcmpF64 (u : VUnit) (w : Slot)
  | faddF32 (u : VUnit) (w : Slot)
  | fsubF32 (u : VUnit) (w : Slot)
  | fmulF32 (u : VUnit) (w : Slot)
  | ffmaF32 (u : VUnit) (w : Slot)
  | fminF32 (u : VUnit) (w : Slot)
  | fmaxF32 (u : VUnit) (w : Slot)
  | fdivF32 (u : VUnit) (w : Slot)
  | fsqrtF32 (u : VUnit) (w : Slot)
  | frcpF32 (u : VUnit) (w : Slot)
  | frsqF32 (u : VUnit) (w : Slot)
  | fexp2F32 (u : VUnit) (w : Slot)
  | flog2F32 (u : VUnit) (w : Slot)
  | fsinF32 (u : VUnit) (w : Slot)
  | fcosF32 (u : VUnit) (w : Slot)
  | faddF16 (u : VUnit) (w : Slot)
  | fsubF16 (u : VUnit) (w : Slot)
  | fmulF16 (u : VUnit) (w : Slot)
  | ffmaF16 (u : VUnit) (w : Slot)
  | faddF64 (u : VUnit) (w : Slot)
  | fsubF64 (u : VUnit) (w : Slot)
  | fmulF64 (u : VUnit) (w : Slot)
  | ffmaF64 (u : VUnit) (w : Slot)
  | fminF64 (u : VUnit) (w : Slot)
  | fmaxF64 (u : VUnit) (w : Slot)
  | fdivF64 (u : VUnit) (w : Slot)
  | fsqrtF64 (u : VUnit) (w : Slot)
  | frcpF64 (u : VUnit) (w : Slot)
  | frsqF64 (u : VUnit) (w : Slot)
  | pand (u : VUnit) (w : Slot)
  | por (u : VUnit) (w : Slot)
  | pxor (u : VUnit) (w : Slot)
  | pnot (u : VUnit) (w : Slot)
  | vshuf (u : VUnit) (w : Slot)
  | vbcast (u : VUnit) (w : Slot)
  | vbcastLane (u : VUnit) (w : Slot)
  | vred (u : VUnit) (w : Slot)
  | vvote (u : VUnit) (w : Slot)
  | vqdx (u : VUnit) (w : Slot)
  | vqdy (u : VUnit) (w : Slot)
  | ldB8 (w : Slot)
  | ldS8 (w : Slot)
  | ldB16 (w : Slot)
  | ldS16 (w : Slot)
  | ldB32 (w : Slot)
  | ldB64 (w : Slot)
  | stB8 (w : Slot)
  | stB16 (w : Slot)
  | stB32 (w : Slot)
  | stB64 (w : Slot)
  | ldsB8 (w : Slot)
  | ldsS8 (w : Slot)
  | ldsB16 (w : Slot)
  | ldsS16 (w : Slot)
  | ldsB32 (w : Slot)
  | ldsB64 (w : Slot)
  | ldpB8 (w : Slot)
  | ldpS8 (w : Slot)
  | ldpB16 (w : Slot)
  | ldpS16 (w : Slot)
  | ldpB32 (w : Slot)
  | ldpB64 (w : Slot)
  | stpB8 (w : Slot)
  | stpB16 (w : Slot)
  | stpB32 (w : Slot)
  | stpB64 (w : Slot)
  | ldt (w : Slot)
  | stt (w : Slot)
  | fence (w : Slot)
  | drain (w : Slot)
  | pref (w : Slot)
  | atomAdd (w : Slot)
  | atomMinS (w : Slot)
  | atomMinU (w : Slot)
  | atomMaxS (w : Slot)
  | atomMaxU (w : Slot)
  | atomAnd (w : Slot)
  | atomOr (w : Slot)
  | atomXor (w : Slot)
  | atomExch (w : Slot)
  | atomAddB64 (w : Slot)
  | atomExchB64 (w : Slot)
  | atomFaddF32 (w : Slot)
  | atomFminF32 (w : Slot)
  | atomFmaxF32 (w : Slot)
  | atomcB32 (w : Slot)
  | atomcB64 (w : Slot)
  | fifopush (w : Slot)
  | fifopop (w : Slot)
  | grstep (w : Slot)
  | gbox (w : Slot)
  | gtri2 (w : Slot)
  | gcurve (w : Slot)
  | gpsplit (w : Slot)
  | gpflat (w : Slot)
  | gtex (w : Slot)
  | gtexl (w : Slot)
  | gpublish (w : Slot)
  | mxdef (w : Slot)
  | mxdefRel (w : Slot)
  | mxcall (w : Slot)
  | mxparm (w : Slot)
  | mxacc (w : Slot)
  | mxzero (w : Slot)
  | kset (w : Slot)
  | kld (w : Slot)
  | cvtF64 (w : Slot)
  | cvtF32 (w : Slot)
  | cvtF16 (w : Slot)
  | cvtBf16 (w : Slot)
  | cvtE4m3 (w : Slot)
  | cvtE5m2 (w : Slot)
  | cvtI32 (w : Slot)
  | cvtI16 (w : Slot)
  | cvtI8 (w : Slot)
  | cvtI4 (w : Slot)
  | cvtUn8 (w : Slot)
  | cvtSrgb8 (w : Slot)
  | cvtB1 (w : Slot)
  | cvtE8m0 (w : Slot)
  | cpack (w : Slot)
  | cunpack (w : Slot)
  | cpy (w : Slot)
  | coll (w : Slot)
  | twait (w : Slot)
  | ttest (w : Slot)
  | tcancel (w : Slot)
  | tdet (w : Slot)
  | trel (w : Slot)
  | tprio (w : Slot)
  | cntwaitMx (w : Slot)
  | cntwaitCp (w : Slot)
  | cntwaitCo (w : Slot)
  | qput (w : Slot)
  | rres (w : Slot)
  | rcommit (w : Slot)
  | rngseed (w : Slot)
  | bra (w : Slot)
  | brcAny (w : Slot)
  | brcAll (w : Slot)
  | brcNone (w : Slot)
  | brcNall (w : Slot)
  | brd (w : Slot)
  | join (w : Slot)
  | call (w : Slot)
  | ret (w : Slot)
  | chk (w : Slot)
  | yield (w : Slot)
  | exit (w : Slot)
  | lfill (w : Slot)
  | bar (w : Slot)
  | barArrive (w : Slot)
  | barWait (w : Slot)
  | barbInit (w : Slot)
  | barbExpect (w : Slot)
  | barbArrive (w : Slot)
  | barbWait (w : Slot)
  | rbrel (w : Slot)
  | rbclaim (w : Slot)
  | trap (w : Slot)
  | rte (w : Slot)
  | rteSkip (w : Slot)
  | bankmode (w : Slot)
  | prpub (w : Slot)
  | posew (w : Slot)
  | tracemark (w : Slot)
  | brk (w : Slot)
  | waitevt (w : Slot)
  | enrd (w : Slot)
  | hSlot (stop : Bool) (gap : BitVec 5) (gw mb : Bool)
  | slAdd
  | slSub
  | slAnd
  | slOr
  | slXor
  | slShl
  | slShr
  | slSar
  | slMin
  | slMax
  | slSlt
  | slSeq
  | slAddi
  | slMovi
  | slMovl
  | slFadd
  | slFsub
  | slFmin
  | slFmax
  | slFslt
  | slF2i
  | slI2f
  | slF2h
  | slH2fl
  | slH2fh
  | slFmul
  | slFfma
  | slFdiv
  | slFrcp
  | slFsqrt
  | slMFadd
  | slMFsub
  | slImul
  | slMMovi
  | slMMovl
  | slLdw
  | slStw
  | slOut
  | slLAdd
  | slLAddi
  | slLMovi
  | slLMovl
  | slSampBl
  | slSampPt
  | slXferA
  | slXferB
  | slXferM
  | slXferL
  | slXferW
  | slXferC
  | slBr
  | slBrnz
  | slBrz
  | slWait
  | slWaitMb
  | slWaitFr
  | slWaitFifo
  | slFetch
  | slOxcall
  | slPose
  | slSys
  | slCMovi
  | slCMovl
  | slCAddi
  | slDone
  | ctxCreate
  | ctxPreempt
  | ctxResume
  | ctxDestroy
  | energyWrite
  | fqlostRead
  | contextSaveComplete
  | asnSweepComplete
  | queueBind
  | queueUnbind
  | queueSuspend
  | queueResume
  | queueReset
  | qdoorWrite
  | qfaultRead
  | nop
  | launch
  | blocklaunch
  | waitmem
  | waitmemSatisfied
  | signal
  | depend
  | indirect
  | present
  | capstart
  | capstop
  | rqconfConfigure
  | rqconfFlush
  | rqconfTearDown
  | successorEnqueue
  | kernelAdmit
  | setBirth
  | kernelCancel
  | bundleIssue
  | resultLand
  | delayWindowClose
  | scaleLatchEffect
  | groupRetire
  | claimGrant
  | watchdog
  | wellspringFill
  | memoryResultLand
  | storePerform
  | clusterCopyExpire
  | congestionSet
  | congestionClear
  | bankModeFenceComplete
  | waitevtWake
  | waitevtLimit
  | childStart
  | copyChunkComplete
  | circuitBeatArrive
  | childComplete
  | childPause
  | pgInvalidate
  | pgInvalidateAll
  | pgResolve
  | pgReject
  | unitQuiesceInvalidate
  | invalidationLimit
  | correctedSoftError
  | rowRemap
  | linkTrain
  | linkDrain
  | linkDown
  | lnkcntRead
  | linkPhyTrained
  | linkPhyTrainFail
  | linkNegotiated
  | slpFlitReceive
  | linkLaneLoss
  | remoteMemoryRequest
  | remoteMemoryResponse
  | collectiveFlitReceive
  | streamFlitReceive
  | routeWrite
  | headStart
  | headStop
  | hmissRead
  | hevtailRead
  | poseCommit
  | mailboxWrite
  | publicationTake
  | headOutputTrained
  | headOutputTrainFail
  | headOutputLost
  | poseLatch
  | sliceStart
  | sliceDeadline
  | sliceOutput
  | fetchComplete
  | tarnCallStart
  | tarnCallComplete
  | slcoreStop
  | slcoreRun
  | slcoreStep
  | slBreakpoint
  | debugCycleStop
  | dbgstatRead
  | issueHold
  | hostReservedAccess
  | registerWrite
  | powerOnReset
  | resetRequest
  | imageUpload
  | ageingUpdate
  | attestationReport
  | outputFifoDrain
  | sampTexelArrival
  | hostMemoryAccess
  deriving DecidableEq, Repr

/-- A move of an agent: a row and its operands. -/
structure Move where
  op : Instr
  args : Args
  deriving DecidableEq, Repr

end Sys2Proof
end

