-- ==== Sys2Proof/Machine/State.lean ====
section
/-! DEFINITION. The state of the module as plain data: everything spec/ gives the machine, and the few fields of the
model's own (the agenda of agents, the open bundle, the open scanline word, the count of free values drawn).
INVENTORY.md, under `State`, lists every field with the rule that names it. Every table is a list of (key, value)
pairs with keys strictly rising and no entry equal to what an unlisted key reads as (`Tbl`, Machine/Tables.lean). -/

namespace Sys2Proof.Machine

/-- A sparse table: keys strictly rising; an unlisted key reads as the table's default. -/
abbrev Tbl (α : Type) := List (Nat × α)

/-- Bytes by address: keys strictly rising; an unlisted address reads as 0 and no entry is 0 (notes/assumptions/1.md). -/
abbrev Memory := List Host.Cell

/-! ## Reasons to stop -/

/-- Why the machine stops. -/
inductive Fault where
  /-- Raised by the meaning of a slot when no bundle is open, or by a scanline slot when no word is open. Safe: the
  spec gives a slot an effect only inside a bundle (R63) or a word (R447), and `step` never runs one outside. -/
  | notIssued
  /-- Raised by a meaning that acts for the open bundle when the sequencer place it names holds no group. Safe: a state
  that no run reaches, since only BUNDLE_ISSUE opens a bundle. -/
  | noGroup
  deriving DecidableEq, Repr

/-- Why the model gives no meaning. -/
inductive Refusal where
  /-- Raised by an arm of `exec` whose instruction has no meaning yet. Safe: nothing is claimed of it. -/
  | notModelled (mnemonic : String)
  deriving DecidableEq, Repr

/-! ## Registers -/

/-- A 32-bit register value with its poison bit (R75). -/
structure PWord where
  val : Word := 0
  poison : Bool := false
  deriving DecidableEq, Repr

/-- A lane predicate: 16 values and 16 poison bits (R75). -/
structure PMask where
  val : LaneMask := 0
  poison : LaneMask := 0
  deriving DecidableEq, Repr

/-- A scalar predicate with its poison bit (R75). -/
structure PBit where
  val : Bool := false
  poison : Bool := false
  deriving DecidableEq, Repr

/-- One register write that a result makes when it lands (R65, R71): a vector lane, a uniform, a lane of a lane
predicate, a scalar predicate, a matrix parameter. -/
inductive RegWrite where
  | v (r : Nat) (lane : Nat) (x : PWord)
  | s (r : Nat) (x : PWord)
  | p (r : Nat) (lane : Nat) (x : PBit)
  | sp (r : Nat) (x : PBit)
  | x (r : Nat) (w : DWord)
  deriving DecidableEq, Repr

/-- A fixed-latency result in flight (R71, R74, R401): the mask and depth of the path that issued it, the ck that remain
and the writes that it makes. It belongs to every path that holds a lane of its mask (R145, R148). -/
structure Result where
  mask : LaneMask
  depth : Nat
  left : Nat
  writes : List RegWrite
  deriving DecidableEq, Repr

/-! ## Divergence -/

/-- A shadow entry (R149): the register (`s(i)` as i, `sp(n)` as 0x8000 + n, as R400 numbers them), its level, value and
poison. -/
structure Shadow where
  reg : Nat
  level : Nat
  val : Word
  poison : Bool
  deriving DecidableEq, Repr

/-- The state of one side of an open region (R146), `opening` until the fork of R145. -/
inductive Side where
  | opening
  | live
  | pending
  | arrived
  | empty
  deriving DecidableEq, Repr

/-- An entry of the divergence stack (R146). -/
structure Region where
  token : Word
  mask0 : LaneMask
  mask1 : LaneMask
  st0 : Side
  st1 : Side
  pc0 : Nat
  pc1 : Nat
  sh0 : List Shadow
  sh1 : List Shadow
  /-- `Path.lastIssue` of a side whose state the entry holds. -/
  last0 : Nat := 0
  last1 : Nat := 0
  /-- `Path.doomed` of a side whose state the entry holds. -/
  doom0 : Option Nat := none
  doom1 : Option Nat := none
  deriving DecidableEq, Repr

/-- An open delay window (R72): bundles that remain, whether the branch was taken, its target, and for a CALL the
first register of the link pair, with bit j set where a later slot of its bundle has written register j of it (R65, R160). -/
structure Window where
  left : Nat
  taken : Bool
  target : Nat
  link : Option (Nat × Nat) := none
  fork : Bool := false
  deriving DecidableEq, Repr

/-- A WAITEVT that waits (R366, R401): the word's physical address, none from an invalidation until it is translated again
(R373, R375), and its virtual address, the bundle, the slot's word and modifier, the comparand and the ck that its limit
leaves (0: no limit), whether the condition held when a write was seen, and how many accesses of the group that wait were made
before it (R398). -/
structure EvtWait where
  pa : Option Nat
  va : Nat
  baddr : Nat
  word : Word
  modw : Word
  comparand : Word
  limit : Nat
  met : Bool := false
  after : Nat := 0
  deriving DecidableEq, Repr

/-- A wait that a committed bundle leaves on its path: BAR on a phase (R361), BARB on a word (R365), the bank-mode fence
(R215), DRAIN (R229), WAITEVT (R366). -/
inductive Wait where
  | bar (phase : Nat)
  | barb (off : Nat) (phase : Nat) (d : Nat)
  | fence (banks : List Nat)
  | drain
  | waitevt (e : EvtWait)
  deriving DecidableEq, Repr

/-- Why a path is parked (R351, R376): a page (its reported address and whether its walk began before the latest
RESOLVE), a child word under construction, or Coop space. -/
inductive Park where
  | page (va : Nat) (slot : Nat) (lanes : LaneMask)
  | build (cw : Nat)
  | coop
  deriving DecidableEq, Repr

/-- What a path slot holds (R146, R400). -/
inductive PathSt where
  | empty
  | live
  | join
  | parked
  | held
  deriving DecidableEq, Repr

/-- One of the two path slots of a group. -/
structure Path where
  st : PathSt := .empty
  depth : Nat := 0
  mask : LaneMask := 0
  pc : Nat := 0
  window : Option Window := none
  waits : List Wait := []
  shadow : List Shadow := []
  parks : List Park := []
  /-- The value of the group's bundle count at the path's last issue; 0 before its first (R136). -/
  lastIssue : Nat := 0
  /-- The blocks of a claim of this path that has been granted and whose bundle has not committed (R142); 0 if none. -/
  granted : Nat := 0
  /-- REJECT has turned a park of the path into a fault at this address, slot and lanes (R378). -/
  rejected : Option (Nat × Nat × LaneMask) := none
  /-- A trap that the path raises on the bundle it would issue next (R215, R383), by its cause code. -/
  doomed : Option Nat := none
  /-- The epoch at which the path's next bundle was last found held (notes/assumptions/2.md). -/
  heldAt : Option Nat := none
  /-- That bundle is held by a counter, token, barrier, FIFO or claim wait (R383). -/
  awaits : Bool := false
  /-- The unheld ck for which the path has stood in a wait that WATCHDOG ends (R358, R383). -/
  held : Nat := 0
  deriving DecidableEq, Repr

/-! ## The group -/

/-- A pending latch write (R73, R399). -/
structure LatchWrite where
  latch : Nat
  val : Word
  left : Nat
  aside : Bool
  deriving DecidableEq, Repr

/-- A lane's Wellspring stream (R44-R46): the queue's words, S, I and the index of the next block to fetch. -/
structure Stream where
  queue : List Word := []
  s : Word := 0
  i : DWord := 0
  next : Word := 0
  deriving DecidableEq, Repr

/-- The lane-fault record (R210). -/
structure LaneFaultRec where
  baddr : Nat := 0
  slot : Nat := 0
  op : Nat := 0
  mask : LaneMask := 0
  causes : DWord := 0
  seq : DWord := 0
  addr : Tbl Nat := []
  deriving DecidableEq, Repr

/-- One lane's access of a memory entry: the lane, its virtual address or pond offset, its physical address or pond
key, and the bytes a write stores. -/
structure LaneAccess where
  lane : Nat
  va : Nat
  pa : Nat
  data : List Byte
  /-- Bits of each byte that the write replaces: all, or the field of a sub-byte element (R223). -/
  mask : Byte := 0xFF
  /-- Bit j: register d + j of the result is not written, since a later slot of the bundle writes it (R65). -/
  drop : Nat := 0
  /-- Its address has been translated: not so of a saved access until RESUME has translated it again (R253, R395). -/
  placed : Bool := true
  deriving DecidableEq, Repr

/-- The operation of an atomic at its home slice (R225, R226), or of GPUBLISH (R353). -/
inductive AtomOp where
  | add
  | minS
  | minU
  | maxS
  | maxU
  | and
  | or
  | xor
  | exch
  | fadd
  | fmin
  | fmax
  | cas
  | publish
  deriving DecidableEq, Repr

/-- What a memory-access entry does (R401). -/
inductive EntryKind where
  /-- A load that has not bound: result width in bits and sign extension; the first destination register. -/
  | load (width : Nat) (signed : Bool) (d : Nat)
  /-- A held write. -/
  | write
  /-- An atomic: its result goes to vector register `d` (to lane predicate `d` for GPUBLISH). -/
  | atomic (op : AtomOp) (d : Nat)
  /-- FENCE (R228). -/
  | fence
  /-- DRAIN (R229): it ends when no write of the group precedes it. -/
  | drain
  deriving DecidableEq, Repr

/-- A memory access that a committed bundle has made and that has not bound or performed (R401). -/
structure MemEntry where
  kind : EntryKind
  /-- The mask of the path that made it; it belongs to every path that holds a lane of it. -/
  mask : LaneMask
  pond : Bool
  size : Nat
  lanes : List LaneAccess
  baddr : Nat
  word : Word
  modw : Word
  scope : Nat
  /-- The access allocates a cluster copy, so a plain load may bind from one (R206, R233). -/
  cached : Bool
  deriving DecidableEq, Repr

/-- A record that a lane holds from LFILL or from birth (R164, R399). -/
structure HeldRec where
  rq : Nat
  idx : Nat
  /-- The configuration of the record queue that delivered it (`RecQueue.gen`). -/
  gen : Nat := 0
  deriving DecidableEq, Repr

/-- A TCANCEL whose child has not ended (R281): the token, the mask and depth of its path, its destination, and whether it
was the one that asked for the cancellation. -/
structure CancelWait where
  token : Word
  mask : LaneMask
  depth : Nat
  d : Nat
  asked : Bool
  deriving DecidableEq, Repr

/-- A resident group (R131, R133, R399). -/
structure Group where
  ctx : Nat := 0
  launch : Word := 0
  gidx : Word := 0
  set : Word := 0
  blocks : Nat := 1
  key : BitVec 128 := 0
  v : Tbl PWord := []
  s : Tbl PWord := []
  p : Tbl PMask := []
  sp : Tbl PBit := []
  x : Tbl DWord := []
  y : Tbl DWord := []
  k : Tbl Word := []
  kpend : List LatchWrite := []
  fflags : Word := 0
  lfault : Word := 0
  epc : DWord := 0
  ecause : Word := 0
  efault : DWord := 0
  cyclehi : Word := 0
  hnd : Bool := false
  /-- The path of the handler, or of the trap that stopped the context. -/
  hndPath : Nat := 0
  asideWin : Option Window := none
  ws : Tbl Stream := []
  lfrec : LaneFaultRec := {}
  p0 : Path := {}
  p1 : Path := {}
  stack : List Region := []
  inflight : List Result := []
  macc : List MemEntry := []
  /-- TCANCELs whose child has not ended (R281). -/
  cancels : List CancelWait := []
  /-- Tokens of the children of each class in creation order that have not left their counter (R268). -/
  mx : List Word := []
  cp : List Word := []
  co : List Word := []
  held : Tbl HeldRec := []
  arr : Bool := false
  ph : Nat := 0
  trapped : Bool := false
  skip : Bool := false
  giveWay : Bool := false
  gap : Nat := 0
  /-- The greatest value that an ENRD of the group has returned (R495). -/
  enrd : Nat := 0
  /-- How many bundles the group has issued (R136). -/
  issued : Nat := 0
  /-- The banks that a bank-mode fence in a bundle with EXIT has taken: they complete without a path that waits (R163, R215). -/
  fences : List Nat := []
  /-- The widest scope of the children of each class that have left their counter (R249, R268). -/
  leftScopes : Tbl Nat := []
  /-- Unheld ck since the last bundle issued, and the passed-over count P (R134). -/
  since : Nat := 0
  passed : Nat := 0
  deriving DecidableEq, Repr

/-! ## The open bundle -/

/-- A register range that a slot reads or writes (R70, R141, R160). -/
inductive RegKind where
  | v
  | s
  | p
  | sp
  | x
  | y
  | latch
  | acc
  deriving DecidableEq, Repr

/-- Registers `first .. first + cnt - 1` of one kind, with whether the slot writes them. -/
structure RegUse where
  kind : RegKind
  first : Nat
  cnt : Nat
  wr : Bool
  deriving DecidableEq, Repr

/-- Where a trap or park record finds its facts (R386): cause code of R383, address, faulting lanes. -/
structure TrapInfo where
  cause : Nat
  addr : Nat := 0
  lanes : LaneMask := 0
  /-- The token operand of a token form. -/
  token : Word := 0
  deriving DecidableEq, Repr

/-- What a child is to do, captured when it is created (R279, R314, R416). -/
structure ChildReq where
  cls : Nat
  pred : Word
  any : Bool
  det : Bool
  scope : Nat
  cache : Nat
  /-- y0..y7 for a copy; the routine descriptor for a matrix child; the eight request words for a collective. -/
  desc : List DWord
  /-- x0..x3 and x7 of a matrix child. -/
  x : List DWord := []
  latch : Word := 0
  rm : Nat := 0
  deriving DecidableEq, Repr

/-- An effect that a slot holds until its bundle commits (R66). Effects act in slot order. -/
inductive Eff where
  /-- Register results that land `lat` ck after issue. -/
  | result (lat : Nat) (ws : List RegWrite)
  /-- A write of a special register (R178). -/
  | special (n : Nat) (w : Word)
  /-- A read of sr.cycle latches sr.cyclehi (R132). -/
  | latchCycle (hi : Word)
  /-- Pops of the Wellspring queues of the lanes (R45). -/
  | popRandom (lanes : LaneMask)
  /-- RNGSEED: the lanes and their stream number and identifiers (R197). -/
  | seed (lanes : LaneMask) (s : Word) (ids : List DWord)
  /-- A scale latch write (R298). -/
  | latch (k : Nat) (w : Word)
  /-- A copy staging register (R279). -/
  | stage (j : Nat) (w : DWord)
  /-- A memory access (R203, R225, R353). -/
  | access (e : MemEntry)
  /-- A FENCE at a scope (R228), and a DRAIN (R229). -/
  | fence (scope : Nat) (drain : Bool)
  /-- PREF of lines (R230). -/
  | prefetch (lines : List Nat)
  /-- A wait that the path enters at commit. -/
  | wait (w : Wait)
  /-- Lane faults of a `.lanefault` slot (R208-R210): mask, causes by lane, addresses by lane. -/
  | laneFault (slot : Nat) (op : Nat) (mask : LaneMask) (causes : DWord) (addr : Tbl Nat)
  /-- A pond FIFO push or pop of a bank (R217). -/
  | fifoPush (bank : Nat) (e : List Word)
  | fifoPop (bank : Nat) (d : Nat) (lanes : LaneMask)
  /-- Creation of a child, its token going to s(d) (R258). -/
  | child (d : Nat) (r : ChildReq)
  /-- TCANCEL: the child of the token, status to s(d) when it has ended (R281). -/
  | tcancel (d : Nat) (tok : Word)
  /-- An acquire by the path at a scope (R245, R249). -/
  | acquire (scope : Nat)
  /-- The entry of a child is freed by a report or TREL; a child is detached, given up, or has its priority set. -/
  | childFree (key : Nat)
  | childDetach (key : Nat)
  | childGiveUp (key : Nat)
  | childPrio (key : Nat) (prio : Nat)
  | childReported (key : Nat)
  /-- QPUT, RRES and RCOMMIT, which act after commit (R113). -/
  | qput (spd : Nat) (q : Nat) (words : List Word)
  | rres (d : Nat) (spb : Nat) (rq n : Nat)
  | rcommit (rq n : Nat) (first : Word)
  /-- A delay window opens (R72). -/
  | window (w : Window)
  /-- A region opens (R144, R145). -/
  | openRegion (tok : Word) (m0 m1 : LaneMask) (target : Nat)
  | join (tok : Word)
  | exitPath
  | yield
  | lfill (d : Nat) (p : Nat) (rq : Nat)
  /-- A routine-table entry is filled or freed (R313). -/
  | routine (i : Nat) (desc : List DWord)
  | routineFree (i : Nat)
  /-- Tiles claimed and zeroed, or released (R317); elements of a tile written (R316). -/
  | tilesZero (t n : Nat)
  | tilesFree (t n : Nat)
  | tileWrite (t : Nat) (elems : List (Nat × Word))
  | barArrive
  | barbOp (mode : Nat) (off : Nat) (x : Nat) (d : Nat)
  | blocksRel (n : Nat)
  | blocksClaim (n : Nat)
  | bankMode (bank : Nat) (mode : Nat)
  | bankFence
  | publish (heads : Nat) (va : Nat) (spd : Nat)
  | poseWrite (head : Nat) (words : List Word) (spd : Nat)
  | mark (v : Word)
  /-- RTE (R392): sr.epchi : sr.epc and sr.ecause.LEN as the bundle read them. -/
  | rte (target len : Nat) (skip : Bool)
  /-- The layout unit keeps a descriptor it has read (R220). -/
  | keep (t : Nat) (desc : List DWord)
  | enrd (d : Nat)
  | hint (gap : Nat) (gw : Bool)
  /-- A memory-trace record of the bundle's M slot (R488). -/
  | trace (word : Word) (lf : Bool) (lanes : List (Nat × Nat))
  deriving DecidableEq, Repr

/-- The open bundle: one that the picker has chosen and whose slots are being taken in order (R63, R66). Registers keep
their values until it commits. -/
structure Issue where
  loc : Nat
  path : Nat
  baddr : Nat
  /-- The words not yet taken, and the position of the first of them. -/
  words : List Word
  idx : Nat
  len : Nat
  /-- One more than the class of the last slot taken; 0 before the first. -/
  above : Nat
  /-- The effects of the slots taken, in order, with their slots' positions. -/
  effs : List (Nat × Eff)
  flags : BitVec 6
  uses : List RegUse
  /-- Energy of the bundle's slots in pJ, charged when it issues (R494). -/
  cost : Nat := 0
  /-- The bundle is memory-bound (R138). -/
  mb : Bool := false
  /-- The slot position and the lanes at which an uncorrectable soft error meets what the bundle reads (R383 code 13). -/
  soft : Option (Nat × LaneMask) := none
  deriving DecidableEq, Repr

/-! ## Cores, clusters and sequencers -/

/-- An entry of a core's routine table (R287). -/
structure RoutineEntry where
  /-- Sequencer place of the holding group. -/
  holder : Nat
  desc : List DWord
  deriving DecidableEq, Repr

/-- Who holds an accumulator tile (R286). -/
inductive TileHolder where
  | free
  | group (loc : Nat)
  | child (key : Nat)
  deriving DecidableEq, Repr

/-- A core (R12, R254, R287): its ck counter, what the child table hands out next, the generations, the routine table's
holders and descriptors, and who holds each tile and its XFLAGS. -/
structure Core where
  ck : Nat := 0
  /-- The sequencers below this number have had their turn in the present ck (R14, R134): those of one ck issue lowest
  number first. -/
  turn : Nat := 0
  /-- Child-table entries freed and not yet taken again, oldest first, and the entries never taken (R255). -/
  freed : List Nat := []
  fresh : Nat := 0
  gens : Tbl Nat := []
  routines : Tbl (Option RoutineEntry) := []
  tiles : Tbl TileHolder := []
  xflags : Tbl (BitVec 5) := []
  /-- For the contexts with groups here, values that their energy counter has reached, and how many unheld ck ago at least (R495):
  context, value, ck. -/
  energy : List (Nat × Nat × Nat) := []
  deriving DecidableEq, Repr

/-- A claim that waits (R142): the path's place, its blocks, and the bundle's slot position and length. -/
structure Claim where
  loc : Nat
  path : Nat
  n : Nat
  slot : Nat
  len : Nat
  deriving DecidableEq, Repr

/-- A sequencer (R134-R142): the active set, waiting claims in order, and the admitted sets of R138. -/
structure Seq where
  active : List Nat := []
  claims : List Claim := []
  admitted : List Nat := []
  deriving DecidableEq, Repr

/-- A pond bank of a cluster (R211-R217). -/
structure Bank where
  /-- 0 cache, 1 scratchpad, 2 FIFO. -/
  mode : Nat := 0
  pending : Option Nat := none
  /-- The mode that a bank-mode fence has taken for the bank, until the fence completes (R215). -/
  fencing : Option Nat := none
  fifo : List (List Word) := []
  /-- The set that the bank is allocated to: context, launch number, set index. -/
  owner : Option (Nat × Nat × Nat) := none
  deriving DecidableEq, Repr

/-- An agent (R239): a path of a group, by sequencer place and slot; a child, by its entry; the queue engine, which stands
for every engine of the hub die but Tarn; Tarn; a core of the host complex; and the agents of another module, by its
MODID. -/
inductive Agent where
  | path (loc : Nat) (p : Nat)
  | child (key : Nat)
  | queue
  | tarn
  | host (core : Nat)
  | elsewhere (modid : Nat)
  deriving DecidableEq, Repr

/-- A cluster copy of a line (R233): the bytes as they were when it was filled. -/
structure LineCopy where
  cluster : Nat
  line : Nat
  bytes : Memory
  /-- The ck of each of the cluster's four cores when it was filled. -/
  filled : List Nat
  /-- The agents that have written the line since, and those that have read or acquired such a write (R245, R246). -/
  seen : List Agent := []
  deriving DecidableEq, Repr

/-- A placed set (R119, R120, R355, R359). -/
structure SetRec where
  ctx : Nat
  launch : Nat
  k : Nat
  cluster : Nat
  banks : List Nat
  /-- Core of the set's group 0 (R124). -/
  core0 : Nat
  barrier : Bool
  live : LaneMask
  arrived : LaneMask
  phase : Nat
  /-- SETSIZE of its kernel: group g is at position g mod SETSIZE. -/
  size : Nat
  deriving DecidableEq, Repr

/-! ## Children -/

/-- The states of a child (R258). -/
inductive ChildSt where
  | waiting
  | issued
  | running
  | paused (before : Nat)
  | complete
  | faulted
  | cancelled
  deriving DecidableEq, Repr

/-- An entry of a child table in use (R257-R268). -/
structure Child where
  gen : Nat
  ctx : Nat
  launch : Word
  gidx : Word
  /-- Set of the creating group, whose pond the child reaches. -/
  set : Word
  /-- The kernel owns the child now (R263). -/
  adopted : Bool
  cls : Nat
  st : ChildSt
  req : ChildReq
  prio : Nat
  maxPrio : Nat
  /-- Position in the order of creation. -/
  order : Nat
  attached : Bool
  givenUp : Bool
  onOrphan : Option Nat
  baddr : Nat
  slot : Nat
  cursor : DWord
  /-- Cause, address and detail of its record (R264). -/
  cause : Nat
  addr : Nat
  detail : DWord
  empty : Bool
  reported : Bool
  /-- A cancellation that takes effect at the next pause point, by its cause code (R258, R269). -/
  cancel : Option Nat
  /-- The stop of the context has reached the engine (R269). -/
  stop : Bool
  /-- The address and access code of a park (R267). -/
  parkedAt : Option (Nat × Nat)
  /-- What remote reads of the chunk under way have returned, in order (R411). -/
  got : List Byte := []
  /-- The ranks on other modules to which flits are out whose credits have not come back, one for each (R418). -/
  owing : List Nat := []
  /-- Remote pieces of the chunk under way have been asked for, and their writes have been sent. -/
  asked : Bool := false
  sent : Bool := false
  /-- The engine has read and checked what the child needs; until then its start is still to be made (R261, R267). -/
  begun : Bool := false
  /-- Instance number, and chunks of a collective received (R413, R419). -/
  inst : Nat
  /-- Beats of the chunk under way on a circuit (R277). -/
  beats : Nat
  /-- The Wellspring key of its launch (R305). -/
  key : BitVec 128 := 0
  /-- The window that captures its kernel (R486): its descriptor's address and its queue. -/
  capture : Option (Nat × Nat) := none
  deriving DecidableEq, Repr

/-! ## Contexts -/

/-- The states of a context (R85, R89). -/
inductive CtxSt where
  | free
  | created
  | runnable
  | resident
  | preempting
  | saved
  | faulted
  | destroyed
  deriving DecidableEq, Repr

/-- A batch that a record queue delivers to a consumer launch (R111): the queue of its packet and the packet's index
there, the record queue and its configuration, the first index, and each record's address (none for a void one). -/
structure RecBatch where
  tq : Nat
  pkt : Nat := 0
  rq : Nat
  gen : Nat
  first : Nat
  addrs : List (Option Nat)
  deriving DecidableEq, Repr

/-- A record queue (R109-R112). -/
structure RecQueue where
  /-- Which of the context's configurations of record queues this is. -/
  gen : Nat := 0
  pool : Nat
  psize : Nat
  rsize : Nat
  batch : Nat
  cons : Nat
  tq : Nat
  /-- Next index to reserve, index of the next record to deliver, index of the oldest unfreed record (not modulo 2^32). -/
  next : Nat
  deliver : Nat
  oldest : Nat
  /-- Outstanding reservations: first index, count, and the group that made it (launch number, group index). -/
  res : List (Nat × Nat × Word × Word)
  /-- Indices committed and not delivered, void and not delivered, delivered to LFILL or a batch and not freed. -/
  committed : List Nat
  void : List Nat
  out : List Nat
  freedRecs : List Nat
  flushing : Bool
  deriving DecidableEq, Repr

/-- A context (R82, R85, R130, R374, R492): the descriptor's copy, the control registers, and the model's account of
the work that it owns. -/
structure Context where
  st : CtxSt := .free
  err : Nat := 0
  busy : Bool := false
  asn : Nat := 0
  retiring : Bool := false
  root : Nat := 0
  ttbase : Nat := 0
  ttcount : Nat := 0
  handler : Nat := 0
  tp : Nat := 0
  fqbase : Nat := 0
  fqlog : Nat := 0
  olbase : Nat := 0
  ollog : Nat := 0
  sabase : Nat := 0
  sasize : Nat := 0
  maxres : Nat := 0
  priomax : Nat := 0
  ec : Nat := 0
  /-- The counter as of the last save, or as last written (R87). -/
  ecSaved : Nat := 0
  /-- Energy remainder in pJ (R494). -/
  ecrem : Nat := 0
  mblimit : Nat := 0
  fqhead : Word := 0
  fqtail : Word := 0
  fqlost : Word := 0
  orphans : Nat := 0
  nextLaunch : Word := 0
  saveSeq : DWord := 0
  faulting : Bool := false
  /-- A trap's stop found the save area too small (R394). -/
  unsaved : Bool := false
  /-- The command whose effect the stop completes: 2 PREEMPT, 4 DESTROY, 0 a trap or a debug stop. -/
  stopFor : Nat := 0
  /-- The cores that the stop of a pre-empting context has reached (R393): their sequencers issue nothing of it any more. -/
  stopped : List Nat := []
  /-- Trap records that wait for their groups' places in the save (R386): the group's place and the record without IV and
  IMAGE, in the order of the traps. -/
  trapRecs : List (Nat × List Byte) := []
  /-- The save area holds an image to re-inject. -/
  imaged : Bool := false
  /-- Places in the save area of the set records that RESUME has still to re-inject (R395). -/
  restore : List Nat := []
  /-- The saved groups and the records that their lanes hold (R110, R112): launch number, group index, records. -/
  savedHeld : List (Word × Word × Tbl HeldRec) := []
  /-- The counters of the saved groups (R268): launch number, group index, class and the tokens not yet left. -/
  counters : List (Word × Word × Nat × List Word) := []
  kerr : Nat := 0
  kbusy : Bool := false
  kcancel : Word := 0
  pgva : DWord := 0
  pgcnt : DWord := 0
  pgerr : Nat := 0
  pgbusy : Bool := false
  resolves : Nat := 0
  reports : DWord := 0
  dbgctl : DWord := 0
  dbgcyc : DWord := 0
  dbghit : Bool := false
  rqs : Tbl (Option RecQueue) := []
  /-- Record-queue configurations made so far, and the batches sent whose launches have not started (R109, R111). -/
  rqConfs : Nat := 0
  batches : List RecBatch := []
  /-- Tensor descriptors that the layout units keep (R220): number and doublewords. -/
  kept : Tbl (List DWord) := []
  deriving DecidableEq, Repr

/-! ## Queues and kernels -/

/-- The states of a kernel (R127). -/
inductive KernelSt where
  | admitted
  | dispatching
  | running
  | draining
  | faulting
  | cancelling
  deriving DecidableEq, Repr

/-- A circuit of a kernel's table (R124). -/
structure Circuit where
  delta : Int
  slot : Nat
  nslot : Nat
  deriving DecidableEq, Repr

/-- A kernel that has been admitted and has not ended (R117, R119, R127). -/
structure Kernel where
  ctx : Nat
  launch : Word
  queue : Nat
  pkt : Word
  tag : Word
  /-- Address of its launch descriptor, as its fault records name it. -/
  desc : Nat
  entry : Nat
  groups : Nat
  pondb : Nat
  blocks : Nat
  orph : Nat
  cores : Bool
  setsize : Nat
  circ : List Circuit
  key : BitVec 128
  diemask : BitVec 8
  done : Nat
  arg : DWord
  /-- The block list of a BLOCKLAUNCH (R335). -/
  list : Option Nat
  st : KernelSt
  nextSet : Nat
  /-- Groups born and not retired or discarded. -/
  live : Nat
  prio : Nat
  capture : Option Nat
  /-- The record-queue batch that it consumes (R111). -/
  rqBatch : Option RecBatch
  /-- What is reserved for its sets, from set 0 up: every set of a co-resident launch, the first of any other (R122, R123,
  R127): each one's cluster and its groups' sequencers there. -/
  reserved : List (Nat × List Nat)
  deriving DecidableEq, Repr

/-- The states of a queue (R95, R99). -/
inductive QueueSt where
  | unbound
  | idle
  | runnable
  | dispatching
  | blocked
  | suspended
  | faulted
  | drained
  deriving DecidableEq, Repr

/-- Why a queue is blocked (R99): ORD; a WAITMEM on a doubleword, whose physical address is none from an invalidation until
it is translated again; a launch that does not fit; a page fault of the engine. -/
inductive BlockedOn where
  | order
  | waitmem (pa : Option Nat) (va cond value mask : Nat) (met : Bool)
  | capacity
  | page (va : Nat)
  deriving DecidableEq, Repr

/-- A queue (R95, R97, R99, R105, R486). -/
structure Queue where
  qbase : DWord := 0
  qctl : DWord := 0
  base : Nat := 0
  log : Nat := 0
  ctx : Nat := 0
  dev : Bool := false
  prio : Nat := 0
  st : QueueSt := .unbound
  err : Nat := 0
  head : Word := 0
  tail : Word := 0
  out : Nat := 0
  faultIdx : Word := 0
  faultCode : Nat := 0
  /-- The fault is of the packet at HEAD, so RESET skips it (R99). -/
  faultAtHead : Bool := false
  /-- The state that SUSPEND or a stop left, and whether software asked for it. -/
  left : QueueSt := .idle
  bySoftware : Bool := false
  on : Option BlockedOn := none
  /-- The packet in dispatch, which the engine has read (R98). -/
  pkt : Option Packet := none
  /-- What the engine has read and checked of a launch's structures, and the circuit table still to be read (R117, R118). -/
  draft : Option (Kernel × Nat) := none
  /-- When the launch in dispatch was first found not to fit (R123), by the count of moves. -/
  waited : Option Nat := none
  /-- The rest of an INDIRECT packet's array: its virtual address and packets left (R105). -/
  ind : Option (Nat × Nat) := none
  /-- The launch of the packet in dispatch, checked and not yet admitted (R118, R127). -/
  launch : Option Kernel := none
  /-- The launch number of the kernel whose sets are still being born, which holds the queue in dispatching (R122). -/
  birthing : Option Word := none
  /-- The open capture window's descriptor address (R486). -/
  capture : Option Nat := none
  deriving DecidableEq, Repr

/-- What the queue engine still owes: a decrement, a successor or a consumer launch that waits for a page or for room
(R107, R108, R111, R128). -/
inductive Owed where
  /-- The DONE decrement of an ended kernel: context, counter, queue, packet index, tag. -/
  | decrement (ctx : Nat) (ctr : Nat) (queue : Nat) (pkt : Word) (tag : Word)
  /-- A successor: context, counter, block, target queue, packets. -/
  | successor (ctx : Nat) (ctr : Nat) (succ : Nat) (tq : Nat) (n : Nat)
  /-- A successor that has been read: context, counter, target queue, the bytes of the packets still to be appended, and whether
  some have been appended. -/
  | packets (ctx : Nat) (ctr : Nat) (tq : Nat) (bytes : List Byte) (begun : Bool)
  /-- A consumer launch of a record queue: context, descriptor, batch (R111). -/
  | batch (ctx : Nat) (cons : Nat) (b : RecBatch)
  deriving DecidableEq, Repr

/-- Something owed, and the address of the page that it waits for. -/
structure Owing where
  what : Owed
  page : Option Nat
  deriving DecidableEq, Repr

/-- A context-wide invalidation in progress: the units that have not acknowledged (R373, R375). -/
structure Invalidation where
  ctx : Nat
  asn : Nat
  /-- First 64 KiB page and count; none for every entry of the ASN. -/
  range : Option (Nat × Nat)
  units : List TUnit
  /-- Units that start no new translation of the ASN (R373). -/
  blockedUnits : List TUnit
  /-- The retirement sweep of a destroyed context (R92). -/
  sweep : Bool
  deriving DecidableEq, Repr

/-- A cached translation (R371): its unit, ASN, page number and size in bits, and the leaf. Walk-cache entries hold a
level and a table address. -/
structure TlbEntry where
  tunit : TUnit
  asn : Nat
  /-- Virtual address of the page or of the range that a table entry covers. -/
  va : Nat
  bits : Nat
  /-- The entry's value, and for a leaf the address it was read at. -/
  pte : DWord
  at_ : Nat
  deriving DecidableEq, Repr

/-! ## Links -/

/-- The states of a link (R402, R403). -/
inductive LinkSt where
  | down
  | training
  | negotiating
  | up
  | draining
  | stopped
  | error
  deriving DecidableEq, Repr

/-- Who reaches another module's memory (R411): a child of this module, by its entry, or a host core. -/
inductive Asker where
  | child (key : Nat)
  | host (core : Nat)
  deriving DecidableEq, Repr

/-- What ends when a flit is lost (R408): a child, or whoever made a remote request. -/
inductive FlitOwner where
  | child (key : Nat)
  | request (tag : BitVec 24)
  deriving DecidableEq, Repr

/-- An unacknowledged flit (R403, R406): its sequence number, what it belongs to, its bytes, and how often it has been resent. -/
structure SentFlit where
  seq : Nat
  owner : Option FlitOwner
  bytes : List Byte
  resent : Nat := 0
  deriving DecidableEq, Repr

/-- A link (R402-R406): registers, and the flits sent and not acknowledged. -/
structure Link where
  st : LinkSt := .down
  err : Nat := 0
  busy : Bool := false
  peer : Nat := 0
  slpver : Nat := 0
  replayCnt : Word := 0
  crcerr : Word := 0
  txseq : Half := 0
  rxseq : Half := 0
  /-- The versions of the queue packet format, the save image and the trace record that negotiation took (R404). -/
  vers : List Nat := []
  /-- Unacknowledged flits, oldest first. -/
  sent : List SentFlit := []
  /-- Flits that wait, since 4,096 are unacknowledged (R406), oldest first. -/
  waiting : List (Option FlitOwner × List Byte) := []
  /-- Failed retrains of a die link (R403). -/
  retrains : Nat := 0
  deriving DecidableEq, Repr

/-- A remote request that has been sent and that is not answered (R411), by its number: who made it, where, whether it
writes, and what a read of a child has returned while others of its chunk are still out. -/
structure RemotePending where
  tag : BitVec 24
  asker : Asker
  modid : Nat
  off : Nat
  len : Nat
  wr : Bool
  /-- The answer brings a datum. -/
  rd : Bool
  /-- The datum is acquired at system scope: an AMO with .aq (R252). -/
  acq : Bool := false
  data : Option (List Byte) := none
  deriving DecidableEq, Repr

/-! ## Tarn -/

/-- The states of a head (R426, R429). -/
inductive HeadSt where
  | idle
  | starting
  | active
  | stopping
  | error
  deriving DecidableEq, Repr

/-- A published frame as Tarn has read it (R423, R424), with the count of publications that tells it apart. -/
structure Frame where
  id : Nat
  tc : Nat
  tz : Nat
  tmv : Nat
  /-- EXT1 and EXT2 of its tensors. -/
  ext1 : Nat
  ext2 : Nat
  frameid : Word
  pose : List DWord
  deriving DecidableEq, Repr

/-- How a slice of a scan-out frame stands (R422, R434, R450): latched; started and waiting for a free scanline context;
running on a core and context; its program failed or none was started, so that the fallback is due; complete. -/
inductive SliceSt where
  | latched
  | started
  | running (core : Nat) (k : Nat)
  | fallback
  | complete
  deriving DecidableEq, Repr

/-- A pixel as the scanout buffer holds it: R, G, B, A as binary16 (R457). -/
structure Pixel where
  r : Half
  g : Half
  b : Half
  a : Half
  deriving DecidableEq, Repr

/-- A slice that has been latched and not yet output: its state, the frame in use for it, its output pose and its pixels. -/
structure Slice where
  st : SliceSt := .latched
  frame : Option Frame := none
  pose : List DWord := []
  pixels : List Pixel := []
  deriving DecidableEq, Repr

/-- A head (R426-R439). Slices are counted from the head's entry into active: with S slices to a scan-out frame, slice j
of frame k is number k S + j. -/
structure Head where
  st : HeadSt := .idle
  err : Nat := 0
  busy : Bool := false
  /-- The descriptor's copy (R427), as doublewords. -/
  desc : List DWord := []
  miss : Word := 0
  pub : Word := 0
  frame : Word := 0
  evq : DWord := 0
  evhead : Word := 0
  evtail : Word := 0
  evlost : Word := 0
  staged : Tbl DWord := []
  /-- The mailbox, newest first, at most 8 entries; whether it has been written since the last latch (R432, R433). -/
  mailbox : List (List DWord) := []
  fresh : Bool := false
  /-- Pose writes on their way: from POSECMD and POSEW, in order. -/
  poseIn : List (List DWord) := []
  /-- Publications on their way: context and frame descriptor address. -/
  pubIn : List (Nat × Nat) := []
  pendingFrame : Option Frame := none
  inUse : Option Frame := none
  /-- Frames superseded and not yet retired. -/
  retiringFrames : List Frame := []
  /-- The latched pose of the slice latched last (R433). -/
  lastPose : List DWord := []
  /-- The numbers of the slices whose latch, start line, deadline and output come next. -/
  nextLatch : Nat := 0
  nextStart : Nat := 0
  nextDeadline : Nat := 0
  nextOutput : Nat := 0
  slices : Tbl Slice := []
  /-- Output poses by slice number, and which slices stand in their history tensor (R435, R436). -/
  outPoses : Tbl (List DWord) := []
  written : Tbl Bool := []
  /-- Lines since the head entered active, of which VTOTAL precede line 0 of frame 0; HSTAT's LINE follows from it. -/
  beam : Nat := 0
  /-- When the head entered active, in fs on the clock that all heads share (notes/assumptions/2.md). -/
  since : Nat := 0
  /-- The stream slices sent and not counted as dropped, newest first: frame, slice, SEQ of the output pose, FRAMEID (R422). -/
  shipped : List (Nat × Nat × Nat × Nat) := []
  /-- The encoded components of the slice that was sent last, R, G and B of each pixel in order (R437). -/
  sentSlice : List Nat := []
  deriving DecidableEq, Repr

/-- What the receiver of a head's stream has of the slice under way (R420, R421): frame, slice, the next offset, whether a
flit of it was lost, and its bytes; and the bytes of the slice it completed last. -/
structure StreamRx where
  frame : Word := 0
  slice : Nat := 0
  next : Nat := 0
  lost : Bool := false
  data : List Byte := []
  shown : List Byte := []
  deriving DecidableEq, Repr

/-- A scanline result in flight (R447, R467): file, register, words that remain, slot, value, all in landing order. -/
structure SlResult where
  file : Nat
  reg : Nat
  remain : Nat
  slot : Nat
  val : Word
  deriving DecidableEq, Repr

/-- The states of a scanline context (R450). -/
inductive SlSt where
  | free
  | ready
  | current
  | waiting
  deriving DecidableEq, Repr

/-- An Oxbow call entry of a scanline context (R465). -/
structure TarnCall where
  gen : Nat := 1
  /-- 0 free, 1 issued, 2 running, 3 ended complete, 4 ended faulted, 5 ended cancelled, 6 running and to be cancelled. -/
  st : Nat := 0
  addr : Nat := 0
  order : Nat := 0
  /-- The address of the word whose OXCALL created it, and that slot's position. -/
  word : Nat := 0
  pos : Nat := 0
  cause : Nat := 0
  /-- The faulting address, the cursor and the detail of its record (R264). -/
  fault : Nat := 0
  cursor : DWord := 0
  detail : DWord := 0
  /-- The call block, once read: the routine descriptor and x0..x3; then the doublewords of its tensors. -/
  block : List DWord := []
  deriving DecidableEq, Repr

/-- A FETCH in the background (R462): line-store offset and the bytes it copies. -/
structure SlFetch where
  off : Nat
  data : List Byte
  deriving DecidableEq, Repr

/-- A scanline context (R446-R451, R457). `slice` is the slice's number in its head. -/
structure SlContext where
  st : SlSt := .free
  waitMode : Nat := 0
  waitReg : Nat := 0
  head : Nat := 0
  slice : Nat := 0
  pc : Nat := 0
  /-- The six files: register n of file f at key 32 f + n. -/
  regs : Tbl Word := []
  inflight : List SlResult := []
  pushed : Nat := 0
  /-- The output FIFO, oldest pixel first. -/
  fifo : List Pixel := []
  fetches : List SlFetch := []
  calls : Tbl TarnCall := []
  faultedCalls : Nat := 0
  /-- Its record has been dumped since the context was taken, so RUN reads it back (R467). -/
  dumped : Bool := false
  deriving DecidableEq, Repr

/-- A scanline core (R444, R449, R450, R466). -/
structure SlCore where
  ctxs : Tbl SlContext := []
  /-- The core is held for texels of a SAMP (R449). -/
  sampHeld : Bool := false
  stopped : Bool := false
  err : Nat := 0
  busy : Bool := false
  dump : Nat := 0
  brk : DWord := 0
  stepping : Bool := false
  /-- A freeze that waits for the end of a hold (R467). -/
  freezing : Bool := false
  deriving DecidableEq, Repr

/-- The open scanline word (R447): core, context, word address, word, and the next slot position. -/
structure SlIssue where
  core : Nat
  k : Nat
  addr : Nat
  word : BitVec 128
  pos : Nat
  /-- The next word's address as the slots taken so far leave it. -/
  next : Nat
  results : List SlResult
  deriving DecidableEq, Repr

/-! ## Capture, security and health -/

/-- An open or shared capture window by its descriptor (R485-R488). -/
structure Capture where
  ctx : Nat
  capd : Nat
  flags : Nat
  tbuf : Nat
  tlog : Nat
  hbuf : Nat
  hlog : Nat
  tnext : Word
  tlost : Word
  hused : Word
  hlost : Word
  deriving DecidableEq, Repr

/-- The module configuration flash and the secure element (R496-R501). -/
structure Boot where
  /-- 0 start-up, 1 test, 2 recovery, 3 operation (R499). -/
  mode : Nat := 0
  slot : Bool := false
  bootErr : Nat := 0
  linkErr : Half := 0
  /-- Slot images: firmware and configuration of A and of B. -/
  fwA : Option Image := none
  cfgA : Option Image := none
  fwB : Option Image := none
  cfgB : Option Image := none
  /-- The secure element: vendor root public key (x, y), minimum SVN, present. -/
  rootKey : Option (Nat × Nat) := none
  minSvn : Nat := 0
  /-- AGEn, n in 0..8 (R500). -/
  ages : Tbl DWord := []
  ageThreshold : Nat := 0
  /-- The images booted, as attestation measures them (R501): the firmware, and the configuration unless it was rejected. -/
  booted : Option (Image × Option Image) := none
  /-- The mode that step 5 of the boot enters, once the die links have ended their training (R496). -/
  coming : Option Nat := none
  attBuf : Nat := 0
  attErr : Nat := 0
  attBusy : Bool := false
  /-- Interrupts that the host complex has been sent (R102), and the access faults that its cores have taken (R22). -/
  irqs : Nat := 0
  hostFaults : List (Nat × HostKind) := []
  deriving DecidableEq, Repr

/-- SRAM repair (R380-R382). -/
structure Repair where
  /-- Withdrawn slices of die n; withdrawn banks of module cluster c; withdrawn line-store banks; rows mapped to spares of
  die n. -/
  l2w : Tbl (BitVec 48) := []
  pondw : Tbl Word := []
  linew : DWord := 0
  remap : Tbl Word := []
  /-- Rows with a corrected soft error, or that failed their test, that stand in no spare; and rows that do. -/
  marked : List (Sram × Nat) := []
  mapped : List (Sram × Nat) := []
  deriving DecidableEq, Repr

/-! ## The machine -/

/-- The module. -/
structure State where
  /-- The agents' next moves (notes/assumptions/2.md): what the host complex, the fabric and the engines do next. -/
  agenda : List Move
  /-- The operands of the move under way: what stands at the register port, in the packet buffer or in the receive buffer
  of the agent whose move it is. -/
  args : Args
  cur : Option Issue
  slw : Option SlIssue
  /-- How many free values have been drawn (notes/assumptions/3.md). -/
  freeCtr : Nat
  /-- Counts what agents have done since reset, bundles found held apart (notes/assumptions/2.md). -/
  epoch : Nat
  /-- What the last device-register or memory read of the host complex returned. -/
  hostData : DWord
  mem : Memory
  pond : Memory
  lineStore : Memory
  acc : Tbl Word
  tarnAcc : Tbl Word
  tarnXflags : Tbl (BitVec 5)
  copies : List LineCopy
  tlb : List TlbEntry
  ctxs : Tbl Context
  queues : Tbl Queue
  lastServed : Tbl Nat
  kernels : List Kernel
  sets : List SetRec
  lastCluster : Nat
  groups : Tbl (Option Group)
  cores : Tbl Core
  seqs : Tbl Seq
  banks : Tbl Bank
  children : Tbl (Option Child)
  childOrder : Nat
  owed : List Owing
  invals : List Invalidation
  congested : BitVec 8
  links : Tbl Link
  modid : Nat
  routes : Tbl Half
  expBase : Tbl DWord
  expCtl : Tbl DWord
  remotes : List RemotePending
  /-- How many remote requests have been made: their numbers. -/
  remoteCtr : Nat
  /-- Collective chunks received for a context: (context, flit) in order of arrival (R419). -/
  collIn : List CollFlit
  heads : Tbl Head
  streams : Tbl StreamRx
  slcores : Tbl SlCore
  tarnRun : Option (Nat × Nat × Nat)
  captures : List Capture
  energyWeights : Tbl DWord
  /-- How many free values capture has drawn (R484): a count of its own, so that a window changes no other value. -/
  captureCtr : Nat
  boot : Boot
  repair : Repair
  deriving DecidableEq, Repr

/-- The module right after reset: no context, queue, kernel or group; nothing written in memory; every register at the
reset value that its table gives. The values that the spec leaves open are named in notes/assumptions/1.md and
notes/assumptions/5.md. -/
def State.reset : State :=
  { agenda := [], args := {}, cur := none, slw := none, freeCtr := 0, epoch := 0, hostData := 0, mem := [], pond := []
    lineStore := [], acc := [], tarnAcc := [], tarnXflags := [], copies := [], tlb := [], ctxs := [], queues := []
    lastServed := [], kernels := [], sets := [], lastCluster := 63, groups := [], cores := [], seqs := [], banks := []
    children := [], childOrder := 0, owed := [], invals := [], congested := 0, links := [], modid := 0, routes := []
    expBase := [], expCtl := [], remotes := [], remoteCtr := 0, collIn := [], heads := [], streams := [], slcores := [], tarnRun := none, captures := []
    energyWeights := [], captureCtr := 0
    boot := { fwA := Config.flash 0, cfgA := Config.flash 1, fwB := Config.flash 2, cfgB := Config.flash 3
              rootKey := Config.rootKey, minSvn := Config.minSvn }
    repair := {} }

end Sys2Proof.Machine
end

