-- ==== Sys2Proof/Machine/Tables.lean ====
section
/-! DEFINITION. The tables and byte memories of State: reading, writing and the canonical form (keys strictly rising, no
entry that equals the default), and bit fields of numbers. Multi-byte values are little-endian (spec/00_scope.md R3). -/

namespace Sys2Proof.Machine

/-! ## Tables -/

/-- The value at a key; the default where the key is not listed. -/
def tget {α : Type} (d : α) : Tbl α → Nat → α
  | [], _ => d
  | (k', v) :: t, k => if k' = k then v else if k < k' then d else tget d t k

/-- Sets the value at a key, keeping the canonical form. -/
def tput {α : Type} [DecidableEq α] (d : α) : Tbl α → Nat → α → Tbl α
  | [], k, v => if v = d then [] else [(k, v)]
  | (k', w) :: t, k, v =>
    if k' = k then (if v = d then t else (k, v) :: t)
    else if k < k' then (if v = d then (k', w) :: t else (k, v) :: (k', w) :: t)
    else (k', w) :: tput d t k v

/-- Removes every entry whose key lies in `a .. a + n - 1`. -/
def tclear {α : Type} (t : Tbl α) (a n : Nat) : Tbl α :=
  t.filter fun c => !(decide (a ≤ c.1) && decide (c.1 < a + n))

/-- The canonical form: keys strictly rising and no entry equal to the default. -/
def tblWf {α : Type} [DecidableEq α] (d : α) : Tbl α → Bool
  | [] => true
  | [(_, v)] => decide (v ≠ d)
  | (k, v) :: (k', v') :: t => decide (v ≠ d) && decide (k < k') && tblWf d ((k', v') :: t)

/-! ## Byte memories -/

/-- The byte at an address. -/
def mget (m : Memory) (a : Nat) : Byte := tget (0 : Byte) m a

/-- Stores a byte. -/
def mput (m : Memory) (a : Nat) (b : Byte) : Memory := tput (0 : Byte) m a b

/-- The canonical form of a memory. -/
def Memory.wf (m : Memory) : Bool := tblWf (0 : Byte) m

/-- `n` bytes from an address upward. -/
def mread (m : Memory) (a : Nat) : Nat → List Byte
  | 0 => []
  | n + 1 => mget m a :: mread m (a + 1) n

/-- Stores bytes from an address upward. -/
def mwrite (m : Memory) (a : Nat) : List Byte → Memory
  | [] => m
  | b :: bs => mwrite (mput m a b) (a + 1) bs

/-- The number that little-endian bytes stand for. -/
def leNat : List Byte → Nat
  | [] => 0
  | b :: bs => b.toNat + 256 * leNat bs

/-- The `n` little-endian bytes of a number. -/
def natLe (x : Nat) : Nat → List Byte
  | 0 => []
  | n + 1 => BitVec.ofNat 8 x :: natLe (x / 256) n

/-- The `n`-byte number at an address. -/
def readN (m : Memory) (a n : Nat) : Nat := leNat (mread m a n)

/-- Stores an `n`-byte number. -/
def writeN (m : Memory) (a n x : Nat) : Memory := mwrite m a (natLe x n)

/-- Zeroes `n` bytes. -/
def mzero (m : Memory) (a n : Nat) : Memory := tclear m a n

/-! ## Bit fields -/

/-- Bits `hi .. lo` of a number, inclusive (R3). -/
def fld (x hi lo : Nat) : Nat := (x >>> lo) % 2 ^ (hi + 1 - lo)

/-- Bit `i` of a number. -/
def bitOf (x i : Nat) : Bool := x.testBit i

/-- `b` as 0 or 1. -/
def b01 (b : Bool) : Nat := if b then 1 else 0

/-- `x` of `w` bits read in two's complement. -/
def toSigned (w x : Nat) : Int := if x % 2 ^ w < 2 ^ (w - 1) then (x % 2 ^ w : Nat) else (x % 2 ^ w : Nat) - (2 ^ w : Nat)

/-- An integer modulo `2^w`. -/
def ofSigned (w : Nat) (i : Int) : Nat := (i % ((2 ^ w : Nat) : Int)).toNat

/-- `SignExtend(x, 64)` of a `w`-bit number, as a number below 2^64 (R9). -/
def signExt64 (w x : Nat) : Nat := ofSigned 64 (toSigned w x)

/-- The lanes of a mask, ascending. -/
def lanesOf (m : LaneMask) : List Nat := (List.range 16).filter fun l => m.getLsbD l

/-- The mask of the lanes that a test picks. -/
def maskOf (f : Nat → Bool) : LaneMask :=
  (List.range 16).foldl (fun m l => if f l then m ||| BitVec.ofNat 16 (2 ^ l) else m) 0

/-- The lowest lane of a mask; 0 of the empty mask. -/
def lowLane (m : LaneMask) : Nat := ((lanesOf m).head?).getD 0

/-- How many lanes a mask has. -/
def laneCount (m : LaneMask) : Nat := (lanesOf m).length

end Sys2Proof.Machine
end

