-- ==== Sys2Proof/Machine/Num.lean ====
section
/-! DEFINITION. Number formats and rounding (spec/02_numbers.md). A value is taken exactly as sign, quotient of
naturals, power of two, and a mark that says a nonzero part below the last place follows; every rounding acts once on
such an exact value. -/

namespace Sys2Proof.Machine

/-! ## Flags -/

/-- The exception flags of R40, by bit. -/
def fNV : BitVec 6 := 1
def fDZ : BitVec 6 := 2
def fOF : BitVec 6 := 4
def fUF : BitVec 6 := 8
def fNX : BitVec 6 := 16
def fSAT : BitVec 6 := 32

/-- A flag, if a condition holds. -/
def flagIf (b : Bool) (f : BitVec 6) : BitVec 6 := if b then f else 0

/-! ## Formats -/

/-- A floating-point format (R25): exponent width, fraction width, bias, and whether it is E4M3. -/
structure Fmt where
  eb : Nat
  fb : Nat
  bias : Nat
  e4m3 : Bool := false
  deriving DecidableEq, Repr

def binary64 : Fmt := ⟨11, 52, 1023, false⟩
def binary32 : Fmt := ⟨8, 23, 127, false⟩
def binary16 : Fmt := ⟨5, 10, 15, false⟩
def bf16 : Fmt := ⟨8, 7, 127, false⟩
def e4m3 : Fmt := ⟨4, 3, 7, true⟩
def e5m2 : Fmt := ⟨5, 2, 15, false⟩

/-- Width of a format in bits. -/
def fmtWidth (f : Fmt) : Nat := f.eb + f.fb + 1

/-- The canonical NaN (R26). -/
def canonNaN (f : Fmt) : Nat :=
  if f.e4m3 then 0x7F else (2 ^ f.eb - 1) * 2 ^ f.fb + 2 ^ (f.fb - 1)

/-- The sign bit in place. -/
def signBit (f : Fmt) (neg : Bool) : Nat := if neg then 2 ^ (f.eb + f.fb) else 0

/-- The code of an infinity (R26); E4M3 has none and takes its largest finite code (R37). -/
def infCode (f : Fmt) (neg : Bool) : Nat :=
  signBit f neg + (if f.e4m3 then 0x7E else (2 ^ f.eb - 1) * 2 ^ f.fb)

/-- The code of the largest finite value (R25). -/
def maxCode (f : Fmt) (neg : Bool) : Nat :=
  signBit f neg + (if f.e4m3 then 0x7E else (2 ^ f.eb - 1) * 2 ^ f.fb - 1)

/-- The exponent of the smallest normal value (R25). -/
def minExp (f : Fmt) : Int := 1 - (f.bias : Int)

/-! ## Values -/

/-- A decoded value (R25, R26): a NaN with whether it signals, an infinity, or `(-1)^neg * m * 2^e`. -/
inductive FVal where
  | nan (signalling : Bool)
  | inf (neg : Bool)
  | fin (neg : Bool) (m : Nat) (e : Int)
  deriving DecidableEq, Repr

/-- Decodes a code of a float format (R25-R27). DESIGN CHOICE (notes/assumptions/25.md): R26 does not say which kind of NaN the codes
0x7F and 0xFF of E4M3 are; both are taken as quiet. -/
def decodeF (f : Fmt) (x : Nat) : FVal :=
  let neg := bitOf x (f.eb + f.fb)
  let e := fld x (f.eb + f.fb - 1) f.fb
  let m := x % 2 ^ f.fb
  if f.e4m3 then
    if e = 15 ∧ m = 7 then .nan false
    else if e = 0 then .fin neg m (minExp f - f.fb)
    else .fin neg (m + 2 ^ f.fb) ((e : Int) - f.bias - f.fb)
  else if e = 2 ^ f.eb - 1 then
    if m = 0 then .inf neg else .nan (!bitOf m (f.fb - 1))
  else if e = 0 then .fin neg m (minExp f - f.fb)
  else .fin neg (m + 2 ^ f.fb) ((e : Int) - f.bias - f.fb)

/-- An exact magnitude with sign: `num / den * 2^e`, and more by less than one unit of the last place when `st`. -/
structure Exact where
  neg : Bool
  num : Nat
  den : Nat := 1
  e : Int
  st : Bool := false
  deriving DecidableEq, Repr

/-- Bit length. -/
def bitLen (n : Nat) : Nat := if n = 0 then 0 else Nat.log2 n + 1

/-- The same value over 1: the quotient to at least 160 bits, with the remainder's mark. -/
def Exact.flat (x : Exact) : Exact :=
  if x.den = 1 then x
  else
    let k := 160 + bitLen x.den
    let n := x.num <<< k
    { neg := x.neg, num := n / x.den, e := x.e - k, st := x.st || n % x.den != 0 }

/-- The integer part in units of `2^q`, and the part below it as a comparison with one half: whether nonzero, and its
order against the half (R35). -/
def splitAt (x : Exact) (q : Int) : Nat × Bool × Ordering :=
  let y := x.flat
  if q ≤ y.e then (y.num <<< (y.e - q).toNat, y.st, .lt)
  else
    let d := (q - y.e).toNat
    let rem := y.num % 2 ^ d
    let half := 2 ^ (d - 1)
    (y.num >>> d, rem != 0 || y.st,
      if rem < half then .lt else if rem = half then (if y.st then .gt else .eq) else .gt)

/-- Whether a rounding moves away from zero (R35, codes 0..4). -/
def roundsUp (rm : Nat) (neg odd inexact : Bool) (half : Ordering) : Bool :=
  match rm with
  | 0 => half == .gt || (half == .eq && odd)
  | 2 => inexact && !neg
  | 3 => inexact && neg
  | 4 => half == .gt || half == .eq
  | _ => false

/-- Rounds a nonzero exact value in units of `2^q`. -/
def roundUnits (rm : Nat) (x : Exact) (q : Int) : Nat × Bool :=
  let (t, ine, half) := splitAt x q
  (if roundsUp rm x.neg (t % 2 == 1) ine half then t + 1 else t, ine)

/-- The exponent of the leading bit of a nonzero exact value. -/
def topExp (x : Exact) : Int :=
  let y := x.flat
  y.e + (bitLen y.num : Int) - 1

/-- The code of `t` units of `2^q`, where `t` has at most one bit more than the fraction, or overflow. -/
def packUnits (f : Fmt) (neg : Bool) (t : Nat) (q : Int) : Nat :=
  signBit f neg + (if t < 2 ^ f.fb then t else ((q + f.fb + f.bias).toNat) * 2 ^ f.fb + (t - 2 ^ f.fb))

/-- The result of an overflow (R37). -/
def overflowCode (f : Fmt) (rm : Nat) (neg : Bool) : Nat :=
  if f.e4m3 then maxCode f neg
  else match rm with
    | 1 => maxCode f neg
    | 2 => if neg then maxCode f neg else infCode f neg
    | 3 => if neg then infCode f neg else maxCode f neg
    | _ => infCode f neg

/-- Rounds an exact value to a float format (R37): the code and the flags. `zneg` is the sign of a zero. -/
def roundF (f : Fmt) (rm : Nat) (x : Exact) : Nat × BitVec 6 :=
  if x.num = 0 ∧ x.st = false then (signBit f x.neg, 0)
  else
    let top := if x.num = 0 then minExp f - f.fb - 2 else topExp x
    let q := max (top - f.fb) (minExp f - f.fb)
    let (t, ine) := roundUnits rm x q
    let code := packUnits f false t q
    if code > maxCode f false then (overflowCode f rm x.neg, fOF ||| fNX)
    else
      let tiny := if top < minExp f - 1 then true
        else if top < minExp f then (roundUnits rm x (top - f.fb)).1 < 2 ^ (f.fb + 1)
        else false
      (packUnits f x.neg t q, flagIf ine fNX ||| flagIf (ine && tiny) fUF)

/-- Stochastic rounding to a float format with the lane's word (R39). -/
def roundFS (f : Fmt) (w : Word) (x : Exact) : Nat × BitVec 6 :=
  if x.num = 0 ∧ x.st = false then (signBit f x.neg, 0)
  else
    let top := if x.num = 0 then minExp f - f.fb - 2 else topExp x
    let q := max (top - f.fb) (minExp f - f.fb)
    let y := x.flat
    let k := if y.st then 24 else (q - y.e).toNat
    let n := min k 24
    let (t, ine, _) := splitAt x q
    let (tn, _, _) := splitAt x (q - n)
    let d := tn % 2 ^ n
    let wn := w.toNat >>> (32 - n)
    let t' := if n > 0 ∧ d > wn then t + 1 else t
    let code := packUnits f false t' q
    if code > maxCode f false then (maxCode f x.neg, fOF ||| fNX)
    else
      let tiny := code < 2 ^ f.fb
      (packUnits f x.neg t' q, flagIf ine fNX ||| flagIf (ine && tiny) fUF)

/-- Rounds an exact value to an integer under a mode: the integer and whether it is inexact (R38). -/
def roundInt (rm : Nat) (x : Exact) : Int × Bool :=
  let (t, ine) := roundUnits rm x 0
  (if x.neg then -(t : Int) else t, ine)

/-- Stochastic rounding to an integer (R39). -/
def roundIntS (w : Word) (x : Exact) : Int × Bool :=
  let y := x.flat
  let k := if y.st then 24 else (0 - y.e).toNat
  let n := min k 24
  let (t, ine, _) := splitAt x 0
  let (tn, _, _) := splitAt x (-(n : Int))
  let d := tn % 2 ^ n
  let t' := if n > 0 ∧ d > w.toNat >>> (32 - n) then t + 1 else t
  (if x.neg then -(t' : Int) else t', ine)

/-! ## Arithmetic on decoded values -/

/-- The signed integer of a finite value in units of `2^q`, `q` at most its exponent. -/
def inUnits (neg : Bool) (m : Nat) (e q : Int) : Int :=
  let n : Int := ((m <<< (e - q).toNat : Nat) : Int)
  if neg then -n else n

/-- Exact sum of two finite values; an exact zero takes its sign from the mode (R27). -/
def addExact (rm : Nat) (n1 : Bool) (m1 : Nat) (e1 : Int) (n2 : Bool) (m2 : Nat) (e2 : Int) : Exact :=
  let q := min e1 e2
  let t := inUnits n1 m1 e1 q + inUnits n2 m2 e2 q
  if t = 0 then
    { neg := if m1 = 0 ∧ m2 = 0 ∧ n1 = n2 then n1 else rm == 3, num := 0, e := q }
  else { neg := t < 0, num := t.natAbs, e := q }

/-- NV of a signalling NaN among the operands. -/
def sigFlag (xs : List FVal) : BitVec 6 := flagIf (xs.any fun x => x == .nan true) fNV

def isNaN : FVal → Bool
  | .nan _ => true
  | _ => false

/-- FADD (R41) on decoded operands. -/
def fadd (f : Fmt) (rm : Nat) (a b : FVal) : Nat × BitVec 6 :=
  match a, b with
  | .fin n1 m1 e1, .fin n2 m2 e2 => roundF f rm (addExact rm n1 m1 e1 n2 m2 e2)
  | .inf n1, .inf n2 => if n1 = n2 then (infCode f n1, 0) else (canonNaN f, fNV)
  | .inf n, .fin .. => (infCode f n, 0)
  | .fin .., .inf n => (infCode f n, 0)
  | _, _ => (canonNaN f, sigFlag [a, b])

/-- The value with its sign changed. -/
def fneg : FVal → FVal
  | .fin n m e => .fin (!n) m e
  | .inf n => .inf (!n)
  | .nan s => .nan s

/-- FSUB (R41). -/
def fsub (f : Fmt) (rm : Nat) (a b : FVal) : Nat × BitVec 6 :=
  fadd f rm a (fneg b)

/-- FMUL (R41). -/
def fmul (f : Fmt) (rm : Nat) (a b : FVal) : Nat × BitVec 6 :=
  match a, b with
  | .fin n1 m1 e1, .fin n2 m2 e2 => roundF f rm { neg := n1 != n2, num := m1 * m2, e := e1 + e2 }
  | .inf n1, .inf n2 => (infCode f (n1 != n2), 0)
  | .inf n1, .fin n2 m _ => if m = 0 then (canonNaN f, fNV) else (infCode f (n1 != n2), 0)
  | .fin n2 m _, .inf n1 => if m = 0 then (canonNaN f, fNV) else (infCode f (n1 != n2), 0)
  | _, _ => (canonNaN f, sigFlag [a, b])

/-- FFMA: a × b + d, rounded once; a product of infinity and 0 sets NV even with a NaN addend (R41). -/
def ffma (f : Fmt) (rm : Nat) (a b d : FVal) : Nat × BitVec 6 :=
  match a, b, d with
  | .inf _, .fin _ 0 _, _ => (canonNaN f, fNV)
  | .fin _ 0 _, .inf _, _ => (canonNaN f, fNV)
  | .fin n1 m1 e1, .fin n2 m2 e2, .fin n3 m3 e3 =>
    roundF f rm (addExact rm (n1 != n2) (m1 * m2) (e1 + e2) n3 m3 e3)
  | .fin .., .fin .., .inf n => (infCode f n, 0)
  | .nan _, _, _ => (canonNaN f, sigFlag [a, b, d])
  | _, .nan _, _ => (canonNaN f, sigFlag [a, b, d])
  | _, _, .nan _ => (canonNaN f, sigFlag [a, b, d])
  | .inf n1, .inf n2, d => fadd f rm (.inf (n1 != n2)) d
  | .inf n1, .fin n2 _ _, d => fadd f rm (.inf (n1 != n2)) d
  | .fin n2 _ _, .inf n1, d => fadd f rm (.inf (n1 != n2)) d

/-- FDIV (R41). -/
def fdiv (f : Fmt) (rm : Nat) (a b : FVal) : Nat × BitVec 6 :=
  match a, b with
  | .fin n1 m1 e1, .fin n2 m2 e2 =>
    if m2 = 0 then
      if m1 = 0 then (canonNaN f, fNV) else (infCode f (n1 != n2), fDZ)
    else roundF f rm { neg := n1 != n2, num := m1, den := m2, e := e1 - e2 }
  | .inf _, .inf _ => (canonNaN f, fNV)
  | .inf n1, .fin n2 _ _ => (infCode f (n1 != n2), 0)
  | .fin n1 _ _, .inf n2 => (signBit f (n1 != n2), 0)
  | _, _ => (canonNaN f, sigFlag [a, b])

/-- The greatest `r < 2^n` that extends the bits found so far with `r^k ≤ x`. -/
def rootGo (k x : Nat) : Nat → Nat → Nat
  | 0, r => r
  | n + 1, r => rootGo k x n (if (r + 2 ^ n) ^ k ≤ x then r + 2 ^ n else r)

/-- The integer `k`-th root, rounded down. -/
def iroot (k x : Nat) : Nat := rootGo k x (bitLen x / k + 1) 0

/-- The square root of `m * 2^e` exactly, to at least 160 bits. -/
def sqrtExact (m : Nat) (e : Int) : Exact :=
  let k : Nat := 320 + (if (e % 2 = 0) then 0 else 1)
  let n := m <<< k
  let r := iroot 2 n
  { neg := false, num := r, e := (e - k) / 2, st := r * r != n }

/-- FSQRT (R41, R42). -/
def fsqrt (f : Fmt) (rm : Nat) (a : FVal) : Nat × BitVec 6 :=
  match a with
  | .fin n m e =>
    if m = 0 then (signBit f n, 0)
    else if n then (canonNaN f, fNV)
    else roundF f rm (sqrtExact m e)
  | .inf n => if n then (canonNaN f, fNV) else (infCode f false, 0)
  | .nan s => (canonNaN f, flagIf s fNV)

/-- FRCP (R42). -/
def frcp (f : Fmt) (rm : Nat) (a : FVal) : Nat × BitVec 6 :=
  match a with
  | .fin n m e =>
    if m = 0 then (infCode f n, fDZ)
    else roundF f rm { neg := n, num := 1, den := m, e := -e }
  | .inf n => (signBit f n, 0)
  | .nan s => (canonNaN f, flagIf s fNV)

/-- FRSQ (R42). -/
def frsq (f : Fmt) (rm : Nat) (a : FVal) : Nat × BitVec 6 :=
  match a with
  | .fin n m e =>
    if m = 0 then (infCode f n, fDZ)
    else if n then (canonNaN f, fNV)
    else
      let odd := e % 2 ≠ 0
      let m' := if odd then 2 * m else m
      let e' := if odd then e - 1 else e
      let k := 160 + bitLen m'
      let n2 := 2 ^ (2 * k)
      let r := iroot 2 (n2 / m')
      roundF f rm { neg := false, num := r, e := -(e' / 2) - k, st := r * r * m' != n2 }
  | .inf n => if n then (canonNaN f, fNV) else (0, 0)
  | .nan s => (canonNaN f, flagIf s fNV)

/-! ## Comparison -/

/-- Order of two values that are not NaN, -0 equal to +0. -/
def fcompare (a b : FVal) : Ordering :=
  match a, b with
  | .inf n1, .inf n2 => if n1 = n2 then .eq else if n1 then .lt else .gt
  | .inf n, _ => if n then .lt else .gt
  | _, .inf n => if n then .gt else .lt
  | .fin n1 m1 e1, .fin n2 m2 e2 =>
    let q := min e1 e2
    compare (inUnits n1 m1 e1 q) (inUnits n2 m2 e2 q)
  | _, _ => .eq

/-- The condition of FCMP (R188). -/
def fcmpCond (cc : Nat) (a b : FVal) : Bool :=
  let un := isNaN a || isNaN b
  let c := fcompare a b
  match cc with
  | 0 => !un && c == .eq
  | 1 => un || c != .eq
  | 2 => !un && c == .lt
  | 3 => !un && c != .gt
  | 4 => !un && c == .gt
  | 5 => !un && c != .lt
  | 6 => un
  | _ => !un

/-- Whether a value is negative or a negative zero. -/
def fNegative : FVal → Bool
  | .fin n _ _ => n
  | .inf n => n
  | .nan _ => false

/-- Whether `a` comes before `b`, -0 before +0 (R43). -/
def fbefore (a b : FVal) : Bool :=
  match fcompare a b with
  | .lt => true
  | .gt => false
  | .eq => fNegative a && !fNegative b

/-- The code of a value that the format holds. -/
def encodeF (f : Fmt) (a : FVal) : Nat :=
  match a with
  | .nan _ => canonNaN f
  | .inf n => infCode f n
  | .fin n m e => (roundF f 0 { neg := n, num := m, e := e }).1

/-- FMIN and FMAX (R43). -/
def fminmax (mx : Bool) (f : Fmt) (a b : FVal) : Nat × BitVec 6 :=
  let fl := sigFlag [a, b]
  if isNaN a && isNaN b then (canonNaN f, fl)
  else if isNaN a then (encodeF f b, fl)
  else if isNaN b then (encodeF f a, fl)
  else if fbefore a b then (encodeF f (if mx then b else a), fl)
  else (encodeF f (if mx then a else b), fl)

/-! ## Transcendental functions, in binary32 (R42)

Fixed-point numbers below carry `fixQ` fraction bits. A result keeps its leading bits and a mark that more follows, the
exact value being irrational (notes/assumptions/4.md). -/

/-- Fraction bits of the working fixed-point numbers. -/
def fixQ : Nat := 768

/-- The sum of `2 z^(2k+1) / (2k+1)`, which is `ln((1+z)/(1-z))`: terms left, index, power, sum. -/
def atanhGo (z2 : Nat) : Nat → Nat → Nat → Nat → Nat
  | 0, _, _, acc => acc
  | n + 1, k, p, acc => atanhGo z2 n (k + 1) ((p * z2) >>> fixQ) (acc + 2 * p / (2 * k + 1))

/-- `ln((1+z)/(1-z))` of a fixed-point `z` in 0..1/3. -/
def atanh2 (z : Nat) : Nat := atanhGo ((z * z) >>> fixQ) 250 0 z 0

/-- ln 2. -/
def ln2Fix : Nat := atanh2 (2 ^ fixQ / 3)

/-- The alternating sum of `z^(2k+1)/(2k+1)` for `z = 1/x`: terms left, index, power, sum. -/
def atanInvGo (x2 : Nat) : Nat → Nat → Nat → Int → Int
  | 0, _, _, acc => acc
  | n + 1, k, p, acc =>
    atanInvGo x2 n (k + 1) (p / x2) (if k % 2 = 0 then acc + (p / (2 * k + 1) : Nat) else acc - (p / (2 * k + 1) : Nat))

/-- arctan(1/x). -/
def atanInv (x : Nat) : Int := atanInvGo (x * x) 400 0 (2 ^ fixQ / x) 0

/-- π/2, by Machin's formula. -/
def halfPi : Nat := (2 * (4 * atanInv 5 - atanInv 239)).toNat

/-- The sum of `r^k / k!`: terms left, index, term, sum. -/
def expGo (r : Nat) : Nat → Nat → Nat → Nat → Nat
  | 0, _, _, acc => acc
  | n + 1, k, t, acc => expGo r n (k + 1) (((t * r) >>> fixQ) / (k + 1)) (acc + t)

/-- e^r of a fixed-point `r` in 0..1. -/
def expFix (r : Nat) : Nat := expGo r 180 0 (2 ^ fixQ) 0

/-- The sine or cosine series: terms left, `j` the factorial's next factor, term, sign, sum. -/
def trigGo (r2 : Nat) : Nat → Nat → Nat → Bool → Int → Int
  | 0, _, _, _, acc => acc
  | n + 1, j, t, neg, acc =>
    trigGo r2 n (j + 2) (((t * r2) >>> fixQ) / (j * (j + 1))) (!neg) (if neg then acc - (t : Int) else acc + (t : Int))

/-- sin r of a fixed-point `r` in 0..1. -/
def sinFix (r : Nat) : Nat := (trigGo ((r * r) >>> fixQ) 100 2 r false 0).toNat

/-- cos r of a fixed-point `r` in 0..1. -/
def cosFix (r : Nat) : Nat := (trigGo ((r * r) >>> fixQ) 100 1 (2 ^ fixQ) false 0).toNat

/-- An irrational fixed-point number as an exact value: the last 64 bits give way to the mark. -/
def fixExact (neg : Bool) (x : Nat) (e : Int) : Exact :=
  { neg := neg, num := x >>> 64, e := e - fixQ + 64, st := true }

/-- FEXP2 (R42). -/
def fexp2 (rm : Nat) (a : FVal) : Nat × BitVec 6 :=
  let f := binary32
  match a with
  | .nan s => (canonNaN f, flagIf s fNV)
  | .inf n => (if n then 0 else infCode f false, 0)
  | .fin n m e =>
    if m = 0 then roundF f rm { neg := false, num := 1, e := 0 }
    else if topExp { neg := false, num := m, e := e } ≥ 8 then
      if n then roundF f rm { neg := false, num := 0, e := -400, st := true }
      else roundF f rm { neg := false, num := 1, e := 256 }
    else
      let x : Int := if e ≥ -(fixQ : Int) then inUnits n m e (-(fixQ : Int)) else 0
      let ip := x / ((2 ^ fixQ : Nat) : Int)
      let fr := (x % ((2 ^ fixQ : Nat) : Int)).toNat
      if fr = 0 then roundF f rm { neg := false, num := 1, e := ip }
      else roundF f rm (fixExact false (expFix ((fr * ln2Fix) >>> fixQ)) ip)

/-- FLOG2 (R42). -/
def flog2 (rm : Nat) (a : FVal) : Nat × BitVec 6 :=
  let f := binary32
  match a with
  | .nan s => (canonNaN f, flagIf s fNV)
  | .inf n => if n then (canonNaN f, fNV) else (infCode f false, 0)
  | .fin n m e =>
    if m = 0 then (infCode f true, fDZ)
    else if n then (canonNaN f, fNV)
    else
      let b := bitLen m - 1
      let k : Int := e + b
      if m = 2 ^ b then
        roundF f rm { neg := k < 0, num := k.natAbs, e := 0 }
      else
        let y := m <<< (fixQ - b)
        let z := ((y - 2 ^ fixQ) <<< fixQ) / (y + 2 ^ fixQ)
        let l := (atanh2 z <<< fixQ) / ln2Fix
        let t : Int := k * ((2 ^ fixQ : Nat) : Int) + l
        roundF f rm (fixExact (t < 0) t.natAbs 0)

/-- The argument reduced by the nearest multiple of π/2: the multiple modulo 4, the sign and magnitude of the rest. -/
def reduceTrig (n : Bool) (m : Nat) (e : Int) : Nat × Bool × Nat :=
  let x : Nat := if e ≥ -(fixQ : Int) then m <<< (e + fixQ).toNat else m >>> (-(e + fixQ)).toNat
  -- one more unit of π/2 precision per bit of the quotient: the quotient of a binary32 has at most 129 bits
  let k := (2 * x + halfPi) / (2 * halfPi)
  let r : Int := (x : Int) - (k : Int) * (halfPi : Int)
  let q := k % 4
  if n then ((4 - q) % 4, decide (0 < r), r.natAbs) else (q, decide (r < 0), r.natAbs)

/-- FSIN and FCOS (R42): `shift` is 0 for the sine and 1 for the cosine. -/
def fsincos (shift : Nat) (rm : Nat) (a : FVal) : Nat × BitVec 6 :=
  let f := binary32
  match a with
  | .nan s => (canonNaN f, flagIf s fNV)
  | .inf _ => (canonNaN f, fNV)
  | .fin n m e =>
    if m = 0 then (if shift = 0 then (signBit f n, 0) else roundF f rm { neg := false, num := 1, e := 0 })
    else
      let (q, rn, r) := reduceTrig n m e
      match (q + shift) % 4 with
      | 0 => roundF f rm (fixExact rn (sinFix r) 0)
      | 1 => roundF f rm (fixExact false (cosFix r) 0)
      | 2 => roundF f rm (fixExact (!rn) (sinFix r) 0)
      | _ => roundF f rm (fixExact true (cosFix r) 0)

end Sys2Proof.Machine
end

