-- ==== Sys2Proof/Machine/Flags.lean ====
section
/-! DEFINITION. The integer operations with their carries, borrows, saturation and conditions (spec/08_arith.md R171-R174).
The uniform, the vector and the scanline forms share them. -/

namespace Sys2Proof.Machine

/-- x + y + cin modulo 2^32, and the carry out (R171). -/
def addCarry (x y : Word) (cin : Bool) : Word × Bool :=
  let t := x.toNat + y.toNat + b01 cin
  (BitVec.ofNat 32 t, decide (2 ^ 32 ≤ t))

/-- x − y − cin modulo 2^32, and the borrow out (R171). -/
def subBorrow (x y : Word) (cin : Bool) : Word × Bool :=
  (x - y - BitVec.ofNat 32 (b01 cin), decide (x.toNat < y.toNat + b01 cin))

/-- An exact integer clamped to INT32, and whether clamping changed it (R173). -/
def clamp32 (t : Int) : Word × Bool :=
  if t < -(2 ^ 31 : Int) then (0x80000000, true)
  else if t > (2 ^ 31 : Int) - 1 then (0x7FFFFFFF, true)
  else (BitVec.ofInt 32 t, false)

/-- ADD, SUB and MUL with `.sat` (R173). -/
def addSat (x y : Word) : Word × Bool := clamp32 (x.toInt + y.toInt)
def subSat (x y : Word) : Word × Bool := clamp32 (x.toInt - y.toInt)
def mulSat (x y : Word) : Word × Bool := clamp32 (x.toInt * y.toInt)

/-- MUL: the low half of the product. -/
def mulLow (x y : Word) : Word := x * y
/-- MULH.s and MULH.u: the high half of the signed and of the unsigned product. -/
def mulhS (x y : Word) : Word := BitVec.ofInt 32 (x.toInt * y.toInt / 2 ^ 32)
def mulhU (x y : Word) : Word := BitVec.ofNat 32 (x.toNat * y.toNat / 2 ^ 32)

/-- The shifts by y<7:0> (R171). -/
def shl (x y : Word) : Word := let n := y.toNat % 256; if n ≥ 32 then 0 else x <<< n
def shr (x y : Word) : Word := let n := y.toNat % 256; if n ≥ 32 then 0 else x >>> n
def sar (x y : Word) : Word := let n := y.toNat % 256; x.sshiftRight (min n 31)

/-- Minimum and maximum, signed and unsigned. -/
def minS (x y : Word) : Word := if x.slt y then x else y
def maxS (x y : Word) : Word := if x.slt y then y else x
def minU (x y : Word) : Word := if x.ult y then x else y
def maxU (x y : Word) : Word := if x.ult y then y else x

/-- CLZ: leading zero bits; 32 of 0. -/
def clz (x : Word) : Word := BitVec.ofNat 32 (32 - bitLen x.toNat)

/-- How many bits of a number are 1, among its low `n`. -/
def popGo (x : Nat) : Nat → Nat
  | 0 => 0
  | n + 1 => popGo x n + b01 (x.testBit n)

/-- POPC: number of 1 bits. -/
def popc (x : Word) : Word := BitVec.ofNat 32 (popGo x.toNat 32)

/-- The width that BFX and BFI take: Min(y<13:8>, 32 − q) (R171). -/
def bfWidth (y : Word) : Nat := min (fld y.toNat 13 8) (32 - y.toNat % 32)

/-- BFX (R171). -/
def bfx (x y : Word) : Word :=
  let q := y.toNat % 32
  let w := bfWidth y
  if w = 0 then 0
  else
    let f := x.toNat / 2 ^ q % 2 ^ w
    if y.getLsbD 16 then BitVec.ofInt 32 (toSigned w f) else BitVec.ofNat 32 f

/-- BFI into `d` (R171). -/
def bfi (d x y : Word) : Word :=
  let q := y.toNat % 32
  let w := bfWidth y
  let m : Word := BitVec.ofNat 32 ((2 ^ w - 1) * 2 ^ q)
  (d &&& ~~~m) ||| ((x <<< q) &&& m)

/-- The conditions of UCMP and VCMP (R174). -/
def intCond (signed : Bool) (cc : Nat) (x y : Word) : Bool :=
  let lt := if signed then x.slt y else x.ult y
  match cc with
  | 0 => x == y
  | 1 => x != y
  | 2 => lt
  | 3 => lt || x == y
  | 4 => !(lt || x == y)
  | _ => !lt

end Sys2Proof.Machine
end

