-- ==== Sys2Proof/Machine/Forms.lean ====
section
/-! DEFINITION. The slot forms: class, opcode, what each operand field names, how an immediate E slot is taken and which
modifier fields a form accepts. One `Form` per 32-bit row of the opcode table, written from the encoding tables of the
chapters (R77; 07 R154; 08 R169, R170, R179, R186, R190; 09 R202; 11 R278; 12 R297, R312; 14 R330 and the forms' own
rules). From a form follow its encoding checks (R56-R60) and the registers that its slots read and write (R70). -/

namespace Sys2Proof.Machine

/-- What an operand field holds. -/
inductive Opd where
  /-- The field must hold this number. -/
  | fix (n : Nat)
  /-- Any number; the meaning says what it is. -/
  | raw
  /-- A number below a bound. -/
  | below (n : Nat)
  /-- The first of `cnt` registers of a kind, a multiple of `align`; read, written. -/
  | reg (k : RegKind) (cnt align : Nat) (rd wr : Bool)
  /-- A condition below `n` in bits 5:3 and a destination predicate in bits 2:0 (R174, R188, R366). -/
  | cmp (k : RegKind) (n : Nat)
  /-- Base of a global memory operand: an even pair, or 63 for none (R199). -/
  | memG
  /-- Base of a pond memory operand: a uniform, or 63 for none (R199). -/
  | memP
  /-- Index of a memory operand: a vector register, unless an immediate stands (R199). -/
  | idx
  /-- A predecessor token register, or 63 for none (R279, R314, R416). -/
  | predTok
  /-- CPY's sixteen request uniforms, or 63 for the staged registers (R279). -/
  | copyA
  /-- A mode in bits 5:4 and a result uniform s0..s15 in bits 3:0 (R364). -/
  | low4 (mode : Nat)
  deriving DecidableEq, Repr

/-- How an immediate E slot is taken (R59, R166). -/
inductive ImmK where
  | none
  | sext
  | zext
  | f32
  | f16
  | fdiv
  /-- The offset of a memory operand (R199). -/
  | mem
  /-- CPY's advance, which keeps B (R279). -/
  | copy
  /-- WAITEVT's limit, which keeps B (R366). -/
  | keep
  /-- VSHUF's pattern: bits 23:5 must be 0 (R180). -/
  | pattern
  /-- UMOV.hi's byte: bits 23:8 must be 0 (R175). -/
  | byte
  /-- UMOVW's window: bits 23:14 must be 0 (R176). -/
  | window
  deriving DecidableEq, Repr

/-- What the fourth register c of a form is (R60). -/
inductive CKind where
  | none
  /-- A carry predicate with CI (R172). -/
  | carry (k : RegKind)
  /-- A selecting predicate (R171). -/
  | sel (k : RegKind)
  /-- Vector registers. -/
  | vreg (cnt align : Nat)
  /-- The index of a memory operand, with an immediate (R199). -/
  | index
  /-- A scale latch (R194). -/
  | latch
  /-- A lane predicate (R197). -/
  | lanes
  /-- An even s pair that holds an address (R280). -/
  | recAddr
  deriving DecidableEq, Repr

/-- The CACHE codes that a form accepts (R60, R206, R230). -/
inductive CacheK where
  | none
  | any
  | notNt
  deriving DecidableEq, Repr

/-- The modifier fields that a form accepts: `rm` and `scope` are the greatest codes. With `shut` the form takes no modifier
E slot at all, not one of zeros either (R113, R141, R154, R175, R195, R213, R297, R360, R364, R390, R441, R490, R495). -/
structure Mods where
  shut : Bool := false
  c : CKind := .none
  rm : Nat := 0
  scope : Nat := 0
  cache : CacheK := .none
  fmt : Bool := false
  lf : Bool := false
  sat : Bool := false
  det : Bool := false
  deriving DecidableEq, Repr

/-- What a form's description requires beyond each field by itself. -/
inductive Extra where
  | none
  /-- A fourth register (USEL, VSEL, R171; GTEXL, R346). -/
  | fourth
  /-- A rounding mode only with B = 1 (VRED, R182). -/
  | sum
  /-- UMOVW's immediate, and 0 in the field that its direction leaves unused (R176). -/
  | window
  /-- CHK's kind: a predicate's number below 8 (R57, R154). -/
  | kinds
  /-- CVT's formats, element indices, SAT and RM (R190, R191, R193). -/
  | convert
  /-- FDIV.f32: FMT is 0 or 7, and SAT needs FMT = 7 (R189). -/
  | divide
  /-- CPY takes an immediate only with A = 63 (R279). -/
  | copy
  deriving DecidableEq, Repr

/-- A slot form. -/
structure Form where
  cls : Nat
  op : Nat
  d : Opd
  a : Opd
  b : Opd
  imm : ImmK
  mods : Mods
  extra : Extra := .none
  deriving DecidableEq, Repr

/-- The class of a vector slot (R55). -/
def vClass : VUnit → Nat
  | .va => 1
  | .vb => 2

/-- Whether a class takes a lane guard p0..p6 (R55); the others take sp0..sp6. -/
def laneGuarded (cls : Nat) : Bool := cls == 1 || cls == 2 || cls == 3 || cls == 4 || cls == 7

/-! ## Encoding checks -/

/-- Register kinds with eight names, of which bits 5:3 of a field must be 0 (R57). -/
def small : RegKind → Bool
  | .p => true
  | .sp => true
  | .x => true
  | .y => true
  | .latch => true
  | _ => false

/-- Predicates: code 7 is no destination (R57). -/
def isPred : RegKind → Bool
  | .p => true
  | .sp => true
  | _ => false

/-- Whether an operand field is legal as an encoding (R56, R57). -/
def opdOk (o : Opd) (x : BitVec 6) : Bool :=
  match o with
  | .fix n => x.toNat == n
  | .raw => true
  | .below n => decide (x.toNat < n)
  | .reg k _ _ _ wr => (!small k || decide (x.toNat < 8)) && !(isPred k && wr && x.toNat == 7)
  | .cmp _ n => decide (x.toNat / 8 < n) && x.toNat % 8 != 7
  | .memG => true
  | .memP => true
  | .idx => true
  | .predTok => true
  | .copyA => true
  | .low4 m => x.toNat / 16 == m

/-- Whether a form takes an immediate with this payload (R59, R166). -/
def immOk (k : ImmK) (x : BitVec 24) : Bool :=
  match k with
  | .none => false
  | .f16 => decide (x.toNat < 2 ^ 16)
  | .pattern => decide (x.toNat < 32)
  | .byte => decide (x.toNat < 256)
  | .window => decide (x.toNat < 2 ^ 14)
  | _ => true

/-- Whether B keeps its meaning beside an immediate (R59). -/
def keepsB (k : ImmK) : Bool :=
  match k with
  | .copy => true
  | .keep => true
  | _ => false

/-- Whether the fourth-register field is legal (R60, R171, R172, R194, R197, R199). -/
def cOk (c : CKind) (imm : Bool) (m : EMod) : Bool :=
  if !m.cv then m.creg == 0
  else match c with
    | .none => false
    | .carry _ => decide (m.creg.toNat < 16) && m.creg.toNat % 8 != 7 && !m.sat
    | .sel _ => decide (m.creg.toNat < 8)
    | .vreg _ _ => true
    | .index => imm
    | .latch => decide (m.creg.toNat < 8)
    | .lanes => decide (m.creg.toNat < 8)
    | .recAddr => true

/-- Whether a modifier word's fields are legal on a form (R60, R61, R165, R202). -/
def modOk (k : Mods) (imm : Bool) (m : EMod) : Bool :=
  !k.shut && cOk k.c imm m
  && decide (m.rm.toNat ≤ k.rm)
  && decide (m.scope.toNat ≤ k.scope)
  && (match k.cache with
      | .none => m.cache == 0
      | .any => decide (m.cache.toNat ≤ 3)
      | .notNt => m.cache != 1 && decide (m.cache.toNat ≤ 3))
  && (k.fmt || m.fmt == 0)
  && (k.lf || !m.lf)
  && (k.sat || !m.sat)
  && (k.det || !m.det)

/-- The modifier's fields of a slot, all default where no modifier E slot stands. -/
def modsOf (w : Slot) : EMod := w.mod.getD ⟨false, 0, 0, 0, 0, 0, false, false, false⟩

/-- Bits of an element of a format code (R61, R190). -/
def elemWidth (f : Nat) : Nat :=
  match f with
  | 1 => 64
  | 2 => 32
  | 3 => 16
  | 4 => 16
  | 5 => 8
  | 6 => 8
  | 7 => 32
  | 8 => 16
  | 9 => 8
  | 10 => 4
  | 11 => 8
  | 12 => 8
  | 13 => 1
  | 14 => 8
  | 15 => 4
  | _ => 0

/-- Whether a format code is an integer format (R61). -/
def isIntFmt (f : Nat) : Bool := 7 ≤ f && f ≤ 10

/-- The source format of a CVT: FMT, with binary32 the default. -/
def cvtSource (w : Slot) : Nat := if (modsOf w).fmt = 0 then 2 else (modsOf w).fmt.toNat

/-- Whether the index of an element is above the limit of its width (R190). -/
def indexOver (w i : Nat) : Bool :=
  if w = 4 ∨ w = 1 then decide (i > 7) else decide (i ≥ 32 / min w 32)

/-- Whether a CVT's modifiers and indices are illegal (R190, R191, R193). -/
def cvtIllegal (f : Nat) (w : Slot) : Bool :=
  let g := cvtSource w
  let r := (modsOf w).rm.toNat
  g == 15 || indexOver (elemWidth g) (w.b.toNat % 8) || indexOver (elemWidth f) (w.b.toNat / 8)
  || ((modsOf w).sat && !(isIntFmt f && isIntFmt g && decide (elemWidth f < elemWidth g)))
  || (r == 5 && (f == 12 || f == 13 || f == 14))

/-- What a form requires beyond each field by itself, of the E slots that stand (R56). -/
def extraOk (f : Form) (w : Slot) : Bool :=
  match f.extra with
  | .none => true
  | .fourth => true
  | .sum => w.b == 1 || (modsOf w).rm == 0
  | .window => match w.imm with
    | none => true
    | some x => if x.getLsbD 10 then w.d == 0 else w.a == 0
  | .kinds => decide (w.d.toNat % 4 < 2) || decide (w.a.toNat < 8)
  | .convert => !cvtIllegal (f.op + 1) w
  | .divide => ((modsOf w).fmt == 0 || (modsOf w).fmt == 7) && (!(modsOf w).sat || (modsOf w).fmt == 7)
  | .copy => w.imm.isNone || w.a == 63

/-- Whether a slot's fields are a legal encoding of a form. -/
def slotOk (f : Form) (w : Slot) : Bool :=
  opdOk f.d w.d && opdOk f.a w.a && extraOk f w
  && (match w.imm with
      | none => opdOk f.b w.b
      | some x => immOk f.imm x && (if keepsB f.imm then opdOk f.b w.b else w.b == 0))
  && (match w.mod with
      | none => true
      | some m => modOk f.mods w.imm.isSome m)

/-- Whether a slot has the E slot that its form cannot do without: a fourth register, UMOVW's immediate. -/
def eGiven (f : Form) (w : Slot) : Bool :=
  match f.extra with
  | .fourth => (modsOf w).cv
  | .window => w.imm.isSome
  | _ => true

/-! ## Registers read and written -/

/-- The registers of an operand field (R70, R160). -/
def opdUses (o : Opd) (x : Nat) : List RegUse :=
  match o with
  | .reg k cnt _ rd wr =>
    if isPred k && x == 7 then []
    else (if rd then [⟨k, x, cnt, false⟩] else []) ++ (if wr then [⟨k, x, cnt, true⟩] else [])
  | .cmp k _ => [⟨k, x % 8, 1, true⟩]
  | .memG => if x = 63 then [] else [⟨.s, x, 2, false⟩]
  | .memP => if x = 63 then [] else [⟨.s, x, 1, false⟩]
  | .idx => [⟨.v, x, 1, false⟩]
  | .predTok => if x = 63 then [] else [⟨.s, x, 1, false⟩]
  | .copyA => if x = 63 then [] else [⟨.s, x, 16, false⟩]
  | .low4 _ => [⟨.s, x % 16, 1, true⟩]
  | _ => []

/-- The registers that the fourth-register field names. -/
def cUses (c : CKind) (m : EMod) : List RegUse :=
  if !m.cv then []
  else match c with
    | .carry k =>
      ⟨k, m.creg.toNat % 8, 1, true⟩ :: (if m.creg.toNat / 8 % 2 = 1 then [⟨k, m.creg.toNat % 8, 1, false⟩] else [])
    | .sel k => if m.creg.toNat = 7 then [] else [⟨k, m.creg.toNat, 1, false⟩]
    | .vreg cnt _ => [⟨.v, m.creg.toNat, cnt, false⟩]
    | .index => [⟨.v, m.creg.toNat, 1, false⟩]
    | .latch => [⟨.latch, m.creg.toNat, 1, false⟩]
    | .lanes => if m.creg.toNat = 7 then [] else [⟨.p, m.creg.toNat, 1, false⟩]
    | .recAddr => [⟨.s, m.creg.toNat, 2, false⟩]
    | .none => []

/-- The registers that a slot names through its fields, the guard among them. -/
def usesOf (f : Form) (w : Slot) : List RegUse :=
  (if w.p = 7 then [] else [⟨if laneGuarded f.cls then .p else .sp, w.p.toNat, 1, false⟩])
  ++ opdUses f.d w.d.toNat ++ opdUses f.a w.a.toNat
  ++ (if w.imm.isSome && !keepsB f.imm then [] else opdUses f.b w.b.toNat)
  ++ (match w.mod with
      | none => []
      | some m => cUses f.mods.c m)

/-- Whether a register number breaks the alignment of an operand (R57: the illegal-operand trap). -/
def opdMisaligned (o : Opd) (x : Nat) : Bool :=
  match o with
  | .reg _ _ align _ _ => x % align != 0
  | .memG => x != 63 && x % 2 != 0
  | _ => false

/-! ## The forms -/

/-- UADD. -/
def formUadd : Form :=
  { cls := 0, op := 0x00, d := .reg .s 1 1 false true, a := .reg .s 1 1 true false, b := .reg .s 1 1 true false,
    imm := .sext, mods := { c := .carry .sp, sat := true } }

/-- USUB. -/
def formUsub : Form :=
  { cls := 0, op := 0x01, d := .reg .s 1 1 false true, a := .reg .s 1 1 true false, b := .reg .s 1 1 true false,
    imm := .sext, mods := { c := .carry .sp, sat := true } }

/-- UMUL. -/
def formUmul : Form :=
  { cls := 0, op := 0x02, d := .reg .s 1 1 false true, a := .reg .s 1 1 true false, b := .reg .s 1 1 true false,
    imm := .sext, mods := { sat := true } }

/-- UMULH_S. -/
def formUmulhS : Form :=
  { cls := 0, op := 0x03, d := .reg .s 1 1 false true, a := .reg .s 1 1 true false, b := .reg .s 1 1 true false,
    imm := .sext, mods := {} }

/-- UMULH_U. -/
def formUmulhU : Form :=
  { cls := 0, op := 0x04, d := .reg .s 1 1 false true, a := .reg .s 1 1 true false, b := .reg .s 1 1 true false,
    imm := .sext, mods := {} }

/-- UAND. -/
def formUand : Form :=
  { cls := 0, op := 0x05, d := .reg .s 1 1 false true, a := .reg .s 1 1 true false, b := .reg .s 1 1 true false,
    imm := .sext, mods := {} }

/-- UOR. -/
def formUor : Form :=
  { cls := 0, op := 0x06, d := .reg .s 1 1 false true, a := .reg .s 1 1 true false, b := .reg .s 1 1 true false,
    imm := .sext, mods := {} }

/-- UXOR. -/
def formUxor : Form :=
  { cls := 0, op := 0x07, d := .reg .s 1 1 false true, a := .reg .s 1 1 true false, b := .reg .s 1 1 true false,
    imm := .sext, mods := {} }

/-- USHL. -/
def formUshl : Form :=
  { cls := 0, op := 0x08, d := .reg .s 1 1 false true, a := .reg .s 1 1 true false, b := .reg .s 1 1 true false,
    imm := .zext, mods := {} }

/-- USHR. -/
def formUshr : Form :=
  { cls := 0, op := 0x09, d := .reg .s 1 1 false true, a := .reg .s 1 1 true false, b := .reg .s 1 1 true false,
    imm := .zext, mods := {} }

/-- USAR. -/
def formUsar : Form :=
  { cls := 0, op := 0x0A, d := .reg .s 1 1 false true, a := .reg .s 1 1 true false, b := .reg .s 1 1 true false,
    imm := .zext, mods := {} }

/-- UMIN_S. -/
def formUminS : Form :=
  { cls := 0, op := 0x0B, d := .reg .s 1 1 false true, a := .reg .s 1 1 true false, b := .reg .s 1 1 true false,
    imm := .sext, mods := {} }

/-- UMIN_U. -/
def formUminU : Form :=
  { cls := 0, op := 0x0C, d := .reg .s 1 1 false true, a := .reg .s 1 1 true false, b := .reg .s 1 1 true false,
    imm := .sext, mods := {} }

/-- UMAX_S. -/
def formUmaxS : Form :=
  { cls := 0, op := 0x0D, d := .reg .s 1 1 false true, a := .reg .s 1 1 true false, b := .reg .s 1 1 true false,
    imm := .sext, mods := {} }

/-- UMAX_U. -/
def formUmaxU : Form :=
  { cls := 0, op := 0x0E, d := .reg .s 1 1 false true, a := .reg .s 1 1 true false, b := .reg .s 1 1 true false,
    imm := .sext, mods := {} }

/-- UCMP_S. -/
def formUcmpS : Form :=
  { cls := 0, op := 0x0F, d := .cmp .sp 6, a := .reg .s 1 1 true false, b := .reg .s 1 1 true false,
    imm := .sext, mods := {} }

/-- UCMP_U. -/
def formUcmpU : Form :=
  { cls := 0, op := 0x10, d := .cmp .sp 6, a := .reg .s 1 1 true false, b := .reg .s 1 1 true false,
    imm := .sext, mods := {} }

/-- USEL. -/
def formUsel : Form :=
  { cls := 0, op := 0x11, d := .reg .s 1 1 false true, a := .reg .s 1 1 true false, b := .reg .s 1 1 true false,
    imm := .sext, mods := { c := .sel .sp }, extra := .fourth }

/-- UMOV. -/
def formUmov : Form :=
  { cls := 0, op := 0x12, d := .reg .s 1 1 false true, a := .reg .s 1 1 true false, b := .fix 0,
    imm := .none, mods := { shut := true } }

/-- UMOV_IMM. -/
def formUmovImm : Form :=
  { cls := 0, op := 0x12, d := .reg .s 1 1 false true, a := .fix 0, b := .fix 0,
    imm := .sext, mods := {} }

/-- UMOV_HI. -/
def formUmovHi : Form :=
  { cls := 0, op := 0x12, d := .reg .s 1 1 true true, a := .fix 1, b := .fix 0,
    imm := .byte, mods := {} }

/-- UMOVW. -/
def formUmovw : Form :=
  { cls := 0, op := 0x13, d := .raw, a := .raw, b := .fix 0,
    imm := .window, mods := {}, extra := .window }

/-- ULDX. -/
def formUldx : Form :=
  { cls := 0, op := 0x14, d := .reg .s 1 1 false true, a := .reg .s 1 1 true false, b := .reg .s 1 1 true false,
    imm := .sext, mods := {} }

/-- USTX. -/
def formUstx : Form :=
  { cls := 0, op := 0x15, d := .reg .s 1 1 true false, a := .reg .s 1 1 true false, b := .reg .s 1 1 true false,
    imm := .sext, mods := {} }

/-- UPOPC. -/
def formUpopc : Form :=
  { cls := 0, op := 0x16, d := .reg .s 1 1 false true, a := .reg .s 1 1 true false, b := .fix 0,
    imm := .none, mods := {} }

/-- UCLZ. -/
def formUclz : Form :=
  { cls := 0, op := 0x17, d := .reg .s 1 1 false true, a := .reg .s 1 1 true false, b := .fix 0,
    imm := .none, mods := {} }

/-- UBFX. -/
def formUbfx : Form :=
  { cls := 0, op := 0x18, d := .reg .s 1 1 false true, a := .reg .s 1 1 true false, b := .reg .s 1 1 true false,
    imm := .zext, mods := {} }

/-- UBFI. -/
def formUbfi : Form :=
  { cls := 0, op := 0x19, d := .reg .s 1 1 true true, a := .reg .s 1 1 true false, b := .reg .s 1 1 true false,
    imm := .zext, mods := {} }

/-- URDS. -/
def formUrds : Form :=
  { cls := 0, op := 0x1A, d := .reg .s 1 1 false true, a := .raw, b := .fix 0,
    imm := .none, mods := {} }

/-- UWRS. -/
def formUwrs : Form :=
  { cls := 0, op := 0x1B, d := .raw, a := .reg .s 1 1 true false, b := .fix 0,
    imm := .none, mods := {} }

/-- VADD. -/
def formVadd : Form :=
  { cls := 1, op := 0x00, d := .reg .v 1 1 false true, a := .reg .v 1 1 true false, b := .reg .v 1 1 true false,
    imm := .sext, mods := { c := .carry .p, sat := true } }

/-- VSUB. -/
def formVsub : Form :=
  { cls := 1, op := 0x01, d := .reg .v 1 1 false true, a := .reg .v 1 1 true false, b := .reg .v 1 1 true false,
    imm := .sext, mods := { c := .carry .p, sat := true } }

/-- VMUL. -/
def formVmul : Form :=
  { cls := 1, op := 0x02, d := .reg .v 1 1 false true, a := .reg .v 1 1 true false, b := .reg .v 1 1 true false,
    imm := .sext, mods := { sat := true } }

/-- VMULH_S. -/
def formVmulhS : Form :=
  { cls := 1, op := 0x03, d := .reg .v 1 1 false true, a := .reg .v 1 1 true false, b := .reg .v 1 1 true false,
    imm := .sext, mods := {} }

/-- VMULH_U. -/
def formVmulhU : Form :=
  { cls := 1, op := 0x04, d := .reg .v 1 1 false true, a := .reg .v 1 1 true false, b := .reg .v 1 1 true false,
    imm := .sext, mods := {} }

/-- VAND. -/
def formVand : Form :=
  { cls := 1, op := 0x05, d := .reg .v 1 1 false true, a := .reg .v 1 1 true false, b := .reg .v 1 1 true false,
    imm := .sext, mods := {} }

/-- VOR. -/
def formVor : Form :=
  { cls := 1, op := 0x06, d := .reg .v 1 1 false true, a := .reg .v 1 1 true false, b := .reg .v 1 1 true false,
    imm := .sext, mods := {} }

/-- VXOR. -/
def formVxor : Form :=
  { cls := 1, op := 0x07, d := .reg .v 1 1 false true, a := .reg .v 1 1 true false, b := .reg .v 1 1 true false,
    imm := .sext, mods := {} }

/-- VSHL. -/
def formVshl : Form :=
  { cls := 1, op := 0x08, d := .reg .v 1 1 false true, a := .reg .v 1 1 true false, b := .reg .v 1 1 true false,
    imm := .zext, mods := {} }

/-- VSHR. -/
def formVshr : Form :=
  { cls := 1, op := 0x09, d := .reg .v 1 1 false true, a := .reg .v 1 1 true false, b := .reg .v 1 1 true false,
    imm := .zext, mods := {} }

/-- VSAR. -/
def formVsar : Form :=
  { cls := 1, op := 0x0A, d := .reg .v 1 1 false true, a := .reg .v 1 1 true false, b := .reg .v 1 1 true false,
    imm := .zext, mods := {} }

/-- VMIN_S. -/
def formVminS : Form :=
  { cls := 1, op := 0x0B, d := .reg .v 1 1 false true, a := .reg .v 1 1 true false, b := .reg .v 1 1 true false,
    imm := .sext, mods := {} }

/-- VMIN_U. -/
def formVminU : Form :=
  { cls := 1, op := 0x0C, d := .reg .v 1 1 false true, a := .reg .v 1 1 true false, b := .reg .v 1 1 true false,
    imm := .sext, mods := {} }

/-- VMAX_S. -/
def formVmaxS : Form :=
  { cls := 1, op := 0x0D, d := .reg .v 1 1 false true, a := .reg .v 1 1 true false, b := .reg .v 1 1 true false,
    imm := .sext, mods := {} }

/-- VMAX_U. -/
def formVmaxU : Form :=
  { cls := 1, op := 0x0E, d := .reg .v 1 1 false true, a := .reg .v 1 1 true false, b := .reg .v 1 1 true false,
    imm := .sext, mods := {} }

/-- VCLZ. -/
def formVclz : Form :=
  { cls := 1, op := 0x0F, d := .reg .v 1 1 false true, a := .reg .v 1 1 true false, b := .fix 0,
    imm := .none, mods := {} }

/-- VPOPC. -/
def formVpopc : Form :=
  { cls := 1, op := 0x10, d := .reg .v 1 1 false true, a := .reg .v 1 1 true false, b := .fix 0,
    imm := .none, mods := {} }

/-- VBFX. -/
def formVbfx : Form :=
  { cls := 1, op := 0x11, d := .reg .v 1 1 false true, a := .reg .v 1 1 true false, b := .reg .v 1 1 true false,
    imm := .zext, mods := {} }

/-- VBFI. -/
def formVbfi : Form :=
  { cls := 1, op := 0x12, d := .reg .v 1 1 true true, a := .reg .v 1 1 true false, b := .reg .v 1 1 true false,
    imm := .zext, mods := {} }

/-- VSEL. -/
def formVsel : Form :=
  { cls := 1, op := 0x13, d := .reg .v 1 1 false true, a := .reg .v 1 1 true false, b := .reg .v 1 1 true false,
    imm := .sext, mods := { c := .sel .p }, extra := .fourth }

/-- VCMP_S. -/
def formVcmpS : Form :=
  { cls := 1, op := 0x14, d := .cmp .p 6, a := .reg .v 1 1 true false, b := .reg .v 1 1 true false,
    imm := .sext, mods := {} }

/-- VCMP_U. -/
def formVcmpU : Form :=
  { cls := 1, op := 0x15, d := .cmp .p 6, a := .reg .v 1 1 true false, b := .reg .v 1 1 true false,
    imm := .sext, mods := {} }

/-- FCMP_F32. -/
def formFcmpF32 : Form :=
  { cls := 1, op := 0x16, d := .cmp .p 8, a := .reg .v 1 1 true false, b := .reg .v 1 1 true false,
    imm := .f32, mods := {} }

/-- FCMP_F64. -/
def formFcmpF64 : Form :=
  { cls := 1, op := 0x17, d := .cmp .p 8, a := .reg .v 2 2 true false, b := .reg .v 2 2 true false,
    imm := .none, mods := {} }

/-- FADD_F32. -/
def formFaddF32 : Form :=
  { cls := 1, op := 0x18, d := .reg .v 1 1 false true, a := .reg .v 1 1 true false, b := .reg .v 1 1 true false,
    imm := .f32, mods := { rm := 4 } }

/-- FSUB_F32. -/
def formFsubF32 : Form :=
  { cls := 1, op := 0x19, d := .reg .v 1 1 false true, a := .reg .v 1 1 true false, b := .reg .v 1 1 true false,
    imm := .f32, mods := { rm := 4 } }

/-- FMUL_F32. -/
def formFmulF32 : Form :=
  { cls := 1, op := 0x1A, d := .reg .v 1 1 false true, a := .reg .v 1 1 true false, b := .reg .v 1 1 true false,
    imm := .f32, mods := { rm := 4 } }

/-- FFMA_F32. -/
def formFfmaF32 : Form :=
  { cls := 1, op := 0x1B, d := .reg .v 1 1 true true, a := .reg .v 1 1 true false, b := .reg .v 1 1 true false,
    imm := .f32, mods := { c := .vreg 1 1, rm := 4 } }

/-- FMIN_F32. -/
def formFminF32 : Form :=
  { cls := 1, op := 0x1C, d := .reg .v 1 1 false true, a := .reg .v 1 1 true false, b := .reg .v 1 1 true false,
    imm := .f32, mods := {} }

/-- FMAX_F32. -/
def formFmaxF32 : Form :=
  { cls := 1, op := 0x1D, d := .reg .v 1 1 false true, a := .reg .v 1 1 true false, b := .reg .v 1 1 true false,
    imm := .f32, mods := {} }

/-- FDIV_F32. -/
def formFdivF32 : Form :=
  { cls := 1, op := 0x1E, d := .reg .v 1 1 false true, a := .reg .v 1 1 true false, b := .reg .v 1 1 true false,
    imm := .fdiv, mods := { rm := 4, fmt := true, sat := true }, extra := .divide }

/-- FSQRT_F32. -/
def formFsqrtF32 : Form :=
  { cls := 1, op := 0x1F, d := .reg .v 1 1 false true, a := .reg .v 1 1 true false, b := .fix 0,
    imm := .none, mods := { rm := 4 } }

/-- FRCP_F32. -/
def formFrcpF32 : Form :=
  { cls := 1, op := 0x20, d := .reg .v 1 1 false true, a := .reg .v 1 1 true false, b := .fix 0,
    imm := .none, mods := { rm := 4 } }

/-- FRSQ_F32. -/
def formFrsqF32 : Form :=
  { cls := 1, op := 0x21, d := .reg .v 1 1 false true, a := .reg .v 1 1 true false, b := .fix 0,
    imm := .none, mods := { rm := 4 } }

/-- FEXP2_F32. -/
def formFexp2F32 : Form :=
  { cls := 1, op := 0x22, d := .reg .v 1 1 false true, a := .reg .v 1 1 true false, b := .fix 0,
    imm := .none, mods := { rm := 4 } }

/-- FLOG2_F32. -/
def formFlog2F32 : Form :=
  { cls := 1, op := 0x23, d := .reg .v 1 1 false true, a := .reg .v 1 1 true false, b := .fix 0,
    imm := .none, mods := { rm := 4 } }

/-- FSIN_F32. -/
def formFsinF32 : Form :=
  { cls := 1, op := 0x24, d := .reg .v 1 1 false true, a := .reg .v 1 1 true false, b := .fix 0,
    imm := .none, mods := { rm := 4 } }

/-- FCOS_F32. -/
def formFcosF32 : Form :=
  { cls := 1, op := 0x25, d := .reg .v 1 1 false true, a := .reg .v 1 1 true false, b := .fix 0,
    imm := .none, mods := { rm := 4 } }

/-- FADD_F16. -/
def formFaddF16 : Form :=
  { cls := 1, op := 0x26, d := .reg .v 1 1 false true, a := .reg .v 1 1 true false, b := .reg .v 1 1 true false,
    imm := .f16, mods := { rm := 4 } }

/-- FSUB_F16. -/
def formFsubF16 : Form :=
  { cls := 1, op := 0x27, d := .reg .v 1 1 false true, a := .reg .v 1 1 true false, b := .reg .v 1 1 true false,
    imm := .f16, mods := { rm := 4 } }

/-- FMUL_F16. -/
def formFmulF16 : Form :=
  { cls := 1, op := 0x28, d := .reg .v 1 1 false true, a := .reg .v 1 1 true false, b := .reg .v 1 1 true false,
    imm := .f16, mods := { rm := 4 } }

/-- FFMA_F16. -/
def formFfmaF16 : Form :=
  { cls := 1, op := 0x29, d := .reg .v 1 1 true true, a := .reg .v 1 1 true false, b := .reg .v 1 1 true false,
    imm := .f16, mods := { c := .vreg 1 1, rm := 4 } }

/-- FADD_F64. -/
def formFaddF64 : Form :=
  { cls := 1, op := 0x2A, d := .reg .v 2 2 false true, a := .reg .v 2 2 true false, b := .reg .v 2 2 true false,
    imm := .none, mods := { rm := 4 } }

/-- FSUB_F64. -/
def formFsubF64 : Form :=
  { cls := 1, op := 0x2B, d := .reg .v 2 2 false true, a := .reg .v 2 2 true false, b := .reg .v 2 2 true false,
    imm := .none, mods := { rm := 4 } }

/-- FMUL_F64. -/
def formFmulF64 : Form :=
  { cls := 1, op := 0x2C, d := .reg .v 2 2 false true, a := .reg .v 2 2 true false, b := .reg .v 2 2 true false,
    imm := .none, mods := { rm := 4 } }

/-- FFMA_F64. -/
def formFfmaF64 : Form :=
  { cls := 1, op := 0x2D, d := .reg .v 2 2 true true, a := .reg .v 2 2 true false, b := .reg .v 2 2 true false,
    imm := .none, mods := { c := .vreg 2 2, rm := 4 } }

/-- FMIN_F64. -/
def formFminF64 : Form :=
  { cls := 1, op := 0x2E, d := .reg .v 2 2 false true, a := .reg .v 2 2 true false, b := .reg .v 2 2 true false,
    imm := .none, mods := {} }

/-- FMAX_F64. -/
def formFmaxF64 : Form :=
  { cls := 1, op := 0x2F, d := .reg .v 2 2 false true, a := .reg .v 2 2 true false, b := .reg .v 2 2 true false,
    imm := .none, mods := {} }

/-- FDIV_F64. -/
def formFdivF64 : Form :=
  { cls := 1, op := 0x30, d := .reg .v 2 2 false true, a := .reg .v 2 2 true false, b := .reg .v 2 2 true false,
    imm := .none, mods := { rm := 4 } }

/-- FSQRT_F64. -/
def formFsqrtF64 : Form :=
  { cls := 1, op := 0x31, d := .reg .v 2 2 false true, a := .reg .v 2 2 true false, b := .fix 0,
    imm := .none, mods := { rm := 4 } }

/-- FRCP_F64. -/
def formFrcpF64 : Form :=
  { cls := 1, op := 0x32, d := .reg .v 2 2 false true, a := .reg .v 2 2 true false, b := .fix 0,
    imm := .none, mods := { rm := 4 } }

/-- FRSQ_F64. -/
def formFrsqF64 : Form :=
  { cls := 1, op := 0x33, d := .reg .v 2 2 false true, a := .reg .v 2 2 true false, b := .fix 0,
    imm := .none, mods := { rm := 4 } }

/-- PAND. -/
def formPand : Form :=
  { cls := 1, op := 0x34, d := .reg .p 1 1 false true, a := .reg .p 1 1 true false, b := .reg .p 1 1 true false,
    imm := .none, mods := {} }

/-- POR. -/
def formPor : Form :=
  { cls := 1, op := 0x35, d := .reg .p 1 1 false true, a := .reg .p 1 1 true false, b := .reg .p 1 1 true false,
    imm := .none, mods := {} }

/-- PXOR. -/
def formPxor : Form :=
  { cls := 1, op := 0x36, d := .reg .p 1 1 false true, a := .reg .p 1 1 true false, b := .reg .p 1 1 true false,
    imm := .none, mods := {} }

/-- PNOT. -/
def formPnot : Form :=
  { cls := 1, op := 0x37, d := .reg .p 1 1 false true, a := .reg .p 1 1 true false, b := .fix 0,
    imm := .none, mods := {} }

/-- VSHUF. -/
def formVshuf : Form :=
  { cls := 1, op := 0x38, d := .reg .v 1 1 false true, a := .reg .v 1 1 true false, b := .reg .v 1 1 true false,
    imm := .pattern, mods := {} }

/-- VBCAST. -/
def formVbcast : Form :=
  { cls := 1, op := 0x39, d := .reg .v 1 1 false true, a := .reg .s 1 1 true false, b := .fix 0,
    imm := .none, mods := {} }

/-- VBCAST_LANE. -/
def formVbcastLane : Form :=
  { cls := 1, op := 0x39, d := .reg .v 1 1 false true, a := .fix 0, b := .fix 1,
    imm := .none, mods := {} }

/-- VRED. -/
def formVred : Form :=
  { cls := 1, op := 0x3A, d := .reg .s 1 1 false true, a := .reg .v 1 1 true false, b := .below 11,
    imm := .none, mods := { rm := 4 }, extra := .sum }

/-- VVOTE. -/
def formVvote : Form :=
  { cls := 1, op := 0x3B, d := .reg .s 1 1 false true, a := .reg .p 1 1 true false, b := .fix 0,
    imm := .none, mods := {} }

/-- VQDX. -/
def formVqdx : Form :=
  { cls := 1, op := 0x3C, d := .reg .v 1 1 false true, a := .reg .v 1 1 true false, b := .below 2,
    imm := .none, mods := { rm := 4 } }

/-- VQDY. -/
def formVqdy : Form :=
  { cls := 1, op := 0x3D, d := .reg .v 1 1 false true, a := .reg .v 1 1 true false, b := .below 2,
    imm := .none, mods := { rm := 4 } }

/-- LD_B8. -/
def formLdB8 : Form :=
  { cls := 3, op := 0x00, d := .reg .v 1 1 false true, a := .memG, b := .idx,
    imm := .mem, mods := { c := .index, scope := 5, cache := .any, lf := true } }

/-- LD_S8. -/
def formLdS8 : Form :=
  { cls := 3, op := 0x01, d := .reg .v 1 1 false true, a := .memG, b := .idx,
    imm := .mem, mods := { c := .index, scope := 5, cache := .any, lf := true } }

/-- LD_B16. -/
def formLdB16 : Form :=
  { cls := 3, op := 0x02, d := .reg .v 1 1 false true, a := .memG, b := .idx,
    imm := .mem, mods := { c := .index, scope := 5, cache := .any, lf := true } }

/-- LD_S16. -/
def formLdS16 : Form :=
  { cls := 3, op := 0x03, d := .reg .v 1 1 false true, a := .memG, b := .idx,
    imm := .mem, mods := { c := .index, scope := 5, cache := .any, lf := true } }

/-- LD_B32. -/
def formLdB32 : Form :=
  { cls := 3, op := 0x04, d := .reg .v 1 1 false true, a := .memG, b := .idx,
    imm := .mem, mods := { c := .index, scope := 5, cache := .any, lf := true } }

/-- LD_B64. -/
def formLdB64 : Form :=
  { cls := 3, op := 0x05, d := .reg .v 2 2 false true, a := .memG, b := .idx,
    imm := .mem, mods := { c := .index, scope := 5, cache := .any, lf := true } }

/-- ST_B8. -/
def formStB8 : Form :=
  { cls := 3, op := 0x06, d := .reg .v 1 1 true false, a := .memG, b := .idx,
    imm := .mem, mods := { c := .index, scope := 5, cache := .any, lf := true } }

/-- ST_B16. -/
def formStB16 : Form :=
  { cls := 3, op := 0x07, d := .reg .v 1 1 true false, a := .memG, b := .idx,
    imm := .mem, mods := { c := .index, scope := 5, cache := .any, lf := true } }

/-- ST_B32. -/
def formStB32 : Form :=
  { cls := 3, op := 0x08, d := .reg .v 1 1 true false, a := .memG, b := .idx,
    imm := .mem, mods := { c := .index, scope := 5, cache := .any, lf := true } }

/-- ST_B64. -/
def formStB64 : Form :=
  { cls := 3, op := 0x09, d := .reg .v 2 2 true false, a := .memG, b := .idx,
    imm := .mem, mods := { c := .index, scope := 5, cache := .any, lf := true } }

/-- LDS_B8. -/
def formLdsB8 : Form :=
  { cls := 3, op := 0x0A, d := .reg .v 1 1 false true, a := .memG, b := .idx,
    imm := .mem, mods := { c := .index, cache := .any } }

/-- LDS_S8. -/
def formLdsS8 : Form :=
  { cls := 3, op := 0x0B, d := .reg .v 1 1 false true, a := .memG, b := .idx,
    imm := .mem, mods := { c := .index, cache := .any } }

/-- LDS_B16. -/
def formLdsB16 : Form :=
  { cls := 3, op := 0x0C, d := .reg .v 1 1 false true, a := .memG, b := .idx,
    imm := .mem, mods := { c := .index, cache := .any } }

/-- LDS_S16. -/
def formLdsS16 : Form :=
  { cls := 3, op := 0x0D, d := .reg .v 1 1 false true, a := .memG, b := .idx,
    imm := .mem, mods := { c := .index, cache := .any } }

/-- LDS_B32. -/
def formLdsB32 : Form :=
  { cls := 3, op := 0x0E, d := .reg .v 1 1 false true, a := .memG, b := .idx,
    imm := .mem, mods := { c := .index, cache := .any } }

/-- LDS_B64. -/
def formLdsB64 : Form :=
  { cls := 3, op := 0x0F, d := .reg .v 2 2 false true, a := .memG, b := .idx,
    imm := .mem, mods := { c := .index, cache := .any } }

/-- LDP_B8. -/
def formLdpB8 : Form :=
  { cls := 3, op := 0x10, d := .reg .v 1 1 false true, a := .memP, b := .idx,
    imm := .mem, mods := { c := .index, scope := 2, lf := true } }

/-- LDP_S8. -/
def formLdpS8 : Form :=
  { cls := 3, op := 0x11, d := .reg .v 1 1 false true, a := .memP, b := .idx,
    imm := .mem, mods := { c := .index, scope := 2, lf := true } }

/-- LDP_B16. -/
def formLdpB16 : Form :=
  { cls := 3, op := 0x12, d := .reg .v 1 1 false true, a := .memP, b := .idx,
    imm := .mem, mods := { c := .index, scope := 2, lf := true } }

/-- LDP_S16. -/
def formLdpS16 : Form :=
  { cls := 3, op := 0x13, d := .reg .v 1 1 false true, a := .memP, b := .idx,
    imm := .mem, mods := { c := .index, scope := 2, lf := true } }

/-- LDP_B32. -/
def formLdpB32 : Form :=
  { cls := 3, op := 0x14, d := .reg .v 1 1 false true, a := .memP, b := .idx,
    imm := .mem, mods := { c := .index, scope := 2, lf := true } }

/-- LDP_B64. -/
def formLdpB64 : Form :=
  { cls := 3, op := 0x15, d := .reg .v 2 2 false true, a := .memP, b := .idx,
    imm := .mem, mods := { c := .index, scope := 2, lf := true } }

/-- STP_B8. -/
def formStpB8 : Form :=
  { cls := 3, op := 0x16, d := .reg .v 1 1 true false, a := .memP, b := .idx,
    imm := .mem, mods := { c := .index, scope := 2, lf := true } }

/-- STP_B16. -/
def formStpB16 : Form :=
  { cls := 3, op := 0x17, d := .reg .v 1 1 true false, a := .memP, b := .idx,
    imm := .mem, mods := { c := .index, scope := 2, lf := true } }

/-- STP_B32. -/
def formStpB32 : Form :=
  { cls := 3, op := 0x18, d := .reg .v 1 1 true false, a := .memP, b := .idx,
    imm := .mem, mods := { c := .index, scope := 2, lf := true } }

/-- STP_B64. -/
def formStpB64 : Form :=
  { cls := 3, op := 0x19, d := .reg .v 2 2 true false, a := .memP, b := .idx,
    imm := .mem, mods := { c := .index, scope := 2, lf := true } }

/-- LDT. -/
def formLdt : Form :=
  { cls := 3, op := 0x1A, d := .reg .v 1 1 false true, a := .reg .s 1 1 true false, b := .reg .v 1 1 true false,
    imm := .none, mods := { scope := 5, cache := .any, lf := true } }

/-- STT. -/
def formStt : Form :=
  { cls := 3, op := 0x1B, d := .reg .v 1 1 true false, a := .reg .s 1 1 true false, b := .reg .v 1 1 true false,
    imm := .none, mods := { scope := 5, cache := .any, lf := true } }

/-- FENCE. -/
def formFence : Form :=
  { cls := 3, op := 0x1C, d := .fix 0, a := .fix 0, b := .fix 0,
    imm := .none, mods := { scope := 5 } }

/-- DRAIN. -/
def formDrain : Form :=
  { cls := 3, op := 0x1D, d := .fix 0, a := .fix 0, b := .fix 0,
    imm := .none, mods := { scope := 5 } }

/-- PREF. -/
def formPref : Form :=
  { cls := 3, op := 0x1E, d := .fix 0, a := .memG, b := .idx,
    imm := .mem, mods := { c := .index, cache := .notNt } }

/-- ATOM_ADD. -/
def formAtomAdd : Form :=
  { cls := 3, op := 0x20, d := .reg .v 1 1 true true, a := .memG, b := .idx,
    imm := .mem, mods := { c := .index, scope := 5, lf := true } }

/-- ATOM_MIN_S. -/
def formAtomMinS : Form :=
  { cls := 3, op := 0x21, d := .reg .v 1 1 true true, a := .memG, b := .idx,
    imm := .mem, mods := { c := .index, scope := 5, lf := true } }

/-- ATOM_MIN_U. -/
def formAtomMinU : Form :=
  { cls := 3, op := 0x22, d := .reg .v 1 1 true true, a := .memG, b := .idx,
    imm := .mem, mods := { c := .index, scope := 5, lf := true } }

/-- ATOM_MAX_S. -/
def formAtomMaxS : Form :=
  { cls := 3, op := 0x23, d := .reg .v 1 1 true true, a := .memG, b := .idx,
    imm := .mem, mods := { c := .index, scope := 5, lf := true } }

/-- ATOM_MAX_U. -/
def formAtomMaxU : Form :=
  { cls := 3, op := 0x24, d := .reg .v 1 1 true true, a := .memG, b := .idx,
    imm := .mem, mods := { c := .index, scope := 5, lf := true } }

/-- ATOM_AND. -/
def formAtomAnd : Form :=
  { cls := 3, op := 0x25, d := .reg .v 1 1 true true, a := .memG, b := .idx,
    imm := .mem, mods := { c := .index, scope := 5, lf := true } }

/-- ATOM_OR. -/
def formAtomOr : Form :=
  { cls := 3, op := 0x26, d := .reg .v 1 1 true true, a := .memG, b := .idx,
    imm := .mem, mods := { c := .index, scope := 5, lf := true } }

/-- ATOM_XOR. -/
def formAtomXor : Form :=
  { cls := 3, op := 0x27, d := .reg .v 1 1 true true, a := .memG, b := .idx,
    imm := .mem, mods := { c := .index, scope := 5, lf := true } }

/-- ATOM_EXCH. -/
def formAtomExch : Form :=
  { cls := 3, op := 0x28, d := .reg .v 1 1 true true, a := .memG, b := .idx,
    imm := .mem, mods := { c := .index, scope := 5, lf := true } }

/-- ATOM_ADD_B64. -/
def formAtomAddB64 : Form :=
  { cls := 3, op := 0x29, d := .reg .v 2 2 true true, a := .memG, b := .idx,
    imm := .mem, mods := { c := .index, scope := 5, lf := true } }

/-- ATOM_EXCH_B64. -/
def formAtomExchB64 : Form :=
  { cls := 3, op := 0x2A, d := .reg .v 2 2 true true, a := .memG, b := .idx,
    imm := .mem, mods := { c := .index, scope := 5, lf := true } }

/-- ATOM_FADD_F32. -/
def formAtomFaddF32 : Form :=
  { cls := 3, op := 0x2B, d := .reg .v 1 1 true true, a := .memG, b := .idx,
    imm := .mem, mods := { c := .index, scope := 5, lf := true } }

/-- ATOM_FMIN_F32. -/
def formAtomFminF32 : Form :=
  { cls := 3, op := 0x2C, d := .reg .v 1 1 true true, a := .memG, b := .idx,
    imm := .mem, mods := { c := .index, scope := 5, lf := true } }

/-- ATOM_FMAX_F32. -/
def formAtomFmaxF32 : Form :=
  { cls := 3, op := 0x2D, d := .reg .v 1 1 true true, a := .memG, b := .idx,
    imm := .mem, mods := { c := .index, scope := 5, lf := true } }

/-- ATOMC_B32. -/
def formAtomcB32 : Form :=
  { cls := 3, op := 0x2E, d := .reg .v 2 2 true true, a := .memG, b := .idx,
    imm := .mem, mods := { c := .index, scope := 5, lf := true } }

/-- ATOMC_B64. -/
def formAtomcB64 : Form :=
  { cls := 3, op := 0x2F, d := .reg .v 4 4 true true, a := .memG, b := .idx,
    imm := .mem, mods := { c := .index, scope := 5, lf := true } }

/-- FIFOPUSH. -/
def formFifopush : Form :=
  { cls := 3, op := 0x30, d := .fix 0, a := .reg .s 1 1 true false, b := .reg .v 1 1 true false,
    imm := .none, mods := {} }

/-- FIFOPOP. -/
def formFifopop : Form :=
  { cls := 3, op := 0x31, d := .reg .v 1 1 false true, a := .reg .s 1 1 true false, b := .fix 0,
    imm := .none, mods := {} }

/-- GRSTEP. -/
def formGrstep : Form :=
  { cls := 4, op := 0x00, d := .reg .p 4 1 false true, a := .reg .s 12 4 true false, b := .reg .s 1 1 true false,
    imm := .none, mods := {} }

/-- GBOX. -/
def formGbox : Form :=
  { cls := 4, op := 0x01, d := .reg .v 9 1 false true, a := .reg .v 8 1 true false, b := .reg .v 2 2 true false,
    imm := .none, mods := { cache := .any } }

/-- GTRI2. -/
def formGtri2 : Form :=
  { cls := 4, op := 0x02, d := .reg .v 4 1 false true, a := .reg .v 8 1 true false, b := .reg .v 2 2 true false,
    imm := .none, mods := { cache := .any } }

/-- GCURVE. -/
def formGcurve : Form :=
  { cls := 4, op := 0x03, d := .reg .v 4 1 false true, a := .reg .v 8 1 true false, b := .reg .v 2 2 true false,
    imm := .none, mods := { cache := .any } }

/-- GPSPLIT. -/
def formGpsplit : Form :=
  { cls := 4, op := 0x04, d := .reg .v 16 1 false true, a := .reg .v 16 1 true false, b := .reg .s 1 1 true false,
    imm := .zext, mods := { rm := 4 } }

/-- GPFLAT. -/
def formGpflat : Form :=
  { cls := 4, op := 0x05, d := .reg .p 1 1 false true, a := .reg .v 16 1 true false, b := .reg .s 1 1 true false,
    imm := .f32, mods := {} }

/-- GTEX. -/
def formGtex : Form :=
  { cls := 4, op := 0x06, d := .reg .v 4 1 false true, a := .reg .v 2 1 true false, b := .reg .s 1 1 true false,
    imm := .none, mods := { cache := .any } }

/-- GTEXL. -/
def formGtexl : Form :=
  { cls := 4, op := 0x07, d := .reg .v 4 1 false true, a := .reg .v 2 1 true false, b := .reg .s 1 1 true false,
    imm := .none, mods := { c := .vreg 1 1, cache := .any }, extra := .fourth }

/-- GPUBLISH. -/
def formGpublish : Form :=
  { cls := 4, op := 0x08, d := .reg .p 1 1 false true, a := .reg .v 2 2 true false, b := .reg .v 2 2 true false,
    imm := .none, mods := { scope := 5 } }

/-- MXDEF. -/
def formMxdef : Form :=
  { cls := 5, op := 0x00, d := .fix 0, a := .reg .s 2 2 true false, b := .reg .s 1 1 true false,
    imm := .zext, mods := {} }

/-- MXDEF_REL. -/
def formMxdefRel : Form :=
  { cls := 5, op := 0x00, d := .fix 0, a := .fix 63, b := .reg .s 1 1 true false,
    imm := .zext, mods := {} }

/-- MXCALL. -/
def formMxcall : Form :=
  { cls := 5, op := 0x01, d := .reg .s 1 1 false true, a := .reg .s 1 1 true false, b := .predTok,
    imm := .none, mods := { rm := 4, scope := 5, cache := .any, det := true } }

/-- MXPARM. -/
def formMxparm : Form :=
  { cls := 5, op := 0x02, d := .reg .x 1 1 false true, a := .memG, b := .fix 0,
    imm := .sext, mods := {} }

/-- MXACC. -/
def formMxacc : Form :=
  { cls := 5, op := 0x03, d := .reg .v 4 1 true true, a := .reg .acc 1 1 false false, b := .reg .s 1 1 true false,
    imm := .zext, mods := {} }

/-- MXZERO. -/
def formMxzero : Form :=
  { cls := 5, op := 0x04, d := .fix 0, a := .reg .acc 1 1 false false, b := .reg .s 1 1 true false,
    imm := .zext, mods := {} }

/-- KSET. -/
def formKset : Form :=
  { cls := 6, op := 0x00, d := .reg .latch 1 1 false true, a := .fix 0, b := .reg .s 1 1 true false,
    imm := .zext, mods := { shut := true } }

/-- KLD. -/
def formKld : Form :=
  { cls := 6, op := 0x01, d := .reg .latch 1 1 false true, a := .reg .v 1 1 true false, b := .reg .s 1 1 true false,
    imm := .zext, mods := { shut := true } }

/-- CVT_F64. -/
def formCvtF64 : Form :=
  { cls := 7, op := 0x00, d := .raw, a := .raw, b := .raw,
    imm := .none, mods := { c := .latch, rm := 5, fmt := true, sat := true }, extra := .convert }

/-- CVT_F32. -/
def formCvtF32 : Form :=
  { cls := 7, op := 0x01, d := .raw, a := .raw, b := .raw,
    imm := .none, mods := { c := .latch, rm := 5, fmt := true, sat := true }, extra := .convert }

/-- CVT_F16. -/
def formCvtF16 : Form :=
  { cls := 7, op := 0x02, d := .raw, a := .raw, b := .raw,
    imm := .none, mods := { c := .latch, rm := 5, fmt := true, sat := true }, extra := .convert }

/-- CVT_BF16. -/
def formCvtBf16 : Form :=
  { cls := 7, op := 0x03, d := .raw, a := .raw, b := .raw,
    imm := .none, mods := { c := .latch, rm := 5, fmt := true, sat := true }, extra := .convert }

/-- CVT_E4M3. -/
def formCvtE4m3 : Form :=
  { cls := 7, op := 0x04, d := .raw, a := .raw, b := .raw,
    imm := .none, mods := { c := .latch, rm := 5, fmt := true, sat := true }, extra := .convert }

/-- CVT_E5M2. -/
def formCvtE5m2 : Form :=
  { cls := 7, op := 0x05, d := .raw, a := .raw, b := .raw,
    imm := .none, mods := { c := .latch, rm := 5, fmt := true, sat := true }, extra := .convert }

/-- CVT_I32. -/
def formCvtI32 : Form :=
  { cls := 7, op := 0x06, d := .raw, a := .raw, b := .raw,
    imm := .none, mods := { c := .latch, rm := 5, fmt := true, sat := true }, extra := .convert }

/-- CVT_I16. -/
def formCvtI16 : Form :=
  { cls := 7, op := 0x07, d := .raw, a := .raw, b := .raw,
    imm := .none, mods := { c := .latch, rm := 5, fmt := true, sat := true }, extra := .convert }

/-- CVT_I8. -/
def formCvtI8 : Form :=
  { cls := 7, op := 0x08, d := .raw, a := .raw, b := .raw,
    imm := .none, mods := { c := .latch, rm := 5, fmt := true, sat := true }, extra := .convert }

/-- CVT_I4. -/
def formCvtI4 : Form :=
  { cls := 7, op := 0x09, d := .raw, a := .raw, b := .raw,
    imm := .none, mods := { c := .latch, rm := 5, fmt := true, sat := true }, extra := .convert }

/-- CVT_UN8. -/
def formCvtUn8 : Form :=
  { cls := 7, op := 0x0A, d := .raw, a := .raw, b := .raw,
    imm := .none, mods := { c := .latch, rm := 5, fmt := true, sat := true }, extra := .convert }

/-- CVT_SRGB8. -/
def formCvtSrgb8 : Form :=
  { cls := 7, op := 0x0B, d := .raw, a := .raw, b := .raw,
    imm := .none, mods := { c := .latch, rm := 5, fmt := true, sat := true }, extra := .convert }

/-- CVT_B1. -/
def formCvtB1 : Form :=
  { cls := 7, op := 0x0C, d := .raw, a := .raw, b := .raw,
    imm := .none, mods := { c := .latch, rm := 5, fmt := true, sat := true }, extra := .convert }

/-- CVT_E8M0. -/
def formCvtE8m0 : Form :=
  { cls := 7, op := 0x0D, d := .raw, a := .raw, b := .raw,
    imm := .none, mods := { c := .latch, rm := 5, fmt := true, sat := true }, extra := .convert }

/-- CPACK. -/
def formCpack : Form :=
  { cls := 7, op := 0x10, d := .reg .v 1 1 false true, a := .reg .v 2 2 true false, b := .fix 0,
    imm := .none, mods := { shut := true } }

/-- CUNPACK. DESIGN CHOICE (notes/assumptions/11.md): R196 gives no value for B (R195 does for CPACK); every B is taken. -/
def formCunpack : Form :=
  { cls := 7, op := 0x11, d := .reg .v 2 2 false true, a := .reg .v 1 1 true false, b := .raw,
    imm := .none, mods := { rm := 4 } }

/-- CPY. -/
def formCpy : Form :=
  { cls := 8, op := 0x00, d := .reg .s 1 1 false true, a := .copyA, b := .predTok,
    imm := .copy, mods := { scope := 5, cache := .any, det := true }, extra := .copy }

/-- COLL. -/
def formColl : Form :=
  { cls := 8, op := 0x01, d := .reg .s 1 1 false true, a := .reg .s 8 2 true false, b := .predTok,
    imm := .none, mods := { scope := 5, cache := .any, det := true } }

/-- TWAIT. -/
def formTwait : Form :=
  { cls := 8, op := 0x02, d := .reg .s 1 1 false true, a := .reg .s 1 1 true false, b := .fix 0,
    imm := .none, mods := { c := .recAddr } }

/-- TTEST. -/
def formTtest : Form :=
  { cls := 8, op := 0x03, d := .reg .s 1 1 false true, a := .reg .s 1 1 true false, b := .fix 0,
    imm := .none, mods := { c := .recAddr } }

/-- TCANCEL. -/
def formTcancel : Form :=
  { cls := 8, op := 0x04, d := .reg .s 1 1 false true, a := .reg .s 1 1 true false, b := .fix 0,
    imm := .none, mods := {} }

/-- TDET. -/
def formTdet : Form :=
  { cls := 8, op := 0x05, d := .fix 0, a := .reg .s 1 1 true false, b := .fix 0,
    imm := .none, mods := {} }

/-- TREL. -/
def formTrel : Form :=
  { cls := 8, op := 0x06, d := .fix 0, a := .reg .s 1 1 true false, b := .fix 0,
    imm := .none, mods := {} }

/-- TPRIO. -/
def formTprio : Form :=
  { cls := 8, op := 0x07, d := .fix 0, a := .reg .s 1 1 true false, b := .reg .s 1 1 true false,
    imm := .zext, mods := {} }

/-- CNTWAIT_MX. -/
def formCntwaitMx : Form :=
  { cls := 8, op := 0x08, d := .reg .s 1 1 false true, a := .fix 0, b := .reg .s 1 1 true false,
    imm := .zext, mods := {} }

/-- CNTWAIT_CP. -/
def formCntwaitCp : Form :=
  { cls := 8, op := 0x08, d := .reg .s 1 1 false true, a := .fix 1, b := .reg .s 1 1 true false,
    imm := .zext, mods := {} }

/-- CNTWAIT_CO. -/
def formCntwaitCo : Form :=
  { cls := 8, op := 0x08, d := .reg .s 1 1 false true, a := .fix 2, b := .reg .s 1 1 true false,
    imm := .zext, mods := {} }

/-- QPUT. -/
def formQput : Form :=
  { cls := 8, op := 0x09, d := .reg .sp 1 1 false true, a := .reg .s 16 1 true false, b := .reg .s 1 1 true false,
    imm := .none, mods := { shut := true } }

/-- RRES. -/
def formRres : Form :=
  { cls := 8, op := 0x0A, d := .reg .s 1 1 false true, a := .reg .s 1 1 true false, b := .reg .sp 1 1 false true,
    imm := .none, mods := { shut := true } }

/-- RCOMMIT. -/
def formRcommit : Form :=
  { cls := 8, op := 0x0B, d := .fix 0, a := .reg .s 1 1 true false, b := .reg .s 1 1 true false,
    imm := .none, mods := { shut := true } }

/-- RNGSEED. -/
def formRngseed : Form :=
  { cls := 8, op := 0x0C, d := .fix 0, a := .reg .v 2 2 true false, b := .reg .s 1 1 true false,
    imm := .none, mods := { c := .lanes } }

/-- BRA. -/
def formBra : Form :=
  { cls := 9, op := 0x00, d := .fix 0, a := .fix 0, b := .reg .s 2 2 true false,
    imm := .sext, mods := { shut := true } }

/-- BRC_ANY. -/
def formBrcAny : Form :=
  { cls := 9, op := 0x01, d := .fix 0, a := .reg .p 1 1 true false, b := .reg .s 2 2 true false,
    imm := .sext, mods := { shut := true } }

/-- BRC_ALL. -/
def formBrcAll : Form :=
  { cls := 9, op := 0x01, d := .fix 1, a := .reg .p 1 1 true false, b := .reg .s 2 2 true false,
    imm := .sext, mods := { shut := true } }

/-- BRC_NONE. -/
def formBrcNone : Form :=
  { cls := 9, op := 0x01, d := .fix 2, a := .reg .p 1 1 true false, b := .reg .s 2 2 true false,
    imm := .sext, mods := { shut := true } }

/-- BRC_NALL. -/
def formBrcNall : Form :=
  { cls := 9, op := 0x01, d := .fix 3, a := .reg .p 1 1 true false, b := .reg .s 2 2 true false,
    imm := .sext, mods := { shut := true } }

/-- BRD. -/
def formBrd : Form :=
  { cls := 9, op := 0x02, d := .reg .s 1 1 false true, a := .reg .p 1 1 true false, b := .reg .s 2 2 true false,
    imm := .sext, mods := { shut := true } }

/-- JOIN. -/
def formJoin : Form :=
  { cls := 9, op := 0x03, d := .fix 0, a := .reg .s 1 1 true false, b := .fix 0,
    imm := .none, mods := { shut := true } }

/-- CALL. -/
def formCall : Form :=
  { cls := 9, op := 0x04, d := .reg .s 2 2 false true, a := .fix 0, b := .reg .s 2 2 true false,
    imm := .sext, mods := { shut := true } }

/-- RET. -/
def formRet : Form :=
  { cls := 9, op := 0x05, d := .fix 0, a := .reg .s 2 2 true false, b := .fix 0,
    imm := .none, mods := { shut := true } }

/-- CHK. -/
def formChk : Form :=
  { cls := 9, op := 0x06, d := .below 4, a := .raw, b := .reg .s 2 2 true false,
    imm := .sext, mods := { shut := true }, extra := .kinds }

/-- YIELD. -/
def formYield : Form :=
  { cls := 9, op := 0x07, d := .fix 0, a := .fix 0, b := .fix 0,
    imm := .none, mods := { shut := true } }

/-- EXIT. -/
def formExit : Form :=
  { cls := 9, op := 0x08, d := .fix 0, a := .fix 0, b := .fix 0,
    imm := .none, mods := { shut := true } }

/-- LFILL. -/
def formLfill : Form :=
  { cls := 9, op := 0x09, d := .reg .v 2 2 false true, a := .reg .p 1 1 true true, b := .reg .s 1 1 true false,
    imm := .none, mods := { shut := true } }

/-- BAR. -/
def formBar : Form :=
  { cls := 10, op := 0x00, d := .fix 0, a := .fix 0, b := .fix 0,
    imm := .none, mods := { shut := true } }

/-- BAR_ARRIVE. -/
def formBarArrive : Form :=
  { cls := 10, op := 0x00, d := .fix 0, a := .fix 1, b := .fix 0,
    imm := .none, mods := { shut := true } }

/-- BAR_WAIT. -/
def formBarWait : Form :=
  { cls := 10, op := 0x00, d := .fix 0, a := .fix 2, b := .fix 0,
    imm := .none, mods := { shut := true } }

/-- BARB_INIT. -/
def formBarbInit : Form :=
  { cls := 10, op := 0x01, d := .low4 0, a := .reg .s 1 1 true false, b := .reg .s 1 1 true false,
    imm := .zext, mods := { shut := true } }

/-- BARB_EXPECT. -/
def formBarbExpect : Form :=
  { cls := 10, op := 0x01, d := .low4 1, a := .reg .s 1 1 true false, b := .reg .s 1 1 true false,
    imm := .zext, mods := { shut := true } }

/-- BARB_ARRIVE. -/
def formBarbArrive : Form :=
  { cls := 10, op := 0x01, d := .low4 2, a := .reg .s 1 1 true false, b := .reg .s 1 1 true false,
    imm := .zext, mods := { shut := true } }

/-- BARB_WAIT. -/
def formBarbWait : Form :=
  { cls := 10, op := 0x01, d := .low4 3, a := .reg .s 1 1 true false, b := .reg .s 1 1 true false,
    imm := .zext, mods := { shut := true } }

/-- RBREL. -/
def formRbrel : Form :=
  { cls := 10, op := 0x02, d := .fix 0, a := .fix 0, b := .reg .s 1 1 true false,
    imm := .zext, mods := { shut := true } }

/-- RBCLAIM. -/
def formRbclaim : Form :=
  { cls := 10, op := 0x03, d := .fix 0, a := .fix 0, b := .reg .s 1 1 true false,
    imm := .zext, mods := { shut := true } }

/-- TRAP. -/
def formTrap : Form :=
  { cls := 10, op := 0x04, d := .fix 0, a := .fix 0, b := .reg .s 1 1 true false,
    imm := .zext, mods := { shut := true } }

/-- RTE. -/
def formRte : Form :=
  { cls := 10, op := 0x05, d := .fix 0, a := .fix 0, b := .fix 0,
    imm := .none, mods := { shut := true } }

/-- RTE_SKIP. -/
def formRteSkip : Form :=
  { cls := 10, op := 0x05, d := .fix 0, a := .fix 1, b := .fix 0,
    imm := .none, mods := { shut := true } }

/-- BANKMODE. -/
def formBankmode : Form :=
  { cls := 10, op := 0x06, d := .fix 0, a := .fix 0, b := .reg .s 1 1 true false,
    imm := .zext, mods := { shut := true } }

/-- PRPUB. -/
def formPrpub : Form :=
  { cls := 10, op := 0x07, d := .reg .sp 1 1 false true, a := .reg .s 2 2 true false, b := .reg .s 1 1 true false,
    imm := .zext, mods := { shut := true } }

/-- POSEW. -/
def formPosew : Form :=
  { cls := 10, op := 0x08, d := .reg .sp 1 1 false true, a := .reg .s 16 2 true false, b := .reg .s 1 1 true false,
    imm := .zext, mods := { shut := true } }

/-- TRACEMARK. -/
def formTracemark : Form :=
  { cls := 10, op := 0x09, d := .fix 0, a := .fix 0, b := .reg .s 1 1 true false,
    imm := .zext, mods := { shut := true } }

/-- BRK. -/
def formBrk : Form :=
  { cls := 10, op := 0x0A, d := .fix 0, a := .fix 0, b := .raw,
    imm := .none, mods := { shut := true } }

/-- WAITEVT. -/
def formWaitevt : Form :=
  { cls := 10, op := 0x0B, d := .cmp .sp 4, a := .reg .s 2 2 true false, b := .reg .s 1 1 true false,
    imm := .keep, mods := { scope := 5, cache := .any } }

/-- ENRD. -/
def formEnrd : Form :=
  { cls := 10, op := 0x0C, d := .reg .s 2 2 false true, a := .fix 0, b := .fix 0,
    imm := .none, mods := { shut := true } }

/-- The form, the class and the fields of a slot instruction; none of the other rows. -/
def slotOf : Instr → Option (Form × Nat × Slot)
  | .uadd w => some (formUadd, 0, w)
  | .usub w => some (formUsub, 0, w)
  | .umul w => some (formUmul, 0, w)
  | .umulhS w => some (formUmulhS, 0, w)
  | .umulhU w => some (formUmulhU, 0, w)
  | .uand w => some (formUand, 0, w)
  | .uor w => some (formUor, 0, w)
  | .uxor w => some (formUxor, 0, w)
  | .ushl w => some (formUshl, 0, w)
  | .ushr w => some (formUshr, 0, w)
  | .usar w => some (formUsar, 0, w)
  | .uminS w => some (formUminS, 0, w)
  | .uminU w => some (formUminU, 0, w)
  | .umaxS w => some (formUmaxS, 0, w)
  | .umaxU w => some (formUmaxU, 0, w)
  | .ucmpS w => some (formUcmpS, 0, w)
  | .ucmpU w => some (formUcmpU, 0, w)
  | .usel w => some (formUsel, 0, w)
  | .umov w => some (formUmov, 0, w)
  | .umovImm w => some (formUmovImm, 0, w)
  | .umovHi w => some (formUmovHi, 0, w)
  | .umovw w => some (formUmovw, 0, w)
  | .uldx w => some (formUldx, 0, w)
  | .ustx w => some (formUstx, 0, w)
  | .upopc w => some (formUpopc, 0, w)
  | .uclz w => some (formUclz, 0, w)
  | .ubfx w => some (formUbfx, 0, w)
  | .ubfi w => some (formUbfi, 0, w)
  | .urds w => some (formUrds, 0, w)
  | .uwrs w => some (formUwrs, 0, w)
  | .vadd u w => some (formVadd, vClass u, w)
  | .vsub u w => some (formVsub, vClass u, w)
  | .vmul u w => some (formVmul, vClass u, w)
  | .vmulhS u w => some (formVmulhS, vClass u, w)
  | .vmulhU u w => some (formVmulhU, vClass u, w)
  | .vand u w => some (formVand, vClass u, w)
  | .vor u w => some (formVor, vClass u, w)
  | .vxor u w => some (formVxor, vClass u, w)
  | .vshl u w => some (formVshl, vClass u, w)
  | .vshr u w => some (formVshr, vClass u, w)
  | .vsar u w => some (formVsar, vClass u, w)
  | .vminS u w => some (formVminS, vClass u, w)
  | .vminU u w => some (formVminU, vClass u, w)
  | .vmaxS u w => some (formVmaxS, vClass u, w)
  | .vmaxU u w => some (formVmaxU, vClass u, w)
  | .vclz u w => some (formVclz, vClass u, w)
  | .vpopc u w => some (formVpopc, vClass u, w)
  | .vbfx u w => some (formVbfx, vClass u, w)
  | .vbfi u w => some (formVbfi, vClass u, w)
  | .vsel u w => some (formVsel, vClass u, w)
  | .vcmpS u w => some (formVcmpS, vClass u, w)
  | .vcmpU u w => some (formVcmpU, vClass u, w)
  | .fcmpF32 u w => some (formFcmpF32, vClass u, w)
  | .fcmpF64 u w => some (formFcmpF64, vClass u, w)
  | .faddF32 u w => some (formFaddF32, vClass u, w)
  | .fsubF32 u w => some (formFsubF32, vClass u, w)
  | .fmulF32 u w => some (formFmulF32, vClass u, w)
  | .ffmaF32 u w => some (formFfmaF32, vClass u, w)
  | .fminF32 u w => some (formFminF32, vClass u, w)
  | .fmaxF32 u w => some (formFmaxF32, vClass u, w)
  | .fdivF32 u w => some (formFdivF32, vClass u, w)
  | .fsqrtF32 u w => some (formFsqrtF32, vClass u, w)
  | .frcpF32 u w => some (formFrcpF32, vClass u, w)
  | .frsqF32 u w => some (formFrsqF32, vClass u, w)
  | .fexp2F32 u w => some (formFexp2F32, vClass u, w)
  | .flog2F32 u w => some (formFlog2F32, vClass u, w)
  | .fsinF32 u w => some (formFsinF32, vClass u, w)
  | .fcosF32 u w => some (formFcosF32, vClass u, w)
  | .faddF16 u w => some (formFaddF16, vClass u, w)
  | .fsubF16 u w => some (formFsubF16, vClass u, w)
  | .fmulF16 u w => some (formFmulF16, vClass u, w)
  | .ffmaF16 u w => some (formFfmaF16, vClass u, w)
  | .faddF64 u w => some (formFaddF64, vClass u, w)
  | .fsubF64 u w => some (formFsubF64, vClass u, w)
  | .fmulF64 u w => some (formFmulF64, vClass u, w)
  | .ffmaF64 u w => some (formFfmaF64, vClass u, w)
  | .fminF64 u w => some (formFminF64, vClass u, w)
  | .fmaxF64 u w => some (formFmaxF64, vClass u, w)
  | .fdivF64 u w => some (formFdivF64, vClass u, w)
  | .fsqrtF64 u w => some (formFsqrtF64, vClass u, w)
  | .frcpF64 u w => some (formFrcpF64, vClass u, w)
  | .frsqF64 u w => some (formFrsqF64, vClass u, w)
  | .pand u w => some (formPand, vClass u, w)
  | .por u w => some (formPor, vClass u, w)
  | .pxor u w => some (formPxor, vClass u, w)
  | .pnot u w => some (formPnot, vClass u, w)
  | .vshuf u w => some (formVshuf, vClass u, w)
  | .vbcast u w => some (formVbcast, vClass u, w)
  | .vbcastLane u w => some (formVbcastLane, vClass u, w)
  | .vred u w => some (formVred, vClass u, w)
  | .vvote u w => some (formVvote, vClass u, w)
  | .vqdx u w => some (formVqdx, vClass u, w)
  | .vqdy u w => some (formVqdy, vClass u, w)
  | .ldB8 w => some (formLdB8, 3, w)
  | .ldS8 w => some (formLdS8, 3, w)
  | .ldB16 w => some (formLdB16, 3, w)
  | .ldS16 w => some (formLdS16, 3, w)
  | .ldB32 w => some (formLdB32, 3, w)
  | .ldB64 w => some (formLdB64, 3, w)
  | .stB8 w => some (formStB8, 3, w)
  | .stB16 w => some (formStB16, 3, w)
  | .stB32 w => some (formStB32, 3, w)
  | .stB64 w => some (formStB64, 3, w)
  | .ldsB8 w => some (formLdsB8, 3, w)
  | .ldsS8 w => some (formLdsS8, 3, w)
  | .ldsB16 w => some (formLdsB16, 3, w)
  | .ldsS16 w => some (formLdsS16, 3, w)
  | .ldsB32 w => some (formLdsB32, 3, w)
  | .ldsB64 w => some (formLdsB64, 3, w)
  | .ldpB8 w => some (formLdpB8, 3, w)
  | .ldpS8 w => some (formLdpS8, 3, w)
  | .ldpB16 w => some (formLdpB16, 3, w)
  | .ldpS16 w => some (formLdpS16, 3, w)
  | .ldpB32 w => some (formLdpB32, 3, w)
  | .ldpB64 w => some (formLdpB64, 3, w)
  | .stpB8 w => some (formStpB8, 3, w)
  | .stpB16 w => some (formStpB16, 3, w)
  | .stpB32 w => some (formStpB32, 3, w)
  | .stpB64 w => some (formStpB64, 3, w)
  | .ldt w => some (formLdt, 3, w)
  | .stt w => some (formStt, 3, w)
  | .fence w => some (formFence, 3, w)
  | .drain w => some (formDrain, 3, w)
  | .pref w => some (formPref, 3, w)
  | .atomAdd w => some (formAtomAdd, 3, w)
  | .atomMinS w => some (formAtomMinS, 3, w)
  | .atomMinU w => some (formAtomMinU, 3, w)
  | .atomMaxS w => some (formAtomMaxS, 3, w)
  | .atomMaxU w => some (formAtomMaxU, 3, w)
  | .atomAnd w => some (formAtomAnd, 3, w)
  | .atomOr w => some (formAtomOr, 3, w)
  | .atomXor w => some (formAtomXor, 3, w)
  | .atomExch w => some (formAtomExch, 3, w)
  | .atomAddB64 w => some (formAtomAddB64, 3, w)
  | .atomExchB64 w => some (formAtomExchB64, 3, w)
  | .atomFaddF32 w => some (formAtomFaddF32, 3, w)
  | .atomFminF32 w => some (formAtomFminF32, 3, w)
  | .atomFmaxF32 w => some (formAtomFmaxF32, 3, w)
  | .atomcB32 w => some (formAtomcB32, 3, w)
  | .atomcB64 w => some (formAtomcB64, 3, w)
  | .fifopush w => some (formFifopush, 3, w)
  | .fifopop w => some (formFifopop, 3, w)
  | .grstep w => some (formGrstep, 4, w)
  | .gbox w => some (formGbox, 4, w)
  | .gtri2 w => some (formGtri2, 4, w)
  | .gcurve w => some (formGcurve, 4, w)
  | .gpsplit w => some (formGpsplit, 4, w)
  | .gpflat w => some (formGpflat, 4, w)
  | .gtex w => some (formGtex, 4, w)
  | .gtexl w => some (formGtexl, 4, w)
  | .gpublish w => some (formGpublish, 4, w)
  | .mxdef w => some (formMxdef, 5, w)
  | .mxdefRel w => some (formMxdefRel, 5, w)
  | .mxcall w => some (formMxcall, 5, w)
  | .mxparm w => some (formMxparm, 5, w)
  | .mxacc w => some (formMxacc, 5, w)
  | .mxzero w => some (formMxzero, 5, w)
  | .kset w => some (formKset, 6, w)
  | .kld w => some (formKld, 6, w)
  | .cvtF64 w => some (formCvtF64, 7, w)
  | .cvtF32 w => some (formCvtF32, 7, w)
  | .cvtF16 w => some (formCvtF16, 7, w)
  | .cvtBf16 w => some (formCvtBf16, 7, w)
  | .cvtE4m3 w => some (formCvtE4m3, 7, w)
  | .cvtE5m2 w => some (formCvtE5m2, 7, w)
  | .cvtI32 w => some (formCvtI32, 7, w)
  | .cvtI16 w => some (formCvtI16, 7, w)
  | .cvtI8 w => some (formCvtI8, 7, w)
  | .cvtI4 w => some (formCvtI4, 7, w)
  | .cvtUn8 w => some (formCvtUn8, 7, w)
  | .cvtSrgb8 w => some (formCvtSrgb8, 7, w)
  | .cvtB1 w => some (formCvtB1, 7, w)
  | .cvtE8m0 w => some (formCvtE8m0, 7, w)
  | .cpack w => some (formCpack, 7, w)
  | .cunpack w => some (formCunpack, 7, w)
  | .cpy w => some (formCpy, 8, w)
  | .coll w => some (formColl, 8, w)
  | .twait w => some (formTwait, 8, w)
  | .ttest w => some (formTtest, 8, w)
  | .tcancel w => some (formTcancel, 8, w)
  | .tdet w => some (formTdet, 8, w)
  | .trel w => some (formTrel, 8, w)
  | .tprio w => some (formTprio, 8, w)
  | .cntwaitMx w => some (formCntwaitMx, 8, w)
  | .cntwaitCp w => some (formCntwaitCp, 8, w)
  | .cntwaitCo w => some (formCntwaitCo, 8, w)
  | .qput w => some (formQput, 8, w)
  | .rres w => some (formRres, 8, w)
  | .rcommit w => some (formRcommit, 8, w)
  | .rngseed w => some (formRngseed, 8, w)
  | .bra w => some (formBra, 9, w)
  | .brcAny w => some (formBrcAny, 9, w)
  | .brcAll w => some (formBrcAll, 9, w)
  | .brcNone w => some (formBrcNone, 9, w)
  | .brcNall w => some (formBrcNall, 9, w)
  | .brd w => some (formBrd, 9, w)
  | .join w => some (formJoin, 9, w)
  | .call w => some (formCall, 9, w)
  | .ret w => some (formRet, 9, w)
  | .chk w => some (formChk, 9, w)
  | .yield w => some (formYield, 9, w)
  | .exit w => some (formExit, 9, w)
  | .lfill w => some (formLfill, 9, w)
  | .bar w => some (formBar, 10, w)
  | .barArrive w => some (formBarArrive, 10, w)
  | .barWait w => some (formBarWait, 10, w)
  | .barbInit w => some (formBarbInit, 10, w)
  | .barbExpect w => some (formBarbExpect, 10, w)
  | .barbArrive w => some (formBarbArrive, 10, w)
  | .barbWait w => some (formBarbWait, 10, w)
  | .rbrel w => some (formRbrel, 10, w)
  | .rbclaim w => some (formRbclaim, 10, w)
  | .trap w => some (formTrap, 10, w)
  | .rte w => some (formRte, 10, w)
  | .rteSkip w => some (formRteSkip, 10, w)
  | .bankmode w => some (formBankmode, 10, w)
  | .prpub w => some (formPrpub, 10, w)
  | .posew w => some (formPosew, 10, w)
  | .tracemark w => some (formTracemark, 10, w)
  | .brk w => some (formBrk, 10, w)
  | .waitevt w => some (formWaitevt, 10, w)
  | .enrd w => some (formEnrd, 10, w)
  | .hSlot _ _ _ _ => none
  | .slAdd => none
  | .slSub => none
  | .slAnd => none
  | .slOr => none
  | .slXor => none
  | .slShl => none
  | .slShr => none
  | .slSar => none
  | .slMin => none
  | .slMax => none
  | .slSlt => none
  | .slSeq => none
  | .slAddi => none
  | .slMovi => none
  | .slMovl => none
  | .slFadd => none
  | .slFsub => none
  | .slFmin => none
  | .slFmax => none
  | .slFslt => none
  | .slF2i => none
  | .slI2f => none
  | .slF2h => none
  | .slH2fl => none
  | .slH2fh => none
  | .slFmul => none
  | .slFfma => none
  | .slFdiv => none
  | .slFrcp => none
  | .slFsqrt => none
  | .slMFadd => none
  | .slMFsub => none
  | .slImul => none
  | .slMMovi => none
  | .slMMovl => none
  | .slLdw => none
  | .slStw => none
  | .slOut => none
  | .slLAdd => none
  | .slLAddi => none
  | .slLMovi => none
  | .slLMovl => none
  | .slSampBl => none
  | .slSampPt => none
  | .slXferA => none
  | .slXferB => none
  | .slXferM => none
  | .slXferL => none
  | .slXferW => none
  | .slXferC => none
  | .slBr => none
  | .slBrnz => none
  | .slBrz => none
  | .slWait => none
  | .slWaitMb => none
  | .slWaitFr => none
  | .slWaitFifo => none
  | .slFetch => none
  | .slOxcall => none
  | .slPose => none
  | .slSys => none
  | .slCMovi => none
  | .slCMovl => none
  | .slCAddi => none
  | .slDone => none
  | .ctxCreate => none
  | .ctxPreempt => none
  | .ctxResume => none
  | .ctxDestroy => none
  | .energyWrite => none
  | .fqlostRead => none
  | .contextSaveComplete => none
  | .asnSweepComplete => none
  | .queueBind => none
  | .queueUnbind => none
  | .queueSuspend => none
  | .queueResume => none
  | .queueReset => none
  | .qdoorWrite => none
  | .qfaultRead => none
  | .nop => none
  | .launch => none
  | .blocklaunch => none
  | .waitmem => none
  | .waitmemSatisfied => none
  | .signal => none
  | .depend => none
  | .indirect => none
  | .present => none
  | .capstart => none
  | .capstop => none
  | .rqconfConfigure => none
  | .rqconfFlush => none
  | .rqconfTearDown => none
  | .successorEnqueue => none
  | .kernelAdmit => none
  | .setBirth => none
  | .kernelCancel => none
  | .bundleIssue => none
  | .resultLand => none
  | .delayWindowClose => none
  | .scaleLatchEffect => none
  | .groupRetire => none
  | .claimGrant => none
  | .watchdog => none
  | .wellspringFill => none
  | .memoryResultLand => none
  | .storePerform => none
  | .clusterCopyExpire => none
  | .congestionSet => none
  | .congestionClear => none
  | .bankModeFenceComplete => none
  | .waitevtWake => none
  | .waitevtLimit => none
  | .childStart => none
  | .copyChunkComplete => none
  | .circuitBeatArrive => none
  | .childComplete => none
  | .childPause => none
  | .pgInvalidate => none
  | .pgInvalidateAll => none
  | .pgResolve => none
  | .pgReject => none
  | .unitQuiesceInvalidate => none
  | .invalidationLimit => none
  | .correctedSoftError => none
  | .rowRemap => none
  | .linkTrain => none
  | .linkDrain => none
  | .linkDown => none
  | .lnkcntRead => none
  | .linkPhyTrained => none
  | .linkPhyTrainFail => none
  | .linkNegotiated => none
  | .slpFlitReceive => none
  | .linkLaneLoss => none
  | .remoteMemoryRequest => none
  | .remoteMemoryResponse => none
  | .collectiveFlitReceive => none
  | .streamFlitReceive => none
  | .routeWrite => none
  | .headStart => none
  | .headStop => none
  | .hmissRead => none
  | .hevtailRead => none
  | .poseCommit => none
  | .mailboxWrite => none
  | .publicationTake => none
  | .headOutputTrained => none
  | .headOutputTrainFail => none
  | .headOutputLost => none
  | .poseLatch => none
  | .sliceStart => none
  | .sliceDeadline => none
  | .sliceOutput => none
  | .fetchComplete => none
  | .tarnCallStart => none
  | .tarnCallComplete => none
  | .slcoreStop => none
  | .slcoreRun => none
  | .slcoreStep => none
  | .slBreakpoint => none
  | .debugCycleStop => none
  | .dbgstatRead => none
  | .issueHold => none
  | .hostReservedAccess => none
  | .registerWrite => none
  | .powerOnReset => none
  | .resetRequest => none
  | .imageUpload => none
  | .ageingUpdate => none
  | .attestationReport => none
  | .outputFifoDrain => none
  | .sampTexelArrival => none
  | .hostMemoryAccess => none

end Sys2Proof.Machine
end

