-- ==== Sys2Proof/Decode.lean ====
section
/-! DEFINITION. From bits to instructions and back. `decodeSlot` takes the words of a bundle from one base slot on and
gives the slot with its E slots, or the reason of the illegal encoding (spec/03_bundles.md R52-R62, R77).
`decodePacket` reads a command packet (spec/05_queue.md R101, R102, R109) and `decodeSl` a slot of a scanline word
(spec/20_scanline_isa.md R444, R445, R453-R465). The encoders write the same layouts. -/

namespace Sys2Proof

open Sys2Proof.Machine

/-- Why bits are no instruction. -/
inductive DecodeError where
  /-- No word is left. -/
  | empty
  /-- Class 13, 14 or 15 (R55). -/
  | reservedClass
  /-- An unassigned opcode, or a mode field that selects no form (R77). -/
  | unassigned
  /-- A field that must be zero is not, or a field holds a code that the form makes illegal (R56, R57). -/
  | field
  /-- The form takes no immediate, or its B field or payload is not zero where it must be (R59). -/
  | immediate
  /-- A modifier field that is illegal or not accepted (R60). -/
  | modifier
  /-- KIND 2 or 3, or a reserved bit, of an E slot (R58, R60). -/
  | eField
  /-- An E slot with no base slot before it, a third one, or a second of one kind (R56): it stands where a slot is due. -/
  | eFirst
  deriving DecidableEq, Repr

/-- What of a slot chooses among the forms of one opcode. -/
structure Pick where
  d : BitVec 6
  a : BitVec 6
  b : BitVec 6
  imm : Bool

/-- A form with its constructor. -/
structure Row where
  form : Form
  make : Slot → Instr

/-! ## The opcode map (R77) -/

/-- Class U, opcodes 0x00..0x0F (R77). -/
def rowsU0 : List (Pick → Option Row) :=
  [ fun _ => some ⟨formUadd, .uadd⟩,
    fun _ => some ⟨formUsub, .usub⟩,
    fun _ => some ⟨formUmul, .umul⟩,
    fun _ => some ⟨formUmulhS, .umulhS⟩,
    fun _ => some ⟨formUmulhU, .umulhU⟩,
    fun _ => some ⟨formUand, .uand⟩,
    fun _ => some ⟨formUor, .uor⟩,
    fun _ => some ⟨formUxor, .uxor⟩,
    fun _ => some ⟨formUshl, .ushl⟩,
    fun _ => some ⟨formUshr, .ushr⟩,
    fun _ => some ⟨formUsar, .usar⟩,
    fun _ => some ⟨formUminS, .uminS⟩,
    fun _ => some ⟨formUminU, .uminU⟩,
    fun _ => some ⟨formUmaxS, .umaxS⟩,
    fun _ => some ⟨formUmaxU, .umaxU⟩,
    fun _ => some ⟨formUcmpS, .ucmpS⟩ ]

/-- Class U, opcodes 0x10..0x1B (R77). -/
def rowsU1 : List (Pick → Option Row) :=
  [ fun _ => some ⟨formUcmpU, .ucmpU⟩,
    fun _ => some ⟨formUsel, .usel⟩,
    fun q => if !q.imm then some ⟨formUmov, .umov⟩ else if q.a = 0 then some ⟨formUmovImm, .umovImm⟩ else if q.a = 1 then some ⟨formUmovHi, .umovHi⟩ else none,
    fun _ => some ⟨formUmovw, .umovw⟩,
    fun _ => some ⟨formUldx, .uldx⟩,
    fun _ => some ⟨formUstx, .ustx⟩,
    fun _ => some ⟨formUpopc, .upopc⟩,
    fun _ => some ⟨formUclz, .uclz⟩,
    fun _ => some ⟨formUbfx, .ubfx⟩,
    fun _ => some ⟨formUbfi, .ubfi⟩,
    fun _ => some ⟨formUrds, .urds⟩,
    fun _ => some ⟨formUwrs, .uwrs⟩ ]

/-- Class U, by opcode from 0x00 (R77). -/
def rowsU : List (Pick → Option Row) :=
  rowsU0 ++ rowsU1

/-- Class VA and VB, opcodes 0x00..0x0F (R77). -/
def rowsV0 (u : VUnit) : List (Pick → Option Row) :=
  [ fun _ => some ⟨formVadd, .vadd u⟩,
    fun _ => some ⟨formVsub, .vsub u⟩,
    fun _ => some ⟨formVmul, .vmul u⟩,
    fun _ => some ⟨formVmulhS, .vmulhS u⟩,
    fun _ => some ⟨formVmulhU, .vmulhU u⟩,
    fun _ => some ⟨formVand, .vand u⟩,
    fun _ => some ⟨formVor, .vor u⟩,
    fun _ => some ⟨formVxor, .vxor u⟩,
    fun _ => some ⟨formVshl, .vshl u⟩,
    fun _ => some ⟨formVshr, .vshr u⟩,
    fun _ => some ⟨formVsar, .vsar u⟩,
    fun _ => some ⟨formVminS, .vminS u⟩,
    fun _ => some ⟨formVminU, .vminU u⟩,
    fun _ => some ⟨formVmaxS, .vmaxS u⟩,
    fun _ => some ⟨formVmaxU, .vmaxU u⟩,
    fun _ => some ⟨formVclz, .vclz u⟩ ]

/-- Class VA and VB, opcodes 0x10..0x1F (R77). -/
def rowsV1 (u : VUnit) : List (Pick → Option Row) :=
  [ fun _ => some ⟨formVpopc, .vpopc u⟩,
    fun _ => some ⟨formVbfx, .vbfx u⟩,
    fun _ => some ⟨formVbfi, .vbfi u⟩,
    fun _ => some ⟨formVsel, .vsel u⟩,
    fun _ => some ⟨formVcmpS, .vcmpS u⟩,
    fun _ => some ⟨formVcmpU, .vcmpU u⟩,
    fun _ => some ⟨formFcmpF32, .fcmpF32 u⟩,
    fun _ => some ⟨formFcmpF64, .fcmpF64 u⟩,
    fun _ => some ⟨formFaddF32, .faddF32 u⟩,
    fun _ => some ⟨formFsubF32, .fsubF32 u⟩,
    fun _ => some ⟨formFmulF32, .fmulF32 u⟩,
    fun _ => some ⟨formFfmaF32, .ffmaF32 u⟩,
    fun _ => some ⟨formFminF32, .fminF32 u⟩,
    fun _ => some ⟨formFmaxF32, .fmaxF32 u⟩,
    fun _ => some ⟨formFdivF32, .fdivF32 u⟩,
    fun _ => some ⟨formFsqrtF32, .fsqrtF32 u⟩ ]

/-- Class VA and VB, opcodes 0x20..0x2F (R77). -/
def rowsV2 (u : VUnit) : List (Pick → Option Row) :=
  [ fun _ => some ⟨formFrcpF32, .frcpF32 u⟩,
    fun _ => some ⟨formFrsqF32, .frsqF32 u⟩,
    fun _ => some ⟨formFexp2F32, .fexp2F32 u⟩,
    fun _ => some ⟨formFlog2F32, .flog2F32 u⟩,
    fun _ => some ⟨formFsinF32, .fsinF32 u⟩,
    fun _ => some ⟨formFcosF32, .fcosF32 u⟩,
    fun _ => some ⟨formFaddF16, .faddF16 u⟩,
    fun _ => some ⟨formFsubF16, .fsubF16 u⟩,
    fun _ => some ⟨formFmulF16, .fmulF16 u⟩,
    fun _ => some ⟨formFfmaF16, .ffmaF16 u⟩,
    fun _ => some ⟨formFaddF64, .faddF64 u⟩,
    fun _ => some ⟨formFsubF64, .fsubF64 u⟩,
    fun _ => some ⟨formFmulF64, .fmulF64 u⟩,
    fun _ => some ⟨formFfmaF64, .ffmaF64 u⟩,
    fun _ => some ⟨formFminF64, .fminF64 u⟩,
    fun _ => some ⟨formFmaxF64, .fmaxF64 u⟩ ]

/-- Class VA and VB, opcodes 0x30..0x3D (R77). -/
def rowsV3 (u : VUnit) : List (Pick → Option Row) :=
  [ fun _ => some ⟨formFdivF64, .fdivF64 u⟩,
    fun _ => some ⟨formFsqrtF64, .fsqrtF64 u⟩,
    fun _ => some ⟨formFrcpF64, .frcpF64 u⟩,
    fun _ => some ⟨formFrsqF64, .frsqF64 u⟩,
    fun _ => some ⟨formPand, .pand u⟩,
    fun _ => some ⟨formPor, .por u⟩,
    fun _ => some ⟨formPxor, .pxor u⟩,
    fun _ => some ⟨formPnot, .pnot u⟩,
    fun _ => some ⟨formVshuf, .vshuf u⟩,
    fun q => if q.b = 0 then some ⟨formVbcast, .vbcast u⟩ else if q.b = 1 then some ⟨formVbcastLane, .vbcastLane u⟩ else none,
    fun _ => some ⟨formVred, .vred u⟩,
    fun _ => some ⟨formVvote, .vvote u⟩,
    fun _ => some ⟨formVqdx, .vqdx u⟩,
    fun _ => some ⟨formVqdy, .vqdy u⟩ ]

/-- Class VA and VB, by opcode from 0x00 (R77). -/
def rowsV (u : VUnit) : List (Pick → Option Row) :=
  rowsV0 u ++ rowsV1 u ++ rowsV2 u ++ rowsV3 u

/-- Class M, opcodes 0x00..0x0F (R77). -/
def rowsM0 : List (Pick → Option Row) :=
  [ fun _ => some ⟨formLdB8, .ldB8⟩,
    fun _ => some ⟨formLdS8, .ldS8⟩,
    fun _ => some ⟨formLdB16, .ldB16⟩,
    fun _ => some ⟨formLdS16, .ldS16⟩,
    fun _ => some ⟨formLdB32, .ldB32⟩,
    fun _ => some ⟨formLdB64, .ldB64⟩,
    fun _ => some ⟨formStB8, .stB8⟩,
    fun _ => some ⟨formStB16, .stB16⟩,
    fun _ => some ⟨formStB32, .stB32⟩,
    fun _ => some ⟨formStB64, .stB64⟩,
    fun _ => some ⟨formLdsB8, .ldsB8⟩,
    fun _ => some ⟨formLdsS8, .ldsS8⟩,
    fun _ => some ⟨formLdsB16, .ldsB16⟩,
    fun _ => some ⟨formLdsS16, .ldsS16⟩,
    fun _ => some ⟨formLdsB32, .ldsB32⟩,
    fun _ => some ⟨formLdsB64, .ldsB64⟩ ]

/-- Class M, opcodes 0x10..0x1F (R77). -/
def rowsM1 : List (Pick → Option Row) :=
  [ fun _ => some ⟨formLdpB8, .ldpB8⟩,
    fun _ => some ⟨formLdpS8, .ldpS8⟩,
    fun _ => some ⟨formLdpB16, .ldpB16⟩,
    fun _ => some ⟨formLdpS16, .ldpS16⟩,
    fun _ => some ⟨formLdpB32, .ldpB32⟩,
    fun _ => some ⟨formLdpB64, .ldpB64⟩,
    fun _ => some ⟨formStpB8, .stpB8⟩,
    fun _ => some ⟨formStpB16, .stpB16⟩,
    fun _ => some ⟨formStpB32, .stpB32⟩,
    fun _ => some ⟨formStpB64, .stpB64⟩,
    fun _ => some ⟨formLdt, .ldt⟩,
    fun _ => some ⟨formStt, .stt⟩,
    fun _ => some ⟨formFence, .fence⟩,
    fun _ => some ⟨formDrain, .drain⟩,
    fun _ => some ⟨formPref, .pref⟩,
    fun _ => none ]

/-- Class M, opcodes 0x20..0x2F (R77). -/
def rowsM2 : List (Pick → Option Row) :=
  [ fun _ => some ⟨formAtomAdd, .atomAdd⟩,
    fun _ => some ⟨formAtomMinS, .atomMinS⟩,
    fun _ => some ⟨formAtomMinU, .atomMinU⟩,
    fun _ => some ⟨formAtomMaxS, .atomMaxS⟩,
    fun _ => some ⟨formAtomMaxU, .atomMaxU⟩,
    fun _ => some ⟨formAtomAnd, .atomAnd⟩,
    fun _ => some ⟨formAtomOr, .atomOr⟩,
    fun _ => some ⟨formAtomXor, .atomXor⟩,
    fun _ => some ⟨formAtomExch, .atomExch⟩,
    fun _ => some ⟨formAtomAddB64, .atomAddB64⟩,
    fun _ => some ⟨formAtomExchB64, .atomExchB64⟩,
    fun _ => some ⟨formAtomFaddF32, .atomFaddF32⟩,
    fun _ => some ⟨formAtomFminF32, .atomFminF32⟩,
    fun _ => some ⟨formAtomFmaxF32, .atomFmaxF32⟩,
    fun _ => some ⟨formAtomcB32, .atomcB32⟩,
    fun _ => some ⟨formAtomcB64, .atomcB64⟩ ]

/-- Class M, opcodes 0x30..0x31 (R77). -/
def rowsM3 : List (Pick → Option Row) :=
  [ fun _ => some ⟨formFifopush, .fifopush⟩,
    fun _ => some ⟨formFifopop, .fifopop⟩ ]

/-- Class M, by opcode from 0x00 (R77). -/
def rowsM : List (Pick → Option Row) :=
  rowsM0 ++ rowsM1 ++ rowsM2 ++ rowsM3

/-- Class G, by opcode from 0x00 (R77). -/
def rowsG : List (Pick → Option Row) :=
  [ fun _ => some ⟨formGrstep, .grstep⟩,
    fun _ => some ⟨formGbox, .gbox⟩,
    fun _ => some ⟨formGtri2, .gtri2⟩,
    fun _ => some ⟨formGcurve, .gcurve⟩,
    fun _ => some ⟨formGpsplit, .gpsplit⟩,
    fun _ => some ⟨formGpflat, .gpflat⟩,
    fun _ => some ⟨formGtex, .gtex⟩,
    fun _ => some ⟨formGtexl, .gtexl⟩,
    fun _ => some ⟨formGpublish, .gpublish⟩ ]

/-- Class X, by opcode from 0x00 (R77). -/
def rowsX : List (Pick → Option Row) :=
  [ fun q => if q.a = 63 then some ⟨formMxdefRel, .mxdefRel⟩ else some ⟨formMxdef, .mxdef⟩,
    fun _ => some ⟨formMxcall, .mxcall⟩,
    fun _ => some ⟨formMxparm, .mxparm⟩,
    fun _ => some ⟨formMxacc, .mxacc⟩,
    fun _ => some ⟨formMxzero, .mxzero⟩ ]

/-- Class K, by opcode from 0x00 (R77). -/
def rowsK : List (Pick → Option Row) :=
  [ fun _ => some ⟨formKset, .kset⟩,
    fun _ => some ⟨formKld, .kld⟩ ]

/-- Class C, opcodes 0x00..0x0F (R77). -/
def rowsC0 : List (Pick → Option Row) :=
  [ fun _ => some ⟨formCvtF64, .cvtF64⟩,
    fun _ => some ⟨formCvtF32, .cvtF32⟩,
    fun _ => some ⟨formCvtF16, .cvtF16⟩,
    fun _ => some ⟨formCvtBf16, .cvtBf16⟩,
    fun _ => some ⟨formCvtE4m3, .cvtE4m3⟩,
    fun _ => some ⟨formCvtE5m2, .cvtE5m2⟩,
    fun _ => some ⟨formCvtI32, .cvtI32⟩,
    fun _ => some ⟨formCvtI16, .cvtI16⟩,
    fun _ => some ⟨formCvtI8, .cvtI8⟩,
    fun _ => some ⟨formCvtI4, .cvtI4⟩,
    fun _ => some ⟨formCvtUn8, .cvtUn8⟩,
    fun _ => some ⟨formCvtSrgb8, .cvtSrgb8⟩,
    fun _ => some ⟨formCvtB1, .cvtB1⟩,
    fun _ => some ⟨formCvtE8m0, .cvtE8m0⟩,
    fun _ => none,
    fun _ => none ]

/-- Class C, opcodes 0x10..0x11 (R77). -/
def rowsC1 : List (Pick → Option Row) :=
  [ fun _ => some ⟨formCpack, .cpack⟩,
    fun _ => some ⟨formCunpack, .cunpack⟩ ]

/-- Class C, by opcode from 0x00 (R77). -/
def rowsC : List (Pick → Option Row) :=
  rowsC0 ++ rowsC1

/-- Class Y, by opcode from 0x00 (R77). -/
def rowsY : List (Pick → Option Row) :=
  [ fun _ => some ⟨formCpy, .cpy⟩,
    fun _ => some ⟨formColl, .coll⟩,
    fun _ => some ⟨formTwait, .twait⟩,
    fun _ => some ⟨formTtest, .ttest⟩,
    fun _ => some ⟨formTcancel, .tcancel⟩,
    fun _ => some ⟨formTdet, .tdet⟩,
    fun _ => some ⟨formTrel, .trel⟩,
    fun _ => some ⟨formTprio, .tprio⟩,
    fun q => if q.a = 0 then some ⟨formCntwaitMx, .cntwaitMx⟩ else if q.a = 1 then some ⟨formCntwaitCp, .cntwaitCp⟩ else if q.a = 2 then some ⟨formCntwaitCo, .cntwaitCo⟩ else none,
    fun _ => some ⟨formQput, .qput⟩,
    fun _ => some ⟨formRres, .rres⟩,
    fun _ => some ⟨formRcommit, .rcommit⟩,
    fun _ => some ⟨formRngseed, .rngseed⟩ ]

/-- Class B, by opcode from 0x00 (R77). -/
def rowsB : List (Pick → Option Row) :=
  [ fun _ => some ⟨formBra, .bra⟩,
    fun q => if q.d = 0 then some ⟨formBrcAny, .brcAny⟩ else if q.d = 1 then some ⟨formBrcAll, .brcAll⟩ else if q.d = 2 then some ⟨formBrcNone, .brcNone⟩ else if q.d = 3 then some ⟨formBrcNall, .brcNall⟩ else none,
    fun _ => some ⟨formBrd, .brd⟩,
    fun _ => some ⟨formJoin, .join⟩,
    fun _ => some ⟨formCall, .call⟩,
    fun _ => some ⟨formRet, .ret⟩,
    fun _ => some ⟨formChk, .chk⟩,
    fun _ => some ⟨formYield, .yield⟩,
    fun _ => some ⟨formExit, .exit⟩,
    fun _ => some ⟨formLfill, .lfill⟩ ]

/-- Class Z, by opcode from 0x00 (R77). -/
def rowsZ : List (Pick → Option Row) :=
  [ fun q => if q.a = 0 then some ⟨formBar, .bar⟩ else if q.a = 1 then some ⟨formBarArrive, .barArrive⟩ else if q.a = 2 then some ⟨formBarWait, .barWait⟩ else none,
    fun q => if q.d < 16 then some ⟨formBarbInit, .barbInit⟩ else if q.d < 32 then some ⟨formBarbExpect, .barbExpect⟩ else if q.d < 48 then some ⟨formBarbArrive, .barbArrive⟩ else some ⟨formBarbWait, .barbWait⟩,
    fun _ => some ⟨formRbrel, .rbrel⟩,
    fun _ => some ⟨formRbclaim, .rbclaim⟩,
    fun _ => some ⟨formTrap, .trap⟩,
    fun q => if q.a = 0 then some ⟨formRte, .rte⟩ else if q.a = 1 then some ⟨formRteSkip, .rteSkip⟩ else none,
    fun _ => some ⟨formBankmode, .bankmode⟩,
    fun _ => some ⟨formPrpub, .prpub⟩,
    fun _ => some ⟨formPosew, .posew⟩,
    fun _ => some ⟨formTracemark, .tracemark⟩,
    fun _ => some ⟨formBrk, .brk⟩,
    fun _ => some ⟨formWaitevt, .waitevt⟩,
    fun _ => some ⟨formEnrd, .enrd⟩ ]

/-- The rows of a class. -/
def rowsOf (cls : Nat) : List (Pick → Option Row) :=
  match cls with
  | 0 => rowsU
  | 1 => rowsV .va
  | 2 => rowsV .vb
  | 3 => rowsM
  | 4 => rowsG
  | 5 => rowsX
  | 6 => rowsK
  | 7 => rowsC
  | 8 => rowsY
  | 9 => rowsB
  | 10 => rowsZ
  | _ => []

/-- The row that a class, an opcode and the choosing fields select. -/
def rowAt (cls op : Nat) (q : Pick) : Option Row :=
  match (rowsOf cls)[op]? with
  | some f => f q
  | none => none

/-! ## Fields of a word -/

/-- The class of a word (R52). -/
def wordClass (w : Word) : Nat := (w.extractLsb' 27 4).toNat

/-- The stop bit (R52). -/
def wordStop (w : Word) : Bool := w.getLsbD 31

/-- The modifier fields of a payload (R60). -/
def modOfPayload (x : BitVec 24) : EMod :=
  { cv := x.getLsbD 23, creg := x.extractLsb' 17 6, rm := x.extractLsb' 14 3, scope := x.extractLsb' 11 3,
    cache := x.extractLsb' 8 3, fmt := x.extractLsb' 4 4, lf := x.getLsbD 3, sat := x.getLsbD 2, det := x.getLsbD 1 }

/-- The E slots after a base word. -/
structure ESlots where
  imm : Option (BitVec 24) := none
  mod : Option (BitVec 24) := none
  /-- Contents illegal under R58 or R60. -/
  bad : Bool := false
  stop : Bool := false
  rest : List Word := []

/-- Takes the E slots from the words after a base slot; `off` is the offset of the next word from the base slot. An E slot
that may not follow is left where it stands, and is the next slot's error (R56). -/
def takeE (e : ESlots) (off : Nat) : List Word → ESlots
  | [] => { e with rest := [] }
  | w :: ws =>
    let kind := (w.extractLsb' 25 2).toNat
    if e.stop || wordClass w != 11 || decide (off > 2) || (kind == 0 && e.imm.isSome) || (kind == 1 && e.mod.isSome) then
      { e with rest := w :: ws }
    else
      let payload : BitVec 24 := w.extractLsb' 0 24
      let reserved := w.getLsbD 24
      if kind == 0 then takeE { e with imm := some payload, bad := e.bad || reserved, stop := wordStop w } (off + 1) ws
      else if kind == 1 then
        takeE { e with mod := some payload, bad := e.bad || reserved || payload.getLsbD 0, stop := wordStop w } (off + 1) ws
      else takeE { e with bad := true, stop := wordStop w } (off + 1) ws

/-! ## Slots -/

/-- Decodes the slot at the front of a bundle's words: the instruction and the words after it, or why its first
word is illegal (R56). -/
def decodeSlot (ws : List Word) : Except DecodeError (Instr × List Word) :=
  match ws with
  | [] => .error .empty
  | w :: rest =>
    let cls := wordClass w
    if cls = 11 then .error .eFirst
    else if cls ≥ 13 then .error .reservedClass
    else if cls = 12 then
      if w.extractLsb' 0 20 = 0 then
        .ok (.hSlot (wordStop w) (w.extractLsb' 22 5) (w.getLsbD 21) (w.getLsbD 20), rest)
      else .error .field
    else
      let e := takeE { stop := wordStop w } 1 rest
      let d : BitVec 6 := w.extractLsb' 12 6
      let a : BitVec 6 := w.extractLsb' 6 6
      let b : BitVec 6 := w.extractLsb' 0 6
      match rowAt cls (w.extractLsb' 18 6).toNat ⟨d, a, b, e.imm.isSome⟩ with
      | none => .error .unassigned
      | some r =>
        let s : Slot := { stop := e.stop, p := w.extractLsb' 24 3, d := d, a := a, b := b, imm := e.imm,
                          mod := e.mod.map modOfPayload }
        if e.bad then .error .eField
        else if !slotOk r.form s then
          .error (if (match s.mod with
                      | none => false
                      | some m => !modOk r.form.mods s.imm.isSome m) then .modifier
                  else if (match s.imm with
                      | none => false
                      | some x => !immOk r.form.imm x) then .immediate
                  else .field)
        else .ok (r.make s, e.rest)

/-! ## Encoding -/

/-- Places a field at a bit. -/
def fieldAt (x : Nat) (lo : Nat) : Nat := x * 2 ^ lo

/-- An E slot (R58). -/
def eWord (stop : Bool) (kind : Nat) (payload : BitVec 24) : Word :=
  BitVec.ofNat 32 (fieldAt (b01 stop) 31 + fieldAt 11 27 + fieldAt kind 25 + payload.toNat)

/-- The payload of a modifier (R60). -/
def payloadOfMod (m : EMod) : BitVec 24 :=
  BitVec.ofNat 24 (fieldAt (b01 m.cv) 23 + fieldAt m.creg.toNat 17 + fieldAt m.rm.toNat 14 + fieldAt m.scope.toNat 11
    + fieldAt m.cache.toNat 8 + fieldAt m.fmt.toNat 4 + fieldAt (b01 m.lf) 3 + fieldAt (b01 m.sat) 2
    + fieldAt (b01 m.det) 1)

/-- The words of a slot of a class and opcode (R52, R58): the immediate E slot comes first (R80). -/
def encodeFields (cls op : Nat) (s : Slot) : List Word :=
  let base (stop : Bool) : Word :=
    BitVec.ofNat 32 (fieldAt (b01 stop) 31 + fieldAt cls 27 + fieldAt s.p.toNat 24 + fieldAt op 18
      + fieldAt s.d.toNat 12 + fieldAt s.a.toNat 6 + s.b.toNat)
  match s.imm, s.mod with
  | none, none => [base s.stop]
  | some x, none => [base false, eWord s.stop 0 x]
  | none, some m => [base false, eWord s.stop 1 (payloadOfMod m)]
  | some x, some m => [base false, eWord false 0 x, eWord s.stop 1 (payloadOfMod m)]

/-- The words of a slot instruction; none for the rows that are not slots. -/
def encode (i : Instr) : List Word :=
  match slotOf i with
  | some (f, cls, s) => encodeFields cls f.op s
  | none =>
    match i with
    | .hSlot stop gap gw mb =>
      [BitVec.ofNat 32 (fieldAt (b01 stop) 31 + fieldAt 12 27 + fieldAt gap.toNat 22 + fieldAt (b01 gw) 21
        + fieldAt (b01 mb) 20)]
    | _ => []

/-! ## Command packets (R101, R102) -/

/-- The packet of eight doublewords. -/
def packetOf (w : Nat → DWord) : Packet := ⟨w 0, w 1, w 2, w 3, w 4, w 5, w 6, w 7⟩

/-- The row that a packet asks for; `none` for an unlisted TYPE (BADTYPE, R102). -/
def decodePacket (k : Packet) : Option Instr :=
  match (k.hdr.extractLsb' 0 8).toNat with
  | 0 => some .nop
  | 1 => some .launch
  | 2 => some .blocklaunch
  | 3 => some .waitmem
  | 4 => some .signal
  | 5 => some .depend
  | 6 => some .indirect
  | 7 => some .present
  | 8 => some .capstart
  | 9 => some .capstop
  | 10 =>
    match (k.dw1.extractLsb' 16 2).toNat with
    | 1 => some .rqconfFlush
    | 2 => some .rqconfTearDown
    | _ => some .rqconfConfigure
  | _ => none

/-! ## Scanline slots (R444, R445) -/

/-- The six slots of a word, by position (R444). -/
inductive SlPos where
  | a
  | b
  | m
  | l
  | w
  | c
  deriving DecidableEq, Repr

/-- What a field of a scanline slot holds: nothing, a register of the slot's own file, an even register, or bits. -/
inductive SlField where
  | zero
  | reg
  | even
  | bits
  /-- Codes below a bound. -/
  | below (n : Nat)
  deriving DecidableEq, Repr

/-- Whether a field is legal; `lim` is the number of registers of the file (R446). -/
def slFieldOk (lim : Nat) (f : SlField) (x : BitVec 5) : Bool :=
  match f with
  | .zero => x == 0
  | .reg => decide (x.toNat < lim)
  | .even => decide (x.toNat + 1 < lim) && x.toNat % 2 == 0
  | .bits => true
  | .below n => decide (x.toNat < n)

/-- A scanline form: opcode, the fields and the constructor. -/
structure SlRow where
  d : SlField
  x : SlField
  y : SlField
  op : Instr

/-- Slots A and B (R453). -/
def slRowsAB : List SlRow :=
  [ ⟨.reg, .reg, .reg, .slAdd⟩, ⟨.reg, .reg, .reg, .slSub⟩, ⟨.reg, .reg, .reg, .slAnd⟩, ⟨.reg, .reg, .reg, .slOr⟩,
    ⟨.reg, .reg, .reg, .slXor⟩, ⟨.reg, .reg, .reg, .slShl⟩, ⟨.reg, .reg, .reg, .slShr⟩, ⟨.reg, .reg, .reg, .slSar⟩,
    ⟨.reg, .reg, .reg, .slMin⟩, ⟨.reg, .reg, .reg, .slMax⟩, ⟨.reg, .reg, .reg, .slSlt⟩, ⟨.reg, .reg, .reg, .slSeq⟩,
    ⟨.reg, .reg, .bits, .slAddi⟩, ⟨.reg, .bits, .bits, .slMovi⟩, ⟨.reg, .bits, .bits, .slMovl⟩,
    ⟨.reg, .reg, .reg, .slFadd⟩, ⟨.reg, .reg, .reg, .slFsub⟩, ⟨.reg, .reg, .reg, .slFmin⟩, ⟨.reg, .reg, .reg, .slFmax⟩,
    ⟨.reg, .reg, .reg, .slFslt⟩, ⟨.reg, .reg, .zero, .slF2i⟩, ⟨.reg, .reg, .zero, .slI2f⟩, ⟨.reg, .reg, .reg, .slF2h⟩,
    ⟨.reg, .reg, .zero, .slH2fl⟩, ⟨.reg, .reg, .zero, .slH2fh⟩ ]

/-- Slot M (R453). -/
def slRowsM : List SlRow :=
  [ ⟨.reg, .reg, .reg, .slFmul⟩, ⟨.reg, .reg, .reg, .slFfma⟩, ⟨.reg, .reg, .reg, .slFdiv⟩, ⟨.reg, .reg, .zero, .slFrcp⟩,
    ⟨.reg, .reg, .zero, .slFsqrt⟩, ⟨.reg, .reg, .reg, .slMFadd⟩, ⟨.reg, .reg, .reg, .slMFsub⟩, ⟨.reg, .reg, .reg, .slImul⟩,
    ⟨.reg, .bits, .bits, .slMMovi⟩, ⟨.reg, .bits, .bits, .slMMovl⟩ ]

/-- Slot L (R453). -/
def slRowsL : List SlRow :=
  [ ⟨.reg, .reg, .bits, .slLdw⟩, ⟨.reg, .reg, .bits, .slStw⟩, ⟨.reg, .reg, .zero, .slOut⟩, ⟨.reg, .reg, .reg, .slLAdd⟩,
    ⟨.reg, .reg, .bits, .slLAddi⟩, ⟨.reg, .bits, .bits, .slLMovi⟩, ⟨.reg, .bits, .bits, .slLMovl⟩ ]

/-- Slot W (R453, R458): sources .c and .h write an even pair. -/
def slRowsW (y : Nat) : List SlRow :=
  let d : SlField := if y % 4 = 0 ∨ y % 4 = 3 then .even else .reg
  [ ⟨d, .even, .below 4, .slSampBl⟩, ⟨d, .even, .below 4, .slSampPt⟩ ]

/-- Slot C (R453, R459-R464). XFER's registers lie in the files that its opcode and Y name (R459). -/
def slRowsC (y : Nat) : List SlRow :=
  let src : SlField := if y = 5 then .below 16 else .bits
  [ ⟨.bits, src, .below 6, .slXferA⟩, ⟨.bits, src, .below 6, .slXferB⟩, ⟨.bits, src, .below 6, .slXferM⟩,
    ⟨.bits, src, .below 6, .slXferL⟩, ⟨.bits, src, .below 6, .slXferW⟩, ⟨.reg, src, .below 6, .slXferC⟩,
    ⟨.bits, .bits, .bits, .slBr⟩, ⟨.reg, .bits, .bits, .slBrnz⟩, ⟨.reg, .bits, .bits, .slBrz⟩,
    (match y with
      | 1 => ⟨.reg, .zero, .below 4, .slWaitMb⟩
      | 2 => ⟨.zero, .zero, .below 4, .slWaitFr⟩
      | 3 => ⟨.zero, .zero, .below 4, .slWaitFifo⟩
      | _ => ⟨.zero, .zero, .below 4, .slWait⟩),
    ⟨.reg, .even, .zero, .slFetch⟩, ⟨.reg, .even, .zero, .slOxcall⟩, ⟨.reg, .zero, .bits, .slPose⟩,
    ⟨.reg, .zero, .below 10, .slSys⟩, ⟨.reg, .bits, .bits, .slCMovi⟩, ⟨.reg, .bits, .bits, .slCMovl⟩,
    ⟨.reg, .reg, .bits, .slCAddi⟩, ⟨.zero, .zero, .zero, .slDone⟩ ]

/-- The rows of a slot position. -/
def slRowsOf (p : SlPos) (y : Nat) : List SlRow :=
  match p with
  | .a => slRowsAB
  | .b => slRowsAB
  | .m => slRowsM
  | .l => slRowsL
  | .w => slRowsW y
  | .c => slRowsC y

/-- Registers of a slot's own file (R446). -/
def slLimit (p : SlPos) : Nat := if p = .c then 16 else 32

/-- Decodes the 20 bits of a present slot; errors are context faults (R451). -/
def decodeSl (p : SlPos) (w : BitVec 20) : Except DecodeError Instr :=
  let s : SlSlot := ⟨w.extractLsb' 10 5, w.extractLsb' 5 5, w.extractLsb' 0 5⟩
  match (slRowsOf p s.y.toNat)[(w.extractLsb' 15 5).toNat]? with
  | none => .error .unassigned
  | some r =>
    if slFieldOk (slLimit p) r.d s.d && slFieldOk (slLimit p) r.x s.x && slFieldOk (slLimit p) r.y s.y then .ok r.op
    else .error .field

/-- The 20 bits of a scanline slot with an opcode (R445). -/
def encodeSl (op : Nat) (s : SlSlot) : BitVec 20 :=
  BitVec.ofNat 20 (fieldAt op 15 + fieldAt s.d.toNat 10 + fieldAt s.x.toNat 5 + s.y.toNat)

/-- The position of a slot in a word: its low bit (R444). -/
def slShift (p : SlPos) : Nat :=
  match p with
  | .a => 8
  | .b => 28
  | .m => 48
  | .l => 68
  | .w => 88
  | .c => 108

/-! ## The table's words -/

/-- The bytes of a word as the hardware stores them (R52). -/
def wordBytes (w : Word) : List Byte := natLe w.toNat 4

/-- The words that little-endian bytes hold. -/
def bytesWords : List Byte → List Word
  | b0 :: b1 :: b2 :: b3 :: t => BitVec.ofNat 32 (leNat [b0, b1, b2, b3]) :: bytesWords t
  | _ => []

/-- The words of an instruction of the table: its bits, then zeros up to a bundle of eight words (R53). -/
def tableWords (nbits w : Nat) : List Word :=
  let first : Word := BitVec.ofNat 32 (w % 2 ^ nbits)
  bytesWords (wordBytes first ++ List.replicate 28 0)

/-- What the decoder reads from a word of the opcode table. -/
def decodeTableWord (nbits w : Nat) : Option Instr :=
  match decodeSlot (tableWords nbits w) with
  | .ok (i, _) => some i
  | .error _ => none

end Sys2Proof
end

