-- ==== Sys2Proof/Machine/Access.lean ====
section
/-! DEFINITION. Reading and writing the objects of State: groups, paths, registers with their shadows (spec/07_group.md
R131, R149), contexts, queues and the places of cores. -/

namespace Sys2Proof.Machine

/-! ## Places (R12) -/

/-- A sequencer place `loc` is 64 times the sequencer number plus the group slot; a sequencer number is 4 times the
module core number plus the sequencer within the core. -/
def seqOf (loc : Nat) : Nat := loc / 64
def coreOf (loc : Nat) : Nat := loc / 256
def clusterOf (core : Nat) : Nat := core / 4
def dieOf (core : Nat) : Nat := core / 32

/-! ## Objects -/

def getGroup (s : State) (loc : Nat) : Option Group := tget none s.groups loc
def putGroup (s : State) (loc : Nat) (g : Group) : State := { s with groups := tput none s.groups loc (some g) }
def dropGroup (s : State) (loc : Nat) : State := { s with groups := tput none s.groups loc none }
def modGroup (s : State) (loc : Nat) (f : Group → Group) : State :=
  match getGroup s loc with
  | some g => putGroup s loc (f g)
  | none => s

def getCtx (s : State) (c : Nat) : Context := tget {} s.ctxs c
def putCtx (s : State) (c : Nat) (x : Context) : State := { s with ctxs := tput {} s.ctxs c x }
def modCtx (s : State) (c : Nat) (f : Context → Context) : State := putCtx s c (f (getCtx s c))

def getQueue (s : State) (q : Nat) : Queue := tget {} s.queues q
def putQueue (s : State) (q : Nat) (x : Queue) : State := { s with queues := tput {} s.queues q x }
def modQueue (s : State) (q : Nat) (f : Queue → Queue) : State := putQueue s q (f (getQueue s q))

def getCore (s : State) (n : Nat) : Core := tget {} s.cores n
def putCore (s : State) (n : Nat) (x : Core) : State := { s with cores := tput {} s.cores n x }
def modCore (s : State) (n : Nat) (f : Core → Core) : State := putCore s n (f (getCore s n))

def getSeq (s : State) (n : Nat) : Seq := tget {} s.seqs n
def putSeq (s : State) (n : Nat) (x : Seq) : State := { s with seqs := tput {} s.seqs n x }
def modSeq (s : State) (n : Nat) (f : Seq → Seq) : State := putSeq s n (f (getSeq s n))

def getBank (s : State) (n : Nat) : Bank := tget {} s.banks n
def putBank (s : State) (n : Nat) (x : Bank) : State := { s with banks := tput {} s.banks n x }

def getChild (s : State) (key : Nat) : Option Child := tget none s.children key
def putChild (s : State) (key : Nat) (c : Child) : State := { s with children := tput none s.children key (some c) }
def dropChild (s : State) (key : Nat) : State := { s with children := tput none s.children key none }
def modChild (s : State) (key : Nat) (f : Child → Child) : State :=
  match getChild s key with
  | some c => putChild s key (f c)
  | none => s

def getHead (s : State) (h : Nat) : Head := tget {} s.heads h
def putHead (s : State) (h : Nat) (x : Head) : State := { s with heads := tput {} s.heads h x }
def modHead (s : State) (h : Nat) (f : Head → Head) : State := putHead s h (f (getHead s h))

def getLink (s : State) (n : Nat) : Link := tget {} s.links n
def putLink (s : State) (n : Nat) (x : Link) : State := { s with links := tput {} s.links n x }
def modLink (s : State) (n : Nat) (f : Link → Link) : State := putLink s n (f (getLink s n))

/-- The kernel of a context with a launch number (R127). -/
def getKernel (s : State) (c : Nat) (launch : Word) : Option Kernel :=
  s.kernels.find? fun k => k.ctx == c && k.launch == launch

/-- Rewrites the kernel of a context with a launch number. -/
def modKernel (s : State) (c : Nat) (launch : Word) (f : Kernel → Kernel) : State :=
  { s with kernels := s.kernels.map fun k => if k.ctx == c && k.launch == launch then f k else k }

/-- The placed set of a group. -/
def getSet (s : State) (c : Nat) (launch set : Word) : Option SetRec :=
  s.sets.find? fun r => r.ctx == c && r.launch == launch.toNat && r.k == set.toNat

/-- Rewrites a placed set. -/
def modSet (s : State) (c : Nat) (launch set : Word) (f : SetRec → SetRec) : State :=
  { s with sets := s.sets.map fun r => if r.ctx == c && r.launch == launch.toNat && r.k == set.toNat then f r else r }

/-! ## Paths -/

/-- The path in a slot of a group. -/
def pathAt (g : Group) (p : Nat) : Path := if p = 0 then g.p0 else g.p1
def putPath (g : Group) (p : Nat) (x : Path) : Group := if p = 0 then { g with p0 := x } else { g with p1 := x }
def modPath (g : Group) (p : Nat) (f : Path → Path) : Group := putPath g p (f (pathAt g p))

/-- Rewrites a path of a resident group. -/
def modPathAt (s : State) (loc p : Nat) (f : Path → Path) : State := modGroup s loc fun g => modPath g p f

/-- Two masks share a lane. -/
def meets (a b : LaneMask) : Bool := a &&& b != 0

/-! ## Registers -/

/-- A lane of a vector register. -/
def vreg (g : Group) (r l : Nat) : PWord := tget {} g.v (16 * r + l)

/-- The key of a shadowed register (R400): `s(i)` as i, `sp(n)` as 0x8000 + n. -/
def spKey (n : Nat) : Nat := 0x8000 + n

/-- The shadow entry of a register. -/
def shadowOf (sh : List Shadow) (key : Nat) : Option Shadow := sh.find? fun e => e.reg == key

/-- A uniform as a path reads it (R149). -/
def sreg (g : Group) (pt : Path) (i : Nat) : PWord :=
  match shadowOf pt.shadow i with
  | some e => ⟨e.val, e.poison⟩
  | none => tget {} g.s i

/-- A scalar predicate as a path reads it; code 7 reads true (R57, R149). -/
def spreg (g : Group) (pt : Path) (n : Nat) : PBit :=
  if n = 7 then ⟨true, false⟩
  else match shadowOf pt.shadow (spKey n) with
    | some e => ⟨e.val != 0, e.poison⟩
    | none => tget {} g.sp n

/-- A lane predicate; code 7 reads true in every lane (R57). -/
def preg (g : Group) (n : Nat) : PMask := if n = 7 then ⟨0xFFFF, 0⟩ else tget {} g.p n

/-- The pair `s(i + 1) : s(i)` and whether either is poisoned. -/
def spair (g : Group) (pt : Path) (i : Nat) : Nat × Bool :=
  let lo := sreg g pt i
  let hi := sreg g pt (i + 1)
  (lo.val.toNat + 2 ^ 32 * hi.val.toNat, lo.poison || hi.poison)

/-- The lane pair `v(r + 1)<l> : v(r)<l>` and whether either is poisoned. -/
def vpair (g : Group) (r l : Nat) : Nat × Bool :=
  let lo := vreg g r l
  let hi := vreg g (r + 1) l
  (lo.val.toNat + 2 ^ 32 * hi.val.toNat, lo.poison || hi.poison)

/-- A shadow after a write of a register at a level (R149). -/
def shadowPut (sh : List Shadow) (key level : Nat) (val : Word) (poison : Bool) : List Shadow :=
  match sh with
  | [] => [⟨key, level, val, poison⟩]
  | e :: t => if e.reg = key then ⟨key, level, val, poison⟩ :: t else e :: shadowPut t key level val poison

/-- The file's value of a shadowed register. -/
def fileVal (g : Group) (key : Nat) : PWord :=
  if key < 0x8000 then tget {} g.s key
  else let b : PBit := tget {} g.sp (key - 0x8000); ⟨if b.val then 1 else 0, b.poison⟩

/-- Writes a shadowed register's place in the group's file. -/
def filePut (g : Group) (key : Nat) (val : Word) (poison : Bool) : Group :=
  if key < 0x8000 then { g with s := tput {} g.s key ⟨val, poison⟩ }
  else { g with sp := tput {} g.sp (key - 0x8000) ⟨val != 0, poison⟩ }

/-- The depth of a region's sides: the low six bits of its token (R144). -/
def regionDepth (r : Region) : Nat := r.token.toNat % 64

/-- Whether a side's state lies in the divergence stack (R146). -/
def sideStored : Side → Bool
  | .pending => true
  | .arrived => true
  | _ => false

/-- A uniform or scalar-predicate result lands: in the file if its path issued it at depth 0, else in the shadow of
every path that holds a lane of its mask (R145, R149). -/
def landUniform (g : Group) (mask : LaneMask) (depth key : Nat) (val : Word) (poison : Bool) : Group :=
  if depth = 0 then filePut g key val poison
  else
    let onPath (pt : Path) : Path :=
      if pt.st != .empty && meets pt.mask mask && pt.depth != 0 then
        { pt with shadow := shadowPut pt.shadow key (min depth pt.depth) val poison }
      else pt
    let onRegion (r : Region) : Region :=
      let lv := min depth (regionDepth r)
      let r := if sideStored r.st0 && meets r.mask0 mask then { r with sh0 := shadowPut r.sh0 key lv val poison } else r
      if sideStored r.st1 && meets r.mask1 mask then { r with sh1 := shadowPut r.sh1 key lv val poison } else r
    let g := { g with p0 := onPath g.p0, p1 := onPath g.p1, stack := g.stack.map onRegion }
    if (g.p0.st != .empty && meets g.p0.mask mask && g.p0.depth == 0)
        || (g.p1.st != .empty && meets g.p1.mask mask && g.p1.depth == 0) then filePut g key val poison
    else g

/-- One register write of a result lands (R65, R71). -/
def landWrite (g : Group) (mask : LaneMask) (depth : Nat) (w : RegWrite) : Group :=
  match w with
  | .v r l x => { g with v := tput {} g.v (16 * r + l) x }
  | .s r x => landUniform g mask depth r x.val x.poison
  | .sp r x => landUniform g mask depth (spKey r) (if x.val then 1 else 0) x.poison
  | .p r l x =>
    let m : PMask := tget {} g.p r
    let bit : LaneMask := BitVec.ofNat 16 (2 ^ l)
    let set (on : Bool) (y : LaneMask) : LaneMask := if on then y ||| bit else y &&& ~~~bit
    { g with p := tput {} g.p r ⟨set x.val m.val, set x.poison m.poison⟩ }
  | .x r d => { g with x := tput 0 g.x r d }

/-- All writes of a result land. -/
def landWrites (g : Group) (mask : LaneMask) (depth : Nat) (ws : List RegWrite) : Group :=
  ws.foldl (fun g w => landWrite g mask depth w) g

/-! ## The scoreboard (R70) -/

/-- Whether a register range holds the register of a write. -/
def useHits (u : RegUse) (w : RegWrite) : Bool :=
  let inRange (n : Nat) : Bool := decide (u.first ≤ n) && decide (n < u.first + u.cnt)
  match u.kind, w with
  | .v, .v r _ _ => inRange r
  | .s, .s r _ => inRange r
  | .sp, .sp r _ => inRange r
  | .p, .p r _ _ => inRange r
  | .x, .x r _ => inRange r
  | _, _ => false

/-- Whether two register ranges of one kind overlap. -/
def usesMeet (u w : RegUse) : Bool :=
  decide (u.kind = w.kind) && decide (u.first < w.first + w.cnt) && decide (w.first < u.first + u.cnt)

/-- The registers that an unbound memory access will write. -/
def entryUses (e : MemEntry) : List RegUse :=
  match e.kind with
  | .load width _ d => [⟨.v, d, if width = 64 then 2 else 1, true⟩]
  | .atomic .publish d => [⟨.p, d, 1, true⟩]
  | .atomic _ d => [⟨.v, d, if e.size = 8 then 2 else 1, true⟩]
  | _ => []

/-- Whether a register has a result pending for a path (R70). -/
def pendingUse (g : Group) (pt : Path) (u : RegUse) : Bool :=
  (g.inflight.any fun r => meets r.mask pt.mask && r.writes.any (useHits u))
  || (g.macc.any fun e => meets e.mask pt.mask && (entryUses e).any (usesMeet u))
  || (g.cancels.any fun k => meets k.mask pt.mask && usesMeet u ⟨.s, k.d, 1, true⟩)

/-! ## Free values -/

/-- Draws a free value's index (notes/assumptions/3.md). -/
def drawFree (s : State) : Nat × State := (s.freeCtr, { s with freeCtr := s.freeCtr + 1 })

/-! ## Memory by doubleword -/

/-- A 32-bit word of memory. -/
def mem32 (m : Memory) (a : Nat) : Word := BitVec.ofNat 32 (readN m a 4)
/-- A doubleword of memory. -/
def mem64 (m : Memory) (a : Nat) : DWord := BitVec.ofNat 64 (readN m a 8)
/-- `n` doublewords of memory. -/
def mem64s (m : Memory) (a : Nat) : Nat → List DWord
  | 0 => []
  | n + 1 => mem64 m a :: mem64s m (a + 8) n

/-- The bytes of doublewords. -/
def dwBytes (l : List DWord) : List Byte := l.flatMap fun d => natLe d.toNat 8

/-- The doublewords of bytes. -/
def bytesDw : List Byte → List DWord
  | b0 :: b1 :: b2 :: b3 :: b4 :: b5 :: b6 :: b7 :: t =>
    BitVec.ofNat 64 (leNat [b0, b1, b2, b3, b4, b5, b6, b7]) :: bytesDw t
  | _ => []

/-- Doubleword `i` of a list; 0 beyond its end. -/
def dwAt (l : List DWord) (i : Nat) : Nat := (l.getD i 0).toNat

/-! ## Local memory and its copies (R20, R21, R232, R233) -/

/-- One past the last local GDDR 7 address (R20). -/
def gddrEnd : Nat := 0x8000000000

/-- A host carve-out address (R21). -/
def inCarveOut (pa : Nat) : Bool := decide (pa < gddrEnd) && pa % 2 ^ 36 ≥ 0xF00000000

/-- An address of another module (R20). -/
def isRemote (pa : Nat) : Bool := decide (0x100000000000 ≤ pa)

/-- Whether `n` bytes at `pa` lie wholly in local GDDR 7. -/
def inGddr (pa n : Nat) : Bool := decide (pa + n ≤ gddrEnd)

/-- The line of an address (R232). -/
def lineOf (pa : Nat) : Nat := pa / 1024

/-- The die that homes an address of local GDDR 7. -/
def homeDie (pa : Nat) : Nat := fld pa 38 36

/-- The slice of its die that homes an address of local GDDR 7 (R232); for a withdrawn slice the next above it, round the 48,
that is not withdrawn (R381). -/
def homeSlice (s : State) (pa : Nat) : Nat :=
  let first := fld pa 35 10 % 48
  let out := tget 0 s.repair.l2w (homeDie pa)
  (((List.range 48).map fun i => (first + i) % 48).find? fun x => !out.getLsbD x).getD first

/-- The bytes of L2 that a die has: 2 MiB for each slice that is not withdrawn (R381). -/
def l2Bytes (s : State) (die : Nat) : Nat :=
  2097152 * ((List.range 48).filter fun x => !(tget 0 s.repair.l2w die).getLsbD x).length

/-- The two dies that die link `n` joins (R10, R402): compute die n and the next one round the ring, or compute die n - 8 and
the hub die, which is number 8. -/
def linkDies (n : Nat) : Nat × Nat := if n < 8 then (n, (n + 1) % 8) else (n - 8, 8)

/-- The die links that traffic from one die to another crosses, in order (R11). -/
def dieRoute (a b : Nat) : List Nat :=
  let up := (b + 8 - a) % 8
  if a = b then []
  else if b = 8 then [8 + a]
  else if a = 8 then [8 + b]
  else if up ≤ 4 then (List.range up).map fun i => (a + i) % 8
  else (List.range (8 - up)).map fun i => (a + 7 - i) % 8

/-- Whether no link of the routes between two dies has failed (R11, R408). -/
def dieReach (s : State) (a b : Nat) : Bool := (dieRoute a b ++ dieRoute b a).all fun n => decide ((getLink s n).st ≠ .error)

/-- The die that an access of global memory goes to: its home, or the hub die for another module's (R11, R232). -/
def accessDie (pa : Nat) : Nat := if isRemote pa then 8 else homeDie pa

/-- The die of a translation unit and of the accesses that are made through it (R371). -/
def unitDie : TUnit → Nat
  | .core n => n / 32
  | .copy n => n / 8
  | .walk n => n
  | .engine _ => 8

/-- Drops a cluster's copy of a line. -/
def dropCopy (s : State) (cluster line : Nat) : State :=
  { s with copies := s.copies.filter fun c => !(c.cluster == cluster && c.line == line) }

/-! ## Agents and scopes (R239, R245) -/

/-- The cluster of an agent: a group's, and that of the engine on which a child runs. -/
def agentCluster : Agent → Option Nat
  | .path loc _ => some (clusterOf (coreOf loc))
  | .child key => some (clusterOf (key / 4096))
  | _ => none

/-- Whether an agent is no agent of this module's own: the host complex and other modules. -/
def outside : Agent → Bool
  | .host _ => true
  | .elsewhere _ => true
  | _ => false

/-- Whether two agents are paths of one group, or one agent. -/
def sameUnit (a b : Agent) : Bool :=
  match a, b with
  | .path x _, .path y _ => x == y
  | _, _ => decide (a = b)

/-- The narrowest scope whose instance for agent `a` holds agent `b` (R239): 1 .g, 2 .c, 3 .d, 4 .m, 5 .s. -/
def scopeOf (a b : Agent) : Nat :=
  if sameUnit a b then 1
  else match agentCluster a, agentCluster b with
    | some x, some y => if x = y then 2 else if x / 8 = y / 8 then 3 else 4
    | _, _ => if outside a || outside b then 5 else 4

/-- Whether agent `b` lies in the instance of a scope for agent `a` (R239, R245). -/
def inInstance (scope : Nat) (a b : Agent) : Bool := decide (scopeOf a b ≤ scope)

/-- A copy whose line has been written since it was filled, with one more agent that has read or acquired such a write. -/
def seenBy (a : Agent) (c : LineCopy) : LineCopy := if c.seen.contains a then c else { c with seen := a :: c.seen }

/-- The copies of lines that a range touches, after an agent has written there (R233). -/
def staleCopies (a : Agent) (pa n : Nat) (l : List LineCopy) : List LineCopy :=
  l.map fun c => if decide (pa < 1024 * (c.line + 1)) && decide (1024 * c.line < pa + n) then seenBy a c else c

/-- An agent reads lines at their home: it has then read every write of them that a copy misses (R246). -/
def takeIn (a : Agent) (lines : List Nat) (s : State) : State :=
  { s with copies := s.copies.map fun c => if lines.contains c.line && !c.seen.isEmpty then seenBy a c else c }

/-- An acquire at a scope (R244-R246, R250): the agent takes in what the agents of its instance have written, read or
acquired. Its cluster drops the copies that miss such a write, so that a later load never binds an older value; against
another cluster's copy it counts from now on with those agents (notes/assumptions/12.md). -/
def acquireBy (a : Agent) (scope : Nat) (s : State) : State :=
  { s with copies := s.copies.filterMap fun c =>
      if c.seen.any (inInstance scope a) then (if agentCluster a = some c.cluster then none else some (seenBy a c)) else some c }

/-- Agent `b` follows agent `a` (R249): it has taken in what `a` has. -/
def follow (a b : Agent) (s : State) : State :=
  { s with copies := s.copies.map fun c => if c.seen.contains a then seenBy b c else c }

/-- Reads local memory at its home. -/
def readHome (s : State) (pa n : Nat) : List Byte := mread s.mem pa n

/-! ## Waits on a word of memory (R104, R366) -/

/-- The conditions of WAITMEM. -/
def memCond (cond x y : Nat) : Bool :=
  match cond with
  | 0 => x == y
  | 1 => x != y
  | 2 => decide (x ≥ y)
  | _ => decide (x < y)

/-- The conditions of WAITEVT, unsigned. -/
def evtHolds (cond : Nat) (x y : Word) : Bool :=
  match cond with
  | 0 => x == y
  | 1 => x != y
  | 2 => x.ult y
  | _ => !(x.ult y)

/-- The condition of a WAITEVT, from its slot's D field. -/
def evtCond (e : EvtWait) : Nat := fld e.word.toNat 17 15

/-- Whether a write of `n` bytes at `pa` touches the `k` bytes at `a`. -/
def writeMeets (pa n a k : Nat) : Bool := decide (pa < a + k) && decide (a < pa + n)

/-- The scope of a WAITEVT, 0 meaning .m (R366). -/
def evtScope (e : EvtWait) : Nat := if fld e.modw.toNat 13 11 = 0 then 4 else fld e.modw.toNat 13 11

/-- Whether an entry orders what its path accesses later: an acquire, a FENCE, a DRAIN. -/
def entryOrders (e : MemEntry) : Bool :=
  match e.kind with
  | .fence => true
  | .drain => true
  | .write => false
  | .load .. => e.scope != 0
  | .atomic .. => e.scope != 0

/-- Whether a WAITEVT of a path may read its word at an address: no earlier access of the path that it must follow is
unbound or unperformed, an acquire, a FENCE or an access of that word (R240, R242). -/
def evtReady (g : Group) (mask : LaneMask) (pa : Nat) : Bool :=
  !g.macc.any fun b => meets b.mask mask && (entryOrders b || (!b.pond && b.lanes.any fun l => writeMeets l.pa b.size pa 4))

/-- A queue's WAITMEM tests its doubleword again after a write there (R104). -/
def seeQueue (m : Memory) (pa n : Nat) (x : Queue) : Queue :=
  match x.on with
  | some (.waitmem (some a) va cond value mask met) =>
    { x with on := some (.waitmem (some a) va cond value mask
        (met || (writeMeets pa n a 8 && memCond cond (readN m a 8 &&& mask) value))) }
  | _ => x

/-- A WAITEVT reads its word again after a write there (R366). -/
def seeWait (m : Memory) (pa n : Nat) (g : Group) (mask : LaneMask) (w : Wait) : Wait :=
  match w with
  | .waitevt e =>
    match e.pa with
    | some a => .waitevt { e with met := e.met
        || (writeMeets pa n a 4 && evtReady g mask a && evtHolds (evtCond e) (mem32 m a) e.comparand) }
    | none => w
  | w => w

/-- The waits of both paths of a group read again. -/
def seeGroup (m : Memory) (pa n : Nat) (g : Group) : Group :=
  { g with
    p0 := { g.p0 with waits := g.p0.waits.map (seeWait m pa n g g.p0.mask) }
    p1 := { g.p1 with waits := g.p1.waits.map (seeWait m pa n g g.p1.mask) } }

/-- Whether a group has a WAITEVT. -/
def groupWaits (g : Group) : Bool := !(g.p0.waits.isEmpty && g.p1.waits.isEmpty)

/-- An agent's write performs at its home (R244): cluster copies of the line are older from then on, and every wait on a
word that is written tests it again. -/
def writeBy (a : Agent) (s : State) (pa : Nat) (bs : List Byte) : State :=
  let m := mwrite s.mem pa bs
  { s with
    mem := m
    copies := staleCopies a pa bs.length s.copies
    queues := s.queues.map fun e => (e.1, seeQueue m pa bs.length e.2)
    groups := s.groups.map fun e => (e.1, e.2.map fun g => if groupWaits g then seeGroup m pa bs.length g else g) }

/-- A write of the queue engine, or of another engine of the hub die. -/
def writeHome (s : State) (pa : Nat) (bs : List Byte) : State := writeBy .queue s pa bs

end Sys2Proof.Machine
end

