-- ==== Sys2Proof/Machine/Translate.lean ====
section
/-! DEFINITION. Translation of virtual addresses: the walk, the malformed entries, the permissions, the A and D bits and
the units' cached leaves (spec/16_page.md R367-R373). -/

namespace Sys2Proof.Machine

/-- What an access needs of a page (R369), and whether it may reach another module (R411). -/
structure Need where
  r : Bool := false
  w : Bool := false
  x : Bool := false
  remote : Bool := false
  deriving DecidableEq, Repr

/-- A leaf that a walk has read: the entry, its address and the page size in bits. -/
structure Leaf where
  pte : Nat
  at_ : Nat
  bits : Nat
  deriving DecidableEq, Repr

/-- The result of a translation: a physical address; a failed check by its cause of R201 with the level read; or a unit
that starts no new translation (R373). -/
inductive XRes where
  | ok (pa : Nat)
  | fault (cause level : Nat)
  | hold
  deriving DecidableEq, Repr

/-- The index of a level (R367). -/
def walkIndex (level va : Nat) : Nat := if level = 0 then fld va 20 16 else (va >>> (12 + 9 * level)) % 512

/-- The page size in bits of a leaf (R367). -/
def leafBits (level : Nat) : Nat := if level = 0 then 16 else 12 + 9 * level

/-- Whether a valid entry is malformed at a level (R368). -/
def malformed (level e : Nat) : Bool :=
  let leaf := bitOf e 1
  let table := fld e 51 8 * 256
  fld e 63 52 != 0
  || (!leaf && fld e 7 2 != 0)
  || (leaf && decide (level ≥ 3))
  || (!leaf && level == 0)
  || (leaf && table % 2 ^ leafBits level != 0)
  || (!leaf && decide (level ≥ 2) && table % 4096 != 0)
  || (!leaf && !inGddr table (if level = 1 then 256 else 4096))
  || (bitOf e 3 && !bitOf e 2)

/-- The walk from a level down, reading each entry at its home (R367, R369). The first argument is one more than the level. -/
def walk (m : Memory) (va : Nat) : Nat → Nat → Except (Nat × Nat) Leaf
  | 0, _ => .error (2, 0)
  | level + 1, table =>
    let at_ := table + 8 * walkIndex level va
    let e := readN m at_ 8
    if !bitOf e 0 then .error (1, level)
    else if malformed level e then .error (2, level)
    else if bitOf e 1 then .ok ⟨e, at_, leafBits level⟩
    else walk m va level (fld e 51 8 * 256)

/-- The table entries that a walk passes on its way to a leaf: level, value, address. -/
def walkTables (m : Memory) (va : Nat) : Nat → Nat → List (Nat × Nat × Nat)
  | 0, _ => []
  | level + 1, table =>
    let at_ := table + 8 * walkIndex level va
    let e := readN m at_ 8
    if !bitOf e 0 || malformed level e || bitOf e 1 then [] else (level, e, at_) :: walkTables m va level (fld e 51 8 * 256)

/-- The addresses of the entries that a walk reads. -/
def walkReads (m : Memory) (va : Nat) : Nat → Nat → List Nat
  | 0, _ => []
  | level + 1, table =>
    let at_ := table + 8 * walkIndex level va
    let e := readN m at_ 8
    if !bitOf e 0 || malformed level e || bitOf e 1 then [at_] else at_ :: walkReads m va level (fld e 51 8 * 256)

/-- Whether a leaf grants what an access needs (R369). -/
def grants (pte : Nat) (n : Need) : Bool :=
  (!n.r || bitOf pte 2) && (!n.w || bitOf pte 3) && (!n.x || bitOf pte 4)

/-- The physical address that a leaf gives (R367). -/
def leafPa (pte bits va : Nat) : Nat := fld pte 51 8 * 256 / 2 ^ bits * 2 ^ bits + va % 2 ^ bits

/-- Whether a physical address is closed to the access (R20, R21, R369, R410, R411). -/
def closedPa (s : State) (pa : Nat) (n : Need) : Bool :=
  inCarveOut pa
  || (decide (gddrEnd ≤ pa) && !isRemote pa)
  || (isRemote pa && (!n.remote || decide (pa % 2 ^ 40 ≥ 0x8000000000) || (pa / 2 ^ 40 - 16) == s.modid))

/-- Whether a unit holds back new translations of an ASN (R373). -/
def unitHeld (s : State) (u : TUnit) (asn : Nat) : Bool :=
  s.invals.any fun i => i.asn == asn && i.blockedUnits.contains u

/-- A unit's cached leaf for an address (R371). -/
def tlbFind (s : State) (u : TUnit) (asn va : Nat) : Option TlbEntry :=
  s.tlb.find? fun e => decide (e.tunit = u) && e.asn == asn && e.va == va / 2 ^ e.bits * 2 ^ e.bits

/-- The cached translations without those of one unit for one address. -/
def tlbDrop (s : State) (u : TUnit) (asn va : Nat) : State :=
  { s with tlb := s.tlb.filter fun e => !(decide (e.tunit = u) && e.asn == asn && e.va == va / 2 ^ e.bits * 2 ^ e.bits) }

/-- The walk cache of a unit's die (R371); the engine buffers of the hub die have none. -/
def walkUnit : TUnit → Option TUnit
  | .core n => some (.walk ⟨n / 32, by omega⟩)
  | .copy n => some (.walk ⟨n / 8, by omega⟩)
  | _ => none

/-- The range in bits that a table entry of a level covers. -/
def tableBits (level : Nat) : Nat := 12 + 9 * level

/-- A unit's walk-cache entry of the lowest level for an address: one more than the level of the walk's next read, and the
table that it reads. -/
def cachedTable (s : State) (u : TUnit) (asn va : Nat) : Option (Nat × Nat) :=
  match walkUnit u with
  | none => none
  | some w =>
    (s.tlb.filter fun e => decide (e.tunit = w) && e.asn == asn && e.va == va / 2 ^ e.bits * 2 ^ e.bits).foldl (fun o e =>
      let l := (e.bits - 12) / 9
      match o with
      | some (k, _) => if l < k then some (l, fld e.pte.toNat 51 8 * 256) else o
      | none => some (l, fld e.pte.toNat 51 8 * 256)) none

/-- The walk-cache entries of an address are discarded (R372). -/
def dropTables (s : State) (u : TUnit) (asn va : Nat) : State :=
  match walkUnit u with
  | none => s
  | some w => tlbDrop s w asn va

/-- The table entries that a walk has read enter the die's walk cache (R371). -/
def keepTables (s : State) (u : TUnit) (asn va : Nat) (l : List (Nat × Nat × Nat)) : State :=
  match walkUnit u with
  | none => s
  | some w => { s with tlb := l.foldl (fun t e =>
      ⟨w, asn, va / 2 ^ tableBits e.1 * 2 ^ tableBits e.1, tableBits e.1, BitVec.ofNat 64 e.2.1, e.2.2⟩ ::
        t.filter fun o => !(decide (o.tunit = w) && o.asn == asn && o.bits == tableBits e.1 && o.va == va / 2 ^ o.bits * 2 ^ o.bits)) s.tlb }

/-- Whether no die link between a unit and the home of an address has failed (R11, R408): a read that would cross one waits
(notes/assumptions/14.md). -/
def unitReach (s : State) (u : TUnit) (pa : Nat) : Bool := dieReach s (unitDie u) (accessDie pa)

/-- A leaf's entry with A and, for a write, D set (R370). -/
def markedLeaf (pte : Nat) (n : Need) : Nat := pte ||| 0x20 ||| (if n.w then 0x40 else 0)

/-- A leaf stays in a unit's buffer with its bits set at its home (R370, R371). -/
def cacheLeaf (s : State) (u : TUnit) (asn va : Nat) (leaf : Leaf) (n : Need) : State :=
  let pte := markedLeaf leaf.pte n
  let s := tlbDrop (if pte = leaf.pte then s else { s with mem := writeN s.mem leaf.at_ 8 pte }) u asn va
  { s with tlb := ⟨u, asn, va / 2 ^ leaf.bits * 2 ^ leaf.bits, leaf.bits, BitVec.ofNat 64 pte, leaf.at_⟩ :: s.tlb }

/-- Walks from a table, sets A and, for a write, D on the leaf, and caches what it read (R370, R371). The first number is
one more than the level of the table's entries. -/
def walkFrom (s : State) (u : TUnit) (asn fuel table va : Nat) (n : Need) : State × XRes :=
  if !(walkReads s.mem va fuel table).all (unitReach s u) then (s, .hold)
  else match walk s.mem va fuel table with
  | .error (c, level) => (s, .fault c level)
  | .ok leaf =>
    let level := if leaf.bits = 16 then 0 else (leaf.bits - 12) / 9
    if !grants leaf.pte n then (s, .fault 2 level)
    else
      let pa := leafPa leaf.pte leaf.bits va
      if closedPa s pa n then (s, .fault 2 level)
      else (cacheLeaf (keepTables s u asn va (walkTables s.mem va fuel table)) u asn va leaf n, .ok pa)

/-- Walks for an access from level 4, no cached entry of the address being left (R372). -/
def walkAnew (s : State) (u : TUnit) (asn root va : Nat) (n : Need) : State × XRes :=
  walkFrom (dropTables (tlbDrop s u asn va) u asn va) u asn 5 root va n

/-- Walks for an access (R371, R372): from the cached table of the lowest level, and afresh from level 4 with none or when
that walk fails. -/
def walkFresh (s : State) (u : TUnit) (asn root va : Nat) (n : Need) : State × XRes :=
  match cachedTable s u asn va with
  | none => walkFrom s u asn 5 root va n
  | some (fuel, table) =>
    match walkFrom s u asn fuel table va n with
    | (s, .ok pa) => (s, .ok pa)
    | (s, .hold) => (s, .hold)
    | (s, .fault ..) => walkAnew s u asn root va n

/-- Whether an entry that is read again is the leaf that was cached, or one that differs only in A, D or added permissions (R370). -/
def sameLeaf (level e pte : Nat) (n : Need) : Bool :=
  bitOf e 0 && !malformed level e && bitOf e 1 && fld e 51 7 == fld pte 51 7 && grants e n

/-- A write through a cached leaf with D = 0 (R370): its entry is read again at its home; if it is the same leaf, D is set and the
write proceeds, and otherwise the walk starts again from level 4. -/
def reReadLeaf (s : State) (u : TUnit) (asn root va : Nat) (n : Need) (c : TlbEntry) : State × XRes :=
  let level := if c.bits = 16 then 0 else (c.bits - 12) / 9
  let e := readN s.mem c.at_ 8
  if !unitReach s u c.at_ then (s, .hold)
  else if sameLeaf level e c.pte.toNat n then (cacheLeaf s u asn va ⟨e, c.at_, c.bits⟩ n, .ok (leafPa e c.bits va))
  else walkAnew s u asn root va n

/-- Translates an address for an access by a unit (R367-R373). A cached leaf serves if it grants the access; for a write its D is
set first; one that does not grant it is dropped with every entry that led to it. -/
def translate (s : State) (u : TUnit) (c va : Nat) (n : Need) : State × XRes :=
  let x := getCtx s c
  if unitHeld s u x.asn then (s, .hold)
  else match tlbFind s u x.asn va with
    | none => walkFresh s u x.asn x.root va n
    | some e =>
      let pa := leafPa e.pte.toNat e.bits va
      if !grants e.pte.toNat n || closedPa s pa n then walkAnew s u x.asn x.root va n
      else if n.w && !bitOf e.pte.toNat 6 then reReadLeaf s u x.asn x.root va n e
      else (s, .ok pa)

/-- A translation for an access that the unit makes at once: it waits where a die link on its way has failed (R11, R408). -/
def translateNow (s : State) (u : TUnit) (c va : Nat) (n : Need) : State × XRes :=
  match translate s u c va n with
  | (s, .ok pa) => (s, if unitReach s u pa then .ok pa else .hold)
  | r => r

/-- Translates a range of `n` bytes that may cross pages: the physical address of each byte, in order, or the first
failed byte's fault with its address (cause 0: it waits). The fuel is the number of 64 KiB pages the range can touch. -/
def translateRange (s : State) (u : TUnit) (c va n : Nat) (need : Need) : Nat → State × Except (Nat × Nat × Nat) (List (Nat × Nat))
  | 0 => (s, .ok [])
  | fuel + 1 =>
    if n = 0 then (s, .ok [])
    else
      let here := min n (65536 - va % 65536)
      match translateNow s u c va need with
      | (s, .fault cause level) => (s, .error (cause, level, va))
      | (s, .hold) => (s, .error (0, 0, va))
      | (s, .ok pa) =>
        match translateRange s u c (va + here) (n - here) need fuel with
        | (s, .error e) => (s, .error e)
        | (s, .ok l) => (s, .ok ((pa, here) :: l))

/-- The bytes of a translated range. -/
def readPieces (m : Memory) (l : List (Nat × Nat)) : List Byte := l.flatMap fun p => mread m p.1 p.2

/-- Reads a range of a context's memory at home (R104, R369): the bytes, or cause (1, 2; 0 for a held unit), level and
address of the failure. -/
def readVirt (s : State) (u : TUnit) (c va n : Nat) : State × Except (Nat × Nat × Nat) (List Byte) :=
  match translateRange s u c va n { r := true } (n / 65536 + 2) with
  | (s, .error e) => (s, .error e)
  | (s, .ok l) => (s, .ok (readPieces s.mem l))

/-- Stores bytes over translated pieces. -/
def writePieces (s : State) : List (Nat × Nat) → List Byte → State
  | [], _ => s
  | (pa, n) :: t, bs => writePieces (writeHome s pa (bs.take n)) t (bs.drop n)

/-- Writes a range of a context's memory at home; nothing is written if any byte fails. -/
def writeVirt (s : State) (u : TUnit) (c va : Nat) (bs : List Byte) : State × Except (Nat × Nat × Nat) Unit :=
  match translateRange s u c va bs.length { w := true } (bs.length / 65536 + 2) with
  | (s, .error e) => (s, .error e)
  | (s, .ok l) => (writePieces s l bs, .ok ())

end Sys2Proof.Machine
end

