-- ==== Sys2Proof/Machine/Ops.lean ====
section
/-! DEFINITION. The operations that every slot shares: records of the fault queue, stopping a context, taking a trap and
returning from it, parking a path, and the frame that a slot runs in (spec/03_bundles.md R63-R70, spec/16_page.md R376,
spec/17_traps.md R383-R395). -/

namespace Sys2Proof.Machine

/-! ## Fault-queue records (R88, R385) -/

/-- Bytes of fields laid one after another: (size, value). -/
def packFields (l : List (Nat × Nat)) : List Byte := l.flatMap fun f => natLe f.2 f.1

/-- The value of sr.ctx (R94). -/
def srCtx (s : State) (c : Nat) : Nat := (getCtx s c).asn * 65536 + c

/-- Appends a 64-byte record to a context's fault queue, or drops it when the queue is full (R88). -/
def postRecord (s : State) (c : Nat) (bytes : List Byte) : State :=
  let x := getCtx s c
  if (x.fqtail - x.fqhead).toNat ≥ 2 ^ x.fqlog then putCtx s c { x with fqlost := x.fqlost + 1 }
  else
    let s := writeHome s (x.fqbase + 64 * (x.fqtail.toNat % 2 ^ x.fqlog)) bytes
    putCtx s c { x with fqtail := x.fqtail + 1 }

/-- What a page-fault report says (R376). -/
structure Report where
  token : Nat := 0
  source : Nat
  access : Nat
  va : Nat
  baddr : Nat := 0
  launch : Nat := 0
  group : Nat := 0
  slot : Nat := 0
  level : Nat
  lanes : Nat := 0

/-- Posts a page-fault report (R376). -/
def pageReport (s : State) (c : Nat) (r : Report) : State :=
  let x := getCtx s c
  let s := putCtx s c { x with reports := x.reports + 1 }
  postRecord s c (packFields [(4, r.token), (2, 1), (1, r.source), (1, r.access), (8, r.va % 2 ^ 57), (8, r.baddr),
    (4, srCtx s c), (4, r.launch), (4, r.group), (1, r.slot), (1, r.level), (2, r.lanes), (8, (x.reports + 1).toNat), (16, 0)])

/-- Posts a queue record (R387). -/
def queueRecord (s : State) (c cause source token addr baddr launch group queue pkt tag : Nat) : State :=
  postRecord s c (packFields [(4, token), (2, cause), (1, source), (1, 0), (8, addr), (8, baddr), (4, srCtx s c),
    (4, launch), (4, group), (4, queue), (4, pkt), (4, tag), (16, 0)])

/-! ## Windows and tokens -/

/-- A delay window as DELAY holds it (R386): the target only of a taken branch. -/
def windowWord (w : Option Window) : Nat :=
  match w with
  | none => 0
  | some w => w.left * 2 ^ 62 + (if w.taken then 2 ^ 61 + w.target else 0)

/-- The innermost region of a path: the one whose sides are as deep as the path and hold its lanes (R144). -/
def innermost (g : Group) (pt : Path) : Option Region :=
  if pt.depth = 0 then none
  else g.stack.find? fun r => regionDepth r == pt.depth && (meets r.mask0 pt.mask || meets r.mask1 pt.mask)

/-- The token of a path's innermost region, or 0. -/
def innerToken (g : Group) (pt : Path) : Nat :=
  match innermost g pt with
  | some r => r.token.toNat
  | none => 0

/-- The mask of a path slot, or 0 (R386). -/
def slotMask (pt : Path) : Nat := if pt.st = .empty then 0 else pt.mask.toNat

/-! ## Stopping a context (R89, R393) -/

/-- The resident groups of a context, by place, ascending: the order of the save's group images (R397). -/
def ctxGroups (s : State) (c : Nat) : List (Nat × Group) :=
  s.groups.filterMap fun e => match e.2 with
    | some g => if g.ctx = c then some (e.1, g) else none
    | none => none

/-- The children of a context that have not ended, by key (R258). -/
def liveChild (c : Child) : Bool :=
  match c.st with
  | .complete => false
  | .faulted => false
  | .cancelled => false
  | _ => true

/-- Entry keys and children of a context. -/
def ctxChildren (s : State) (c : Nat) : List (Nat × Child) :=
  s.children.filterMap fun e => match e.2 with
    | some h => if h.ctx = c then some (e.1, h) else none
    | none => none

/-! ## The size of a save (R394, R397) -/

/-- A size rounded up to 4 KiB. -/
def up4k (n : Nat) : Nat := (n + 4095) / 4096 * 4096

/-- The accumulator tiles that a holder has on a core, ascending (R286). -/
def tilesOf (s : State) (core : Nat) (h : TileHolder) : List Nat :=
  (List.range 64).filter fun t => decide (tget TileHolder.free (getCore s core).tiles t = h)

/-- The routine-table entries that a group holds on its core, ascending (R287). -/
def routinesOf (s : State) (loc : Nat) : List Nat :=
  (List.range 256).filter fun i => match tget none (getCore s (coreOf loc)).routines i with
    | some e => e.holder == loc
    | none => false

/-- The module core of a child-table entry key (R255): its die and core. -/
def childCore (key : Nat) : Nat := key / 4096

/-- The size of a matrix state block (R310); 0 for an owner that holds nothing. -/
def blockSize (tiles entries : Nat) : Nat := if tiles + entries = 0 then 0 else 0x80 + 64 * entries + 16384 * tiles

/-- The sizes of a context's matrix state blocks, groups before children. -/
def matrixSize (s : State) (c : Nat) : Nat :=
  ((ctxGroups s c).map fun e => blockSize (tilesOf s (coreOf e.1) (.group e.1)).length (routinesOf s e.1).length).sum
  + ((ctxChildren s c).map fun e => blockSize (tilesOf s (childCore e.1) (.child e.1)).length 0).sum

/-- The sets of a context that hold resident groups (R397). -/
def ctxSets (s : State) (c : Nat) : List SetRec := s.sets.filter fun r => r.ctx == c

/-- The size of a context's whole save (R397): each part starts at a 4 KiB boundary. -/
def saveSize (s : State) (c : Nat) : Nat :=
  let g := (ctxGroups s c).length
  let h := ((ctxChildren s c).filter fun e => liveChild e.2).length
  0x1000 + 0x18000 * g + up4k (8 * g)
    + up4k ((ctxSets s c).map fun r => 64 + 262144 * r.banks.length).sum
    + up4k (up4k (4 * h) + 256 * h) + up4k (matrixSize s c)

/-- Whether the save fits its area (R394). -/
def saveFits (s : State) (c : Nat) : Bool := decide (saveSize s c ≤ (getCtx s c).sasize * 4096)

/-- Closes the open bundle when its group belongs to a context: an uncommitted bundle is squashed (R69). -/
def squash (s : State) (c : Nat) : State :=
  match s.cur with
  | none => s
  | some is =>
    match getGroup s is.loc with
    | some g => if g.ctx = c then { s with cur := none } else s
    | none => s

/-- Closes the open bundle of a context on one of the cores (R393). -/
def squashOn (s : State) (c : Nat) (cores : List Nat) : State :=
  match s.cur with
  | some is => if cores.contains (coreOf is.loc) then squash s c else s
  | none => s

/-- The stop of a context begins (R393): at `cores` its bundles are squashed and it issues no more, and its children pause at
their next point (R269). -/
def stopUnits (s : State) (c : Nat) (cores : List Nat) : State :=
  let s := modCtx (squashOn s c cores) c fun x => { x with stopped := x.stopped ++ cores.filter fun n => !x.stopped.contains n }
  { s with children := s.children.map fun e => match e.2 with
      | some h => if h.ctx = c && liveChild h then (e.1, some { h with stop := true }) else e
      | none => e }

/-- A context leaves created, runnable and resident: its queues are suspended (R99). -/
def suspendQueues (s : State) (c : Nat) : State :=
  { s with queues := s.queues.map fun e =>
      let x := e.2
      if x.ctx = c then match x.st with
        | .idle | .runnable | .dispatching | .blocked => (e.1, { x with st := .suspended, left := x.st, bySoftware := false })
        | _ => e
      else e }

/-- Enters pre-empting (R89) for a command, or for a trap under TP = 0 (`cmd` 0). The stop reaches `cores` at once and every
other core by the end of the stop at the latest (R393, notes/assumptions/20.md): until then its groups go on. -/
def stopContext (s : State) (c cmd : Nat) (cores : List Nat) : State :=
  let x := getCtx s c
  if x.st = .preempting then stopUnits s c cores
  else suspendQueues (stopUnits (putCtx s c { x with st := .preempting, stopFor := cmd, busy := cmd != 0, stopped := [], trapRecs := [] })
    c cores) c

/-- Whether the groups of a context on a core may issue: it is being served, or its stop has not reached the core. -/
def coreServed (s : State) (c core : Nat) : Bool :=
  let x := getCtx s c
  match x.st with
  | .created => true
  | .runnable => true
  | .resident => true
  | .preempting => !x.stopped.contains core
  | _ => false

/-! ## Taking a trap (R383-R389) -/

/-- The trap record (R386) without IV and IMAGE, which the save gives it (`imagedRecord`). -/
def trapRecord (s : State) (is : Issue) (g : Group) (slot : Nat) (t : TrapInfo) (dbl : Bool) : List Byte :=
  let pt := pathAt g is.path
  packFields [(4, t.token.toNat), (2, 0x200 + (if dbl then 16 else t.cause)), (1, 4),
    (1, b01 pt.window.isSome + 2 * b01 (dbl || g.hnd && g.hndPath == is.path)),
    (8, is.baddr), (8, t.addr), (4, srCtx s g.ctx), (4, g.launch.toNat), (4, g.gidx.toNat), (1, slot), (1, is.len),
    (2, t.lanes.toNat), (8, windowWord pt.window), (1, pt.depth), (1, is.path), (2, slotMask g.p0), (2, slotMask g.p1),
    (2, 0), (4, innerToken g g.p0), (4, innerToken g g.p1)]

/-- A trap record once its group's image has its place in the save, if anything is saved (R386): IV and IMAGE. -/
def imagedRecord (r : List Byte) (image : Option Nat) : List Byte :=
  match image with
  | none => r
  | some i => r.take 7 ++ [r.getD 7 0 ||| 4] ++ (r.drop 8).take 46 ++ natLe i 2 ++ r.drop 56

/-- Posts the trap records of a stopped context in the order of the traps; `saved`: its groups go into the save (R386, R394). -/
def postTrapRecords (s : State) (c : Nat) (saved : Bool) : State :=
  let gs := ctxGroups s c
  let s' := (getCtx s c).trapRecs.foldl (fun s r =>
    postRecord s c (imagedRecord r.2 (if saved then gs.findIdx? fun e => e.1 == r.1 else none))) s
  modCtx s' c fun x => { x with trapRecs := [] }

/-- sr.ecause at handler entry (R388). -/
def ecauseWord (is : Issue) (slot : Nat) (dw : Bool) (t : TrapInfo) : Word :=
  BitVec.ofNat 32 (t.lanes.toNat * 65536 + b01 dw * 32768 + (is.len - 1) % 8 * 4096 + 2048 + slot % 8 * 256 + t.cause)

/-- sr.ecause as it reads: HND is the group's (R388). -/
def ecauseRead (g : Group) : Word := (g.ecause &&& 0xFFFFF7FF) ||| (if g.hnd then 0x800 else 0)

/-- Handler entry under TP = 1 (R388): the saved registers, the window and the latch writes set aside, and the path at
HANDLER with its mask, depth and shadow. -/
def enterHandler (g : Group) (handler : Nat) (is : Issue) (slot : Nat) (t : TrapInfo) : Group :=
  let pt := pathAt g is.path
  let g := { g with
    epc := BitVec.ofNat 64 is.baddr
    efault := BitVec.ofNat 64 t.addr
    ecause := ecauseWord is slot pt.window.isSome t
    hnd := true
    hndPath := is.path
    asideWin := pt.window
    kpend := g.kpend.map fun k => { k with aside := true } }
  putPath g is.path { pt with window := none, pc := handler, doomed := none, rejected := none }

/-- Raises a trap on the open bundle's slot (R388, R389): the bundle is abandoned; under TP = 1 the path enters the
handler, and otherwise, inside a handler (DOUBLE), or for a BREAKPOINT with BRKSTOP = 1 (R493), the context stops; the trap record is
written once the group's image has its place in the save (R386). -/
def raiseTrap (s : State) (is : Issue) (slot : Nat) (t : TrapInfo) : State :=
  let s := { s with cur := none, epoch := s.epoch + 1 }
  match getGroup s is.loc with
  | none => s
  | some g =>
    let x := getCtx s g.ctx
    let dbl := g.hnd && g.hndPath == is.path
    if x.tp = 1 && !dbl && !(t.cause == 15 && x.dbgctl.getLsbD 0) then putGroup s is.loc (enterHandler g x.handler is slot t)
    else
      let g' := { modPath g is.path (fun p => { p with doomed := none, rejected := none }) with trapped := true, hndPath := is.path }
      let r := (is.loc, trapRecord s is g slot t dbl)
      let s := stopContext (putGroup s is.loc g') g.ctx 0 [coreOf is.loc]
      modCtx s g.ctx fun x => { x with faulting := true, trapRecs := x.trapRecs ++ [r] }

/-! ## Return from a trap (R392) -/

/-- Restores what handler entry set aside and clears HND (R392). -/
def leaveHandler (g : Group) (p : Nat) : Group :=
  modPath { g with hnd := false, asideWin := none, kpend := g.kpend.map fun k => { k with aside := false } } p
    fun pt => { pt with window := g.asideWin }

/-- One committed bundle counts for the pending latch writes of its group (R73); those set aside do not count. -/
def countLatches (l : List LatchWrite) : List LatchWrite :=
  l.map fun k => if k.aside then k else { k with left := k.left - 1 }

/-- One committed bundle counts for an open delay window (R72). -/
def countWindow (w : Option Window) : Option Window := w.map fun w => { w with left := w.left - 1 }

/-- RTE at commit (R392): replay at `target`, or skip the bundle there, which counts for windows and latches and has no
effect, its length being one more than sr.ecause.LEN. -/
def returnFromTrap (g : Group) (p target len : Nat) (skip : Bool) : Group :=
  let g := leaveHandler g p
  if skip then
    let g := { g with kpend := countLatches g.kpend }
    modPath g p fun pt => { pt with pc := (target + 4 * (len + 1)) % 2 ^ 57, window := countWindow pt.window }
  else modPath g p fun pt => { pt with pc := target }

/-! ## Parking (R376, R351) -/

/-- Parks the path of the open bundle on a page, posting the report (R376). -/
def parkOnPage (s : State) (is : Issue) (r : Report) : State :=
  match getGroup s is.loc with
  | none => s
  | some g =>
    let s := { s with cur := none, epoch := s.epoch + 1 }
    let s := pageReport s g.ctx { r with source := 4, baddr := is.baddr, launch := g.launch.toNat, group := g.gidx.toNat }
    modPathAt s is.loc is.path fun pt =>
      { pt with st := .parked, parks := [.page r.va r.slot (BitVec.ofNat 16 r.lanes)] }

/-- Parks the path of the open bundle on child words or on Coop space (R351). -/
def parkOnBuild (s : State) (is : Issue) (ps : List Park) : State :=
  modPathAt { s with cur := none, epoch := s.epoch + 1 } is.loc is.path fun pt => { pt with st := .parked, parks := ps }

/-- Wakes a path from the parks that a test picks: with none left it is ready again (R351, R376). -/
def wakePath (f : Park → Bool) (pt : Path) : Path :=
  if pt.st = .parked && pt.parks.any f then
    let ps := pt.parks.filter fun p => !f p
    { pt with parks := ps, st := if ps.isEmpty then .live else .parked, heldAt := none }
  else pt

/-- Wakes the paths of a context's groups. -/
def wakeCtx (s : State) (c : Nat) (f : Park → Bool) : State :=
  (ctxGroups s c).foldl (fun s e => putGroup s e.1 { e.2 with p0 := wakePath f e.2.p0, p1 := wakePath f e.2.p1 }) s

/-! ## The frame of a slot -/

/-- What a slot's meaning reads: the state and the group as they stood when the bundle issued (R63). -/
structure SC where
  s : State
  is : Issue
  g : Group
  pt : Path
  w : Slot

/-- What a slot answers: its effects, held until commit, with the flags that it raises and the registers it names beyond
its fields; a trap; a park; or that the bundle may not issue yet, for a counter, token, barrier, FIFO or claim (`wait`, R383) or
for something else (`hold`). -/
inductive SlotRes where
  | ok (effs : List Eff) (flags : BitVec 6) (uses : List RegUse)
  | trap (t : TrapInfo)
  | park (r : Report)
  | build (ps : List Park)
  | hold
  | wait

/-- A slot that does nothing. -/
def SlotRes.nothing : SlotRes := .ok [] 0 []

/-- A trap of a cause. -/
def trapOf (cause : Nat) (addr : Nat := 0) (lanes : LaneMask := 0) : SlotRes := .trap ⟨cause, addr, lanes, 0⟩

/-- A meaning: it may change the state only through translations (A and D bits, cached leaves). -/
abbrev Meaning := SC → State × SlotRes

/-- A meaning that translates nothing. -/
def pureM (f : SC → SlotRes) : Meaning := fun c => (c.s, f c)

/-- Active(p) of a slot with a lane guard: lanes of the path whose guard is 1 and not poisoned (R9, R75). -/
def actives (c : SC) : LaneMask :=
  let m := preg c.g c.w.p.toNat
  c.pt.mask &&& m.val &&& ~~~m.poison

/-- The lanes of the path whose guard is poisoned (R75). -/
def guardPoison (c : SC) : LaneMask := c.pt.mask &&& (preg c.g c.w.p.toNat).poison

/-- The scalar guard. -/
def scalarGuard (c : SC) : PBit := spreg c.g c.pt c.w.p.toNat

/-- Field numbers. -/
def SC.d (c : SC) : Nat := c.w.d.toNat
def SC.a (c : SC) : Nat := c.w.a.toNat
def SC.b (c : SC) : Nat := c.w.b.toNat
/-- The modifier's fields, all default where no modifier E slot stands. -/
def SC.mod (c : SC) : EMod := modsOf c.w
def SC.creg (c : SC) : Nat := c.mod.creg.toNat
def SC.rm (c : SC) : Nat := c.mod.rm.toNat

/-- The immediate sign-extended or zero-extended to 32 bits (R59, R166). -/
def immS (x : BitVec 24) : Word := x.signExtend 32
def immZ (x : BitVec 24) : Word := x.setWidth 32

/-- A scalar-guarded slot that consumes a poisoned guard (R76): with the guard 0 it does nothing; a poisoned guard gives
way only to causes 1 and 2 (R384). -/
def consuming (m : Meaning) : Meaning := fun c =>
  let g := scalarGuard c
  if g.poison then
    if g.val then
      match m c with
      | (_, .trap t) => if t.cause ≤ 2 then (c.s, .trap t) else (c.s, trapOf 7)
      | _ => (c.s, trapOf 7)
    else (c.s, trapOf 7)
  else if g.val then m c
  else (c.s, .nothing)

/-! ## Checks that precede a meaning -/

/-- The illegal-operand checks of R57 on the fields: alignment, and vector registers that the group does not hold. -/
def operandFault (f : Form) (w : Slot) (blocks : Nat) : Bool :=
  opdMisaligned f.d w.d.toNat || opdMisaligned f.a w.a.toNat
  || (!(w.imm.isSome && !keepsB f.imm) && opdMisaligned f.b w.b.toNat)
  || (match w.mod, f.mods.c with
      | some m, .vreg _ align => m.cv && m.creg.toNat % align != 0
      | some m, .recAddr => m.cv && m.creg.toNat % 2 != 0
      | _, _ => false)
  || (usesOf f w).any fun u => decide (u.kind = .v) && decide (u.first + u.cnt > 8 * blocks)

/-- A use of a pending CALL link inside its delay window (R160). -/
def linkFault (pt : Path) (us : List RegUse) : Bool :=
  match pt.window with
  | some w =>
    match w.link with
    | some (d, _) => us.any (usesMeet ⟨.s, d, 2, true⟩)
    | none => false
  | none => false

end Sys2Proof.Machine
end

