-- ==== Sys2Proof/Machine/Operands.lean ====
section
/-! DEFINITION. The operand forms of slots and what guards and poison do to results: uniform and vector operands with
their immediates, the fourth register, and the shapes of a uniform result and of a lane result (spec/08_arith.md
R165-R168, spec/03_bundles.md R75, spec/09_memory_instr.md R199, R200). -/

namespace Sys2Proof.Machine

/-- The old value of a destination with its poison set: what a poisoned guard leaves (R75). -/
def poisonOld (c : SC) : RegWrite → RegWrite
  | .v r l _ => .v r l ⟨(vreg c.g r l).val, true⟩
  | .s r _ => .s r ⟨(sreg c.g c.pt r).val, true⟩
  | .sp r _ => .sp r ⟨(spreg c.g c.pt r).val, true⟩
  | .p r l _ => .p r l ⟨(preg c.g r).val.getLsbD l, true⟩
  | .x r w => .x r w

/-! ## Uniform slots -/

/-- Operand A of a U form. -/
def uA (c : SC) : PWord := sreg c.g c.pt c.a

/-- Operand B of a U form: the immediate, sign- or zero-extended, or s(b). -/
def uB (zext : Bool) (c : SC) : PWord :=
  match c.w.imm with
  | some x => ⟨if zext then immZ x else immS x, false⟩
  | none => sreg c.g c.pt c.b

/-- A U-class slot (R75, R167): with its guard 0 it does nothing; with its guard poisoned its destinations keep their
values with poison set; otherwise its writes land 2 ck after issue (R71). A trap that `f` names is one of its values, which a
guard of 0 keeps from being looked at. -/
def uSlot (f : SC → Except TrapInfo (List RegWrite × BitVec 6)) : Meaning := pureM fun c =>
  let g := scalarGuard c
  match f c with
  | .error t => if g.val || g.poison then .trap t else .nothing
  | .ok (ws, fl) =>
    if g.poison then .ok [.result 2 (ws.map (poisonOld c))] 0 []
    else if g.val then .ok [.result 2 ws] fl []
    else .nothing

/-- A U form that writes s(d) from its operands A and B. -/
def uBinary (zext : Bool) (f : Word → Word → Word) : Meaning := uSlot fun c =>
  let x := uA c
  let y := uB zext c
  .ok ([.s c.d ⟨f x.val y.val, x.poison || y.poison⟩], 0)

/-- A U form that writes s(d) from its operand A. -/
def uUnary (f : Word → Word) : Meaning := uSlot fun c =>
  let x := uA c
  .ok ([.s c.d ⟨f x.val, x.poison⟩], 0)

/-! ## Lane slots -/

/-- Operand A and operand B of a VA or VB form in a lane. -/
def vA (c : SC) (l : Nat) : PWord := vreg c.g c.a l
def vB (zext : Bool) (c : SC) (l : Nat) : PWord :=
  match c.w.imm with
  | some x => ⟨if zext then immZ x else immS x, false⟩
  | none => vreg c.g c.b l

/-- Operand B under the float rule of R166: binary32 takes the payload shifted by 8. -/
def vBf32 (c : SC) (l : Nat) : PWord :=
  match c.w.imm with
  | some x => ⟨immZ x <<< 8, false⟩
  | none => vreg c.g c.b l

/-- Operand B under the float rule for binary16: one value in both halves (R166). -/
def vBf16 (c : SC) (l : Nat) : PWord :=
  match c.w.imm with
  | some x => ⟨BitVec.ofNat 32 (x.toNat % 65536 * 65537), false⟩
  | none => vreg c.g c.b l

/-- A slot whose results go to lanes (R75, R167): `f` gives a lane's writes and flags; the lanes of Active(p) take
them, lanes with a poisoned guard keep their values with poison set, the others are not written. -/
def laneSlot (lat : Nat) (f : SC → Nat → List RegWrite × BitVec 6) : Meaning := pureM fun c =>
  let act := actives c
  let rs := (lanesOf act).map (f c)
  let ps := (lanesOf (guardPoison c)).flatMap fun l => (f c l).1.map (poisonOld c)
  .ok [.result lat (rs.flatMap (·.1) ++ ps)] (rs.foldl (fun a r => a ||| r.2) 0) []

/-- A lane form that writes v(d) from A and B. -/
def vBinary (zext : Bool) (f : Word → Word → Word) : Meaning := laneSlot 4 fun c l =>
  let x := vA c l
  let y := vB zext c l
  ([.v c.d l ⟨f x.val y.val, x.poison || y.poison⟩], 0)

/-- A lane form that writes v(d) from A. -/
def vUnary (f : Word → Word) : Meaning := laneSlot 4 fun c l =>
  let x := vA c l
  ([.v c.d l ⟨f x.val, x.poison⟩], 0)

/-- A flag of a lane whose result is not poisoned (R40). -/
def laneFlag (poison : Bool) (fl : BitVec 6) : BitVec 6 := if poison then 0 else fl

/-- A meaning that names registers beyond its fields (R57, R70, R160): with `live`, vector registers that the group does not
hold trap; pending ones hold the bundle whatever its guard. -/
def withUsesIf (live : SC → Bool) (us : SC → List RegUse) (m : Meaning) : Meaning := fun c =>
  let us := us c
  if live c && us.any fun u => decide (u.kind = .v) && decide (u.first + u.cnt > 8 * c.g.blocks) then (c.s, trapOf 2)
  else if us.any (pendingUse c.g c.pt) then (c.s, .hold)
  else match m c with
    | (s, .ok e f more) => (s, .ok e f (us ++ more))
    | r => r

/-- Of a form whose slot acts. -/
def withUses : (SC → List RegUse) → Meaning → Meaning := withUsesIf fun _ => true

/-! ## Memory operands (R199, R200) -/

/-- The index of a memory operand in a lane, as 32 bits, with its poison. -/
def memIndex (c : SC) (l : Nat) : PWord :=
  match c.w.imm with
  | none => vreg c.g c.b l
  | some _ => if c.mod.cv then vreg c.g c.creg l else ⟨0, false⟩

/-- The offset of a memory operand. -/
def memOffset (c : SC) : Word :=
  match c.w.imm with
  | none => 0
  | some x => immS x

/-- The effective address of a global memory operand in a lane (R200), and whether it is poisoned. -/
def globalEa (c : SC) (l : Nat) : Nat × Bool :=
  let base := if c.a = 63 then (0, false) else spair c.g c.pt c.a
  let i := memIndex c l
  ((base.1 + signExt64 32 i.val.toNat + signExt64 32 (memOffset c).toNat) % 2 ^ 64, base.2 || i.poison)

/-- The effective address of a pond memory operand in a lane (R200), and whether it is poisoned. -/
def pondEa (c : SC) (l : Nat) : Nat × Bool :=
  let base : PWord := if c.a = 63 then ⟨0, false⟩ else sreg c.g c.pt c.a
  let i := memIndex c l
  ((base.val + i.val + memOffset c).toNat, base.poison || i.poison)

end Sys2Proof.Machine
end

