-- ==== Sys2Proof/Machine/Vector.lean ====
section
/-! DEFINITION. The integer, predicate and lane-exchange forms of VA and VB (spec/08_arith.md R170-R174, R179-R185,
spec/02_numbers.md R48). -/

namespace Sys2Proof.Machine

/-- VADD and VSUB (R171-R173). -/
def vAddSub (wrap : Word → Word → Bool → Word × Bool) (sat : Word → Word → Word × Bool) : Meaning := laneSlot 4 fun c l =>
  let x := vA c l
  let y := vB false c l
  let po := x.poison || y.poison
  if c.mod.sat then
    let r := sat x.val y.val
    ([.v c.d l ⟨r.1, po⟩], laneFlag po (flagIf r.2 fSAT))
  else if c.mod.cv then
    let n := c.creg % 8
    let q := preg c.g n
    let ci := bitOf c.creg 3
    let r := wrap x.val y.val (ci && q.val.getLsbD l)
    let po := po || (ci && q.poison.getLsbD l)
    ([.v c.d l ⟨r.1, po⟩, .p n l ⟨r.2, po⟩], 0)
  else ([.v c.d l ⟨(wrap x.val y.val false).1, po⟩], 0)

/-- VMUL (R171, R173). -/
def vMul : Meaning := laneSlot 4 fun c l =>
  let x := vA c l
  let y := vB false c l
  let po := x.poison || y.poison
  if c.mod.sat then
    let r := mulSat x.val y.val
    ([.v c.d l ⟨r.1, po⟩], laneFlag po (flagIf r.2 fSAT))
  else ([.v c.d l ⟨mulLow x.val y.val, po⟩], 0)

/-- VBFI (R171) reads its destination. -/
def vBfi : Meaning := laneSlot 4 fun c l =>
  let x := vA c l
  let y := vB true c l
  let d := vreg c.g c.d l
  ([.v c.d l ⟨bfi d.val x.val y.val, x.poison || y.poison || d.poison⟩], 0)

/-- VSEL (R171). -/
def vSel : Meaning := laneSlot 4 fun c l =>
  let x := vA c l
  let y := vB false c l
  let q := preg c.g c.creg
  let r := if q.val.getLsbD l then x else y
  ([.v c.d l ⟨r.val, x.poison || y.poison || q.poison.getLsbD l⟩], 0)

/-- VCMP (R174). -/
def vCmp (signed : Bool) : Meaning := laneSlot 4 fun c l =>
  let x := vA c l
  let y := vB false c l
  ([.p (c.d % 8) l ⟨intCond signed (c.d / 8) x.val y.val, x.poison || y.poison⟩], 0)

/-- PAND, POR, PXOR (R179). -/
def pBinary (f : Bool → Bool → Bool) : Meaning := laneSlot 4 fun c l =>
  let x := preg c.g c.a
  let y := preg c.g c.b
  ([.p c.d l ⟨f (x.val.getLsbD l) (y.val.getLsbD l), x.poison.getLsbD l || y.poison.getLsbD l⟩], 0)

/-- PNOT (R179). -/
def pNot : Meaning := laneSlot 4 fun c l =>
  let x := preg c.g c.a
  ([.p c.d l ⟨!(x.val.getLsbD l), x.poison.getLsbD l⟩], 0)

/-- The source lane of VSHUF (R180), and whether the index is poisoned. -/
def shufLane (c : SC) (l : Nat) : Nat × Bool :=
  match c.w.imm with
  | none => let i := vreg c.g c.b l; (i.val.toNat % 16, i.poison)
  | some p =>
    let k := p.toNat % 16
    if bitOf p.toNat 4 then ((l + k) % 16, false) else (l ^^^ k, false)

/-- VSHUF (R180). -/
def vShuf : Meaning := laneSlot 6 fun c l =>
  let i := shufLane c l
  let x := vreg c.g c.a i.1
  ([.v c.d l ⟨x.val, x.poison || i.2⟩], 0)

/-- VBCAST of a uniform (R181). -/
def vBcast : Meaning := laneSlot 6 fun c l => ([.v c.d l (sreg c.g c.pt c.a)], 0)

/-- VBCAST of the lane number (R181). -/
def vBcastLane : Meaning := laneSlot 6 fun c l => ([.v c.d l ⟨BitVec.ofNat 32 l, false⟩], 0)

/-- One level of the reduction tree (R48): pairs combine; an absent operand passes the other through. -/
def redLevel (f : Word → Word → Word × BitVec 6) : List (Option Word) → List (Option Word) × BitVec 6
  | x :: y :: t =>
    let r := redLevel f t
    match x, y with
    | some a, some b => let q := f a b; (some q.1 :: r.1, q.2 ||| r.2)
    | some a, none => (some a :: r.1, r.2)
    | none, some b => (some b :: r.1, r.2)
    | none, none => (none :: r.1, r.2)
  | t => (t, 0)

/-- The four levels of VRED (R48). -/
def redTree (f : Word → Word → Word × BitVec 6) (xs : List (Option Word)) : Option Word × BitVec 6 :=
  let a := redLevel f xs
  let b := redLevel f a.1
  let c := redLevel f b.1
  let d := redLevel f c.1
  (d.1.headD none, a.2 ||| b.2 ||| c.2 ||| d.2)

/-- A binary32 operation on words. -/
def f32Op (f : FVal → FVal → Nat × BitVec 6) (x y : Word) : Word × BitVec 6 :=
  let r := f (decodeF binary32 x.toNat) (decodeF binary32 y.toNat)
  (BitVec.ofNat 32 r.1, r.2)

/-- The combination and the identity of a VRED operation (R182). -/
def redOp (b rm : Nat) : (Word → Word → Word × BitVec 6) × Word :=
  match b with
  | 0 => (fun x y => (x + y, 0), 0)
  | 1 => (f32Op (fadd binary32 rm), 0)
  | 2 => (fun x y => (minS x y, 0), 0x7FFFFFFF)
  | 3 => (fun x y => (maxS x y, 0), 0x80000000)
  | 4 => (fun x y => (minU x y, 0), 0xFFFFFFFF)
  | 5 => (fun x y => (maxU x y, 0), 0)
  | 6 => (f32Op (fminmax false binary32), 0x7F800000)
  | 7 => (f32Op (fminmax true binary32), 0xFF800000)
  | 8 => (fun x y => (x &&& y, 0), 0xFFFFFFFF)
  | 9 => (fun x y => (x ||| y, 0), 0)
  | _ => (fun x y => (x ^^^ y, 0), 0)

/-- The uniform destination of a lane form (R167): with the guard poisoned in a lane of the path mask, the old value
with poison set. DEDUCED (notes/assumptions/30.md): where a lane's poison poisons s(d), no lane's operation raises a flag. -/
def laneToUniform (lat : Nat) (f : SC → PWord × BitVec 6) : Meaning := pureM fun c =>
  if guardPoison c != 0 then .ok [.result lat [.s c.d ⟨(sreg c.g c.pt c.d).val, true⟩]] 0 []
  else
    let r := f c
    .ok [.result lat [.s c.d r.1]] (laneFlag r.1.poison r.2) []

/-- VRED (R182). -/
def vRed : Meaning := laneToUniform 10 fun c =>
  let act := actives c
  let op := redOp c.b c.rm
  let r := redTree op.1 ((List.range 16).map fun l => if act.getLsbD l then some (vreg c.g c.a l).val else none)
  (⟨r.1.getD op.2, (lanesOf act).any fun l => (vreg c.g c.a l).poison⟩, r.2)

/-- VVOTE (R183). -/
def vVote : Meaning := laneToUniform 6 fun c =>
  let act := actives c
  let x := preg c.g c.a
  (⟨(act &&& x.val).setWidth 32, act &&& x.poison != 0⟩, 0)

/-- VQDX (`step` 1) and VQDY (`step` 2) (R184): the binary32 difference within the quad, coarse with B = 1. -/
def vQuad (step : Nat) : Meaning := laneSlot 6 fun c l =>
  let q := l / 4 * 4
  let o := l % 4
  let lo := if c.b = 0 then (if step = 1 then q + o / 2 * 2 else q + o % 2) else q
  let x := vreg c.g c.a (lo + step)
  let y := vreg c.g c.a lo
  let r := f32Op (fsub binary32 c.rm) x.val y.val
  let po := x.poison || y.poison
  ([.v c.d l ⟨r.1, po⟩], laneFlag po r.2)

end Sys2Proof.Machine
end

