-- ==== Sys2Proof/Machine/FloatOps.lean ====
section
/-! DEFINITION. The float forms of VA and VB (spec/08_arith.md R186-R189, spec/02_numbers.md R40-R43). -/

namespace Sys2Proof.Machine

/-- A lane form of two binary32 operands. -/
def f32Binary (lat : Nat) (f : Nat → FVal → FVal → Nat × BitVec 6) : Meaning := laneSlot lat fun c l =>
  let x := vA c l
  let y := vBf32 c l
  let r := f32Op (f c.rm) x.val y.val
  let po := x.poison || y.poison
  ([.v c.d l ⟨r.1, po⟩], laneFlag po r.2)

/-- A lane form of one binary32 operand. -/
def f32Unary (f : Nat → FVal → Nat × BitVec 6) : Meaning := laneSlot 24 fun c l =>
  let x := vA c l
  let r := f c.rm (decodeF binary32 x.val.toNat)
  ([.v c.d l ⟨BitVec.ofNat 32 r.1, x.poison⟩], laneFlag x.poison r.2)

/-- FFMA.f32 (R187): the addend is v(d), or v(CREG) with CV. -/
def f32Fma : Meaning := laneSlot 6 fun c l =>
  let x := vA c l
  let y := vBf32 c l
  let z := vreg c.g (if c.mod.cv then c.creg else c.d) l
  let r := ffma binary32 c.rm (decodeF binary32 x.val.toNat) (decodeF binary32 y.val.toNat) (decodeF binary32 z.val.toNat)
  let po := x.poison || y.poison || z.poison
  ([.v c.d l ⟨BitVec.ofNat 32 r.1, po⟩], laneFlag po r.2)

/-- Two binary16 operations in one word (R187). -/
def f16Both (f : Nat → Nat × BitVec 6) : Word × BitVec 6 :=
  let lo := f 0
  let hi := f 16
  (BitVec.ofNat 32 (lo.1 + 65536 * hi.1), lo.2 ||| hi.2)

/-- The binary16 value at a bit of a word. -/
def f16At (x : Word) (sh : Nat) : FVal := decodeF binary16 (x.toNat / 2 ^ sh % 65536)

/-- A lane form of two binary16 pairs. -/
def f16Binary (f : Nat → FVal → FVal → Nat × BitVec 6) : Meaning := laneSlot 6 fun c l =>
  let x := vA c l
  let y := vBf16 c l
  let r := f16Both fun sh => f c.rm (f16At x.val sh) (f16At y.val sh)
  let po := x.poison || y.poison
  ([.v c.d l ⟨r.1, po⟩], laneFlag po r.2)

/-- FFMA.f16 (R187). -/
def f16Fma : Meaning := laneSlot 6 fun c l =>
  let x := vA c l
  let y := vBf16 c l
  let z := vreg c.g (if c.mod.cv then c.creg else c.d) l
  let r := f16Both fun sh => ffma binary16 c.rm (f16At x.val sh) (f16At y.val sh) (f16At z.val sh)
  let po := x.poison || y.poison || z.poison
  ([.v c.d l ⟨r.1, po⟩], laneFlag po r.2)

/-- The writes of a 64-bit lane result to an even–odd pair. -/
def pairWrites (d l x : Nat) (po : Bool) : List RegWrite :=
  [.v d l ⟨BitVec.ofNat 32 x, po⟩, .v (d + 1) l ⟨BitVec.ofNat 32 (x / 2 ^ 32), po⟩]

/-- A lane form of two binary64 pairs. -/
def f64Binary (lat : Nat) (f : Nat → FVal → FVal → Nat × BitVec 6) : Meaning := laneSlot lat fun c l =>
  let x := vpair c.g c.a l
  let y := vpair c.g c.b l
  let r := f c.rm (decodeF binary64 x.1) (decodeF binary64 y.1)
  let po := x.2 || y.2
  (pairWrites c.d l r.1 po, laneFlag po r.2)

/-- A lane form of one binary64 pair. -/
def f64Unary (f : Nat → FVal → Nat × BitVec 6) : Meaning := laneSlot 48 fun c l =>
  let x := vpair c.g c.a l
  let r := f c.rm (decodeF binary64 x.1)
  (pairWrites c.d l r.1 x.2, laneFlag x.2 r.2)

/-- FFMA.f64 (R187). -/
def f64Fma : Meaning := laneSlot 12 fun c l =>
  let x := vpair c.g c.a l
  let y := vpair c.g c.b l
  let z := vpair c.g (if c.mod.cv then c.creg else c.d) l
  let r := ffma binary64 c.rm (decodeF binary64 x.1) (decodeF binary64 y.1) (decodeF binary64 z.1)
  let po := x.2 || y.2 || z.2
  (pairWrites c.d l r.1 po, laneFlag po r.2)

/-- FCMP (R188): NV only for a signalling NaN. -/
def fCmp (x y : FVal) (cc : Nat) : Bool × BitVec 6 := (fcmpCond cc x y, sigFlag [x, y])

/-- FCMP.f32. -/
def f32Cmp : Meaning := laneSlot 4 fun c l =>
  let x := vA c l
  let y := vBf32 c l
  let r := fCmp (decodeF binary32 x.val.toNat) (decodeF binary32 y.val.toNat) (c.d / 8)
  let po := x.poison || y.poison
  ([.p (c.d % 8) l ⟨r.1, po⟩], laneFlag po r.2)

/-- FCMP.f64. -/
def f64Cmp : Meaning := laneSlot 4 fun c l =>
  let x := vpair c.g c.a l
  let y := vpair c.g c.b l
  let r := fCmp (decodeF binary64 x.1) (decodeF binary64 y.1) (c.d / 8)
  let po := x.2 || y.2
  ([.p (c.d % 8) l ⟨r.1, po⟩], laneFlag po r.2)

/-- The integer quotient of R189 with a nonzero divisor. -/
def intQuotient (rm : Nat) (sat : Bool) (x y : Word) : Word × BitVec 6 :=
  let q := (roundInt rm { neg := decide (x.toInt < 0) != decide (y.toInt < 0), num := x.toInt.natAbs, den := y.toInt.natAbs, e := 0 }).1
  if sat then let r := clamp32 q; (r.1, flagIf r.2 fSAT) else (BitVec.ofInt 32 q, 0)

/-- FDIV.f32.i32 (R189): a zero divisor traps in a lane of Active(p) that is not poisoned. -/
def i32Div : Meaning := fun c =>
  let act := actives c
  let bad := maskOf fun l =>
    act.getLsbD l && (vB false c l).val == 0 && !(vA c l).poison && !(vB false c l).poison
  if bad != 0 then (c.s, trapOf 8 0 bad)
  else laneSlot 24 (fun c l =>
    let x := vA c l
    let y := vB false c l
    let po := x.poison || y.poison
    let r := if y.val = 0 then (Config.poisonedQuotient x.val, 0) else intQuotient c.rm c.mod.sat x.val y.val
    ([.v c.d l ⟨r.1, po⟩], laneFlag po r.2)) c

/-- FDIV.f32 (R187, R189): FMT = 7 selects integer division. -/
def f32Div : Meaning := fun c => if c.mod.fmt = 7 then i32Div c else f32Binary 24 (fdiv binary32) c

end Sys2Proof.Machine
end

