-- ==== Sys2Proof/Machine/Wellspring.lean ====
section
/-! DEFINITION. Wellspring: AES-128 in counter mode and the lanes' random-bit queues (spec/02_numbers.md R44-R46;
FIPS 197 defines the cipher that R44 names). Bytes are numbers below 256, the state a list of 16 in column order. -/

namespace Sys2Proof.Machine

/-- Multiplication by x in GF(2^8). -/
def xtime (a : Nat) : Nat := if a < 128 then 2 * a else (2 * a - 256) ^^^ 0x1B

/-- Multiplication in GF(2^8): bits of `b` from the lowest, `n` left. -/
def gmulGo : Nat → Nat → Nat → Nat
  | 0, _, _ => 0
  | n + 1, a, b => (if b % 2 = 1 then a else 0) ^^^ gmulGo n (xtime a) (b / 2)

def gmul (a b : Nat) : Nat := gmulGo 8 a b

/-- The inverse in GF(2^8), 0 for 0: the 254th power. -/
def ginv (a : Nat) : Nat :=
  let a2 := gmul a a
  let a3 := gmul a2 a
  let a6 := gmul a3 a3
  let a12 := gmul a6 a6
  let a15 := gmul a12 a3
  let a30 := gmul a15 a15
  let a60 := gmul a30 a30
  let a120 := gmul a60 a60
  let a126 := gmul a120 a6
  let a127 := gmul a126 a
  gmul a127 a127

/-- A byte rotated left. -/
def rotl8 (a n : Nat) : Nat := (a * 2 ^ n) % 256 + a / 2 ^ (8 - n)

/-- The S-box. -/
def aesSbox (a : Nat) : Nat :=
  let b := ginv a
  b ^^^ rotl8 b 1 ^^^ rotl8 b 2 ^^^ rotl8 b 3 ^^^ rotl8 b 4 ^^^ 0x63

/-- Bytes combined by exclusive or. -/
def xorBytes (a b : List Nat) : List Nat := List.zipWith (· ^^^ ·) a b

/-- The next round key (16 bytes) with the round constant. -/
def nextKey (k : List Nat) (rcon : Nat) : List Nat :=
  let w3 := k.drop 12
  let t := match w3.map aesSbox with
    | [a, b, c, d] => [b ^^^ rcon, c, d, a]
    | _ => []
  let w0 := xorBytes (k.take 4) t
  let w1 := xorBytes ((k.drop 4).take 4) w0
  let w2 := xorBytes ((k.drop 8).take 4) w1
  w0 ++ w1 ++ w2 ++ xorBytes w3 w2

/-- ShiftRows. -/
def shiftRows (s : List Nat) : List Nat := (List.range 16).map fun i => s.getD ((i + 4 * (i % 4)) % 16) 0

/-- MixColumns on one column. -/
def mixColumn : List Nat → List Nat
  | [a, b, c, d] =>
    [xtime a ^^^ xtime b ^^^ b ^^^ c ^^^ d, a ^^^ xtime b ^^^ xtime c ^^^ c ^^^ d,
     a ^^^ b ^^^ xtime c ^^^ xtime d ^^^ d, xtime a ^^^ a ^^^ b ^^^ c ^^^ xtime d]
  | s => s

/-- MixColumns. -/
def mixColumns (s : List Nat) : List Nat :=
  mixColumn (s.take 4) ++ mixColumn ((s.drop 4).take 4) ++ mixColumn ((s.drop 8).take 4) ++ mixColumn (s.drop 12)

/-- The rounds from the second key on: rounds left, state, the last key and its round constant. -/
def aesRounds : Nat → List Nat → List Nat → Nat → List Nat
  | 0, s, _, _ => s
  | n + 1, s, k, rcon =>
    let k := nextKey k rcon
    let t := shiftRows (s.map aesSbox)
    aesRounds n (xorBytes (if n = 0 then t else mixColumns t) k) k (xtime rcon)

/-- AES-128 of a block under a key, both 16 bytes. -/
def aes128 (key block : List Nat) : List Nat := aesRounds 10 (xorBytes block key) key 1

/-- The bytes of a number, little-endian, as numbers. -/
def natBytes (x n : Nat) : List Nat := (natLe x n).map (·.toNat)

/-- The four words of a stream's block `i` (R44). -/
def streamBlock (key : BitVec 128) (s : Word) (ident : DWord) (i : Word) : List Word :=
  let out := aes128 (natBytes key.toNat 16) (natBytes i.toNat 4 ++ natBytes ident.toNat 8 ++ natBytes s.toNat 4)
  (List.range 4).map fun j =>
    BitVec.ofNat 32 (leNat ((List.range 4).map fun b => BitVec.ofNat 8 (out.getD (4 * j + b) 0)))

/-- A lane's stream; at birth S = 0, I = 16 g + l and next index 0 (R46). -/
def streamOf (g : Group) (l : Nat) : Stream := tget { i := BitVec.ofNat 64 (16 * g.gidx.toNat + l) } g.ws l

/-- Stores a lane's stream. -/
def putStream (g : Group) (l : Nat) (x : Stream) : Group :=
  { g with ws := tput { i := BitVec.ofNat 64 (16 * g.gidx.toNat + l) } g.ws l x }

/-- One block enters a lane's queue, which holds up to 16 words (R45). -/
def fillStream (g : Group) (l : Nat) : Group :=
  let x := streamOf g l
  if x.queue.length > 12 then g
  else putStream g l { x with queue := x.queue ++ streamBlock g.key x.s x.i x.next, next := x.next + 1 }

/-- The front word of each lane of a mask is popped (R45). -/
def popStreams (g : Group) (m : LaneMask) : Group :=
  (lanesOf m).foldl (fun g l => let x := streamOf g l; putStream g l { x with queue := x.queue.tail }) g

/-- RNGSEED at commit (R197): S and I of each lane; the queue is emptied and the stream restarts. -/
def seedStreams (g : Group) (m : LaneMask) (s : Word) (ids : List DWord) : Group :=
  ((lanesOf m).zip ids).foldl (fun g e => putStream g e.1 { queue := [], s := s, i := e.2, next := 0 }) g

/-- RNGSEED (R197). -/
def yRngseed : Meaning := consuming (pureM fun c =>
  let sel : PMask := if c.mod.cv then preg c.g c.creg else ⟨0xFFFF, 0⟩
  let lanes := c.pt.mask &&& sel.val
  let s := sreg c.g c.pt c.b
  if s.poison || c.pt.mask &&& sel.poison != 0 || (lanesOf lanes).any fun l => (vpair c.g c.a l).2 then trapOf 7
  else .ok [.seed lanes s.val ((lanesOf lanes).map fun l => BitVec.ofNat 64 (vpair c.g c.a l).1)] 0 [])

end Sys2Proof.Machine
end

