-- ==== Sys2Proof/Machine/Convert.lean ====
section
/-! DEFINITION. The C-class forms CVT, CPACK and CUNPACK, the element formats and their encodings, the block scales, and
the K-class latches (spec/08_arith.md R190-R196, spec/02_numbers.md R28-R34, R38, R39, spec/12_matrix.md R295-R298). -/

namespace Sys2Proof.Machine

/-! ## Formats (R61) -/


/-- The float format of a code. -/
def floatFmt (f : Nat) : Option Fmt :=
  match f with
  | 1 => some binary64
  | 2 => some binary32
  | 3 => some binary16
  | 4 => some bf16
  | 5 => some e4m3
  | 6 => some e5m2
  | _ => none


/-- A value to encode: a NaN with whether it signals, an infinity, or an exact value. -/
inductive Elem where
  | nan (signalling : Bool)
  | inf (neg : Bool)
  | num (x : Exact)
  deriving DecidableEq, Repr

/-- A decoded float as a value to encode. -/
def elemOfF : FVal → Elem
  | .nan s => .nan s
  | .inf n => .inf n
  | .fin n m e => .num { neg := n, num := m, e := e }

/-- The exact EOTF of an sRGB8 code (R30), to 320 bits with a mark. -/
def srgbValue (k : Nat) : Exact :=
  -- c = k / 255 ≤ 0.04045 exactly when k ≤ 10
  if k ≤ 10 then { neg := false, num := k * 100, den := 255 * 1292, e := 0 }
  else
    let n := (1000 * k + 14025) ^ 12
    let d := 269025 ^ 12
    let t := (n <<< 1600) / d
    let r := iroot 5 t
    { neg := false, num := r, e := -320, st := r ^ 5 * d != n <<< 1600 }

/-- Decodes an element of a format (R25-R33). DESIGN CHOICE (notes/assumptions/25.md): R32 gives the invalid flag for a block's scale of 0xFF
and not for an E8M0 element of 0xFF; the element is a quiet NaN, without the flag. -/
def decodeElem (f x : Nat) : Elem :=
  match floatFmt f with
  | some m => elemOfF (decodeF m x)
  | none =>
    match f with
    | 11 => .num { neg := false, num := x % 256, den := 255, e := 0 }
    | 12 => .num (srgbValue (x % 256))
    | 13 => .num { neg := false, num := x % 2, e := 0 }
    | 14 => if x % 256 = 255 then .nan false else .num { neg := false, num := 1, e := (x % 256 : Nat) - 127 }
    | _ =>
      let i := toSigned (elemWidth f) x
      .num { neg := decide (i < 0), num := i.natAbs, e := 0 }

/-- The value times a power of two (R32). -/
def scaleElem (e : Int) : Elem → Elem
  | .num x => .num { x with e := x.e + e }
  | v => v

/-- How a conversion rounds: a mode, or stochastically with a lane's word (R35, R39). -/
structure RMode where
  rm : Nat
  word : Word
  deriving DecidableEq, Repr

/-- Rounds to an integer. -/
def roundIntM (r : RMode) (x : Exact) : Int × Bool := if r.rm = 5 then roundIntS r.word x else roundInt r.rm x

/-- Rounds to a float format. -/
def roundFM (f : Fmt) (r : RMode) (x : Exact) : Nat × BitVec 6 := if r.rm = 5 then roundFS f r.word x else roundF f r.rm x

/-- Encodes in a float format (R26, R37, R191). -/
def encodeFloat (f : Fmt) (r : RMode) : Elem → Nat × BitVec 6
  | .nan s => (canonNaN f, flagIf s fNV)
  | .inf n => if f.e4m3 then (0x7F, fNV) else (infCode f n, 0)
  | .num x => roundFM f r x

/-- Encodes in an integer format of `w` bits (R38); `out` is the flag of a result out of range. -/
def encodeInt (w : Nat) (r : RMode) (out : BitVec 6) : Elem → Nat × BitVec 6
  | .nan _ => (0, fNV)
  | .inf n => (ofSigned w (if n then -(2 ^ (w - 1) : Int) else 2 ^ (w - 1) - 1), out)
  | .num x =>
    let (t, ine) := roundIntM r x
    if t < -(2 ^ (w - 1) : Int) then (ofSigned w (-(2 ^ (w - 1) : Int)), out)
    else if t > 2 ^ (w - 1) - 1 then (2 ^ (w - 1) - 1, out)
    else (ofSigned w t, flagIf ine fNX)

/-- The order of an exact value against a natural. -/
def cmpNat (x : Exact) (n : Nat) : Ordering :=
  if x.neg && x.num != 0 then .lt
  else
    let l := if x.e ≥ 0 then x.num <<< x.e.toNat else x.num
    let r := (if x.e ≥ 0 then n else n <<< (-x.e).toNat) * x.den
    match compare l r with
    | .eq => if x.st then .gt else .eq
    | o => o

/-- The clamp to 0..1 of R29 and R30: the value, and whether it changed. -/
def clamp01 : Elem → Option (Exact × Bool)
  | .nan _ => none
  | .inf n => some ({ neg := false, num := if n then 0 else 1, e := 0 }, true)
  | .num x =>
    if x.neg && (x.num != 0 || x.st) then some ({ neg := false, num := 0, e := 0 }, true)
    else if cmpNat x 1 = .gt then some ({ neg := false, num := 1, e := 0 }, true)
    else some ({ x with neg := false }, false)

/-- Encodes UNORM8 (R29). -/
def encodeUn8 (r : RMode) (v : Elem) : Nat × BitVec 6 :=
  match clamp01 v with
  | none => (0, fNV)
  | some (x, ch) =>
    let (t, ine) := roundIntM r { x with num := x.num * 255 }
    (t.toNat, flagIf (ch || ine) fNX)

/-- The order of V × 255 (R30) against h / 2, for an exact x in 0..1. The value of a code is kept to 320 bits: a bound that lies
inside its last place is the value, since an EOTF times a power of two that is no code's is irrational and lies farther off. -/
def srgbCmp (x : Exact) (h : Nat) : Ordering :=
  -- x ≤ 0.0031308
  if cmpNat { x with num := x.num * 10000000 } 31308 != .gt then cmpNat { x with num := x.num * 65892 } (10 * h)
  else
    -- x^5 against ((500 h + 14025) / 269025)^12
    let side := fun n : Nat =>
      cmpNat { neg := false, num := n ^ 5 * 269025 ^ 12, den := x.den ^ 5, e := 5 * x.e } ((500 * h + 14025) ^ 12)
    match side x.num with
    | .eq => if x.st then .gt else .eq
    | .lt => if x.st && side (x.num + 1) == .gt then .eq else .lt
    | .gt => .gt

/-- The greatest code whose value is not above V × 255: bits left and code so far. -/
def srgbGo (x : Exact) : Nat → Nat → Nat
  | 0, k => k
  | n + 1, k => srgbGo x n (if srgbCmp x (2 * (k + 2 ^ n)) = .lt then k else k + 2 ^ n)

/-- Encodes sRGB8 (R30). -/
def encodeSrgb (rm : Nat) (v : Elem) : Nat × BitVec 6 :=
  match clamp01 v with
  | none => (0, fNV)
  | some (x, ch) =>
    let k := srgbGo x 8 0
    let ine := srgbCmp x (2 * k) != .eq
    (if roundsUp rm false (k % 2 == 1) ine (srgbCmp x (2 * k + 1)) then k + 1 else k, flagIf (ch || ine) fNX)

/-- Encodes a 1-bit element (R31). -/
def encodeBit : Elem → Nat × BitVec 6
  | .nan _ => (1, fNV)
  | .inf _ => (1, 0)
  | .num x => (b01 (x.num != 0 || x.st), 0)

/-- Encodes E8M0 (R192). -/
def encodeE8 (rm : Nat) : Elem → Nat × BitVec 6
  | .nan _ => (0xFF, fNV)
  | .inf _ => (0xFF, fNV)
  | .num x =>
    if x.num = 0 ∧ x.st = false then (0, 0)
    else
      let y : Exact := { x with neg := false }.flat
      let k := topExp y
      let ine := y.st || y.num != 2 ^ (bitLen y.num - 1)
      -- |x| against 1.5 × 2^k
      let half : Ordering := match compare (2 * y.num) (3 * 2 ^ (bitLen y.num - 1)) with
        | .eq => if y.st then .gt else .eq
        | o => o
      let up := ine && (match rm with
        | 2 => true
        | 0 => half == .gt || (half == .eq && (k + 127) % 2 != 0)
        | 4 => half != .lt
        | _ => false)
      let k := if up then k + 1 else k
      if k > 127 then (0xFE, fOF ||| fNX)
      else if k < -127 then (0, fUF ||| fNX)
      else ((k + 127).toNat, flagIf ine fNX)

/-! ## CVT (R190-R194) -/

/-- The registers of a CVT: a destination of fewer than 32 bits is a source as well. -/
def cvtUses (f : Nat) (c : SC) : List RegUse :=
  [⟨.v, c.a, if cvtSource c.w = 1 then 2 else 1, false⟩, ⟨.v, c.d, if f = 1 then 2 else 1, true⟩]

/-- Converts the code `x` of format `g` to format `f` (R191, R194): `scale` is the latch's code under CV. DESIGN CHOICE
(notes/assumptions/25.md): under the scale code 0xFF a destination that R194 does not name takes the encoding of a NaN. -/
def cvtValue (f g x : Nat) (r : RMode) (sat : Bool) (scale : Option Nat) : Nat × BitVec 6 :=
  match scale with
  | none =>
    if isIntFmt f && isIntFmt g then
      let i := toSigned (elemWidth g) x
      if sat then
        let t := max (-(2 ^ (elemWidth f - 1) : Int)) (min i (2 ^ (elemWidth f - 1) - 1))
        (ofSigned (elemWidth f) t, flagIf (t != i) fSAT)
      else (ofSigned (elemWidth f) i, 0)
    else if f = 12 && g = 12 then (x % 256, 0)
    else
      let v := decodeElem g x
      match floatFmt f with
      | some m => encodeFloat m r v
      | none =>
        match f with
        | 11 => encodeUn8 r v
        | 12 => encodeSrgb r.rm v
        | 13 => encodeBit v
        | 14 => encodeE8 r.rm v
        | _ => encodeInt (elemWidth f) r fNV v
  | some e =>
    let v := if e = 255 then Elem.nan true else scaleElem ((e : Int) - 127) (decodeElem g x)
    match floatFmt f with
    | some m => encodeFloat m r v
    | none =>
      match f with
      | 11 => encodeUn8 r v
      | 12 => encodeSrgb r.rm v
      | 13 => encodeBit v
      | 14 => encodeE8 r.rm v
      | _ => encodeInt (elemWidth f) r (if sat then fSAT else fNV) v

/-- Element `i` of `w` bits of a lane word or pair (R190). -/
def elemAt (w i x : Nat) : Nat := if w = 64 then x else x / 2 ^ (w * i) % 2 ^ w

/-- A lane word with element `j` of `w` bits replaced (R190). -/
def putElem (w j : Nat) (old : Word) (x : Nat) : Word :=
  if w ≥ 32 then BitVec.ofNat 32 x
  else
    let m : Word := BitVec.ofNat 32 ((2 ^ w - 1) * 2 ^ (w * j))
    (old &&& ~~~m) ||| (BitVec.ofNat 32 (x * 2 ^ (w * j)) &&& m)

/-- CVT to format `f` (R190-R194). -/
def cvt (f : Nat) : Meaning := fun c =>
  if (cvtSource c.w = 1 ∧ c.a % 2 = 1) ∨ (f = 1 ∧ c.d % 2 = 1) then (c.s, trapOf 2)
  else withUses (cvtUses f) (fun c =>
    let act := actives c
    if c.rm = 5 && (lanesOf act).any fun l => (streamOf c.g l).queue.isEmpty then (c.s, .hold)
    else
      let g := cvtSource c.w
      let w := elemWidth f
      let scale := if c.mod.cv then some ((tget 0 c.g.k c.creg).toNat % 256) else none
      match laneSlot 8 (fun c l =>
          let src := if g = 1 then vpair c.g c.a l else ((vreg c.g c.a l).val.toNat, (vreg c.g c.a l).poison)
          let old := vreg c.g c.d l
          let r : RMode := ⟨c.rm, (streamOf c.g l).queue.headD 0⟩
          let q := cvtValue f g (elemAt (elemWidth g) (c.b % 8) src.1) r c.mod.sat scale
          let po := src.2 || (decide (w < 32) && old.poison)
          (if f = 1 then pairWrites c.d l q.1 po else [.v c.d l ⟨putElem w (c.b / 8) old.val q.1, po⟩],
            laneFlag po q.2)) c with
      | (s, .ok e fl u) => (s, .ok (if c.rm = 5 then e ++ [.popRandom act] else e) fl u)
      | r => r) c

/-! ## Q4O blocks (R33, R34, R195, R196) -/

/-- A finite binary32 magnitude as `m × 2^e`. -/
abbrev Mag := Nat × Int

/-- The order of two magnitudes. -/
def magCmp (a b : Mag) : Ordering :=
  let q := min a.2 b.2
  compare (a.1 <<< (a.2 - q).toNat) (b.1 <<< (b.2 - q).toNat)

/-- The magnitude of a finite value. -/
def magOf : FVal → Mag
  | .fin _ m e => (m, e)
  | _ => (0, 0)

/-- Inserts an index into an order by descending magnitude, ties lower index first. -/
def insertMag (mag : Nat → Mag) (i : Nat) : List Nat → List Nat
  | [] => [i]
  | j :: t => if magCmp (mag i) (mag j) = .gt then i :: j :: t else j :: insertMag mag i t

/-- Indices 0..n-1 by descending magnitude. -/
def magOrder (mag : Nat → Mag) (n : Nat) : List Nat := (List.range n).foldl (fun l i => insertMag mag i l) []

/-- The smallest integer `E` of three candidates from `lo` that a test accepts. -/
def smallestE (lo : Int) (ok : Int → Bool) : Int :=
  if ok lo then lo else if ok (lo + 1) then lo + 1 else if ok (lo + 2) then lo + 2 else lo + 3

/-- The exponent of the leading bit of a nonzero magnitude. -/
def magTop (a : Mag) : Int := a.2 + (bitLen a.1 : Int) - 1

/-- The payload nearest to a magnitude on the grid of R33, ties to the code with m = 0. -/
def payloadOf (v : Mag) : Nat :=
  let ge (n : Nat) : Bool := magCmp v (n, 0) != .lt
  let gt (n : Nat) : Bool := magCmp v (n, 0) == .gt
  if !gt 10 then 0 else if !ge 14 then 1 else if !gt 20 then 2 else if !ge 28 then 3
  else if !gt 40 then 4 else if !ge 56 then 5 else if !gt 80 then 6 else 7

/-- Outlier(P) without its sign, as an integer (R33). -/
def outlierMag (p : Nat) : Nat := (2 + p % 2) * 2 ^ (p / 2 % 4) * 4

/-- The signed integers that a byte decodes to, with the invalid mark of a double marker (R33). -/
def q4Decode (b : Nat) : Int × Int × Bool :=
  let lo := b % 16
  let hi := b / 16 % 16
  let out (p : Nat) : Int := if p ≥ 8 then -(outlierMag p : Int) else outlierMag p
  if lo = 8 ∧ hi = 8 then (0, 0, true)
  else if lo = 8 then (out hi, 0, false)
  else if hi = 8 then (0, out lo, false)
  else (toSigned 4 lo, toSigned 4 hi, false)

/-- The scale code, the sixteen bytes and the flags that CPACK forms from 32 values (R33, R34). -/
def q4Pack (xs : List FVal) : Nat × List Nat × BitVec 6 :=
  let at_ (i : Nat) : FVal := xs.getD i (.fin false 0 0)
  let mag (i : Nat) : Mag := magOf (at_ i)
  let zeros := List.replicate 16 0
  if xs.any (fun v => match v with
      | .fin .. => false
      | _ => true) then (0xFF, zeros, fNV)
  else
    let order := magOrder mag 32
    let m1 := mag (order.getD 0 0)
    let m5 := mag (order.getD 4 0)
    if m1.1 = 0 then (0x7F, zeros, 0)
    else
      let e1 := if m5.1 = 0 then (-127 : Int)
        else smallestE (magTop m5 - 3) fun e => magCmp (2 * m5.1, m5.2) (15, e) == .lt
      let e2 := smallestE (magTop m1 - 7) fun e => magCmp m1 (96, e) != .gt
      let e := max e1 (max e2 (-127))
      let scaled (i : Nat) : Mag := ((mag i).1, (mag i).2 - e)
      let neg (i : Nat) : Bool := fNegative (at_ i)
      let q (i : Nat) : Int :=
        (roundInt 0 { neg := neg i, num := (scaled i).1, e := (scaled i).2 }).1
      let cand := order.filter fun i => decide ((q i).natAbs > 7)
      let outs := cand.foldl (fun o i => if o.contains (i ^^^ 1) then o else i :: o) []
      let nib (i : Nat) : Nat :=
        if outs.contains i then 8
        else if outs.contains (i ^^^ 1) then payloadOf (scaled (i ^^^ 1)) + (if neg (i ^^^ 1) then 8 else 0)
        else ofSigned 4 (q i)
      let bytes := (List.range 16).map fun k => nib (2 * k) + 16 * nib (2 * k + 1)
      let same (i : Nat) : Bool :=
        let d := q4Decode (bytes.getD (i / 2) 0)
        let v := if i % 2 = 0 then d.1 else d.2.1
        (mag i).1 == 0 || (magCmp (v.natAbs, e) (mag i) == .eq && (decide (v < 0) == neg i))
      ((e + 127).toNat, bytes, flagIf ((List.range 32).any fun i => !same i) fNX)

/-- CPACK (R195). -/
def cPack : Meaning := pureM fun c =>
  let act := actives c
  let src (l r : Nat) : FVal :=
    if act.getLsbD l then decodeF binary32 (vreg c.g (c.a + r) l).val.toNat else .fin false 0 0
  let po := (lanesOf act).any fun l => (vpair c.g c.a l).2
  let blk := q4Pack ((List.range 32).map fun i => src (i / 2) (i % 2))
  let ws := (lanesOf act).map fun l => RegWrite.v c.d l ⟨BitVec.ofNat 32 (blk.2.1.getD l 0 + 256 * blk.1), po⟩
  let ps := (lanesOf (guardPoison c)).map fun l => poisonOld c (.v c.d l ⟨0, false⟩)
  .ok [.result 8 (ws ++ ps)] (if act = 0 then 0 else laneFlag po blk.2.2) []

/-- CUNPACK (R196). -/
def cUnpack : Meaning := laneSlot 8 fun c l =>
  let x := vreg c.g c.a l
  let e := fld x.val.toNat 15 8
  let q := q4Decode (x.val.toNat % 256)
  let out (i : Int) : Nat × BitVec 6 :=
    if e = 255 then (canonNaN binary32, fNV)
    else roundF binary32 c.rm { neg := decide (i < 0), num := i.natAbs, e := (e : Int) - 127 }
  let a := out q.1
  let b := out q.2.1
  ([.v c.d l ⟨BitVec.ofNat 32 a.1, x.poison⟩, .v (c.d + 1) l ⟨BitVec.ofNat 32 b.1, x.poison⟩],
    laneFlag x.poison (a.2 ||| b.2 ||| flagIf q.2.2 fNV))

/-! ## Scale latches (R297, R298) -/

/-- KSET. -/
def kSet : Meaning := consuming (pureM fun c =>
  match c.w.imm with
  | some x => .ok [.latch c.d (immZ x)] 0 []
  | none =>
    let x := sreg c.g c.pt c.b
    if x.poison then trapOf 7 else .ok [.latch c.d x.val] 0 [])

/-- KLD. -/
def kLd : Meaning := consuming (pureM fun c =>
  let l := uB true c
  if l.val.toNat > 15 then trapOf 2
  else
    let x := vreg c.g c.a l.val.toNat
    if l.poison || x.poison then trapOf 7 else .ok [.latch c.d x.val] 0 [])

end Sys2Proof.Machine
end

