-- ==== Sys2Proof/Machine/Capture.lean ====
section
/-! DEFINITION. Capture windows' records and energy accounting (spec/23_debug.md R484-R495). -/

namespace Sys2Proof.Machine

/-! ## Records (R488-R490) -/

/-- The capture of a group's kernel, if it is captured. -/
def captureOf (s : State) (c : Nat) (launch : Word) : Option Capture :=
  match getKernel s c launch with
  | none => none
  | some k => match k.capture with
    | none => none
    | some d => s.captures.find? fun q => q.ctx == c && q.capd == d

/-- The capture of a child's kernel (R486): it stays the child's own when the kernel has ended. -/
def childCapture (s : State) (h : Child) : Option Capture :=
  match h.capture with
  | none => none
  | some d => s.captures.find? fun q => q.ctx == h.ctx && q.capd == d.1

/-- Rewrites the capture of a descriptor. -/
def modCapture (s : State) (c capd : Nat) (f : Capture → Capture) : State :=
  { s with captures := s.captures.map fun q => if q.ctx == c && q.capd == capd then f q else q }

/-- Appends `n` 32-byte records to a trace buffer, or drops them whole (R488). -/
def traceAppend (s : State) (q : Capture) (n : Nat) (bytes : List Byte) : State :=
  if q.tnext.toNat + n ≤ 2 ^ q.tlog then
    modCapture (writeHome s (q.tbuf + 32 * q.tnext.toNat) bytes) q.ctx q.capd fun x =>
      { x with tnext := x.tnext + BitVec.ofNat 32 n }
  else modCapture s q.ctx q.capd fun x => { x with tlost := x.tlost + 1 }

/-- The stride of recorded lanes (R489): of the first two, if it is an integer of 16 signed bits. -/
def strideOf : List (Nat × Nat) → Int
  | (l0, a0) :: (l1, a1) :: _ =>
    let d : Int := (a1 : Int) - (a0 : Int)
    let n : Int := ((l1 - l0 : Nat) : Int)
    if d % n = 0 ∧ -32768 ≤ d / n ∧ d / n ≤ 32767 then d / n else 0
  | _ => 0

/-- The offset of a recorded lane from the base, in lane order; 0 for lanes that are not recorded. -/
def offsetOf (lanes : List (Nat × Nat)) (base l : Nat) : Int :=
  match lanes.find? fun p => p.1 == l with
  | some p => (p.2 : Int) - (base : Int)
  | none => 0

/-- Whether a class-M opcode is an order-dependent atomic (R488). -/
def traceOd (op : Nat) : Bool := op == 0x2B || op == 0x2C || op == 0x2D

/-- The record of an M slot with its continuations, and their number (R488, R489). Where no lane is recorded the spec
states no BASE: `free` stands there. -/
def traceBytes (free : Nat) (op info slot baddr gidx : Nat) (lanes : List (Nat × Nat)) : Nat × List Byte :=
  let l0 := (lanes.head?.map (·.1)).getD 0
  let base := (lanes.head?.map (·.2)).getD free
  let st := strideOf lanes
  let exc := lanes.filter fun p => (p.2 : Int) - (base : Int) != (((p.1 - l0 : Nat)) : Int) * st
  let mask := (lanes.map fun p => 2 ^ p.1).sum
  let head (form first stride ex : Nat) : List Byte :=
    packFields [(8, b01 (traceOd op) * 2 ^ 63 + form * 2 ^ 60 + slot % 8 * 2 ^ 57 + baddr), (2, mask), (1, op), (1, info),
      (4, gidx), (8, base), (4, first), (2, stride), (2, ex)]
  let w32 (i : Int) : Nat × Nat := (4, ofSigned 32 i)
  let fits (i : Int) : Bool := decide (-(2 ^ 31 : Int) ≤ i) && decide (i < (2 ^ 31 : Int))
  if exc.length ≤ 8 then
    let n := if exc.isEmpty then 0 else 1
    let offs := exc.map fun p => w32 ((p.2 : Int) - (base : Int))
    let pad := List.replicate (8 - exc.length) ((4, 0) : Nat × Nat)
    (1 + n, head 0 n (ofSigned 16 st) ((exc.map fun p => 2 ^ p.1).sum) ++ (if n = 0 then [] else packFields (offs ++ pad)))
  else if lanes.all fun p => fits ((p.2 : Int) - (base : Int)) then
    (3, head 1 2 0 0 ++ packFields ((List.range 16).map fun l => w32 (offsetOf lanes base l)))
  else
    (5, head 2 4 0 0 ++ packFields ((List.range 16).map fun l =>
      (8, ((lanes.find? fun p => p.1 == l).map (·.2)).getD 0)))

/-- What the record of the open bundle says of its place: path and group slots. -/
def traceInfo (lf : Bool) (path loc : Nat) : Nat := b01 lf * 128 + path * 64 + loc % 64

/-- A committed M slot of a captured group writes its record (R488). -/
def traceSlot (s : State) (is : Issue) (g : Group) (slot : Nat) (word : Word) (lf : Bool) (lanes : List (Nat × Nat)) : State :=
  match captureOf s g.ctx g.launch with
  | none => s
  | some q =>
    if q.flags % 2 = 0 then s
    else
      let r := traceBytes (Config.captureTime s.captureCtr).toNat (fld word.toNat 23 18) (traceInfo lf is.path is.loc) slot is.baddr
        g.gidx.toNat lanes
      traceAppend (if lanes.isEmpty then { s with captureCtr := s.captureCtr + 1 } else s) q r.1 r.2

/-- A committed TRACEMARK of a captured group (R490). -/
def traceMark (s : State) (is : Issue) (g : Group) (slot : Nat) (word v : Word) : State :=
  match captureOf s g.ctx g.launch with
  | none => s
  | some q =>
    if !bitOf q.flags 1 then s
    else traceAppend s q 1 (packFields [(8, 3 * 2 ^ 60 + slot % 8 * 2 ^ 57 + is.baddr), (2, (pathAt g is.path).mask.toNat),
      (1, fld word.toNat 23 18), (1, traceInfo false is.path is.loc), (4, g.gidx.toNat), (8, v.toNat), (4, g.launch.toNat),
      (4, (getCore s (coreOf is.loc)).ck % 2 ^ 32)])

/-! ## Oxbow histograms (R491) -/

/-- The entry of a histogram table for a bundle address: the first from its place on, wrapping, that is its own or free. -/
def histogramSlot (s : State) (q : Capture) (baddr : Nat) : Option Nat :=
  ((List.range (2 ^ q.hlog)).map fun i => (baddr / 4 + i) % 2 ^ q.hlog).find? fun i =>
    let d := mem64s s.mem (q.hbuf + 64 * i) 8
    d.all (· == 0) || dwAt d 0 == baddr

/-- A captured matrix child's ck are added to its entry, if it has `run` since it was last entered, and its call is counted when it
ends. The ck depend on timing: they are free values. -/
def histogram (s : State) (h : Child) (ended run : Bool) : State :=
  match childCapture s h with
  | none => s
  | some q =>
    if h.cls ≠ 0 || !bitOf q.flags 2 then s
    else match histogramSlot s q h.baddr with
      | none => if ended then modCapture s q.ctx q.capd fun x => { x with hlost := x.hlost + 1 } else s
      | some i =>
        let d := mem64s s.mem (q.hbuf + 64 * i) 8
        let fresh := d.all (· == 0)
        let n := s.captureCtr
        let ck (k : Nat) : DWord := d.getD (k + 2) 0 + (if run then Config.captureTime (n + k) else 0)
        let calls : DWord := d.getD 6 0 + (if ended then 1 else 0)
        let bytes := dwBytes [BitVec.ofNat 64 h.baddr, if fresh then h.launch.setWidth 64 else d.getD 1 0, ck 0, ck 1, ck 2, ck 3, calls, 0]
        modCapture (writeHome { s with captureCtr := n + 4 } (q.hbuf + 64 * i) bytes) q.ctx q.capd fun x =>
          { x with hused := if fresh then x.hused + 1 else x.hused }

/-! ## Energy (R494) -/

/-- The default weights in pJ. -/
def defaultWeight (i : Nat) : Nat := [4, 10, 24, 60, 40, 120, 16, 8, 16000, 2000, 150000, 10000, 3000].getD i 0

/-- Weight `i`: cfg at reset, its default where configuration gives none. -/
def weight (s : State) (i : Nat) : Nat := (tget (BitVec.ofNat 64 (defaultWeight i)) s.energyWeights i).toNat

/-- Charges pJ to a context: whole 10^6 pJ move into EC, which saturates at 2^48 - 1 (R494). -/
def chargeCtx (x : Context) (pj : Nat) : Context :=
  let t := x.ecrem + pj
  { x with ec := min (x.ec + t / 1000000) (2 ^ 48 - 1), ecrem := t % 1000000 }

def charge (s : State) (c pj : Nat) : State := modCtx s c fun x => chargeCtx x pj

/-- Which weight a slot of a class and opcode is charged; none for E and H slots. -/
def slotWeight (cls op : Nat) : Option Nat :=
  match cls with
  | 0 => some 0
  | 1 | 2 => some (
      if 0x18 ≤ op && op ≤ 0x1D then 2
      else if (0x1E ≤ op && op ≤ 0x25) then 3
      else if 0x26 ≤ op && op ≤ 0x29 then 2
      else if 0x2A ≤ op && op ≤ 0x33 then 3
      else 1)
  | 3 => some 4
  | 4 => some 5
  | 5 => some 7
  | 6 => some 6
  | 7 => some 6
  | 8 | 9 | 10 => some 7
  | _ => none

/-- What is known of the energy counters of the contexts on a core, `n` more unheld ck later (R495): the values that they have just
reached are `n` ck old then. Of the values that are 64 ck old only the greatest is kept. -/
def ageEnergy (s : State) (core n : Nat) : State :=
  let cs := (s.groups.filterMap fun e => match e.2 with
    | some g => if coreOf e.1 = core then some g.ctx else none
    | none => none).eraseDups
  modCore s core fun k =>
    let old := (k.energy.filter fun e => cs.contains e.1).map fun e => (e.1, e.2.1, e.2.2 + n)
    let l := old ++ cs.filterMap fun c =>
      let ec := (getCtx s c).ec
      if old.any fun e => e.1 == c && e.2.1 == ec then none else some (c, ec, n)
    { k with energy := l.filter fun e => !l.any fun f => f.1 == e.1 && decide (e.2.1 < f.2.1) && decide (64 ≤ f.2.2) }

/-- What an ENRD of a context on a core must at least return (R495). -/
def energyFloor (s : State) (core c : Nat) : Nat :=
  (((getCore s core).energy.filter fun e => e.1 == c && decide (64 ≤ e.2.2)).map (·.2.1)).foldl max 0

/-- Charges the static share of one core for `n` ck: floor(ENWT12 gc / G) a ck to each context with groups on it. -/
def chargeStatic (s : State) (core n : Nat) : State :=
  let gs := s.groups.filterMap fun e => match e.2 with
    | some g => if coreOf e.1 = core then some g.ctx else none
    | none => none
  let w := weight s 12
  gs.eraseDups.foldl (fun s c => charge s c (n * (w * gs.count c / gs.length))) s

/-! ## The cycle stop (R492, R493) -/

/-- The core that DBGCTL names. -/
def dbgCore (x : Context) : Nat := fld x.dbgctl.toNat 15 8

/-- Whether the cycle stop of a context is armed and the context holds a group or child on its core. -/
def dbgArmed (s : State) (c : Nat) : Bool :=
  let x := getCtx s c
  bitOf x.dbgctl.toNat 1 && decide (x.st = .resident)
  && ((ctxGroups s c).any (fun e => coreOf e.1 == dbgCore x) || (ctxChildren s c).any fun e => childCore e.1 == dbgCore x)

/-- The armed edge has been reached while the context holds a group or child on its core. -/
def dbgDue (s : State) (c : Nat) : Bool :=
  let x := getCtx s c
  dbgArmed s c && decide (x.dbgcyc.toNat ≤ (getCore s (dbgCore x)).ck)

/-- Whether the edge reached stops the context: it does not where the save would not fit and that has been reported (R394). -/
def dbgStops (s : State) (c : Nat) : Bool := dbgDue s c && ((getCtx s c).err != 4 || saveFits s c)

/-- How many of `n` ck of a core pass before a context stops there. -/
def ckRoom (s : State) (core n : Nat) : Nat :=
  s.ctxs.foldl (fun n e =>
    if bitOf e.2.dbgctl.toNat 1 && dbgCore e.2 == core && dbgArmed s e.1 then
      let k := (getCore s core).ck
      if k < e.2.dbgcyc.toNat then min n (e.2.dbgcyc.toNat - k) else if dbgStops s e.1 then 0 else n
    else n) n

end Sys2Proof.Machine
end

