-- ==== Sys2Proof/Machine/Branch.lean ====
section
/-! DEFINITION. The B class, regions and the divergence stack (spec/07_group.md R144-R164). -/

namespace Sys2Proof.Machine

/-! ## Targets and guards (R155, R156) -/

/-- The target of a branch whose guard is true (R155); a poisoned pair traps, then its range and alignment. -/
def branchTarget (c : SC) : Except TrapInfo Nat :=
  match c.w.imm with
  | some x => .ok (ofSigned 57 ((c.is.baddr : Int) + 4 * x.toInt))
  | none =>
    let t := spair c.g c.pt c.b
    if t.2 then .error ⟨7, 0, 0, 0⟩
    else if t.1 ≥ 2 ^ 57 then .error ⟨4, t.1, 0, 0⟩
    else if t.1 % 4 ≠ 0 then .error ⟨3, t.1, 0, 0⟩
    else .ok t.1

/-- The window of a branch that is not taken. -/
def windowNot : Eff := .window { left := 3, taken := false, target := 0 }

/-- The window of a branch: taken to `t` or not. -/
def windowTo (taken : Bool) (t : Nat) : Eff := if taken then .window { left := 3, taken := true, target := t } else windowNot

/-- The lanes of the path in which a lane predicate is poisoned. -/
def predPoison (c : SC) (p : Nat) : LaneMask := c.pt.mask &&& (preg c.g p).poison

/-- A branch (R156): a poisoned guard is a use; with the guard false `off` is done and the window opens; with it true the
condition's poison is consumed, the target checked, and `f` given the target. -/
def bBranch (off : SC → List Eff) (cond : SC → LaneMask) (f : SC → Nat → SlotRes) : Meaning := pureM fun c =>
  let g := scalarGuard c
  if g.poison then trapOf 7
  else if !g.val then .ok (off c ++ [windowNot]) 0 []
  else if cond c != 0 then trapOf 7 0 (cond c)
  else match branchTarget c with
    | .error t => .trap t
    | .ok t => f c t

/-- No effect beside the window. -/
def offNothing (_ : SC) : List Eff := []

/-- No condition that could be poisoned. -/
def noCond (_ : SC) : LaneMask := 0

/-! ## The forms -/

/-- BRA (R157). -/
def bBra : Meaning := bBranch offNothing noCond fun _ t => .ok [windowTo true t] 0 []

/-- The modes of BRC on `c` lanes of `m` (R157). -/
def brcHolds (mode c m : Nat) : Bool :=
  match mode with
  | 0 => decide (c > 0)
  | 1 => c == m
  | 2 => c == 0
  | _ => decide (c < m)

/-- BRC (R157). -/
def bBrc (mode : Nat) : Meaning := bBranch offNothing (fun c => predPoison c c.a) fun c t =>
  let n := laneCount (c.pt.mask &&& (preg c.g c.a).val)
  .ok [windowTo (brcHolds mode n (laneCount c.pt.mask)) t] 0 []

/-- The token of the region that a BRD opens (R144, R158). -/
def brdToken (c : SC) : Word := BitVec.ofNat 32 (fld c.is.baddr 27 2 * 64 + c.pt.depth + 1)

/-- BRD (R158); with its guard false it writes token 0 (R156). -/
def bBrd : Meaning := bBranch (fun c => [.result 2 [.s c.d ⟨0, false⟩]]) (fun c => predPoison c c.a) fun c t =>
  let m1 := c.pt.mask &&& (preg c.g c.a).val
  let m0 := c.pt.mask &&& ~~~m1
  if m0 = 0 || m1 = 0 then .ok [.result 2 [.s c.d ⟨0, false⟩], windowTo (m1 != 0) t] 0 []
  else if c.pt.depth = 32 then trapOf 9
  else .ok [.result 2 [.s c.d ⟨brdToken c, false⟩], .openRegion (brdToken c) m0 m1 t,
    .window { left := 3, taken := true, target := t, fork := true }] 0 []

/-- JOIN (R159). -/
def bJoin : Meaning := consuming (pureM fun c =>
  let t := sreg c.g c.pt c.a
  if t.val != 0 && (c.pt.depth == 0 || t.val.toNat != innerToken c.g c.pt) then trapOf 2
  else if t.poison then trapOf 7
  else if t.val = 0 then .nothing
  else .ok [.join t.val] 0 [])

/-- CALL (R160): the link is known when the window closes. -/
def bCall : Meaning := bBranch offNothing noCond fun c t =>
  .ok [.window { left := 3, taken := true, target := t, link := some (c.d, 0) }] 0 []

/-- RET (R160): its target is the pair s(a), s(a + 1). -/
def bRet : Meaning := fun c =>
  bBranch offNothing noCond (fun _ t => .ok [windowTo true t] 0 []) { c with w := { c.w with b := c.w.a, imm := none } }

/-- CHK (R161): tests poison, consuming none. -/
def bChk : Meaning := bBranch offNothing noCond fun c t =>
  let q : Bool := match c.d % 4 with
    | 0 => (lanesOf c.pt.mask).any fun l => (vreg c.g c.a l).poison
    | 1 => (sreg c.g c.pt c.a).poison
    | 2 => predPoison c c.a != 0
    | _ => (spreg c.g c.pt c.a).poison
  .ok [windowTo q t] 0 []

/-- CHK's register: the kind of D names the kind of A (R154), of a range that the form's fields alone do not give. -/
def chkUses (c : SC) : List RegUse :=
  match c.d % 4 with
  | 0 => [⟨.v, c.a, 1, false⟩]
  | 1 => [⟨.s, c.a, 1, false⟩]
  | 2 => if c.a = 7 then [] else [⟨.p, c.a, 1, false⟩]
  | _ => if c.a = 7 then [] else [⟨.sp, c.a, 1, false⟩]

/-- CHK with the register that its kind names. -/
def bChkForm : Meaning := withUsesIf (fun c => (scalarGuard c).val) chkUses bChk

/-- YIELD (R162) and EXIT (R163). -/
def bYield : Meaning := consuming (pureM fun _ => .ok [.yield] 0 [])
def bExit : Meaning := consuming (pureM fun _ => .ok [.exitPath] 0 [])

/-- LFILL (R164): its checks; the records are taken at commit. -/
def bLfill : Meaning := consuming (pureM fun c =>
  let b := sreg c.g c.pt c.b
  let rq := b.val.toNat
  let bad := predPoison c c.a
  if rq ≥ 1024 then trapOf 2
  else match tget none (getCtx c.s c.g.ctx).rqs rq with
    | none => trapOf 2
    | some q =>
      if q.cons ≠ 0 then trapOf 2
      else if b.poison then trapOf 7
      else if bad != 0 then trapOf 7 0 bad
      else .ok [.lfill c.d c.a rq] 0 [])

/-! ## RBREL and RBCLAIM (R141, R142) -/

/-- Whether the group has one path at depth 0. -/
def onePath (c : SC) : Bool :=
  c.pt.depth == 0 && ((pathAt c.g (1 - c.is.path)).st == .empty)

/-- RBREL. -/
def zRbrel : Meaning := consuming (pureM fun c =>
  let y := uB true c
  let n := y.val.toNat
  let us : List RegUse := [⟨.v, 8 * (c.g.blocks - n), 8 * n, true⟩]
  if !onePath c || n = 0 || n ≥ c.g.blocks then trapOf 2
  else if c.is.uses.any fun u => us.any (usesMeet u) then trapOf 2
  else if y.poison then trapOf 7
  else if us.any (pendingUse c.g c.pt) then .hold
  else .ok [.blocksRel n] 0 us)

/-- A sequencer's free blocks: 256 less those held by its resident groups and those of granted claims (R140, R142). -/
def freeBlocks (s : State) (seq : Nat) : Nat :=
  256 - (s.groups.map fun e => match e.2 with
    | some g => if seqOf e.1 = seq then g.blocks + g.p0.granted + g.p1.granted else 0
    | none => 0).sum

/-- The resident groups of a sequencer, by place. -/
def seqGroups (s : State) (seq : Nat) : List (Nat × Group) :=
  s.groups.filterMap fun e => match e.2 with
    | some g => if seqOf e.1 = seq then some (e.1, g) else none
    | none => none

/-- The trap of one claim's bundle: its path is at the bundle (R143). -/
def trapClaim (s : State) (q : Claim) : State :=
  match getGroup s q.loc with
  | none => s
  | some g => raiseTrap s { loc := q.loc, path := q.path, baddr := (pathAt g q.path).pc, words := [], idx := q.slot,
                            len := q.len, above := 0, effs := [], flags := 0, uses := [] } q.slot ⟨11, 0, 0, 0⟩

/-- REG_CLAIM_DEADLOCK (R143): every resident group of the sequencer waits in a claim, and the oldest asks for more than
the free count; all of those bundles trap. -/
def claimDeadlock (s : State) (seq : Nat) : State :=
  let q := getSeq s seq
  match q.claims with
  | [] => s
  | o :: _ =>
    if decide (o.n > freeBlocks s seq) && (seqGroups s seq).all (fun e => q.claims.any fun k => k.loc == e.1) then
      q.claims.foldl trapClaim (putSeq s seq { q with claims := [] })
    else s

/-- Drops the waiting claims of a group. -/
def dropClaims (s : State) (loc : Nat) : State :=
  modSeq s (seqOf loc) fun q => { q with claims := q.claims.filter fun k => k.loc != loc }

/-- RBCLAIM: the bundle issues only when its claim has been granted; a claim that must wait takes its place in the
sequencer's order (R142). DESIGN CHOICE (notes/assumptions/31.md): where the bundle then traps or parks on another slot, R142 does not
say whether the grant stands; it stands, until a claim of the path commits or the group ends. -/
def zRbclaim : Meaning := consuming fun c =>
  let y := uB true c
  let n := y.val.toNat
  let seq := seqOf c.is.loc
  let q := getSeq c.s seq
  if !onePath c || n = 0 || c.g.blocks + n > 8 then (c.s, trapOf 2)
  else if y.poison then (c.s, trapOf 7)
  else if c.pt.granted = n then (c.s, .ok [.blocksClaim n] 0 [])
  else if q.claims.any fun k => k.loc == c.is.loc && k.path == c.is.path then (c.s, .wait)
  else if q.claims.isEmpty && decide (n ≤ freeBlocks c.s seq + c.pt.granted) then (c.s, .ok [.blocksClaim n] 0 [])
  else
    (putSeq c.s seq { q with claims := q.claims ++ [⟨c.is.loc, c.is.path, n, c.is.idx, c.is.len⟩] }, .wait)

/-- A claim is granted (R142): the oldest, when the free count is at least its blocks. -/
def grantClaim (s : State) (seq : Nat) : State :=
  let q := getSeq s seq
  match q.claims with
  | [] => s
  | o :: t =>
    if o.n ≤ freeBlocks s seq then
      modPathAt (putSeq s seq { q with claims := t }) o.loc o.path fun pt => { pt with granted := o.n, heldAt := none }
    else s

/-! ## Regions (R144-R151) -/

/-- Opens a region at BRD's commit: its sides begin at the fork (R145, R158). -/
def openRegion (g : Group) (tok : Word) (m0 m1 : LaneMask) (target : Nat) : Group :=
  { g with stack := { token := tok, mask0 := m0, mask1 := m1, st0 := .opening, st1 := .opening, pc0 := 0, pc1 := target,
                      sh0 := [], sh1 := [] } :: g.stack }

/-- A new path of a side, which has not yet issued, or has issued last at `last`. -/
def sidePath (depth : Nat) (m : LaneMask) (pc : Nat) (sh : List Shadow) (last : Nat) : Path :=
  { st := .live, depth := depth, mask := m, pc := pc, shadow := sh, lastIssue := last }

/-- Rewrites the region of a token whose sides hold a lane of a mask. -/
def modRegion (g : Group) (tok : Word) (m : LaneMask) (f : Region → Region) : Group :=
  { g with stack := g.stack.map fun r => if r.token == tok && (meets r.mask0 m || meets r.mask1 m) then f r else r }

/-- The fork after BRD's third delay bundle (R145, R146): the parent in slot `p` ends, side 0 starts at `next` and side 1
at the target. -/
def forkRegion (g : Group) (p next : Nat) : Group :=
  let pt := pathAt g p
  match g.stack.find? fun r => decide (r.st0 = .opening) && regionDepth r == pt.depth + 1
      && (r.mask0 ||| r.mask1) == pt.mask with
  | none => g
  | some r =>
    let d := pt.depth + 1
    let side0 := { sidePath d r.mask0 next pt.shadow 0 with doomed := pt.doomed }
    let side1 := sidePath d r.mask1 r.pc1 pt.shadow 0
    if (pathAt g (1 - p)).st = .empty then
      { modRegion g r.token pt.mask (fun r => { r with st0 := .live, st1 := .live, pc1 := 0 }) with p0 := side0, p1 := side1 }
    else
      putPath (modRegion g r.token pt.mask fun r => { r with st0 := .live, st1 := .pending, sh1 := pt.shadow }) p side0

/-- A free path slot takes the pending side whose region opened last (R146). -/
def fillSlot (g : Group) (p : Nat) : Group :=
  if (pathAt g p).st != .empty then g
  else match g.stack.find? fun r => decide (r.st0 = .pending) || decide (r.st1 = .pending) with
    | none => g
    | some r =>
      let one := decide (r.st1 = .pending)
      let pt := if one then { sidePath (regionDepth r) r.mask1 r.pc1 r.sh1 r.last1 with doomed := r.doom1 }
        else { sidePath (regionDepth r) r.mask0 r.pc0 r.sh0 r.last0 with doomed := r.doom0 }
      putPath (modRegion g r.token pt.mask fun r =>
        if one then { r with st1 := .live, pc1 := 0, sh1 := [], last1 := 0, doom1 := none }
        else { r with st0 := .live, pc0 := 0, sh0 := [], last0 := 0, doom0 := none }) p pt

/-- The merged shadow of a region at depth `d` (R150). -/
def mergeShadows (d : Nat) (sh0 sh1 : List Shadow) : List Shadow :=
  let pick (a b : Option Shadow) : List Shadow :=
    match a, b with
    | some a, some b =>
      if b.level = d then [{ b with level := d - 1 }] else if a.level = d then [{ a with level := d - 1 }] else [b]
    | some a, none => [if a.level = d then { a with level := d - 1 } else a]
    | none, some b => [if b.level = d then { b with level := d - 1 } else b]
    | none, none => []
  (sh1.flatMap fun b => pick (shadowOf sh0 b.reg) (some b))
  ++ (sh0.flatMap fun a => if (shadowOf sh1 a.reg).isSome then [] else pick (some a) none)

/-- The uniform and scalar-predicate results in flight when a region closes (R148, R150): those of side 0 for registers that
side 1 has written are dropped, as the merge drops side 0's entries; the others stay in flight, and land for the merged
path at its depth. -/
def mergeFlight (g : Group) (r : Region) (sh1 : List Shadow) : Group :=
  let d := regionDepth r
  let lost (k : Nat) : Bool := match shadowOf sh1 k with
    | some e => e.level == d
    | none => false
  let side0 (m : LaneMask) (depth : Nat) : Bool := decide (d ≤ depth) && meets m r.mask0 && !meets m r.mask1
  let lower (m : LaneMask) (depth : Nat) : Nat := if meets m (r.mask0 ||| r.mask1) then min depth (d - 1) else depth
  let keeps (w : RegWrite) : Bool := match w with
    | .s n _ => !lost n
    | .sp n _ => !lost (spKey n)
    | _ => true
  { g with
    inflight := g.inflight.map fun q =>
      { q with writes := if side0 q.mask q.depth then q.writes.filter keeps else q.writes, depth := lower q.mask q.depth }
    cancels := g.cancels.map fun q =>
      { q with d := if side0 q.mask q.depth && lost q.d then 1024 else q.d, depth := lower q.mask q.depth } }

/-- What a side of a closing region leaves: its slot if it is in one, its pc, shadow, last issue and doom. -/
def sideEnd (g : Group) (depth : Nat) (m : LaneMask) (st : Side) (pc : Nat) (sh : List Shadow) (last : Nat) (doom : Option Nat) :
    Option Nat × Nat × List Shadow × Nat × Option Nat :=
  if st = .empty || st = .pending || st = .opening then (none, pc, [], last, none)
  else
    let here (p : Nat) : Bool := let pt := pathAt g p; pt.st != .empty && pt.depth == depth && meets pt.mask m
    if here 0 then (some 0, g.p0.pc, g.p0.shadow, g.p0.lastIssue, g.p0.doomed)
    else if here 1 then (some 1, g.p1.pc, g.p1.shadow, g.p1.lastIssue, g.p1.doomed)
    else (none, pc, sh, last, doom)

/-- A region closes (R148, R150): the sides merge into one path, in side 1's slot if side 1 is in one, else in side 0's,
else in `spare`, the slot that an EXIT has just freed. DESIGN CHOICE (notes/assumptions/20.md): R152 does not say what becomes of a
handler whose path merges; the merged path goes on inside it. -/
def closeRegion (g : Group) (tok : Word) (m : LaneMask) (spare : Nat) : Group :=
  match g.stack.find? fun r => r.token == tok && (r.mask0 ||| r.mask1) == m with
  | none => g
  | some r =>
    let d := regionDepth r
    let e0 := sideEnd g d r.mask0 r.st0 r.pc0 r.sh0 r.last0 r.doom0
    let e1 := sideEnd g d r.mask1 r.st1 r.pc1 r.sh1 r.last1 r.doom1
    let pc := if r.st1 = .empty then e0.2.1 else e1.2.1
    let sh := mergeShadows d e0.2.2.1 e1.2.2.1
    let p := (e1.1.orElse fun _ => e0.1).getD spare
    let waits (o : Option Nat) : List Wait := match o with
      | some q => (pathAt g q).waits
      | none => []
    let ws := waits e0.1 ++ waits e1.1
    let g := mergeFlight g r e1.2.2.1
    let clear (g : Group) (o : Option Nat) : Group :=
      match o with
      | some q => putPath g q {}
      | none => g
    let g := clear (clear g e0.1) e1.1
    let g := { g with stack := g.stack.filter fun x => !(x.token == tok && (x.mask0 ||| x.mask1) == m) }
    let g := if d = 1 then sh.foldl (fun g e => filePut g e.reg e.val e.poison) g else g
    let inHandler (o : Option Nat) : Bool := g.hnd && o == some g.hndPath
    let g := if inHandler e0.1 || inHandler e1.1 then { g with hndPath := p } else g
    putPath g p { st := .live, depth := d - 1, mask := m, pc := pc, waits := ws, shadow := if d = 1 then [] else sh,
                  lastIssue := max e0.2.2.2.1 e1.2.2.2.1, doomed := e1.2.2.2.2.orElse fun _ => e0.2.2.2.2 }

/-- Both slots take what is pending. -/
def fillSlots (g : Group) : Group := fillSlot (fillSlot g 0) 1

/-- A side has arrived or has no lanes left. -/
def sideOver (s : Side) : Bool :=
  match s with
  | .arrived => true
  | .empty => true
  | _ => false

/-- An arrived path's state goes into the entry of its region, and its slot frees for what is pending (R148). -/
def storeArrived (g : Group) (p : Nat) (r : Region) : Group :=
  let pt := pathAt g p
  let one := meets r.mask1 pt.mask
  let g := modRegion g r.token pt.mask fun r =>
    if one then { r with pc1 := pt.pc, sh1 := pt.shadow, last1 := pt.lastIssue, doom1 := pt.doomed }
    else { r with pc0 := pt.pc, sh0 := pt.shadow, last0 := pt.lastIssue, doom0 := pt.doomed }
  fillSlots (putPath g p {})

/-- The state of the other side of a path's region. -/
def otherSide (r : Region) (pt : Path) : Side := if meets r.mask1 pt.mask then r.st0 else r.st1

/-- Whether a path slot holds a side of a region that a committed wait still holds. -/
def sideWaits (g : Group) (r : Region) : Bool :=
  let on (pt : Path) : Bool := decide (pt.st = .join) && pt.depth == regionDepth r && meets pt.mask (r.mask0 ||| r.mask1)
    && !pt.waits.isEmpty
  on g.p0 || on g.p1

/-- A path that stands at JOIN goes on: its region closes once the other side is over, or its slot frees for a pending one; a
committed wait of either side comes first. -/
def settleJoin (g : Group) (p : Nat) : Group :=
  let pt := pathAt g p
  match innermost g pt with
  | none => g
  | some r =>
    if pt.st != .join || sideWaits g r then g
    else if sideOver (otherSide r pt) then fillSlots (closeRegion g r.token (r.mask0 ||| r.mask1) p)
    else if otherSide r pt = .pending then storeArrived g p r
    else g

/-- JOIN at commit (R148), the path's pc already past its bundle: its side has arrived. A path whose bundle has left it a wait
keeps its slot until the wait has ended. -/
def joinPath (g : Group) (p : Nat) : Group :=
  let pt := pathAt g p
  match innermost g pt with
  | none => g
  | some r =>
    let one := meets r.mask1 pt.mask
    let g := modRegion g r.token pt.mask fun r => if one then { r with st1 := .arrived } else { r with st0 := .arrived }
    settleJoin (putPath g p { pt with st := .join }) p

/-- A side whose lanes have all ended is empty (R151). -/
def emptySide (m : LaneMask) (st : Side) : Side := if m = 0 then .empty else st

/-- The region opened last that an EXIT completes (R151): both sides over, and one of them without lanes. -/
def overRegion (g : Group) : Option Region := g.stack.find? fun r =>
  sideOver r.st0 && sideOver r.st1 && (decide (r.st0 = .empty) || decide (r.st1 = .empty))

/-- Closes every region that an EXIT completes, innermost first. The fuel is the number of regions. -/
def closeOver (g : Group) (spare : Nat) : Nat → Group
  | 0 => g
  | fuel + 1 =>
    match overRegion g with
    | none => g
    | some r =>
      let m := r.mask0 ||| r.mask1
      if m = 0 then
        closeOver { g with stack := g.stack.filter fun x => !(x.token == r.token && (x.mask0 ||| x.mask1) == 0) } spare fuel
      else closeOver (closeRegion g r.token m spare) spare fuel

/-- EXIT at commit (R151, R389): the path's lanes leave every region, its shadow is discarded, and in a handler what was
set aside with it. A bank-mode fence of its bundle completes without it (R163, R215). -/
def exitPath (g : Group) (p : Nat) : Group :=
  let pt := pathAt g p
  let fenced := pt.waits.flatMap fun w => match w with
    | .fence ks => ks
    | _ => []
  let g := { putPath g p {} with fences := g.fences ++ fenced }
  let g := if g.hnd && g.hndPath == p then
      { g with hnd := false, asideWin := none, kpend := g.kpend.filter fun k => !k.aside } else g
  let g := { g with stack := g.stack.map fun r =>
    let m0 := r.mask0 &&& ~~~pt.mask
    let m1 := r.mask1 &&& ~~~pt.mask
    { r with mask0 := m0, mask1 := m1, st0 := emptySide m0 r.st0, st1 := emptySide m1 r.st1 } }
  fillSlots (closeOver g p g.stack.length)

end Sys2Proof.Machine
end

