-- ==== Sys2Proof/Machine/MemOps.lean ====
section
/-! DEFINITION. The M-class forms and BANKMODE: address checks, lane faults, loads and stores, pond and FIFO accesses,
tensors, atomics, fences (spec/09_memory_instr.md R199-R230). A meaning checks and captures the access; it performs
after commit (Machine/MemModel.lean). -/

namespace Sys2Proof.Machine

/-! ## Checks (R201) -/

/-- A lane's check: its address, cause (0 passed), the level of a failed walk and the physical address. -/
structure LaneCheck where
  lane : Nat
  ea : Nat
  cause : Nat
  level : Nat
  pa : Nat
  /-- The lane's address was formed (R488): false of a coordinate that BORDER refuses. -/
  formed : Bool := true
  deriving DecidableEq, Repr

/-- The core buffer of a bundle's core (R371). -/
def coreUnit (loc : Nat) : TUnit := .core (Fin.ofNat 256 (coreOf loc))

/-- Checks one global address (R201): range, alignment, translation, protection. `none`: the unit starts no new
translation (R373). -/
def checkGlobal (s : State) (loc ctx : Nat) (n : Need) (size lane ea : Nat) : State × Option LaneCheck :=
  if ea ≥ 2 ^ 57 then (s, some ⟨lane, ea, 4, 0, 0, true⟩)
  else if ea % size ≠ 0 then (s, some ⟨lane, ea, 3, 0, 0, true⟩)
  else match translate s (coreUnit loc) ctx ea n with
    | (s, .ok pa) => (s, some ⟨lane, ea, 0, 0, pa, true⟩)
    | (s, .fault cause level) => (s, some ⟨lane, ea, cause, level, 0, true⟩)
    | (s, .hold) => (s, none)

/-- Checks the addresses of lanes in ascending order. -/
def checkLanes (s : State) (loc ctx : Nat) (n : Need) (size : Nat) : List (Nat × Nat) → State × Option (List LaneCheck)
  | [] => (s, some [])
  | (l, ea) :: t =>
    match checkGlobal s loc ctx n size l ea with
    | (s, none) => (s, none)
    | (s, some q) =>
      match checkLanes s loc ctx n size t with
      | (s, none) => (s, none)
      | (s, some r) => (s, some (q :: r))

/-- The pond banks of a group's set: cluster and physical banks by set bank number (R120, R200). -/
def pondOf (s : State) (g : Group) : Nat × List Nat :=
  match getSet s g.ctx g.launch g.set with
  | some r => (r.cluster, r.banks)
  | none => (0, [])

/-- The key of a pond byte: module cluster, bank, byte. -/
def pondKey (cluster bank byte : Nat) : Nat := (cluster * 32 + bank) * 262144 + byte

/-- Checks one pond address (R201, R211): range, alignment, the bank's mode. -/
def checkPond (s : State) (g : Group) (size lane ea : Nat) : LaneCheck :=
  let p := pondOf s g
  match p.2[ea / 262144]? with
  | none => ⟨lane, ea, 4, 0, 0, true⟩
  | some b =>
    if ea % size ≠ 0 then ⟨lane, ea, 3, 0, 0, true⟩
    else if (getBank s (p.1 * 32 + b)).mode ≠ 1 then ⟨lane, ea, 2, 0, 0, true⟩
    else ⟨lane, ea, 0, 0, pondKey p.1 b (ea % 262144), true⟩

/-- Whether a pond offset lies in a bank that a bank-mode fence has taken: an access issued after the fence is held until
it completes (R215). -/
def fencedAt (s : State) (g : Group) (ea : Nat) : Bool :=
  let p := pondOf s g
  match p.2[ea / 262144]? with
  | none => false
  | some b => (getBank s (p.1 * 32 + b)).fencing.isSome

/-- The lanes of a check with a cause. -/
def lanesWith (cause : Nat) (l : List LaneCheck) : LaneMask :=
  maskOf fun i => l.any fun q => q.lane == i && q.cause == cause

/-- The address of the lowest lane with a cause, and its level. -/
def firstWith (cause : Nat) (l : List LaneCheck) : Nat × Nat :=
  match l.find? fun q => q.cause == cause with
  | some q => (q.ea, q.level)
  | none => (0, 0)

/-- The event of a slot whose lanes fail checks (R384): out of range, misaligned, a translation fault, which parks,
then protection. `access` is R376's code. -/
def checkEvent (slot access : Nat) (l : List LaneCheck) : Option SlotRes :=
  let ev (cause code : Nat) : Option SlotRes :=
    let m := lanesWith cause l
    if m = 0 then none
    else if cause = 1 then
      some (.park { source := 4, access := access, va := (firstWith 1 l).1, slot := slot, level := (firstWith 1 l).2,
                    lanes := m.toNat })
    else some (trapOf code (firstWith cause l).1 m)
  (ev 4 4).orElse fun _ => (ev 3 3).orElse fun _ => (ev 1 5).orElse fun _ => ev 2 6

/-- The lane-fault effect of a `.lanefault` slot (R208-R210). -/
def laneFaultEff (c : SC) (op : Nat) (l : List LaneCheck) : List Eff :=
  let bad := l.filter fun q => q.cause != 0
  if bad.isEmpty then []
  else [.laneFault c.is.idx op (maskOf fun i => bad.any fun q => q.lane == i)
    (BitVec.ofNat 64 (bad.foldl (fun a q => a + q.cause * 16 ^ q.lane) 0)) (bad.map fun q => (q.lane, q.ea))]

/-! ## Entries -/

/-- The slot word and its modifier word (R401). -/
def slotWord (c : SC) : Word := c.is.words.headD 0
def modWord (c : SC) : Word :=
  match c.w.mod with
  | some m => eWord false 1 (payloadOfMod m)
  | none => 0

/-- A memory entry of a slot (R401). Only a plain access that allocates in the pond may bind from a cluster copy
(R206, R233). -/
def entryOf (c : SC) (kind : EntryKind) (pond : Bool) (size : Nat) (lanes : List LaneAccess) : MemEntry :=
  { kind := kind, mask := c.pt.mask, pond := pond, size := size, lanes := lanes, baddr := c.is.baddr, word := slotWord c,
    modw := modWord c, scope := c.mod.scope.toNat,
    cached := !pond && c.mod.scope == 0 && (c.mod.cache == 0 || c.mod.cache == 3) }

/-- The access effect of the lanes that passed, if any did. -/
def accessEff (c : SC) (kind : EntryKind) (pond : Bool) (size : Nat) (lanes : List LaneAccess) : List Eff :=
  if lanes.isEmpty then [] else [.access (entryOf c kind pond size lanes)]

/-- The memory-trace effect of an M slot (R488): lanes with their addresses. -/
def traceEff (c : SC) (l : List LaneCheck) : List Eff :=
  [.trace (slotWord c) c.mod.lf ((l.filter (·.formed)).map fun q => (q.lane, q.ea))]

/-- Registers of a load's destination kept with poison set in some lanes. -/
def poisonedDest (c : SC) (d cnt : Nat) (m : LaneMask) : List Eff :=
  if m = 0 then []
  else [.result 14 ((lanesOf m).flatMap fun l => (List.range cnt).map fun j => poisonOld c (.v (d + j) l ⟨0, false⟩))]

/-- What every checked access does: a poisoned address or datum in a lane of Active(p), or in one whose guard is
poisoned, is a use (R76); failed lanes trap or park, or under `.lanefault` are disabled and recorded (R68, R208). `k`
builds the effects of the lanes that passed. -/
def checkedAccess (c : SC) (op access : Nat) (poisoned : Nat → Bool)
    (chk : State → List Nat → State × Option (List LaneCheck)) (k : List LaneCheck → List Eff) : State × SlotRes :=
  let act := actives c
  let bad := maskOf fun l => (act ||| guardPoison c).getLsbD l && poisoned l
  if bad != 0 then (c.s, trapOf 7 0 bad)
  else match chk c.s (lanesOf act) with
    | (_, none) => (c.s, .hold)
    | (s, some l) =>
      let good := l.filter fun q => q.cause == 0
      if c.mod.lf then (s, .ok (laneFaultEff c op l ++ k good ++ traceEff c l) 0 [])
      else match checkEvent c.is.idx access l with
        | some ev => (s, ev)
        | none => (s, .ok (k good ++ traceEff c l) 0 [])

/-- Checks of global operands. -/
def chkGlobal (c : SC) (n : Need) (size : Nat) (s : State) (ls : List Nat) : State × Option (List LaneCheck) :=
  checkLanes s c.is.loc c.g.ctx n size (ls.map fun l => (l, (globalEa c l).1))

/-- Checks of pond operands. -/
def chkPond (c : SC) (size : Nat) (s : State) (ls : List Nat) : State × Option (List LaneCheck) :=
  if ls.any fun l => fencedAt s c.g (pondEa c l).1 then (s, none)
  else (s, some (ls.map fun l => checkPond s c.g size l (pondEa c l).1))

/-- A lane access that stores nothing. -/
def readAccess (q : LaneCheck) : LaneAccess := { lane := q.lane, va := q.ea, pa := q.pa, data := [] }

/-- The bytes of a store datum in a lane: `size` bytes of v(d), or of the pair for 8. -/
def datumBytes (c : SC) (d size l : Nat) : List Byte := natLe (vpair c.g d l).1 size

/-- Whether a store datum is poisoned in a lane. -/
def datumPoison (c : SC) (d cnt l : Nat) : Bool := (List.range cnt).any fun j => (vreg c.g (d + j) l).poison

/-! ## LD, ST, LDS, LDP, STP (R203, R207, R211) -/

/-- Registers that an access of a size fills. -/
def regsOf (size : Nat) : Nat := if size = 8 then 2 else 1

/-- LD. -/
def mLoad (op size : Nat) (signed : Bool) : Meaning := fun c =>
  checkedAccess c op 1 (fun l => (globalEa c l).2) (chkGlobal c { r := true } size) fun good =>
    accessEff c (.load (8 * size) signed c.d) false size (good.map readAccess)
    ++ poisonedDest c c.d (regsOf size) (guardPoison c)

/-- ST. -/
def mStore (op size : Nat) : Meaning := fun c =>
  checkedAccess c op 2 (fun l => (globalEa c l).2 || datumPoison c c.d (regsOf size) l) (chkGlobal c { w := true } size) fun good =>
    accessEff c .write false size (good.map fun q => { readAccess q with data := datumBytes c c.d size q.lane })

/-- LDP. -/
def mPondLoad (op size : Nat) (signed : Bool) : Meaning := fun c =>
  checkedAccess c op 1 (fun l => (pondEa c l).2) (chkPond c size) fun good =>
    accessEff c (.load (8 * size) signed c.d) true size (good.map readAccess)
    ++ poisonedDest c c.d (regsOf size) (guardPoison c)

/-- STP. -/
def mPondStore (op size : Nat) : Meaning := fun c =>
  checkedAccess c op 2 (fun l => (pondEa c l).2 || datumPoison c c.d (regsOf size) l) (chkPond c size) fun good =>
    accessEff c .write true size (good.map fun q => { readAccess q with data := datumBytes c c.d size q.lane })

/-- LDS (R207): a lane with a poisoned address or a failed check keeps its value with poison set. -/
def mSpecLoad (size : Nat) (signed : Bool) : Meaning := fun c =>
  let act := actives c
  let okLane (l : Nat) : Bool := !(globalEa c l).2
  match chkGlobal c { r := true } size c.s ((lanesOf act).filter okLane) with
  | (_, none) => (c.s, .hold)
  | (s, some l) =>
    let good := l.filter fun q => q.cause == 0
    let m := maskOf fun i => act.getLsbD i && !(good.any fun q => q.lane == i)
    (s, .ok (accessEff c (.load (8 * size) signed c.d) false size (good.map readAccess)
      ++ poisonedDest c c.d (regsOf size) (m ||| guardPoison c) ++ traceEff c l) 0 [])

/-- PREF (R230): lanes that fail any check, or whose address is poisoned, fetch nothing and raise nothing. Its trace record holds every
lane of Active(p), since each forms its address (R200, R488). -/
def mPref : Meaning := fun c =>
  let lanes := (lanesOf (actives c)).filter fun l => !(globalEa c l).2
  match chkGlobal c { r := true } 1 c.s lanes with
  | (_, none) => (c.s, .hold)
  | (s, some l) =>
    let good := l.filter fun q => q.cause == 0
    let formed := (lanesOf (actives c)).map fun i => { lane := i, ea := (globalEa c i).1, cause := 0, level := 0, pa := 0 : LaneCheck }
    (s, .ok ((if c.mod.cache = 2 then [] else [.prefetch (good.map fun q => lineOf q.pa)]) ++ traceEff c formed) 0 [])

/-! ## Atomics (R225, R226) -/

/-- ATOM: the datum is d<l>, or the pair. -/
def mAtom (op : Nat) (k : AtomOp) (size : Nat) : Meaning := fun c =>
  checkedAccess c op 3 (fun l => (globalEa c l).2 || datumPoison c c.d (regsOf size) l)
    (chkGlobal c { r := true, w := true } size) fun good =>
      accessEff c (.atomic k c.d) false size (good.map fun q => { readAccess q with data := datumBytes c c.d size q.lane })
      ++ poisonedDest c c.d (regsOf size) (guardPoison c)

/-- ATOMC: the data are the compared and the new value (R226). -/
def mAtomc (op size : Nat) : Meaning := fun c =>
  let r := regsOf size
  checkedAccess c op 3 (fun l => (globalEa c l).2 || datumPoison c c.d (2 * r) l)
    (chkGlobal c { r := true, w := true } size) fun good =>
      accessEff c (.atomic .cas c.d) false size (good.map fun q =>
        { readAccess q with data := datumBytes c c.d size q.lane ++ datumBytes c (c.d + r) size q.lane })
      ++ poisonedDest c c.d r (guardPoison c)

/-- The new memory value of an atomic (R225, R226): `x` the datum, `y` the new value of a compare and swap. -/
def atomNew (k : AtomOp) (size old x y : Nat) : Nat :=
  let w (f : Word → Word → Word) : Nat := (f (BitVec.ofNat 32 old) (BitVec.ofNat 32 x)).toNat
  let f (g : FVal → FVal → Nat × BitVec 6) : Nat := (g (decodeF binary32 old) (decodeF binary32 x)).1
  match k with
  | .add => (old + x) % 2 ^ (8 * size)
  | .minS => w minS
  | .minU => w minU
  | .maxS => w maxS
  | .maxU => w maxU
  | .and => old &&& x
  | .or => old ||| x
  | .xor => old ^^^ x
  | .exch => x
  | .fadd => f (fadd binary32 0)
  | .fmin => f (fminmax false binary32)
  | .fmax => f (fminmax true binary32)
  | .cas => if old = x then y else old
  | .publish => y

/-! ## FENCE and DRAIN (R228-R230) -/

/-- The scope code that a form's SCOPE gives, 0 meaning .m. -/
def scopeOr4 (c : SC) : Nat := if c.mod.scope = 0 then 4 else c.mod.scope.toNat

/-- FENCE. -/
def mFence : Meaning := pureM fun c =>
  if actives c = 0 then .nothing else .ok [.fence (scopeOr4 c) false] 0 []

/-- DRAIN. -/
def mDrain : Meaning := pureM fun c =>
  if actives c = 0 then .nothing else .ok [.fence (scopeOr4 c) true, .wait .drain] 0 []

/-! ## FIFO banks (R217) -/

/-- The checks of a FIFO slot's bank: its key, or the trap. -/
def fifoBank (c : SC) : Except TrapInfo Nat :=
  let a := sreg c.g c.pt c.a
  let p := pondOf c.s c.g
  if a.val.toNat ≥ 32 || a.poison then .error ⟨2, 0, 0, 0⟩
  else match p.2[a.val.toNat]? with
    | none => .error ⟨4, 0, 0, 0⟩
    | some b =>
      if (getBank c.s (p.1 * 32 + b)).mode ≠ 2 && (getBank c.s (p.1 * 32 + b)).fencing.isNone then .error ⟨2, 0, 0, 0⟩ else .ok (p.1 * 32 + b)

/-- Whether the path has an access that has not bound or performed: a push waits for it (R243). -/
def pathBusy (c : SC) : Bool := c.g.macc.any fun e => meets e.mask c.pt.mask

/-- FIFOPUSH: with Active(p) empty it does nothing. -/
def mFifoPush : Meaning := pureM fun c =>
  let act := actives c
  let bad := maskOf fun l => (act ||| guardPoison c).getLsbD l && (vreg c.g c.b l).poison
  if act = 0 then .nothing
  else match fifoBank c with
    | .error t => if bad != 0 && t.cause == 4 then trapOf 7 0 bad else .trap t
    | .ok k =>
      if bad != 0 then trapOf 7 0 bad
      else if (getBank c.s k).fencing.isSome || pathBusy c then .hold
      else if (getBank c.s k).fifo.length ≥ 4096 then .wait
      else .ok [.fifoPush k ((List.range 16).map fun l => if act.getLsbD l then (vreg c.g c.b l).val else 0)] 0 []

/-- FIFOPOP: with Active(p) empty it does nothing. -/
def mFifoPop : Meaning := pureM fun c =>
  let act := actives c
  let po := poisonedDest c c.d 1 (guardPoison c)
  if act = 0 then .nothing
  else match fifoBank c with
    | .error t => .trap t
    | .ok k =>
      if (getBank c.s k).fencing.isSome || pathBusy c then .hold
      else if (getBank c.s k).fifo.isEmpty then .wait
      else .ok (po ++ [.fifoPop k c.d act]) 0 []

/-! ## Tensors (R218-R223) -/

/-- A tensor descriptor's fields. -/
structure Tensor where
  base : Nat
  ext : List Nat
  str : List Nat
  rank : Nat
  fmt : Nat
  border : Nat
  tiled : Bool
  deriving DecidableEq, Repr

/-- Reads the fields of a descriptor's doublewords (R218). -/
def tensorOf (d : List DWord) : Tensor :=
  { base := fld (dwAt d 0) 56 0
    ext := [fld (dwAt d 1) 31 0, fld (dwAt d 1) 63 32, fld (dwAt d 2) 31 0, fld (dwAt d 2) 63 32, fld (dwAt d 3) 31 0]
    str := [fld (dwAt d 4) 47 0, fld (dwAt d 5) 47 0, fld (dwAt d 6) 47 0, fld (dwAt d 7) 47 0]
    rank := fld (dwAt d 3) 40 38, fmt := fld (dwAt d 3) 35 32, border := fld (dwAt d 3) 45 43
    tiled := fld (dwAt d 3) 42 41 == 1 }

/-- A format fault of a descriptor (R219). -/
def tensorBad (d : List DWord) : Bool :=
  let t := tensorOf d
  let esz := if elemWidth t.fmt < 8 then 1 else elemWidth t.fmt / 8
  let ext (k : Nat) : Nat := t.ext.getD k 0
  let str (k : Nat) : Nat := t.str.getD (k - 1) 0
  fld (dwAt d 0) 63 57 != 0 || fld (dwAt d 3) 55 46 != 0 || fld (dwAt d 3) 37 36 != 0
  || (List.range 4).any (fun k => fld (dwAt d (4 + k)) 63 48 != 0)
  || fld (dwAt d 3) 63 56 != 1 || decide (t.border ≥ 4) || decide (fld (dwAt d 3) 42 41 ≥ 2)
  || t.rank == 0 || decide (t.rank ≥ 6) || t.fmt == 0
  || (List.range t.rank).any (fun k => ext k == 0)
  || (List.range 5).any (fun k => decide (k ≥ t.rank) && (ext k != 0 || (decide (k ≥ 1) && str k != 0)))
  || (if t.tiled then decide (t.rank < 2) || t.base % 1024 != 0 || t.str.any (fun x => x % 1024 != 0)
      else t.base % esz != 0 || t.str.any (fun x => x % esz != 0))

/-- Tile width and height by element width (R222). -/
def tileShape (w : Nat) : Nat × Nat :=
  match w with
  | 64 => (8, 16)
  | 32 => (16, 16)
  | 16 => (32, 16)
  | 8 => (32, 32)
  | 4 => (64, 32)
  | _ => (128, 64)

/-- A coordinate under BORDER (R221): `none` is out of range under fault or zero. -/
def borderCoord (border ext : Nat) (i : Int) : Option Nat :=
  if 0 ≤ i ∧ i < ext then some i.toNat
  else if border = 2 then some (if i < 0 then 0 else ext - 1)
  else if border = 3 then some (i % (ext : Int)).toNat
  else none

/-- The place of an element, not reduced, and the position of its lowest bit in the byte (R222). -/
def elemPlace (t : Tensor) (ix : List Nat) : Nat × Nat :=
  let w := elemWidth t.fmt
  let i (k : Nat) : Nat := ix.getD k 0
  let str (k : Nat) : Nat := t.str.getD (k - 1) 0
  if t.tiled then
    let (tw, th) := tileShape w
    let bit := ((i 1 % th) * tw + i 0 % tw) * w
    let ea := t.base + i 0 / tw * 1024 + i 1 / th * str 1 + ((List.range t.rank).drop 2).foldl (fun a k => a + i k * str k) 0
    (ea + bit / 8, bit % 8)
  else
    let bit := w * i 0
    let ea := t.base + bit / 8 + ((List.range t.rank).drop 1).foldl (fun a k => a + i k * str k) 0
    (ea, bit % 8)

/-- The address of an element and the position of its lowest bit in the byte (R222), modulo 2^64. -/
def elemAddress (t : Tensor) (ix : List Nat) : Nat × Nat := ((elemPlace t ix).1 % 2 ^ 64, (elemPlace t ix).2)

/-- The coordinates of all dimensions under BORDER; none if some coordinate has none. -/
def borderCoords (t : Tensor) (ix : List Int) : Option (List Nat) :=
  ((List.range t.rank).map fun k => borderCoord t.border (t.ext.getD k 0) (ix.getD k 0)).foldr
    (fun o a => match o, a with
      | some x, some l => some (x :: l)
      | _, _ => none) (some [])

/-- Where a tensor's descriptor comes from: kept, or read through the context's translation (R220). -/
inductive DescRes where
  | ok (d : List DWord) (fresh : Bool)
  | event (r : SlotRes)

/-- Reads descriptor `t` for a slot. DESIGN CHOICE (notes/assumptions/10.md): R220 lets the units keep descriptors; they keep every one that
they have read, in one store for the context, until the context's next kernel is admitted. -/
def readDesc (c : SC) (t : Nat) : State × DescRes :=
  let x := getCtx c.s c.g.ctx
  if t ≥ x.ttcount then (c.s, .event (trapOf 4))
  else match tget [] x.kept t with
    | d :: ds => (c.s, .ok (d :: ds) false)
    | [] =>
      let va := x.ttbase + 64 * t
      if va ≥ 2 ^ 57 then (c.s, .event (trapOf 4 va))
      else match translateNow c.s (coreUnit c.is.loc) c.g.ctx va { r := true } with
        | (_, .hold) => (c.s, .event .hold)
        | (s, .fault 1 level) =>
          (s, .event (.park { source := 4, access := 1, va := va, slot := c.is.idx, level := level }))
        | (s, .fault _ _) => (s, .event (trapOf 6 va))
        | (s, .ok pa) => (s, .ok (mem64s s.mem pa 8) true)

/-- A lane of a tensor access: a checked element address with its bit position, or no access under BORDER zero. -/
structure TensorLane where
  lane : Nat
  ea : Nat
  bit : Nat
  cause : Nat
  zero : Bool
  formed : Bool := true
  deriving DecidableEq, Repr

/-- The coordinates of a lane, addressed (R221, R222). -/
def tensorLane (c : SC) (t : Tensor) (l : Nat) : TensorLane :=
  let ix := (List.range t.rank).map fun k => (vreg c.g (c.b + k) l).val.toInt
  match borderCoords t ix with
  | none => if t.border = 1 then ⟨l, 0, 0, 0, true, false⟩ else ⟨l, 0, 0, 4, false, false⟩
  | some ix =>
    let a := elemAddress t ix
    if a.1 ≥ 2 ^ 57 then ⟨l, a.1, a.2, 4, false, true⟩ else ⟨l, a.1, a.2, 0, false, true⟩

/-- The bits of a byte that an element of `w` bits at bit `b` takes. -/
def subMask (w b : Nat) : Byte := if w ≥ 8 then 0xFF else BitVec.ofNat 8 ((2 ^ w - 1) * 2 ^ b)

/-- The registers that LDT or STT names through its descriptor: the coordinates and the datum. -/
def tensorUses (store : Bool) (desc : List DWord) (c : SC) : List RegUse :=
  let t := tensorOf desc
  [⟨.v, c.b, t.rank, false⟩, ⟨.v, c.d, if elemWidth t.fmt = 64 then 2 else 1, !store⟩]

/-- LDT and STT (R219-R223). A poisoned tensor number names no descriptor, and a poisoned first coordinate or datum needs
none: POISON comes before the descriptor's own causes (R76, R384). With Active(p) empty there is no effect; the
registers that the slot would name stand for RBREL's test, which is made whatever the guard (R141). -/
def mTensor (store : Bool) (op : Nat) : Meaning := fun c =>
  let act := actives c
  let tn := sreg c.g c.pt c.a
  if act = 0 then
    (c.s, .ok [] 0 (match if tn.poison || decide (tn.val.toNat ≥ 65536) then .event .hold else (readDesc c tn.val.toNat).2 with
      | .ok desc _ => if tensorBad desc then [] else tensorUses store desc c
      | .event _ => []))
  else
    let bad := maskOf fun l => (act ||| guardPoison c).getLsbD l
      && ((vreg c.g c.b l).poison || (store && (vreg c.g c.d l).poison))
    if tn.poison then (c.s, trapOf 7 0 act)
    else if tn.val.toNat ≥ 65536 then (c.s, if bad != 0 then trapOf 7 0 bad else trapOf 4)
    else match readDesc c tn.val.toNat with
      | (s, .event .hold) => (s, .hold)
      | (s, .event r) => (s, if bad != 0 then trapOf 7 0 bad else r)
      | (s, .ok desc fresh) =>
        let t := tensorOf desc
        let w := elemWidth t.fmt
        let size := if w < 8 then 1 else w / 8
        let r := regsOf size
        if tensorBad desc || (w == 64 && c.d % 2 == 1) then (s, trapOf 2)
        else withUses (tensorUses store desc) (fun c =>
          let coordPoison (l : Nat) : Bool := (List.range t.rank).any fun k => (vreg c.g (c.b + k) l).poison
          let lanes (ls : List Nat) : List TensorLane := ls.map (tensorLane c t)
          let tl := lanes (lanesOf act)
          let find (l : Nat) : TensorLane := (tl.find? fun q => q.lane == l).getD ⟨l, 0, 0, 0, true, false⟩
          let chk (s : State) (ls : List Nat) : State × Option (List LaneCheck) :=
            let q := lanes ls
            match checkLanes s c.is.loc c.g.ctx (if store then { w := true } else { r := true }) 1
                ((q.filter fun x => x.cause == 0 && !x.zero).map fun x => (x.lane, x.ea)) with
            | (s, none) => (s, none)
            | (s, some l) =>
              (s, some (q.filterMap fun x =>
                if x.cause != 0 then some ⟨x.lane, x.ea, 4, 0, 0, x.formed⟩
                else if x.zero then none
                else l.find? fun y => y.lane == x.lane))
          let keep : List Eff := if fresh then [.keep tn.val.toNat desc] else []
          match checkedAccess c op (if store then 2 else 1)
              (fun l => coordPoison l || (store && datumPoison c c.d r l)) chk (fun good =>
                if store then
                  accessEff c .write false size (good.map fun q =>
                    let b := (find q.lane).bit
                    { readAccess q with
                      data := natLe ((vpair c.g c.d q.lane).1 * 2 ^ b) size
                      mask := subMask w b })
                else
                  let zs := (tl.filter (·.zero)).flatMap fun x => (List.range r).map fun j => RegWrite.v (c.d + j) x.lane ⟨0, false⟩
                  accessEff c (.load w false c.d) false size (good.map fun q =>
                    { readAccess q with mask := subMask w (find q.lane).bit })
                  ++ (if zs.isEmpty then [] else [.result 14 zs])
                  ++ poisonedDest c c.d r (guardPoison c)) with
          | (s, .ok e f u) => (s, .ok (keep ++ e) f u)
          | q => q) { c with s := s }

/-! ## BANKMODE (R213-R215) -/

/-- The operand of a Z form: s(b), or the zero-extended immediate. -/
def zB (c : SC) : PWord := uB true c

/-- A bank that has a pending mode while an earlier fence is still at work on it. -/
def fenceBehind (s : State) (g : Group) : Bool :=
  let q := pondOf s g
  q.2.any fun b => (getBank s (q.1 * 32 + b)).pending.isSome && (getBank s (q.1 * 32 + b)).fencing.isSome

/-- BANKMODE. A fence that would take a bank of an earlier fence waits to issue until that one has completed (R215). -/
def zBankmode : Meaning := consuming (pureM fun c =>
  let y := zB c
  let v := y.val.toNat
  let mode := fld v 9 8
  if v ≥ 1024 || fld v 7 5 != 0 || (mode == 3 && fld v 4 0 != 0) then trapOf 2
  else if y.poison then trapOf 7
  else if mode = 3 then (if fenceBehind c.s c.g then .hold else .ok [.bankFence] 0 [])
  else if fld v 4 0 ≥ (pondOf c.s c.g).2.length then trapOf 4
  else .ok [.bankMode (fld v 4 0) mode] 0 [])

end Sys2Proof.Machine
end

