-- ==== Sys2Proof/Machine/Barrier.lean ====
section
/-! DEFINITION. Set barriers, byte-counting barriers, WAITEVT and the bank-mode fence (spec/15_barrier.md R355-R366,
spec/09_memory_instr.md R215). A meaning checks and captures; what a form does at commit and how a wait ends stand
below it. -/

namespace Sys2Proof.Machine

/-- Drops a path's waits that a test picks. -/
def endWaits (g : Group) (p : Nat) (f : Wait → Bool) : Group :=
  settleJoin (modPath g p fun pt => { pt with waits := pt.waits.filter fun w => !f w, heldAt := none, held := 0 }) p

/-- A result of a path that lands at its next opportunity. -/
def resultNow (g : Group) (p : Nat) (ws : List RegWrite) : Group :=
  let pt := pathAt g p
  { g with inflight := g.inflight ++ [⟨pt.mask, pt.depth, 0, ws⟩] }

/-! ## Set barriers -/

/-- Whether a wait is BAR's on a phase. -/
def isBar (phase : Nat) : Wait → Bool
  | .bar p => p == phase
  | _ => false

/-- The groups of a set, by place. -/
def setGroups (s : State) (r : SetRec) : List (Nat × Group) :=
  s.groups.filterMap fun e => match e.2 with
    | some g => if g.ctx = r.ctx && g.launch.toNat == r.launch && g.set.toNat == r.k then some (e.1, g) else none
    | none => none

/-- Releases the groups of a set that wait on the old phase: their waits end with an acquire and ARR ← 0 (R356, R361). -/
def releaseBar (s : State) (r : SetRec) (phase : Nat) : State :=
  (setGroups s r).foldl (fun s e =>
    let w (p : Nat) : Bool := (pathAt e.2 p).waits.any (isBar phase)
    if w 0 || w 1 then
      acquireBy (.path e.1 0) 2 (putGroup s e.1 { endWaits (endWaits e.2 0 (isBar phase)) 1 (isBar phase) with arr := false })
    else s) s

/-- Completes the phase of a set's barrier when every live group has arrived (R356). -/
def completePhase (s : State) (r : SetRec) : State :=
  if r.live != 0 && r.arrived == r.live then
    releaseBar (modSet s r.ctx (BitVec.ofNat 32 r.launch) (BitVec.ofNat 32 r.k) fun r =>
      { r with phase := (r.phase + 1) % 256, arrived := 0 }) r r.phase
  else s

/-- The phase of a group's set. -/
def setPhase (s : State) (g : Group) : Nat :=
  match getSet s g.ctx g.launch g.set with
  | some r => r.phase
  | none => 0

/-- A group's position in its set. -/
def setPos (r : SetRec) (g : Group) : Nat := if r.size = 0 then 0 else g.gidx.toNat % r.size

/-- A group arrives (R356); a set of one group completes each phase at its own arrival (R355). -/
def arriveBar (s : State) (loc : Nat) : State :=
  match getGroup s loc with
  | none => s
  | some g =>
    match getSet s g.ctx g.launch g.set with
    | none => s
    | some r =>
      let s := putGroup s loc { g with arr := true, ph := r.phase }
      if r.barrier then
        let r' := { r with arrived := r.arrived ||| BitVec.ofNat 16 (2 ^ setPos r g) }
        completePhase (modSet s g.ctx g.launch g.set fun _ => r') r'
      else
        releaseBar (modSet s g.ctx g.launch g.set fun r => { r with phase := (r.phase + 1) % 256 }) r r.phase

/-- A group leaves its set's barrier at retirement (R356, R358). -/
def leaveBar (s : State) (g : Group) : State :=
  match getSet s g.ctx g.launch g.set with
  | none => s
  | some r =>
    let bit : LaneMask := BitVec.ofNat 16 (2 ^ setPos r g)
    let r' := { r with live := r.live &&& ~~~bit, arrived := r.arrived &&& ~~~bit }
    let s := modSet s g.ctx g.launch g.set fun _ => r'
    if r.barrier then completePhase s r' else s

/-- Whether the group has an access that has not performed or bound: an arrival is counted after every one (R357). -/
def groupBusy (g : Group) : Bool := !g.macc.isEmpty

/-- BAR (R360, R361) in modes 0 (arrive and wait), 1 (arrive) and 2 (wait). -/
def zBar (mode : Nat) : Meaning := consuming (pureM fun c =>
  if !onePath c then trapOf 2
  else if mode = 2 then (if c.g.arr then .ok [.wait (.bar c.g.ph)] 0 [] else .nothing)
  else if c.g.arr && setPhase c.s c.g == c.g.ph then .wait
  else if groupBusy c.g then .hold
  else .ok ([.barArrive] ++ (if mode = 0 then [.wait (.bar (setPhase c.s c.g))] else [])) 0 [])

/-! ## Byte-counting barriers (R362-R365) -/

/-- The fields of the word. -/
structure BarWord where
  v : Bool
  phase : Nat
  expect : Nat
  count : Nat
  deriving DecidableEq, Repr

def barWord (x : Nat) : BarWord := ⟨bitOf x 63, fld x 62 56, fld x 55 28, fld x 27 0⟩
def barWordNat (b : BarWord) : Nat := b01 b.v * 2 ^ 63 + b.phase * 2 ^ 56 + b.expect * 2 ^ 28 + b.count

/-- The carry loop of R363. -/
def barCarry (b : BarWord) : BarWord :=
  if b.expect = 0 then b
  else { b with phase := (b.phase + b.count / b.expect) % 128, count := b.count % b.expect }

/-- An arrival of `n` bytes; none if it is invalid. -/
def barArrival (b : BarWord) (n : Nat) : Option BarWord :=
  if !b.v || b.expect = 0 then none else some (barCarry { b with count := b.count + n })

/-- The word of a pond key. -/
def barAt (s : State) (key : Nat) : BarWord := barWord (readN s.pond key 8)

/-- The pond key of a set's word: the offset has been checked. -/
def barKey (s : State) (g : Group) (off : Nat) : Nat :=
  let p := pondOf s g
  pondKey p.1 (p.2.getD (off / 262144) 0) (off % 262144)

/-- Ends the `barb.wait`s of a path whose words have changed phase: s(d) takes PHASE, with an acquire (R365). -/
def wakeBarbPath (s : State) (loc p : Nat) : State :=
  match getGroup s loc with
  | none => s
  | some g =>
    (pathAt g p).waits.foldl (fun s w =>
      match w with
      | .barb off phase d =>
        let b := barAt s (barKey s g off)
        if b.phase = phase then s
        else acquireBy (.path loc p) 2 (modGroup s loc fun g =>
          endWaits (resultNow g p [.s d ⟨BitVec.ofNat 32 b.phase, false⟩]) p fun x => decide (x = w))
      | _ => s) s

/-- Every waiting path re-reads its word after a write to pond memory. -/
def wakeBarb (s : State) : State :=
  s.groups.foldl (fun s e => wakeBarbPath (wakeBarbPath s e.1 0) e.1 1) s

/-- The operand limits of a mode (R365). -/
def barbBad (mode x : Nat) : Bool :=
  match mode with
  | 0 | 1 => x == 0 || decide (x ≥ 2 ^ 28)
  | 2 => decide (x > 4096)
  | _ => decide (x ≥ 128)

/-- BARB (R364, R365). -/
def zBarb (mode : Nat) : Meaning := consuming (pureM fun c =>
  let o := sreg c.g c.pt c.a
  let y := zB c
  let x := y.val.toNat
  let off := o.val.toNat
  if barbBad mode x then trapOf 2
  else if o.poison || y.poison then trapOf 7
  else if fencedAt c.s c.g off || pathBusy c then .hold
  else
    let q := checkPond c.s c.g 8 0 off
    if q.cause = 4 then trapOf 4 off
    else if q.cause = 3 then trapOf 3 off
    else if q.cause = 2 then trapOf 6 off
    else
      let b := barAt c.s q.pa
      if (mode != 0 && !b.v) || (mode == 2 && b.expect == 0) then trapOf 2
      else .ok [.barbOp mode off x (c.d % 16)] 0 [])

/-- BARB at commit: the operation at the bank; the result lands 12 ck after issue (R365). -/
def barbCommit (s : State) (loc p mode off x d : Nat) : State :=
  match getGroup s loc with
  | none => s
  | some g =>
    let key := barKey s g off
    let b := barAt s key
    let store (b : BarWord) (s : State) : State := { s with pond := writeN s.pond key 8 (barWordNat b) }
    let answer (r : Nat) (s : State) : State := modGroup s loc fun g =>
      let pt := pathAt g p
      { g with inflight := g.inflight ++ [⟨pt.mask, pt.depth, 12, [.s d ⟨BitVec.ofNat 32 r, false⟩]⟩] }
    match mode with
    | 0 => wakeBarb (answer 0 (store ⟨true, 0, x, 0⟩ s))
    | 1 =>
      let b := barCarry { b with expect := x }
      wakeBarb (answer b.phase (store b s))
    | 2 =>
      match barArrival b x with
      | none => s
      | some b' => wakeBarb (answer b.phase (store b' s))
    | _ =>
      if b.phase ≠ x then acquireBy (.path loc p) 2 (answer b.phase s)
      else modPathAt s loc p fun pt => { pt with waits := pt.waits ++ [.barb off x d] }

/-! ## WAITEVT (R366) -/

/-- WAITEVT: its checks; a page fault parks. -/
def zWaitevt : Meaning := consuming fun c =>
  let cond := c.d / 8
  let d := c.d % 8
  if cond ≥ 4 || d = 7 then (c.s, trapOf 1)
  else
    let va := spair c.g c.pt c.a
    let b := sreg c.g c.pt c.b
    let limit := match c.w.imm with
      | some x => x.toNat
      | none => 0
    if va.2 || b.poison then (c.s, trapOf 7)
    else match checkGlobal c.s c.is.loc c.g.ctx { r := true } 4 0 va.1 with
      | (_, none) => (c.s, .hold)
      | (s, some q) =>
        match q.cause with
        | 0 => (s, .ok [.wait (.waitevt ⟨some q.pa, va.1, c.is.baddr, slotWord c, modWord c, b.val, limit, false, 0⟩)] 0 [⟨.sp, d, 1, true⟩])
        | 4 => (s, trapOf 4 va.1)
        | 3 => (s, trapOf 3 va.1)
        | 1 => (s, .park { source := 4, access := 1, va := va.1, slot := c.is.idx, level := q.level })
        | _ => (s, trapOf 6 va.1)

/-- The destination of a WAITEVT, from its slot's D field. -/
def evtDest (e : EvtWait) : Nat := fld e.word.toNat 14 12

/-- The first WAITEVT of a path. -/
def evtOf (pt : Path) : Option Wait := pt.waits.find? fun w =>
  match w with
  | .waitevt .. => true
  | _ => false

/-- A path has read a line at its home: it has seen there what others have written, and its cluster's copy of the line goes, so
that no later load reads an older value (R240, R246). -/
def readAtHome (s : State) (loc p a : Nat) : State :=
  dropCopy (takeIn (.path loc p) [lineOf a] s) (clusterOf (coreOf loc)) (lineOf a)

/-- Ends a path's WAITEVT with its result; with the condition held, in the value that it read at its word's home, it is an acquire
at its SCOPE. -/
def evtEnd (s : State) (loc p : Nat) (e : EvtWait) (held : Bool) : State :=
  let s := modGroup s loc fun g =>
    endWaits (resultNow g p [.sp (evtDest e) ⟨held, false⟩]) p fun x => decide (x = .waitevt e)
  if held then
    acquireBy (.path loc p) (evtScope e) (match e.pa with
      | some a => readAtHome s loc p a
      | none => s)
  else s

/-- The physical address of a WAITEVT's word: the one that it holds, or a new translation where an invalidation has taken
that; none while the page cannot be read (R373, R375, notes/assumptions/10.md). -/
def evtPlace (s : State) (loc : Nat) (g : Group) (e : EvtWait) : State × Option Nat :=
  match e.pa with
  | some a => (s, some a)
  | none =>
    match checkGlobal s loc g.ctx { r := true } 4 0 e.va with
    | (s, some q) => (s, if q.cause = 0 then some q.pa else none)
    | (s, none) => (s, none)

/-- A path's WAITEVT keeps the address that it reads. -/
def setPlace (g : Group) (p : Nat) (e : EvtWait) (a : Nat) : Group :=
  modPath g p fun pt => { pt with waits := pt.waits.map fun w => if w = .waitevt e then .waitevt { e with pa := some a } else w }

/-- Reads the word at its home and ends the wait if the condition holds, or held when a write was seen. No read is
made while a die link on its way has failed (R11, R408). -/
def evtTry (s : State) (loc p : Nat) : State :=
  match getGroup s loc with
  | none => s
  | some g =>
    let pt := pathAt g p
    match evtOf pt with
    | some (.waitevt e) =>
      if e.met then evtEnd s loc p e true
      else
        match evtPlace s loc g e with
        | (s, none) => s
        | (s, some a) =>
          let s := modGroup s loc fun g => setPlace g p e a
          if !evtReady g pt.mask a || !dieReach s (dieOf (coreOf loc)) (accessDie a) then s
          else
            let s := readAtHome s loc p a
            if evtHolds (evtCond e) (mem32 s.mem a) e.comparand then evtEnd s loc p { e with pa := some a } true else s
    | _ => s

/-- Ends a WAITEVT whose condition held at a write that was seen. -/
def evtMet (s : State) (loc p : Nat) : State :=
  match getGroup s loc with
  | none => s
  | some g =>
    match evtOf (pathAt g p) with
    | some (.waitevt e) => if e.met then evtEnd s loc p e true else s
    | _ => s

/-! ## Bank modes (R213-R216) -/

/-- A bank-mode fence commits: it takes the pending modes of the set, and the path waits for their banks (R215). -/
def bankFence (s : State) (loc p : Nat) : State :=
  match getGroup s loc with
  | none => s
  | some g =>
    let q := pondOf s g
    let keys := (q.2.map fun b => q.1 * 32 + b).filter fun k => (getBank s k).pending.isSome
    if keys.isEmpty then s
    else
      let s := keys.foldl (fun s k => putBank s k { getBank s k with fencing := (getBank s k).pending, pending := none }) s
      modPathAt s loc p fun pt => { pt with waits := pt.waits ++ [.fence keys] }

/-- Whether an access that has been issued to a bank has not performed: held entries of the groups on its cluster. -/
def bankBusy (s : State) (k : Nat) : Bool :=
  s.groups.any fun e => match e.2 with
    | some g => g.macc.any fun m => m.pond && m.lanes.any fun l => l.pa / 262144 == k
    | none => false

/-- Discards what a bank holds and gives it the mode that the fence took (R215). A mode that a later BANKMODE has made
pending stays pending. -/
def drainBank (s : State) (k : Nat) : State :=
  let b := getBank s k
  let s := { s with pond := mzero s.pond (k * 262144) 262144 }
  let s := putBank s k { b with mode := b.fencing.getD b.mode, fencing := none, fifo := [] }
  { s with copies := s.copies.filter fun c => c.cluster != k / 32 }

/-- A `barb.wait` on a word of a drained bank ends: s(d) keeps its value, and the path raises ILLEGAL_OPERAND on its next
bundle (R215). -/
def breakBarb (s : State) (keys : List Nat) (loc p : Nat) : State :=
  match getGroup s loc with
  | none => s
  | some g =>
    let hit : Wait → Bool
      | .barb off _ _ => keys.contains (barKey s g off / 262144)
      | _ => false
    if (pathAt g p).waits.any hit then
      modGroup s loc fun g => modPath (endWaits g p hit) p fun pt => { pt with doomed := some 2 }
    else s

/-- The bank-mode fence of a path completes, when no access issued before it remains (R215). -/
def fenceComplete (s : State) (loc p : Nat) : State :=
  match getGroup s loc with
  | none => s
  | some g =>
    let own := (pathAt g p).waits.flatMap fun w => match w with
      | .fence ks => ks
      | _ => []
    let keys := own ++ g.fences
    if keys.isEmpty || keys.any (bankBusy s) then s
    else
      let s := keys.foldl (fun s k => if (getBank s k).fencing.isSome then drainBank s k else s) s
      let s := s.groups.foldl (fun s e => breakBarb (breakBarb s keys e.1 0) keys e.1 1) s
      modGroup s loc fun g => endWaits { g with fences := [] } p fun w => match w with
        | .fence _ => true
        | _ => false

/-! ## WATCHDOG (R358, R383) -/

/-- A wait that WATCHDOG abandons. -/
def abandoned : Wait → Bool
  | .bar _ => true
  | .barb .. => true
  | _ => false

/-- Whether a path stands in a wait that WATCHDOG ends: a barrier's, also at JOIN, or that of a bundle which a counter, token,
barrier, FIFO or claim wait holds. -/
def watched (pt : Path) : Bool :=
  (decide (pt.st = .live ∨ pt.st = .join) && pt.waits.any abandoned)
  || (decide (pt.st = .live) && pt.heldAt.isSome && pt.awaits && pt.waits.isEmpty)

end Sys2Proof.Machine
end

