-- ==== Sys2Proof/Machine/Queue.lean ====
section
/-! DEFINITION. Queues, the frame of a packet, dependence counters and record queues (spec/05_queue.md R95-R116). -/

namespace Sys2Proof

/-- A doubleword of a packet. -/
def Packet.dw (k : Packet) (i : Nat) : Nat :=
  match i with
  | 0 => k.hdr.toNat
  | 1 => k.dw1.toNat
  | 2 => k.dw2.toNat
  | 3 => k.dw3.toNat
  | 4 => k.dw4.toNat
  | 5 => k.dw5.toNat
  | 6 => k.dw6.toNat
  | _ => k.dw7.toNat

/-- Software's TAG. -/
def Packet.tag (k : Packet) : Nat := k.hdr.toNat / 2 ^ 32

end Sys2Proof

namespace Sys2Proof.Machine

/-- The queue engine's translation unit (R371). -/
def queueUnit : TUnit := .engine 0

/-- A context whose queues are served (R99, R100): created, runnable or resident. -/
def ctxServed (s : State) (c : Nat) : Bool :=
  match (getCtx s c).st with
  | .created => true
  | .runnable => true
  | .resident => true
  | _ => false

/-- A bound device-fed queue of a context that is not drained (R108, R114). -/
def deviceQueue (s : State) (c q : Nat) : Bool :=
  let x := getQueue s q
  decide (q < 65536) && x.dev && x.ctx == c && x.st != .unbound && x.st != .drained

/-! ## Tail, head and completion (R97, R99) -/

/-- The idle or runnable state of a queue by its ring. -/
def ringState (x : Queue) : QueueSt := if x.head = x.tail && x.ind.isNone then .idle else .runnable

/-- A queue has become runnable: so does a created context (R89). -/
def noteRunnable (s : State) (q : Nat) : State :=
  let x := getQueue s q
  if x.st = .runnable && (getCtx s x.ctx).st = .created then modCtx s x.ctx fun y => { y with st := .runnable } else s

/-- The tail advances by `n`: an idle queue becomes runnable. -/
def advanceTail (s : State) (q n : Nat) : State :=
  noteRunnable (modQueue s q fun x =>
    let x := { x with tail := x.tail + BitVec.ofNat 32 n }
    if n = 0 then x
    else if x.st = .idle then { x with st := .runnable }
    else if x.st = .suspended && x.left = .idle then { x with left := .runnable }
    else x) q

/-- Room in a ring, in packets. -/
def ringRoom (x : Queue) : Nat := 2 ^ x.log - (x.tail - x.head).toNat

/-- Appends packets to a queue's ring (R107, R111, R114): the caller has checked the room. -/
def appendPackets (s : State) (q : Nat) (bytes : List Byte) : State :=
  let x := getQueue s q
  let n := bytes.length / 64
  let s := (List.range n).foldl (fun s i =>
    writeHome s (x.base + 64 * ((x.tail.toNat + i) % 2 ^ x.log)) ((bytes.drop (64 * i)).take 64)) s
  advanceTail s q n

/-- The queue keeps nothing of a packet in dispatch. -/
def noWork (x : Queue) : Queue := { x with on := none, pkt := none, draft := none, launch := none, waited := none }

/-- The TAG of the packet in dispatch. -/
def headTag (x : Queue) : Nat := (x.pkt.map Packet.tag).getD 0

/-- A packet has started (R99, R105): the ring or the INDIRECT array moves on; `pend` if it is not complete at once. -/
def packetStarted (s : State) (q : Nat) (pend : Bool) : State :=
  modQueue s q fun x =>
    let x := match x.ind with
      | some (a, left) => if left ≤ 1 then { x with ind := none, head := x.head + 1 } else { x with ind := some (a + 64, left - 1) }
      | none => { x with head := x.head + 1 }
    let x := { noWork x with out := x.out + b01 pend }
    { x with st := if x.birthing.isSome then .dispatching else ringState x }

/-- A started packet completes (R99, R103): a drained queue with none left becomes unbound. -/
def packetDone (s : State) (q : Nat) : State :=
  modQueue s q fun x =>
    let x := { x with out := x.out - 1 }
    if x.st = .drained && x.out = 0 then { x with st := .unbound } else x

/-- The queue waits in dispatch (R99). -/
def blockQueue (s : State) (q : Nat) (on : BlockedOn) : State :=
  modQueue s q fun x => { x with st := .blocked, on := some on }

/-- The ACCESS code of what an access needs (R376). -/
def accessCode (n : Need) : Nat := b01 n.r + 2 * b01 n.w

/-- A page fault of the engine blocks the queue and is reported (R104, R376). A kernel's births, whose queue may meanwhile
be faulted or drained, wait for the page in any case (R335). -/
def blockOnPage (s : State) (q va level access : Nat) : State :=
  let s := pageReport s (getQueue s q).ctx { source := 5, access := access, va := va, level := level }
  modQueue s q fun x => { x with st := if x.st = .dispatching then .blocked else x.st, on := some (.page va) }

/-- The physical address of the packet at HEAD, or of the INDIRECT array's next. -/
def packetAddr (x : Queue) : Nat :=
  match x.ind with
  | some (a, _) => a
  | none => x.base + 64 * (x.head.toNat % 2 ^ x.log)

/-- A packet fault (R99, R102): QFAULT, a queue record, HEAD unchanged. -/
def packetFault (s : State) (q code addr tag : Nat) : State :=
  let x := getQueue s q
  let s := putQueue s q { noWork x with st := .faulted, faultIdx := x.head, faultCode := code, faultAtHead := true }
  queueRecord s x.ctx (0x310 + code) 5 0 addr 0 0 0 q x.head.toNat tag

/-- A fault of a queue in which HEAD does not name the faulting packet (R97, R335). -/
def queueFault (s : State) (q code idx addr tag : Nat) : State :=
  let x := getQueue s q
  let s := putQueue s q { x with st := .faulted, faultIdx := BitVec.ofNat 32 idx, faultCode := code, faultAtHead := false, on := none }
  queueRecord s x.ctx (0x310 + code) 5 0 addr 0 0 0 q idx tag

/-! ## Commands (R96, R99) -/

/-- Sets a command's outcome. -/
def queueErr (s : State) (q err : Nat) : State := modQueue s q fun x => { x with err := err }

/-- The register's readable fields take the written value. -/
def qctlWrite (s : State) (q : Nat) (v : DWord) : State := modQueue s q fun x => { x with qctl := v &&& 0xFFF87000 }

/-- A command of QCTL (R96): the register's fields take the written value, then the command acts; one that fails changes
nothing but ERR. -/
def qctlCommand (s : State) (q : Nat) (v : DWord) (f : State → Nat → State) : State :=
  let t := f (qctlWrite s q v) q
  if (getQueue t q).err = 0 then t else queueErr s q (getQueue t q).err

/-- A context keeps no batch sent to a queue whose index a test picks. -/
def dropBatches (s : State) (c q : Nat) (f : Nat → Bool) : State :=
  modCtx s c fun y => { y with batches := y.batches.filter fun b => !(b.tq == q && f b.pkt) }

/-- BIND. DESIGN CHOICE (notes/assumptions/18.md): where several of its faults hold, R96 does not say which ERR is set; it is BADSTATE before
BADCTX before BADPRIO before FORMAT. -/
def queueBind (s : State) (q : Nat) : State :=
  let x := getQueue s q
  let v := x.qctl.toNat
  let c := fld v 31 20
  let y := getCtx s c
  let prio := fld v 14 12
  let log := fld x.qbase.toNat 4 0
  if x.st != .unbound && x.st != .drained then queueErr s q 1
  else if y.st = .free || y.st = .destroyed then queueErr s q 3
  else if prio > y.priomax then queueErr s q 2
  else if log < 4 || log > 20 then queueErr s q 4
  else putQueue (dropBatches s x.ctx q fun _ => true) q
    { noWork x with st := .idle, err := 0, head := 0, tail := 0, base := fld x.qbase.toNat 51 12 * 4096, log := log, ctx := c
                    dev := bitOf v 19, prio := prio, ind := none, birthing := none, capture := none, faultAtHead := false }

/-- UNBIND. -/
def queueUnbind (s : State) (q : Nat) : State :=
  let x := getQueue s q
  match x.st with
  | .unbound | .dispatching | .drained => queueErr s q 1
  | _ => putQueue s q { noWork x with st := if x.out = 0 then .unbound else .drained, err := 0 }

/-- SUSPEND. -/
def queueSuspend (s : State) (q : Nat) : State :=
  let x := getQueue s q
  match x.st with
  | .idle | .runnable | .dispatching | .blocked =>
    putQueue s q { x with st := .suspended, left := x.st, bySoftware := true, err := 0 }
  | _ => queueErr s q 1

/-- RESUME. -/
def queueResume (s : State) (q : Nat) : State :=
  let x := getQueue s q
  if x.st != .suspended || !ctxServed s x.ctx then queueErr s q 1
  else noteRunnable (putQueue s q { x with st := x.left, bySoftware := false, err := 0 }) q

/-- RESET. DESIGN CHOICE (notes/assumptions/18.md): R99 says idle or runnable; a queue that faulted while sets of its last kernel were still
to be born goes back to dispatching, as R122 has it until the last birth. -/
def queueReset (s : State) (q : Nat) : State :=
  let x := getQueue s q
  if x.st != .faulted then queueErr s q 1
  else
    let s := if x.faultAtHead then dropBatches s x.ctx q (· == x.head.toNat) else s
    let x := if x.faultAtHead then { x with head := x.head + 1, ind := none } else x
    noteRunnable (putQueue s q { x with st := if x.birthing.isSome then .dispatching else ringState x, err := 0,
                                        faultAtHead := false }) q

/-- The context returns to runnable: the engine resumes what it suspended itself (R99). -/
def resumeQueues (s : State) (c : Nat) : State :=
  { s with queues := s.queues.map fun e =>
      let x := e.2
      if x.ctx = c && x.st = .suspended && !x.bySoftware then (e.1, { x with st := x.left }) else e }

/-- A doorbell write (R97). -/
def doorbell (s : State) (q : Nat) (tail : Word) : State :=
  let x := getQueue s q
  if x.dev || x.st = .unbound || x.st = .drained || tail = x.tail then s
  else if (tail - x.tail).toNat ≤ 2 ^ x.log && (tail - x.head).toNat ≤ 2 ^ x.log then
    advanceTail s q (tail - x.tail).toNat
  else queueFault s q 4 tail.toNat 0 0

/-- A read of QFAULT: it clears (R95). -/
def qfaultRead (s : State) (q : Nat) : State :=
  let x := getQueue s q
  { putQueue s q { x with faultIdx := 0, faultCode := 0 } with
    hostData := BitVec.ofNat 64 (x.faultIdx.toNat * 2 ^ 32 + x.faultCode) }

/-! ## The frame of a packet (R98-R102) -/

/-- The packet of 64 bytes. -/
def packetOfBytes (b : List Byte) : Packet :=
  let d := bytesDw b
  ⟨d.getD 0 0, d.getD 1 0, d.getD 2 0, d.getD 3 0, d.getD 4 0, d.getD 5 0, d.getD 6 0, d.getD 7 0⟩

/-- A reserved field is nonzero: doublewords with the bits that may be set (R102). -/
def reservedBad (k : Packet) (l : List (Nat × Nat)) : Bool :=
  fld k.hdr.toNat 31 17 != 0
  || (List.range 7).any fun i =>
    let ok := ((l.find? fun e => e.1 == i + 1).map (·.2)).getD 0
    k.dw (i + 1) &&& (2 ^ 64 - 1 - ok) != 0

/-- All 64 bits may be set. -/
def anyBits : Nat := 2 ^ 64 - 1

/-- A virtual address has 57 bits; one above them is a value out of range (R102, notes/assumptions/9.md). -/
def vaBits : Nat := 2 ^ 57 - 1

/-- Runs a packet of the queue whose turn it is (R99, R102, R103): a wrong VER, then FORMAT of its own fields; then, under
ORD, it waits until every earlier packet has completed, and starts with an acquire at system scope. Any other state of the
queue is no dispatch (R8). -/
def onPacket (s : State) (ordAlways : Bool) (formatBad : Packet → Bool) (f : State → Nat → Packet → State) : State :=
  match s.args.data with
  | .packet k =>
    let q := s.args.n
    let x := getQueue s q
    let ready := match x.st with
      | .runnable => true
      | .dispatching => x.birthing.isNone
      | .blocked => true
      | _ => false
    if !ready || !ctxServed s x.ctx then s
    else
      let ord := ordAlways || bitOf k.hdr.toNat 16
      let s := putQueue s q { x with st := .dispatching, on := none, pkt := some k }
      if fld k.hdr.toNat 15 8 ≠ 1 then packetFault s q 2 (packetAddr x) k.tag
      else if formatBad k then packetFault s q 3 (packetAddr x) k.tag
      else if ord && x.out != 0 then blockQueue s q .order
      else f (if ord then acquireBy .queue 5 s else s) q k
  | _ => s

/-- A context range lies below 2^57. -/
def inVirt (va n : Nat) : Bool := decide (va + n ≤ 2 ^ 57)

/-- The engine's unit starts no translation of the ASN now (R373): the packet stays in dispatch and is taken up again. -/
def retryPacket (s : State) (q : Nat) : State := modQueue s q fun x => { x with st := .dispatching, on := none }

/-- Reads bytes for a packet, and goes on with them; a page fault blocks the queue, any other faults it with PROTECT. -/
def engineRead (s : State) (q : Nat) (k : Packet) (va n : Nat) (f : State → List Byte → State) : State :=
  let c := (getQueue s q).ctx
  if !inVirt va n then packetFault s q 6 va k.tag
  else match readVirt s queueUnit c va n with
    | (s, .ok b) => f s b
    | (s, .error (0, _, _)) => retryPacket s q
    | (s, .error (1, level, at_)) => blockOnPage s q at_ level 1
    | (s, .error (_, _, at_)) => packetFault s q 6 at_ k.tag

/-- Translates a range for writing, for a packet. -/
def engineWalk (s : State) (q : Nat) (k : Packet) (va n : Nat) (need : Need) (f : State → Nat → State) : State :=
  let c := (getQueue s q).ctx
  if !inVirt va n then packetFault s q 6 va k.tag
  else match translateNow s queueUnit c va need with
    | (s, .ok pa) => f s pa
    | (s, .hold) => retryPacket s q
    | (s, .fault 1 level) => blockOnPage s q va level (accessCode need)
    | (s, .fault _ _) => packetFault s q 6 va k.tag

/-! ## Dependence counters (R106-R108) -/

/-- Adds to what the engine owes. -/
def owe (s : State) (w : Owed) (page : Option Nat) : State := { s with owed := s.owed ++ [⟨w, page⟩] }

/-- The record of a successor that is lost (R108). -/
def successorLost (s : State) (c ctr tq : Nat) : State := queueRecord s c 0x316 5 0 ctr 0 0 0 tq 0 0

/-- One decrement at the home of COUNT (R107, R108), whose physical address is known, for a packet of a queue (R387). -/
def decrementAt (s : State) (c ctr pa q : Nat) (pkt tag : Word) : State :=
  let n := readN s.mem pa 8
  if n = 0 then queueRecord s c 0x300 5 0 ctr 0 0 0 q pkt.toNat tag.toNat
  else
    let s := writeHome s pa (natLe (n - 1) 8)
    if n = 1 then
      owe s (.successor c ctr (readN s.mem (pa + 8) 8) (readN s.mem (pa + 16) 2) (fld (readN s.mem (pa + 16) 8) 27 16)) none
    else s

/-- The room of a queue's ring for a source that begins to append: none while a successor, of which some packets stand in the ring,
is appended further as HEAD advances, since no packet of another source comes between (R107). -/
def ringSpace (s : State) (q : Nat) : Nat :=
  if s.owed.any fun o => match o.what with
    | .packets _ _ tq _ begun => begun && tq == q
    | _ => false
  then 0 else ringRoom (getQueue s q)

/-- Takes up something owed (R107, R108, R111, R128): none while it must go on waiting, for room in its queue or for a unit
that starts no translation (R373). A successor is read when COUNT has reached 0, whatever its queue's room. -/
def tryOwed (s : State) (o : Owed) : Option State :=
  match o with
  | .successor c ctr succ tq n =>
    if !deviceQueue s c tq || !inVirt succ (64 * n) then some (successorLost s c ctr tq)
    else match readVirt s queueUnit c succ (64 * n) with
      | (s, .ok b) => some (owe s (.packets c ctr tq b false) none)
      | (_, .error (0, _, _)) => none
      | (s, .error (1, level, at_)) => some (owe (pageReport s c { source := 5, access := 1, va := at_, level := level }) o (some at_))
      | (s, .error _) => some (successorLost s c ctr tq)
  | .packets c ctr tq b begun =>
    if !deviceQueue s c tq then some (successorLost s c ctr tq)
    else
      let room := if begun then ringRoom (getQueue s tq) else ringSpace s tq
      if b.length / 64 ≤ room then some (appendPackets s tq b)
      else if room = 0 then none
      else some (owe (appendPackets s tq (b.take (64 * room))) (.packets c ctr tq (b.drop (64 * room)) true) none)
  | .batch c cons b =>
    if !deviceQueue s c b.tq then some s
    else if ringSpace s b.tq < 1 then none
    else
      let idx := (getQueue s b.tq).tail.toNat
      some (modCtx (appendPackets s b.tq (packFields [(8, 0x0101), (8, cons), (48, 0)])) c fun x =>
        { x with batches := x.batches ++ [{ b with pkt := idx }] })
  | .decrement c ctr q pkt tag =>
    let need : Need := { r := true, w := true }
    match translateNow s queueUnit c ctr need with
    | (s, .ok pa) => some (packetDone (decrementAt s c ctr pa q pkt tag) q)
    | (_, .hold) => none
    | (s, .fault 1 level) =>
      some (owe (pageReport s c { source := 5, access := accessCode need, va := ctr, level := level }) o (some ctr))
    | (s, .fault _ _) => some (packetDone (queueRecord s c 0x316 5 0 ctr 0 0 0 q pkt.toNat tag.toNat) q)

/-- The DONE decrement of an ended kernel (R107, R128). -/
def decrement (s : State) (c ctr q : Nat) (pkt tag : Word) : State :=
  (tryOwed s (.decrement c ctr q pkt tag)).getD (owe s (.decrement c ctr q pkt tag) none)

/-- Takes up the first thing owed that waits for nothing. -/
def serveOwed (s : State) : State :=
  ((s.owed.filter fun o => o.page.isNone).findSome? fun o => tryOwed { s with owed := s.owed.erase o } o.what).getD s

/-! ## The packets of this chapter (R102-R106) -/

/-- NOP. -/
def packetNop (s : State) : State := onPacket s false (fun k => reservedBad k []) fun s q _ => packetStarted s q false

/-- WAITMEM. -/
def packetWaitmem (s : State) : State :=
  onPacket s false (fun k => reservedBad k [(1, vaBits), (2, anyBits), (3, anyBits), (4, 7)] || k.dw 1 % 8 != 0 || k.dw 4 ≥ 4)
    fun s q k => engineWalk s q k (k.dw 1) 8 { r := true } fun s pa =>
      if memCond (k.dw 4) (readN s.mem pa 8 &&& k.dw 3) (k.dw 2) then packetStarted (acquireBy .queue 5 s) q false
      else blockQueue s q (.waitmem (some pa) (k.dw 1) (k.dw 4) (k.dw 2) (k.dw 3) false)

/-- A blocked WAITMEM tests again, with an acquire at system scope (R104). Where an invalidation has taken its address it
translates again: on a page fault it reports and the packet is retried, and any other fault faults the queue. -/
def waitmemAgain (s : State) (q : Nat) : State :=
  let x := getQueue s q
  match x.st, x.on with
  | .blocked, some (.waitmem pa va cond value mask met) =>
    let test (s : State) (a : Nat) : State :=
      if memCond cond (readN s.mem a 8 &&& mask) value then packetStarted (acquireBy .queue 5 s) q false
      else modQueue s q fun x => { x with on := some (.waitmem (some a) va cond value mask met) }
    if met then packetStarted (acquireBy .queue 5 s) q false
    else match pa with
      | some a => test s a
      | none =>
        match translateNow s queueUnit x.ctx va { r := true } with
        | (s, .ok a) => test s a
        | (s, .hold) => s
        | (s, .fault 1 level) => blockOnPage s q va level 1
        | (s, .fault _ _) => packetFault s q 6 va (headTag x)
  | _, _ => s

/-- SIGNAL. -/
def packetSignal (s : State) : State :=
  onPacket s true (fun k => reservedBad k [(1, vaBits), (2, anyBits), (3, 0x103)] || fld (k.dw 3) 1 0 == 3
      || k.dw 1 % (if fld (k.dw 3) 1 0 = 2 then 32 else 8) != 0)
    fun s q k =>
      let opc := fld (k.dw 3) 1 0
      engineWalk s q k (k.dw 1) 8 (if opc = 0 then { w := true } else { r := true, w := true }) fun s pa =>
        let c := (getQueue s q).ctx
        let s := match opc with
          | 0 => writeHome s pa (natLe (k.dw 2) 8)
          | 1 => writeHome s pa (natLe ((readN s.mem pa 8 + k.dw 2) % 2 ^ 64) 8)
          | _ => decrementAt s c (k.dw 1) pa q (getQueue s q).head (BitVec.ofNat 32 k.tag)
        let s := if bitOf (k.dw 3) 8 then { s with boot := { s.boot with irqs := s.boot.irqs + 1 } } else s
        packetStarted s q false

/-- DEPEND. -/
def packetDepend (s : State) : State :=
  onPacket s false (fun k => reservedBad k [(1, vaBits), (2, 2 ^ 63 - 1), (3, vaBits), (4, 0x0FFFFFFF)] || k.dw 1 % 32 != 0
      || k.dw 2 == 0 || k.dw 3 % 64 != 0 || fld (k.dw 4) 27 16 == 0)
    fun s q k =>
      if !deviceQueue s (getQueue s q).ctx (fld (k.dw 4) 15 0) then packetFault s q 6 (k.dw 1) k.tag
      else engineWalk s q k (k.dw 1) 32 { w := true } fun s pa =>
        packetStarted (writeHome s pa (packFields [(8, k.dw 2), (8, k.dw 3), (8, k.dw 4), (8, 0)])) q false

/-- INDIRECT: its packets take its place (R105). -/
def packetIndirect (s : State) : State :=
  onPacket s false (fun k => reservedBad k [(1, vaBits), (2, 0xFFFFFFFF)] || k.dw 1 % 64 != 0 || k.dw 2 == 0 || k.dw 2 > 65536)
    fun s q k =>
      if (getQueue s q).ind.isSome then packetFault s q 5 (packetAddr (getQueue s q)) k.tag
      else modQueue s q fun x => { noWork x with ind := some (k.dw 1, k.dw 2), st := .runnable }

/-! ## Record queues (R109-R112) -/

/-- The capacity of a record queue. -/
def rqCap (r : RecQueue) : Nat := if r.rsize = 0 then 0 else r.psize / r.rsize
/-- The address of record `i`, whose index is modulo 2^32 (R109, R115). -/
def recordAddr (r : RecQueue) (i : Nat) : Nat := r.pool + (i % 2 ^ 32 % rqCap r) * r.rsize
/-- Free(rq). -/
def rqFree (r : RecQueue) : Nat := rqCap r - (r.next - r.oldest)
/-- Whether a context's record queue holds records that are reserved or undelivered: a batch whose packet waits for room
has not been delivered (R109). -/
def rqBusy (s : State) (c : Nat) (r : RecQueue) : Bool :=
  decide (r.deliver < r.next) || s.owed.any fun o => match o.what with
    | .batch d _ b => d == c && b.gen == r.gen
    | _ => false

/-- Moves `oldest` past freed records, keeping index order (R110). The fuel is the number of freed records. -/
def settleFreed (r : RecQueue) : Nat → RecQueue
  | 0 => r
  | fuel + 1 =>
    if r.freedRecs.contains r.oldest then
      settleFreed { r with oldest := r.oldest + 1, freedRecs := r.freedRecs.erase r.oldest } fuel
    else r

/-- Frees records. -/
def freeRecords (r : RecQueue) (l : List Nat) : RecQueue :=
  let r := { r with freedRecs := r.freedRecs ++ l, out := r.out.filter fun i => !l.contains i }
  settleFreed r r.freedRecs.length

/-- How many records from `i` on are committed or void, without a gap. The fuel bounds the run. -/
def deliverableRun (r : RecQueue) (i : Nat) : Nat → Nat
  | 0 => 0
  | fuel + 1 => if r.committed.contains i || r.void.contains i then deliverableRun r (i + 1) fuel + 1 else 0

/-- The run of deliverable records. -/
def rqRun (r : RecQueue) : Nat := deliverableRun r r.deliver (r.next - r.deliver)

/-- Stores a record queue's state; a record that Coop frees wakes the paths that wait for its space (R352). -/
def putRq (s : State) (c rq : Nat) (old r : RecQueue) : State :=
  let s := modCtx s c fun x => { x with rqs := tput none x.rqs rq (some r) }
  if rq = 1023 && decide (old.oldest + old.freedRecs.length < r.oldest + r.freedRecs.length) then
    wakeCtx s c fun p => decide (p = .coop)
  else s

/-- Delivers a batch of `n` records (R111): the consumer launch is owed; void ones are freed; a batch of void records sends
nothing. -/
def sendBatch (s : State) (c rq : Nat) (r : RecQueue) (n : Nat) : State :=
  let ids := (List.range n).map (r.deliver + ·)
  let voids := ids.filter fun i => r.void.contains i
  let live := ids.filter fun i => !r.void.contains i
  let b : RecBatch := { tq := r.tq, rq := rq, gen := r.gen, first := r.deliver
                        addrs := ids.map fun i => if r.void.contains i then none else some (recordAddr r i) }
  let s := putRq s c rq r (freeRecords { r with
    deliver := r.deliver + n, committed := r.committed.filter fun i => !ids.contains i
    void := r.void.filter fun i => !ids.contains i, out := r.out ++ live } voids)
  if live.isEmpty then s else owe s (.batch c r.cons b) none

/-- Delivers every full batch, and under a flush the last short one (R111). The fuel bounds the batches. -/
def deliverBatches (s : State) (c rq : Nat) : Nat → State
  | 0 => s
  | fuel + 1 =>
    match tget none (getCtx s c).rqs rq with
    | none => s
    | some r =>
      let run := rqRun r
      if r.batch ≤ run then deliverBatches (sendBatch s c rq r r.batch) c rq fuel
      else if r.flushing && r.deliver + run == r.next then
        sendBatch s c rq { r with flushing := false } run
      else s

/-- Passes over void records that reach delivery to LFILL (R111). -/
def passVoids (r : RecQueue) : Nat → RecQueue
  | 0 => r
  | fuel + 1 =>
    if r.void.contains r.deliver then
      passVoids (freeRecords { r with deliver := r.deliver + 1, void := r.void.erase r.deliver } [r.deliver]) fuel
    else r

/-- Delivery after a commit, a void or a flush. -/
def deliver (s : State) (c rq : Nat) : State :=
  match tget none (getCtx s c).rqs rq with
  | none => s
  | some r =>
    if r.cons = 0 then putRq s c rq r (passVoids { r with flushing := false } r.void.length)
    else deliverBatches s c rq (r.next - r.deliver + 1)

/-- Rewrites a configured record queue. -/
def modRq (s : State) (c rq : Nat) (f : RecQueue → RecQueue) : State :=
  match tget none (getCtx s c).rqs rq with
  | none => s
  | some r => putRq s c rq r (f r)

/-- Frees records of a record queue, if it still stands as the configuration that delivered them (R110). -/
def freeDelivered (s : State) (c rq gen : Nat) (l : List Nat) : State :=
  modRq s c rq fun r => if r.gen = gen then freeRecords r l else r

/-- Reservations of a group become void when it retires (R112). -/
def voidReservations (s : State) (c : Nat) (launch gidx : Word) : State :=
  (getCtx s c).rqs.foldl (fun s e =>
    match e.2 with
    | none => s
    | some r =>
      let mine := r.res.filter fun v => v.2.2.1 == launch && v.2.2.2 == gidx
      if mine.isEmpty then s
      else deliver (modRq s c e.1 fun r => { r with
        res := r.res.filter fun v => !(v.2.2.1 == launch && v.2.2.2 == gidx)
        void := r.void ++ mine.flatMap fun v => (List.range v.2.1).map (v.1 + ·) }) c e.1) s

/-- RQCONF configure. -/
def packetRqConfigure (s : State) : State :=
  onPacket s false (fun k =>
      let cap := if fld (k.dw 4) 15 0 = 0 then 0 else k.dw 3 / fld (k.dw 4) 15 0
      reservedBad k [(1, 0x303FF), (2, vaBits), (3, anyBits), (4, 0xFFFF0000FFFF), (5, vaBits), (6, 0xFFFF)]
      || fld (k.dw 1) 17 16 != 0 || k.dw 2 % 64 != 0 || fld (k.dw 4) 15 0 < 16 || fld (k.dw 4) 15 0 > 4096
      || fld (k.dw 4) 15 0 % 16 != 0 || fld (k.dw 4) 47 32 == 0 || k.dw 5 % 128 != 0 || cap == 0 || cap > 2 ^ 20)
    fun s q k =>
      let c := (getQueue s q).ctx
      let rq := fld (k.dw 1) 9 0
      match tget none (getCtx s c).rqs rq with
      | some r => if rqBusy s c r then packetFault s q 7 (packetAddr (getQueue s q)) k.tag else go s q c rq k
      | none => go s q c rq k
where
  go (s : State) (q c rq : Nat) (k : Packet) : State :=
    let r : RecQueue := { gen := (getCtx s c).rqConfs, pool := k.dw 2, psize := k.dw 3, rsize := fld (k.dw 4) 15 0, batch := fld (k.dw 4) 47 32, cons := k.dw 5,
                          tq := fld (k.dw 6) 15 0, next := 0, deliver := 0, oldest := 0, res := [], committed := [], void := [],
                          out := [], freedRecs := [], flushing := false }
    packetStarted (modCtx s c fun x => { x with rqs := tput none x.rqs rq (some r), rqConfs := x.rqConfs + 1 }) q false

/-- RQCONF flush. -/
def packetRqFlush (s : State) : State :=
  onPacket s false (fun k => reservedBad k [(1, 0x303FF)] || fld (k.dw 1) 17 16 != 1) fun s q k =>
    let c := (getQueue s q).ctx
    let rq := fld (k.dw 1) 9 0
    packetStarted (deliver (modRq s c rq fun r => { r with flushing := true }) c rq) q false

/-- RQCONF tear down. -/
def packetRqTearDown (s : State) : State :=
  onPacket s false (fun k => reservedBad k [(1, 0x303FF)] || fld (k.dw 1) 17 16 != 2) fun s q k =>
    let c := (getQueue s q).ctx
    let rq := fld (k.dw 1) 9 0
    match tget none (getCtx s c).rqs rq with
    | some r =>
      if rqBusy s c r then packetFault s q 7 (packetAddr (getQueue s q)) k.tag
      else packetStarted (modCtx s c fun x => { x with rqs := tput none x.rqs rq none }) q false
    | none => packetStarted s q false

/-! ## QPUT, RRES and RCOMMIT (R113-R116) -/

/-- The sixteen words of a QPUT. -/
def uWords (c : SC) (n : Nat) : List PWord := (List.range n).map fun j => sreg c.g c.pt (c.a + j)

/-- QPUT: its checks; it waits until the stores before it have performed, which it releases. -/
def yQput : Meaning := consuming (pureM fun c =>
  let q := sreg c.g c.pt c.b
  let ws := uWords c 16
  if q.val.toNat ≥ 65536 || c.a > 48 then trapOf 2
  else if q.poison || ws.any (·.poison) then trapOf 7
  else if groupBusy c.g then .hold
  else .ok [.qput c.d q.val.toNat (ws.map (·.val))] 0 [])

/-- QPUT after commit (R114). -/
def qputCommit (s : State) (loc p baddr spd q : Nat) (ws : List Word) : State :=
  match getGroup s loc with
  | none => s
  | some g =>
    let answer (ok : Bool) (s : State) : State := modGroup s loc fun g => resultNow g p [.sp spd ⟨ok, false⟩]
    if deviceQueue s g.ctx q then
      if ringSpace s q = 0 then answer false s
      else answer true (appendPackets s q (ws.flatMap fun w => natLe w.toNat 4))
    else
      answer false (queueRecord s g.ctx 0x301 4 0 0 baddr g.launch.toNat g.gidx.toNat q 0 0)

/-- The fields of s(a) of RRES and RCOMMIT; none where they are illegal (R115, R116). -/
def rqOperand (c : SC) (w : Word) : Option (Nat × Nat) :=
  let rq := fld w.toNat 9 0
  let n := fld w.toNat 31 16
  if fld w.toNat 15 10 != 0 || n == 0 || n > 4096 then none
  else match tget none (getCtx c.s c.g.ctx).rqs rq with
    | none => none
    | some _ => some (rq, n)

/-- RRES: its checks. -/
def yRres : Meaning := consuming (pureM fun c =>
  let a := sreg c.g c.pt c.a
  match rqOperand c a.val with
  | none => trapOf 2
  | some (rq, n) => if a.poison then trapOf 7 else .ok [.rres c.d c.b rq n] 0 [])

/-- RRES after commit (R115). -/
def rresCommit (s : State) (loc p d spb rq n : Nat) : State :=
  match getGroup s loc with
  | none => s
  | some g =>
    let answer (x : Nat) (ok : Bool) (s : State) : State := modGroup s loc fun g =>
      resultNow g p [.s d ⟨BitVec.ofNat 32 x, false⟩, .sp spb ⟨ok, false⟩]
    match tget none (getCtx s g.ctx).rqs rq with
    | none => answer 0 false s
    | some r =>
      if n ≤ rqFree r && r.res.length < 1024 then
        answer r.next true (modRq s g.ctx rq fun r => { r with next := r.next + n, res := r.res ++ [(r.next, n, g.launch, g.gidx)] })
      else answer 0 false s

/-- RCOMMIT: its checks; it waits until the stores before it have performed, which it releases. -/
def yRcommit : Meaning := consuming (pureM fun c =>
  let a := sreg c.g c.pt c.a
  let b := sreg c.g c.pt c.b
  match rqOperand c a.val with
  | none => trapOf 2
  | some (rq, n) =>
    if a.poison || b.poison then trapOf 7
    else if groupBusy c.g then .hold
    else .ok [.rcommit rq n b.val] 0 [])

/-- RCOMMIT after commit (R116). -/
def rcommitCommit (s : State) (loc baddr rq n : Nat) (first : Word) : State :=
  match getGroup s loc with
  | none => s
  | some g =>
    let bad (s : State) : State := queueRecord s g.ctx 0x302 4 0 0 baddr g.launch.toNat g.gidx.toNat 0 0 0
    match tget none (getCtx s g.ctx).rqs rq with
    | none => bad s
    | some r =>
      match r.res.find? fun v => BitVec.ofNat 32 v.1 == first && v.2.1 == n with
      | none => bad s
      | some v => deliver (modRq s g.ctx rq fun r =>
          { r with res := r.res.erase v, committed := r.committed ++ (List.range n).map (v.1 + ·) }) g.ctx rq

/-- LFILL at commit (R164): the finished lanes take deliverable records, ascending, with an acquire at module scope of what
their RCOMMITs released (R111). -/
def lfillCommit (s : State) (loc p d pa rq : Nat) : State :=
  match getGroup s loc with
  | none => s
  | some g =>
    match tget none (getCtx s g.ctx).rqs rq with
    | none => s
    | some r =>
      let pt := pathAt g p
      let fs := lanesOf (pt.mask &&& (preg g pa).val)
      let ids := (List.range (rqRun r)).map (r.deliver + ·)
      let qs := (ids.filter fun i => !r.void.contains i).take fs.length
      match qs.getLast? with
      | none => s
      | some last =>
        let passed := ids.filter fun i => decide (i ≤ last) && r.void.contains i
        let pairs := fs.zip qs
        let olds := pairs.filterMap fun e => (g.held.find? fun h => h.1 == e.1).map (·.2)
        let taken := freeRecords { r with deliver := last + 1, committed := r.committed.filter fun i => decide (i > last),
                                          void := r.void.filter fun i => !passed.contains i, out := r.out ++ qs } passed
        let s := acquireBy (.path loc p) 4 (putRq s g.ctx rq r (passVoids taken taken.void.length))
        let s := olds.foldl (fun s h => freeDelivered s g.ctx h.rq h.gen [h.idx]) s
        let g := { g with held := pairs.foldl (fun (t : Tbl HeldRec) (e : Nat × Nat) => tput ⟨0xFFFF, 0, 0⟩ t e.1 ⟨rq, e.2, r.gen⟩) g.held }
        modGroup s loc fun h => resultNow { h with held := g.held } p (pairs.flatMap fun e =>
          let a := recordAddr r e.2
          [.v d e.1 ⟨BitVec.ofNat 32 a, false⟩, .v (d + 1) e.1 ⟨BitVec.ofNat 32 (a / 2 ^ 32), false⟩,
           .p pa e.1 ⟨false, false⟩])

end Sys2Proof.Machine
end

