-- ==== Sys2Proof/Machine/Kernel.lean ====
section
/-! DEFINITION. Kernels: the launch descriptor and its checks, placement, birth and the kernel's end (spec/06_kernel.md
R117-R128; spec/14_graphics.md R335). -/

namespace Sys2Proof.Machine

/-! ## The launch descriptor (R117, R118, R124) -/

/-- Launch-descriptor fields out of range or reserved bits set; `groups` is COUNT for a BLOCKLAUNCH. -/
def descBad (d : List DWord) (groups : Nat) : Bool :=
  let w (i : Nat) : Nat := dwAt d i
  let pondb := fld (w 2) 39 16
  let blocks := fld (w 2) 15 12
  let setsize := fld (w 2) 4 0
  fld (w 0) 63 57 != 0 || fld (w 0) 1 0 != 0 || fld (w 1) 63 33 != 0 || groups == 0 || decide (groups > 2 ^ 32)
  || fld (w 2) 63 40 != 0 || decide (pondb > 8388608) || blocks == 0 || decide (blocks > 8) || fld (w 2) 11 10 != 0
  || decide (fld (w 2) 9 8 ≥ 2) || fld (w 2) 7 6 != 0 || setsize == 0 || decide (setsize > 16)
  || fld (w 3) 63 57 != 0 || fld (w 3) 2 0 != 0 || (fld (w 3) 56 0 != 0 && !bitOf (w 2) 5)
  || fld (w 6) 63 8 != 0 || (List.range 8).any (fun i => w (7 + i) != 0) || fld (w 15) 63 8 != 0

/-- The kernel that a descriptor describes. -/
def kernelOf (d : List DWord) (c q : Nat) (pkt tag : Word) (desc groups done : Nat) (arg : DWord) (list : Option Nat) : Kernel :=
  let w (i : Nat) : Nat := dwAt d i
  { ctx := c, launch := 0, queue := q, pkt := pkt, tag := tag, desc := desc, entry := fld (w 0) 56 0, groups := groups
    pondb := fld (w 2) 39 16, blocks := fld (w 2) 15 12, orph := fld (w 2) 9 8, cores := bitOf (w 2) 5
    setsize := fld (w 2) 4 0, circ := [], key := BitVec.ofNat 128 (w 4 + 2 ^ 64 * w 5), diemask := BitVec.ofNat 8 (w 6)
    done := done, arg := arg, list := list, st := .admitted, nextSet := 0, live := 0, prio := 0, capture := none
    rqBatch := none, reserved := [] }

/-- A circuit of a table's entry. -/
def circuitOf (e : DWord) : Circuit := ⟨toSigned 16 (fld e.toNat 39 24), fld e.toNat 23 18, fld e.toNat 17 12⟩

/-- Entries of a circuit table with a format fault: reserved bits, DELTA 0, slots past the revolution, overlap. -/
def circuitsBad (l : List DWord) : Bool :=
  let cs := l.map circuitOf
  (l.any fun e => fld e.toNat 63 40 != 0 || fld e.toNat 11 0 != 0)
  || (cs.any fun c => decide (c.delta = 0) || decide (c.slot + c.nslot > 63))
  || ((List.range cs.length).any fun i => (List.range i).any fun j =>
      match cs[i]?, cs[j]? with
      | some a, some b => decide (a.slot ≤ b.slot + b.nslot) && decide (b.slot ≤ a.slot + a.nslot)
      | _, _ => false)

/-- ENTRY and DONE are walked (R102, R118): ENTRY for protection only, DONE for W; then the launch waits for admission. -/
def launchWalks (s : State) (q : Nat) (k : Packet) (kn : Kernel) : State :=
  let ready (s : State) : State := modQueue s q fun x =>
    { x with launch := some { kn with prio := x.prio, capture := x.capture }, draft := none }
  let afterEntry (s : State) : State :=
    if kn.done = 0 then ready s else engineWalk s q k kn.done 8 { w := true } fun s _ => ready s
  match translate s queueUnit kn.ctx kn.entry { x := true } with
  | (s, .ok _) => afterEntry s
  | (s, .fault 1 _) => afterEntry s
  | (s, .hold) => retryPacket s q
  | (s, .fault _ _) => packetFault s q 6 kn.entry k.tag

/-- The circuit table is read, its header and as many entries as that counts, and then checked (R102, R118, R124). -/
def launchCircuits (s : State) (q : Nat) (k : Packet) (kn : Kernel) (circ : Nat) : State :=
  if circ = 0 then launchWalks s q k kn
  else engineRead s q k circ 8 fun s h =>
    let w := leNat h
    engineRead s q k (circ + 8) (8 * min (fld w 7 0) 64) fun s b =>
      let l := bytesDw b
      if fld w 15 8 ≠ 1 then packetFault s q 2 circ k.tag
      else if fld w 63 16 ≠ 0 || fld w 7 0 = 0 || fld w 7 0 > 64 || circuitsBad l then packetFault s q 3 circ k.tag
      else
        let kn := { kn with circ := l.map circuitOf }
        launchWalks (modQueue s q fun x => { x with draft := some (kn, 0) }) q k kn

/-- The record-queue batch whose consumer packet stands at a packet index of a queue (R111). -/
def batchAt (s : State) (c q idx : Nat) : Option RecBatch :=
  (getCtx s c).batches.find? fun b => b.tq == q && b.pkt == idx

/-- LAUNCH and BLOCKLAUNCH in dispatch: the descriptor is read once and checked, and a packet taken up again after a page
fault goes on from what has been read (R117, R118). -/
def launchDesc (s : State) (q : Nat) (k : Packet) (list : Option (Nat × Nat)) : State :=
  if (getQueue s q).launch.isSome then s
  else match (getQueue s q).draft with
  | some (kn, circ) => launchCircuits s q k kn circ
  | none => engineRead s q k (k.dw 1) 128 fun s b =>
    let x := getQueue s q
    let d := bytesDw b
    let bat := match x.ind with
      | some _ => none
      | none => batchAt s x.ctx q x.head.toNat
    let groups := match list, bat with
      | some (_, n), _ => n
      | none, some b => (b.addrs.length + 15) / 16
      | none, none => fld (dwAt d 1) 32 0
    if fld (dwAt d 15) 7 0 ≠ 1 then packetFault s q 2 (k.dw 1) k.tag
    else if descBad d groups then packetFault s q 3 (k.dw 1) k.tag
    else
      let kn := kernelOf d x.ctx q x.head (BitVec.ofNat 32 k.tag) (k.dw 1) groups (k.dw 2) (BitVec.ofNat 64 (k.dw 3)) (list.map (·.1))
      let kn := { kn with rqBatch := bat }
      let circ := fld (dwAt d 3) 56 0
      launchCircuits (modQueue s q fun x => { x with draft := some (kn, circ) }) q k kn circ

/-- LAUNCH. -/
def packetLaunch (s : State) : State :=
  onPacket s false (fun k => reservedBad k [(1, vaBits), (2, vaBits), (3, anyBits)] || k.dw 1 % 128 != 0 || k.dw 2 % 32 != 0)
    fun s q k => launchDesc s q k none

/-- BLOCKLAUNCH. -/
def packetBlocklaunch (s : State) : State :=
  onPacket s false (fun k => reservedBad k [(1, vaBits), (2, vaBits), (3, anyBits), (4, vaBits), (5, 0xFFFFFFFF)]
      || k.dw 1 % 128 != 0 || k.dw 2 % 32 != 0 || k.dw 4 % 8 != 0 || k.dw 5 == 0)
    fun s q k => launchDesc s q k (some (k.dw 4, k.dw 5))

/-! ## Capacity (R15, R120) -/

/-- What a cluster has left: group slots and blocks of its sixteen sequencers, pond banks, set barriers. -/
structure Room where
  seqs : List (Nat × Nat)
  banks : Nat
  barriers : Nat
  deriving DecidableEq, Repr

/-- Whether a pond bank is withdrawn (R381). -/
def bankWithdrawn (s : State) (c b : Nat) : Bool := (tget 0 s.repair.pondw c).getLsbD b

/-- The free pond banks of a cluster. -/
def freeBanks (s : State) (c : Nat) : List Nat :=
  (List.range 32).filter fun b => !bankWithdrawn s c b && (getBank s (c * 32 + b)).owner.isNone

/-- The room of a cluster now. A sequencer on which a claim waits takes no new group (R142). -/
def roomNow (s : State) (c : Nat) : Room :=
  { seqs := (List.range 16).map fun i =>
      let q := 16 * c + i
      if !(getSeq s q).claims.isEmpty then (0, 0) else (64 - (seqGroups s q).length, freeBlocks s q)
    banks := (freeBanks s c).length
    barriers := 64 - (s.sets.filter fun r => r.cluster == c && r.barrier).length }

/-- The room of a cluster of the empty device, without its withdrawn banks (R123). -/
def roomEmpty (s : State) (c : Nat) : Room :=
  { seqs := List.replicate 16 (64, 256), banks := ((List.range 32).filter fun b => !bankWithdrawn s c b).length, barriers := 64 }

/-- The sequencer of a cluster with the most free blocks that can take a group of `b` blocks: the lowest among equals (R121). -/
def bestSeq (l : List (Nat × Nat)) (b : Nat) : Option Nat :=
  ((List.range l.length).foldl (fun o i =>
    let x := l.getD i (0, 0)
    if x.1 = 0 || x.2 < b then o
    else match o with
      | some (j, m) => if x.2 > m then some (i, x.2) else some (j, m)
      | none => some (i, x.2)) (none : Option (Nat × Nat))).map (·.1)

/-- Places `z` groups of `b` blocks one after another: the sequencers in order, and what is left. -/
def placeGroups (l : List (Nat × Nat)) (b : Nat) : Nat → Option (List Nat × List (Nat × Nat))
  | 0 => some ([], l)
  | z + 1 =>
    match bestSeq l b with
    | none => none
    | some i =>
      match placeGroups (l.set i ((l.getD i (0, 0)).1 - 1, (l.getD i (0, 0)).2 - b)) b z with
      | some (t, r) => some (i :: t, r)
      | none => none

/-- Pond banks of a kernel's set. -/
def bankCount (k : Kernel) : Nat := (k.pondb + 262143) / 262144
/-- How many sets a kernel has, and how many groups set `i` holds (R119). -/
def setCount (k : Kernel) : Nat := (k.groups + k.setsize - 1) / k.setsize
def setGroupCount (k : Kernel) (i : Nat) : Nat := min k.setsize (k.groups - i * k.setsize)

/-- Places a set of `z` groups of a kernel in a cluster's room. -/
def placeSet (r : Room) (k : Kernel) (z : Nat) : Option (List Nat × Room) :=
  if r.banks < bankCount k || (decide (z ≥ 2) && r.barriers == 0) then none
  else match placeGroups r.seqs k.blocks z with
    | none => none
    | some (l, q) => some (l, { seqs := q, banks := r.banks - bankCount k, barriers := r.barriers - b01 (z ≥ 2) })

/-- The clusters that a kernel may use, in the order of search: after the cluster that received the previous set, wrapping
(R121). -/
def clusterOrder (s : State) (k : Kernel) : List Nat :=
  ((List.range 64).map fun i => (s.lastCluster + 1 + i) % 64).filter fun c => k.diemask == 0 || k.diemask.getLsbD (c / 8)

/-- The slots of the revolution that set `i` of a kernel holds: outgoing and incoming (R124). -/
def circuitSlots (k : Kernel) (i : Nat) (out : Bool) : Nat :=
  k.circ.foldl (fun m e =>
    let j : Int := if out then (i : Int) + e.delta else (i : Int) - e.delta
    if 0 ≤ j ∧ j < setCount k then m ||| ((2 ^ (e.nslot + 1) - 1) * 2 ^ e.slot) else m) 0

/-- The core of group 0 of a set that is to be born on the sequencers of a cluster (R124). -/
def coreOfPlan (p : Nat × List Nat) : Nat := 4 * p.1 + p.2.headD 0 / 4

/-- Whether a core's ports are free of other kernels' circuits in the slots of set `i` (R120). -/
def portsFree (s : State) (k : Kernel) (i core : Nat) : Bool :=
  k.circ.isEmpty || s.kernels.all fun o =>
    o.circ.isEmpty ||
    (let mine := (s.sets.filterMap fun r => if r.ctx = o.ctx && r.launch == o.launch.toNat && r.core0 == core then some r.k else none)
        ++ ((List.range o.reserved.length).filter fun j => decide (j ≥ o.nextSet) && coreOfPlan (o.reserved.getD j (0, [])) == core)
     mine.all fun j => circuitSlots k i true &&& circuitSlots o j true == 0 && circuitSlots k i false &&& circuitSlots o j false == 0)

/-- A room without what the groups of a set on its sequencers take. -/
def takeRoom (r : Room) (k : Kernel) (qs : List Nat) : Room :=
  { seqs := qs.foldl (fun l i => l.set i ((l.getD i (0, 0)).1 - 1, (l.getD i (0, 0)).2 - k.blocks)) r.seqs
    banks := r.banks - bankCount k, barriers := r.barriers - b01 (qs.length ≥ 2) }

/-- Whether a room still holds a set on the sequencers that were reserved for it. -/
def fitsRoom (r : Room) (k : Kernel) (qs : List Nat) : Bool :=
  decide (bankCount k ≤ r.banks) && (qs.length < 2 || r.barriers != 0)
  && qs.eraseDups.all fun i => decide (qs.count i ≤ (r.seqs.getD i (0, 0)).1) && decide (qs.count i * k.blocks ≤ (r.seqs.getD i (0, 0)).2)

/-- Takes out of a room what admitted launches have reserved in a cluster for sets not yet born (R123, R127). -/
def lessReserved (s : State) (c : Nat) (r : Room) : Room :=
  s.kernels.foldl (fun r o => (o.reserved.drop o.nextSet).foldl (fun r p => if p.1 = c then takeRoom r o p.2 else r) r) r

/-- The first cluster that fits set `i` of a kernel, given each cluster's room, the cores that hold group 0 of its other
sets, and the order of search: the cluster, the groups' sequencers and the room left. -/
def findCluster (s : State) (k : Kernel) (i : Nat) (rooms : Nat → Room) (used : List Nat) : List Nat → Option (Nat × List Nat × Room)
  | [] => none
  | c :: t =>
    match placeSet (rooms c) k (setGroupCount k i) with
    | some (qs, r) =>
      let core := coreOfPlan (c, qs)
      if !k.circ.isEmpty && (used.contains core || !portsFree s k i core) then findCluster s k i rooms used t
      else some (c, qs, r)
    | none => findCluster s k i rooms used t

/-- The rooms with one cluster's replaced. -/
def setRoom (rooms : Nat → Room) (c : Nat) (r : Room) : Nat → Room := fun d => if d = c then r else rooms d

/-- Plans the sets of a kernel from set `i` on: cluster and sequencers of each, or none if they do not all fit. -/
def planSets (s : State) (k : Kernel) (rooms : Nat → Room) (used : List Nat) (order : List Nat) (i : Nat) :
    Nat → Option (List (Nat × List Nat))
  | 0 => some []
  | n + 1 =>
    match findCluster s k i rooms used order with
    | none => none
    | some (c, qs, r) =>
      let order' := ((List.range 64).map fun j => (c + 1 + j) % 64).filter fun d => order.contains d
      match planSets s k (setRoom rooms c r) (coreOfPlan (c, qs) :: used) order' (i + 1) n with
      | some l => some ((c, qs) :: l)
      | none => none

/-- How many groups of a context are resident or reserved (R84). -/
def residentCount (s : State) (c : Nat) : Nat :=
  (ctxGroups s c).length + (s.kernels.map fun k =>
    if k.ctx = c then ((List.range k.reserved.length).map fun i => if i ≥ k.nextSet then setGroupCount k i else 0).sum else 0).sum

/-- The empty-device check of R122 and R123 fails. -/
def launchTooLarge (s : State) (k : Kernel) : Bool :=
  let maxres := (getCtx s k.ctx).maxres
  if k.cores then
    decide (k.groups > maxres)
    || (planSets { s with kernels := [], sets := [] } k (roomEmpty s) [] (clusterOrder s k) 0 (setCount k)).isNone
  else
    let z := min k.setsize k.groups
    decide (z > maxres) || (clusterOrder s k).all fun c => (placeSet (roomEmpty s c) k z).isNone

/-- The dies of a kernel. -/
def dieMaskOf (k : Kernel) : BitVec 8 := if k.diemask = 0 then 0xFF else k.diemask

/-- A co-resident launch of equal or higher PRIO waits for dies of this one (R123). Of two of equal PRIO that wait, the
one that began to wait first holds the other (notes/assumptions/13.md). -/
def heldByCores (s : State) (q : Nat) (k : Kernel) : Bool :=
  s.queues.any fun e => e.1 != q && match e.2.launch, e.2.st, e.2.waited with
    | some o, .blocked, some t => o.cores && (dieMaskOf o &&& dieMaskOf k) != 0
        && (decide (o.prio > k.prio) || (o.prio == k.prio && match (getQueue s q).waited with
          | some u => decide (t < u)
          | none => true))
    | _, _, _ => false

/-- The packet of the batch that a launch consumes is passed: the context keeps it no longer (R111). -/
def takeBatch (s : State) (k : Kernel) : State :=
  match k.rqBatch with
  | some b => dropBatches s k.ctx b.tq (· == b.pkt)
  | none => s

/-- The records of the batch that a kernel consumed are freed (R110). -/
def freeBatch (s : State) (k : Kernel) : State :=
  match k.rqBatch with
  | none => s
  | some b => freeDelivered s k.ctx b.rq b.gen ((b.addrs.zipIdx).filterMap fun e => e.1.map fun _ => b.first + e.2)

/-! ## Admission (R122, R123, R127) -/

/-- KERNEL_ADMIT: the checked launch of a queue is admitted, faults with LAUNCH_TOO_LARGE, or waits. -/
def admitKernel (s : State) (q : Nat) : State :=
  let x := getQueue s q
  let mine := match x.st with
    | .dispatching | .blocked => ctxServed s x.ctx
    | _ => false
  match x.launch with
  | none => s
  | some k =>
    if !mine then s
    else if launchTooLarge s k then
      let s := queueRecord s k.ctx 0x304 5 0 k.desc 0 0 0 q k.pkt.toNat k.tag.toNat
      let s := packetStarted (takeBatch (freeBatch s k) k) q true
      if k.done = 0 then packetDone s q else decrement s k.ctx k.done q k.pkt k.tag
    else
      let rooms (c : Nat) : Room := lessReserved s c (roomNow s c)
      let plan := planSets s k rooms [] (clusterOrder s k) 0 (if k.cores then setCount k else 1)
      let room := decide (residentCount s k.ctx + (if k.cores then k.groups else setGroupCount k 0) ≤ (getCtx s k.ctx).maxres)
      match plan, room && !heldByCores s q k with
      | some res, true =>
        let y := getCtx s k.ctx
        let k := { k with launch := y.nextLaunch, reserved := res }
        let s := putCtx s k.ctx { y with nextLaunch := y.nextLaunch + 1, kept := [] }
        let s := { s with kernels := s.kernels ++ [k] }
        packetStarted (modQueue (takeBatch s k) q fun x => { x with birthing := some k.launch }) q true
      | _, _ => modQueue (blockQueue s q .capacity) q fun x => { x with waited := some (x.waited.getD s.epoch) }

/-! ## Birth (R119-R121) -/

/-- A group at birth. -/
def newGroup (k : Kernel) (set g : Nat) (mask : LaneMask) (v : Tbl PWord) : Group :=
  { ctx := k.ctx, launch := k.launch, gidx := BitVec.ofNat 32 g, set := BitVec.ofNat 32 set, blocks := k.blocks, key := k.key
    v := v
    s := tput {} (tput {} [] 0 ⟨BitVec.ofNat 32 k.arg.toNat, false⟩) 1 ⟨BitVec.ofNat 32 (k.arg.toNat / 2 ^ 32), false⟩
    p0 := { st := .live, mask := mask, pc := k.entry } }

/-- The initial mask and v0, v1 of group `g` of a record consumer (R111). -/
def consumerBirth (k : Kernel) (g : Nat) : LaneMask × Tbl PWord :=
  match k.rqBatch with
  | none => (0xFFFF, [])
  | some b =>
    let at_ (l : Nat) : Option Nat := (b.addrs[16 * g + l]?).join
    (maskOf fun l => (at_ l).isSome, (List.range 16).foldl (fun t l => match at_ l with
      | some a => tput {} (tput {} t l ⟨BitVec.ofNat 32 a, false⟩) (16 + l) ⟨BitVec.ofNat 32 (a / 2 ^ 32), false⟩
      | none => t) [])

/-- The initial masks of the groups of a set, block-list entries read in order (R335): or the fault of a read. -/
def birthMasks (s : State) (k : Kernel) : List Nat → State × Except (Nat × Nat × Nat) (List (LaneMask × Tbl PWord))
  | [] => (s, .ok [])
  | g :: t =>
    match k.list with
    | none =>
      match birthMasks s k t with
      | (s, .ok l) => (s, .ok (consumerBirth k g :: l))
      | r => r
    | some list =>
      let va := list + 8 * g
      if !inVirt va 8 then (s, .error (4, 0, va))
      else match readVirt s queueUnit k.ctx va 8 with
        | (s, .error e) => (s, .error e)
        | (s, .ok b) =>
          match birthMasks s k t with
          | (s, .ok l) =>
            let m : LaneMask := BitVec.ofNat 16 (fld (leNat b) 63 48)
            (s, .ok ((if m = 0 then 0xFFFF else m, []) :: l))
          | r => r

/-- The lowest free group slot of a sequencer. -/
def freeSlot (s : State) (seq : Nat) : Nat :=
  ((List.range 64).find? fun i => (getGroup s (seq * 64 + i)).isNone).getD 0

/-- Places the groups of a set on the sequencers chosen for them, in order: each birth is an acquire at system scope
(R250). -/
def birthGroups (s : State) (k : Kernel) (set c : Nat) : List (Nat × Nat × LaneMask × Tbl PWord) → State
  | [] => s
  | (g, i, m, v) :: t =>
    let seq := 16 * c + i
    let loc := seq * 64 + freeSlot s seq
    birthGroups (acquireBy (.path loc 0) 5 (putGroup s loc (newGroup k set g m v))) k set c t

/-- A context with something placed is resident (R89). -/
def nowResident (s : State) (c : Nat) : State :=
  modCtx s c fun x => if x.st = .created || x.st = .runnable then { x with st := .resident } else x

/-- A set's pond banks enter scratchpad mode, which zeroes them (R120, R211). -/
def takeBanks (s : State) (c : Nat) (owner : Nat × Nat × Nat) : List Nat → State
  | [] => s
  | b :: t =>
    let key := c * 32 + b
    let s := putBank s key { mode := 1, owner := some owner }
    takeBanks { s with pond := mzero s.pond (key * 262144) 262144 } c owner t

/-- The queue goes on after a kernel's last set is born (R122). -/
def birthsDone (s : State) (q : Nat) : State :=
  noteRunnable (modQueue s q fun x =>
    let x := { x with birthing := none }
    match x.st with
    | .dispatching => { x with st := ringState x }
    | .blocked => { x with st := ringState x, on := none }
    | .suspended => if x.left = .dispatching || x.left = .blocked then { x with left := ringState x, on := none } else x
    | _ => x) q

/-- Births the next set of a kernel on a cluster with the sequencers of its groups; `later` are the places reserved for the sets
after it. -/
def birthSet (s : State) (k : Kernel) (c : Nat) (seqs : List Nat) (later : List (Nat × List Nat)) (masks : List (LaneMask × Tbl PWord)) : State :=
  let i := k.nextSet
  let z := seqs.length
  let banks := (freeBanks s c).take (bankCount k)
  let s := takeBanks s c (k.ctx, k.launch.toNat, i) banks
  let s := birthGroups s k i c (((List.range z).map fun j => i * k.setsize + j).zip (seqs.zip masks))
  let r : SetRec := { ctx := k.ctx, launch := k.launch.toNat, k := i, cluster := c, banks := banks
                      core0 := 4 * c + seqs.headD 0 / 4, barrier := decide (z ≥ 2), live := maskOf fun l => decide (l < z)
                      arrived := 0, phase := 0, size := k.setsize }
  let last := decide (i + 1 = setCount k)
  let s := { s with sets := s.sets ++ [r], lastCluster := c }
  let s := modKernel s k.ctx k.launch fun k =>
    { k with nextSet := i + 1, live := k.live + z, reserved := k.reserved.take (i + 1) ++ later, st := if last then .running else .dispatching }
  nowResident (if last then birthsDone s k.queue else s) k.ctx

/-- Whether a kernel's births wait: for a page of the block list, or for RESUME of its queue (R99, R104, R335). -/
def listParked (s : State) (k : Kernel) : Bool :=
  let x := getQueue s k.queue
  decide (x.birthing = some k.launch) && (x.on.isSome || decide (x.st = .suspended))

/-- A kernel whose sets may be born: admitted or dispatching, its context served, its births not held (R99, R127, R335). -/
def birthDue (s : State) (k : Kernel) : Bool :=
  !listParked s k && (match k.st with
    | .admitted | .dispatching => true
    | _ => false) && ctxServed s k.ctx && decide (k.nextSet < setCount k)

/-- The cores that hold group 0 of a kernel's sets (R120). -/
def ownCores (s : State) (k : Kernel) : List Nat :=
  s.sets.filterMap fun r => if r.ctx = k.ctx && r.launch == k.launch.toNat then some r.core0 else none

/-- The places of the sets for which a kernel's admission has reserved capacity and that are not yet born, searched for from
after the cluster that received the last set of any kernel (R121, R123): those where they all fit, else those of the
admission. -/
def birthPlan (s : State) (k : Kernel) : List (Nat × List Nat) :=
  let kept := k.reserved.drop k.nextSet
  let t : State := { s with kernels := s.kernels.filter fun o => !(o.ctx == k.ctx && o.launch == k.launch) }
  match planSets t k (fun c => lessReserved t c (roomNow t c)) (ownCores s k) (clusterOrder s k) k.nextSet kept.length with
  | some l => l
  | none => match kept with
    | p :: _ => if fitsRoom (roomNow s p.1) k p.2 then kept else []
    | [] => []

/-- Where the next set of a kernel goes, with its sequencers and the places of the later sets that stay reserved: into capacity
that its admission reserved, or where it first fits (R121, R122). -/
def birthPlace (s : State) (k : Kernel) : Option (Nat × List Nat × List (Nat × List Nat)) :=
  if k.nextSet < k.reserved.length then
    match birthPlan s k with
    | p :: later => some (p.1, p.2, later)
    | [] => none
  else if residentCount s k.ctx + setGroupCount k k.nextSet > (getCtx s k.ctx).maxres then none
  else (findCluster s k k.nextSet (fun c => lessReserved s c (roomNow s c)) (ownCores s k) (clusterOrder s k)).map fun p => (p.1, p.2.1, [])

/-! ## The end of a kernel (R127, R128) -/

/-- Whether a kernel's group created a child that has not ended (R130). -/
def kernelChildren (s : State) (c : Nat) (launch : Word) : List (Nat × Child) :=
  (ctxChildren s c).filter fun e => e.2.launch == launch && e.2.onOrphan.isNone && liveChild e.2

/-- A kernel leaves: its packet completes and its DONE counter is decremented once; the batch that it consumed is freed
(R110, R128). -/
def finishKernel (s : State) (k : Kernel) : State :=
  let s := { s with kernels := s.kernels.filter fun o => !(o.ctx == k.ctx && o.launch == k.launch) }
  let s := freeBatch s k
  let s := if k.st = .cancelling then
      modCtx s k.ctx fun x => if x.kcancel = k.launch then { x with kbusy := false, kerr := 0 } else x
    else s
  if k.done = 0 then packetDone s k.queue else decrement s k.ctx k.done k.queue k.pkt k.tag

/-- Takes the events of one kernel (R127): its last group has retired, its last adopted child has ended, or everything of a
cancelled or faulted kernel has ended. -/
def kernelCheck (s : State) (c : Nat) (launch : Word) : State :=
  match getKernel s c launch with
  | none => s
  | some k =>
    let adopted := (ctxChildren s c).any fun e => e.2.launch == launch && e.2.adopted && e.2.onOrphan.isNone && liveChild e.2
    match k.st with
    | .running =>
      if k.live ≠ 0 then s
      else if adopted then modKernel s c launch fun k => { k with st := .draining }
      else finishKernel s k
    | .draining => if adopted then s else finishKernel s k
    | .faulting | .cancelling => if k.live = 0 && (kernelChildren s c launch).isEmpty then finishKernel s k else s
    | _ => s

/-- A resident context with no group and no child left is runnable again (R89). -/
def residentCheck (s : State) (c : Nat) : State :=
  if (getCtx s c).st = .resident && (ctxGroups s c).isEmpty && !((ctxChildren s c).any fun e => liveChild e.2) then
    modCtx s c fun x => { x with st := .runnable }
  else s

end Sys2Proof.Machine
end

