-- ==== Sys2Proof/Machine/MemModel.lean ====
section
/-! DEFINITION. How committed memory accesses take effect: when a load binds and a write performs, the clusters' copies of
lines, atomics at their home, FENCE and DRAIN (spec/10_memory_model.md R232-R248; spec/09_memory_instr.md R204-R231). -/

namespace Sys2Proof.Machine

/-! ## Order (R205, R212, R240-R243) -/

/-- Whether two entries name a byte in common. -/
def entriesOverlap (a b : MemEntry) : Bool :=
  a.pond == b.pond && a.lanes.any fun x => b.lanes.any fun y => decide (x.pa < y.pa + b.size) && decide (y.pa < x.pa + a.size)

/-- Whether an entry writes. -/
def entryWrites (e : MemEntry) : Bool :=
  match e.kind with
  | .write => true
  | .atomic .. => true
  | _ => false

/-- Whether the addresses of an entry's lanes have been translated (R253, R395). -/
def entryPlaced (e : MemEntry) : Bool := e.lanes.all (·.placed)

/-- Whether an earlier entry of the same path holds a load back from binding. -/
def holdsLoad (e b : MemEntry) : Bool :=
  meets b.mask e.mask && (entryOrders b || (b.pond && e.pond) || entriesOverlap b e || !entryPlaced b)

/-- Whether entry `i` of a group may bind or perform now. -/
def entryReady (g : Group) (i : Nat) : Bool :=
  match g.macc[i]? with
  | none => false
  | some e =>
    let before := g.macc.take i
    entryPlaced e && match e.kind with
    | .load .. => !before.any (holdsLoad e)
    | .drain => !before.any fun b => meets b.mask e.mask || entryWrites b
    | _ => !before.any fun b => meets b.mask e.mask

/-! ## Copies (R233) -/

/-- The ck of a cluster's four cores. -/
def clusterCks (s : State) (cl : Nat) : List Nat := (List.range 4).map fun i => (getCore s (4 * cl + i)).ck

/-- Whether a copy may still be used: on no core of its cluster have 16,384 ck passed since it was filled. -/
def copyAlive (s : State) (c : LineCopy) : Bool :=
  (List.zipWith (fun now filled => decide ((now + 2 ^ 64 - filled) % 2 ^ 64 < 16384)) (clusterCks s c.cluster) c.filled).all id

/-- Whether a cluster has a bank in cache mode: only such a bank holds copies (R233). -/
def hasCache (s : State) (cl : Nat) : Bool := (List.range 32).any fun b => (getBank s (32 * cl + b)).mode == 0

/-- A cluster's copy of a line, while it may still be used. -/
def copyOf (s : State) (cl line : Nat) : Option LineCopy :=
  s.copies.find? fun c => c.cluster == cl && c.line == line && copyAlive s c

/-- A path's cluster fills its copy of a line from the home slice. -/
def fillCopy (s : State) (a : Agent) (cl line : Nat) : State :=
  let s := takeIn a [line] (dropCopy s cl line)
  { s with copies := ⟨cl, line, s.mem.filter (fun b => b.1 / 1024 == line), clusterCks s cl, []⟩ :: s.copies }

/-- Fills the copy of a line unless the path's cluster holds one, or has no bank that could. -/
def wantCopy (s : State) (a : Agent) (cl line : Nat) : State :=
  if hasCache s cl && (copyOf s cl line).isNone then fillCopy s a cl line else s

/-- The lines of an entry. -/
def entryLines (e : MemEntry) : List Nat := (e.lanes.map fun l => lineOf l.pa).eraseDups

/-- The path of a group, as an agent, that holds a lane of a mask. -/
def agentOf (g : Group) (loc : Nat) (mask : LaneMask) : Agent := .path loc (if meets g.p0.mask mask then 0 else 1)

/-- A path reads lines for a bind: with `copy`, its cluster fills the copies that it lacks; without, the path reads at the
home, has seen there what others have written, and its cluster drops its copies (R240). -/
def bindLines (s : State) (a : Agent) (cl : Nat) (copy : Bool) (lines : List Nat) : State :=
  if copy then lines.foldl (fun s l => wantCopy s a cl l) s else lines.foldl (fun s l => dropCopy s cl l) (takeIn a lines s)

/-- Bytes that a path binds: those of its cluster's copy, if it may use one and there is one, else those at the home. -/
def boundBytes (s : State) (cl : Nat) (copy : Bool) (pa n : Nat) : List Byte :=
  match if copy then copyOf s cl (lineOf pa) else none with
  | some c => mread c.bytes pa n
  | none => readHome s pa n

/-- Whether a CACHE code allocates in the cluster's banks (R206). -/
def allocates (cache : Nat) : Bool := cache == 0 || cache == 3

/-- CLUSTER_COPY_EXPIRE: copies that have stood 16,384 ck are dropped. -/
def expireCopies (s : State) : State :=
  { s with copies := s.copies.filter (copyAlive s) }

/-! ## Loads -/

/-- The position of the lowest bit of a byte mask. -/
def lowBit (m : Byte) : Nat := ((List.range 8).find? fun i => m.getLsbD i).getD 0

/-- The value of an element in the bytes of a lane's access. -/
def elementValue (a : LaneAccess) (bs : List Byte) : Nat :=
  if a.mask = 0xFF then leNat bs else ((BitVec.ofNat 8 (leNat bs) &&& a.mask) >>> lowBit a.mask).toNat

/-- The registers that a load writes in a lane (R203), but those that a later slot of its bundle has written (R65). -/
def loadWrites (width : Nat) (signed : Bool) (d : Nat) (a : LaneAccess) (bs : List Byte) : List RegWrite :=
  let x := elementValue a bs
  let lo := if signed then ofSigned 32 (toSigned width x) else x
  let w (j : Nat) (v : Nat) : List RegWrite := if bitOf a.drop j then [] else [.v (d + j) a.lane ⟨BitVec.ofNat 32 v, false⟩]
  w 0 lo ++ (if width = 64 then w 1 (x / 2 ^ 32) else [])

/-- The bytes of a lane's access. -/
def laneBytes (s : State) (cl : Nat) (copy : Bool) (e : MemEntry) (a : LaneAccess) : List Byte :=
  if e.pond then mread s.pond a.pa e.size else boundBytes s cl copy a.pa e.size

/-- A WAITEVT keeps its place in the order of issue when entry `i` leaves. -/
def waitAfter (i : Nat) (w : Wait) : Wait :=
  match w with
  | .waitevt e => .waitevt { e with after := if i < e.after then e.after - 1 else e.after }
  | w => w

/-- Entry `i` of a group leaves. -/
def dropEntry (g : Group) (i : Nat) : Group :=
  { g with
    macc := g.macc.eraseIdx i
    p0 := { g.p0 with waits := g.p0.waits.map (waitAfter i) }
    p1 := { g.p1 with waits := g.p1.waits.map (waitAfter i) } }

/-- MEMORY_RESULT_LAND: load `i` of a group binds, at its home or, for a plain load that allocates in the cluster, at the
cluster's copy of its line, and its result lands (R231, R240, R242, R244). -/
def bindLoad (s : State) (loc i : Nat) (viaCopy : Bool) : State :=
  match getGroup s loc with
  | none => s
  | some g =>
    match g.macc[i]? with
    | none => s
    | some e =>
      match e.kind with
      | .load width signed d =>
        if !entryReady g i then s
        else
          let cl := clusterOf (coreOf loc)
          let me := agentOf g loc e.mask
          let copy := viaCopy && e.cached && hasCache s cl
          let s := if e.pond then s else bindLines s me cl copy (entryLines e)
          let ws := e.lanes.flatMap fun a => loadWrites width signed d a (laneBytes s cl copy e a)
          let s := putGroup s loc (landWrites (dropEntry g i) e.mask 0 ws)
          if e.scope = 0 then s else acquireBy me e.scope s
      | _ => s

/-! ## Writes and atomics (R204, R223, R225, R226, R353) -/

/-- Bytes laid over bytes under a mask. -/
def mergeBytes (mask : Byte) (old new : List Byte) : List Byte :=
  List.zipWith (fun o n => (o &&& ~~~mask) ||| (n &&& mask)) old new

/-- One lane's write takes effect. -/
def writeLane (me : Agent) (s : State) (e : MemEntry) (a : LaneAccess) : State :=
  if e.pond then { s with pond := mwrite s.pond a.pa (mergeBytes a.mask (mread s.pond a.pa a.data.length) a.data) }
  else writeBy me s a.pa (mergeBytes a.mask (readHome s a.pa a.data.length) a.data)

/-- Every park of the device on a child word is woken, with an acquire at module scope (R353). -/
def wakeBuild (s : State) (pa : Nat) : State :=
  let on : Park → Bool
    | .build q => q == pa
    | _ => false
  s.groups.foldl (fun s e => match e.2 with
    | none => s
    | some g =>
      if g.p0.parks.any on || g.p1.parks.any on then
        acquireBy (.path e.1 0) 4 (putGroup s e.1 { g with p0 := wakePath on g.p0, p1 := wakePath on g.p1 })
      else s) s

/-- One lane's atomic at its home: the old value, and what is stored. -/
def atomicLane (me : Agent) (s : State) (op : AtomOp) (size d : Nat) (a : LaneAccess) : State × List RegWrite :=
  let old := leNat (readHome s a.pa size)
  let x := leNat (a.data.take size)
  let y := leNat (a.data.drop size)
  let w (j v : Nat) : List RegWrite := if bitOf a.drop j then [] else [.v (d + j) a.lane ⟨BitVec.ofNat 32 v, false⟩]
  match op with
  | .publish =>
    let p (ok : Bool) : List RegWrite := if bitOf a.drop 0 then [] else [.p d a.lane ⟨ok, false⟩]
    if old % 16 = 7 then (wakeBuild (writeBy me s a.pa a.data) a.pa, p true) else (s, p false)
  | _ => (writeBy me s a.pa (natLe (atomNew op size old x y) size), w 0 old ++ (if size = 8 then w 1 (old / 2 ^ 32) else []))

/-- The lanes of an atomic, ascending. -/
def atomicLanes (me : Agent) (s : State) (op : AtomOp) (size d : Nat) : List LaneAccess → State × List RegWrite
  | [] => (s, [])
  | a :: t =>
    let r := atomicLane me s op size d a
    let q := atomicLanes me r.1 op size d t
    (q.1, r.2 ++ q.2)

/-- The kind and register of a write, as R401 codes them. -/
def writeKey : RegWrite → Nat × Nat
  | .v r _ _ => (1, r)
  | .s r _ => (2, r)
  | .p r _ _ => (3, r)
  | .sp r _ => (4, r)
  | .x r _ => (5, r)

/-- The entries that a list of writes takes in a group image: one for each register (R401). -/
def imageEntries (ws : List RegWrite) : Nat := ((ws.map writeKey).eraseDups).length

/-- Whether a wait is DRAIN's. -/
def isDrain : Wait → Bool
  | .drain => true
  | _ => false

/-- A path that holds a lane of a mask ends its DRAIN. -/
def endDrain (g : Group) (mask : LaneMask) : Group :=
  let g := if meets g.p0.mask mask then endWaits g 0 isDrain else g
  if meets g.p1.mask mask then endWaits g 1 isDrain else g

/-- Write, atomic or fence `i` of a group performs, when everything that must come before has bound or performed (R241, R243,
R244); what an atomic returns goes where `land` puts it. -/
def performWith (land : Group → LaneMask → List RegWrite → Group) (s : State) (loc i : Nat) : State :=
  match getGroup s loc with
  | none => s
  | some g =>
    match g.macc[i]? with
    | none => s
    | some e =>
      if !entryReady g i then s
      else
        let cl := clusterOf (coreOf loc)
        let me := agentOf g loc e.mask
        let s' := putGroup s loc (dropEntry g i)
        match e.kind with
        | .load .. => s
        | .fence => acquireBy me e.scope s'
        | .drain => acquireBy me e.scope (modGroup s' loc fun g => endDrain g e.mask)
        | .write =>
          let s' := e.lanes.foldl (fun s a => writeLane me s e a) s'
          if e.pond then wakeBarb s' else bindLines s' me cl false (entryLines e)
        | .atomic op d =>
          let r := atomicLanes me s' op e.size d e.lanes
          let s' := modGroup (bindLines r.1 me cl false (entryLines e)) loc fun g => land g e.mask r.2
          if e.scope = 0 then s' else acquireBy me e.scope s'

/-- STORE_PERFORM: an atomic's return lands. -/
def performEntry (s : State) (loc i : Nat) : State := performWith (fun g m ws => landWrites g m 0 ws) s loc i

/-- The return of an atomic that a stop finds in flight is dumped as a result with 0 ck remaining (R393); it lands where the image
has no room for it. -/
def dumpReturn (g : Group) (m : LaneMask) (ws : List RegWrite) : Group :=
  if (g.inflight.map fun r => imageEntries r.writes).sum + imageEntries ws > 256 then landWrites g m 0 ws
  else { g with inflight := g.inflight ++ [⟨m, 0, 0, ws⟩] }

/-- The first entry of a group that a test picks and that may bind or perform. -/
def readyEntry (g : Group) (f : MemEntry → Bool) : Option Nat :=
  (List.range g.macc.length).find? fun i => entryReady g i && match g.macc[i]? with
    | some e => f e
    | none => false

/-- Whether an entry is a load. -/
def isLoad (e : MemEntry) : Bool :=
  match e.kind with
  | .load .. => true
  | _ => false

/-- Performs every entry of a group that may perform, as a stop does before the save (R253, R396). The fuel is the number
of entries. -/
def settleWrites (s : State) (loc : Nat) : Nat → State
  | 0 => s
  | fuel + 1 =>
    match getGroup s loc with
    | none => s
    | some g =>
      match readyEntry g (fun e => !isLoad e) with
      | none => s
      | some i => settleWrites (performEntry s loc i) loc fuel

/-- All of a group's entries that may perform. -/
def settleGroup (s : State) (loc : Nat) : State :=
  match getGroup s loc with
  | none => s
  | some g => settleWrites s loc g.macc.length

/-- Whether a stop waits for an entry: an atomic in flight finishes at its home (R130, R253, R393), and a bank-mode fence
that has committed completes, after the accesses to its banks (R216). -/
def mustSettle (s : State) (e : MemEntry) : Bool :=
  (match e.kind with
    | .atomic .. => true
    | _ => false)
  || (e.pond && e.lanes.any fun l => (getBank s (l.pa / 262144)).fencing.isSome)

/-- The entries of a group up to the last that a stop waits for bind and perform; then every write that may. The fuel is the
number of entries. -/
def settleAtomics (s : State) (loc : Nat) : Nat → State
  | 0 => settleGroup s loc
  | fuel + 1 =>
    match getGroup s loc with
    | none => s
    | some g =>
      if g.macc.any (mustSettle s) then
        settleAtomics (match g.macc.head? with
          | some e => if isLoad e then bindLoad s loc 0 false else performWith dumpReturn s loc 0
          | none => s) loc fuel
      else settleGroup s loc

/-! ## Saved accesses (R253, R395) -/

/-- A lane of a saved access finds its bytes again: none while its page cannot be read, when it stays as it is
(notes/assumptions/10.md). -/
def placeLane (s : State) (loc : Nat) (g : Group) (e : MemEntry) (a : LaneAccess) : State × LaneAccess :=
  if a.placed then (s, a)
  else
    let r := if e.pond then (s, some (checkPond s g 1 a.lane a.va))
      else checkGlobal s loc g.ctx (if isLoad e then { r := true } else { w := true }) 1 a.lane a.va
    match r.2 with
    | some k => (r.1, if k.cause = 0 then { a with pa := k.pa, placed := true } else a)
    | none => (r.1, a)

/-- The lanes of a saved access in order. -/
def placeLanes (s : State) (loc : Nat) (g : Group) (e : MemEntry) : List LaneAccess → State × List LaneAccess
  | [] => (s, [])
  | a :: t =>
    let r := placeLane s loc g e a
    let q := placeLanes r.1 loc g e t
    (q.1, r.2 :: q.2)

/-- Access `i` of a group has its addresses translated, if they have not been. -/
def placeEntry (s : State) (loc i : Nat) : State :=
  match getGroup s loc with
  | none => s
  | some g =>
    match g.macc[i]? with
    | none => s
    | some e =>
      if entryPlaced e then s
      else
        let r := placeLanes s loc g e e.lanes
        modGroup r.1 loc fun g => { g with macc := g.macc.set i { e with lanes := r.2 } }

/-! ## The events -/

/-- Whether no die link on the way of an entry's accesses has failed (R11, R408, notes/assumptions/14.md). -/
def entryReach (s : State) (loc : Nat) (e : MemEntry) : Bool :=
  e.pond || e.lanes.all fun a => dieReach s (dieOf (coreOf loc)) (accessDie a.pa)

/-- Whether access `i` of a group may go out. -/
def mayGo (s : State) (loc i : Nat) : Bool :=
  match getGroup s loc with
  | none => false
  | some g => match g.macc[i]? with
    | none => false
    | some e => entryReach s loc e

/-- MEMORY_RESULT_LAND and STORE_PERFORM of access `i` of a group: an access that a stop has saved is translated first, and one
whose way has failed stays. -/
def memoryLand (s : State) (loc i : Nat) (viaCopy : Bool) : State :=
  let s := placeEntry s loc i
  if mayGo s loc i then bindLoad s loc i viaCopy else s
def storePerform (s : State) (loc i : Nat) : State :=
  let s := placeEntry s loc i
  if mayGo s loc i then performEntry s loc i else s

/-- How many accesses a group has that have not bound or performed. -/
def maccCount (s : State) (loc : Nat) : Nat :=
  match getGroup s loc with
  | some g => g.macc.length
  | none => 0

/-! ## PREF (R230) -/

/-- PREF at commit: the path's cluster fills copies of the lines that it lacks. -/
def prefetchLines (s : State) (loc p : Nat) (lines : List Nat) : State :=
  lines.foldl (fun s l => wantCopy s (.path loc p) (clusterOf (coreOf loc)) l) s

end Sys2Proof.Machine
end

