-- ==== Sys2Proof/Machine/Child.lean ====
section
/-! DEFINITION. Child operations: tokens, the child table, states, ends and their cascade, adoption, group retirement and
cancellation, and the Y-class forms that act on tokens (spec/11_operation.md R254-R283; spec/06_kernel.md R129, R130). -/

namespace Sys2Proof.Machine

/-! ## Tokens (R254, R255) -/

/-- The token of a child-table entry. -/
def tokenOf (key gen : Nat) : Word := BitVec.ofNat 32 (key * 4096 + gen)

/-- The child that a token names for a context: current if its entry holds GEN and belongs to the context. -/
def childByToken (s : State) (c : Nat) (tok : Word) : Option (Nat × Child) :=
  let key := tok.toNat / 4096
  match getChild s key with
  | some h => if h.gen = tok.toNat % 4096 && h.ctx = c then some (key, h) else none
  | none => none

/-- Whether a child has ended (R258). -/
def childEnded (h : Child) : Bool := !liveChild h

/-- Whether a group owns a child (R257). -/
def ownedBy (g : Group) (h : Child) : Bool :=
  h.ctx == g.ctx && h.launch == g.launch && h.gidx == g.gidx && !h.adopted && h.onOrphan.isNone

/-- The children that a group has not released (R256, R262). -/
def unreleased (s : State) (g : Group) : Nat := ((ctxChildren s g.ctx).filter fun e => ownedBy g e.2 && !e.2.givenUp).length

/-- A child that counts as live (R256): not ended and not paused. -/
def countsLive (h : Child) : Bool :=
  match h.st with
  | .waiting | .issued | .running => true
  | _ => false

/-- A table entry is taken: never-used ones first, ascending, then the one freed longest ago (R255). -/
def takeEntry (k : Core) : Option (Nat × Core) :=
  if k.fresh < 4096 then some (k.fresh, { k with fresh := k.fresh + 1 })
  else match k.freed with
    | [] => none
    | e :: t => some (e, { k with freed := t })

/-- An entry is freed: its generation advances, from 4,095 to 1 (R255). -/
def freeChild (s : State) (key : Nat) : State :=
  match getChild s key with
  | none => s
  | some h =>
    let e := key % 4096
    modCore (dropChild s key) (childCore key) fun k =>
      { k with freed := k.freed ++ [e], gens := tput 1 k.gens e (if h.gen = 4095 then 1 else h.gen + 1) }

/-! ## Records (R264) -/

/-- The child-fault record. -/
def childRecord (s : State) (key : Nat) (h : Child) : List Byte :=
  packFields [(4, (tokenOf key h.gen).toNat), (2, h.cause), (1, h.cls),
    (1, b01 h.req.det + 2 * b01 h.adopted + 4 * b01 h.givenUp + 8 * b01 h.onOrphan.isSome), (8, h.baddr), (8, h.addr),
    (8, h.cursor.toNat), (4, h.req.pred.toNat), (4, srCtx s h.ctx), (4, h.launch.toNat), (4, h.gidx.toNat), (1, h.slot), (1, h.prio),
    (6, 0), (8, h.detail.toNat)]

/-- The status word of a child that has ended, or PENDING (R280). -/
def statusWord (h : Child) (caused : Bool) : Word :=
  let st := match h.st with
    | .complete => if h.empty then 5 else 0
    | .faulted => 1
    | .cancelled => 2
    | _ => 4
  let cause := match h.st with
    | .faulted | .cancelled => h.cause
    | _ => 0
  BitVec.ofNat 32 (cause * 65536 + b01 caused * 16 + st)

/-- The status word of a stale token: RETIRED. -/
def statusRetired : Word := 3

/-! ## Ends (R258, R259, R262, R263, R266, R268) -/

/-- Whether a token's child has ended: a stale one's has. -/
def tokenOver (s : State) (c : Nat) (tok : Word) : Bool :=
  match childByToken s c tok with
  | some (_, h) => childEnded h
  | none => true

/-- The scope of a token's child; 0 of a stale token. -/
def tokenScope (s : State) (c : Nat) (tok : Word) : Nat :=
  match childByToken s c tok with
  | some (_, h) => h.req.scope
  | none => 0

/-- Children leave their counters in creation order (R268); their scopes stay known (R249). -/
def leaveCounters (s : State) (g : Group) : Group :=
  let drop (l : List Word) : List Word := l.dropWhile (tokenOver s g.ctx)
  let widest (cls : Nat) (l : List Word) (t : Tbl Nat) : Tbl Nat :=
    tput 0 t cls (((l.takeWhile (tokenOver s g.ctx)).map (tokenScope s g.ctx)).foldl max (tget 0 t cls))
  { g with mx := drop g.mx, cp := drop g.cp, co := drop g.co
           leftScopes := widest 0 g.mx (widest 1 g.cp (widest 2 g.co g.leftScopes)) }

/-- The groups of a context, saved ones too, settle their counters, and TCANCELs on a token that has ended land (R268, R281). -/
def settleGroups (s : State) (c : Nat) (tok : Word) (h : Child) : State :=
  (ctxGroups s c).foldl (fun s e =>
    let g := leaveCounters s e.2
    let mine := g.cancels.filter fun k => k.token == tok
    let g := { g with
      cancels := g.cancels.filter fun k => k.token != tok
      inflight := g.inflight ++ mine.map fun k =>
        ⟨k.mask, k.depth, 0, if k.d ≥ 1024 then [] else
          [.s k.d ⟨statusWord h (k.asked && decide (h.st = .cancelled) && h.cause == 8), false⟩]⟩ }
    putGroup s e.1 g) (modCtx s c fun x => { x with counters := x.counters.map fun e =>
      (e.1, e.2.1, e.2.2.1, e.2.2.2.dropWhile (tokenOver s c)) })

/-- The tiles that a child's routine uses (R286, R314): ACC0 on. -/
def childTiles (h : Child) : List Nat :=
  if h.cls ≠ 0 then []
  else
    let d1 := dwAt h.req.desc 1
    (List.range ((fld d1 55 47 + 63) / 64 * ((fld d1 46 38 + 63) / 64))).map (fld (dwAt h.req.desc 0) 19 14 + ·)

/-- The first child, of those of a core that a test picks and that have not ended, whose routine uses a tile (R286). -/
def tileUsers (s : State) (core : Nat) (on : Nat → Child → Bool) (t : Nat) : Option Nat :=
  (s.children.find? fun e => match e.2 with
    | some h => childCore e.1 == core && liveChild h && on e.1 h && (childTiles h).contains t
    | none => false).map (·.1)

/-- A holder gives up its tiles on a core: each goes to an unended child that uses it, or becomes free (R286). -/
def passTiles (s : State) (core : Nat) (from_ : TileHolder) (on : Nat → Child → Bool) : State :=
  let next (i : Nat) : TileHolder := match tileUsers s core on i with
    | some key => .child key
    | none => .free
  modCore s core fun k => { k with tiles := (tilesOf s core from_).foldl (fun t i => tput .free t i (next i)) k.tiles }

/-- Tiles that a child holds for a group which has retired pass, when it ends, to the next child of that group that uses them, and
become free with the last (R286). -/
def releaseTiles (s : State) (key : Nat) : State :=
  match getChild s key with
  | none => s
  | some h => passTiles s (childCore key) (.child key) fun k o =>
      k != key && o.ctx == h.ctx && o.launch == h.launch && o.gidx == h.gidx

/-- Tiles that a child holds leave with it when it is saved or destroyed. -/
def evictTiles (s : State) (key : Nat) : State :=
  modCore s (childCore key) fun k => { k with tiles := k.tiles.filter fun e => !decide (e.2 = .child key) }

/-- A child on the orphan list ends: its slot of the list is written 0 and ORPHCNT falls (R263). -/
def leaveOrphans (s : State) (h : Child) : State :=
  match h.onOrphan with
  | none => s
  | some i =>
    let x := getCtx s h.ctx
    putCtx (writeHome s (x.olbase + 4 * i) (natLe 0 4)) h.ctx { x with orphans := x.orphans - 1 }

/-- The waiting children that name a predecessor. -/
def successorsOf (s : State) (c : Nat) (tok : Word) : List Nat :=
  (ctxChildren s c).filterMap fun e =>
    let waits := match e.2.st with
      | .waiting => true
      | .paused b => b == 2
      | _ => false
    if waits && e.2.req.pred == tok then some e.1 else none

/-- A waiting child is issued. -/
def issueChild (h : Child) : Child :=
  match h.st with
  | .waiting => { h with st := .issued }
  | .paused _ => { h with st := .paused 1 }
  | _ => h

/-- A note that stands for a context's member which has still to begin an instance: it will end with LINK (R408, R417). -/
def failNote (c inst : Nat) : CollFlit :=
  { dstCtx := Fin.ofNat 4096 c, inst := BitVec.ofNat 32 inst, chunk := 0, src := 4096, kind := 0, op := 0, fmt := 0, count := 0, root := 0
    down := false, data := [], fail := true }

/-- A collective child fails: the members of its instance on this module that have still to begin will end with LINK too (R417). -/
def noteMembers (s : State) (h : Child) : State :=
  let begun (c : Nat) : Bool := (ctxChildren s c).any fun e => e.2.cls == 2 && e.2.begun && e.2.inst == h.inst
  let here := if h.cls = 2 && h.begun then (h.req.x.filter fun e => fld e.toNat 27 16 == s.modid).map fun e => fld e.toNat 11 0 else []
  { s with collIn := s.collIn ++ ((here.eraseDups.filter fun c => c != h.ctx && !begun c).map fun c => failNote c h.inst) }

/-- The members on this module of the instance that a collective child runs (R417): the collective children whose member
table names its context at its rank. -/
def collDependents (s : State) (key : Nat) (h : Child) : List Nat :=
  if h.cls ≠ 2 || h.req.desc.length ≤ 8 then []
  else
    let rank := fld (dwAt h.req.desc 8) 11 0
    s.children.filterMap fun e => match e.2 with
      | some o =>
        if e.1 ≠ key && o.cls == 2 && liveChild o && o.inst == h.inst && dwAt o.req.x rank == s.modid * 65536 + h.ctx then some e.1
        else none
      | none => none

/-- The cause with which a member of an instance ends when another fails (R417): MISMATCH of a partner in the tree whose kind,
operation, format, count or root differs, else LINK. -/
def dependentCause (s : State) (h : Child) (cause k : Nat) : Nat :=
  let d (o : Child) : Nat := dwAt o.req.desc 8
  let rank (o : Child) : Nat := fld (d o) 11 0
  let parent (o : Child) (r : Nat) : Bool := rank o != 0 && (rank o - 1) / fld (d o) 55 52 == r
  let shared (o : Child) : List Nat := [dwAt o.req.desc 6, fld (dwAt o.req.desc 7) 9 0, fld (dwAt o.req.desc 7) 27 16]
  match getChild s k with
  | none => 13
  | some o =>
    if cause == 0x110 && (parent h (rank o) || parent o (rank h)) && shared o != shared h
    then 0x110 else 13

/-- Whether the group that owned a child is retired without adoption: its kernel is cancelled, or gone (R130, R262). -/
def ownerGone (s : State) (h : Child) : Bool :=
  match getKernel s h.ctx h.launch with
  | none => true
  | some k => match k.st with
    | .cancelling | .faulting => true
    | _ => false

/-- A child ends (R258): its record is kept and, if it faulted, posted; its successors are issued or cancelled; its tiles
and counter follow; and its entry is freed if a kernel owns it or it was given up. The fuel bounds the cascade. -/
def endChild : Nat → State → Nat → ChildSt → Nat → Nat → DWord → State
  | 0, s, _, _, _, _, _ => s
  | fuel + 1, s, key, st, cause, addr, detail =>
    match getChild s key with
    | none => s
    | some h0 =>
      if childEnded h0 then s
      else
        let h := { h0 with st := st, cause := cause, addr := addr, detail := detail, parkedAt := none, cancel := none, stop := false }
        let tok := tokenOf key h.gen
        let s := putChild s key h
        let s := if st = .faulted then noteMembers (postRecord s h.ctx (childRecord s key h)) h else s
        let s := if st = .faulted then (collDependents s key h).foldl (fun s k => endChild fuel s k .faulted (dependentCause s h cause k) 0 0) s else s
        let s := (successorsOf s h.ctx tok).foldl (fun s k =>
          match getChild s k with
          | none => s
          | some w =>
            if st = .complete || w.req.any then follow (.child key) (.child k) (putChild s k (issueChild w))
            else endChild fuel s k .cancelled 7 0 (BitVec.ofNat 64 cause)) s
        let s := settleGroups (releaseTiles s key) h.ctx tok h
        let s := leaveOrphans s h
        let s := histogram s h true (decide (h0.st = .running))
        let s := if h.adopted || h.givenUp || h.onOrphan.isSome || ownerGone s h then freeChild s key else s
        residentCheck (kernelCheck s h.ctx h.launch) h.ctx

/-- Ends a child, with fuel for every cascade. -/
def finishChild (s : State) (key : Nat) (st : ChildSt) (cause addr : Nat) (detail : DWord) : State :=
  endChild (s.children.length + 1) s key st cause addr detail

/-- Cancels a child (R258, R269): at once if it has made no access or is paused, else at its next pause point. -/
def cancelChild (s : State) (key cause : Nat) : State :=
  match getChild s key with
  | none => s
  | some h =>
    match h.st with
    | .running => modChild s key fun h => { h with cancel := some (h.cancel.getD cause) }
    | .issued | .waiting | .paused _ => finishChild s key .cancelled cause 0 0
    | _ => s

/-! ## Creation (R256-R260) -/

/-- The class counter of a group. -/
def classCounter (g : Group) (cls : Nat) : List Word :=
  match cls with
  | 0 => g.mx
  | 1 => g.cp
  | _ => g.co

/-- Rewrites a class counter. -/
def setCounter (g : Group) (cls : Nat) (l : List Word) : Group :=
  match cls with
  | 0 => { g with mx := l }
  | 1 => { g with cp := l }
  | _ => { g with co := l }

/-- How many children of a class the earlier slots of the bundle create. -/
def creating (c : SC) : Nat := (c.is.effs.filter fun e => match e.2 with
  | .child .. => true
  | _ => false).length

/-- Whether a creating bundle waits for room (R256), and until the accesses before it have performed (R249). -/
def createHold (c : SC) (cls : Nat) : Bool :=
  let core := coreOf c.is.loc
  let k := getCore c.s core
  let live (f : Nat → Child → Bool) : Nat := (c.s.children.filter fun e => match e.2 with
    | some h => countsLive h && f e.1 h
    | none => false).length
  decide (live (fun key _ => childCore key == core) + creating c ≥ 1024)
  || (cls == 1 && decide (live (fun key h => h.cls == 1 && childCore key / 4 == core / 4) ≥ 256))
  || decide ((4096 - k.fresh) + k.freed.length ≤ creating c)
  || pathBusy c

/-- The checks of a creating slot after its operand checks: the seventeenth unreleased child, then the waits. -/
def createSlot (c : SC) (r : ChildReq) (effs : List Eff) : SlotRes :=
  if unreleased c.s c.g + creating c ≥ 16 then trapOf 4
  else if (classCounter c.g r.cls).length ≥ 65535 then .wait
  else if createHold c r.cls then .hold
  else .ok (effs ++ [.child c.d r]) 0 []

/-- A child is created at commit: the entry, the token to s(d), the counter, and its state by its predecessor (R258,
R259). -/
def createChild (s : State) (loc p baddr slot d : Nat) (r : ChildReq) : State :=
  match getGroup s loc, takeEntry (getCore s (coreOf loc)) with
  | some g, some (e, k) =>
    let key := coreOf loc * 4096 + e
    let gen := tget 1 k.gens e
    let prio := ((getKernel s g.ctx g.launch).map (·.prio)).getD 0 / 2
    let pred := if r.pred = 0 then none else childByToken s g.ctx r.pred
    let (st, dead) := match pred with
      | none => (ChildSt.issued, none)
      | some (_, h) =>
        match h.st with
        | .complete => (.issued, none)
        | .faulted | .cancelled => (.issued, if r.any then none else some h.cause)
        | _ => (.waiting, none)
    let h : Child := { gen := gen, ctx := g.ctx, launch := g.launch, gidx := g.gidx, set := g.set, adopted := false, cls := r.cls
                       st := st, req := r, prio := prio, maxPrio := prio, order := s.childOrder, attached := !r.det
                       givenUp := false, onOrphan := none, baddr := baddr, slot := slot, cursor := 0, cause := 0, addr := 0
                       detail := 0, empty := false, reported := false, cancel := none
                       stop := decide ((getCtx s g.ctx).st = .preempting), parkedAt := none, inst := 0, beats := 0, key := g.key
                       capture := (getKernel s g.ctx g.launch).bind fun k => k.capture.map fun d => (d, k.queue) }
    let tok := tokenOf key gen
    let pt := pathAt g p
    let g := setCounter g r.cls (classCounter g r.cls ++ [tok])
    let g := { g with inflight := g.inflight ++ [⟨pt.mask, pt.depth, 4, [.s d ⟨tok, false⟩]⟩] }
    let s := follow (.path loc p) (.child key) (putChild (putGroup (putCore s (coreOf loc) k) loc g) key h)
    let s := match pred with
      | some (q, _) => follow (.child q) (.child key) s
      | none => s
    let s := { s with childOrder := s.childOrder + 1 }
    match dead with
    | some cause => finishChild s key .cancelled 7 0 (BitVec.ofNat 64 cause)
    | none => s
  | _, _ => s

/-! ## The token forms (R278-R283) -/

/-- The child of s(a) for a form that needs ownership: none of a stale token; a child of another owner traps (R257). -/
def ownChild (c : SC) (tok : Word) : Except TrapInfo (Option (Nat × Child)) :=
  match childByToken c.s c.g.ctx tok with
  | none => .ok none
  | some (k, h) => if ownedBy c.g h then .ok (some (k, h)) else .error ⟨2, 0, 0, tok⟩

/-- A slot of this chapter on the token in s(a). -/
def onTokenIf (bad : SC → Bool) (f : SC → Word → Option (Nat × Child) → State × SlotRes) : Meaning := consuming fun c =>
  let t := sreg c.g c.pt c.a
  if bad c then (c.s, trapOf 2)
  else match ownChild c t.val with
  | .error e => (c.s, .trap e)
  | .ok k => if t.poison then (c.s, trapOf 7) else f c t.val k

/-- A token form without operand checks of its own. -/
def onToken : (SC → Word → Option (Nat × Child) → State × SlotRes) → Meaning := onTokenIf fun _ => false

/-- A uniform result of this chapter lands 4 ck after issue (R278). -/
def yResult (c : SC) (x : Word) : Eff := .result 4 [.s c.d ⟨x, false⟩]

/-- The record store of TWAIT and TTEST (R280): one 64-byte store with scope .g. -/
def storeRecord (c : SC) (key : Nat) (h : Child) (k : List Eff) : State × SlotRes :=
  let va := spair c.g c.pt c.creg
  match checkGlobal c.s c.is.loc c.g.ctx { w := true } 64 0 va.1 with
  | (_, none) => (c.s, .hold)
  | (s, some q) =>
    match q.cause with
    | 0 =>
      let e := entryOf c .write false 64 [{ lane := 0, va := va.1, pa := q.pa, data := childRecord c.s key h }]
      (s, .ok (k ++ [.access { e with scope := 1, cached := false }]) 0 [])
    | 4 => (s, trapOf 4 va.1)
    | 3 => (s, trapOf 3 va.1)
    | 1 => (s, .park { source := 4, access := 2, va := va.1, slot := c.is.idx, level := q.level })
    | _ => (s, trapOf 6 va.1)

/-- What TWAIT and TTEST report of an ended child. -/
def reportChild (c : SC) (key : Nat) (h : Child) : State × SlotRes :=
  let base := [yResult c (statusWord h false), .acquire h.req.scope]
  match h.st with
  | .complete => (c.s, .ok (base ++ [.childFree key]) 0 [])
  | _ => if c.mod.cv then storeRecord c key h base else (c.s, .ok base 0 [])

/-- TWAIT and TTEST (R280). -/
def yTest (wait : Bool) : Meaning := onToken fun c _ k =>
  if c.mod.cv && (spair c.g c.pt c.creg).2 then (c.s, trapOf 7)
  else match k with
    | none => (c.s, .ok [yResult c statusRetired] 0 [])
    | some (key, h) =>
      if childEnded h then reportChild c key h
      else if wait then (c.s, .wait)
      else (c.s, .ok [yResult c (statusWord h false)] 0 [])

/-- TCANCEL (R281): any current token of the context. -/
def yTcancel : Meaning := consuming (pureM fun c =>
  let t := sreg c.g c.pt c.a
  if t.poison then trapOf 7 else .ok [.tcancel c.d t.val] 0 [])

/-- TCANCEL at commit. -/
def tcancelCommit (s : State) (loc p d : Nat) (tok : Word) : State :=
  match getGroup s loc with
  | none => s
  | some g =>
    let answer (x : Word) (s : State) : State := modGroup s loc fun g => resultNow g p [.s d ⟨x, false⟩]
    match childByToken s g.ctx tok with
    | none => answer statusRetired s
    | some (key, h) =>
      if childEnded h then answer (statusWord h false) s
      else
        let pt := pathAt g p
        let s := putGroup s loc { g with cancels := g.cancels ++ [⟨tok, pt.mask, pt.depth, d, h.cancel.isNone⟩] }
        cancelChild s key 8

/-- TDET (R282). -/
def yTdet : Meaning := onToken fun c _ k =>
  match k with
  | none => (c.s, .nothing)
  | some (key, _) => (c.s, .ok [.childDetach key] 0 [])

/-- TREL (R262, R282). -/
def yTrel : Meaning := onToken fun c _ k =>
  match k with
  | none => (c.s, .nothing)
  | some (key, h) => (c.s, .ok [if childEnded h then .childFree key else .childGiveUp key] 0 [])

/-- TPRIO (R282). -/
def yTprio : Meaning := onTokenIf (fun c => decide ((uB true c).val.toNat > 3)) fun c _ k =>
  let v := uB true c
  if v.poison then (c.s, trapOf 7)
  else match k with
    | none => (c.s, .nothing)
    | some (key, h) => if childEnded h then (c.s, .nothing) else (c.s, .ok [.childPrio key (min v.val.toNat h.maxPrio)] 0 [])

/-- The children of a class that a group owns and that have left its counter, in creation order. -/
def leftChildren (s : State) (g : Group) (cls : Nat) : List (Nat × Child) :=
  ((ctxChildren s g.ctx).filter fun e => ownedBy g e.2 && e.2.cls == cls && childEnded e.2
    && !(classCounter g cls).contains (tokenOf e.1 e.2.gen))

/-- The child created earliest of a list. -/
def earliest (l : List (Nat × Child)) : Option (Nat × Child) :=
  l.foldl (fun o e => match o with
    | none => some e
    | some b => if e.2.order < b.2.order then some e else some b) none

/-- CNTWAIT (R283). It acquires the completion of every child of the class that has left the counter, of those whose entries have been
freed too (R249). -/
def yCntwait (cls : Nat) : Meaning := consuming (pureM fun c =>
  let n := uB true c
  if n.poison then trapOf 7
  else if (classCounter c.g cls).length > n.val.toNat then .wait
  else
    let left := leftChildren c.s c.g cls
    let bad := earliest (left.filter fun e => decide (e.2.st = .faulted) && !e.2.reported)
    let free := (left.filter fun e => decide (e.2.st = .complete)).map fun e => Eff.childFree e.1
    let acq := Eff.acquire ((left.map fun e => e.2.req.scope).foldl max (tget 0 c.g.leftScopes cls))
    match bad with
    | some (key, h) => .ok ([yResult c (tokenOf key h.gen), acq, .childReported key] ++ free) 0 []
    | none => .ok ([yResult c 0, acq] ++ free) 0 [])

/-- An ended child's entry is freed by a report or by TREL. -/
def childFreed (s : State) (key : Nat) : State :=
  match getChild s key with
  | some h => if childEnded h then freeChild s key else s
  | none => s

/-- TREL of a child that has not ended; if it has ended meanwhile its entry is freed. DESIGN CHOICE (notes/assumptions/27.md): R282 says
that TREL on a child already detached changes nothing, R262 that it marks any child that has not ended given up; R262 is followed. -/
def childGivenUp (s : State) (key : Nat) : State :=
  match getChild s key with
  | some h => if childEnded h then freeChild s key else putChild s key { h with givenUp := true, attached := false }
  | none => s

/-! ## CPY (R271, R279) -/

/-- y0..y7 of a CPY as it stages or advances them. -/
def copyStage (c : SC) : List DWord :=
  if c.a ≠ 63 then (List.range 8).map fun j => BitVec.ofNat 64 (spair c.g c.pt (c.a + 2 * j)).1
  else
    let y := (List.range 8).map fun j => tget 0 c.g.y j
    match c.w.imm with
    | none => y
    | some x =>
      let kind := dwAt y 5 % 4
      let adv (j : Nat) : DWord :=
        let f := dwAt y j
        if kind ≤ 1 then BitVec.ofNat 64 (f / 2 ^ 57 * 2 ^ 57 + ofSigned 57 ((fld f 56 0 : Int) + x.toInt))
        else BitVec.ofNat 64 (fld f 31 0 + 2 ^ 32 * ofSigned 32 ((fld f 63 32 : Int) + x.toInt))
      [adv 0, adv 1] ++ y.drop 2

/-- CPY. -/
def yCpy : Meaning := consuming (pureM fun c =>
  if c.a ≠ 63 && (c.a % 2 == 1 || c.a > 48) then trapOf 2
  else
    let pred : PWord := if c.b = 63 then ⟨0, false⟩ else sreg c.g c.pt c.b
    let bad := c.a ≠ 63 && (List.range 16).any fun j => (sreg c.g c.pt (c.a + j)).poison
    if bad || pred.poison then trapOf 7
    else
      let y := copyStage c
      let staged := ((List.range 8).filter fun j => decide (y.getD j 0 ≠ tget 0 c.g.y j)).map fun j => Eff.stage j (y.getD j 0)
      createSlot c { cls := 1, pred := pred.val, any := bitOf (dwAt y 5) 13, det := c.mod.det, scope := scopeOr4 c
                     cache := c.mod.cache.toNat, desc := y } staged)

/-! ## Retirement, adoption and cancellation (R129, R130, R133, R262, R263) -/

/-- The lowest slot of a context's orphan list that holds 0 (R263). -/
def orphanSlot (s : State) (c : Nat) : Option Nat :=
  let x := getCtx s c
  (List.range (2 ^ x.ollog)).find? fun i => mem32 s.mem (x.olbase + 4 * i) == 0

/-- One detached child of a retiring group that has not ended is adopted (R129). -/
def adoptChild (s : State) (orph key : Nat) : State :=
  match getChild s key with
  | none => s
  | some h =>
    let s := putChild s key { h with adopted := true }
    if orph = 0 then s
    else match orphanSlot s h.ctx with
      | none => queueRecord s h.ctx 0x303 5 (tokenOf key h.gen).toNat 0 0 h.launch.toNat h.gidx.toNat 0 0 0
      | some i =>
        let x := getCtx s h.ctx
        let s := putCtx (writeHome s (x.olbase + 4 * i) (natLe (tokenOf key h.gen).toNat 4)) h.ctx { x with orphans := x.orphans + 1 }
        modChild s key fun h => { h with onOrphan := some i }

/-- A group leaves its core: its tiles and routine entries, its place in its set and its pond banks, its claims and its
sequencer's sets. -/
def leaveCore (s : State) (loc : Nat) (g : Group) : State :=
  let core := coreOf loc
  let s := passTiles s core (.group loc) fun _ o => o.ctx == g.ctx && o.launch == g.launch && o.gidx == g.gidx
  let s := modCore s core fun k => { k with
    routines := (routinesOf s loc).foldl (fun t i => tput none t i none) k.routines }
  let s := leaveBar s g
  let s := dropClaims (dropGroup s loc) loc
  let s := modSeq s (seqOf loc) fun q => { q with active := q.active.filter (· != loc % 64), admitted := q.admitted.filter (· != loc % 64) }
  match getSet s g.ctx g.launch g.set with
  | none => s
  | some r =>
    if !(setGroups s r).isEmpty then s
    else
      let s := r.banks.foldl (fun s b =>
        putBank { s with pond := mzero s.pond ((r.cluster * 32 + b) * 262144) 262144 } (r.cluster * 32 + b) {}) s
      { s with sets := s.sets.filter fun x => !(x.ctx == r.ctx && x.launch == r.launch && x.k == r.k) }

/-- A group's reservations become void and the records that its lanes hold are freed (R110, R112). -/
def leaveRecords (s : State) (g : Group) : State :=
  let s := voidReservations s g.ctx g.launch g.gidx
  g.held.foldl (fun s e => freeDelivered s g.ctx e.2.rq e.2.gen [e.2.idx]) s

/-- Whether a group may retire (R133): no path remains, every attached child has ended, its stores have performed, and a bank-mode
fence that its last bundle holds has completed (R163). -/
def mayRetire (s : State) (g : Group) : Bool :=
  decide (g.p0.st = .empty) && decide (g.p1.st = .empty) && g.macc.isEmpty && g.fences.isEmpty
  && !(ctxChildren s g.ctx).any fun e => ownedBy g e.2 && e.2.attached && liveChild e.2

/-- A group retires (R129, R133, R262). -/
def retireGroup (s : State) (loc : Nat) : State :=
  match getGroup s loc with
  | none => s
  | some g =>
    if !mayRetire s g then s
    else
      let orph := ((getKernel s g.ctx g.launch).map (·.orph)).getD 0
      let mine := (ctxChildren s g.ctx).filter fun e => ownedBy g e.2
      let s := mine.foldl (fun s e => if childEnded e.2 then freeChild s e.1 else adoptChild s orph e.1) s
      let s := leaveCore (leaveRecords s g) loc g
      let s := modKernel s g.ctx g.launch fun k => { k with live := k.live - 1 }
      residentCheck (kernelCheck s g.ctx g.launch) g.ctx

/-- Discards a group without a save (R130): its uncommitted bundle is squashed, atomics in flight finish at their home. -/
def discardGroup (s : State) (loc : Nat) : State :=
  let s := settleAtomics s loc (maccCount s loc)
  match getGroup s loc with
  | none => s
  | some g =>
    let s := match s.cur with
      | some is => if is.loc = loc then { s with cur := none } else s
      | none => s
    let s := ((ctxChildren s g.ctx).filter fun e => ownedBy g e.2 && childEnded e.2).foldl (fun s e => freeChild s e.1) s
    let s := leaveCore (leaveRecords s g) loc g
    modKernel s g.ctx g.launch fun k => { k with live := k.live - 1 }

/-- The saved groups of a kernel are discarded with their images (R130): their reservations and records go as those of resident
groups do. -/
def discardSaved (s : State) (c : Nat) (launch : Word) : State :=
  let mine := (getCtx s c).savedHeld.filter fun e => e.1 == launch
  let s := mine.foldl (fun s e => leaveRecords s { ctx := c, launch := e.1, gidx := e.2.1, held := e.2.2 }) s
  modCtx s c fun x => { x with savedHeld := x.savedHeld.filter fun e => e.1 != launch }

/-- Discards a kernel's groups, resident and saved, and cancels its children (R130, R335). -/
def discardKernel (s : State) (c : Nat) (launch : Word) (cause : Nat) : State :=
  let gs := (ctxGroups s c).filter fun e => e.2.launch == launch
  let s := discardSaved (gs.foldl (fun s e => discardGroup s e.1) s) c launch
  (kernelChildren s c launch).foldl (fun s e => cancelChild s e.1 cause) s

/-- The resident groups of a kernel: those in a save are discarded with their images. -/
def residentOf (s : State) (c : Nat) (launch : Word) : Nat := ((ctxGroups s c).filter fun e => e.2.launch == launch).length

/-- KERNEL_CANCEL (R130): CANCEL of a live kernel, or NOKERNEL. -/
def cancelKernel (s : State) (c : Nat) (launch : Word) : State :=
  let x := getCtx s c
  let live := match getKernel s c launch with
    | some k => (match k.st with
      | .admitted | .dispatching | .running | .draining => true
      | _ => false)
    | none => false
  if x.kbusy then putCtx s c { x with kerr := 2 }
  else if !live then putCtx s c { x with kerr := 1 }
  else
    let s := putCtx s c { x with kerr := 0, kbusy := true, kcancel := launch }
    let q := ((getKernel s c launch).map (·.queue)).getD 0
    let s := modKernel s c launch fun k => { k with st := .cancelling, reserved := [], live := residentOf s c launch }
    let s := if (getQueue s q).birthing = some launch then birthsDone s q else s
    residentCheck (kernelCheck (discardKernel s c launch 9) c launch) c

/-- BLOCK_LIST_FAULT (R335): the kernel ends faulted, and its queue faults with PROTECT. -/
def blockListFault (s : State) (k : Kernel) (va : Nat) : State :=
  let s := modKernel s k.ctx k.launch fun k => { k with st := .faulting, reserved := [], live := residentOf s k.ctx k.launch }
  let s := modQueue s k.queue fun x => { x with birthing := none, on := none }
  let s := queueFault s k.queue 6 k.pkt.toNat va k.tag.toNat
  residentCheck (kernelCheck (discardKernel s k.ctx k.launch 9) k.ctx k.launch) k.ctx

/-- SET_BIRTH (R121, R335): the next set of a kernel is placed on the first cluster that fits it, and its groups are born. -/
def setBirth (s : State) (c : Nat) (launch : Word) : State :=
  match getKernel s c launch with
  | none => s
  | some k =>
    if !birthDue s k then s
    else match birthPlace s k with
      | none => s
      | some (cl, seqs, later) =>
        match birthMasks s k ((List.range seqs.length).map fun j => k.nextSet * k.setsize + j) with
        | (s, .ok masks) => birthSet s k cl seqs later masks
        | (s, .error (0, _, _)) => s
        | (s, .error (1, level, va)) => blockOnPage s k.queue va level 1
        | (s, .error (_, _, va)) => blockListFault s k va

end Sys2Proof.Machine
end

