-- ==== Sys2Proof/Machine/Link.lean ====
section
/-! DEFINITION. Links: their states, the hop protocol, routing, and other modules' memory (spec/18_link.md R402-R412). -/

namespace Sys2Proof.Machine

/-! ## CRC-32C (R405) -/

/-- One bit of the reflected Castagnoli polynomial. -/
def crcBit : Nat → Nat → Nat
  | 0, c => c
  | n + 1, c => crcBit n (if c % 2 = 1 then (c / 2) ^^^ 0x82F63B78 else c / 2)

/-- CRC-32C of bytes. -/
def crc32c (l : List Byte) : Nat := (l.foldl (fun c b => crcBit 8 (c ^^^ b.toNat)) 0xFFFFFFFF) ^^^ 0xFFFFFFFF

/-! ## Flits (R405) -/

/-- A flit's fields. -/
structure Flit where
  seq : Nat
  ack : Nat
  typ : Nat
  vc : Nat
  dst : Nat
  src : Nat
  dstCtx : Nat
  srcCtx : Nat
  payload : List Byte
  deriving DecidableEq, Repr

/-- Pads bytes with zeros to a length. -/
def padTo (n : Nat) (l : List Byte) : List Byte := l.take n ++ List.replicate (n - l.length) 0

/-- The 256 bytes of a flit with both checks. -/
def flitBytes (f : Flit) : List Byte :=
  let hdr := natLe (f.seq % 65536 * 2 ^ 48 + f.ack % 65536 * 2 ^ 32 + f.typ * 2 ^ 28 + f.vc * 2 ^ 26 + f.payload.length % 256 * 256) 8
  let route := natLe (f.dst * 2 ^ 52 + f.src * 2 ^ 40 + f.dstCtx * 2 ^ 28 + f.srcCtx * 2 ^ 16) 8
  let mid := route ++ padTo 224 f.payload
  let body := hdr ++ mid ++ natLe (crc32c mid) 4 ++ List.replicate 8 0
  body ++ natLe (crc32c body) 4

/-- Byte fields of a received flit. -/
def flitField (b : List Byte) (off n : Nat) : Nat := leNat ((b.drop off).take n)

/-- The fields of a received flit. -/
def flitOf (b : List Byte) : Flit :=
  let h := flitField b 0 8
  let r := flitField b 8 8
  { seq := fld h 63 48, ack := fld h 47 32, typ := fld h 31 28, vc := fld h 27 26, dst := fld r 63 52, src := fld r 51 40
    dstCtx := fld r 39 28, srcCtx := fld r 27 16, payload := (b.drop 16).take (min 224 (fld h 15 8)) }

/-- The hop check and the end-to-end check of 256 bytes. -/
def lcrcOk (b : List Byte) : Bool := b.length == 256 && crc32c (b.take 252) == flitField b 252 4
def ecrcOk (b : List Byte) : Bool := crc32c ((b.drop 8).take 232) == flitField b 240 4

/-! ## Ends of operations (R408) -/

/-- Drops what a child waits for from other modules. -/
def dropRemotes (s : State) (key : Nat) : State := { s with remotes := s.remotes.filter fun r => !decide (r.asker = .child key) }

/-- The host core that made an access takes its access fault (R22). -/
def hostFault (s : State) (core : Nat) (k : HostKind) : State :=
  { s with boot := { s.boot with hostFaults := s.boot.hostFaults ++ [(core, k)] } }

/-- A copy or a collective ends with LINK (R408). -/
def childLinkEnds (s : State) (key : Nat) : State := finishChild (dropRemotes s key) key .faulted 13 0 0

/-- The operation that a lost flit belongs to ends (R408): a child faults with LINK, a host access raises its access fault. -/
def linkEnds (s : State) : Option FlitOwner → State
  | none => s
  | some (.child key) => childLinkEnds s key
  | some (.request tag) =>
    match s.remotes.find? fun r => r.tag == tag with
    | none => s
    | some r =>
      match r.asker with
      | .child key => childLinkEnds s key
      | .host core => hostFault { s with remotes := s.remotes.erase r } core (if r.wr then .store else .load)

/-- Every operation with an unacknowledged flit on a link ends, or with one that waits there, and the link holds none. -/
def dropSent (s : State) (n : Nat) : State :=
  let l := getLink s n
  (l.sent.map (·.owner) ++ l.waiting.map (·.1)).foldl linkEnds (putLink s n { l with sent := [], waiting := [] })

/-! ## States (R402-R404) -/

/-- A die link, which no command acts on. -/
def isDieLink (n : Nat) : Bool := decide (n < 16)

/-- A link that is neither up nor draining has no peer and no versions (R402). -/
def unpaired (l : Link) : Link := { l with slpver := 0, peer := 0, vers := [] }

/-- A link enters training. -/
def startTraining (l : Link) : Link := unpaired { l with st := .training, txseq := 0, rxseq := 0, sent := [] }

/-- A link enters error (R403): a die link retrains by itself up to three times, and is then reported. -/
def enterError (s : State) (n err : Nat) : State :=
  let s := dropSent s n
  let was := getLink s n
  let l : Link := unpaired { was with busy := false, st := .error, err := if err = 0 then (if was.busy then 0 else was.err) else err }
  if isDieLink n then
    if l.retrains < 3 then putLink s n (startTraining { l with retrains := l.retrains + 1 })
    else { putLink s n l with boot := { s.boot with linkErr := s.boot.linkErr ||| BitVec.ofNat 16 (2 ^ n) } }
  else putLink s n l

/-- A command on a link: a die link refuses it, and a busy one. -/
def linkCommand (s : State) (n : Nat) (f : State → Link → State) : State :=
  let l := getLink s n
  if n ≥ 32 then s
  else if isDieLink n then putLink s n { l with err := 5 }
  else if l.busy then putLink s n { l with err := 1 }
  else f s l

/-- TRAIN. -/
def linkTrain (s : State) (n : Nat) : State := linkCommand s n fun s l =>
  match l.st with
  | .down | .stopped | .error => putLink s n { startTraining l with err := 0, busy := true }
  | _ => putLink s n { l with err := 2 }

/-- DRAIN: with nothing unacknowledged the link stops at once. -/
def linkDrain (s : State) (n : Nat) : State := linkCommand s n fun s l =>
  match l.st with
  | .up => putLink s n (if l.sent.isEmpty then unpaired { l with err := 0, st := .stopped }
                        else { l with err := 0, st := .draining, busy := true })
  | _ => putLink s n { l with err := 2 }

/-- DOWN. -/
def linkDown (s : State) (n : Nat) : State :=
  let l := getLink s n
  if n ≥ 32 then s
  else if isDieLink n then putLink s n { l with err := 5 }
  else match l.st with
    | .up | .draining | .stopped | .error =>
      let s := dropSent s n
      putLink s n (unpaired { getLink s n with err := 0, busy := false, st := .down })
    | _ => putLink s n { l with err := if l.busy then 1 else 2 }

/-- A read of LNKCNT clears it (R402). -/
def linkCount (s : State) (n : Nat) : State :=
  let l := getLink s n
  { putLink s n { l with replayCnt := 0, crcerr := 0 } with
    hostData := BitVec.ofNat 64 (l.replayCnt.toNat * 2 ^ 32 + l.crcerr.toNat) }

/-- The PHY of a training link has trained, or has failed to. -/
def phyTrained (s : State) (n : Nat) : State :=
  let l := getLink s n
  if l.st = .training then putLink s n { l with st := .negotiating } else s
def phyFailed (s : State) (n : Nat) : State := if (getLink s n).st = .training then enterError s n 0 else s

/-- The mask of versions that this device sends for every interface (R404): version 1. -/
def ownVersions : Half := 0x0002

/-- The highest version of an interface that both sides support (R404). -/
def commonVersion (peer : Half) : Option Nat := (List.range 16).reverse.find? fun v => (ownVersions &&& peer).getLsbD v

/-- Negotiation ends (R404): each interface takes its highest common version, and without one for SLP the link is in error. -/
def negotiated (s : State) (n : Nat) (o : PeerOffer) : State :=
  let l := getLink s n
  if l.st = .negotiating then
    match commonVersion o.slp with
    | some v => putLink s n { l with
        st := .up, slpver := v, vers := [o.pkt, o.save, o.trc].map fun m => (commonVersion m).getD 0
        peer := (if isDieLink n then s.modid else o.peer.toNat), busy := false, retrains := 0, err := (if l.busy then 0 else l.err) }
    | none => enterError s n 4
  else s

/-- Loss of a lane (R403). -/
def laneLoss (s : State) (n : Nat) : State :=
  match (getLink s n).st with
  | .up | .draining => enterError s n 0
  | _ => s

/-! ## Sending and routing (R406, R410) -/

/-- The up ports of a module's route entry, ascending, as link numbers. -/
def upPorts (s : State) (m : Nat) : List Nat :=
  let e : Half := tget 0 s.routes m
  (List.range 16).filterMap fun p =>
    if e.getLsbD p && decide ((getLink s (16 + p)).st = .up) then some (16 + p) else none

/-- The port that a flit to a module leaves by, for a line number (R410). -/
def portFor (s : State) (m line : Nat) : Option Nat :=
  let ps := upPorts s m
  ps[line % max 1 ps.length]?

/-- The line of an offset in another module's memory, by its physical address (R232, R410). -/
def remoteLine (m off : Nat) : Nat := lineOf ((16 + m) * 2 ^ 40 + off)

/-- The bytes of a flit as a hop sends them on: SEQ, ACK and LCRC are the hop's own, everything else passes unchanged
(R405, R407). -/
def restamp (l : Link) (b : List Byte) : List Byte :=
  let body := natLe (l.txseq.toNat * 2 ^ 48 + (l.rxseq - 1).toNat * 2 ^ 32 + flitField b 0 4) 8 ++ (b.drop 8).take 244
  body ++ natLe (crc32c body) 4

/-- A flit leaves by a link with the next SEQ, and stays in its replay buffer. -/
def transmit (s : State) (n : Nat) (owner : Option FlitOwner) (b : List Byte) : State :=
  let l := getLink s n
  putLink s n { l with txseq := l.txseq + 1, sent := l.sent ++ [⟨l.txseq.toNat, owner, restamp l b, 0⟩] }

/-- Sends the bytes of a flit by a link, which holds at most 4,096 that are not acknowledged (R406). -/
def sendBytes (s : State) (n : Nat) (owner : Option FlitOwner) (b : List Byte) : State :=
  let l := getLink s n
  if l.sent.length < 4096 then transmit s n owner b else putLink s n { l with waiting := l.waiting ++ [(owner, b)] }

/-- Sends a flit of this module by a link. -/
def sendOn (s : State) (n : Nat) (owner : Option FlitOwner) (f : Flit) : State :=
  sendBytes s n owner (flitBytes { f with src := s.modid })

/-- Sends a flit of a context, charged to it if its child `pays` (R494); none where no port is up. -/
def sendFlit (s : State) (m line typ vc dstCtx : Nat) (owner : Option FlitOwner) (pays : Bool) (ctx : Nat) (payload : List Byte) : Option State :=
  match portFor s m line with
  | none => none
  | some n =>
    let s := sendOn s n owner { seq := 0, ack := 0, typ := typ, vc := vc, dst := m, src := 0, dstCtx := dstCtx, srcCtx := ctx, payload := payload }
    some (if pays then charge s ctx (weight s 11) else s)

/-- Flits that wait leave as the replay buffer has room. -/
def sendWaiting (s : State) (n : Nat) : State :=
  let l := getLink s n
  let room := 4096 - l.sent.length
  (l.waiting.take room).foldl (fun s e => transmit s n e.1 e.2) (putLink s n { l with waiting := l.waiting.drop room })

/-- Acknowledgement of every flit up to `ack` (R406): what is older leaves the replay buffer, and what waits takes its room; a drained link stops. -/
def takeAck (s : State) (n ack : Nat) : State :=
  let l := getLink s n
  let older (q : Nat) : Bool := decide ((ack + 65536 - q) % 65536 < 32768)
  let l : Link := { l with sent := l.sent.filter fun e => !older e.seq }
  if l.st = .draining && l.sent.isEmpty then dropSent (putLink s n (unpaired { l with st := .stopped, busy := false, err := 0 })) n
  else if l.st = .up then sendWaiting (putLink s n l) n
  else putLink s n l

/-- A NAK names the SEQ expected (R406): the flits from it on are sent again; the sixteenth resend of one of them is an error (R403). -/
def takeNak (s : State) (n seq : Nat) : State :=
  let s := takeAck s n ((seq + 65535) % 65536)
  let l := getLink s n
  let sent := l.sent.map fun e => { e with resent := e.resent + 1 }
  let s := putLink s n { l with sent := sent, replayCnt := l.replayCnt + BitVec.ofNat 32 sent.length }
  if sent.any fun e => decide (e.resent ≥ 16) then enterError s n 0 else s

/-- A flit is discarded and counted, and a NAK goes back with the SEQ expected (R406; notes/assumptions/22.md). A draining link
starts no flit, a NAK neither (R403). -/
def nakFlit (s : State) (n : Nat) : State :=
  let l := getLink s n
  let s := putLink s n { l with crcerr := l.crcerr + 1 }
  if l.st = .draining then s
  else sendOn s n none { seq := 0, ack := 0, typ := 1, vc := 1, dst := l.peer, src := 0, dstCtx := 0, srcCtx := 0,
                         payload := natLe l.rxseq.toNat 2 }

/-- What a flit of this module's operations belongs to, as the model's payload names it (notes/assumptions/22.md): the request of a
response; or the member of a collective's instance (R417). -/
def flitOwner (s : State) (f : Flit) : Option FlitOwner :=
  match f.typ with
  | 3 => some (.request (BitVec.ofNat 24 (leNat (f.payload.take 3))))
  | 4 => ((ctxChildren s f.dstCtx).find? fun e =>
      e.2.cls == 2 && liveChild e.2 && e.2.begun && e.2.inst == leNat (f.payload.take 4)).map fun e => .child e.1
  | _ => none

/-- A flit whose ECRC fails is discarded whole and counted, and its operation ends (R407, R408). -/
def ecrcFails (s : State) (n : Nat) (f : Flit) : State :=
  let s := modLink s n fun l => { l with crcerr := l.crcerr + 1 }
  match f.typ, flitOwner s f with
  | 4, none => { s with collIn := s.collIn ++ [failNote f.dstCtx (leNat (f.payload.take 4))] }
  | _, o => linkEnds s o

/-- The line number that a flit to be passed on is routed by (R410): that of a memory request's address, else 0
(notes/assumptions/22.md). -/
def flitLine (f : Flit) : Nat := if f.typ = 2 then remoteLine f.dst (leNat ((f.payload.drop 3).take 5)) else 0

/-- SLP_FLIT_RECEIVE (R406, R407, R410). -/
def receiveFlit (s : State) (n : Nat) (b : List Byte) : State :=
  let l := getLink s n
  let f := flitOf b
  let open_ := match l.st with
    | .up | .draining => true
    | _ => false
  if !open_ then s
  else if !lcrcOk b || f.typ ≥ 6 then nakFlit s n
  else if f.typ = 0 then takeAck s n f.ack
  else if f.seq ≠ l.rxseq.toNat then nakFlit s n
  else
    let s := putLink s n { l with rxseq := l.rxseq + 1 }
    let s := takeAck s n f.ack
    let nak := decide (f.typ = 1) && decide (f.payload.length = 2)
    if !isDieLink n && !nak && f.dst != s.modid then
      match portFor s f.dst (flitLine f) with
      | some p => sendBytes s p none b
      | none => s
    else if !ecrcOk b then ecrcFails s n f
    else if nak then takeNak s n (leNat f.payload)
    else s

/-- ROUTE (R412). -/
def routeWrite (s : State) (v : DWord) : State :=
  { s with routes := tput 0 s.routes (fld v.toNat 27 16) (BitVec.ofNat 16 v.toNat) }

/-! ## Elements of reduces (R274, R411, R414) -/

/-- The float format of an element code that a reduce takes. -/
def redFloat (fmt : Nat) : Option Fmt :=
  match fmt with
  | 2 => some binary32
  | 3 => some binary16
  | 4 => some bf16
  | _ => none

/-- One combination x ⊕ y (R274, R414): `red` 1 add, 2 min, 3 max, 4 or, 5 xor; with `nans` a NaN operand of min or max
gives the canonical NaN. -/
def combine (nans : Bool) (red fmt x y : Nat) : Nat :=
  let w := elemWidth fmt
  match redFloat fmt, red with
  | some f, 1 => (fadd f 0 (decodeF f x) (decodeF f y)).1
  | some f, 2 | some f, 3 =>
    let a := decodeF f x
    let b := decodeF f y
    if nans && (isNaN a || isNaN b) then canonNaN f else (fminmax (red == 3) f a b).1
  | none, 1 => (x + y) % 2 ^ w
  | none, 2 => if toSigned w x ≤ toSigned w y then x else y
  | none, 3 => if toSigned w x ≤ toSigned w y then y else x
  | _, 4 => x ||| y
  | _, _ => x ^^^ y

/-- Combines byte lists element by element; elements of `n` bytes. -/
def combineBytes (nans : Bool) (red fmt n : Nat) : Nat → List Byte → List Byte → List Byte
  | 0, _, _ => []
  | fuel + 1, d, x =>
    if d.isEmpty then []
    else natLe (combine nans red fmt (leNat (d.take n)) (leNat (x.take n))) (min n d.length)
      ++ combineBytes nans red fmt n fuel (d.drop n) (x.drop n)

/-! ## Requests between modules (R410, R411) -/

/-- Whether an export window permits an access of a module to `n` bytes at an offset. -/
def exported (s : State) (src : BitVec 12) (off n : Nat) (wr rd : Bool) : Bool :=
  (List.range 16).any fun w =>
    let b := (tget 0 s.expBase w).toNat
    let c := (tget 0 s.expCtl w).toNat
    let base := fld b 39 16 * 65536
    bitOf c 0 && (!rd || bitOf c 1) && (!wr || bitOf c 2) && (fld c 27 16 == 0xFFF || fld c 27 16 == src.toNat)
    && decide (base ≤ off) && decide (off + n ≤ base + fld c 63 32 * 65536)

/-- The bits of a byte under a mask take a value: replaced, ored or exclusive-ored (R223, R274). -/
def mergeByte (red : Nat) (old value mask : Byte) : Byte :=
  let x := match red with
    | 4 => old ||| value
    | 5 => old ^^^ value
    | _ => value
  (old &&& ~~~mask) ||| (x &&& mask)

/-- The bytes that a remote operation touches, and whether it writes and reads them. -/
def remoteNeed : RemoteOp → Nat × Bool × Bool
  | .read n => (n, false, true)
  | .check n rd => (n, true, rd)
  | .write d => (d.length, true, false)
  | .reduce _ _ d => (d.length, true, true)
  | .merge red _ _ => (1, true, red != 0)
  | .amo _ n _ => (n, true, true)

/-- Whether the answer to a remote operation brings bytes. -/
def remoteReturns : RemoteOp → Bool
  | .read _ => true
  | .amo .. => true
  | _ => false

/-- What an AMO stores, in `n` bytes. -/
def amoValue (op : HostOp) (n old x : Nat) : Nat :=
  match op with
  | .amoAdd => (old + x) % 256 ^ n
  | .amoAnd => old &&& x
  | .amoOr => old ||| x
  | _ => x

/-- What a permitted operation leaves at its home slice, and the bytes that it answers (R274, R411). -/
def remoteDo (s : State) (a : Agent) (off : Nat) : RemoteOp → State × List Byte
  | .read n => (s, readHome s off n)
  | .check _ _ => (s, [])
  | .write d => (writeBy a s off d, [])
  | .reduce red fmt d =>
    (writeBy a s off (combineBytes false red fmt (max 1 (elemWidth fmt / 8)) d.length (readHome s off d.length) d), [])
  | .merge red mask v => (writeBy a s off ((readHome s off 1).map fun o => mergeByte red o v mask), [])
  | .amo op n v =>
    let old := readHome s off n
    (writeBy a s off (natLe (amoValue op n (leNat old) v.toNat) n), old)

/-- Bytes in parts of at most 208, one part at least. The fuel is the number of parts. -/
def flitParts (d : List Byte) : Nat → List (List Byte)
  | 0 => []
  | n + 1 => d.take 208 :: flitParts (d.drop 208) n

/-- A request of another module is served or refused; the answer leaves as response flits, each with the request's number, whether
it was permitted, and at most 208 bytes (R405, R411). -/
def serveRemote (s : State) (r : RemoteRequest) : State :=
  let off := r.off.toNat
  let need := remoteNeed r.op
  let answer (s : State) (ok : Bool) (d : List Byte) : State :=
    (flitParts d (max 1 ((d.length + 207) / 208))).foldl (fun s p =>
      (sendFlit s r.src.toNat (remoteLine s.modid off) 3 1 0 none false 0 (natLe r.tag.toNat 3 ++ [BitVec.ofNat 8 (b01 ok)] ++ p)).getD s) s
  if exported s r.src off need.1 need.2.1 need.2.2 && inGddr off need.1 then
    let q := remoteDo s (.elsewhere r.src.toNat) off r.op
    answer q.1 true q.2
  else answer s false []

/-- The module that a remote address names and the offset in it (R410). -/
def remoteModule (pa : Nat) : Nat := pa / 2 ^ 40 - 16
def remoteOffset (pa : Nat) : Nat := pa % 2 ^ 40

/-- A request's payload after its number and offset (notes/assumptions/22.md): its kind, its operation and format, its length, its
data. -/
def requestBytes : RemoteOp → List Byte
  | .read n => [0, 0, BitVec.ofNat 8 n]
  | .check n rd => [1, BitVec.ofNat 8 (b01 rd), BitVec.ofNat 8 n]
  | .write d => [2, 0, BitVec.ofNat 8 d.length] ++ d.take 208
  | .reduce red fmt d => [3, BitVec.ofNat 8 (16 * red + fmt), BitVec.ofNat 8 d.length] ++ d.take 208
  | .merge red mask v => [4, BitVec.ofNat 8 (16 * red), 1, mask, v]
  | .amo op n v => [5, (match op with
      | .amoAdd => 1
      | .amoAnd => 2
      | .amoOr => 3
      | _ => 0), BitVec.ofNat 8 n] ++ natLe v.toNat 8

/-- Asks another module for an operation on an address, for a child, which pays for the flit, or for a host core: a request flit,
and what is then waited for. No up port ends the operation (R408). -/
def askRemote (s : State) (asker : Asker) (acq : Bool) (ctx pa : Nat) (op : RemoteOp) : Option State :=
  let need := remoteNeed op
  let tag := BitVec.ofNat 24 s.remoteCtr
  let pays := match asker with
    | .child _ => true
    | .host _ => false
  let flit := natLe tag.toNat 3 ++ natLe (remoteOffset pa) 5 ++ requestBytes op
  (sendFlit s (remoteModule pa) (lineOf pa) 2 0 0 (some (.request tag)) pays ctx flit).map fun s =>
    { s with remotes := s.remotes ++ [⟨tag, asker, remoteModule pa, remoteOffset pa, need.1, need.2.1, remoteReturns op, acq, none⟩]
             remoteCtr := s.remoteCtr + 1 }

/-- The requests of a child. -/
def remotesOf (s : State) (key : Nat) : List RemotePending := s.remotes.filter fun r => decide (r.asker = .child key)

/-- A permitted answer to a child's request: what was read is kept, and once all its requests are answered its chunk has the bytes in
the order in which they were asked for (R411). -/
def childAnswer (s : State) (key : Nat) (q : RemotePending) (d : List Byte) : State :=
  let s := { s with remotes := s.remotes.map fun r => if r = q then { r with data := some (if r.rd then padTo r.len d else []) } else r }
  let mine := remotesOf s key
  if mine.all (·.data.isSome) then modChild (dropRemotes s key) key fun h => { h with got := mine.flatMap fun r => r.data.getD [] }
  else s

/-- An answer of another module (R411), to the request that it names: PROTECTION ends a copy; what was read is kept for its chunk;
the host complex's access returns its datum or raises its access fault. -/
def remoteAnswer (s : State) (r : RemoteResponse) : State :=
  match s.remotes.find? fun q => q.tag == r.tag && q.data.isNone with
  | none => s
  | some q =>
    match q.asker with
    | .host core =>
      let s := { s with remotes := s.remotes.erase q }
      if !r.ok then hostFault s core (if q.wr then .store else .load)
      else
        let s := if q.rd then { s with hostData := BitVec.ofNat 64 (leNat r.data) } else s
        if q.acq then acquireBy (.host core) 5 s else s
    | .child key => if r.ok then childAnswer s key q r.data else finishChild (dropRemotes s key) key .faulted 2 0 0

end Sys2Proof.Machine
end

