-- ==== Sys2Proof/Machine/Copy.lean ====
section
/-! DEFINITION. The Millpond copy engine: the checks at start, chunks, reduces, barrier arrivals, circuits and remote
memory (spec/11_operation.md R271-R277; spec/18_link.md R411). -/

namespace Sys2Proof.Machine

/-! ## Accesses of children -/

/-- A piece of a child's access: local memory (0), pond (1) or another module's memory (2). -/
structure Piece where
  sp : Nat
  pa : Nat
  n : Nat
  deriving DecidableEq, Repr

/-- What a child's access comes to: its pieces; a page fault with its address, level and access code; a fault with its
cause of R265 and address; or that it must wait. -/
inductive Reach where
  | ok (l : List Piece)
  | page (va level access : Nat)
  | fault (cause addr : Nat)
  | wait
  deriving DecidableEq, Repr

/-- The pieces of a pond range of a set (R200, R273). The fuel is the number of banks that it can touch. -/
def pondReach (s : State) (r : Option SetRec) (off n : Nat) : Nat → Reach
  | 0 => .ok []
  | fuel + 1 =>
    if n = 0 then .ok []
    else match r with
      | none => .fault 4 off
      | some q =>
        match q.banks[off / 262144]? with
        | none => .fault 4 off
        | some b =>
          let x := getBank s (q.cluster * 32 + b)
          if x.fencing.isSome then .wait
          else if x.mode ≠ 1 then .fault 6 off
          else
            let here := min n (262144 - off % 262144)
            match pondReach s r (off + here) (n - here) fuel with
            | .ok l => .ok (⟨1, pondKey q.cluster b (off % 262144), here⟩ :: l)
            | e => e

/-- The pieces of a global range (R201, R273): causes 4, 1 and 2 of R201, and the kind of each address. A die link of the
route that has failed ends the operation with LINK (R11, R408). -/
def globalReach (s : State) (u : TUnit) (ctx va n : Nat) (need : Need) : State × Reach :=
  if va + n > 2 ^ 57 then (s, .fault 4 va)
  else match translateRange s u ctx va n need (n / 65536 + 2) with
    | (s, .ok l) =>
    if l.all fun p => dieReach s (unitDie u) (accessDie p.1) then
      (s, .ok (l.map fun p => if isRemote p.1 then ⟨2, p.1, p.2⟩ else ⟨0, p.1, p.2⟩))
    else (s, .fault 13 0)
    | (s, .error (0, _, _)) => (s, .wait)
    | (s, .error (1, level, at_)) => (s, .page at_ level (b01 need.r + 2 * b01 need.w))
    | (s, .error (_, _, at_)) => (s, .fault 2 at_)

/-- A child parks on a page (R267, R376). -/
def parkChild (s : State) (key va level access : Nat) : State :=
  match getChild s key with
  | none => s
  | some h =>
    let s := pageReport s h.ctx { token := (tokenOf key h.gen).toNat, source := h.cls, access := access, va := va, baddr := h.baddr,
                                  launch := h.launch.toNat, group := h.gidx.toNat, slot := h.slot, level := level }
    putChild s key { h with parkedAt := some (va, access) }

/-- What a child's access that did not reach comes to. -/
def childMiss (s : State) (key : Nat) : Reach → State
  | .ok _ => s
  | .page va level access => parkChild s key va level access
  | .fault cause addr => finishChild (dropRemotes s key) key .faulted cause addr 0
  | .wait => s

/-- The cluster and the copy buffer of a child's entry. -/
def childCluster (key : Nat) : Nat := clusterOf (childCore key)
def copyUnit (key : Nat) : TUnit := .copy (Fin.ofNat 64 (childCluster key))

/-- The bytes of local and pond pieces; remote pieces take theirs, in order, from what was received. -/
def piecesRead (s : State) : List Piece → List Byte → List Byte
  | [], _ => []
  | p :: t, got =>
    match p.sp with
    | 0 => readHome s p.pa p.n ++ piecesRead s t got
    | 1 => mread s.pond p.pa p.n ++ piecesRead s t got
    | _ => got.take p.n ++ piecesRead s t (got.drop p.n)

/-- The lines of local pieces. -/
def localLines (l : List Piece) : List Nat :=
  l.flatMap fun p => if p.sp = 0 then (List.range ((p.pa % 1024 + p.n + 1023) / 1024)).map (lineOf p.pa + ·) else []

/-- Agent `a` stores bytes over local and pond pieces (R233, R244). -/
def piecesStore (s : State) (a : Agent) : List Piece → List Byte → State
  | [], _ => s
  | p :: t, d =>
    let s := match p.sp with
      | 0 => writeBy a s p.pa (d.take p.n)
      | 1 => { s with pond := mwrite s.pond p.pa (d.take p.n) }
      | _ => s
    piecesStore s a t (d.drop p.n)

/-- A child stores bytes over local and pond pieces. -/
def piecesWrite (s : State) (key : Nat) : List Piece → List Byte → State := piecesStore s (.child key)

/-! ## The descriptor (R271, R272) -/

/-- Fields of y0..y7. -/
structure CopyDesc where
  kind : Nat
  sspace : Nat
  dspace : Nat
  red : Nat
  fmt : Nat
  src : Nat
  dst : Nat
  len : Nat
  rows : Nat
  sstr : Int
  dstr : Int
  st : Nat
  dt : Nat
  barv : Bool
  bar : Nat
  circ : Nat
  deriving DecidableEq, Repr

def copyDesc (y : List DWord) : CopyDesc :=
  let d (i : Nat) : Nat := dwAt y i
  let kind := d 5 % 4
  { kind := kind, sspace := fld (d 5) 3 2, dspace := fld (d 5) 5 4, red := fld (d 5) 8 6, fmt := fld (d 5) 12 9
    src := fld (d 0) 56 0, dst := fld (d 1) 56 0, len := if kind = 0 then fld (d 2) 47 0 else fld (d 2) 31 0
    rows := if kind = 0 then 1 else fld (d 2) 63 32, sstr := toSigned 48 (fld (d 3) 47 0), dstr := toSigned 48 (fld (d 4) 47 0)
    st := fld (d 3) 63 48, dt := fld (d 4) 63 48, barv := bitOf (d 6) 63, bar := fld (d 6) 22 0, circ := fld (d 7) 5 0 }

/-- Whether an element format takes a combination (R274); `box` of kind 2 adds the 1-bit element. -/
def redOk (red fmt : Nat) (box : Bool) : Bool :=
  let int := fmt == 7 || fmt == 8 || fmt == 9
  let flt := fmt == 2 || fmt == 3 || fmt == 4
  match red with
  | 0 => true
  | 1 | 2 | 3 => int || flt
  | _ => int || (box && fmt == 13)

/-- A format fault of the staged fields alone (R272). -/
def copyBad (y : List DWord) : Bool :=
  let d (i : Nat) : Nat := dwAt y i
  let c := copyDesc y
  c.kind == 3 || decide (c.red ≥ 6) || decide (c.dspace ≥ 2) || decide (c.sspace ≥ 2)
  || fld (d 5) 63 14 != 0 || fld (d 6) 62 23 != 0 || fld (d 7) 63 6 != 0
  || (!c.barv && c.bar != 0)
  || (decide (c.kind ≤ 1) && (fld (d 0) 63 57 != 0 || fld (d 1) 63 57 != 0))
  || (c.kind == 0 && (fld (d 2) 63 48 != 0 || d 3 != 0 || d 4 != 0))
  || (c.kind == 1 && (fld (d 3) 63 48 != 0 || fld (d 4) 63 48 != 0))
  || (c.kind == 2 && (c.sspace != 0 || c.dspace != 0))
  || ((c.kind == 2 || c.red == 0) && c.fmt != 0)
  || (decide (c.kind ≤ 1) && c.red != 0 && !redOk c.red c.fmt false)
  || (c.circ != 0 && (c.dspace != 1 || c.kind == 2))

/-- Bytes of a reduce's element; 1 of a plain copy of kind 0 or 1. -/
def copyElem (c : CopyDesc) : Nat := if c.red = 0 then 1 else max 1 (elemWidth c.fmt / 8)

/-- A reduce whose addresses, lengths or strides are no multiples of the element size (R274). -/
def copyMisaligned (c : CopyDesc) : Bool :=
  let e := copyElem c
  c.kind ≠ 2 && (c.src % e != 0 || c.dst % e != 0 || c.len % e != 0
    || (c.kind == 1 && (decide (c.sstr % (e : Int) ≠ 0) || decide (c.dstr % (e : Int) ≠ 0))))

/-- The destination bytes of a copy; `w` is the element width of kind 2. -/
def copyTotal (c : CopyDesc) (w : Nat) : Nat := if c.kind = 2 then (c.len * c.rows * w + 7) / 8 else c.len * c.rows

/-- The circuit that a copy names and the set that it joins (R124, R277). -/
def copyCircuit (s : State) (h : Child) (c : CopyDesc) : Option Int :=
  match getKernel s h.ctx h.launch with
  | none => none
  | some k =>
    match k.circ[c.circ - 1]? with
    | none => none
    | some e =>
      let j := (h.set.toNat : Int) + e.delta
      if 0 ≤ j ∧ j < setCount k then some j else none

/-- The set whose pond holds a copy's destination and its barrier (R276, R277). -/
def copyDestSet (s : State) (h : Child) (c : CopyDesc) : Option SetRec :=
  if c.circ = 0 then getSet s h.ctx h.launch h.set
  else match copyCircuit s h c with
    | none => none
    | some j => getSet s h.ctx h.launch (BitVec.ofNat 32 j.toNat)

/-- BAR is misaligned, outside the set's banks, or in a bank not in scratchpad mode (R276). -/
def copyBarBad (s : State) (h : Child) (c : CopyDesc) : Bool :=
  c.barv && (c.bar % 8 != 0 || match pondReach s (copyDestSet s h c) c.bar 8 1 with
    | .ok _ => false
    | .wait => false
    | _ => true)

/-- The bank of BAR is under a bank-mode fence: what reaches it is held until the fence ends (R215, R276). -/
def copyBarHeld (s : State) (h : Child) (c : CopyDesc) : Bool := c.barv && match pondReach s (copyDestSet s h c) c.bar 8 1 with
  | .wait => true
  | _ => false

/-! ## Chunks (R273, R275) -/

/-- One transfer of a chunk: where its source and destination start, their bits within a byte, and the bytes. `none` for a
source that BORDER makes zero and for a destination that BORDER drops. -/
structure Xfer where
  src : Option Nat
  sbit : Nat
  dst : Option Nat
  dbit : Nat
  n : Nat
  deriving DecidableEq, Repr

/-- The transfers of kinds 0 and 1 from byte `j` on: a row starts modulo 2^57, and a byte past 2^57 is not wrapped (R201,
R273). The fuel bounds the runs. -/
def runs (c : CopyDesc) (j n : Nat) : Nat → List Xfer
  | 0 => []
  | fuel + 1 =>
    if n = 0 || c.len = 0 then []
    else
      let r := j / c.len
      let o := j % c.len
      let row (base : Nat) (str : Int) : Nat := ofSigned 57 ((base : Int) + (if c.kind = 1 then (r : Int) * str else 0)) + o
      let here := min n (c.len - o)
      ⟨some (row c.src c.sstr), 0, some (row c.dst c.dstr), 0, here⟩ :: runs c (j + here) (n - here) fuel

/-- The element of kind 2 with index `j`: or its fault with the address. -/
def boxXfer (c : CopyDesc) (y : List DWord) (ts td : Tensor) (j : Nat) : Except Nat Xfer :=
  let d (i : Nat) : Nat := dwAt y i
  let e := (j % c.len : Nat)
  let r := (j / c.len : Nat)
  let at_ (a b : Nat) : List Int :=
    [toSigned 32 (fld (d a) 31 0) + e, toSigned 32 (fld (d a) 63 32) + r, fld (d b) 15 0, fld (d b) 31 16, fld (d b) 47 32]
  let w := elemWidth ts.fmt
  let size := if w < 8 then 1 else w / 8
  let one (t : Tensor) (ix : List Int) : Except Nat (Option (Nat × Nat)) :=
    match borderCoords t ix with
    | some l => .ok (some (elemAddress t l))
    | none => if t.border = 1 then .ok none else .error 0
  match one ts (at_ 0 3), one td (at_ 1 4) with
  | .ok a, .ok b => .ok ⟨a.map (·.1), (a.map (·.2)).getD 0, b.map (·.1), (b.map (·.2)).getD 0, size⟩
  | .error x, _ => .error x
  | _, .error x => .error x

/-- The elements of kind 2 from index `j` on; or the first fault. -/
def boxXfers (c : CopyDesc) (y : List DWord) (ts td : Tensor) (j : Nat) : Nat → Except Nat (List Xfer)
  | 0 => .ok []
  | n + 1 =>
    match boxXfer c y ts td j with
    | .error e => .error e
    | .ok x =>
      match boxXfers c y ts td (j + 1) n with
      | .ok l => .ok (x :: l)
      | .error e => .error e

/-- The transfers of a chunk from cursor byte `cur`, and its bytes. -/
def chunkXfers (c : CopyDesc) (y : List DWord) (ts td : Tensor) (cur : Nat) : Except Nat (List Xfer × Nat) :=
  if c.kind = 2 then
    let w := elemWidth ts.fmt
    let j := cur * 8 / w
    let n := min (32768 / w) (c.len * c.rows - j)
    match boxXfers c y ts td j n with
    | .ok l => .ok (l, (n * w + 7) / 8)
    | .error e => .error e
  else
    let n := min 4096 (copyTotal c 8 - cur)
    .ok (runs c cur n (n + 1), n)

/-- The pieces of one end of a transfer. -/
def xferReach (s : State) (key : Nat) (h : Child) (c : CopyDesc) (isDst remoteOk : Bool) (x : Option Nat) (n : Nat) : State × Reach :=
  match x with
  | none => (s, .ok [])
  | some a =>
    let space := if isDst then c.dspace else c.sspace
    if space = 1 then (s, pondReach s (if isDst then copyDestSet s h c else getSet s h.ctx h.launch h.set) a n (n / 262144 + 2))
    else globalReach s (copyUnit key) h.ctx a n
      (if isDst then { r := c.red != 0, w := true, remote := remoteOk } else { r := true, remote := remoteOk })

/-- The pieces of both ends of every transfer, sources first; or the first that does not reach. -/
def reachAll (s : State) (key : Nat) (h : Child) (c : CopyDesc) (remoteOk : Bool) (isDst : Bool) :
    List Xfer → State × Except Reach (List (List Piece))
  | [] => (s, .ok [])
  | x :: t =>
    match xferReach s key h c isDst remoteOk (if isDst then x.dst else x.src) x.n with
    | (s, .ok l) =>
      match reachAll s key h c remoteOk isDst t with
      | (s, .ok r) => (s, .ok (l :: r))
      | (s, .error e) => (s, .error e)
    | (s, e) => (s, .error e)

/-- Remote pieces cut into the parts that one flit carries. -/
def remoteParts (l : List Piece) : List Piece :=
  l.flatMap fun p => if p.sp ≠ 2 then [] else (List.range ((p.n + 207) / 208)).map fun i => ⟨2, p.pa + 208 * i, min 208 (p.n - 208 * i)⟩

/-- Asks other modules for operations in order (R411); none if some flit has no up port. -/
def askAll (s : State) (key ctx : Nat) : List (Nat × RemoteOp) → Option State
  | [] => some s
  | p :: t =>
    match askRemote s (.child key) false ctx p.1 p.2 with
    | none => none
    | some s => askAll s key ctx t

/-- What a transfer asks of other modules for the remote pieces of its destination, given its source bytes: writes, reduces,
or the bits of a sub-byte element. -/
def remoteWrites (c : CopyDesc) (w fmt : Nat) (x : Xfer) : List Piece → List Byte → List (Nat × RemoteOp)
  | [], _ => []
  | p :: t, d =>
    let here : List (Nat × RemoteOp) :=
      if p.sp ≠ 2 then []
      else if w < 8 then [(p.pa, .merge c.red (subMask w x.dbit) (BitVec.ofNat 8 (leNat d / 2 ^ x.sbit % 2 ^ w * 2 ^ x.dbit)))]
      else (remoteParts [p]).map fun q =>
        let e := (d.drop (q.pa - p.pa)).take q.n
        (q.pa, if c.red = 0 then .write e else .reduce c.red fmt e)
    here ++ remoteWrites c w fmt x t (d.drop p.n)

/-- A transfer's source bytes combined into the local and pond pieces of its destination, piece by piece (R274). -/
def reducePieces (s : State) (key red fmt n : Nat) : List Piece → List Byte → State
  | [], _ => s
  | p :: t, d =>
    let s := if p.sp = 2 then s
      else piecesWrite s key [p] (combineBytes false red fmt n p.n (piecesRead s [p] []) (d.take p.n))
    reducePieces s key red fmt n t (d.drop p.n)

/-- A sub-byte element takes or combines its bits in the byte at its home (R223, R274). -/
def mergePieces (s : State) (key red : Nat) (mask v : Byte) (l : List Piece) : State :=
  l.foldl (fun s p => if p.sp = 2 then s
    else piecesWrite s key [p] ((piecesRead s [p] []).map fun o => mergeByte red o v mask)) s

/-- One transfer performed on the local and pond pieces of its destination: the source bytes are given. -/
def xferDo (s : State) (key : Nat) (c : CopyDesc) (w fmt : Nat) (x : Xfer) (dst : List Piece) (d : List Byte) : State :=
  match x.dst with
  | none => s
  | some _ =>
    if w < 8 then
      mergePieces s key c.red (subMask w x.dbit) (BitVec.ofNat 8 (leNat d / 2 ^ x.sbit % 2 ^ w * 2 ^ x.dbit)) dst
    else if c.red = 0 then piecesWrite s key dst d
    else reducePieces s key c.red fmt (w / 8) dst d

/-- The transfers of a chunk performed in order; every source byte has been read before. -/
def xfersDo (s : State) (key : Nat) (c : CopyDesc) (w fmt : Nat) : List (Xfer × List Piece × List Byte) → State
  | [] => s
  | (x, dst, d) :: t => xfersDo (xferDo s key c w fmt x dst d) key c w fmt t

/-- Pairs each transfer with its source bytes, remote bytes being taken in order. -/
def sourceBytes (s : State) : List (Xfer × List Piece × List Piece) → List Byte → List (Xfer × List Piece × List Byte)
  | [], _ => []
  | (x, src, dst) :: t, got =>
    let d := if x.src.isNone then List.replicate x.n 0 else piecesRead s src got
    let used := ((src.filter fun p => p.sp == 2).map (·.n)).sum
    (x, dst, d) :: sourceBytes s t (got.drop used)

/-- The tensors of kind 2, as the child read them at its start: kept after y0..y7 in its request. -/
def copyTensors (h : Child) : Tensor × Tensor := (tensorOf ((h.req.desc.drop 8).take 8), tensorOf ((h.req.desc.drop 16).take 8))

/-- A chunk has performed all its writes: the cursor advances, its bytes arrive at the barrier, and it is charged (R275,
R276, R494). An arrival that is not valid ends the copy with BARRIER; one that meets a bank-mode fence is held until the fence
ends (R215). -/
def chunkDone (s : State) (key : Nat) (h : Child) (c : CopyDesc) (n : Nat) : State :=
  if copyBarHeld s h c then putChild s key { h with sent := true } else
  let s := putChild s key { h with cursor := h.cursor + BitVec.ofNat 64 n, got := [], asked := false, sent := false, beats := 0 }
  let s := wakeBarb (charge s h.ctx (weight s 10))
  if !c.barv then s
  else match pondReach s (copyDestSet s h c) c.bar 8 1 with
    | .ok [p] =>
      match barArrival (barAt s p.pa) n with
      | none => finishChild s key .faulted 14 c.bar 0
      | some b => wakeBarb { s with pond := writeN s.pond p.pa 8 (barWordNat b) }
    | _ => finishChild s key .faulted 14 c.bar 0

/-- A copy's operation that no port carries, or that a failed link ends (R408). -/
def linkEnd (s : State) (key : Nat) : State := childLinkEnds s key

/-- Whether a child waits for answers of other modules. -/
def awaits (s : State) (key : Nat) : Bool := s.remotes.any fun r => decide (r.asker = .child key)

/-- A chunk whose addresses have all been checked and whose source bytes have all been read is written; what lies in other
modules' memory has performed when its answers are in, and the chunk with it (R275). -/
def chunkWrite (s : State) (key : Nat) (h : Child) (c : CopyDesc) (w fmt n : Nat) (l : List (Xfer × List Piece × List Byte)) : State :=
  let ops := l.flatMap fun e => remoteWrites c w fmt e.1 e.2.1 e.2.2
  match askAll s key h.ctx ops with
  | none => linkEnd s key
  | some s =>
    let s := xfersDo s key c w fmt l
    if ops.isEmpty then chunkDone s key h c n else wakeBarb (putChild s key { h with sent := true })

/-- The next chunk of a copy: it translates and checks every address, then reads every source element, then writes
(R275); remote ranges are asked for and checked first (R411). -/
def copyChunk (s : State) (key : Nat) (h : Child) : State :=
  let y := h.req.desc
  let c := copyDesc y
  let (ts, td) := copyTensors h
  let w := if c.kind = 2 then elemWidth ts.fmt else 8 * copyElem c
  let fmt := if c.kind = 2 then ts.fmt else c.fmt
  match chunkXfers c y ts td h.cursor.toNat with
  | .error a => finishChild s key .faulted 4 a 0
  | .ok (xs, n) =>
    if h.sent then (if awaits s key then s else chunkDone s key h c n)
    else match reachAll s key h c true false xs with
    | (s, .error e) => childMiss s key e
    | (s, .ok srcs) =>
      match reachAll s key h c true true xs with
      | (s, .error e) => childMiss s key e
      | (s, .ok dsts) =>
        let asks := ((remoteParts srcs.flatten).map fun p => (p.pa, RemoteOp.read p.n))
          ++ (remoteParts dsts.flatten).map fun p => (p.pa, RemoteOp.check p.n (c.red != 0))
        if !h.asked && !asks.isEmpty then
          match askAll s key h.ctx asks with
          | none => linkEnd s key
          | some s => putChild s key { h with asked := true, got := [] }
        else if awaits s key then s
        else chunkWrite (takeIn (.child key) (localLines srcs.flatten) s) key h c w fmt n (sourceBytes s (xs.zip (srcs.zip dsts)) h.got)

/-- The element width of a copy's destination. -/
def copyWidth (h : Child) : Nat :=
  let c := copyDesc h.req.desc
  if c.kind = 2 then elemWidth (copyTensors h).1.fmt else 8

/-- Whether a copy has performed its last chunk. -/
def copyOver (h : Child) : Bool := decide (h.cursor.toNat ≥ copyTotal (copyDesc h.req.desc) (copyWidth h))

/-- Beats of the chunk under way on a circuit. -/
def chunkBeats (h : Child) : Nat := (min 4096 (copyTotal (copyDesc h.req.desc) (copyWidth h) - h.cursor.toNat) + 63) / 64

/-- A child that its engine may move on: running, not parked, with no stop or cancellation to take. -/
def mayMove (h : Child) : Bool := decide (h.st = .running) && h.parkedAt.isNone && h.cancel.isNone && !h.stop

/-- Whether the beats of a copy's chunk under way have all arrived over its circuit, so that it is written even before a
pause (R277). -/
def beatsIn (h : Child) : Bool :=
  h.cls == 1 && h.begun && (copyDesc h.req.desc).circ != 0 && !copyOver h && decide (h.beats ≥ chunkBeats h)

/-- Whether the writes of a copy's chunk are on their way, so that it runs to its end (R275). -/
def chunkGoes (h : Child) : Bool := h.cls == 1 && decide (h.st = .running) && h.parkedAt.isNone && (h.sent || beatsIn h)

/-- COPY_CHUNK_COMPLETE (R275): on a circuit, only when its beats have arrived (R277). -/
def copyChunkEvent (s : State) (key : Nat) : State :=
  match getChild s key with
  | none => s
  | some h =>
    if h.cls ≠ 1 || !h.begun || copyOver h || !(mayMove h || chunkGoes h) then s
    else if (copyDesc h.req.desc).circ ≠ 0 && h.beats < chunkBeats h then s
    else copyChunk s key h

/-- CIRCUIT_BEAT_ARRIVE (R277): a beat of the chunk under way arrives; a chunk is written after its last beat. -/
def circuitBeat (s : State) (key : Nat) : State :=
  match getChild s key with
  | none => s
  | some h =>
    if h.cls ≠ 1 || !h.begun || !mayMove h || copyOver h || (copyDesc h.req.desc).circ = 0 || h.beats ≥ chunkBeats h then s
    else putChild s key { h with beats := h.beats + 1 }

/-! ## Start (R261, R272) -/

/-- Reads a tensor descriptor for a child: it goes on with its doublewords. -/
def childTensor (s : State) (u : TUnit) (key : Nat) (h : Child) (t : Nat) (f : State → List DWord → State) : State :=
  let x := getCtx s h.ctx
  if t ≥ x.ttcount then finishChild s key .faulted 5 0 0
  else match tget [] x.kept t with
    | d :: ds => f s (d :: ds)
    | [] =>
      match globalReach s u h.ctx (x.ttbase + 64 * t) 64 { r := true } with
      | (s, .ok l) =>
        let d := bytesDw (piecesRead s l [])
        f (modCtx s h.ctx fun x => { x with kept := tput [] x.kept t d }) d
      | (s, e) => childMiss s key e

/-- A copy starts: its descriptor is checked, and a copy of no bytes completes with no access (R272). A circuit of a kernel
that has ended leads to no set any more (R277). -/
def startCopy (s : State) (key : Nat) (h : Child) : State :=
  let y := h.req.desc.take 8
  let c := copyDesc y
  let run (s : State) (h : Child) : State :=
    if h.cursor = 0 && copyBarHeld s h c then s
    else if h.cursor = 0 && copyBarBad s h c then finishChild s key .faulted 14 c.bar 0 else putChild s key { h with begun := true }
  if copyBad y then finishChild s key .faulted 5 0 0
  else if c.circ ≠ 0 && (getKernel s h.ctx h.launch).isNone then finishChild s key .faulted 4 c.dst 0
  else if c.circ ≠ 0 && (copyCircuit s h c).isNone then finishChild s key .faulted 5 0 0
  else if c.len = 0 || c.rows = 0 then finishChild s key .complete 0 0 0
  else if copyMisaligned c then finishChild s key .faulted 3 (if c.src % copyElem c ≠ 0 then c.src else c.dst) 0
  else if c.kind = 2 then
    childTensor s (copyUnit key) key h c.st fun s ds =>
      childTensor s (copyUnit key) key h c.dt fun s dd =>
        let ts := tensorOf ds
        let td := tensorOf dd
        if tensorBad ds || tensorBad dd || ts.fmt ≠ td.fmt || !redOk c.red ts.fmt true then finishChild s key .faulted 5 0 0
        else run s { h with req := { h.req with desc := y ++ ds ++ dd } }
  else run s h

/-- Whether a copy may start on its Millpond: fewer than sixteen run there, and no earlier copy of its circuit is
unended (R261, R277). -/
def copyReady (s : State) (key : Nat) (h : Child) : Bool :=
  let c := copyDesc (h.req.desc.take 8)
  let here := s.children.filterMap fun e => match e.2 with
    | some o => if o.cls = 1 && childCluster e.1 == childCluster key then some (e.1, o) else none
    | none => none
  decide ((here.filter fun e => decide (e.2.st = .running)).length < 16)
  && (c.circ == 0 || !(s.children.any fun e => match e.2 with
      | some o => o.cls == 1 && o.ctx == h.ctx && o.launch == h.launch && o.set == h.set && liveChild o && decide (o.order < h.order)
          && (copyDesc (o.req.desc.take 8)).circ == c.circ
      | none => false))

end Sys2Proof.Machine
end

