-- ==== Sys2Proof/Machine/Collective.lean ====
section
/-! DEFINITION. Collectives: communicators, COLL, and the chunks of the up and down phases (spec/18_link.md R413-R419).
Every kind runs as one reduction of a whole array down the fixed tree: a rank adds what it holds of the array, zero
elsewhere, and kinds 2 to 4 combine by or (notes/assumptions/23.md). -/

namespace Sys2Proof.Machine

/-! ## The request and the communicator (R413, R415) -/

/-- The request of a COLL: s(a) .. s(a + 7). -/
structure CollReq where
  desc : Nat
  src : Nat
  dst : Nat
  count : Nat
  kind : Nat
  op : Nat
  fmt : Nat
  root : Nat
  deriving DecidableEq, Repr

/-- The request from the captured words. -/
def collReq (y : List DWord) : CollReq :=
  let w (i : Nat) : Nat := dwAt y i
  { desc := w 0 + 2 ^ 32 * w 1, src := w 2 + 2 ^ 32 * w 3, dst := w 4 + 2 ^ 32 * w 5, count := w 6
    kind := fld (w 7) 2 0, op := fld (w 7) 5 3, fmt := fld (w 7) 9 6, root := fld (w 7) 27 16 }

/-- A communicator descriptor. -/
structure Comm where
  fan : Nat
  nrank : Nat
  rank : Nat
  memb : Nat
  rxbuf : Nat
  rxlog : Nat
  deriving DecidableEq, Repr

def commOf (d : List DWord) : Comm :=
  { fan := fld (dwAt d 0) 55 52, nrank := fld (dwAt d 0) 47 32, rank := fld (dwAt d 0) 11 0, memb := fld (dwAt d 1) 56 6 * 64
    rxbuf := fld (dwAt d 2) 56 12 * 4096, rxlog := fld (dwAt d 2) 4 0 }

/-- The FORMAT cases of R416 in the request alone. -/
def collReqBad (y : List DWord) : Bool :=
  let c := collReq y
  let f7 := dwAt y 7
  fld f7 31 28 != 0 || fld f7 15 11 != 0 || decide (c.kind ≥ 5) || decide (c.op ≥ 5)
  || !([2, 3, 4, 7, 8, 9].contains c.fmt)
  || (decide (c.op ≥ 3) && [2, 3, 4].contains c.fmt)
  || (c.op != 0 && decide (c.kind ≥ 2))

/-- The FORMAT cases of R416 in the descriptor. -/
def commBad (c : CollReq) (d : List DWord) : Bool :=
  let m := commOf d
  fld (dwAt d 0) 63 56 != 1 || decide (m.fan < 2) || fld (dwAt d 0) 51 48 != 0 || fld (dwAt d 0) 31 12 != 0
  || m.nrank == 0 || decide (m.nrank > 4096) || decide (m.rank ≥ m.nrank) || decide (c.root ≥ m.nrank)
  || fld (dwAt d 1) 63 57 != 0 || fld (dwAt d 1) 5 0 != 0
  || fld (dwAt d 2) 63 57 != 0 || fld (dwAt d 2) 11 5 != 0 || decide (m.rxlog < 4) || decide (m.rxlog > 16)
  || fld (dwAt d 3) 31 0 != 0 || (d.drop 4).any (· != 0)

/-- COLL (R415, R416). -/
def yColl : Meaning := consuming (pureM fun c =>
  if c.a % 2 = 1 || c.a > 56 then trapOf 2
  else
    let pred : PWord := if c.b = 63 then ⟨0, false⟩ else sreg c.g c.pt c.b
    let ws := (List.range 8).map fun j => sreg c.g c.pt (c.a + j)
    if pred.poison || ws.any (·.poison) then trapOf 7
    else
      createSlot c { cls := 2, pred := pred.val, any := (ws.getD 7 {}).val.getLsbD 10, det := c.mod.det, scope := if c.mod.scope = 0 then 5 else c.mod.scope.toNat
                     cache := c.mod.cache.toNat, desc := ws.map fun x => x.val.setWidth 64 } [])

/-! ## The tree (R414) and the arrays -/

/-- Stores bytes at a place of a list. -/
def overlay (d : List Byte) (at_ : Nat) (x : List Byte) : List Byte := d.take at_ ++ x ++ d.drop (at_ + x.length)

/-- The parent of a rank, and its children ascending. -/
def treeParent (m : Comm) (r : Nat) : Nat := (r - 1) / m.fan
def treeChildren (m : Comm) (r : Nat) : List Nat :=
  ((List.range m.fan).map fun i => m.fan * r + 1 + i).filter fun c => decide (c < m.nrank)

/-- Bytes of an element, of a block, and of the whole array that the tree reduces. -/
def collElem (c : CollReq) : Nat := elemWidth c.fmt / 8
def collBlock (c : CollReq) : Nat := c.count * collElem c
def collTotal (c : CollReq) (m : Comm) : Nat :=
  match c.kind with
  | 1 | 2 => m.nrank * collBlock c
  | 3 => m.nrank * (m.nrank * collBlock c)
  | _ => collBlock c

/-- Chunks of 208 bytes in each phase. -/
def collChunks (c : CollReq) (m : Comm) : Nat := (collTotal c m + 207) / 208

/-- The part of `[lo, lo + n)` that lies in `[a, a + len)`, as its place in the chunk, the address of its first byte when
`a` is at address `va`, and its bytes. -/
def clip (lo n a len va : Nat) : Option (Nat × Nat × Nat) :=
  let x := max lo a
  let y := min (lo + n) (a + len)
  if x < y then some (x - lo, va + (x - a), y - x) else none

/-- Where a chunk's bytes lie in SRC. -/
def collSource (c : CollReq) (m : Comm) (lo n : Nat) : List (Nat × Nat × Nat) :=
  let b := collBlock c
  match c.kind with
  | 2 => (clip lo n (m.rank * b) b c.src).toList
  | 3 => (List.range m.nrank).filterMap fun j => clip lo n ((j * m.nrank + m.rank) * b) b (c.src + j * b)
  | 4 => if m.rank = c.root then [(0, c.src + lo, n)] else []
  | _ => [(0, c.src + lo, n)]

/-- Where a reduced chunk's bytes go in DST. -/
def collDest (c : CollReq) (m : Comm) (lo n : Nat) : List (Nat × Nat × Nat) :=
  let b := collBlock c
  match c.kind with
  | 1 => (clip lo n (m.rank * b) b c.dst).toList
  | 3 => (clip lo n (m.rank * m.nrank * b) (m.nrank * b) c.dst).toList
  | _ => [(0, c.dst + lo, n)]

/-- ⊕ of two chunks (R414). -/
def collCombine (c : CollReq) (x y : List Byte) : List Byte :=
  if c.kind ≥ 2 then List.zipWith (· ||| ·) x y else combineBytes true (c.op + 1) c.fmt (collElem c) x.length x y

/-! ## Members (R417) -/

/-- A member's module and context. -/
def memberMod (e : DWord) : Nat := fld e.toNat 27 16
def memberCtx (e : DWord) : Nat := fld e.toNat 11 0

/-- Bits of a member-table entry that must be zero. -/
def memberBad (e : DWord) : Bool := fld e.toNat 63 28 != 0 || fld e.toNat 15 12 != 0

/-- Whether a context is created. -/
def ctxCreated (s : State) (c : Nat) : Bool :=
  match (getCtx s c).st with
  | .free | .destroyed => false
  | _ => true

/-- Draws `n` free values. -/
def drawMany (s : State) (n : Nat) : Nat × State := (s.freeCtr, { s with freeCtr := s.freeCtr + n })

/-- The flits that have arrived for a member. -/
def flitsFor (s : State) (h : Child) : List CollFlit := s.collIn.filter fun f => f.dstCtx.val == h.ctx && f.inst.toNat == h.inst

/-- A flit that arrives twice, or whose chunk its member has already taken, is discarded (R419). -/
def collStale (s : State) (f : CollFlit) (h : Option Child) : Bool :=
  (s.collIn.any fun g => g.dstCtx == f.dstCtx && g.inst == f.inst && g.src == f.src && g.chunk == f.chunk && g.down == f.down && g.fail == f.fail)
  || !f.fail && (match h with
    | some h =>
      let phase := h.cursor.toNat / 2 ^ 32
      let done := h.cursor.toNat % 2 ^ 32
      if f.down then phase == 1 && decide (f.chunk < done) else phase == 1 || decide (f.chunk < done)
    | none => false)

/-- The collective child of a context that runs an instance. -/
def collChild (s : State) (f : CollFlit) : Option (Nat × Child) :=
  (ctxChildren s f.dstCtx.val).find? fun e => e.2.cls == 2 && liveChild e.2 && e.2.begun && e.2.inst == f.inst.toNat

/-- The bytes that stand for a collective flit's payload on a link: header and data (notes/assumptions/23.md). A flit that returns
credits has their count in place of a chunk number. -/
def collPayload (f : CollFlit) : List Byte :=
  padTo 16 (natLe f.inst.toNat 4 ++ natLe (if f.credit = 0 then f.chunk else f.credit) 4
    ++ natLe (f.src % 4096 + 4096 * b01 f.down + 8192 * b01 f.fail + 16384 * b01 f.norank + 32768 * b01 (f.credit != 0)) 2
    ++ natLe (f.kind + 8 * f.op + 64 * f.fmt) 2 ++ natLe f.count 4) ++ padTo 208 f.data

/-- A member's flit for its instance. -/
def memberFlit (s : State) (h : Child) (k : Nat) (down : Bool) (d : List Byte) : CollFlit :=
  let c := collReq h.req.desc
  { srcMod := BitVec.ofNat 12 s.modid, srcCtx := Fin.ofNat 4096 h.ctx, dstCtx := Fin.ofNat 4096 h.ctx, inst := BitVec.ofNat 32 h.inst, chunk := k
    src := (commOf (h.req.desc.drop 8)).rank, kind := c.kind, op := c.op, fmt := c.fmt, count := c.count, root := c.root, down := down, data := d }

/-- A flit leaves for a member of another module, for a child. -/
def sendMember (s : State) (key : Nat) (h : Child) (dest : DWord) (f : CollFlit) : Option State :=
  sendFlit s (memberMod dest) 0 4 2 (memberCtx dest) (some (.child key)) true h.ctx (collPayload { f with dstCtx := Fin.ofNat 4096 (memberCtx dest) })

/-- A member of an instance fails: it ends with its cause, which ends those on this module with LINK, and each member on
another module is told (R417). -/
def memberFails (s : State) (key : Nat) (h : Child) (cause addr : Nat) : State :=
  let f := { memberFlit s h 0 false [] with fail := true }
  (h.req.x.filter fun e => memberMod e != s.modid).foldl (fun s e => (sendMember s key h e f).getD s)
    (finishChild (dropRemotes s key) key .faulted cause addr 0)

/-- The first entry of a receive buffer of `size`, from `i` on and round, that no flit takes. The fuel is one more than the entries
in use. -/
def unusedEntry (used : List Nat) (size i : Nat) : Nat → Nat
  | 0 => i % size
  | fuel + 1 => if used.contains (i % size) then unusedEntry used size (i + 1) fuel else i % size

/-- A flit takes a free entry of its member's RXBUF (R418, R419), with its header and data; which entry, and the entry's other bytes,
are free values. A write that fails its checks ends the member with RXBUF; one whose buffer starts no new translation is made
later (R373). -/
def rxPlace (s : State) (key : Nat) (h : Child) (m : Comm) (f : CollFlit) : State :=
  let (i, s) := drawMany s 257
  let used := ((flitsFor s h).filter (·.placed)).map (·.entry)
  let e := unusedEntry used (2 ^ m.rxlog) (Config.rxEntry i) (used.length + 1)
  let va := m.rxbuf + 256 * e
  match globalReach s (copyUnit key) h.ctx va 256 { w := true } with
  | (s, .ok l) =>
    let s := piecesWrite s key l (overlay ((List.range 256).map fun j => Config.rxByte (i + 1 + j)) 16 (collPayload f))
    { s with collIn := s.collIn.map fun g => if g = f then { g with placed := true, entry := e } else g }
  | (s, .wait) => s
  | (s, _) => memberFails s key h 0x112 va

/-- The flits of a running member that have no place in RXBUF yet take one, in order of arrival. -/
def rxPlaceAll (s : State) (key : Nat) : State :=
  match getChild s key with
  | none => s
  | some h =>
    if !h.begun || h.req.desc.length ≤ 8 then s
    else ((flitsFor s h).filter fun f => !f.placed && !f.fail).foldl (fun s f =>
      if liveChild ((getChild s key).getD h) then rxPlace s key h (commOf (h.req.desc.drop 8)) f else s) s

/-- A collective flit arrives on this module. -/
def collTake (s : State) (f : CollFlit) : State :=
  match collChild s f with
  | none => if collStale s f none then s else { s with collIn := s.collIn ++ [f] }
  | some (key, h) =>
    if collStale s f (some h) then s else rxPlaceAll { s with collIn := s.collIn ++ [f] } key

/-- Sends a chunk to the member of a rank: at once on this module, else by a link, with one of the credits that it grants (R417,
R418). -/
def collSend (s : State) (key : Nat) (h : Child) (rank : Nat) (f : CollFlit) : Except Nat State :=
  let dest := h.req.x.getD rank 0
  if memberMod dest = s.modid then
    if ctxCreated s (memberCtx dest) then .ok (collTake s { f with dstCtx := Fin.ofNat 4096 (memberCtx dest) }) else .error 0x111
  else match sendMember s key h dest f with
    | some s => .ok (modChild s key fun h => { h with owing := rank :: h.owing })
    | none => .error 0x111

/-- Sends one chunk to several members. -/
def collSendAll (s : State) (key : Nat) (h : Child) (f : CollFlit) : List Nat → Except Nat State
  | [] => .ok s
  | t :: ts =>
    match collSend s key h t f with
    | .error e => .error e
    | .ok s => collSendAll s key h f ts

/-! ## Running (R416, R419) -/

/-- Reads the communicator and the member table into a child's request; goes on with the child. -/
def collLoad (s : State) (key : Nat) (h : Child) (f : State → Child → State) : State :=
  if h.req.desc.length > 8 then f s h
  else
    let c := collReq h.req.desc
    if c.desc % 64 ≠ 0 then finishChild s key .faulted 3 c.desc 0
    else match globalReach s (copyUnit key) h.ctx c.desc 64 { r := true } with
      | (s, .ok l) =>
        let d := bytesDw (piecesRead s l [])
        let m := commOf d
        if commBad c d then finishChild s key .faulted 5 0 0
        else match globalReach s (copyUnit key) h.ctx m.memb (8 * m.nrank) { r := true } with
          | (s, .ok l) =>
            let t := bytesDw (piecesRead s l [])
            if t.any memberBad then finishChild s key .faulted 5 0 0
            else f s { h with req := { h.req with desc := h.req.desc ++ d, x := t } }
          | (s, e) => childMiss s key e
      | (s, e) => childMiss s key e

/-- Takes the instance number and starts (R416); what has arrived for the instance takes its place in RXBUF. -/
def collBegin (s : State) (key : Nat) (h : Child) : State :=
  let c := collReq h.req.desc
  match globalReach s (copyUnit key) h.ctx (c.desc + 24) 8 { r := true, w := true } with
  | (s, .ok l) =>
    let n := leNat (piecesRead s l []) / 2 ^ 32
    let s := piecesWrite s key l (natLe ((n + 1) % 2 ^ 32 * 2 ^ 32) 8)
    rxPlaceAll (putChild s key { h with begun := true, inst := n }) key
  | (s, e) => childMiss s key e

/-- A collective starts (R416): with COUNT = 0 it completes with no access. -/
def startColl (s : State) (key : Nat) (h : Child) : State :=
  let y := h.req.desc.take 8
  if collReqBad y then finishChild s key .faulted 5 0 0
  else if (collReq y).count = 0 then finishChild s key .complete 0 0 0
  else collLoad s key h fun s h => collBegin s key h

/-- The pieces of a chunk's segments. -/
def collReach (s : State) (key : Nat) (h : Child) (es : Nat) (need : Need) :
    List (Nat × Nat × Nat) → State × Except Reach (List (Nat × Nat × List Piece))
  | [] => (s, .ok [])
  | (off, va, n) :: t =>
    if va % es ≠ 0 then (s, .error (.fault 3 va))
    else match globalReach s (copyUnit key) h.ctx va n need with
      | (s, .ok l) =>
        match collReach s key h es need t with
        | (s, .ok r) => (s, .ok ((off, n, l) :: r))
        | (s, .error e) => (s, .error e)
      | (s, e) => (s, .error e)

/-- Whether a flit of a partner differs in what every member of an instance shares (R417). -/
def collMismatch (c : CollReq) (f : CollFlit) : Bool :=
  f.kind != c.kind || f.op != c.op || f.fmt != c.fmt || f.count != c.count || f.root != c.root

/-- Whether two ranks exchange chunks: one is the parent of the other in the tree (R414). -/
def treePartner (m : Comm) (r : Nat) : Bool := (m.rank != 0 && treeParent m m.rank == r) || (treeChildren m m.rank).contains r

/-- Flits of a member that stand with a member on this module and have not been used. -/
def inTransit (s : State) (h : Child) (m : Comm) (dest : DWord) : Nat :=
  (s.collIn.filter fun f => f.dstCtx.val == memberCtx dest && f.inst.toNat == h.inst && f.src == m.rank && !f.fail).length

/-- The credit that a rank grants each sender (R418): one on this module by its own descriptor once it has read it, any other by the
sender's (notes/assumptions/23.md). -/
def collCredit (s : State) (h : Child) (m : Comm) (dest : DWord) : Nat :=
  let own := match collChild s { memberFlit s h 0 false [] with dstCtx := Fin.ofNat 4096 (memberCtx dest) } with
    | some (_, o) => if memberMod dest = s.modid ∧ o.req.desc.length > 8 then commOf (o.req.desc.drop 8) else m
    | none => m
  2 ^ own.rxlog / (own.fan + 1)

/-- Whether a member holds a credit for a flit to a rank (R418). -/
def collRoom (s : State) (h : Child) (m : Comm) (rank : Nat) : Bool :=
  let dest := h.req.x.getD rank 0
  decide ((if memberMod dest = s.modid then inTransit s h m dest else h.owing.count rank) < collCredit s h m dest)

/-- Flits that a member has used leave RXBUF; each of another module's rank returns a credit to it (R418). -/
def collUse (s : State) (key : Nat) (h : Child) (l : List CollFlit) : State :=
  let s := { s with collIn := s.collIn.filter fun f => !l.contains f }
  l.foldl (fun s f =>
    let dest := h.req.x.getD f.src 0
    if memberMod dest = s.modid then s else (sendMember s key h dest { memberFlit s h 0 false [] with credit := 1 }).getD s) s

/-- One chunk of a phase, if what it needs has arrived. -/
def collStep (s : State) (key : Nat) (h : Child) : State :=
  let c := collReq h.req.desc
  let m := commOf (h.req.desc.drop 8)
  let down := decide (h.cursor.toNat ≥ 2 ^ 32)
  let k := h.cursor.toNat % 2 ^ 32
  let total := collChunks c m
  let lo := 208 * k
  let n := min 208 (collTotal c m - lo)
  let here := (flitsFor s h).filter (·.placed)
  let take (src : Nat) : Option CollFlit := here.find? fun f => f.src == src && f.chunk == k && f.down == down
  let flit (d : List Byte) (dn : Bool) : CollFlit := memberFlit s h k dn d
  let next : DWord := if k + 1 = total then (if down then BitVec.ofNat 64 (2 ^ 32 + total) else BitVec.ofNat 64 (2 ^ 32))
                      else h.cursor + 1
  let fail (s : State) (e : Nat) : State := memberFails s key h e 0
  let failed := (flitsFor s h).filter (·.fail)
  if down && decide (k ≥ total) || !liveChild ((getChild s key).getD h) then s
  else if (here ++ failed.filter fun f => treePartner m f.src).any (collMismatch c) then fail s 0x110
  else if !failed.isEmpty then childLinkEnds s key
  else if !down then
    let parts := (treeChildren m m.rank).map take
    if parts.any (·.isNone) || m.rank ≠ 0 && !collRoom s h m (treeParent m m.rank) then s
    else match collReach s key h (collElem c) { r := true } (collSource c m lo n) with
      | (s, .error e) => childMiss s key e
      | (s, .ok l) =>
        let mine := l.foldl (fun d e => overlay d e.1 (piecesRead s e.2.2 [])) (List.replicate n 0)
        let got := parts.filterMap id
        let acc := got.foldl (fun a f => collCombine c a (f.data.take n)) mine
        let s := collUse (putChild (takeIn (.child key) (localLines (l.flatMap (·.2.2))) s) key { h with cursor := next }) key h got
        if m.rank = 0 then { s with collIn := s.collIn ++ [{ flit acc true with placed := true, entry := 65536 }] }
        else match collSend s key h (treeParent m m.rank) (flit acc false) with
          | .ok s => s
          | .error e => fail s e
  else
    match take (if m.rank = 0 then 0 else treeParent m m.rank) with
    | none => s
    | some f =>
      if !(treeChildren m m.rank).all (collRoom s h m) then s
      else match collReach s key h (collElem c) { w := true } (collDest c m lo n) with
      | (s, .error e) => childMiss s key e
      | (s, .ok l) =>
        let s := l.foldl (fun s e => piecesWrite s key e.2.2 ((f.data.drop e.1).take e.2.1)) s
        let s := collUse (putChild s key { h with cursor := next }) key h [f]
        match collSendAll s key h (flit f.data true) (treeChildren m m.rank) with
        | .ok s => s
        | .error e => fail s e

/-- The next move of a collective child. One that has been resumed reads its communicator and member table again first, and what has
arrived for it meanwhile takes its place in RXBUF (R419). -/
def collMove (s : State) (key : Nat) (h : Child) : State :=
  collLoad s key h fun s h =>
    let s := rxPlaceAll (putChild s key h) key
    match getChild s key with
    | some h => collStep s key h
    | none => s

/-- Whether a collective has written its last chunk. -/
def collOver (h : Child) : Bool :=
  decide (h.req.desc.length > 8)
  && h.cursor.toNat == 2 ^ 32 + collChunks (collReq h.req.desc) (commOf (h.req.desc.drop 8))

/-- A flit that carries no chunk but tells its member that a context is not created, or returns credits (R417, R418). -/
def collNotice (s : State) (f : CollFlit) (key : Nat) (h : Child) : State :=
  if f.norank then memberFails s key h 0x111 0
  else putChild s key { h with owing := (List.range f.credit).foldl (fun l _ => l.erase f.src) h.owing }

/-- COLLECTIVE_FLIT_RECEIVE (R417, R419): the chunk is kept, and its member takes it if it may. One for a context that is not created goes
back as NORANK. -/
def collReceive (s : State) (f : CollFlit) : State :=
  if f.norank || f.credit != 0 then
    match collChild s f with
    | some (key, h) => collNotice s f key h
    | none => s
  else if !ctxCreated s f.dstCtx.val then
    if f.fail || f.srcMod.toNat = s.modid then s
    else (sendFlit s f.srcMod.toNat 0 4 2 f.srcCtx.val none false f.dstCtx.val (collPayload { f with norank := true, data := [] })).getD s
  else
    let s := collTake s f
    match collChild s f with
    | some (key, h) => if mayMove h then collMove s key h else s
    | none => s

end Sys2Proof.Machine
end

