-- ==== Sys2Proof/Machine/Matrix.lean ====
section
/-! DEFINITION. The Oxbow's routine descriptors and the X-class slots (spec/12_matrix.md R284-R300, R312-R317). -/

namespace Sys2Proof.Machine

/-! ## The routine descriptor (R299, R300) -/

/-- The fields of a routine descriptor. -/
structure Routine where
  pair : Nat
  fa : Nat
  fb : Nat
  fo : Nat
  sparse : Nat
  padm : Bool
  chk : Bool
  any : Bool
  zero : Bool
  act : Nat
  bias : Bool
  sr : Bool
  scale : Nat
  acc0 : Nat
  kl : Nat
  asp : Bool
  bsp : Bool
  dsp : Bool
  m : Nat
  n : Nat
  kstep : Nat
  /-- C0..C3 and ROLE0..ROLE3. -/
  c : List Nat
  role : List Nat
  fh : Nat
  fw : Nat
  sh : Nat
  sw : Nat
  dh : Nat
  dw : Nat
  phlo : Nat
  phhi : Nat
  pwlo : Nat
  pwhi : Nat
  win : Bool
  padc : Nat
  deriving DecidableEq, Repr

/-- Reads the fields; the window fields as their true values (R318). -/
def routineOf (d : List DWord) : Routine :=
  let w (i : Nat) : Nat := dwAt d i
  { pair := fld (w 0) 55 53, fa := fld (w 0) 52 49, fb := fld (w 0) 48 45, fo := fld (w 0) 44 41, sparse := fld (w 0) 40 39
    padm := bitOf (w 0) 38, chk := bitOf (w 0) 37, any := bitOf (w 0) 36, zero := bitOf (w 0) 35, act := fld (w 0) 34 32
    bias := bitOf (w 0) 31, sr := bitOf (w 0) 30, scale := fld (w 0) 29 28, acc0 := fld (w 0) 19 14
    kl := fld (w 1) 63 61, asp := bitOf (w 1) 60, bsp := bitOf (w 1) 59, dsp := bitOf (w 1) 58, m := fld (w 1) 55 47
    n := fld (w 1) 46 38, kstep := fld (w 1) 37 26
    c := (List.range 4).map fun j => fld (w 2) (16 * j + 15) (16 * j), role := (List.range 4).map fun j => fld (w 3) (2 * j + 1) (2 * j)
    fh := fld (w 3) 63 60 + 1, fw := fld (w 3) 59 56 + 1, sh := fld (w 3) 55 52 + 1, sw := fld (w 3) 51 48 + 1
    dh := fld (w 3) 47 44 + 1, dw := fld (w 3) 43 40 + 1, phlo := fld (w 3) 39 36, phhi := fld (w 3) 35 32
    pwlo := fld (w 3) 31 28, pwhi := fld (w 3) 27 24, win := bitOf (w 3) 23, padc := fld (w 6) 31 0 }

/-- The k-block of an operand format (R285). -/
def kBlock (fa : Nat) : Nat :=
  match fa with
  | 2 => 4
  | 3 | 4 => 16
  | _ => 32

/-- Whether an operand format accumulates in binary32 (R285). -/
def floatAcc (fa : Nat) : Bool := (2 ≤ fa && fa ≤ 6) || fa == 15

/-- Tiles of one output block. -/
def blockTiles (r : Routine) : Nat := (r.m + 63) / 64 * ((r.n + 63) / 64)

/-- ∏(Cj + 1) over the levels that a test of the role picks. -/
def levelProduct (r : Routine) (f : Nat → Bool) : Nat :=
  (List.range 4).foldl (fun p j => if f (r.role.getD j 0) then p * (r.c.getD j 0 + 1) else p) 1

/-- K of an output block, and the number of output blocks (R302). -/
def termCount (r : Routine) : Nat := r.kstep * levelProduct r (· == 0)
def blockCount (r : Routine) : Nat := levelProduct r (· != 0)

/-- A format fault of a descriptor (R300). -/
def routineBad (d : List DWord) : Bool :=
  let w (i : Nat) : Nat := dwAt d i
  let r := routineOf d
  fld (w 0) 63 56 != 1 || fld (w 0) 13 0 != 0 || fld (w 1) 57 56 != 0 || fld (w 1) 25 0 != 0 || fld (w 3) 22 8 != 0
  || fld (w 5) 15 0 != 0 || fld (w 6) 63 32 != 0 || w 7 != 0
  || r.sparse == 3 || decide (r.act ≥ 4) || r.scale == 3
  || !(if r.pair ≤ 5 then [2, 3, 4, 5, 6, 9, 10, 15].contains r.fa else r.fa == 13)
  || !(r.fb == r.fa || ([5, 6].contains r.fa && [5, 6].contains r.fb))
  || [10, 14, 15].contains r.fo || (r.sr && [12, 13].contains r.fo)
  || r.m == 0 || r.n == 0 || r.kstep == 0 || decide (r.m > 256) || decide (r.n > 256) || r.kstep % kBlock r.fa != 0
  || (r.chk && (r.pair != 0 || r.m == 256 || r.n == 256))
  || (r.fa == 15 && r.scale != 2) || ([9, 10, 13].contains r.fa && r.scale != 0)
  || decide (r.acc0 + blockTiles r > 64)
  || (List.range 4).any (fun j => r.role.getD j 0 == 0 && (List.range j).any fun i => r.role.getD i 0 != 0)
  || decide (termCount r > 2 ^ 32) || decide (blockCount r > 2 ^ 32)
  || (!r.win && fld (w 3) 63 24 != 0) || (r.fo == 0 && (fld (w 4) 31 16 != 0 || r.dsp || r.sr || r.act != 0))
  || (!r.bias && fld (w 4) 15 0 != 0) || (r.scale != 2 && fld (w 5) 63 32 != 0) || (r.scale == 0 && r.kl != 0)
  || (r.sparse == 0 && fld (w 5) 31 16 != 0) || (!r.padm && r.padc != 0)

/-! ## Tiles (R284, R286) -/

/-- The key of an element of a tile of a core: the tile's number in the module, the row and the column. -/
def accKey (core t r c : Nat) : Nat := (core * 64 + t) * 4096 + r * 64 + c

/-- An element of a tile. -/
def accElem (s : State) (core t r c : Nat) : Word := tget 0 s.acc (accKey core t r c)

/-- Who holds a tile. -/
def tileHolder (s : State) (core t : Nat) : TileHolder := tget .free (getCore s core).tiles t

/-- Whether an unended child of a core uses a tile (R286). -/
def tileUsed (s : State) (core t : Nat) : Bool := (tileUsers s core (fun _ _ => true) t).isSome

/-- The routine-table entry of a core. -/
def routineEntry (s : State) (core i : Nat) : Option RoutineEntry := tget none (getCore s core).routines i

/-- Whether a group holds an entry, and a tile. -/
def holdsEntry (s : State) (loc i : Nat) : Bool :=
  match routineEntry s (coreOf loc) i with
  | some e => e.holder == loc
  | none => false
def holdsTile (s : State) (loc t : Nat) : Bool := decide (tileHolder s (coreOf loc) t = .group loc)

/-! ## The X-class slots (R312-R317) -/

/-- MXDEF of an entry from memory (R313): it waits to issue while another group holds the entry (R287), and the read is made
once every earlier access of the path has performed. -/
def xDefine (c : SC) (i : Nat) : State × SlotRes :=
  let va := spair c.g c.pt c.a
  let held := match routineEntry c.s (coreOf c.is.loc) i with
    | some e => e.holder != c.is.loc
    | none => false
  if held then (c.s, .hold)
  else if va.2 then (c.s, trapOf 7)
  else if va.1 ≥ 2 ^ 57 then (c.s, trapOf 4 va.1)
  else if va.1 % 64 ≠ 0 then (c.s, trapOf 3 va.1)
  else if pathBusy c then (c.s, .hold)
  else match translateNow c.s (coreUnit c.is.loc) c.g.ctx va.1 { r := true } with
    | (_, .hold) => (c.s, .hold)
    | (s, .fault 1 level) => (s, .park { source := 4, access := 1, va := va.1, slot := c.is.idx, level := level })
    | (s, .fault _ _) => (s, trapOf 6 va.1)
    | (s, .ok pa) =>
      let d := mem64s s.mem pa 8
      if routineBad d then (s, trapOf 2)
      else (s, .ok [.routine i d] 0 [])

/-- MXDEF, its release form by A = 63 (R313). -/
def xMxdef : Meaning := consuming fun c =>
  let i := uB true c
  if i.val.toNat > 255 then (c.s, trapOf 2)
  else if c.a = 63 then
    if !holdsEntry c.s c.is.loc i.val.toNat then (c.s, trapOf 2)
    else if i.poison then (c.s, trapOf 7)
    else (c.s, .ok [.routineFree i.val.toNat] 0 [])
  else if i.poison then (c.s, trapOf 7)
  else xDefine c i.val.toNat

/-- The registers that MXCALL reads beyond its fields. -/
def xCallUses : List RegUse := [⟨.x, 0, 4, false⟩, ⟨.x, 7, 1, false⟩]

/-- MXCALL (R314). -/
def xMxcall : Meaning := consuming (withUses (fun _ => xCallUses) (pureM fun c =>
  let e := uA c
  let pred : PWord := if c.b = 63 then ⟨0, false⟩ else sreg c.g c.pt c.b
  match routineEntry c.s (coreOf c.is.loc) e.val.toNat with
  | none => trapOf 2
  | some q =>
    let r := routineOf q.desc
    if e.val.toNat > 255 || q.holder ≠ c.is.loc
        || !(List.range (blockTiles r)).all (fun i => holdsTile c.s c.is.loc (r.acc0 + i)) then trapOf 2
    else if e.poison || pred.poison then trapOf 7
    else
      createSlot c { cls := 0, pred := pred.val, any := r.any, det := c.mod.det, scope := scopeOr4 c, cache := c.mod.cache.toNat
                     desc := q.desc, x := [0, 1, 2, 3, 7].map fun j => tget 0 c.g.x j, latch := tget 0 c.g.k r.kl
                     rm := c.rm } []))

/-- MXPARM (R315). -/
def xMxparm : Meaning := consuming (pureM fun c =>
  let p := if c.a = 63 then (0, false) else spair c.g c.pt c.a
  let v := match c.w.imm with
    | some x => signExt64 24 x.toNat
    | none => 0
  if p.2 then trapOf 7 else .ok [.result 2 [.x c.d (BitVec.ofNat 64 (p.1 + v))]] 0 [])

/-- MXACC (R316). -/
def xMxacc : Meaning := consuming (pureM fun c =>
  let w := uB true c
  let ctl := w.val.toNat
  let row := ctl % 64
  let dir := bitOf ctl 8
  let xf := bitOf ctl 9
  let core := coreOf c.is.loc
  let cells : List (Nat × Nat) := (List.range 4).flatMap fun j => (lanesOf c.pt.mask).map fun l => (j, l)
  if ctl / 1024 ≠ 0 || ctl / 64 % 4 ≠ 0 || !holdsTile c.s c.is.loc c.a || (xf && (dir || row ≠ 0)) then trapOf 2
  else if w.poison then trapOf 7
  else if dir && cells.any (fun e => (vreg c.g (c.d + e.1) e.2).poison) then
    trapOf 7 0 (maskOf fun l => c.pt.mask.getLsbD l && (List.range 4).any fun j => (vreg c.g (c.d + j) l).poison)
  else if tileUsed c.s core c.a then .hold
  else if xf then
    .ok [.result 16 ((lanesOf c.pt.mask).map fun l =>
      .v c.d l ⟨(tget (0 : BitVec 5) (getCore c.s core).xflags c.a).setWidth 32, false⟩)] 0 []
  else if dir then
    .ok [.tileWrite c.a (cells.map fun e => (64 * row + 16 * e.1 + e.2, (vreg c.g (c.d + e.1) e.2).val))] 0 []
  else .ok [.result 16 (cells.map fun e => .v (c.d + e.1) e.2 ⟨accElem c.s core c.a row (16 * e.1 + e.2), false⟩)] 0 [])

/-- MXZERO (R317). -/
def xMxzero : Meaning := consuming (pureM fun c =>
  let w := uB true c
  let ctl := w.val.toNat
  let n := ctl % 16 + 1
  let core := coreOf c.is.loc
  let ts := (List.range n).map (c.a + ·)
  if ctl / 512 ≠ 0 || ctl / 16 % 16 ≠ 0 then trapOf 2
  else if bitOf ctl 8 && ts.any (fun t => decide (t < 64) && !holdsTile c.s c.is.loc t) then trapOf 2
  else if w.poison then trapOf 7
  else if c.a + n > 64 then trapOf 4
  else if ts.any (tileUsed c.s core) then (if bitOf ctl 8 then .hold else .wait)
  else if bitOf ctl 8 then .ok [.tilesFree c.a n] 0 []
  else if ts.any (fun t => decide (tileHolder c.s core t ≠ .free) && !holdsTile c.s c.is.loc t) then .wait
  else .ok [.tilesZero c.a n] 0 [])

/-! ## Their effects at commit -/

/-- An entry of the routine table is filled or freed (R313). -/
def putRoutine (s : State) (loc i : Nat) (e : Option (List DWord)) : State :=
  modCore s (coreOf loc) fun k => { k with routines := tput none k.routines i (e.map fun d => ⟨loc, d⟩) }

/-- Tiles become a group's, zero with no flag (R317). -/
def tilesZeroCommit (s : State) (loc t n : Nat) : State :=
  let core := coreOf loc
  let s := modCore s core fun k => { k with
    tiles := (List.range n).foldl (fun x i => tput .free x (t + i) (.group loc)) k.tiles
    xflags := (List.range n).foldl (fun x i => tput 0 x (t + i) 0) k.xflags }
  { s with acc := tclear s.acc (accKey core t 0 0) (4096 * n) }

/-- Tiles become free (R317). -/
def tilesFreeCommit (s : State) (loc t n : Nat) : State :=
  modCore s (coreOf loc) fun k => { k with tiles := (List.range n).foldl (fun x i => tput .free x (t + i) .free) k.tiles }

/-- Elements of a tile are written (R316). -/
def tileWriteCommit (s : State) (loc t : Nat) (l : List (Nat × Word)) : State :=
  { s with acc := l.foldl (fun a e => tput 0 a (accKey (coreOf loc) t 0 0 + e.1) e.2) s.acc }

end Sys2Proof.Machine
end

