-- ==== Sys2Proof/Machine/Sums.lean ====
section
/-! DEFINITION. Sums of products formed exactly and rounded once, as the Oxbow, the graphics unit and Tarn form them
(spec/02_numbers.md R47, R49; spec/14_graphics.md R342, R345, R349). -/

namespace Sys2Proof.Machine

/-- The exact product of two values; infinity times zero is NaN. -/
def prodExact (a b : FVal) : FVal :=
  match a, b with
  | .fin n1 m1 e1, .fin n2 m2 e2 => .fin (n1 != n2) (m1 * m2) (e1 + e2)
  | .inf n1, .inf n2 => .inf (n1 != n2)
  | .inf n1, .fin n2 m _ => if m = 0 then .nan false else .inf (n1 != n2)
  | .fin n1 m _, .inf n2 => if m = 0 then .nan false else .inf (n1 != n2)
  | _, _ => .nan false

/-- The exact sum of values: NaN if one is or if infinities of both signs meet; an exact zero is negative only if every
value is, or under rounding toward −∞ unless every value is positive (R27). -/
def sumExact (rm : Nat) (l : List FVal) : FVal :=
  let infs := l.filterMap fun v => match v with
    | .inf n => some n
    | _ => none
  if l.any isNaN then .nan false
  else match infs with
    | n :: t => if t.contains (!n) then .nan false else .inf n
    | [] =>
      let fins := l.filterMap fun v => match v with
        | .fin n m e => some (n, m, e)
        | _ => none
      let q := fins.foldl (fun q x => min q x.2.2) 0
      let t := (fins.map fun x => inUnits x.1 x.2.1 x.2.2 q).sum
      if t = 0 then .fin (if fins.all (fun x => x.2.1 == 0 && x.1) then true
                          else if fins.all (fun x => x.2.1 == 0 && !x.1) then false else rm == 3) 0 q
      else .fin (decide (t < 0)) t.natAbs q

/-- An exact value over a positive divisor, rounded once. -/
def roundOver (f : Fmt) (rm : Nat) (v : FVal) (den : Nat) : Nat × BitVec 6 :=
  match v with
  | .nan _ => (canonNaN f, 0)
  | .inf n => (infCode f n, 0)
  | .fin n m e => roundF f rm { neg := n, num := m, den := den, e := e }

/-- The sum of values rounded once. -/
def sumOnce (f : Fmt) (rm : Nat) (l : List FVal) : Nat × BitVec 6 := roundOver f rm (sumExact rm l) 1

/-- An integer as a value. -/
def intVal (i : Int) : FVal := .fin (decide (i < 0)) i.natAbs 0

end Sys2Proof.Machine
end

