-- ==== Sys2Proof/Machine/Oxbow.lean ====
section
/-! DEFINITION. What an Oxbow call computes: output blocks, operands with windows, sparsity and scales, the eight operator
pairs, and the drain (spec/12_matrix.md R284-R311; spec/13_windows.md R318-R328). The same computation serves Tarn's Oxbow
(spec/19_presentation.md R440). -/

namespace Sys2Proof.Machine

/-! ## A call -/

/-- What a running call reads: where it runs and whose accesses it makes, its descriptor, its tensors (A, B, D, bias, TSA,
TSB, TMETA), x0..x3 and x7, the latch, the rounding mode and the launch's key. -/
structure MxJob where
  tarn : Bool
  core : Nat
  ctx : Nat
  tu : TUnit
  who : Agent
  set : Option SetRec
  key : BitVec 128
  r : Routine
  tens : List (List DWord)
  x : List DWord
  latch : Word
  rm : Nat
  deriving DecidableEq, Repr

def MxJob.tensor (j : MxJob) (i : Nat) : Tensor := tensorOf (j.tens.getD i [])

/-- Halves of x(i) as signed coordinates, and 16-bit fields of x3. -/
def MxJob.xlo (j : MxJob) (i : Nat) : Int := toSigned 32 (dwAt j.x i % 2 ^ 32)
def MxJob.xhi (j : MxJob) (i : Nat) : Int := toSigned 32 (dwAt j.x i / 2 ^ 32)
def MxJob.x3 (j : MxJob) (hi lo : Nat) : Nat := fld (dwAt j.x 3) hi lo

/-- An element of the call's accumulator store, and its update. -/
def mxElem (s : State) (j : MxJob) (t r c : Nat) : Word :=
  if j.tarn then tget 0 s.tarnAcc (accKey 0 t r c) else accElem s j.core t r c
def mxPut (s : State) (j : MxJob) (t r c : Nat) (w : Word) : State :=
  if j.tarn then { s with tarnAcc := tput 0 s.tarnAcc (accKey 0 t r c) w } else { s with acc := tput 0 s.acc (accKey j.core t r c) w }

/-- Flags raised in a tile's elements are ORed into its XFLAGS; DZ is never set (R284). -/
def mxFlag (s : State) (j : MxJob) (t : Nat) (f : BitVec 6) : State :=
  let f : BitVec 5 := f.setWidth 5 &&& 0x1D
  if j.tarn then { s with tarnXflags := tput 0 s.tarnXflags t (tget 0 s.tarnXflags t ||| f) }
  else modCore s j.core fun k => { k with xflags := tput 0 k.xflags t (tget 0 k.xflags t ||| f) }

/-- The tile, row and column of E(m, n) (R302). -/
def mxPlace (r : Routine) (m n : Nat) : Nat × Nat × Nat := (r.acc0 + m / 64 * ((r.n + 63) / 64) + n / 64, m % 64, n % 64)

/-- mOff, nOff and bOff of output block `o` (R302): the levels that are not K are counted from the innermost out. -/
def mxOffsets (r : Routine) (o : Nat) : Nat × Nat × Nat :=
  let go := (List.range 4).foldl (fun (st : Nat × (Nat × Nat × Nat) × (Nat × Nat × Nat)) j =>
    let (o, (pm, pn, pb), (m, n, b)) := st
    let k := r.c.getD j 0 + 1
    let i := o % k
    match r.role.getD j 0 with
    | 1 => (o / k, (pm * k, pn, pb), (m + i * r.m * pm, n, b))
    | 2 => (o / k, (pm, pn * k, pb), (m, n + i * r.n * pn, b))
    | 3 => (o / k, (pm, pn, pb * k), (m, n, b + i * pb))
    | _ => st) (o, (1, 1, 1), (0, 0, 0))
  go.2.2

/-! ## Reading elements (R221, R290, R303) -/

/-- Where an element lies: absent, padding that takes PADC, outside a tensor that faults, a row that is void, or an address
with its bit. -/
inductive ElemLoc where
  | absent
  | pad
  | outside
  | void
  | at (ea bit : Nat)
  deriving DecidableEq, Repr

/-- A coordinate sum modulo 2^32, signed. -/
def wrap32 (i : Int) : Int := toSigned 32 (ofSigned 32 i)

/-- Where coordinates lie in a tensor; `off` is what BORDER zero gives. -/
def elemLoc (t : Tensor) (ix : List Int) (off : ElemLoc) : ElemLoc :=
  match borderCoords t ix with
  | some l => let a := elemAddress t l; .at a.1 a.2
  | none => if t.border = 1 then off else .outside

/-- A stateful step over a list, up to the first failure. -/
def eachS {α β : Type} (f : State → α → State × Except Reach β) : State → List α → State × Except Reach (List β)
  | s, [] => (s, .ok [])
  | s, a :: t =>
    match f s a with
    | (s, .error e) => (s, .error e)
    | (s, .ok b) =>
      match eachS f s t with
      | (s, .error e) => (s, .error e)
      | (s, .ok l) => (s, .ok (b :: l))

/-- The pieces of an element's bytes in its space. -/
def mxReach (s : State) (j : MxJob) (pond : Bool) (ea n : Nat) (need : Need) : State × Reach :=
  if pond then (s, pondReach s j.set ea n 2) else globalReach s j.tu j.ctx ea n need

/-- The code of an element, and the whole byte that holds it. -/
def mxCode (s : State) (j : MxJob) (pond : Bool) (t : Tensor) (ea bit : Nat) : State × Except Reach (Nat × Nat) :=
  let w := elemWidth t.fmt
  match mxReach s j pond ea (max 1 (w / 8)) { r := true } with
  | (s, .ok l) => let x := leNat (piecesRead s l []); (takeIn j.who (localLines l) s, .ok (x / 2 ^ bit % 2 ^ w, x))
  | (s, e) => (s, .error e)

/-- The code of a side tensor's element (scales, metadata): `off` under BORDER zero. -/
def mxSide (s : State) (j : MxJob) (i : Nat) (ix : List Int) (off : Nat) : State × Except Reach Nat :=
  let t := j.tensor i
  match elemLoc t ix .absent with
  | .at ea bit =>
    match mxCode s j false t ea bit with
    | (s, .ok x) => (s, .ok x.1)
    | (s, .error e) => (s, .error e)
  | .outside => (s, .error (.fault 4 0))
  | _ => (s, .ok off)

/-! ## Operands -/

/-- An operand of a term: a float or an integer, its scale code, and the invalid mark of a Q4O byte (R33). -/
structure Opnd where
  f : FVal := .fin false 0 0
  i : Int := 0
  sc : Option Nat := none
  nv : Bool := false
  deriving DecidableEq, Repr

/-- Decodes an operand of a format from its code and byte (R24-R33, R285). -/
def opndOf (fmt code byte bit : Nat) (sc : Option Nat) : Opnd :=
  match floatFmt fmt with
  | some m => { f := decodeF m code, sc := sc }
  | none =>
    match fmt with
    | 15 =>
      let q := q4Decode byte
      let i := if bit = 0 then q.1 else q.2.1
      { f := .fin (decide (i < 0)) i.natAbs 0, sc := sc, nv := q.2.2 }
    | 13 => { i := code }
    | _ => { i := toSigned (elemWidth fmt) code }

/-- PADC as an operand, which no scale touches (R290, R296). -/
def padOpnd (r : Routine) : Opnd := if floatAcc r.fa then { f := decodeF binary32 r.padc } else { i := toSigned 32 r.padc }

/-- OH and OW (R319). -/
def outExtents (r : Routine) (t : Tensor) : Int × Int :=
  let one (e lo hi f d st : Nat) : Int := ((e : Int) + lo + hi - ((f - 1) * d + 1 : Nat)) / (st : Int) + 1
  (one (t.ext.getD 2 0) r.phlo r.phhi r.fh r.dh r.sh, one (t.ext.getD 1 0) r.pwlo r.pwhi r.fw r.dw r.sw)

/-- A(m, k) through the window map (R320, R321). -/
def windowLoc (j : MxJob) (mOff bOff m k : Nat) : ElemLoc :=
  let r := j.r
  let t := j.tensor 0
  let (oh, ow) := outExtents r t
  let m' := mOff + m
  let ox := m' % ow.toNat
  let oy : Int := j.xhi 0 + (m' / ow.toNat : Nat)
  if oy < 0 ∨ oh ≤ oy then .void
  else
    let c := k % r.kstep
    let f := k / r.kstep
    let fy := f / r.fw
    let fx := f % r.fw
    let i0 : Int := j.xlo 0 + c
    if f ≥ r.fh * r.fw ∨ i0 < 0 ∨ (t.ext.getD 0 0 : Int) ≤ i0 then .absent
    else
      let iy : Int := oy * r.sh - r.phlo + (fy * r.dh : Nat)
      let ix : Int := (ox * r.sw : Nat) - (r.pwlo : Int) + (fx * r.dw : Nat)
      if iy < 0 ∨ (t.ext.getD 2 0 : Int) ≤ iy ∨ ix < 0 ∨ (t.ext.getD 1 0 : Int) ≤ ix then (if r.padm then .pad else .absent)
      else elemLoc t [i0, ix, iy, ((j.x3 47 32 + bOff : Nat) : Int), (j.x3 63 48 : Nat)] (if r.padm then .pad else .absent)

/-- The place of logical position k in a 2:4 compressed row (R291): from a metadata nibble, or none if skipped; a nibble that
breaks p0 < p1 faults. -/
def sparsePlace (nib k : Nat) : Except Reach (Option Nat) :=
  let p0 := nib % 4
  let p1 := nib / 4 % 4
  if p0 ≥ p1 then .error (.fault 0x100 0)
  else .ok (if k % 4 = p0 then some (2 * (k / 4)) else if k % 4 = p1 then some (2 * (k / 4) + 1) else none)

/-- Where A(m, k) lies (R291, R303, R320). -/
def aLoc (j : MxJob) (off : Nat × Nat × Nat) (k : Nat) (s : State) (m : Nat) : State × Except Reach ElemLoc :=
  let r := j.r
  let (mOff, _, bOff) := off
  let off0 : ElemLoc := if r.padm then .pad else .absent
  let rest : List Int := [wrap32 (j.xhi 0 + mOff + m), wrap32 ((j.x3 47 32 : Nat) + (bOff : Int))]
  if r.win then (s, .ok (windowLoc j mOff bOff m k))
  else if r.sparse = 1 then
    match mxSide s j 6 [((k / 4 : Nat) : Int), ((mOff + m : Nat) : Int)] 0 with
    | (s, .error e) => (s, .error e)
    | (s, .ok nib) =>
      match sparsePlace nib k with
      | .error e => (s, .error e)
      | .ok none => (s, .ok .absent)
      | .ok (some p) => (s, .ok (elemLoc (j.tensor 0) (wrap32 (j.xlo 0 / 2 + p) :: rest) off0))
  else (s, .ok (elemLoc (j.tensor 0) (wrap32 (j.xlo 0 + k) :: rest) off0))

/-- Where B(k, n) lies. -/
def bLoc (j : MxJob) (off : Nat × Nat × Nat) (k : Nat) (s : State) (n : Nat) : State × Except Reach ElemLoc :=
  let r := j.r
  let (_, nOff, bOff) := off
  let off0 : ElemLoc := if r.padm then .pad else .absent
  let i0 := wrap32 (j.xlo 1 + nOff + n)
  let i2 := wrap32 ((j.x3 31 16 : Nat) + (bOff : Int))
  if r.sparse = 2 then
    match mxSide s j 6 [((nOff + n : Nat) : Int), ((k / 4 : Nat) : Int)] 0 with
    | (s, .error e) => (s, .error e)
    | (s, .ok nib) =>
      match sparsePlace nib k with
      | .error e => (s, .error e)
      | .ok none => (s, .ok .absent)
      | .ok (some p) => (s, .ok (elemLoc (j.tensor 1) [i0, wrap32 (j.xhi 1 / 2 + p), i2] off0))
  else (s, .ok (elemLoc (j.tensor 1) [i0, wrap32 (j.xhi 1 + k), i2] off0))

/-- The scale code of A(m, k) or B(k, n) (R296). -/
def aScale (j : MxJob) (off : Nat × Nat × Nat) (m k : Nat) (s : State) : State × Except Reach (Option Nat) :=
  let (mOff, _, bOff) := off
  match j.r.scale with
  | 0 => (s, .ok none)
  | 1 => (s, .ok (some (j.latch.toNat % 256)))
  | _ =>
    let ix : List Int := if j.r.win then [((k / 32 : Nat) : Int), ((mOff + m : Nat) : Int)]
      else [wrap32 (j.xlo 0 + k) / 32, wrap32 (j.xhi 0 + mOff + m), wrap32 ((j.x3 47 32 : Nat) + (bOff : Int))]
    match mxSide s j 4 ix 127 with
    | (s, .ok x) => (s, .ok (some x))
    | (s, .error e) => (s, .error e)

def bScale (j : MxJob) (off : Nat × Nat × Nat) (n k : Nat) (s : State) : State × Except Reach (Option Nat) :=
  let (_, nOff, bOff) := off
  match j.r.scale with
  | 0 => (s, .ok none)
  | 1 => (s, .ok (some (j.latch.toNat / 256 % 256)))
  | _ =>
    match mxSide s j 5 [wrap32 (j.xlo 1 + nOff + n), wrap32 (j.xhi 1 + k) / 32, wrap32 ((j.x3 31 16 : Nat) + (bOff : Int))] 127 with
    | (s, .ok x) => (s, .ok (some x))
    | (s, .error e) => (s, .error e)

/-- Reads an operand at its place; none if it is absent. -/
def readOpnd (j : MxJob) (isB : Bool) (sc : State → State × Except Reach (Option Nat)) (s : State) (l : ElemLoc) :
    State × Except Reach (Option Opnd) :=
  let t := j.tensor (if isB then 1 else 0)
  match l with
  | .absent | .void => (s, .ok none)
  | .pad => (s, .ok (some (padOpnd j.r)))
  | .outside => (s, .error (.fault 4 0))
  | .at ea bit =>
    match mxCode s j (if isB then j.r.bsp else j.r.asp) t ea bit with
    | (s, .error e) => (s, .error e)
    | (s, .ok x) =>
      match sc s with
      | (s, .error e) => (s, .error e)
      | (s, .ok c) => (s, .ok (some (opndOf t.fmt x.1 x.2 bit c)))

/-! ## Terms of pair 0 (R47, R292, R293) -/

/-- A finite value rounded once to binary32, to nearest even. -/
def round32 (neg : Bool) (m : Nat) (e : Int) : FVal × BitVec 6 :=
  if m = 0 then (.fin neg 0 0, 0)
  else let q := roundF binary32 0 { neg := neg, num := m, e := e }; (decodeF binary32 q.1, q.2)

/-- The exponent that a scale code adds. DESIGN CHOICE (notes/assumptions/25.md): R32 sets the invalid flag once for the bundle, and names no flag
of a call; an operand's scale of 0xFF makes NaN products and sets no flag of XFLAGS. -/
def scaleExp (o : Opnd) : Int := match o.sc with
  | some c => (c : Int) - 127
  | none => 0
def scaleNaN (o : Opnd) : Bool := o.sc == some 255

/-- The invalid flags of a term's operands. -/
def opndFlags (a b : Opnd) : BitVec 6 := sigFlag [a.f, b.f] ||| flagIf (a.nv || b.nv) fNV

/-- The exact scaled product; of binary32 operands rounded once. -/
def product (fa : Nat) (a b : Opnd) : FVal × BitVec 6 :=
  let fl := opndFlags a b
  if isNaN a.f || isNaN b.f || scaleNaN a || scaleNaN b then (.nan false, fl)
  else match a.f, b.f with
    | .fin n1 m1 e1, .fin n2 m2 e2 =>
      let e := e1 + e2 + scaleExp a + scaleExp b
      if fa = 2 then let q := round32 (n1 != n2) (m1 * m2) e; (q.1, q.2 ||| fl) else (.fin (n1 != n2) (m1 * m2) e, fl)
    | .inf n1, .inf n2 => (.inf (n1 != n2), fl)
    | .inf n1, .fin n2 m2 _ => if m2 = 0 then (.nan false, fl ||| fNV) else (.inf (n1 != n2), fl)
    | .fin n1 m1 _, .inf n2 => if m1 = 0 then (.nan false, fl ||| fNV) else (.inf (n1 != n2), fl)
    | _, _ => (.nan false, fl)

/-- The exact sum of a block's products, rounded once. -/
def blockSum (l : List FVal) : FVal × BitVec 6 :=
  let v := sumExact 0 l
  match v with
  | .fin n m e => round32 n m e
  | .inf _ => (v, 0)
  | .nan _ => (v, flagIf (!l.any isNaN) fNV)

/-- A NaN that an accumulator element holds is quiet here: it is no operand of a term. -/
def quiet : FVal → FVal
  | .nan _ => .nan false
  | v => v

/-! ## Terms of pairs 1 to 5 (R288, R289, R292, R296) -/

/-- A scaled operand in binary32. -/
def toF32 (o : Opnd) : FVal × BitVec 6 :=
  let nv := flagIf o.nv fNV
  if scaleNaN o then (.nan false, sigFlag [o.f] ||| nv)
  else match o.f with
    | .nan _ => (.nan false, sigFlag [o.f] ||| nv)
    | .inf n => (.inf n, nv)
    | .fin n m e => let q := round32 n m (e + scaleExp o); (q.1, q.2 ||| nv)

/-- The smaller or greater of two floats, NaN if either is. -/
def pick32 (mx : Bool) (a b : FVal) : FVal :=
  if isNaN a || isNaN b then .nan false else decodeF binary32 (fminmax mx binary32 a b).1

/-- ⊗ on floats. -/
def termF (pair : Nat) (a b : FVal) : FVal × BitVec 6 :=
  if isNaN a || isNaN b then (.nan false, 0)
  else match pair, a, b with
    | 1, .inf x, .inf y => (.inf (x && y), 0)
    | 2, .inf x, .inf y => (.inf (x || y), 0)
    | 3, .inf _, .fin _ 0 _ => (.inf true, 0)
    | 3, .fin _ 0 _, .inf _ => (.inf true, 0)
    | 3, _, _ => let q := fmul binary32 0 a b; (decodeF binary32 q.1, q.2)
    | 4, _, _ => (pick32 false a b, 0)
    | 5, _, _ => (pick32 true a b, 0)
    | _, _, _ => let q := fadd binary32 0 a b; (decodeF binary32 q.1, q.2)

/-- The infinities of an INT32 accumulator (R289). -/
def posInf32 : Int := 0x7FFFFFFF
def negInf32 : Int := -0x80000000

/-- A finite integer result; past the limits it is the nearer infinity, with OF and NX (R289, R292). -/
def limit32 (x : Int) : Int × BitVec 6 :=
  if x > posInf32 - 1 then (posInf32, fOF ||| fNX) else if x < negInf32 + 1 then (negInf32, fOF ||| fNX) else (x, 0)

/-- ⊗ on integers. -/
def termI (pair : Nat) (a b : Int) : Int × BitVec 6 :=
  let isInf (x : Int) : Bool := x == posInf32 || x == negInf32
  match pair with
  | 4 => (min a b, 0)
  | 5 => (max a b, 0)
  | 3 =>
    if isInf a || isInf b then
      (if a = 0 ∨ b = 0 then (negInf32, 0) else if decide (a < 0) == decide (b < 0) then (posInf32, 0) else (negInf32, 0))
    else limit32 (a * b)
  | p =>
    if isInf a && isInf b && a != b then ((if p = 1 then posInf32 else negInf32), 0)
    else if isInf a then (a, 0)
    else if isInf b then (b, 0)
    else limit32 (a + b)

/-- Whether ⊕ is max. -/
def oplusMax (pair : Nat) : Bool := pair == 2 || pair == 3 || pair == 4

/-! ## A k-block of one element (R302) -/

/-- The identity of ⊕ as the accumulator holds it (R288, R289). -/
def identity (r : Routine) : Word :=
  let f := floatAcc r.fa
  match r.pair with
  | 1 | 5 => if f then 0x7F800000 else 0x7FFFFFFF
  | 2 | 3 | 4 => if f then 0xFF800000 else 0x80000000
  | _ => 0

/-- One term combined into an element under pairs 1 to 7. -/
def combineTerm (r : Routine) (st : Word × BitVec 6) (a b : Opnd) : Word × BitVec 6 :=
  let (e, fl) := st
  if r.pair = 6 then (e ||| BitVec.ofInt 32 (a.i * b.i % 2), fl)
  else if r.pair = 7 then (e ^^^ BitVec.ofInt 32 (a.i * b.i % 2), fl)
  else if floatAcc r.fa then
    let x := toF32 a
    let y := toF32 b
    let t := termF r.pair x.1 y.1
    let old := quiet (decodeF binary32 e.toNat)
    let v := pick32 (oplusMax r.pair) old t.1
    (BitVec.ofNat 32 (encodeF binary32 v), fl ||| x.2 ||| y.2 ||| t.2)
  else
    let t := termI r.pair a.i b.i
    (BitVec.ofInt 32 (if oplusMax r.pair then max e.toInt t.1 else min e.toInt t.1), fl ||| t.2)

/-- A k-block combined into an element: its terms that are not absent, in order. -/
def combineBlock (r : Routine) (e : Word) (terms : List (Opnd × Opnd)) : Word × BitVec 6 :=
  if terms.isEmpty then (e, 0)
  else if r.pair ≠ 0 then terms.foldl (fun st t => combineTerm r st t.1 t.2) (e, 0)
  else if floatAcc r.fa then
    let ps := terms.map fun t => product r.fa t.1 t.2
    let b := blockSum (ps.map (·.1))
    let q := fadd binary32 0 (quiet (decodeF binary32 e.toNat)) b.1
    (BitVec.ofNat 32 q.1, (ps.map (·.2)).foldl (· ||| ·) (b.2 ||| q.2))
  else (BitVec.ofInt 32 (e.toInt + (terms.map fun t => t.1.i * t.2.i).sum), 0)

/-- The pairs of operands of a term that neither side makes absent. -/
def pairTerms : List (Option Opnd) → List (Option Opnd) → List (Opnd × Opnd)
  | some a :: t, some b :: u => (a, b) :: pairTerms t u
  | _ :: t, _ :: u => pairTerms t u
  | _, _ => []

/-- Whether a place gives an operand. -/
def present : ElemLoc → Bool
  | .absent | .void => false
  | _ => true

/-- Column `i` of a list of rows. -/
def column {α : Type} (d : α) (rows : List (List α)) (i : Nat) : List α := rows.map fun r => r.getD i d

/-- The operands of a k-block: A by rows m, B by columns n, each along k; under a window A is read at every place in the image
(R321). DESIGN CHOICE (notes/assumptions/26.md): any other place is read, and can fault, only if some partner at its k is present,
which R321 says for windows and no rule for other calls. With them the rows that are void. -/
def mxOperands (s : State) (j : MxJob) (off : Nat × Nat × Nat) (ks : List Nat) :
    State × Except Reach (List (List (Option Opnd)) × List (List (Option Opnd)) × List Bool) :=
  let r := j.r
  match eachS (fun s k => eachS (aLoc j off k) s (List.range r.m)) s ks with
  | (s, .error e) => (s, .error e)
  | (s, .ok la) =>
    match eachS (fun s k => eachS (bLoc j off k) s (List.range r.n)) s ks with
    | (s, .error e) => (s, .error e)
    | (s, .ok lb) =>
      let useful (l other : List (List ElemLoc)) : List (List ElemLoc) :=
        List.zipWith (fun x y => if y.any present then x else x.map fun _ => .absent) l other
      let rd (isB : Bool) (sc : Nat → Nat → State → State × Except Reach (Option Nat)) (s : State) (ks : List Nat) (l : List (List ElemLoc)) :=
        eachS (fun s (e : Nat × List ElemLoc) =>
          eachS (fun s (q : Nat × ElemLoc) => readOpnd j isB (sc q.1 e.1) s q.2) s ((List.range e.2.length).zip e.2)) s (ks.zip l)
      match rd false (fun m k => aScale j off m k) s ks (if r.win then la else useful la lb) with
      | (s, .error e) => (s, .error e)
      | (s, .ok va) =>
        match rd true (fun n k => bScale j off n k) s ks (useful lb la) with
        | (s, .error e) => (s, .error e)
        | (s, .ok vb) =>
          (s, .ok ((List.range r.m).map (column none va), (List.range r.n).map (column none vb),
            (List.range r.m).map fun m => (column ElemLoc.absent la m).any (· == .void)))

/-- All elements of an output block take a k-block. -/
def mxCombine (s : State) (j : MxJob) (first : Bool) (va vb : List (List (Option Opnd))) (void : List Bool) : State :=
  (List.range j.r.m).foldl (fun s m =>
    if void.getD m false then s
    else (List.range j.r.n).foldl (fun s n =>
      let (t, row, col) := mxPlace j.r m n
      let e := if first && j.r.zero then identity j.r else mxElem s j t row col
      let q := combineBlock j.r e (pairTerms (va.getD m []) (vb.getD n []))
      mxFlag (mxPut s j t row col q.1) j t q.2) s) s

/-! ## Drain (R304, R305) -/

/-- A value to drain: exact, with its flags; an output scale of 0xFF is a NaN and invalid (R32, R304). -/
def scaledOut (j : MxJob) (e : Word) : Elem × BitVec 6 :=
  if !floatAcc j.r.fa then (.num { neg := decide (e.toInt < 0), num := e.toInt.natAbs, e := 0 }, 0)
  else
    let v := quiet (decodeF binary32 e.toNat)
    if j.r.scale = 0 then (elemOfF v, 0)
    else
      let so := j.latch.toNat / 65536 % 256
      if so = 255 then (.nan false, fNV)
      else match v with
        | .fin n m x => let q := round32 n m (x + (so : Int) - 127); (elemOfF q.1, q.2)
        | v => (elemOfF v, 0)

/-- An exact value as a decoded float again. -/
def elemFVal : Elem → FVal
  | .nan s => .nan s
  | .inf n => .inf n
  | .num x => .fin x.neg x.num x.e

/-- Adds the bias (R304): its code; none leaves the value. -/
def addBias (j : MxJob) (v : Elem × BitVec 6) (b : Option Nat) : Elem × BitVec 6 :=
  match b with
  | none => v
  | some c =>
    if floatAcc j.r.fa then let q := fadd binary32 0 (elemFVal v.1) (decodeF binary32 c); (elemOfF (quiet (decodeF binary32 q.1)), v.2 ||| q.2)
    else match v.1 with
      | .num x =>
        let i := toSigned 32 (ofSigned 32 ((if x.neg then -(x.num : Int) else x.num) + toSigned 32 c))
        (.num { neg := decide (i < 0), num := i.natAbs, e := 0 }, v.2)
      | e => (e, v.2)

/-- Whether a value is at least 0; −0 is. -/
def atLeast0 : Elem → Bool
  | .num x => !x.neg || x.num == 0
  | .inf n => !n
  | .nan _ => true

/-- ACT (R299). -/
def activate (act : Nat) (v : Elem) : Elem :=
  match act, v with
  | _, .nan _ => .nan false
  | 1, .num x => if x.neg then .num { neg := false, num := 0, e := 0 } else v
  | 1, .inf n => if n then .num { neg := false, num := 0, e := 0 } else v
  | 2, .num x =>
    if x.neg then .num { neg := false, num := 0, e := 0 }
    else if cmpNat x 6 = .gt then .num { neg := false, num := 6, e := 0 } else v
  | 2, .inf n => .num { neg := false, num := if n then 0 else 6, e := 0 }
  | 3, v => if atLeast0 v then v else scaleElem (-3) v
  | _, _ => v

/-- Whether a value is a NaN. -/
def elemNaN : Elem → Bool
  | .nan _ => true
  | _ => false

/-- Converts a drained value (R191, R304): an integer to an integer format wraps, and a NaN to E4M3 is invalid (R292). -/
def drainCode (r : Routine) (m : RMode) (v : Elem) : Nat × BitVec 6 :=
  match floatFmt r.fo with
  | some f => let q := encodeFloat f m v; (q.1, q.2 ||| flagIf (r.fo = 5 && elemNaN v) fNV)
  | none =>
    match r.fo with
    | 11 => encodeUn8 m v
    | 12 => encodeSrgb m.rm v
    | 13 => encodeBit v
    | fo =>
      match v with
      | .num x => if !floatAcc r.fa && x.e = 0 then (ofSigned (elemWidth fo) (if x.neg then -(x.num : Int) else x.num), 0)
                  else encodeInt (elemWidth fo) m fNV v
      | v => encodeInt (elemWidth fo) m fNV v

/-- The word of a stream that stochastic rounding takes (R305). -/
def drainWord (j : MxJob) (o m n : Nat) : Word :=
  let w := (o * j.r.m * j.r.n + m * j.r.n + n) % 2 ^ 32
  (streamBlock j.key 0xFFFFFFFF (j.x.getD 4 0) (BitVec.ofNat 32 (w / 4))).getD (w % 4) 0

/-- The bias of column n: none without one or where BORDER zero leaves it out. -/
def readBias (j : MxJob) (nOff : Nat) (s : State) (n : Nat) : State × Except Reach (Option Nat) :=
  if !j.r.bias then (s, .ok none)
  else
    let t := j.tensor 3
    match elemLoc t [wrap32 (j.xlo 2 + nOff + n)] .absent with
    | .at ea bit =>
      match mxCode s j false t ea bit with
      | (s, .ok x) => (s, .ok (some x.1))
      | (s, .error e) => (s, .error e)
    | .outside => (s, .error (.fault 4 0))
    | _ => (s, .ok none)

/-- Stores a drained element (R303): a sub-byte one merges into its byte. -/
def drainStore (s : State) (j : MxJob) (ea bit code : Nat) : State × Except Reach Unit :=
  let w := elemWidth j.r.fo
  match mxReach s j j.r.dsp ea (max 1 (w / 8)) { w := true } with
  | (s, .ok l) =>
    let d := if w ≥ 8 then natLe code (w / 8)
      else (piecesRead s l []).map fun o => mergeByte 0 o (BitVec.ofNat 8 (code * 2 ^ bit)) (subMask w bit)
    (piecesStore s j.who l d, .ok ())
  | (s, e) => (s, .error e)

/-- Drain(m, n) of block o. -/
def drainElem (j : MxJob) (o : Nat) (off : Nat × Nat × Nat) (s : State) (mn : Nat × Nat) : State × Except Reach Unit :=
  let (mOff, nOff, bOff) := off
  let (m, n) := mn
  let (t, row, col) := mxPlace j.r m n
  match readBias j nOff s n with
  | (s, .error e) => (s, .error e)
  | (s, .ok b) =>
    let v := addBias j (scaledOut j (mxElem s j t row col)) b
    let md : RMode := if j.r.sr then ⟨5, drainWord j o m n⟩ else ⟨j.rm, 0⟩
    let q := drainCode j.r md (activate j.r.act v.1)
    let s := mxFlag s j t (v.2 ||| q.2)
    match elemLoc (j.tensor 2) [wrap32 (j.xlo 2 + nOff + n), wrap32 (j.xhi 2 + mOff + m), wrap32 ((j.x3 15 0 : Nat) + (bOff : Int))] .absent with
    | .at ea bit => drainStore s j ea bit q.1
    | .outside => (s, .error (.fault 4 0))
    | _ => (s, .ok ())

/-- Whether position m of a block is void (R320). -/
def voidRow (j : MxJob) (mOff m : Nat) : Bool := j.r.win && windowLoc j mOff 0 m 0 == .void

/-- The elements of a drain one after another: the first fault is kept and the drain goes on to its end (R308); a page or a
wait stops it, if no fault has come before. -/
def drainCells (j : MxJob) (o : Nat) (off : Nat × Nat × Nat) : State → Option (Nat × Nat) → List (Nat × Nat) → State × Except Reach Unit
  | s, none, [] => (s, .ok ())
  | s, some (c, a), [] => (s, .error (.fault c a))
  | s, f, mn :: t =>
    match drainElem j o off s mn, f with
    | (s, .ok _), f => drainCells j o off s f t
    | (s, .error _), some q => drainCells j o off s (some q) t
    | (s, .error (.fault c a)), none => drainCells j o off s (some (c, a)) t
    | (s, .error e), none => (s, .error e)

/-- The drain of block o. -/
def mxDrain (s : State) (j : MxJob) (o : Nat) : State × Except Reach Unit :=
  let off := mxOffsets j.r o
  drainCells j o off s none
    (((List.range j.r.m).filter fun m => !voidRow j off.1 m).flatMap fun m => (List.range j.r.n).map fun n => (m, n))

/-! ## One move (R302, R308) -/

/-- What a move of a call comes to: its next block and k, its end, what stopped it, or a fault of a drain with the next
block and k. -/
inductive MxRes where
  | next (o k : Nat)
  | done
  | miss (e : Reach)
  | spoiled (o k cause addr : Nat)
  deriving DecidableEq, Repr

/-- A call takes its next k-block, and drains after a block's last one. A move that waits or parks leaves the tiles as they
were, so that it can be taken again. -/
def mxStep (s0 : State) (j : MxJob) (o k : Nat) : State × MxRes :=
  let r := j.r
  let off := mxOffsets r o
  let ks := (List.range (kBlock r.fa)).map (k + ·)
  let again (s : State) : State := { s with acc := s0.acc, tarnAcc := s0.tarnAcc, cores := s0.cores, tarnXflags := s0.tarnXflags }
  let after (s : State) : State × MxRes := (s, if o + 1 ≥ blockCount r then .done else .next (o + 1) 0)
  match mxOperands s0 j off ks with
  | (s, .error e) => (s, .miss e)
  | (s, .ok (va, vb, void)) =>
    let s := mxCombine s j (k == 0) va vb void
    if k + kBlock r.fa < termCount r then (s, .next o (k + kBlock r.fa))
    else if r.fo = 0 then after s
    else match mxDrain s j o with
      | (s, .ok _) => after s
      | (s, .error (.fault c a)) => (s, .spoiled o (k + kBlock r.fa) c a)
      | (s, .error e) => (again s, .miss e)

/-! ## Matrix children (R284, R303, R308, R309, R319, R323) -/

/-- A call's tensors by their place in `MxJob.tens`: number, whether the routine uses it, the formats it may have. -/
def mxTensors (d : List DWord) : List (Nat × Bool × Nat) :=
  let r := routineOf d
  let n4 (hi lo : Nat) : Nat := fld (dwAt d 4) hi lo
  let n5 (hi lo : Nat) : Nat := fld (dwAt d 5) hi lo
  [(n4 63 48, true, r.fa), (n4 47 32, true, r.fb), (n4 31 16, r.fo != 0, r.fo), (n4 15 0, r.bias, if floatAcc r.fa then 2 else 7),
    (n5 63 48, r.scale == 2, 14), (n5 47 32, r.scale == 2, 14), (n5 31 16, r.sparse != 0, 10)]

/-- Reads a call's tensors into its child's request, and goes on with the child. -/
def mxLoadGo (s : State) (u : TUnit) (key : Nat) (h : Child) (f : State → Child → State) : List (Nat × Bool × Nat) → State
  | [] => f s h
  | (t, used, fmt) :: rest =>
    let more (s : State) (d : List DWord) : State := mxLoadGo s u key { h with req := { h.req with desc := h.req.desc ++ d } } f rest
    if !used then more s (List.replicate 8 0)
    else childTensor s u key h t fun s d =>
      if tensorBad d || (tensorOf d).fmt ≠ fmt then finishChild s key .faulted 5 0 0 else more s d

def mxLoad (s : State) (key : Nat) (h : Child) (f : State → Child → State) : State :=
  if h.req.desc.length > 8 then f s h
  else mxLoadGo s (.core (Fin.ofNat 256 (childCore key))) key h f (mxTensors h.req.desc)

/-- The call that a matrix child runs. -/
def childJob (s : State) (key : Nat) (h : Child) : MxJob :=
  { tarn := false, core := childCore key, ctx := h.ctx, tu := .core (Fin.ofNat 256 (childCore key)), who := .child key
    set := getSet s h.ctx h.launch h.set, key := h.key, r := routineOf (h.req.desc.take 8)
    tens := (List.range 7).map fun i => (h.req.desc.drop (8 + 8 * i)).take 8, x := h.req.x, latch := h.req.latch, rm := h.req.rm }

/-- The faults of a call's start (R291, R303, R323). -/
def jobBad (j : MxJob) : Bool :=
  let r := j.r
  let wide (t : Tensor) (sp : Bool) : Bool := sp && decide (t.base ≥ 2 ^ 23)
  let last := elemPlace (j.tensor 0) ((j.tensor 0).ext.map (· - 1))
  let banks := match j.set with
    | some q => 262144 * q.banks.length
    | none => 0
  decide ((j.tensor 0).rank < 2) || decide ((j.tensor 1).rank < 2) || (r.fo != 0 && decide ((j.tensor 2).rank < 2))
  || wide (j.tensor 0) r.asp || wide (j.tensor 1) r.bsp || (r.fo != 0 && wide (j.tensor 2) r.dsp)
  || (r.sparse == 1 && decide (j.xlo 0 % 4 ≠ 0)) || (r.sparse == 2 && decide (j.xhi 1 % 4 ≠ 0))
  || (r.win && (decide ((j.tensor 0).rank < 3) || r.sparse != 0
      || (r.asp && decide (last.1 + max 1 (elemWidth r.fa / 8) > banks))))

/-- A matrix child starts; one whose window gives no output is EMPTY (R319). -/
def startMx (s : State) (key : Nat) (h : Child) : State :=
  mxLoad s key h fun s h =>
    let j := childJob s key h
    let e := outExtents j.r (j.tensor 0)
    if jobBad j then finishChild s key .faulted 5 0 0
    else if j.r.win && (decide (e.1 ≤ 0) || decide (e.2 ≤ 0)) then finishChild (putChild s key { h with empty := true }) key .complete 0 0 0
    else putChild s key { h with begun := true }

/-- The ck that a k-block takes when nothing delays it (R285). -/
def blockCk (fa : Nat) : Nat :=
  match fa with
  | 10 | 15 => 16
  | 13 => 4
  | _ => 32

/-- A k-block that has been computed is charged, and the ck in which the array computed nothing for its child since the last one: how
many depends on timing and is a free value (R494). -/
def chargeBlock (s : State) (c fa : Nat) : State :=
  let (n, s) := drawFree s
  charge s c (blockCk fa * weight s 8 + Config.oxbowIdle n * weight s 9)

/-- Whether the array of a core runs a matrix child created before another (R284). -/
def oxbowBusy (s : State) (key : Nat) (h : Child) : Bool := s.children.any fun e => match e.2 with
  | some o => e.1 != key && o.cls == 0 && childCore e.1 == childCore key && decide (o.st = .running)
              && (decide (h.st ≠ .running) || decide (o.order < h.order))
  | none => false

/-- The next move of a running matrix child. -/
def mxMove (s : State) (key : Nat) (h : Child) : State :=
  if oxbowBusy s key h then s
  else mxLoad s key h fun s h =>
    let c := h.cursor.toNat
    match mxStep s (childJob s key h) (c / 2 ^ 32) (c % 2 ^ 32) with
    | (s, r) =>
      let s := match r with
        | .miss _ => s
        | _ => chargeBlock s h.ctx (routineOf h.req.desc).fa
      match r with
      | .next o k => wakeBarb (putChild s key { h with cursor := BitVec.ofNat 64 (o * 2 ^ 32 + k) })
      | .done => finishChild (wakeBarb (putChild s key h)) key .complete 0 0 0
      | .miss e => childMiss (wakeBarb (putChild s key h)) key e
      | .spoiled o k cause addr =>
        finishChild (wakeBarb (putChild s key { h with cursor := BitVec.ofNat 64 (o * 2 ^ 32 + k) })) key .faulted cause addr 0

end Sys2Proof.Machine
end

