-- ==== Sys2Proof/Machine/Engines.lean ====
section
/-! DEFINITION. The engines' turns: which child starts, how a running one moves on, and pause points (spec/11_operation.md
R258, R261, R269). -/

namespace Sys2Proof.Machine

/-- Whether an engine runs a child of an entry (R255, R261). -/
def engineRuns (e : Engine) (key : Nat) (h : Child) : Bool :=
  match e with
  | .oxbow n => h.cls == 0 && childCore key == n.val
  | .millpond n => h.cls == 1 && childCluster key == n.val
  | .links => h.cls == 2

/-- Whether an earlier child of the same group and class has not been started by the engine (R261). -/
def earlierUnstarted (s : State) (e : Engine) (h : Child) : Bool := s.children.any fun q => match q.2 with
  | some o =>
    engineRuns e q.1 o && o.ctx == h.ctx && o.launch == h.launch && o.gidx == h.gidx && o.cls == h.cls && decide (o.order < h.order)
    && (decide (o.st = .waiting) || decide (o.st = .issued))
  | none => false

/-- Whether an engine may start a child now: issued, not stopped, and the engine has room for it. -/
def mayStart (s : State) (e : Engine) (key : Nat) (h : Child) : Bool :=
  engineRuns e key h && decide (h.st = .issued) && !h.stop && !earlierUnstarted s e h
  && (match h.cls with
    | 0 => !oxbowBusy s key h
    | 1 => copyReady s key h
    | _ => true)

/-- The better of two candidates: higher priority, then created earlier (R261). -/
def betterChild (a b : Nat × Child) : Nat × Child :=
  if a.2.prio > b.2.prio || (a.2.prio == b.2.prio && decide (a.2.order < b.2.order)) then a else b

/-- The child that an engine starts next. -/
def nextStart (s : State) (e : Engine) : Option (Nat × Child) :=
  (s.children.filterMap fun q => match q.2 with
    | some h => if mayStart s e q.1 h then some (q.1, h) else none
    | none => none).foldl (fun o c => match o with
      | none => some c
      | some b => some (betterChild b c)) none

/-- Reads and checks what a child needs to begin; a translation fault there parks the running child (R267). -/
def startChild (s : State) (key : Nat) (h : Child) : State :=
  match h.cls with
  | 0 => startMx s key h
  | 1 => startCopy s key h
  | _ => startColl s key h

/-- CHILD_START (R261): the engine's child is running. -/
def engineStart (s : State) (e : Engine) : State :=
  match nextStart s e with
  | some (key, h) => let h := { h with st := .running }; startChild (putChild s key h) key h
  | none => s

/-- CHILD_COMPLETE (R258): a child that has not begun, since what it needs could not be read, begins; a matrix or collective
child takes its next k-block or chunk; and a child whose last access has performed completes. -/
def childMove (s : State) (key : Nat) : State :=
  match getChild s key with
  | none => s
  | some h =>
    if !mayMove h then s
    else if !h.begun then startChild s key h
    else match h.cls with
      | 0 => mxMove s key h
      | 1 => if copyOver h then finishChild s key .complete 0 0 0 else s
      | _ => if collOver h then finishChild s key .complete 0 0 0 else collMove s key h

/-- The engine of a running child finds an uncorrectable soft error, or in a call of checksum mode a sum that differs: the
child ends with SOFT_ERROR (11) or CHECKSUM (12), whose DETAIL names the k-block (R265, R306, R309). -/
def childError (s : State) (key cause : Nat) : State :=
  match getChild s key with
  | none => s
  | some h =>
    if !mayMove h || !h.begun || h.sent then s
    else if cause = 11 ∧ h.cls ≤ 1 then finishChild (dropRemotes s key) key .faulted 11 0 0
    else if cause = 12 ∧ h.cls = 0 ∧ (routineOf h.req.desc).chk = true then
      let c := h.cursor.toNat
      finishChild s key .faulted 12 0 (BitVec.ofNat 64 (c / 2 ^ 32 * 2 ^ 32 + c % 2 ^ 32 / kBlock (routineOf h.req.desc).fa))
    else s

/-- A child of a stopped context pauses (R258): the code of the state it left is that of R270. The beats of a chunk that has
not fully arrived are discarded (R277). -/
def pauseChild (s : State) (key : Nat) (h : Child) : State :=
  match h.st with
  | .waiting => putChild s key { h with st := .paused 2, stop := false }
  | .issued => putChild s key { h with st := .paused 1, stop := false }
  | .running => putChild (histogram (dropRemotes s key) h false true) key
      { h with st := .paused 3, stop := false, asked := false, got := [], beats := 0 }
  | _ => s

/-- CHILD_PAUSE (R269): a cancellation ends the child, a stop pauses it; a chunk that is being written runs to its end first
(R275, R277). -/
def childPause (s : State) (key : Nat) : State :=
  match getChild s key with
  | none => s
  | some h =>
    if chunkGoes h then s
    else match h.cancel with
    | some cause => finishChild (dropRemotes s key) key .cancelled cause 0 0
    | none => if h.stop then pauseChild s key h else s

end Sys2Proof.Machine
end

