-- ==== Sys2Proof/Machine/Graphics.lean ====
section
/-! DEFINITION. The G-class slots: blocks, boxes, primitive tests, patches, textures, lazy building (spec/14_graphics.md
R330-R353). -/

namespace Sys2Proof.Machine

/-! ## Common (R330, R331) -/

/-- A lane's registers v(r) .. v(r + n - 1) hold poison. -/
def runPoison (c : SC) (r n l : Nat) : Bool := (List.range n).any fun j => (vreg c.g (r + j) l).poison

/-- The value of a lane as binary32. -/
def laneF (c : SC) (r l : Nat) : FVal := decodeF binary32 (vreg c.g r l).val.toNat

/-- A word result of a lane, with poison clear. -/
def gWrite (d l x : Nat) : RegWrite := .v d l ⟨BitVec.ofNat 32 x, false⟩

/-- The lanes with a poisoned guard keep `n` destination registers, with poison set (R75). -/
def gKept (c : SC) (n : Nat) : List RegWrite :=
  (lanesOf (guardPoison c)).flatMap fun l => (List.range n).map fun j => poisonOld c (.v (c.d + j) l ⟨0, false⟩)
def gKeptP (c : SC) (n : Nat) : List RegWrite :=
  (lanesOf (guardPoison c)).flatMap fun l => (List.range n).map fun j => poisonOld c (.p (c.d + j) l ⟨false, false⟩)

/-- The lanes of a test as a trap of a cause; none if no lane. -/
def laneTrap (cause : Nat) (c : SC) (f : Nat → Bool) : Option SlotRes :=
  let m := maskOf fun l => (actives c).getLsbD l && f l
  if m = 0 then none else some (trapOf cause 0 m)

/-- The reads of a G slot bind in its path's cluster, whose banks they allocate in under CACHE (R206, R331). -/
def fetchLines (c : SC) (s : State) (pas : List Nat) : State :=
  let cl := clusterOf (coreOf c.is.loc)
  bindLines s (.path c.is.loc c.is.path) cl (allocates c.mod.cache.toNat && hasCache s cl) (pas.map lineOf).eraseDups
def fetchBytes (c : SC) (s : State) (pa n : Nat) : List Byte :=
  boundBytes s (clusterOf (coreOf c.is.loc)) (allocates c.mod.cache.toNat) pa n

/-- Whether no read of a G slot would cross a die link that has failed (R11, R408): one that would holds its bundle. -/
def fetchReach (c : SC) (s : State) (pas : List Nat) : Bool := pas.all (unitReach s (coreUnit c.is.loc))

/-- A G form that reads one record of `size` bytes in each active lane at the address in v(b + 1):v(b) (R331): an illegal
record traps first (R384), then poison, then the checks of R201. It reads once the path's earlier accesses have performed. -/
def gRecord (size : Nat) (poison : SC → Nat → Bool) (bad : List Byte → Bool)
    (k : SC → List (Nat × Nat × List Byte) → State × SlotRes) : Meaning := fun c =>
  let act := actives c
  if act = 0 then (c.s, .nothing)
  else if pathBusy c then (c.s, .hold)
  else
    let clean := (lanesOf act).filter fun l => !poison c l
    match checkLanes c.s c.is.loc c.g.ctx { r := true } size (clean.map fun l => (l, (vpair c.g c.b l).1)) with
    | (s, none) => (s, .hold)
    | (s, some qs) =>
      let good := qs.filter fun q => q.cause == 0
      if !fetchReach c s (good.map (·.pa)) then (s, .hold)
      else
      let s := fetchLines c s (good.map (·.pa))
      let recs := good.map fun q => (q.lane, q.ea, fetchBytes c s q.pa size)
      match laneTrap 2 c (fun l => recs.any fun r => r.1 == l && bad r.2.2) with
      | some t => (s, t)
      | none =>
        match laneTrap 7 c (poison c) with
        | some t => (s, t)
        | none =>
          match checkEvent c.is.idx 1 qs with
          | some e => (s, e)
          | none => k { c with s := s } recs

/-- The word of a record at an offset, and as binary32. -/
def recWord (b : List Byte) (off : Nat) : Nat := leNat ((b.drop off).take 4)
def recF (b : List Byte) (off : Nat) : FVal := decodeF binary32 (recWord b off)

/-! ## Binary32 on codes -/

/-- Operations of one rounding on decoded values, decoded again. -/
def fA (rm : Nat) (a b : FVal) : FVal := decodeF binary32 (fadd binary32 rm a b).1
def fS (a b : FVal) : FVal := decodeF binary32 (fsub binary32 0 a b).1
def fM (rm : Nat) (a b : FVal) : FVal := decodeF binary32 (fmul binary32 rm a b).1
def fD (a b : FVal) : FVal := decodeF binary32 (fdiv binary32 0 a b).1
def fX (mx : Bool) (a b : FVal) : FVal := decodeF binary32 (fminmax mx binary32 a b).1
def fLe (a b : FVal) : Bool := fcmpCond 3 a b
def fLt (a b : FVal) : Bool := fcmpCond 2 a b
def fZero : FVal := .fin false 0 0

/-! ## GRSTEP (R333, R334) -/

/-- The pixel of a lane of a quarter. -/
def pixelOf (l j : Nat) : Nat × Nat := (4 * (j % 2) + 2 * (l / 4 % 2) + l % 2, 4 * (j / 2) + 2 * (l / 8) + l / 2 % 2)

/-- GRSTEP. -/
def gGrstep : Meaning := pureM fun c =>
  let u (i : Nat) : PWord := sreg c.g c.pt (c.a + i)
  let pos := sreg c.g c.pt c.b
  let act := actives c
  if c.d > 3 || c.a > 52 then trapOf 2
  else if act = 0 then .nothing
  else if pos.poison || (List.range 12).any fun i => (u i).poison then trapOf 7 0 act
  else
    let pass (l j e : Nat) : Bool :=
      let (x, y) := pixelOf l j
      let X : Int := (256 * (8 * (pos.val.toNat % 65536) + x) + 128 : Nat)
      let Y : Int := (256 * (8 * (pos.val.toNat / 65536) + y) + 128 : Nat)
      let a := (u (4 * e)).val.toInt
      let b := (u (4 * e + 1)).val.toInt
      let k := toSigned 64 ((u (4 * e + 2)).val.toNat + 2 ^ 32 * (u (4 * e + 3)).val.toNat)
      let v := a * X + b * Y + k
      decide (v > 0) || (decide (v = 0) && (decide (a > 0) || (decide (a = 0) && decide (b > 0))))
    .ok [.result 6 (((lanesOf act).flatMap fun l => (List.range 4).map fun j =>
      RegWrite.p (c.d + j) l ⟨(List.range 3).all (pass l j), false⟩) ++ gKeptP c 4)] 0 []

/-! ## GBOX (R336-R340) -/

/-- Child word i of a node, its type, and whether the word is illegal (R337). -/
def childWord (n : List Byte) (i : Nat) : Nat := leNat ((n.drop (0x40 + 8 * i)).take 8)
def childWordBad (w : Nat) : Bool := decide (w % 16 ≥ 8) || fld w 59 57 != 0 || fld w 5 4 != 0
def nodeBad (n : List Byte) : Bool := leNat ((n.drop 0x0F).take 1) != 0 || (List.range 8).any fun i => childWordBad (childWord n i)

/-- The byte of a node. -/
def nodeByte (n : List Byte) (i : Nat) : Nat := leNat ((n.drop i).take 1)

/-- Where a ray enters child i of a node, if it hits its box (R339). -/
def boxHit (c : SC) (l : Nat) (n : List Byte) (i : Nat) : Option FVal :=
  let q (hi : Bool) (k : Nat) : Nat := nodeByte n (0x10 + 6 * i + (if hi then 3 else 0) + k)
  let slab (k : Nat) : FVal × FVal :=
    let org := recF n (4 * k)
    let e := toSigned 8 (nodeByte n (0x0C + k))
    let lo := fA 3 org (.fin false (q false k) e)
    let hi := fA 2 org (.fin false (q true k) e)
    let o := laneF c (c.a + k) l
    let inv := decodeF binary32 (frcp binary32 0 (laneF c (c.a + 3 + k) l)).1
    let t1 := fM 0 (fS lo o) inv
    let t2 := fM 0 (fS hi o) inv
    (fX false t1 t2, fX true t1 t2)
  let tn := fX true (fX true (fX true (slab 0).1 (slab 1).1) (slab 2).1) (laneF c (c.a + 6) l)
  let tf := fX false (fX false (slab 0).2 (slab 1).2) (slab 2).2
  let tf := fX false (fM 2 tf (.fin false (2 ^ 20 + 1) (-20))) (laneF c (c.a + 7) l)
  if childWord n i % 16 ≠ 0 && (List.range 3).all (fun k => decide (q false k ≤ q true k)) && fLe tn tf then some tn else none

/-- Inserts a hit by tn ascending, −0 below +0, after the hits it ties with (R340). -/
def insertHit (h : Nat × FVal) : List (Nat × FVal) → List (Nat × FVal)
  | [] => [h]
  | g :: t => if fbefore h.2 g.2 then h :: g :: t else g :: insertHit h t

/-- The hits of a lane in order. -/
def boxHits (c : SC) (l : Nat) (n : List Byte) : List (Nat × FVal) :=
  ((List.range 8).filterMap fun i => (boxHit c l n i).map fun t => (i, t)).foldl (fun a h => insertHit h a) []

/-- The nine results of a lane. -/
def boxWrites (c : SC) (l : Nat) (hs : List (Nat × FVal)) : List RegWrite :=
  gWrite c.d l (((List.range hs.length).map fun j => (8 + (hs.getD j (0, fZero)).1) * 16 ^ j).sum)
  :: (List.range 8).map fun j => gWrite (c.d + 1 + j) l (match hs[j]? with
    | some h => encodeF binary32 h.2
    | none => 0x7F800000)

/-! ## Lazy building (R350-R352) -/

/-- What the treatment of child words has come to: parks so far, and whether it has stopped, with a trap or none. -/
structure Claiming where
  parks : List Park
  halt : Option (Option SlotRes)

/-- The graphics unit parks its path on a page, which it reports with SOURCE 4 (R351, R376). -/
def claimPark (c : SC) (s : State) (k : Claiming) (lane access va level : Nat) : State × Claiming :=
  (pageReport s c.g.ctx { source := 4, access := access, va := va, baddr := c.is.baddr, launch := c.g.launch.toNat,
                          group := c.g.gidx.toNat, slot := c.is.idx, level := level, lanes := 2 ^ lane },
    { parks := k.parks ++ [.page va c.is.idx (BitVec.ofNat 16 (2 ^ lane))], halt := some none })

/-- The graphics unit reads a child word at its home (R351): the path's latest read of that word, so the cluster's copy goes
(R240). -/
def readChild (c : SC) (s : State) (pa : Nat) : State × Nat :=
  (bindLines s (.path c.is.loc c.is.path) (clusterOf (coreOf c.is.loc)) false [lineOf pa], leNat (readHome s pa 8))

/-- What follows a read of a child word (R350, R351): a subtree under construction parks the path, one that is not built is claimed,
and any other is left. -/
def onChild (s : State) (k : Claiming) (pa cw : Nat) (claim : State × Claiming) : State × Claiming :=
  if cw % 16 = 7 then (s, { k with parks := k.parks ++ [.build pa] })
  else if cw % 16 ≠ 6 then (s, k)
  else claim

/-- The graphics unit claims a child word at its physical address: a record in queue 1,023, then type 7 in the word (R351). -/
def claimAt (c : SC) (s : State) (k : Claiming) (r : RecQueue) (lane va pa cw : Nat) : State × Claiming :=
  let at_ := recordAddr r r.next
  if at_ + r.rsize > 2 ^ 57 then (s, { k with halt := some (some (trapOf 4 at_)) })
  else match translateRange s (coreUnit c.is.loc) c.g.ctx at_ r.rsize { w := true } 2 with
    | (s, .error (0, _, _)) => (s, { k with halt := some (some .hold) })
    | (s, .error (1, level, a)) => claimPark c s k lane 2 a level
    | (s, .error (_, _, a)) => (s, { k with halt := some (some (trapOf 6 a)) })
    | (s, .ok l) =>
      let s := writePieces s l (natLe va 8 ++ natLe cw 8 ++ List.replicate (r.rsize - 16) 0)
      let s := writeBy (.path c.is.loc c.is.path) s pa (natLe (cw + 1) 8)
      let s := deliver (modRq s c.g.ctx 1023 fun r => { r with next := r.next + 1, committed := r.committed ++ [r.next] }) c.g.ctx 1023
      (s, { k with parks := k.parks ++ [.build pa] })

/-- The graphics unit treats one child word: its lane, virtual and physical address (R351). A claim needs R and W on the word
(R369), and is made at the address that this translation gives. -/
def claimWord (c : SC) (st : State × Claiming) (w : Nat × Nat × Nat) : State × Claiming :=
  let (s, k) := st
  let (lane, va, pa) := w
  if k.halt.isSome then st
  else
    let (s, cw) := readChild c s pa
    onChild s k pa cw <| match tget none (getCtx s c.g.ctx).rqs 1023 with
      | none => (s, { k with halt := some (some (trapOf 2)) })
      | some r =>
        if r.rsize < 32 then (s, { k with halt := some (some (trapOf 2)) })
        else if rqFree r = 0 || r.res.length ≥ 1024 then (s, { parks := k.parks ++ [.coop], halt := some none })
        else match translateNow s (coreUnit c.is.loc) c.g.ctx va { r := true, w := true } with
          | (s, .hold) => (s, { k with halt := some (some .hold) })
          | (s, .fault 1 level) => claimPark c s k lane 3 va level
          | (s, .fault _ _) => (s, { k with halt := some (some (trapOf 6 va)) })
          | (s, .ok pa) =>
            let (s, cw) := readChild c s pa
            onChild s k pa cw (claimAt c s k r lane va pa cw)

/-- A bundle whose GBOX hits unbuilt subtrees (R351). -/
def claimAll (c : SC) (s : State) (ws : List (Nat × Nat × Nat)) : State × SlotRes :=
  match ws.foldl (claimWord c) (s, ⟨[], none⟩) with
  | (s, { halt := some (some e), .. }) => (s, e)
  | (s, k) => (s, .build k.parks)

/-- Child words once each, in order. -/
def onceWords : List (Nat × Nat × Nat) → List (Nat × Nat × Nat)
  | [] => []
  | w :: t => w :: (onceWords t).filter fun x => x.2.2 != w.2.2

/-- GBOX. -/
def gGbox : Meaning := gRecord 128 (fun c l => runPoison c c.a 8 l || runPoison c c.b 2 l) nodeBad fun c recs =>
  let hits := recs.map fun r => (r, boxHits c r.1 r.2.2)
  let lazy_ := hits.flatMap fun h =>
    let r := h.1
    let is := ((List.range 8).filter fun i => h.2.any (·.1 == i)).filter fun i => decide (childWord r.2.2 i % 16 ≥ 6)
    is.map fun i => (r.1, r.2.1 + 0x40 + 8 * i)
  if lazy_.isEmpty then (c.s, .ok [.result 20 ((hits.flatMap fun h => boxWrites c h.1.1 h.2) ++ gKept c 9)] 0 [])
  else
    -- the words lie in nodes that have just been translated
    let ws := lazy_.filterMap fun w => match translateNow c.s (coreUnit c.is.loc) c.g.ctx w.2 { r := true } with
      | (_, .ok pa) => some (w.1, w.2, pa)
      | _ => none
    claimAll c c.s (onceWords ws)

/-! ## GTRI2 (R341, R342) -/

/-- A reserved bit of a triangle-pair record. -/
def triBad (r : List Byte) : Bool := recWord r 0x34 / 2 != 0 || ((r.drop 0x38).any (· != 0))

/-- A vertex as the ray sees it: X, Y, Z, and its bits for the canonical order. -/
structure Vtx where
  x : FVal
  y : FVal
  z : FVal
  bits : Nat

/-- The axes kx, ky, kz of a direction. -/
def rayAxes (d : Nat → FVal) : Nat × Nat × Nat :=
  let mag (k : Nat) : FVal := match d k with
    | .fin _ m e => .fin false m e
    | .inf _ => .inf false
    | v => v
  let kz := if fLt (mag 0) (mag 1) then 1 else 0
  let kz := if fLt (mag kz) (mag 2) then 2 else kz
  let kx := (kz + 1) % 3
  let ky := (kx + 1) % 3
  if fLt (d kz) fZero then (ky, kx, kz) else (kx, ky, kz)

/-- E(i, j), in canonical order. -/
def edgeOf (a b : Vtx) : FVal :=
  let e (p q : Vtx) : FVal := decodeF binary32 (sumOnce binary32 0 [prodExact p.x q.y, fneg (prodExact p.y q.x)]).1
  if a.bits ≤ b.bits then e a b else fneg (e b a)

/-- The hit of a ray with one triangle: t, u, v, back. -/
def triHit (tmin tmax : FVal) (a b c : Vtx) : Option (FVal × FVal × FVal × Bool) :=
  let u := edgeOf b c
  let v := edgeOf c a
  let w := edgeOf a b
  let inside := (fLe fZero u && fLe fZero v && fLe fZero w) || (fLe u fZero && fLe v fZero && fLe w fZero)
  let det := decodeF binary32 (sumOnce binary32 0 [u, v, w]).1
  if !inside || fcmpCond 0 det fZero || isNaN det then none
  else
    let t := fD (sumExact 0 [prodExact u a.z, prodExact v b.z, prodExact w c.z]) det
    if fLe tmin t && fLe t tmax then some (t, fD v det, fD w det, fLt det fZero) else none

/-- A ray's results for a triangle pair. -/
def triLane (c : SC) (l : Nat) (r : List Byte) : List RegWrite :=
  let o (k : Nat) : FVal := laneF c (c.a + k) l
  let d (k : Nat) : FVal := laneF c (c.a + 3 + k) l
  let (kx, ky, kz) := rayAxes d
  let sx := fD (d kx) (d kz)
  let sy := fD (d ky) (d kz)
  let sz := fD (.fin false 1 0) (d kz)
  let vtx (i : Nat) : Vtx :=
    let p (k : Nat) : FVal := fS (recF r (12 * i + 4 * k)) (o k)
    let off (sk : FVal) (k : Nat) : FVal := decodeF binary32 (sumOnce binary32 0 [p k, fneg (prodExact sk (p kz))]).1
    { x := off sx kx, y := off sy ky, z := fM 0 sz (p kz)
      bits := recWord r (12 * i) * 2 ^ 64 + recWord r (12 * i + 4) * 2 ^ 32 + recWord r (12 * i + 8) }
  let tmin := laneF c (c.a + 6) l
  let tmax := laneF c (c.a + 7) l
  let still := (List.range 3).all fun k => match d k with
    | .fin _ 0 _ => true
    | _ => false
  let h1 := if still then none else triHit tmin tmax (vtx 0) (vtx 1) (vtx 2)
  let h2 := if still || recWord r 0x34 % 2 = 0 then none else triHit tmin tmax (vtx 2) (vtx 1) (vtx 3)
  let out (h : FVal × FVal × FVal × Bool) (second : Bool) : List RegWrite :=
    let q (x : FVal) : Nat := encodeF binary32 x
    [gWrite c.d l (q h.1), gWrite (c.d + 1) l (q h.2.1), gWrite (c.d + 2) l (q h.2.2.1),
      gWrite (c.d + 3) l (1 + 2 * b01 second + 4 * b01 h.2.2.2)]
  match h1, h2 with
  | some a, some b => if fLt b.1 a.1 then out b true else out a false
  | some a, none => out a false
  | none, some b => out b true
  | none, none => [gWrite c.d l 0x7F800000, gWrite (c.d + 1) l 0, gWrite (c.d + 2) l 0, gWrite (c.d + 3) l 0]

/-- GTRI2. -/
def gGtri2 : Meaning := gRecord 64 (fun c l => runPoison c c.a 8 l || runPoison c c.b 2 l) triBad fun c recs =>
  (c.s, .ok [.result 36 ((recs.flatMap fun r => triLane c r.1 r.2.2) ++ gKept c 4)] 0 [])

/-! ## GCURVE (R343) -/

/-- Binary64 operations of one rounding. -/
def dA (a b : FVal) : FVal := decodeF binary64 (fadd binary64 0 a b).1
def dS (a b : FVal) : FVal := decodeF binary64 (fsub binary64 0 a b).1
def dM (a b : FVal) : FVal := decodeF binary64 (fmul binary64 0 a b).1
def dD (a b : FVal) : FVal := decodeF binary64 (fdiv binary64 0 a b).1

/-- A point or vector in binary64. -/
structure Vec3 where
  x : FVal
  y : FVal
  z : FVal

def vSub3 (a b : Vec3) : Vec3 := ⟨dS a.x b.x, dS a.y b.y, dS a.z b.z⟩
def dot3 (a b : Vec3) : FVal := dA (dA (dM a.x b.x) (dM a.y b.y)) (dM a.z b.z)
def vScale3 (t : FVal) (a : Vec3) : Vec3 := ⟨dM t a.x, dM t a.y, dM t a.z⟩

/-- A candidate: t, the parameter times 16, and whether it is of a cap. -/
structure CurveHit where
  t : FVal
  s : FVal
  cap : Bool

/-- The candidates of one piece, in the order of their standing: the sides, the cap at A, the cap at B. -/
def pieceHits (d a b : Vec3) (ra rb : FVal) (j : Nat) : List CurveHit :=
  let w := vSub3 b a
  let dr := dS rb ra
  let l2 := dot3 w w
  if fcmpCond 0 l2 fZero then []
  else
    let dd := dot3 d d
    let da := dot3 d a
    let dw := dot3 d w
    let aw := dot3 a w
    let aa := dot3 a a
    let c0 := dS (dM ra l2) (dM dr aw)
    let k2 := dS (dS (dM (dM l2 l2) dd) (dM (dM l2 dw) dw)) (dM (dM (dM dr dr) dw) dw)
    let kh := dS (dA (fneg (dM (dM l2 l2) da)) (dM (dM l2 dw) aw)) (dM (dM c0 dr) dw)
    let k0 := dS (dS (dM (dM l2 l2) aa) (dM (dM l2 aw) aw)) (dM c0 c0)
    let disc := dS (dM kh kh) (dM k2 k0)
    let root := decodeF binary64 (fsqrt binary64 0 disc).1
    let jf : FVal := .fin false j 0
    let side (t : FVal) : List CurveHit :=
      let g := dD (dS (dM t dw) aw) l2
      if fLe fZero g && fLe g (.fin false 1 0) && fLe fZero (dA ra (dM dr g)) then [⟨t, dA jf g, false⟩] else []
    let sides := if !fcmpCond 0 k2 fZero && fLe fZero disc then
        side (dD (dS (fneg kh) root) k2) ++ side (dD (dA (fneg kh) root) k2)
      else []
    let cap (t : FVal) (p : Vec3) (r : FVal) (i : Nat) : List CurveHit :=
      let q := vSub3 (vScale3 t d) p
      if fLe (dot3 q q) (dM r r) then [⟨t, .fin false i 0, true⟩] else []
    let caps := if fcmpCond 0 dw fZero then [] else cap (dD aw dw) a ra j ++ cap (dD (dot3 b w) dw) b rb (j + 1)
    sides ++ caps

/-- A ray's results for a curve. -/
def curveLane (c : SC) (l : Nat) (r : List Byte) : List RegWrite :=
  let vec (f : Nat → FVal) : Vec3 := ⟨f 0, f 1, f 2⟩
  let o := vec fun k => laneF c (c.a + k) l
  let d := vec fun k => laneF c (c.a + 3 + k) l
  let pt (j k : Nat) : FVal :=
    let co (n : Nat) (p : Nat) : FVal := dM (.fin false n (-12)) (recF r (12 * p + 4 * k))
    let i := 16 - j
    dA (dA (dA (co (i * i * i) 0) (co (3 * i * i * j) 1)) (co (3 * i * j * j) 2)) (co (j * j * j) 3)
  let rad (j : Nat) : FVal := dA (recF r 0x30) (dM (dS (recF r 0x34) (recF r 0x30)) (.fin false j (-4)))
  let qv (j : Nat) : Vec3 := vSub3 (vec (pt j)) o
  let tmin := laneF c (c.a + 6) l
  let tmax := laneF c (c.a + 7) l
  let still := [d.x, d.y, d.z].all fun v => match v with
    | .fin _ 0 _ => true
    | _ => false
  let all := if still then [] else (List.range 16).flatMap fun j => pieceHits d (qv j) (qv (j + 1)) (rad j) (rad (j + 1)) j
  let good := (all.map fun h => { h with t := decodeF binary32 (encodeF binary32 h.t) }).filter fun h =>
    fLe tmin h.t && fLe h.t tmax && !isNaN h.s
  let best := good.foldl (fun o h => match o with
    | none => some h
    | some b => if fLt h.t b.t then some h else some b) (none : Option CurveHit)
  match best with
  | some h => [gWrite c.d l (encodeF binary32 h.t), gWrite (c.d + 1) l (roundOver binary32 0 h.s 16).1, gWrite (c.d + 2) l 0,
      gWrite (c.d + 3) l (1 + 2 * b01 h.cap)]
  | none => [gWrite c.d l 0x7F800000, gWrite (c.d + 1) l 0, gWrite (c.d + 2) l 0, gWrite (c.d + 3) l 0]

/-- GCURVE. -/
def gGcurve : Meaning :=
  gRecord 64 (fun c l => runPoison c c.a 8 l || runPoison c c.b 2 l) (fun r => recWord r 0x3C != 0) fun c recs =>
    (c.s, .ok [.result 108 ((recs.flatMap fun r => curveLane c r.1 r.2.2) ++ gKept c 4)] 0 [])

/-! ## Patches (R344-R346) -/

/-- The weights of a half, in eighths (R345). -/
def halfWeights (upper : Bool) (row i : Nat) : Nat :=
  let rows : List (List Nat) := if upper then [[1, 6, 1, 0], [0, 4, 4, 0], [0, 1, 6, 1], [0, 0, 4, 4]]
    else [[4, 4, 0, 0], [1, 6, 1, 0], [0, 4, 4, 0], [0, 1, 6, 1]]
  (rows.getD row []).getD i 0

/-- GPSPLIT. -/
def gGpsplit : Meaning := pureM fun c =>
  let q := uB true c
  let act := actives c
  if q.val.toNat ≥ 4 || (c.a ≠ c.d && decide (c.a < c.d + 16) && decide (c.d < c.a + 16)) then trapOf 2
  else if act = 0 then .nothing
  else match laneTrap 7 c (fun l => q.poison || runPoison c c.a 16 l) with
    | some t => t
    | none =>
      let one (l r k : Nat) : Nat := (sumOnce binary32 c.rm ((List.range 16).map fun i =>
        prodExact (.fin false (halfWeights (q.val.getLsbD 1) r (i / 4) * halfWeights (q.val.getLsbD 0) k (i % 4)) (-6))
          (laneF c (c.a + i) l))).1
      .ok [.result 16 (((lanesOf act).flatMap fun l => (List.range 16).map fun i => gWrite (c.d + i) l (one l (i / 4) (i % 4)))
        ++ gKept c 16)] 0 []

/-- Whether a lane's control values are flat within a tolerance (R346): all in units of 2^q, times 9. -/
def isFlat (v : List FVal) (tol : FVal) : Bool :=
  let fins := v.filterMap fun x => match x with
    | .fin n m e => some (n, m, e)
    | _ => none
  if fins.length < 16 then false
  else match tol with
    | .nan _ => false
    | .inf n => !n
    | .fin tn tm te =>
      let q := fins.foldl (fun q x => min q x.2.2) te
      let u (i : Nat) : Int := match fins[i]? with
        | some x => inUnits x.1 x.2.1 x.2.2 q
        | none => 0
      (List.range 16).all fun i =>
        let r : Int := (i / 4 : Nat)
        let k : Int := (i % 4 : Nat)
        let b := (3 - k) * (3 - r) * u 0 + k * (3 - r) * u 3 + (3 - k) * r * u 12 + k * r * u 15
        decide (((9 * u i - b).natAbs : Int) ≤ 9 * inUnits tn tm te q)

/-- GPFLAT. -/
def gGpflat : Meaning := pureM fun c =>
  let tol : PWord := match c.w.imm with
    | some x => ⟨immZ x <<< 8, false⟩
    | none => sreg c.g c.pt c.b
  let act := actives c
  if act = 0 then .nothing
  else match laneTrap 7 c (fun l => tol.poison || runPoison c c.a 16 l) with
    | some t => t
    | none =>
      .ok [.result 12 (((lanesOf act).map fun l =>
        RegWrite.p c.d l ⟨isFlat ((List.range 16).map fun i => laneF c (c.a + i) l) (decodeF binary32 tol.val.toNat), false⟩)
        ++ gKeptP c 1)] 0 []

/-! ## Textures (R347-R349) -/

/-- The texture control word. -/
structure TexCtl where
  tex : Nat
  nlev : Nat
  filt : Nat
  amax : Nat

def texCtl (w : Word) : TexCtl :=
  { tex := fld w.toNat 15 0, nlev := fld w.toNat 19 16 + 1, filt := fld w.toNat 21 20, amax := fld w.toNat 25 22 + 1 }

/-- Where an event of a descriptor's read stands in the order of causes (R384). -/
def eventRank : SlotRes → Nat
  | .trap t => if t.cause ≤ 2 then 1 else if t.cause = 4 then 2 else 4
  | .park _ => 3
  | _ => 0

/-- Reads the descriptors of levels in order, and which of them are to be kept; or, where reads fail, the event of the first cause
in order (R384) beside the descriptors that were read. -/
def texLevels (c : SC) : Nat → List Nat → State × Except (SlotRes × List (List DWord)) (List (List DWord) × List Eff)
  | _, [] => (c.s, .ok ([], []))
  | 0, _ => (c.s, .ok ([], []))
  | fuel + 1, t :: ts =>
    match readDesc c t with
    | (s, .event r) =>
      match texLevels { c with s := s } fuel ts with
      | (s, .error (e, l)) => (s, .error (if eventRank e < eventRank r then e else r, l))
      | (s, .ok (l, _)) => (s, .error (r, l))
    | (s, .ok d fresh) =>
      match texLevels { c with s := s } fuel ts with
      | (s, .error (e, l)) => (s, .error (e, d :: l))
      | (s, .ok (l, k)) => (s, .ok (d :: l, (if fresh then [.keep t d] else []) ++ k))

/-- Levels that break R347. -/
def texBad (ds : List (List DWord)) : Bool :=
  let ts := ds.map tensorOf
  match ts with
  | [] => true
  | t0 :: _ => ds.any tensorBad || ts.any fun t =>
      t.rank != 3 || t.ext.getD 0 0 > 4 || !(([2, 3, 4, 11, 12] : List Nat).contains t.fmt) || t.fmt != t0.fmt || t.ext.getD 0 0 != t0.ext.getD 0 0

/-- A bilinear sample's place: level, texel origin and weights of 256. -/
structure Sample where
  level : Nat
  x0 : Int
  y0 : Int
  fx : Nat
  fy : Nat
  deriving DecidableEq, Repr

/-- u × W − 0.5, clamped: the floor and the 256ths of the rest. -/
def texCoord (u : FVal) (w : Nat) : Int × Nat :=
  let v := sumExact 0 [prodExact u (.fin false w 0), .fin true 1 (-1)]
  let lim (n : Bool) : Int × Nat := if n then (-(2 ^ 31), 0) else (2 ^ 31 - 1, 0)
  match v with
  | .nan _ => (0, 0)
  | .inf n => lim n
  | .fin n m e =>
    let q := min e (-1)
    let i := inUnits n m e q
    let one : Int := ((2 ^ (-q).toNat : Nat) : Int)
    if i < -(2 ^ 31) * one then lim true
    else if (2 ^ 31 - 1) * one < i then lim false
    else
      let fl := i / one
      (fl, (roundInt 0 { neg := false, num := (i - fl * one).toNat * 256, e := q }).1.toNat)

/-- A bilinear sample of a level. -/
def sampleOf (ts : List Tensor) (level : Nat) (u v : FVal) : Sample :=
  let t := ts.getD level (tensorOf [])
  let x := texCoord u (t.ext.getD 1 0)
  let y := texCoord v (t.ext.getD 2 0)
  { level := level, x0 := x.1, y0 := y.1, fx := x.2, fy := y.2 }

/-- The floor of a value between 0 and 15, and the 256ths of the rest. -/
def lodSplit (l : FVal) : Nat × Nat :=
  match l with
  | .fin _ m e =>
    let q := min e 0
    let i := m <<< (e - q).toNat
    let one := 2 ^ (-q).toNat
    (i / one, (roundInt 0 { neg := false, num := (i % one) * 256, e := q }).1.toNat)
  | _ => (0, 0)

/-- The samples of a trilinear lookup, with the 256ths of the second level's share. -/
def trilinear (ts : List Tensor) (nlev : Nat) (lod : FVal) (u v : FVal) : List Sample × Nat :=
  let (l0, f) := lodSplit lod
  if l0 + 1 ≥ nlev || f = 0 then ([sampleOf ts l0 u v], 0) else ([sampleOf ts l0 u v, sampleOf ts (l0 + 1) u v], f)

/-- λ limited to the levels; NaN is 0. -/
def clampLod (nlev : Nat) (l : FVal) : FVal :=
  if isNaN l then fZero else fX false (fX true l fZero) (.fin false (nlev - 1) 0)

/-- What a lane looks up: trilinear lookups, whose mean is taken. -/
def texLookups (k : TexCtl) (ts : List Tensor) (lod : FVal) (n : Nat) (u v du dv : FVal) : List (List Sample × Nat) :=
  match k.filt with
  | 0 => [([sampleOf ts (lodSplit (sumExact 0 [lod, .fin false 1 (-1)])).1 u v], 0)]
  | 1 => [trilinear ts k.nlev lod u v]
  | _ => (List.range n).map fun (i : Nat) =>
      let num : Int := 2 * (i : Int) + 1 - n
      let at_ (a d : FVal) : FVal :=
        decodeF binary32 (roundOver binary32 0 (sumExact 0 [prodExact (.fin false (2 * n) 0) a, prodExact (intVal num) d]) (2 * n)).1
      trilinear ts k.nlev lod (at_ u du) (at_ v dv)

/-- λ, the taps, and the derivatives along the major axis of a lane (R348). Where the derivatives give no ratio the count of
taps is a free value of them (notes/assumptions/3.md). -/
def texLod (c : SC) (k : TexCtl) (t0 : Tensor) (l : Nat) : FVal × Nat × FVal × FVal :=
  let q := l / 4 * 4
  let o := l % 4
  let dx (r : Nat) : FVal := fS (laneF c r (q + o / 2 * 2 + 1)) (laneF c r (q + o / 2 * 2))
  let dy (r : Nat) : FVal := fS (laneF c r (q + o % 2 + 2)) (laneF c r (q + o % 2))
  let w : FVal := .fin false (t0.ext.getD 1 0) 0
  let h : FVal := .fin false (t0.ext.getD 2 0) 0
  let rho (a b : FVal) : FVal :=
    let p := fM 0 a w
    let r := fM 0 b h
    decodeF binary32 (sumOnce binary32 0 [prodExact p p, prodExact r r]).1
  let rx := rho (dx c.a) (dx (c.a + 1))
  let ry := rho (dy c.a) (dy (c.a + 1))
  let big := fX true rx ry
  let small := fX false rx ry
  let half (v : FVal) : FVal := fM 0 (.fin false 1 (-1)) (decodeF binary32 (flog2 0 v).1)
  if k.filt ≤ 1 then (clampLod k.nlev (half big), 1, fZero, fZero)
  else
    let n := match big, small with
      | _, .fin _ 0 _ => k.amax
      | .fin .., .fin .. =>
        (((List.range (k.amax - 1)).map (· + 1)).find? fun i => fLe big (prodExact (.fin false (i * i) 0) small)).getD k.amax
      | .inf _, .fin .. => k.amax
      | _, _ => 1 + Config.tapCount (encodeF binary32 rx + 2 ^ 32 * encodeF binary32 ry) % k.amax
    let lod := half (decodeF binary32 (roundOver binary32 0 big (n * n)).1)
    if fLe ry rx then (clampLod k.nlev lod, n, dx c.a, dx (c.a + 1)) else (clampLod k.nlev lod, n, dy c.a, dy (c.a + 1))

/-- Channel `ch` of a texel of a sample: its address, or what it reads as with no access; none where BORDER faults. -/
def texelAt (ts : List Tensor) (s : Sample) (ch i j : Nat) : Option (Except FVal Nat) :=
  let t := ts.getD s.level (tensorOf [])
  if ch ≥ t.ext.getD 0 0 then some (.error (if ch = 3 then .fin false 1 0 else fZero))
  else match borderCoords t [(ch : Int), s.x0 + (i : Int), s.y0 + (j : Int)] with
    | some ix => some (.ok (elemAddress t ix).1)
    | none => if t.border = 1 then some (.error fZero) else none

/-- The four corners of a bilinear sample. -/
def corners : List (Nat × Nat) := [(0, 0), (1, 0), (0, 1), (1, 1)]

/-- The value of channel `ch` of a bilinear sample, given the texels. -/
def bilinear (texel : Nat → FVal) (ts : List Tensor) (s : Sample) (ch : Nat) : FVal :=
  let wt (f i : Nat) : Nat := if i = 0 then 256 - f else f
  decodeF binary32 (sumOnce binary32 0 (corners.map fun e =>
    let v := match texelAt ts s ch e.1 e.2 with
      | some (.ok ea) => texel ea
      | some (.error v) => v
      | none => fZero
    prodExact (.fin false (wt s.fx e.1 * wt s.fy e.2) (-16)) v)).1

/-- The value of channel `ch` of a lane's lookups. -/
def filtered (texel : Nat → FVal) (ts : List Tensor) (ls : List (List Sample × Nat)) (ch : Nat) : Nat :=
  let tri (e : List Sample × Nat) : FVal :=
    match e.1 with
    | [a, b] => decodeF binary32 (sumOnce binary32 0
        [prodExact (.fin false (256 - e.2) (-8)) (bilinear texel ts a ch), prodExact (.fin false e.2 (-8)) (bilinear texel ts b ch)]).1
    | a :: _ => bilinear texel ts a ch
    | [] => fZero
  match ls with
  | [e] => encodeF binary32 (tri e)
  | _ => (roundOver binary32 0 (sumExact 0 (ls.map tri)) ls.length).1

/-- The body of GTEX and GTEXL once the levels are known: addresses are checked, then read, then filtered. -/
def texBody (explicit : Bool) (k : TexCtl) (ds : List (List DWord)) (keep : List Eff) : Meaning := fun c =>
  let act := actives c
  let ts := ds.map tensorOf
  let t0 := ts.getD 0 (tensorOf [])
  let w := elemWidth t0.fmt / 8
  let look (l : Nat) : List (List Sample × Nat) :=
    let u := laneF c c.a l
    let v := laneF c (c.a + 1) l
    if explicit then texLookups k ts (clampLod k.nlev (laneF c c.creg l)) 1 u v fZero fZero
    else let q := texLod c k t0 l; texLookups k ts q.1 q.2.1 u v q.2.2.1 q.2.2.2
  let lks := (lanesOf act).map fun l => (l, look l)
  let need := lks.flatMap fun e => (e.2.flatMap (·.1)).flatMap fun p => (List.range 4).flatMap fun ch =>
    corners.filterMap fun ij => match texelAt ts p ch ij.1 ij.2 with
      | some (.ok ea) => some (e.1, ea)
      | some (.error _) => none
      | none => some (e.1, 2 ^ 64)
  match checkLanes c.s c.is.loc c.g.ctx { r := true } w need.eraseDups with
  | (s, none) => (s, .hold)
  | (s, some qs) =>
    match checkEvent c.is.idx 1 qs with
    | some e => (s, e)
    | none =>
      if !fetchReach c s (qs.map (·.pa)) then (s, .hold)
      else
      let s := fetchLines c s (qs.map (·.pa))
      let texel (ea : Nat) : FVal := match qs.find? fun q => q.ea == ea with
        | some q => decodeF binary32 (cvtValue 2 t0.fmt (leNat (fetchBytes c s q.pa w)) ⟨0, 0⟩ false none).1
        | none => fZero
      (s, .ok (keep ++ [.result 40 ((lks.flatMap fun e => (List.range 4).map fun ch =>
        gWrite (c.d + ch) e.1 (filtered texel ts e.2 ch)) ++ gKept c 4)]) 0 [])

/-- The lanes whose u and v an active lane of GTEX or GTEXL reads (R184, R331). -/
def texLanes (l : Nat) : List Nat :=
  let q := l / 4 * 4
  let o := l % 4
  [l, q + o / 2 * 2, q + o / 2 * 2 + 1, q + o % 2, q + o % 2 + 2]

/-- GTEX, and GTEXL with `explicit` (R347-R349). -/
def gGtex (explicit : Bool) : Meaning := fun c =>
  let w := sreg c.g c.pt c.b
  let k := texCtl w.val
  let act := actives c
  let po (l : Nat) : Bool := w.poison
    || ((texLanes l).any fun i => runPoison c c.a 2 i) || (explicit && (vreg c.g c.creg l).poison)
  if k.filt = 3 || w.val.toNat / 2 ^ 26 ≠ 0 then (c.s, trapOf 2)
  else if act = 0 then (c.s, .nothing)
  else if pathBusy c then (c.s, .hold)
  else match texLevels c 16 ((List.range k.nlev).map (k.tex + ·)) with
    | (s, .error (e, ds)) =>
      (s, if !ds.isEmpty && texBad ds then trapOf 2 else match laneTrap 7 c po, e with
        | some t, .trap i => if i.cause ≤ 2 then e else t
        | some t, _ => t
        | none, _ => e)
    | (s, .ok (ds, keep)) =>
      if texBad ds then (s, trapOf 2)
      else match laneTrap 7 c po with
        | some t => (s, t)
        | none => texBody explicit k ds keep { c with s := s }

/-! ## GPUBLISH (R353) -/

/-- GPUBLISH: its checks; the word is exchanged at its home slice when the access performs. -/
def gGpublish : Meaning := fun c =>
  let act := actives c
  let po (l : Nat) : Bool := runPoison c c.a 2 l || runPoison c c.b 2 l
  let new (l : Nat) : Nat := (vpair c.g c.b l).1
  let clean := (lanesOf act).filter fun l => !po l
  if act = 0 then (c.s, .nothing)
  else match laneTrap 2 c (fun l => decide (new l % 16 ≥ 7) || childWordBad (new l)) with
    | some t => (c.s, t)
    | none =>
      match laneTrap 7 c po with
      | some t => (c.s, t)
      | none =>
        match checkLanes c.s c.is.loc c.g.ctx { r := true, w := true } 8 (clean.map fun l => (l, (vpair c.g c.a l).1)) with
        | (s, none) => (s, .hold)
        | (s, some qs) =>
          match checkEvent c.is.idx 3 qs with
          | some e => (s, e)
          | none =>
            let e := entryOf c (.atomic .publish c.d) false 8 (qs.map fun q =>
              { lane := q.lane, va := q.ea, pa := q.pa, data := natLe (new q.lane) 8 })
            let kept := gKeptP c 1
            (s, .ok (.access { e with scope := scopeOr4 c, cached := false } :: (if kept.isEmpty then [] else [.result 20 kept])) 0 [])

end Sys2Proof.Machine
end

