-- ==== Sys2Proof/Machine/Picker.lean ====
section
/-! DEFINITION. A core's time and the picker: what a ck does to results in flight, which paths can issue, what a ck does to the
counts of those that do not, which group a sequencer chooses, and the counts that an issued bundle moves (spec/07_group.md R133-R138). -/

namespace Sys2Proof.Machine

/-! ## Time -/

/-- A WAITEVT's limit after `n` ck: it stays at 1, its last ck, until it passes (R366). -/
def tickWait (n : Nat) (w : Wait) : Wait :=
  match w with
  | .waitevt e => .waitevt { e with limit := if e.limit = 0 then 0 else max 1 (e.limit - n) }
  | w => w

/-- A path after `n` unheld ck (R358, R366). -/
def tickPath (n : Nat) (pt : Path) : Path :=
  { pt with waits := pt.waits.map (tickWait n), held := if watched pt then pt.held + n else 0 }

/-- A group after `n` unheld ck: they count toward its gap, results draw nearer, limits run down (R71, R134, R366). -/
def tickGroup (n : Nat) (g : Group) : Group :=
  { g with
    since := g.since + n
    inflight := g.inflight.map fun r => { r with left := r.left - n }
    p0 := tickPath n g.p0
    p1 := tickPath n g.p1 }

/-- Rewrites the groups of a state that a test on their place picks. -/
def mapGroups (s : State) (on : Nat → Bool) (f : Nat → Group → Group) : State :=
  { s with groups := s.groups.map fun e => match e.2 with
      | some g => if on e.1 then (e.1, some (f e.1 g)) else e
      | none => e }

/-- ISSUE_HOLD (R17): a held ck of a die counts in the cores' counters and nowhere else. -/
def holdIssue (s : State) (die : Nat) : State :=
  (List.range 32).foldl (fun s j => modCore s (32 * die + j) fun k => { k with ck := (k.ck + 1) % 2 ^ 64 }) s

/-! ## Which path, which group -/

/-- A window whose last delay bundle has committed and that has not closed (R72). -/
def windowDue (pt : Path) : Bool :=
  match pt.window with
  | some w => w.left == 0
  | none => false

/-- A pending latch write whose count has run out (R73). -/
def latchDue (g : Group) : Bool := g.kpend.any fun k => !k.aside && k.left == 0

/-- Whether a path holds a slot and nothing that a committed bundle left keeps it from issuing (R133, R152): no wait, no
park, no closing window, no handler on the other path. -/
def pathOpen (g : Group) (p : Nat) : Bool :=
  let pt := pathAt g p
  decide (pt.st = .live) && pt.waits.isEmpty && !windowDue pt && !latchDue g && !g.trapped && !(g.hnd && g.hndPath != p)

/-! ## Fetch (R53) -/

/-- What a fetch comes to: the words up to the stop, or the failure with its address, cause and level. -/
inductive Fetch where
  | ok (ws : List Word)
  | fail (va cause level : Nat)
  | hold

/-- Fetches the words of a bundle. The fuel is the number of words that it may still have. DESIGN CHOICE (notes/assumptions/14.md): it waits while a
failed die link lies on the way. -/
def fetchWords (s : State) (loc ctx va : Nat) : Nat → State × Fetch
  | 0 => (s, .ok [])
  | fuel + 1 =>
    match translateNow s (coreUnit loc) ctx va { x := true } with
    | (s, .hold) => (s, .hold)
    | (s, .fault cause level) => (s, .fail va cause level)
    | (s, .ok pa) =>
      let w := mem32 s.mem pa
      if wordStop w then (s, .ok [w])
      else match fetchWords s loc ctx ((va + 4) % 2 ^ 57) fuel with
        | (s, .ok ws) => (s, .ok (w :: ws))
        | r => r

/-! ## Congestion (R138) -/

/-- A memory-bound bundle: its H slot has MB = 1 and it holds an M slot. -/
def memoryBound (ws : List Word) : Bool :=
  (ws.any fun w => wordClass w == 12 && w.getLsbD 20) && ws.any fun w => wordClass w == 3

/-- The members of a sequencer's admitted set for a context. -/
def admittedOf (s : State) (seq c : Nat) : List Nat :=
  (getSeq s seq).admitted.filter fun i => match getGroup s (64 * seq + i) with
    | some g => g.ctx == c
    | none => false

/-- Whether congestion keeps a bundle from being eligible. -/
def congestionHolds (s : State) (loc : Nat) (g : Group) (ws : List Word) : Bool :=
  let seq := seqOf loc
  let n := (getCtx s g.ctx).mblimit
  s.congested.getLsbD (dieOf (coreOf loc)) && memoryBound ws && n != 0 && !(getSeq s seq).admitted.contains (loc % 64)
    && decide ((admittedOf s seq g.ctx).length ≥ n)

/-- A group whose bundle issues joins the admitted set with a memory-bound bundle under the signal, and leaves it with one
that is not memory-bound. -/
def admitGroup (s : State) (loc : Nat) (g : Group) (mb : Bool) : State :=
  modSeq s (seqOf loc) fun q =>
    let rest := q.admitted.filter (· != loc % 64)
    { q with admitted :=
        if mb then
          (if s.congested.getLsbD (dieOf (coreOf loc)) && (getCtx s g.ctx).mblimit != 0 then loc % 64 :: rest else q.admitted)
        else rest }

/-- CONGESTION_SET. -/
def congestionSet (s : State) (die : Nat) : State := { s with congested := s.congested ||| BitVec.ofNat 8 (2 ^ (die % 8)) }

/-- CONGESTION_CLEAR: the admitted sets of the die are emptied. -/
def congestionClear (s : State) (die : Nat) : State :=
  let s := { s with congested := s.congested &&& ~~~(BitVec.ofNat 8 (2 ^ (die % 8))) }
  { s with seqs := s.seqs.foldl (fun t e => if e.1 / 128 = die % 8 then tput {} t e.1 { e.2 with admitted := [] } else t) s.seqs }

/-- Whether congestion keeps the next bundle of a path from being eligible. -/
def pathCongested (s : State) (loc : Nat) (g : Group) (p : Nat) : Bool :=
  s.congested.getLsbD (dieOf (coreOf loc)) && (match (fetchWords s loc g.ctx (pathAt g p).pc 8).2 with
    | .ok ws => congestionHolds s loc g ws
    | _ => false)

/-! ## Eligible groups -/

/-- Whether accesses of a path that a stop has saved have still to perform: they do so before its first bundle (R395). -/
def pathReplays (g : Group) (p : Nat) : Bool :=
  g.macc.any fun e => meets e.mask (pathAt g p).mask && e.lanes.any fun a => !a.placed

/-- Whether a path may issue its next bundle now: it has not been found held since anything else happened
(notes/assumptions/2.md), and congestion does not keep it back. -/
def pathReady (s : State) (loc : Nat) (g : Group) (p : Nat) : Bool :=
  pathOpen g p && coreServed s g.ctx (coreOf loc) && !(dbgStops s g.ctx && dbgCore (getCtx s g.ctx) == coreOf loc) && decide ((pathAt g p).heldAt ≠ some s.epoch) && !pathReplays g p
  && !pathCongested s loc g p

/-- A group that is ready (R133), and one that is also eligible by its gap (R134). -/
def groupReady (s : State) (loc : Nat) (g : Group) : Bool := pathReady s loc g 0 || pathReady s loc g 1
def groupEligible (s : State) (loc : Nat) (g : Group) : Bool := groupReady s loc g && decide (g.gap ≤ g.since)

/-- In how many of the next `n` unheld ck a group that could issue would be eligible and not issue (R134): none while its gap runs,
and not in a ck in which its sequencer has had its turn (`had`). -/
def passedIn (n : Nat) (had : Bool) (g : Group) : Nat := n - (g.gap - g.since) - b01 (had && decide (g.gap ≤ g.since) && decide (0 < n))

/-- `n` unheld ck pass on a core: its counter, its groups, passed over while they could issue, and the static charge of its contexts
(R132, R134, R494). Every sequencer may issue again. -/
def passCk (s : State) (core n : Nat) : State :=
  let turn := (getCore s core).turn
  let t := mapGroups (ageEnergy s core n) (fun l => coreOf l == core) fun l g =>
    tickGroup n (if groupReady s l g then { g with passed := g.passed + passedIn n (decide (seqOf l % 4 < turn)) g } else g)
  chargeStatic (modCore t core fun k => { k with ck := (k.ck + n) % 2 ^ 64, turn := if n = 0 then k.turn else 0 }) core n

/-- `n` unheld ck pass on a core; of many the last 64 pass by themselves, so that what was charged before them is known (R495). -/
def advanceCk (s : State) (core n : Nat) : State := if n ≤ 64 then passCk s core n else passCk (passCk s core (n - 64)) core 64

/-- The picker's order (R135): whether `a` stands before `b`. -/
def before (a b : Nat × Group) : Bool :=
  let old (g : Group) : Bool := decide (g.passed ≥ 4096)
  if old a.2 != old b.2 then old a.2
  else if a.2.giveWay != b.2.giveWay then b.2.giveWay
  else if a.2.passed != b.2.passed then decide (a.2.passed > b.2.passed)
  else decide (a.1 < b.1)

/-- The group that a sequencer chooses (R135). -/
def pickGroup (s : State) (seq : Nat) : Option (Nat × Group) :=
  ((seqGroups s seq).filter fun e => groupEligible s e.1 e.2).foldl (fun o e => match o with
    | none => some e
    | some b => if before e b then some e else some b) none

/-- The path that issues (R136). -/
def pickPath (s : State) (loc : Nat) (g : Group) : Nat :=
  if !pathReady s loc g 1 then 0
  else if !pathReady s loc g 0 then 1
  else if g.p1.lastIssue < g.p0.lastIssue then 1 else 0

/-- What the H slot among a bundle's words hints (R62): GAP and GW. -/
def hintOf (ws : List Word) : Nat × Bool :=
  match ws.find? fun w => wordClass w == 12 with
  | some w => (fld w.toNat 26 22, w.getLsbD 21)
  | none => (0, false)

/-- A bundle has issued (R134-R138), whether it commits, traps or parks; a ck more has passed if its group had to be woken.
The counts of the sequencer's other groups that were eligible move, the group is the most recent of the active set, its
path has issued last, and its sequencer has had its turn. -/
def accountIssue (s : State) (is : Issue) (hint : Nat × Bool) : State :=
  let loc := is.loc
  let seq := seqOf loc
  let slot := loc % 64
  let q := getSeq s seq
  let wake := !q.active.contains slot
  let s := match getGroup s loc with
    | some g => admitGroup s loc g is.mb
    | none => s
  let s := modSeq s seq fun q => { q with active := (slot :: q.active.erase slot).take 16 }
  let s := if wake then advanceCk s (coreOf loc) 1 else s
  let s := mapGroups s (fun l => seqOf l == seq && l != loc) fun l g =>
    if groupEligible s l g then { g with passed := g.passed + 1 } else g
  let s := modCore s (coreOf loc) fun k => { k with turn := seq % 4 + 1 }
  modGroup s loc fun g =>
    modPath { g with since := 0, passed := 0, gap := hint.1, giveWay := hint.2, issued := g.issued + 1 } is.path fun pt =>
      { pt with lastIssue := g.issued + 1 }

end Sys2Proof.Machine
end

