-- ==== Sys2Proof/Machine/Publish.lean ====
section
/-! DEFINITION. Publications and poses on their way to the heads: PRPUB, POSEW and the PRESENT packet
(spec/19_presentation.md R441-R443; spec/05_queue.md R102). -/

namespace Sys2Proof.Machine

/-- The context that a head's descriptor names (R427). -/
def headCtx (h : Head) : Nat := fld (dwAt h.desc 0) 55 44

/-- A head is owned by a context from its START until it is idle again (R442). -/
def headOwned (h : Head) (c : Nat) : Bool := decide (h.st ≠ .idle) && headCtx h == c

/-- A head that is starting or active. -/
def headServing (h : Head) : Bool := decide (h.st = .starting) || decide (h.st = .active)

/-- A head that takes publications and poses of a context. -/
def headTakes (h : Head) (c : Nat) : Bool := headServing h && headCtx h == c

/-- The heads of a mask, ascending. -/
def headsOf (m : Nat) : List Nat := (List.range 16).filter fun h => bitOf m h

/-- A publication reaches the heads of a list that take it. -/
def publishTo (s : State) (c va : Nat) (l : List Nat) : State :=
  l.foldl (fun s h => if headTakes (getHead s h) c then modHead s h fun x => { x with pubIn := x.pubIn ++ [(c, va)] } else s) s

/-- PRPUB (R442): its checks; it issues once the group's earlier accesses have performed. -/
def zPrpub : Meaning := consuming (pureM fun c =>
  let va := spair c.g c.pt c.a
  let y := uB true c
  let m := y.val.toNat
  if m = 0 || m ≥ 65536 then trapOf 2
  else if va.2 || y.poison then trapOf 7
  else if va.1 ≥ 2 ^ 57 then trapOf 4 va.1
  else if va.1 % 128 ≠ 0 then trapOf 3 va.1
  else if !c.g.macc.isEmpty then .hold
  else .ok [.publish m va.1 c.d] 0 [])

/-- PRPUB at commit. -/
def publishCommit (s : State) (loc p m va d : Nat) : State :=
  match getGroup s loc with
  | none => s
  | some g =>
    let pt := pathAt g p
    let ok := (headsOf m).all fun h => headTakes (getHead s h) g.ctx
    publishTo (putGroup s loc { g with inflight := g.inflight ++ [⟨pt.mask, pt.depth, 4, [.sp d ⟨ok, false⟩]⟩] }) g.ctx va (headsOf m)

/-- POSEW (R443): its checks. -/
def zPosew : Meaning := consuming (pureM fun c =>
  let y := uB true c
  let ws := (List.range 16).map fun j => sreg c.g c.pt (c.a + j)
  if c.a > 48 || y.val.toNat > 15 then trapOf 2
  else if y.poison || ws.any (·.poison) then trapOf 7
  else if !c.g.macc.isEmpty then .hold
  else .ok [.poseWrite y.val.toNat (ws.map (·.val)) c.d] 0 [])

/-- POSEW at commit. -/
def poseCommitSlot (s : State) (loc p h : Nat) (ws : List Word) (d : Nat) : State :=
  match getGroup s loc with
  | none => s
  | some g =>
    let pt := pathAt g p
    let ok := headTakes (getHead s h) g.ctx
    let s := putGroup s loc { g with inflight := g.inflight ++ [⟨pt.mask, pt.depth, 4, [.sp d ⟨ok, false⟩]⟩] }
    if ok then modHead s h fun x => { x with poseIn := x.poseIn ++ [bytesDw (ws.flatMap fun w => natLe w.toNat 4)] } else s

/-- PRESENT (R442). -/
def packetPresent (s : State) : State :=
  onPacket s true (fun k => reservedBad k [(1, vaBits), (2, 0xFFFF)] || k.dw 1 % 128 != 0 || k.dw 2 == 0) fun s q k =>
    let c := (getQueue s q).ctx
    if (headsOf (k.dw 2)).all fun h => headOwned (getHead s h) c then packetStarted (publishTo s c (k.dw 1) (headsOf (k.dw 2))) q false
    else packetFault s q 6 (packetAddr (getQueue s q)) k.tag

end Sys2Proof.Machine
end

