-- ==== Sys2Proof/Machine/System.lean ====
section
/-! DEFINITION. TRAP, RTE, BRK, TRACEMARK and ENRD (spec/17_traps.md R390-R392, spec/23_debug.md R490, R495). -/

namespace Sys2Proof.Machine

/-- TRAP (R391): SOFTWARE with the operand as its address. -/
def zTrap : Meaning := consuming (pureM fun c =>
  let y := zB c
  if y.poison then trapOf 7 else trapOf 14 y.val.toNat)

/-- BRK (R391): BREAKPOINT with the tag as its address. -/
def zBrk : Meaning := consuming (pureM fun c => trapOf 15 c.b)

/-- RTE (R392). -/
def zRte (skip : Bool) : Meaning := consuming (pureM fun c =>
  let t := c.g.epc.toNat
  if !c.g.hnd || c.pt.window.isSome then trapOf 2
  else if t ≥ 2 ^ 57 then trapOf 4 t
  else if t % 4 ≠ 0 then trapOf 3 t
  else .ok [.rte t (fld c.g.ecause.toNat 14 12) skip] 0 [])

/-- TRACEMARK (R490). -/
def zTracemark : Meaning := consuming (pureM fun c =>
  let y := zB c
  if y.poison then trapOf 7 else .ok [.mark y.val] 0 [])

/-- ENRD (R495): a free value no greater than EC and no less than what the group read before. -/
def zEnrd : Meaning := consuming (pureM fun c =>
  .ok [.enrd c.d] 0 [])

/-- The value that ENRD reads: EC less a free shortfall, never below `low`: the group's earlier readings and what was charged 64 ck or
more before (notes/assumptions/3.md). -/
def enrdValue (ec low free : Nat) : Nat := ec - free % (ec - min low ec + 1)

/-- ENRD at commit: the pair lands 16 ck after issue. -/
def enrdCommit (s : State) (loc p d : Nat) : State :=
  match getGroup s loc with
  | none => s
  | some g =>
    let fr := drawFree s
    let v := enrdValue (getCtx s g.ctx).ec (max g.enrd (energyFloor s (coreOf loc) g.ctx)) (Config.energyShort fr.1)
    let pt := pathAt g p
    putGroup fr.2 loc { g with enrd := v, inflight := g.inflight ++ [⟨pt.mask, pt.depth, 16,
      [.s d ⟨BitVec.ofNat 32 v, false⟩, .s (d + 1) ⟨BitVec.ofNat 32 (v / 2 ^ 32), false⟩]⟩] }

end Sys2Proof.Machine
end

