-- ==== Sys2Proof/Machine/Uniform.lean ====
section
/-! DEFINITION. The U-class forms (spec/08_arith.md R169, R171-R178). -/

namespace Sys2Proof.Machine

/-- UADD and USUB (R171-R173): with CV the carry predicate, with SAT the clamp. -/
def uAddSub (wrap : Word → Word → Bool → Word × Bool) (sat : Word → Word → Word × Bool) : Meaning := uSlot fun c =>
  let x := uA c
  let y := uB false c
  let m := c.mod
  let po := x.poison || y.poison
  if m.sat then
    let r := sat x.val y.val
    .ok ([.s c.d ⟨r.1, po⟩], laneFlag po (flagIf r.2 fSAT))
  else if m.cv then
    let n := c.creg % 8
    let cin : PBit := if bitOf c.creg 3 then spreg c.g c.pt n else ⟨false, false⟩
    let r := wrap x.val y.val cin.val
    let po := po || cin.poison
    .ok ([.s c.d ⟨r.1, po⟩, .sp n ⟨r.2, po⟩], 0)
  else .ok ([.s c.d ⟨(wrap x.val y.val false).1, po⟩], 0)

/-- UMUL (R171, R173). -/
def uMul : Meaning := uSlot fun c =>
  let x := uA c
  let y := uB false c
  let po := x.poison || y.poison
  if c.mod.sat then
    let r := mulSat x.val y.val
    .ok ([.s c.d ⟨r.1, po⟩], laneFlag po (flagIf r.2 fSAT))
  else .ok ([.s c.d ⟨mulLow x.val y.val, po⟩], 0)

/-- UCMP (R174). -/
def uCmp (signed : Bool) : Meaning := uSlot fun c =>
  let x := uA c
  let y := uB false c
  .ok ([.sp (c.d % 8) ⟨intCond signed (c.d / 8) x.val y.val, x.poison || y.poison⟩], 0)

/-- UBFI (R171) reads its destination. -/
def uBfi : Meaning := uSlot fun c =>
  let x := uA c
  let y := uB true c
  let d := sreg c.g c.pt c.d
  .ok ([.s c.d ⟨bfi d.val x.val y.val, x.poison || y.poison || d.poison⟩], 0)

/-- USEL (R171). -/
def uSel : Meaning := uSlot fun c =>
  let x := uA c
  let y := uB false c
  let q := spreg c.g c.pt c.creg
  let r := if q.val then x else y
  .ok ([.s c.d ⟨r.val, x.poison || y.poison || q.poison⟩], 0)

/-- UMOV, the register form (R175). -/
def uMov : Meaning := uUnary id

/-- UMOV with an immediate, mode 0 (R175). The immediate is required. -/
def uMovImm : Meaning := fun c =>
  match c.w.imm with
  | none => (c.s, trapOf 1)
  | some x => uSlot (fun c => .ok ([.s c.d ⟨immS x, false⟩], 0)) c

/-- UMOV.hi (R175). -/
def uMovHi : Meaning := fun c =>
  match c.w.imm with
  | none => (c.s, trapOf 1)
  | some x => uSlot (fun c =>
      let old := sreg c.g c.pt c.d
      .ok ([.s c.d ⟨(old.val &&& 0x00FFFFFF) ||| (immZ x <<< 24), old.poison⟩], 0)) c

/-- UMOVW (R176): a window of n uniforms. With its guard 0 it makes no check. -/
def uMovw : Meaning := fun c =>
  match c.w.imm with
  | none => (c.s, trapOf 1)
  | some x =>
    let n := fld x.toNat 13 11 + 1
    let wr := fld x.toNat 9 0
    let out := bitOf x.toNat 10
    let near := if out then c.a else c.d
    let g := scalarGuard c
    if (g.val || g.poison) && decide (near + n > 64 ∨ wr + n > 1024) then (c.s, trapOf 2)
    else
      let src := if out then near else wr
      let dst := if out then wr else near
      withUses (fun _ => [⟨.s, src, n, false⟩, ⟨.s, dst, n, true⟩])
        (uSlot fun c => .ok ((List.range n).map fun j => .s (dst + j) (sreg c.g c.pt (src + j)), 0)) c

/-- The index of ULDX and USTX (R177), and whether it is poisoned. -/
def uIndex (c : SC) : Nat × Bool :=
  let x := uA c
  let y := uB false c
  ((x.val + y.val).toNat, x.poison || y.poison)

/-- The uniform that a computed index names, if it is one. -/
def indexUse (wr : Bool) (c : SC) : List RegUse :=
  let i := uIndex c
  if i.2 || decide (i.1 > 1023) then [] else [⟨.s, i.1, 1, wr⟩]

/-- ULDX (R177). With its guard poisoned it looks at no index: s(d) keeps its value with poison set (R75). -/
def uLdx : Meaning := withUses (indexUse false) (uSlot fun c =>
  let i := uIndex c
  if i.2 || (scalarGuard c).poison then .ok ([.s c.d ⟨(sreg c.g c.pt c.d).val, true⟩], 0)
  else if i.1 > 1023 then .error ⟨4, 0, 0, 0⟩
  else .ok ([.s c.d (sreg c.g c.pt i.1)], 0))

/-- USTX (R177): s(d) is the datum. With its guard poisoned and an index that names no uniform there is none to keep. -/
def uStx : Meaning := withUses (indexUse true) (uSlot fun c =>
  let i := uIndex c
  if i.2 then .error ⟨7, 0, 0, 0⟩
  else if i.1 > 1023 then (if (scalarGuard c).poison then .ok ([], 0) else .error ⟨4, 0, 0, 0⟩)
  else .ok ([.s i.1 (sreg c.g c.pt c.d)], 0))

/-- sr.loc (R132). -/
def srLoc (loc : Nat) : Word :=
  BitVec.ofNat 32 (dieOf (coreOf loc) * 2 ^ 29 + coreOf loc % 32 * 2 ^ 24 + seqOf loc % 4 * 2 ^ 22 + loc % 64 * 2 ^ 16)

/-- The value of a special register as a path reads it (R132); none for a number that is not listed, and for sr.lane. -/
def specialRead (c : SC) (n : Nat) : Option Word :=
  let g := c.g
  match n with
  | 0x01 => some g.gidx
  | 0x02 => some g.set
  | 0x03 => some g.launch
  | 0x04 => some (BitVec.ofNat 32 (srCtx c.s g.ctx))
  | 0x05 => some (BitVec.ofNat 32 (getCore c.s (coreOf c.is.loc)).ck)
  | 0x06 => some g.cyclehi
  | 0x07 => some g.fflags
  | 0x08 => some g.lfault
  | 0x09 => some (g.key.extractLsb' 0 32)
  | 0x0A => some (g.key.extractLsb' 32 32)
  | 0x0B => some (g.key.extractLsb' 64 32)
  | 0x0C => some (g.key.extractLsb' 96 32)
  | 0x0D => some (g.epc.extractLsb' 0 32)
  | 0x0E => some (g.epc.extractLsb' 32 32)
  | 0x0F => some (ecauseRead g)
  | 0x10 => some (g.efault.extractLsb' 0 32)
  | 0x11 => some (g.efault.extractLsb' 32 32)
  | 0x12 => some (c.pt.mask.setWidth 32)
  | 0x13 => some (BitVec.ofNat 32 c.pt.depth)
  | 0x14 => some (BitVec.ofNat 32 g.blocks)
  | 0x15 => some (srLoc c.is.loc)
  | _ => none

/-- Whether UWRS may write a special register (R132). -/
def specialWritable (n : Nat) : Bool :=
  n == 0x07 || n == 0x08 || n == 0x0D || n == 0x0E || n == 0x0F || n == 0x10 || n == 0x11

/-- URDS (R178); a read of sr.cycle latches sr.cyclehi (R132). With its guard 0 it has no effect (R167). DEDUCED (notes/assumptions/30.md):
under a poisoned guard an unlisted number still traps, and sr.cyclehi is not latched. -/
def uRds : Meaning := fun c =>
  match specialRead c c.a with
  | none => (c.s, if (scalarGuard c).val || (scalarGuard c).poison then trapOf 2 else .nothing)
  | some v =>
    match uSlot (fun c => .ok ([.s c.d ⟨v, false⟩], 0)) c with
    | (s, .ok e f u) =>
      let g := scalarGuard c
      let latch := if c.a = 5 && g.val && !g.poison then
          [Eff.latchCycle (BitVec.ofNat 32 ((getCore c.s (coreOf c.is.loc)).ck / 2 ^ 32))] else []
      (s, .ok (e ++ latch) f u)
    | r => r

/-- UWRS (R76, R178): it consumes a poisoned guard and a poisoned s(a). -/
def uWrs : Meaning := consuming (pureM fun c =>
  let x := uA c
  if !specialWritable c.d then trapOf 2
  else if x.poison then trapOf 7
  else .ok [.special c.d x.val] 0 [])

/-- A write of a special register at commit (R132, R178, R209, R388). `flags` are those that the bundle raises. -/
def specialWrite (g : Group) (n : Nat) (w : Word) (flags : BitVec 6) : Group :=
  let lo (d : DWord) : DWord := (d &&& 0xFFFFFFFF00000000) ||| w.setWidth 64
  let hi (d : DWord) : DWord := (d &&& 0x00000000FFFFFFFF) ||| (w.setWidth 64 <<< 32)
  match n with
  | 0x07 => { g with fflags := (w &&& 0x3F) ||| flags.setWidth 32 }
  | 0x08 => { g with lfault := w &&& 0xC00FFFFF }
  | 0x0D => { g with epc := lo g.epc }
  | 0x0E => { g with epc := hi g.epc }
  | 0x0F => { g with ecause := w }
  | 0x10 => { g with efault := lo g.efault }
  | 0x11 => { g with efault := hi g.efault }
  | _ => g

end Sys2Proof.Machine
end

