-- ==== Sys2Proof/Machine/Commit.lean ====
section
/-! DEFINITION. How a slot of the open bundle runs, and what the bundle's commit does (spec/03_bundles.md R52-R76,
spec/07_group.md R145-R152, spec/17_traps.md R384). -/

namespace Sys2Proof.Machine

/-! ## The destinations of effects -/

/-- The shadowed registers that an effect writes (R149), by their keys. -/
def effKeys : Eff → List Nat
  | .result _ ws => ws.filterMap fun w => match w with
    | .s r _ => some r
    | .sp r _ => some (spKey r)
    | _ => none
  | .child d _ => [d]
  | .tcancel d _ => [d]
  | .qput d _ _ => [spKey d]
  | .rres d b _ _ => [d, spKey b]
  | .window w => match w.link with
    | some (d, _) => [d, d + 1]
    | none => []
  | .barbOp _ _ _ d => [d]
  | .wait (.waitevt e) => [spKey (evtDest e)]
  | .enrd d => [d, d + 1]
  | .publish _ _ d => [spKey d]
  | .poseWrite _ _ d => [spKey d]
  | _ => []

/-- The registers for which a path's shadow must gain an entry (R149). -/
def newKeys (pt : Path) (effs : List Eff) : List Nat :=
  if pt.depth = 0 then []
  else ((effs.flatMap effKeys).eraseDups).filter fun k => (shadowOf pt.shadow k).isNone

/-- Whether a slot's writes pass the limit of 32 shadow entries (R149). -/
def shadowFull (pt : Path) (before effs : List Eff) : Bool :=
  decide ((newKeys pt (before ++ effs)).length > (newKeys pt before).length)
  && decide (pt.shadow.length + (newKeys pt (before ++ effs)).length > 32)

/-- At commit every register that the bundle writes has an entry at the path's level, with the value that the path reads; the
results replace the values as they land. -/
def growShadow (g : Group) (p : Nat) (keys : List Nat) : Group :=
  modPath g p fun pt =>
    if pt.depth = 0 then pt
    else { pt with shadow := keys.foldl (fun sh k =>
      let v : PWord := match shadowOf sh k with
        | some e => ⟨e.val, e.poison⟩
        | none => fileVal g k
      shadowPut sh k pt.depth v.val v.poison) pt.shadow }

/-! ## Overwritten destinations (R65) -/

/-- Two writes of one register in one lane. -/
def sameDest : RegWrite → RegWrite → Bool
  | .v r l _, .v q k _ => r == q && l == k
  | .s r _, .s q _ => r == q
  | .p r l _, .p q k _ => r == q && l == k
  | .sp r _, .sp q _ => r == q
  | .x r _, .x q _ => r == q
  | _, _ => false

/-- The writes that an entry of the memory-access list will make. -/
def entryWritesOf (e : MemEntry) : List RegWrite :=
  e.lanes.flatMap fun a => match e.kind with
    | .load width _ d => (List.range (if width = 64 then 2 else 1)).map fun j => .v (d + j) a.lane {}
    | .atomic .publish d => [.p d a.lane {}]
    | .atomic _ d => (List.range (if e.size = 8 then 2 else 1)).map fun j => .v (d + j) a.lane {}
    | _ => []

/-- A lane's access without the registers that later slots write. -/
def dropWrites (ws : List RegWrite) (e : MemEntry) (a : LaneAccess) : LaneAccess :=
  let hit (w : RegWrite) : Bool := ws.any (sameDest w)
  match e.kind with
  | .load _ _ d | .atomic _ d =>
    let bit (j : Nat) : Nat := b01 (hit (.v (d + j) a.lane {})) * 2 ^ j
    match e.kind with
    | .atomic .publish d => { a with drop := a.drop ||| b01 (hit (.p d a.lane {})) }
    | _ => { a with drop := a.drop ||| (bit 0 + bit 1) }
  | _ => a

/-- A change of the elements of a list from position `n` to before position `m`. -/
def mapRange {α : Type} (l : List α) (n m : Nat) (f : α → α) : List α :=
  l.take n ++ ((l.take m).drop n).map f ++ l.drop m

/-- Writes of earlier slots of the bundle to the registers of `ws` are dropped (R65). `n`, `m` and `k` bound the bundle's own
results, entries and cancellations. -/
def dropEarlier (g : Group) (ws : List RegWrite) (n n' m m' k k' : Nat) : Group :=
  if ws.isEmpty then g
  else
    let hit (w : RegWrite) : Bool := ws.any (sameDest w)
    { g with
      inflight := mapRange g.inflight n n' fun r => { r with writes := r.writes.filter fun w => !hit w }
      macc := mapRange g.macc m m' fun e => { e with lanes := e.lanes.map (dropWrites ws e) }
      cancels := mapRange g.cancels k k' fun q => if hit (.s q.d {}) then { q with d := 1024 } else q }

/-- The last slot to write a register stands (R65): earlier writes of the bundle are dropped, and so is a CALL's link in the
registers of `ws`. -/
def overwrite (g : Group) (p : Nat) (ws : List RegWrite) (n n' m m' k k' : Nat) : Group :=
  if ws.isEmpty then g
  else
    let hit (w : RegWrite) : Bool := ws.any (sameDest w)
    modPath (dropEarlier g ws n n' m m' k k') p fun pt => match pt.window with
      | some w => match w.link with
        | some (d, bits) => if w.left = 3 then
            { pt with window := some { w with link := some (d, bits ||| b01 (hit (.s d {})) ||| 2 * b01 (hit (.s (d + 1) {}))) } }
          else pt
        | none => pt
      | none => pt

/-! ## Effects at commit (R66) -/

/-- Merges a slot's lane faults into sr.lfault and the record (R209, R210). -/
def recordLaneFault (g : Group) (baddr slot op : Nat) (m : LaneMask) (causes : DWord) (addr : Tbl Nat) : Group :=
  let cause := fld causes.toNat (4 * lowLane m + 3) (4 * lowLane m)
  let old := g.lfault
  { g with
    lfault := 0x80000000 ||| (if old.getLsbD 31 then 0x40000000 else old &&& 0x40000000)
      ||| BitVec.ofNat 32 (cause * 65536) ||| (old &&& 0xFFFF) ||| m.setWidth 32
    lfrec := { baddr := baddr, slot := slot, op := op, mask := m, causes := causes, seq := g.lfrec.seq + 1
               addr := addr.filter fun e => e.2 != 0 } }

/-- A result of the path that lands `left` ck after issue. -/
def resultIn (g : Group) (p left : Nat) (ws : List RegWrite) : Group :=
  let pt := pathAt g p
  { g with inflight := g.inflight ++ [⟨pt.mask, pt.depth, left, ws⟩] }

/-- A FENCE or DRAIN as an entry of the memory-access list. -/
def fenceEntry (is : Issue) (pt : Path) (scope : Nat) (drain : Bool) : MemEntry :=
  { kind := if drain then .drain else .fence, mask := pt.mask, pond := false, size := 0, lanes := [], baddr := is.baddr
    word := BitVec.ofNat 32 (0x18000000 + (if drain then formDrain.op else formFence.op) * 2 ^ 18 + 0x07000000), modw := 0
    scope := scope, cached := false }

/-- A path enters a wait that a committed bundle holds; one whose condition already holds ends at once. -/
def enterWait (s : State) (loc p : Nat) (w : Wait) : State :=
  let put (s : State) : State := modPathAt s loc p fun pt => { pt with waits := pt.waits ++ [w] }
  match w with
  | .bar ph =>
    match getGroup s loc with
    | none => s
    | some g => if setPhase s g = ph then put s else acquireBy (.path loc p) 2 (modGroup s loc fun g => { g with arr := false })
  | .waitevt e =>
    let n := match getGroup s loc with
      | some g => g.macc.length
      | none => 0
    evtTry (modPathAt s loc p fun pt => { pt with waits := pt.waits ++ [.waitevt { e with after := n }] }) loc p
  | _ => put s

/-- One effect of the slot at a position of a committing bundle. -/
def applyEff (s : State) (is : Issue) (slot : Nat) (e : Eff) : State :=
  let loc := is.loc
  let p := is.path
  let onG (f : Group → Group) : State := modGroup s loc f
  match e with
  | .result lat ws => onG fun g => resultIn g p lat ws
  | .special n w => onG fun g => specialWrite g n w is.flags
  | .latchCycle hi => onG fun g => { g with cyclehi := hi }
  | .popRandom m => onG fun g => popStreams g m
  | .seed m x ids => onG fun g => seedStreams g m x ids
  | .latch k w => onG fun g => { g with kpend := g.kpend ++ [⟨k, w, 2, false⟩] }
  | .stage j w => onG fun g => { g with y := tput 0 g.y j w }
  | .access e => onG fun g => { g with macc := g.macc ++ [e] }
  | .fence sc drain => onG fun g => { g with macc := g.macc ++ [fenceEntry is (pathAt g p) sc drain] }
  | .prefetch lines => prefetchLines s loc p lines
  | .wait w => enterWait s loc p w
  | .laneFault sl op m causes addr => onG fun g => recordLaneFault g is.baddr sl op m causes addr
  | .fifoPush b x => putBank s b { getBank s b with fifo := (getBank s b).fifo ++ [x] }
  | .fifoPop b d lanes =>
    match (getBank s b).fifo with
    | [] => s
    | x :: t => modGroup (putBank s b { getBank s b with fifo := t }) loc fun g =>
        resultIn g p 12 ((lanesOf lanes).map fun l => .v d l ⟨x.getD l 0, false⟩)
  | .child d r => createChild s loc p is.baddr slot d r
  | .tcancel d tok => tcancelCommit s loc p d tok
  | .acquire sc => acquireBy (.path loc p) sc s
  | .childFree k => childFreed s k
  | .childDetach k => modChild s k fun h => { h with attached := false }
  | .childGiveUp k => childGivenUp s k
  | .childPrio k n => modChild s k fun h => { h with prio := n }
  | .childReported k => modChild s k fun h => { h with reported := true }
  | .qput d q ws => qputCommit s loc p is.baddr d q ws
  | .rres d b rq n => rresCommit s loc p d b rq n
  | .rcommit rq n first => rcommitCommit s loc is.baddr rq n first
  | .window w => onG fun g => modPath g p fun pt => { pt with window := some w }
  | .openRegion t m0 m1 target => onG fun g => openRegion g t m0 m1 target
  | .join _ => onG fun g => joinPath g p
  | .exitPath => onG fun g => exitPath g p
  | .yield => onG fun g => { g with giveWay := true }
  | .lfill d pa rq => lfillCommit s loc p d pa rq
  | .routine i d => putRoutine s loc i (some d)
  | .routineFree i => putRoutine s loc i none
  | .tilesZero t n => tilesZeroCommit s loc t n
  | .tilesFree t n => tilesFreeCommit s loc t n
  | .tileWrite t l => tileWriteCommit s loc t l
  | .barArrive => arriveBar s loc
  | .barbOp mode off x d => barbCommit s loc p mode off x d
  | .blocksRel n => onG fun g => { g with blocks := g.blocks - n, v := tclear g.v (128 * (g.blocks - n)) (128 * n) }
  | .blocksClaim n => onG fun g =>
      modPath { g with blocks := g.blocks + n, v := tclear g.v (128 * g.blocks) (128 * n) } p fun pt => { pt with granted := 0 }
  | .bankMode b m =>
    match getGroup s loc with
    | none => s
    | some g =>
      let q := pondOf s g
      let k := q.1 * 32 + q.2.getD b 0
      putBank s k { getBank s k with pending := some m }
  | .bankFence => bankFence s loc p
  | .publish m va d => publishCommit s loc p m va d
  | .poseWrite h ws d => poseCommitSlot s loc p h ws d
  | .mark v =>
    match getGroup s loc with
    | none => s
    | some g => traceMark s is g slot (BitVec.ofNat 32 (formTracemark.op * 2 ^ 18)) v
  | .rte t len skip => onG fun g => returnFromTrap g p t len skip
  | .keep t d =>
    match getGroup s loc with
    | none => s
    | some g => modCtx s g.ctx fun x => { x with kept := tput [] x.kept t d }
  | .enrd d => enrdCommit s loc p d
  | .hint gap gw => onG fun g => { g with gap := gap, giveWay := g.giveWay || gw }
  | .trace word lf lanes =>
    match getGroup s loc with
    | none => s
    | some g => traceSlot s is g slot word lf lanes

/-- The register that a wait writes when it ends (R365, R366). -/
def waitWrites : Eff → List RegWrite
  | .barbOp _ _ _ d => [.s d {}]
  | .wait (.waitevt e) => [.sp (evtDest e) {}]
  | _ => []

/-- The registers that a CALL's link takes when its window closes (R160). -/
def linkWrites : Eff → List RegWrite
  | .window w => match w.link with
    | some (d, _) => [.s d {}, .s (d + 1) {}]
    | none => []
  | _ => []

/-- One effect, after which the registers that it writes are the slot's alone (R65). `n`, `m` and `k` are the lengths of
the group's lists before the bundle. -/
def commitEff (is : Issue) (n m k : Nat) (s : State) (e : Nat × Eff) : State :=
  match getGroup s is.loc with
  | none => s
  | some g =>
    let mask := (pathAt g is.path).mask
    let s := applyEff s is e.1 e.2
    modGroup s is.loc fun h =>
      let ws := waitWrites e.2 ++ ((h.inflight.drop g.inflight.length).filter fun r => r.mask == mask).flatMap (·.writes)
        ++ (h.macc.drop g.macc.length).flatMap entryWritesOf
        ++ (h.cancels.drop g.cancels.length).map (fun q => .s q.d {})
      overwrite (dropEarlier h (linkWrites e.2) n g.inflight.length m g.macc.length k g.cancels.length) is.path ws
        n g.inflight.length m g.macc.length k g.cancels.length

/-! ## Commit -/

/-- The counts that a committed bundle advances before its own effects (R72, R73): its flags, its path's next bundle and
window, the group's pending latch writes. -/
def advanceCounts (g : Group) (p len : Nat) (flags : BitVec 6) : Group :=
  let g := { g with fflags := g.fflags ||| flags.setWidth 32, kpend := countLatches g.kpend }
  modPath g p fun pt =>
    { pt with pc := (pt.pc + 4 * len) % 2 ^ 57, window := countWindow pt.window, heldAt := none, held := 0, doomed := none, rejected := none }

/-- JOIN and EXIT, which the path carries out when its bundle has done all else: the other effects are its own (R149). -/
def leavesPath : Eff → Bool
  | .join _ => true
  | .exitPath => true
  | _ => false

/-- The bundle commits: its effects take place in slot order (R64-R66). -/
def commit (s : State) (is : Issue) : State :=
  match getGroup s is.loc with
  | none => { s with cur := none }
  | some g =>
    let s := accountIssue (charge { s with cur := none } g.ctx is.cost) is (0, false)
    let s := { s with epoch := s.epoch + 1 }
    let g := (getGroup s is.loc).getD g
    let g := growShadow g is.path (((is.effs.map (·.2)).flatMap effKeys).eraseDups)
    let g := advanceCounts g is.path is.len is.flags
    let effs := is.effs.filter (fun e => !leavesPath e.2) ++ is.effs.filter fun e => leavesPath e.2
    effs.foldl (commitEff is g.inflight.length g.macc.length g.cancels.length) (putGroup s is.loc g)

/-! ## Slots -/

/-- The charge of one word as a slot; 0 for E and H slots (R494). -/
def wordCost (s : State) (w : Word) : Nat :=
  match slotWeight (wordClass w) (fld w.toNat 23 18) with
  | some i => weight s i
  | none => 0

/-- Charges a bundle that has issued and does not commit: the slots taken and those that follow (R494). -/
def chargeIssued (s : State) (is : Issue) : State :=
  match getGroup s is.loc with
  | none => s
  | some g => accountIssue (charge s g.ctx (is.cost + (is.words.map (wordCost s)).sum)) is (hintOf is.words)

/-- The token operand of a word, if it is that of a token form: the Y-class forms of which A is a token (R386). -/
def wordToken (g : Group) (pt : Path) (w : Word) : Word :=
  let op := fld w.toNat 23 18
  if wordClass w = 8 && decide (2 ≤ op) && decide (op ≤ 7) then (sreg g pt (fld w.toNat 11 6)).val else 0

/-- The token operand of a slot of a bundle, of which the words not yet taken are given from position `idx` on. -/
def slotToken (g : Group) (p : Nat) (words : List Word) (idx slot : Nat) : Word :=
  if slot < idx then 0 else match words[slot - idx]? with
    | some w => wordToken g (pathAt g p) w
    | none => 0

/-- The bundle traps on a slot. -/
def trapSlot (s : State) (is : Issue) (slot : Nat) (t : TrapInfo) : State :=
  let tok := match getGroup s is.loc with
    | some g => slotToken g is.path is.words is.idx slot
    | none => 0
  raiseTrap (chargeIssued s is) is slot { t with token := tok }

/-- The bundle waits to issue: it is closed with nothing done (R70), `waits` for a counter, token, barrier, FIFO or claim (R383). A
claim that it has left waiting may complete a deadlock (R143). -/
def holdSlot (s : State) (is : Issue) (waits : Bool) : State :=
  claimDeadlock (modPathAt { s with cur := none } is.loc is.path fun pt => { pt with heldAt := some s.epoch, awaits := waits })
    (seqOf is.loc)

/-- The entries that an effect's results take in a group image. -/
def effResults (e : Eff) : Nat :=
  match e with
  | .result _ ws => imageEntries ws
  | .fifoPop .. => 1
  | .lfill .. => 3
  | e => (effKeys e).length

/-- Whether a bundle with these effects would take its group above 256 in-flight results or 64 unperformed accesses
(R396). -/
def dumpFull (g : Group) (effs : List Eff) : Bool :=
  let results := (effs.map effResults).sum
  let accesses := (effs.filter fun e => match e with
    | .access _ | .fence .. | .wait (.waitevt _) => true
    | _ => false).length
  let waits := ((g.p0.waits ++ g.p1.waits).filter fun w => match w with
    | .waitevt _ => true
    | _ => false).length
  decide ((g.inflight.map fun r => imageEntries r.writes).sum + results > 256 ∧ results > 0)
  || decide (g.macc.length + waits + accesses > 64 ∧ accesses > 0)

/-- Words of a slot: itself and its E slots. -/
def slotWords (w : Slot) : Nat := 1 + b01 w.imm.isSome + b01 w.mod.isSome

/-- The open bundle after a slot has been taken. -/
def takeSlot (s : State) (is : Issue) (cls : Nat) (w : Slot) : Issue :=
  { is with words := is.words.drop (slotWords w), idx := is.idx + slotWords w, above := cls + 1
            cost := is.cost + wordCost s (is.words.headD 0) }

/-- A memory-trace record among effects. -/
def isTrace : Eff → Bool
  | .trace .. => true
  | _ => false

/-- Whether a slot's modifier has LF set. -/
def slotLf (w : Slot) : Bool :=
  match w.mod with
  | some m => m.lf
  | none => false

/-- An M slot that says nothing of its trace leaves a record without addresses (R488). -/
def traceSlotEffs (cls : Nat) (word : Word) (w : Slot) (effs : List Eff) : List Eff :=
  if cls = 3 && !effs.any isTrace then effs ++ [.trace word (slotLf w) []] else effs

/-- A slot has been taken: after the last the bundle commits, unless its group's image would not hold what it leaves (R396); a
bundle of eight slots without a stop traps (R53). -/
def closeSlot (s : State) (is next : Issue) (g : Group) (stop : Bool) : State :=
  if stop then (if dumpFull g (next.effs.map (·.2)) then holdSlot s is false else commit s next)
  else if next.words.isEmpty then trapSlot s is 7 ⟨1, 0, 0, 0⟩
  else { s with cur := some next }

/-- What a slot answered is carried out: its effects join the bundle, which commits after its last slot; or the bundle
traps, parks, or may not issue yet. -/
def finishSlot (s : State) (is next : Issue) (g : Group) (cls : Nat) (w : Slot) (r : SlotRes) : State :=
  let pt := pathAt g is.path
  match r with
  | .trap t => trapSlot s is is.idx t
  | .park r => parkOnPage (chargeIssued s is) is r
  | .build [] => { chargeIssued s is with cur := none, epoch := s.epoch + 1 }
  | .build ps => parkOnBuild (chargeIssued s is) is ps
  | .hold => holdSlot s is false
  | .wait => holdSlot s is true
  | .ok effs flags us =>
    if linkFault pt us then trapSlot s is is.idx ⟨2, 0, 0, 0⟩
    else if shadowFull pt (is.effs.map (·.2)) effs then trapSlot s is is.idx ⟨10, 0, 0, 0⟩
    else
      let effs := traceSlotEffs cls (is.words.headD 0) w effs
      let next := { next with effs := is.effs ++ effs.map (fun e => (is.idx, e)), flags := is.flags ||| flags, uses := is.uses ++ us }
      closeSlot s is next g w.stop

/-- Whether a slot is looked at beyond its encoding: a slot whose scalar guard is 0 does nothing (R55). -/
def guardOpen (f : Form) (g : Group) (pt : Path) (w : Slot) : Bool := laneGuarded f.cls || (spreg g pt w.p.toNat).val

/-- An uncorrectable soft error meets what the slot at hand reads (R383 code 13). -/
def softAt (is : Issue) : Bool := match is.soft with
  | some e => e.1 == is.idx
  | none => false

/-- The lanes whose data the soft error meets. -/
def softLanes (is : Issue) : LaneMask := match is.soft with
  | some e => e.2
  | none => 0

/-- A slot of the open bundle: its encoding, a soft error (R384), its operand checks, the scoreboard, then its meaning. -/
def slotStep (f : Form) (cls : Nat) (w : Slot) (m : Meaning) (s : State) (is : Issue) (g : Group) : State :=
  let pt := pathAt g is.path
  let us := usesOf f w
  let next := takeSlot s { is with uses := is.uses ++ us } cls w
  if !slotOk f w || !eGiven f w || decide (cls < is.above) || (cls == 9 && pt.window.isSome) then trapSlot s is is.idx ⟨1, 0, 0, 0⟩
  else if softAt is then finishSlot s is next g cls w (trapOf 13 0 (softLanes is))
  else if (guardOpen f g pt w && operandFault f w g.blocks) || linkFault pt us then finishSlot s is next g cls w (trapOf 2)
  else if us.any (pendingUse g pt) then holdSlot s is false
  else
    let r := m ⟨s, { is with uses := is.uses ++ us }, g, pt, w⟩
    finishSlot r.1 { is with uses := is.uses ++ us } next g cls w r.2

/-- The meaning of a slot: it runs only as the next slot of an open bundle. -/
def runSlot (f : Form) (cls : Nat) (w : Slot) (m : Meaning) (s : State) : Host.Outcome State Fault Refusal :=
  match s.cur with
  | none => .fault .notIssued
  | some is =>
    match getGroup s is.loc with
    | none => .fault .noGroup
    | some g => .next (slotStep f cls w m s is g)

/-- The H slot (R62): hints for the picker. -/
def runHint (stop : Bool) (gap : BitVec 5) (gw : Bool) (s : State) : Host.Outcome State Fault Refusal :=
  match s.cur with
  | none => .fault .notIssued
  | some is =>
    match getGroup s is.loc with
    | none => .fault .noGroup
    | some g =>
      let next := { is with words := is.words.drop 1, idx := is.idx + 1, above := 13, effs := is.effs ++ [(is.idx, .hint gap.toNat gw)] }
      .next (if is.above > 12 then trapSlot s is is.idx ⟨1, 0, 0, 0⟩ else closeSlot s is next g stop)

end Sys2Proof.Machine
end

