-- ==== Sys2Proof/Machine/BranchForms.lean ====
section
/-! DEFINITION. What the slots of the B class and H do: one definition for each row of the opcode table, each the row's form run
with its meaning (spec/07_group.md, spec/03_bundles.md). -/

namespace Sys2Proof.Machine

/-- BRA. -/
def execBra (w : Slot) (s : State) : Host.Outcome State Fault Refusal :=
  runSlot formBra 9 w bBra s

/-- BRC_ANY. -/
def execBrcAny (w : Slot) (s : State) : Host.Outcome State Fault Refusal :=
  runSlot formBrcAny 9 w (bBrc 0) s

/-- BRC_ALL. -/
def execBrcAll (w : Slot) (s : State) : Host.Outcome State Fault Refusal :=
  runSlot formBrcAll 9 w (bBrc 1) s

/-- BRC_NONE. -/
def execBrcNone (w : Slot) (s : State) : Host.Outcome State Fault Refusal :=
  runSlot formBrcNone 9 w (bBrc 2) s

/-- BRC_NALL. -/
def execBrcNall (w : Slot) (s : State) : Host.Outcome State Fault Refusal :=
  runSlot formBrcNall 9 w (bBrc 3) s

/-- BRD. -/
def execBrd (w : Slot) (s : State) : Host.Outcome State Fault Refusal :=
  runSlot formBrd 9 w bBrd s

/-- JOIN. -/
def execJoin (w : Slot) (s : State) : Host.Outcome State Fault Refusal :=
  runSlot formJoin 9 w bJoin s

/-- CALL. -/
def execCall (w : Slot) (s : State) : Host.Outcome State Fault Refusal :=
  runSlot formCall 9 w bCall s

/-- RET. -/
def execRet (w : Slot) (s : State) : Host.Outcome State Fault Refusal :=
  runSlot formRet 9 w bRet s

/-- CHK. -/
def execChk (w : Slot) (s : State) : Host.Outcome State Fault Refusal :=
  runSlot formChk 9 w bChkForm s

/-- YIELD. -/
def execYield (w : Slot) (s : State) : Host.Outcome State Fault Refusal :=
  runSlot formYield 9 w bYield s

/-- EXIT. -/
def execExit (w : Slot) (s : State) : Host.Outcome State Fault Refusal :=
  runSlot formExit 9 w bExit s

/-- LFILL. -/
def execLfill (w : Slot) (s : State) : Host.Outcome State Fault Refusal :=
  runSlot formLfill 9 w bLfill s

/-- H_SLOT. -/
def execHSlot (stop : Bool) (gap : BitVec 5) (gw _mb : Bool) (s : State) : Host.Outcome State Fault Refusal :=
  runHint stop gap gw s

end Sys2Proof.Machine
end

