-- ==== Sys2Proof/Machine/ChildForms.lean ====
section
/-! DEFINITION. What the slots of the Y class do: one definition for each row of the opcode table, each the row's form run
with its meaning (spec/11_operation.md). -/

namespace Sys2Proof.Machine

/-- CPY. -/
def execCpy (w : Slot) (s : State) : Host.Outcome State Fault Refusal :=
  runSlot formCpy 8 w yCpy s

/-- COLL. -/
def execColl (w : Slot) (s : State) : Host.Outcome State Fault Refusal :=
  runSlot formColl 8 w yColl s

/-- TWAIT. -/
def execTwait (w : Slot) (s : State) : Host.Outcome State Fault Refusal :=
  runSlot formTwait 8 w (yTest true) s

/-- TTEST. -/
def execTtest (w : Slot) (s : State) : Host.Outcome State Fault Refusal :=
  runSlot formTtest 8 w (yTest false) s

/-- TCANCEL. -/
def execTcancel (w : Slot) (s : State) : Host.Outcome State Fault Refusal :=
  runSlot formTcancel 8 w yTcancel s

/-- TDET. -/
def execTdet (w : Slot) (s : State) : Host.Outcome State Fault Refusal :=
  runSlot formTdet 8 w yTdet s

/-- TREL. -/
def execTrel (w : Slot) (s : State) : Host.Outcome State Fault Refusal :=
  runSlot formTrel 8 w yTrel s

/-- TPRIO. -/
def execTprio (w : Slot) (s : State) : Host.Outcome State Fault Refusal :=
  runSlot formTprio 8 w yTprio s

/-- CNTWAIT_MX. -/
def execCntwaitMx (w : Slot) (s : State) : Host.Outcome State Fault Refusal :=
  runSlot formCntwaitMx 8 w (yCntwait 0) s

/-- CNTWAIT_CP. -/
def execCntwaitCp (w : Slot) (s : State) : Host.Outcome State Fault Refusal :=
  runSlot formCntwaitCp 8 w (yCntwait 1) s

/-- CNTWAIT_CO. -/
def execCntwaitCo (w : Slot) (s : State) : Host.Outcome State Fault Refusal :=
  runSlot formCntwaitCo 8 w (yCntwait 2) s

/-- QPUT. -/
def execQput (w : Slot) (s : State) : Host.Outcome State Fault Refusal :=
  runSlot formQput 8 w yQput s

/-- RRES. -/
def execRres (w : Slot) (s : State) : Host.Outcome State Fault Refusal :=
  runSlot formRres 8 w yRres s

/-- RCOMMIT. -/
def execRcommit (w : Slot) (s : State) : Host.Outcome State Fault Refusal :=
  runSlot formRcommit 8 w yRcommit s

/-- RNGSEED. -/
def execRngseed (w : Slot) (s : State) : Host.Outcome State Fault Refusal :=
  runSlot formRngseed 8 w yRngseed s

end Sys2Proof.Machine
end

