-- ==== Sys2Proof/Machine/Sched.lean ====
section
/-! DEFINITION. The sequencers' own steps: opening a bundle, landing results, closing windows, latch writes, random words,
congestion (spec/03_bundles.md R53, R71-R73; spec/07_group.md R133-R138, R145, R160; spec/02_numbers.md R45). -/

namespace Sys2Proof.Machine

/-! ## BUNDLE_ISSUE (R53, R135) -/

/-- A bundle that holds no issue yet: what a trap before its first slot reports. -/
def openIssue (loc p baddr : Nat) (ws : List Word) : Issue :=
  { loc := loc, path := p, baddr := baddr, words := ws, idx := 0, len := ws.length, above := 0, effs := [], flags := 0, uses := []
    mb := memoryBound ws }

/-- The soft error that the issue brings with it: its slot's position is one less than m, its lanes are v<15:0>
(notes/assumptions/20.md). -/
def softStrike (a : Args) : Option (Nat × LaneMask) := if a.m = 0 then none else some (a.m - 1, a.v.setWidth 16)

/-- The bundle at a path's PC is treated as RTE's skip treats it (R395): it counts for latches and windows, opens none
and has no effect. -/
def skipBundle (g : Group) (p len : Nat) : Group :=
  modPath { g with skip := false, kpend := countLatches g.kpend } p fun pt =>
    { pt with pc := (pt.pc + 4 * len) % 2 ^ 57, window := countWindow pt.window, heldAt := none, held := 0 }

/-- SKIP is cleared by a fetch fault that traps (R395). -/
def endSkip (s : State) (loc p : Nat) : State :=
  modGroup s loc fun g => if g.hndPath = p then { g with skip := false } else g

/-- A path opens its next bundle: a path that SKIP names passes over it, a rejected park traps, a failed fetch parks or traps, and a doomed path traps. -/
def openBundle (s : State) (loc p : Nat) : State :=
  let soft := softStrike s.args
  match getGroup s loc with
  | none => s
  | some g =>
    let pt := pathAt g p
    match fetchWords s loc g.ctx pt.pc 8, pt.rejected with
    | (s, f), some (va, slot, lanes) =>
      let ws := match f with
        | .ok ws => if slot = 0xFF then [] else ws
        | _ => []
      raiseTrap (if slot = 0xFF then endSkip s loc p else s) (openIssue loc p pt.pc ws) slot ⟨5, va, lanes, slotToken g p ws 0 slot⟩
    | (s, .hold), none => modPathAt s loc p fun pt => { pt with heldAt := some s.epoch, awaits := false }
    | (s, .fail va cause level), none =>
      let is := openIssue loc p pt.pc []
      if cause = 1 then parkOnPage s is { source := 4, access := 4, va := va, slot := 0xFF, level := level }
      else raiseTrap (endSkip s loc p) is 0xFF ⟨6, va, 0, 0⟩
    | (s, .ok ws), none =>
      let is := openIssue loc p pt.pc ws
      match pt.doomed, g.skip && g.hndPath == p with
      | _, true => putGroup { s with epoch := s.epoch + 1 } loc (skipBundle g p ws.length)
      | some cause, false => raiseTrap s is 0 ⟨cause, 0, 0, slotToken g p ws 0 0⟩
      | none, false => { s with cur := some { is with soft := soft } }

/-- BUNDLE_ISSUE: the picker of a sequencer chooses, and the chosen path opens its next bundle. A ck passes first when the
sequencer has issued in the present one or a higher one has (R14, R134), and when every ready group is still in its
gap. No ck passes beyond the edge at which a context is to stop (R493). -/
def issueFrom (s : State) (seq : Nat) : State :=
  match s.cur with
  | some _ => s
  | none =>
    let room := ckRoom s (seq / 4) 2
    let onward := advanceCk s (seq / 4) (min room 1)
    if !((seqGroups s seq).any fun e => groupReady s e.1 e.2) then s
    else if seq % 4 < (getCore s (seq / 4)).turn then onward
    else match pickGroup s seq with
      | some (loc, g) =>
        if room < 2 && !(getSeq s seq).active.contains (loc % 64) then onward else openBundle s loc (pickPath s loc g)
      | none => onward

/-! ## Results, windows, latches (R71-R73) -/

/-- `n` ck pass on a core and `f` follows, unless a context is to stop there first (R493): then the ck up to its stop pass. -/
def afterCk (s : State) (core n : Nat) (f : State → State) : State :=
  let room := ckRoom s core n
  if room < n then advanceCk s core room else f (if n = 0 then s else advanceCk s core n)

/-- RESULT_LAND: a result of a group lands, when the ck that it still needs have passed. -/
def landResult (s : State) (loc i : Nat) : State :=
  match getGroup s loc with
  | none => s
  | some g =>
    match g.inflight[i]? with
    | none => s
    | some r =>
      afterCk s (coreOf loc) r.left fun s =>
        modGroup s loc fun g => landWrites { g with inflight := g.inflight.eraseIdx i } r.mask r.depth r.writes

/-- The ck that are left of the limit of a path's WAITEVT pass: the result is 0 and there is no acquire, unless the condition
held before (R366). A wait without a limit has none. -/
def evtLimit (s : State) (loc p : Nat) : State :=
  match getGroup s loc with
  | none => s
  | some g =>
    match evtOf (pathAt g p) with
    | some (.waitevt e) =>
      if e.limit = 0 then s else afterCk s (coreOf loc) e.limit fun s => evtEnd s loc p { e with limit := 1 } e.met
    | _ => s

/-- WATCHDOG (R358, R383): the ck that are left of 2^32 pass on a path that stands in such a wait. The trap is raised on the
bundle that it would issue next, and a committed barrier wait is abandoned. -/
def watchdogPath (s : State) (loc p : Nat) : State :=
  match getGroup s loc with
  | none => s
  | some g =>
    if watched (pathAt g p) then
      afterCk s (coreOf loc) (2 ^ 32 - (pathAt g p).held) fun s => modGroup s loc fun g =>
        endWaits (modPath g p fun pt => { pt with doomed := some 12 }) p abandoned
    else s

/-- The link of a CALL lands when its window closes (R160), in the registers that no later slot of its bundle wrote. -/
def landLink (g : Group) (p : Nat) (link : Option (Nat × Nat)) : Group :=
  match link with
  | none => g
  | some (d, bits) =>
    let pt := pathAt g p
    let w (j v : Nat) : List RegWrite := if bitOf bits j then [] else [.s (d + j) ⟨BitVec.ofNat 32 v, false⟩]
    landWrites g pt.mask pt.depth (w 0 pt.pc ++ w 1 (pt.pc / 2 ^ 32))

/-- DELAY_WINDOW_CLOSE (R72, R145): after the third delay bundle, and what waits that bundle has left, the link lands, a region forks,
and control passes to the target of a taken branch. -/
def closeWindow (s : State) (loc p : Nat) : State :=
  modGroup s loc fun g =>
    match (pathAt g p).window with
    | none => g
    | some w =>
      if w.left ≠ 0 || !(pathAt g p).waits.isEmpty then g
      else
        let g := landLink (modPath g p fun pt => { pt with window := none }) p w.link
        if w.fork then forkRegion g p (pathAt g p).pc
        else if w.taken then modPath g p fun pt => { pt with pc := w.target }
        else g

/-- SCALE_LATCH_EFFECT (R73): pending writes whose count has run out take effect, in order. -/
def latchEffect (s : State) (loc : Nat) : State :=
  modGroup s loc fun g =>
    let due (k : LatchWrite) : Bool := !k.aside && k.left == 0
    { g with
      k := (g.kpend.filter due).foldl (fun t k => tput 0 t k.latch k.val) g.k
      kpend := g.kpend.filter fun k => !due k }

/-- WELLSPRING_FILL (R45). -/
def fillLane (s : State) (loc lane : Nat) : State := modGroup s loc fun g => fillStream g (lane % 16)

end Sys2Proof.Machine
end

