-- ==== Sys2Proof/Machine/Save.lean ====
section
/-! DEFINITION. The save image: what a stop writes for each group, set, child and matrix owner, and how RESUME reads it
back (spec/04_context.md R93; spec/17_traps.md R393-R401; spec/11_operation.md R270; spec/12_matrix.md R310;
spec/15_barrier.md R359). Bytes that the spec does not lay out hold what notes/assumptions/24.md says. -/

namespace Sys2Proof.Machine

/-! ## Writing -/

/-- Stores a list of (offset, bytes) parts at a base. -/
def putParts (m : Memory) (base : Nat) (l : List (Nat × List Byte)) : Memory := l.foldl (fun m p => mwrite m (base + p.1) p.2) m

/-- A mask of 16 bits as a number of the elements that a test picks. -/
def bitSum (n : Nat) (f : Nat → Bool) : Nat := ((List.range n).map fun i => b01 (f i) * 2 ^ i).sum

/-- The path slot that a group image names (R399): of the trapping or handling path, else the lowest that holds a live path, else
the lowest that holds any. -/
def imageSlot (g : Group) : Nat :=
  let is (p : Nat) (f : PathSt → Bool) : Bool := f (pathAt g p).st
  let live : PathSt → Bool := fun x => decide (x = .live)
  let any : PathSt → Bool := fun x => decide (x ≠ .empty)
  if g.hnd || g.trapped then g.hndPath
  else if is 0 live then 0 else if is 1 live then 1 else if is 0 any then 0 else b01 (is 1 any)

/-- The small state (R399), under a trap policy. -/
def smallState (g : Group) (tp : Nat) : List (Nat × List Byte) :=
  let sp (n : Nat) : PBit := tget {} g.sp n
  [(0x000, packFields [(8, 1), (4, g.launch.toNat), (4, g.gidx.toNat), (4, g.set.toNat), (1, g.blocks),
      (1, b01 g.skip + 2 * b01 g.hnd + 4 * b01 (g.trapped && tp == 0) + 8 * b01 g.giveWay), (1, imageSlot g), (1, 0), (4, g.fflags.toNat),
      (4, g.lfault.toNat), (8, g.epc.toNat), (4, (ecauseRead g).toNat), (4, 0), (8, g.efault.toNat), (4, g.cyclehi.toNat),
      (4, g.ph + 256 * b01 g.arr)]),
   (0x040, dwBytes ((List.range 8).map (tget 0 g.x) ++ (List.range 8).map (tget 0 g.y))),
   (0x0C0, packFields ((List.range 8).map fun i => (4, (tget 0 g.k i).toNat))),
   (0x0E0, packFields ((g.kpend.take 4).flatMap fun k => [(4, k.val.toNat), (1, k.latch), (1, k.left), (1, b01 k.aside), (1, 0)])),
   (0x100, packFields ((List.range 7).flatMap fun i =>
      let q : PMask := tget {} g.p i
      [(2, q.val.toNat), (2, q.poison.toNat)])),
   (0x11C, packFields [(4, bitSum 7 (fun n => (sp n).val) + 256 * bitSum 7 fun n => (sp n).poison), (2, g.mx.length),
      (2, g.cp.length), (2, g.co.length)]),
   (0x128, packFields [(8, windowWord g.asideWin)]),
   (0x130, packFields ((List.range 16).map fun l => (8, match g.held.find? fun e => e.1 == l with
      | some (_, h) => 2 ^ 63 + h.rq * 2 ^ 32 + h.idx % 2 ^ 32
      | none => 0)))]

/-- The registers, their poison, the lane-fault record and the Wellspring queues (R398). -/
def registerParts (g : Group) : List (Nat × List Byte) :=
  g.v.map (fun e => (0x400 + 4 * e.1, natLe e.2.val.toNat 4))
  ++ [(0x1400, packFields ((List.range 64).map fun r => (2, bitSum 16 fun l => (vreg g r l).poison))),
      (0x1480, packFields ((List.range 128).map fun b => (1, bitSum 8 fun i => (tget ({} : PWord) g.s (8 * b + i)).poison)))]
  ++ g.s.map (fun e => (0x1600 + 4 * e.1, natLe e.2.val.toNat 4))
  ++ [(0x2600, packFields ([(8, g.lfrec.baddr), (1, g.lfrec.slot), (1, g.lfrec.op), (2, g.lfrec.mask.toNat), (4, 0),
        (8, g.lfrec.causes.toNat), (8, g.lfrec.seq.toNat)] ++ (List.range 16).map fun l => (8, tget 0 g.lfrec.addr l)))]
  ++ (List.range 16).map fun l =>
      let x := streamOf g l
      (0x2700 + 96 * l, packFields ((List.range 16).map (fun i => (4, (x.queue.getD i 0).toNat))
        ++ [(4, x.queue.length), (4, x.s.toNat), (8, x.i.toNat), (4, x.next.toNat)]))

/-- Shadow entries (R400). -/
def shadowBytes (l : List Shadow) : List Byte :=
  packFields (l.flatMap fun e => [(2, e.reg), (1, e.level), (1, b01 e.poison), (4, e.val.toNat)])

/-- The committed waits of a path at barriers (R400), and what stands beside each: the destination of a BARB. -/
def waitWords (pt : Path) : List (Nat × Nat) := pt.waits.filterMap fun w =>
  match w with
  | .bar _ => some (1, 0)
  | .barb off ph d => some (2 + off * 256 + ph * 2 ^ 32, d)
  | _ => none

/-- The model's word for what a window has beside the fields of DELAY: a CALL's link, 0 for none, and whether it forks. -/
def linkWord (w : Option Window) : Nat :=
  match w with
  | some { link := some (d, bits), fork := f, .. } => 1 + d * 256 + bits * 65536 + b01 f * 2 ^ 18
  | some { fork := f, .. } => b01 f * 2 ^ 18
  | none => 0

/-- A path record (R400). -/
def pathRecord (g : Group) (p : Nat) : List (Nat × List Byte) :=
  let pt := pathAt g p
  let st := match pt.st with
    | .empty => 0
    | .live => if g.hnd && g.hndPath != p then 4 else 1
    | .join => 2
    | .parked => 3
    | .held => 4
  let ws := waitWords pt
  let w := ws.headD (0, 0)
  let rej := pt.rejected.getD (0, 0, 0)
  [(0x000, packFields [(1, st), (1, pt.depth), (2, pt.mask.toNat), (4, 0), (8, pt.pc), (8, windowWord pt.window), (8, w.1),
      (4, pt.shadow.length), (4, if p = g.hndPath then linkWord g.asideWin else 0), (8, linkWord pt.window), (1, w.2),
      (1, pt.doomed.getD 0), (1, b01 pt.rejected.isSome), (1, rej.2.1), (2, rej.2.2.toNat), (2, 0), (8, rej.1)]),
   (0x040, shadowBytes pt.shadow),
   (0x240, packFields ([(8, pt.lastIssue), (8, ws.tail.length)] ++ ws.tail.flatMap fun e => [(8, e.1), (8, e.2)]))]

/-- The code of a side's state. -/
def sideCode : Side → Nat
  | .live => 0
  | .opening => 1
  | .pending => 1
  | .arrived => 2
  | .empty => 3

/-- A stack entry (R400). -/
def stackEntry (r : Region) : List (Nat × List Byte) :=
  [(0x000, packFields [(4, r.token.toNat), (2, r.mask0.toNat), (2, r.mask1.toNat), (1, sideCode r.st0), (1, sideCode r.st1),
      (1, r.sh0.length), (1, r.sh1.length), (4, 0), (8, r.pc0), (8, r.pc1), (1, r.doom0.getD 0), (1, r.doom1.getD 0), (6, 0),
      (8, r.last0), (8, r.last1)]),
   (0x080, shadowBytes r.sh0), (0x280, shadowBytes r.sh1)]

/-- The lanes, poison and value of the writes of one register (R401). -/
def writeFields (ws : List RegWrite) : Nat × Nat × List (Nat × Nat) :=
  ws.foldl (fun a w => match w with
    | .v _ l x => (a.1 ||| 2 ^ l, a.2.1 ||| b01 x.poison * 2 ^ l, a.2.2 ++ [(4 * l, x.val.toNat)])
    | .s _ x => (a.1, b01 x.poison, [(0, x.val.toNat)])
    | .p _ l x => (a.1 ||| 2 ^ l, a.2.1 ||| b01 x.poison * 2 ^ l, [(0, (a.2.2.headD (0, 0)).2 ||| b01 x.val * 2 ^ l)])
    | .sp _ x => (a.1, b01 x.poison, [(0, b01 x.val)])
    | .x _ d => (a.1, 0, [(0, d.toNat)])) (0, 0, [])

/-- The path slot of a mask: that of the path that holds all its lanes, else 2 for both sides (R145, R401). -/
def slotOfMask (g : Group) (m : LaneMask) : Nat :=
  let within (pt : Path) : Bool := pt.st != .empty && (m &&& ~~~pt.mask) == 0
  if within g.p0 then 0 else if within g.p1 then 1 else 2

/-- The in-flight entries of a result, one for each register (R401). -/
def resultEntries (g : Group) (r : Result) : List (List (Nat × List Byte)) :=
  ((r.writes.map writeKey).eraseDups).map fun k =>
    let f := writeFields (r.writes.filter fun w => writeKey w == k)
    (0, packFields [(1, k.1), (2, k.2), (1, slotOfMask g r.mask), (2, f.1), (2, f.2.1), (2, r.left),
        (1, b01 (r.depth != 0 && k.1 % 2 == 0)), (1, 0), (2, r.mask.toNat), (1, r.depth), (1, 0)])
      :: f.2.2.map fun e => (0x10 + e.1, natLe e.2 (if k.1 = 5 then 8 else 4))

/-- A memory-access entry (R401). A FENCE or DRAIN has the KIND of a held write, no lanes, and its own slot word. -/
def accessEntry (g : Group) (e : MemEntry) : List (Nat × List Byte) :=
  let k := match e.kind with
    | .load width signed d => (1, width, b01 signed, d)
    | _ => (2, 0, 0, 0)
  let step := if e.size = 64 then 64 else 8
  [(0x000, packFields [(8, e.baddr), (4, e.word.toNat), (4, e.modw.toNat), (2, (e.lanes.map fun a => 2 ^ a.lane).sum), (1, k.1),
      (1, slotOfMask g e.mask), (4, 0), (2, e.mask.toNat), (1, k.2.1), (1, k.2.2.1 + 2 * b01 e.pond + 4 * b01 e.cached),
      (1, e.size), (1, k.2.2.2), (1, e.scope), (1, 0)])]
  ++ e.lanes.flatMap fun a =>
      [(0x020 + 8 * a.lane, natLe a.va 8), (0x0A0 + step * a.lane, a.data), (0x120 + a.lane, [a.mask]), (0x130 + a.lane, natLe a.drop 1)]

/-- A WAITEVT entry (R401). -/
def evtEntry (p : Nat) (e : EvtWait) : List (Nat × List Byte) :=
  [(0x000, packFields [(8, e.baddr), (4, e.word.toNat), (4, e.modw.toNat), (2, 1), (1, 3), (1, p), (4, e.limit)]),
   (0x020, natLe e.va 8), (0x0A0, natLe e.comparand.toNat 4)]

/-- The WAITEVT entries of a group, each with the number of its accesses that were made before it. -/
def evtEntries (g : Group) : List (Nat × List (Nat × List Byte)) :=
  [0, 1].flatMap fun p => (pathAt g p).waits.filterMap fun w => match w with
    | .waitevt e => some (e.after, evtEntry p e)
    | _ => none

/-- The memory-access entries of a group in issue order (R398): before access `i` and each later one the WAITEVTs that precede it. -/
def allEntries (g : Group) : List (List (Nat × List Byte)) :=
  let evts := evtEntries g
  let at_ (i : Nat) : List (List (Nat × List Byte)) := (evts.filter fun e => e.1 == i).map (·.2)
  (g.macc.zipIdx.flatMap fun e => at_ e.2 ++ [accessEntry g e.1]) ++ (evts.filter fun e => decide (g.macc.length ≤ e.1)).map (·.2)

/-- A group image at an address (R398): 96 KiB. -/
def writeGroup (m : Memory) (base : Nat) (g : Group) (tp : Nat) : Memory :=
  let part (m : Memory) (off size : Nat) (l : List (List (Nat × List Byte))) : Memory :=
    (l.zipIdx).foldl (fun m e => putParts m (base + off + size * e.2) e.1) m
  let m := putParts (mzero m base 0x18000) base (smallState g tp ++ registerParts g)
  let m := putParts (putParts m (base + 0x2E00) (pathRecord g 0)) (base + 0x3200) (pathRecord g 1)
  let m := part m 0x3600 1152 (g.stack.reverse.map stackEntry)
  let m := part m 0xC600 80 ((g.inflight.flatMap (resultEntries g)).take 256)
  part m 0x11600 320 ((allEntries g).take 64)

/-- The present and pending mode of a bank, and whether it is a full FIFO, as the set record holds them. -/
def bankByte (b : Bank) : Nat :=
  b.mode + 4 * (match b.pending with
    | some m => m + 1
    | none => 0) + 32 * b01 (decide (b.mode = 2) && decide (b.fifo.length ≥ 4096))

/-- The 256 KiB of a bank: its bytes, or a FIFO's entries, with their number in the last place unless it is full. -/
def bankContents (s : State) (key : Nat) : List (Nat × List Byte) :=
  let b := getBank s key
  if b.mode = 2 then
    (b.fifo.zipIdx.map fun e => (64 * e.2, e.1.flatMap fun w => natLe w.toNat 4))
    ++ (if b.fifo.length ≥ 4096 then [] else [(64 * 4095, natLe b.fifo.length 4)])
  else (s.pond.filter fun e => e.1 / 262144 == key).map fun e => (e.1 % 262144, [e.2])

/-- A set record with its banks (R216, R359, R397). -/
def writeSet (s : State) (base : Nat) (r : SetRec) : State :=
  let keys := r.banks.map fun b => r.cluster * 32 + b
  let head := packFields ([(4, r.launch), (4, r.k), (1, keys.length), (1, 128 + b01 r.barrier), (6, 0),
    (8, r.phase + r.arrived.toNat * 2 ^ 16 + r.live.toNat * 2 ^ 32), (8, 0)] ++ keys.map fun k => (1, bankByte (getBank s k)))
  let m := mwrite (mzero s.mem base (64 + 262144 * keys.length)) base head
  { s with mem := (keys.zipIdx).foldl (fun m e => putParts m (base + 64 + 262144 * e.2) (bankContents s e.1)) m }

/-- The code of the state that a paused child left (R270). -/
def pausedCode (h : Child) : Nat :=
  match h.st with
  | .paused b => b
  | _ => 1

/-- A paused-child record (R270, R308, R419). -/
def childImage (key : Nat) (h : Child) : List Byte :=
  let r := h.req
  let words (l : List DWord) : List Byte := l.flatMap fun w => natLe w.toNat 4
  let desc := if h.cls = 2 then words (r.desc.take 8) ++ natLe h.inst 4 else dwBytes (r.desc.take 8)
  let eng := match h.cls with
    | 0 => dwBytes (r.x.take 5) ++ natLe r.latch.toNat 4
    | 2 => packFields [(1, fld h.cursor.toNat 63 32), (3, 0), (4, fld h.cursor.toNat 31 0)]
    | _ => []
  let pad (n : Nat) (l : List Byte) : List Byte := (l ++ List.replicate n 0).take n
  packFields [(4, (tokenOf key h.gen).toNat), (1, pausedCode h), (1, h.cls),
      (1, b01 h.attached + 2 * b01 r.any + 4 * b01 h.givenUp + 8 * b01 h.adopted + 16 * b01 h.parkedAt.isSome), (1, h.prio),
      (4, r.pred.toNat), (1, r.scope), (3, 0), (8, h.cursor.toNat), (8, h.baddr), (4, h.launch.toNat), (4, h.gidx.toNat)]
    ++ List.replicate 24 0 ++ pad 64 desc ++ pad 64 eng ++ List.replicate 64 0

/-- A matrix state block (R310). -/
def matrixBlock (s : State) (core : Nat) (tiles entries : List Nat) (owner who : Nat) : List Byte :=
  let k := getCore s core
  packFields [(8, (tiles.map fun t => 2 ^ t).sum), (32, (entries.map fun i => 2 ^ i).sum), (4, owner), (4, who),
      (1, dieOf core + 8 * (core % 32)), (15, 0)]
    ++ packFields ((List.range 64).map fun t => (1, if tiles.contains t then (tget 0 k.xflags t).toNat else 0))
    ++ entries.flatMap (fun i => ((match routineEntry s core i with
        | some e => (dwBytes e.desc ++ List.replicate 64 (0 : Byte)).take 64
        | none => List.replicate 64 0) : List Byte))
    ++ tiles.flatMap fun t => (List.range 4096).flatMap fun i => natLe (tget 0 s.acc (accKey core t 0 0 + i)).toNat 4

/-- The matrix state blocks of a context: groups, then children (R310). -/
def matrixBlocks (s : State) (c : Nat) : List (List Byte) :=
  ((ctxGroups s c).filterMap fun e =>
    let t := tilesOf s (coreOf e.1) (.group e.1)
    let r := routinesOf s e.1
    if t.length + r.length = 0 then none else some (matrixBlock s (coreOf e.1) t r e.2.launch.toNat e.2.gidx.toNat))
  ++ (ctxChildren s c).filterMap fun e =>
    let t := tilesOf s (childCore e.1) (.child e.1)
    if t.isEmpty then none else some (matrixBlock s (childCore e.1) t [] 0xFFFFFFFF (tokenOf e.1 e.2.gen).toNat)

/-! ## The save (R393, R397) -/

/-- A stopped group as its image takes it: atomics done, and the accesses that a bank-mode fence waits for; due windows closed
and latch writes made. -/
def settleStop (s : State) (loc : Nat) : State :=
  let s := settleAtomics s loc (maccCount s loc)
  let s := evtMet (evtMet s loc 0) loc 1
  latchEffect (closeWindow (closeWindow s loc 0) loc 1) loc

/-- Lays byte lists one after another. -/
def putSeqs (m : Memory) (base : Nat) : List (List Byte) → Memory
  | [] => m
  | b :: t => putSeqs (mwrite m base b) (base + b.length) t

/-- The sets of a context one after another. -/
def putSets (s : State) (base : Nat) : List SetRec → State
  | [] => s
  | r :: t => putSets (writeSet s base r) (base + 64 + 262144 * r.banks.length) t

/-- Writes the whole save of a context (R93, R397). DESIGN CHOICE (notes/assumptions/17.md): R93 has each save increment the sequence
number and gives it no first value; CREATE leaves 0, so a context's first save writes 1. -/
def writeSave (s : State) (c : Nat) : State :=
  let x := getCtx s c
  let base := x.sabase
  let gs := (ctxGroups s c).map (·.2)
  let hs := (ctxChildren s c).filter fun e => liveChild e.2
  let g := gs.length
  let h := hs.length
  let index := 0x1000 + 0x18000 * g
  let setsAt := index + up4k (8 * g)
  let kids := setsAt + up4k ((ctxSets s c).map fun r => 64 + 262144 * r.banks.length).sum
  let recs := kids + up4k (4 * h)
  let blocks := kids + up4k (up4k (4 * h) + 256 * h)
  let m := mzero s.mem base (min (saveSize s c + 128) (x.sasize * 4096))
  let m := mwrite m base (packFields [(8, 1), (8, x.ec), (8, x.mblimit), (4, g), (4, h), (8, index), (8, kids),
    (8, (x.saveSeq + 1).toNat)])
  let m := (gs.zipIdx).foldl (fun m e => writeGroup m (base + 0x1000 + 0x18000 * e.2) e.1 x.tp) m
  let m := mwrite m (base + index) (packFields (gs.flatMap fun e => [(4, e.launch.toNat), (4, e.gidx.toNat)]))
  let m := mwrite m (base + kids) (packFields (hs.map fun e => (4, (tokenOf e.1 e.2.gen).toNat)))
  let m := putSeqs m (base + recs) (hs.map fun e => childImage e.1 e.2)
  let m := putSeqs m (base + blocks) (matrixBlocks s c)
  let s := putSets { s with mem := m } (base + setsAt) (ctxSets s c)
  modCtx s c fun x => { x with
    saveSeq := x.saveSeq + 1, imaged := true, ecSaved := x.ec, savedHeld := gs.map fun e => (e.launch, e.gidx, e.held)
    counters := gs.flatMap fun e => [(e.launch, e.gidx, 0, e.mx), (e.launch, e.gidx, 1, e.cp), (e.launch, e.gidx, 2, e.co)] }

/-- A saved group leaves its core without retiring: its set's barrier and its records stand as they are. -/
def evictGroup (s : State) (loc : Nat) : State :=
  let core := coreOf loc
  let s := modCore s core fun k => { k with
    tiles := k.tiles.filter fun e => !decide (e.2 = .group loc)
    routines := k.routines.filter fun e => match e.2 with
      | some r => r.holder != loc
      | none => false }
  let s := dropClaims (dropGroup s loc) loc
  modSeq s (seqOf loc) fun q => { q with active := q.active.filter (· != loc % 64), admitted := q.admitted.filter (· != loc % 64) }

/-- A saved set leaves its cluster: its banks return to cache mode. -/
def evictSet (s : State) (r : SetRec) : State :=
  let s := r.banks.foldl (fun s b =>
    putBank { s with pond := mzero s.pond ((r.cluster * 32 + b) * 262144) 262144 } (r.cluster * 32 + b) {}) s
  { s with sets := s.sets.filter fun x => !(x.ctx == r.ctx && x.launch == r.launch && x.k == r.k) }

/-- Everything of a context leaves the cores. -/
def evictCtx (s : State) (c : Nat) : State :=
  let sets := ctxSets s c
  let s := (ctxChildren s c).foldl (fun s e => evictTiles s e.1) s
  let s := (ctxGroups s c).foldl (fun s e => evictGroup s e.1) s
  sets.foldl evictSet s

/-! ## Reading back (R395) -/

/-- A number of the image. -/
def img (m : Memory) (base off n : Nat) : Nat := readN m (base + off) n

/-- Shadow entries of the image. -/
def readShadow (m : Memory) (base n : Nat) : List Shadow :=
  (List.range n).map fun i =>
    let b := base + 8 * i
    ⟨img m b 0 2, img m b 2 1, BitVec.ofNat 32 (img m b 4 4), bitOf (img m b 3 1) 0⟩

/-- A window in the layout of DELAY, with its link word and whether it forks. -/
def readWindow (d link : Nat) : Option Window :=
  if d = 0 && link = 0 then none
  else some { left := fld d 63 62, taken := bitOf d 61, target := fld d 56 0, fork := bitOf link 18
              link := if link % 2 = 0 then none else some (fld link 15 8, fld link 17 16) }

/-- The stack of an image, innermost first. -/
def readStack (m : Memory) (base : Nat) : List Region :=
  ((List.range 32).filterMap fun i =>
    let b := base + 0x3600 + 1152 * i
    let tok := img m b 0 4
    if tok = 0 then none
    else
      let s0 := img m b 8 1
      let s1 := img m b 9 1
      let side (x : Nat) : Side := match x with
        | 0 => .live
        | 1 => if s0 = 1 && s1 = 1 then .opening else .pending
        | 2 => .arrived
        | _ => .empty
      some { token := BitVec.ofNat 32 tok, mask0 := BitVec.ofNat 16 (img m b 4 2), mask1 := BitVec.ofNat 16 (img m b 6 2)
             st0 := side s0, st1 := side s1, pc0 := img m b 0x10 8, pc1 := img m b 0x18 8
             doom0 := if img m b 0x20 1 = 0 then none else some (img m b 0x20 1), last0 := img m b 0x28 8
             doom1 := if img m b 0x21 1 = 0 then none else some (img m b 0x21 1), last1 := img m b 0x30 8
             sh0 := readShadow m (b + 0x80) (img m b 10 1), sh1 := readShadow m (b + 0x280) (img m b 11 1) }).reverse

/-- A committed wait of the image at a barrier. -/
def readWait (w d ph : Nat) : List Wait :=
  match fld w 7 0 with
  | 1 => [.bar ph]
  | 2 => [.barb (fld w 31 8) (fld w 38 32) d]
  | _ => []

/-- A path of an image: a parked one is live at its bundle (R400). DESIGN CHOICE (notes/assumptions/24.md): the spec gives no field
for which path has issued earlier (R136); the model keeps it in bytes that R400 leaves, so the order of before the save stands. -/
def readPath (m : Memory) (base p ph : Nat) : Path :=
  let b := base + 0x2E00 + 0x400 * p
  let st := img m b 0 1
  let depth := img m b 1 1
  let mask : LaneMask := BitVec.ofNat 16 (img m b 2 2)
  if st = 0 then {}
  else
    { st := if st = 2 then .join else .live, depth := depth, mask := mask, pc := img m b 8 8
      window := readWindow (img m b 0x10 8) (img m b 0x28 8)
      waits := readWait (img m b 0x18 8) (img m b 0x30 1) ph
        ++ (List.range (min (img m b 0x248 8) 16)).flatMap fun i => readWait (img m b (0x250 + 16 * i) 8) (img m b (0x258 + 16 * i) 8) ph
      lastIssue := img m b 0x240 8
      shadow := readShadow m (b + 0x40) (img m b 0x20 4)
      doomed := if img m b 0x31 1 = 0 then none else some (img m b 0x31 1)
      rejected := if img m b 0x32 1 = 0 then none else some (img m b 0x38 8, img m b 0x33 1, BitVec.ofNat 16 (img m b 0x34 2)) }

/-- The writes of an in-flight entry. -/
def readWrites (m : Memory) (b : Nat) : List RegWrite :=
  let r := img m b 1 2
  let lanes := lanesOf (BitVec.ofNat 16 (img m b 4 2))
  let po := img m b 6 2
  match img m b 0 1 with
  | 1 => lanes.map fun l => .v r l ⟨BitVec.ofNat 32 (img m b (0x10 + 4 * l) 4), bitOf po l⟩
  | 2 => [.s r ⟨BitVec.ofNat 32 (img m b 0x10 4), bitOf po 0⟩]
  | 3 => lanes.map fun l => .p r l ⟨bitOf (img m b 0x10 4) l, bitOf po l⟩
  | 4 => [.sp r ⟨bitOf (img m b 0x10 4) 0, bitOf po 0⟩]
  | 5 => [.x r (BitVec.ofNat 64 (img m b 0x10 8))]
  | _ => []

/-- The results of an image. -/
def readResults (m : Memory) (base : Nat) : List Result :=
  (List.range 256).filterMap fun i =>
    let b := base + 0xC600 + 80 * i
    if img m b 0 1 = 0 then none
    else some ⟨BitVec.ofNat 16 (img m b 0x0C 2), img m b 0x0E 1, img m b 8 2, readWrites m b⟩

/-- The kind of a memory-access entry of an image. -/
def readKind (m : Memory) (b : Nat) : EntryKind :=
  let op := img m b 8 4
  if img m b 0x12 1 = 1 then .load (img m b 0x1A 1) (bitOf (img m b 0x1B 1) 0) (img m b 0x1D 1)
  else if img m b 0x10 2 ≠ 0 then .write
  else if fld op 23 18 = formDrain.op then .drain
  else .fence

/-- A memory-access entry of an image, its physical addresses not yet known. -/
def readEntry (m : Memory) (b : Nat) : MemEntry :=
  let fl := img m b 0x1B 1
  let size := img m b 0x1C 1
  let step := if size = 64 then 64 else 8
  { kind := readKind m b
    mask := BitVec.ofNat 16 (img m b 0x18 2), pond := bitOf fl 1, size := size, baddr := img m b 0 8
    word := BitVec.ofNat 32 (img m b 8 4), modw := BitVec.ofNat 32 (img m b 0xC 4), scope := img m b 0x1E 1, cached := bitOf fl 2
    lanes := (lanesOf (BitVec.ofNat 16 (img m b 0x10 2))).map fun l =>
      { placed := false, lane := l, va := img m b (0x20 + 8 * l) 8, pa := 0, data := if img m b 0x12 1 = 1 then [] else mread m (b + 0xA0 + step * l) size
        mask := BitVec.ofNat 8 (img m b (0x120 + l) 1), drop := img m b (0x130 + l) 1 } }

/-- The configuration of the record queue from which a saved lane holds a record: the present one, if the record is out. -/
def heldGen (s : State) (c rq idx : Nat) : Nat :=
  match tget none (getCtx s c).rqs rq with
  | some q => if q.out.any (fun i => i % 2 ^ 32 == idx) then q.gen else 0
  | none => 0

/-- A group as its image gives it, with the kernel's key and the counters that the device keeps. -/
def readGroup (s : State) (c base : Nat) : Group :=
  let m := s.mem
  let x := getCtx s c
  let launch : Word := BitVec.ofNat 32 (img m base 8 4)
  let gidx : Word := BitVec.ofNat 32 (img m base 0xC 4)
  let blocks := img m base 0x14 1
  let fl := img m base 0x15 1
  let ph := img m base 0x3C 1
  let stack := readStack m base
  let spw := img m base 0x11C 4
  let counter (cls : Nat) : List Word := ((x.counters.find? fun e => e.1 == launch && e.2.1 == gidx && e.2.2.1 == cls).map (·.2.2.2)).getD []
  let tbl {α : Type} [DecidableEq α] (d : α) (n : Nat) (f : Nat → α) : Tbl α := (List.range n).foldl (fun t i => tput d t i (f i)) []
  let dw (off : Nat) : Nat → DWord := fun i => BitVec.ofNat 64 (img m base (off + 8 * i) 8)
  let g : Group := { ctx := c, launch := launch, gidx := gidx, set := BitVec.ofNat 32 (img m base 0x10 4), blocks := blocks }
  let g := { g with
    key := ((getKernel s c launch).map fun (k : Kernel) => k.key).getD 0
    skip := bitOf fl 0, hnd := bitOf fl 1, hndPath := img m base 0x16 1, giveWay := bitOf fl 3
    fflags := BitVec.ofNat 32 (img m base 0x18 4), lfault := BitVec.ofNat 32 (img m base 0x1C 4)
    epc := dw 0x20 0, ecause := BitVec.ofNat 32 (img m base 0x28 4), efault := dw 0x30 0
    cyclehi := BitVec.ofNat 32 (img m base 0x38 4), ph := ph, arr := bitOf (img m base 0x3D 1) 0
    x := tbl 0 8 (dw 0x40), y := tbl 0 8 (dw 0x80), k := tbl 0 8 fun i => BitVec.ofNat 32 (img m base (0xC0 + 4 * i) 4)
    kpend := (List.range 4).filterMap fun i =>
      let b := base + 0xE0 + 8 * i
      if img m b 5 1 = 0 then none
      else some ⟨img m b 4 1, BitVec.ofNat 32 (img m b 0 4), img m b 5 1, bitOf (img m b 6 1) 0⟩
    p := tbl {} 7 fun i => ⟨BitVec.ofNat 16 (img m base (0x100 + 4 * i) 2), BitVec.ofNat 16 (img m base (0x102 + 4 * i) 2)⟩
    sp := tbl {} 7 fun i => ⟨bitOf spw i, bitOf spw (8 + i)⟩ }
  let g := { g with
    mx := counter 0, cp := counter 1, co := counter 2, enrd := x.ec
    asideWin := readWindow (img m base 0x128 8) (img m base (0x2E24 + 0x400 * img m base 0x16 1) 4)
    held := tbl ⟨0xFFFF, 0, 0⟩ 16 fun l =>
      let e := img m base (0x130 + 8 * l) 8
      if bitOf e 63 then ⟨fld e 41 32, fld e 31 0, heldGen s c (fld e 41 32) (fld e 31 0)⟩ else ⟨0xFFFF, 0, 0⟩
    v := tbl {} (128 * blocks) fun i => ⟨BitVec.ofNat 32 (img m base (0x400 + 4 * i) 4), bitOf (img m base (0x1400 + 2 * (i / 16)) 2) (i % 16)⟩
    s := tbl {} 1024 fun i => ⟨BitVec.ofNat 32 (img m base (0x1600 + 4 * i) 4), bitOf (img m base (0x1480 + i / 8) 1) (i % 8)⟩
    lfrec := { baddr := img m base 0x2600 8, slot := img m base 0x2608 1, op := img m base 0x2609 1
               mask := BitVec.ofNat 16 (img m base 0x260A 2), causes := BitVec.ofNat 64 (img m base 0x2610 8)
               seq := BitVec.ofNat 64 (img m base 0x2618 8), addr := tbl 0 16 fun l => img m base (0x2620 + 8 * l) 8 }
    stack := stack, inflight := readResults m base }
  let g := { g with p0 := readPath m base 0 ph, p1 := readPath m base 1 ph }
  let g := { g with issued := stack.foldl (fun n r => max n (max r.last0 r.last1)) (max g.p0.lastIssue g.p1.lastIssue) }
  (List.range 16).foldl (fun g l =>
    let b := base + 0x2700 + 96 * l
    putStream g l { queue := (List.range (img m b 64 4)).map fun i => BitVec.ofNat 32 (img m b (4 * i) 4)
                    s := BitVec.ofNat 32 (img m b 68 4), i := BitVec.ofNat 64 (img m b 72 8), next := BitVec.ofNat 32 (img m b 80 4) }) g

/-- A saved access goes back into its group; a DRAIN holds the paths of its lanes again. -/
def replayEntry (g : Group) (e : MemEntry) : Group :=
  let g := { g with macc := g.macc ++ [e] }
  match e.kind with
  | .drain =>
    let hold (pt : Path) : Path := if meets pt.mask e.mask && pt.st != .empty then { pt with waits := pt.waits ++ [.drain] } else pt
    { g with p0 := hold g.p0, p1 := hold g.p1 }
  | _ => g

/-- The saved accesses of a group, which go back in order, and its WAITEVTs, which wait again (R395). -/
def replayEntries (s : State) (loc base : Nat) : List Nat → State
  | [] => s
  | i :: t =>
    let b := base + 0x11600 + 320 * i
    let s := match img s.mem b 0x12 1 with
      | 0 => s
      | 3 => enterWait s loc (img s.mem b 0x13 1) (.waitevt ⟨none, img s.mem b 0x20 8, img s.mem b 0 8, BitVec.ofNat 32 (img s.mem b 8 4),
          BitVec.ofNat 32 (img s.mem b 0xC 4), BitVec.ofNat 32 (img s.mem b 0xA0 4), img s.mem b 0x14 4, false, 0⟩)
      | _ => modGroup s loc fun g => replayEntry g (readEntry s.mem b)
    replayEntries s loc base t

/-- Access `i` of a group, once more, binds or performs if it may; it leaves then. -/
def replayOne (s : State) (loc i : Nat) : State :=
  let s := placeEntry s loc i
  match getGroup s loc with
  | none => s
  | some g => match g.macc[i]? with
    | none => s
    | some e => if isLoad e then bindLoad s loc i false else performEntry s loc i

/-- The saved accesses from the one at place `i` on bind and perform in order; those whose page cannot be read stay. -/
def replayAll (s : State) (loc : Nat) : Nat → Nat → State
  | 0, _ => s
  | fuel + 1, i =>
    let n := maccCount s loc
    let t := replayOne s loc i
    replayAll t loc fuel (if maccCount t loc < n then i else i + 1)

/-! ## Re-injection -/

/-- The group images of a context's save: image number, launch number, set and blocks. -/
def imageList (s : State) (c : Nat) : List (Nat × Nat × Nat × Nat) :=
  let base := (getCtx s c).sabase
  (List.range (img s.mem base 0x18 4)).map fun i =>
    let b := base + 0x1000 + 0x18000 * i
    (i, img s.mem b 8 4, img s.mem b 0x10 4, img s.mem b 0x14 1)

/-- The matrix state blocks from an address on. The fuel bounds their number. -/
def blockList (m : Memory) (a top : Nat) : Nat → List Nat
  | 0 => []
  | fuel + 1 =>
    let tiles := popGo (img m a 0 8) 64
    let entries := popGo (img m a 8 32) 256
    if a + 0x80 > top || tiles + entries = 0 then [] else a :: blockList m (a + blockSize tiles entries) top fuel

/-- The addresses of the matrix state blocks of a save. -/
def saveBlocks (s : State) (c : Nat) : List Nat :=
  let x := getCtx s c
  let h := img s.mem x.sabase 0x1C 4
  let kids := img s.mem x.sabase 0x28 8
  blockList s.mem (x.sabase + kids + up4k (up4k (4 * h) + 256 * h)) (x.sabase + x.sasize * 4096)
    (img s.mem x.sabase 0x18 4 + h)

/-- The core that a matrix state block names. -/
def blockCore (m : Memory) (a : Nat) : Nat := let b := img m a 0x30 1; 32 * (b % 8) + b / 8

/-- Whether a block's tiles and entries are free on its core. -/
def blockFree (s : State) (a : Nat) : Bool :=
  let core := blockCore s.mem a
  (List.range 64).all (fun t => !bitOf (img s.mem a 0 8) t || decide (tileHolder s core t = .free))
  && (List.range 256).all fun i => !bitOf (img s.mem a 8 32) i || (routineEntry s core i).isNone

/-- Restores a matrix state block for its owner. -/
def restoreBlock (s : State) (a loc : Nat) (h : TileHolder) : State :=
  let m := s.mem
  let core := blockCore m a
  let tiles := (List.range 64).filter fun t => bitOf (img m a 0 8) t
  let entries := (List.range 256).filter fun i => bitOf (img m a 8 32) i
  let s := modCore s core fun k => { k with
    tiles := tiles.foldl (fun x t => tput .free x t h) k.tiles
    xflags := tiles.foldl (fun x t => tput 0 x t (BitVec.ofNat 5 (img m a (0x40 + t) 1))) k.xflags
    routines := (entries.zipIdx).foldl (fun x e => tput none x e.1 (some ⟨loc, mem64s m (a + 0x80 + 64 * e.2) 8⟩)) k.routines }
  let at_ := a + 0x80 + 64 * entries.length
  { s with acc := (tiles.zipIdx).foldl (fun acc e => (List.range 4096).foldl (fun acc i =>
      tput 0 acc (accKey core e.1 0 0 + i) (mem32 m (at_ + 16384 * e.2 + 4 * i))) acc) s.acc }

/-- The block of a group of a save, if it has one. -/
def groupBlock (s : State) (c launch gidx : Nat) : Option Nat :=
  (saveBlocks s c).find? fun a => img s.mem a 0x28 4 == launch && img s.mem a 0x2C 4 == gidx

/-- Places the groups of a set on a cluster's sequencers: each with its blocks, and its core where a block fixes it. -/
def placeImages (l : List (Nat × Nat)) : List (Nat × Option Nat) → Option (List Nat)
  | [] => some []
  | (b, core) :: t =>
    let here := match core with
      | none => l
      | some j => (l.zipIdx).map fun e => if e.2 / 4 = j then e.1 else (0, 0)
    match bestSeq here b with
    | none => none
    | some i => (placeImages (l.set i ((l.getD i (0, 0)).1 - 1, (l.getD i (0, 0)).2 - b)) t).map fun r => i :: r

/-- The place that re-injection finds for the set record at an address: the cluster and its groups' sequencers. -/
def restorePlace (s : State) (c rec : Nat) (gs : List (Nat × Nat × Nat × Nat)) : Option (Nat × List Nat) :=
  let m := s.mem
  let base := (getCtx s c).sabase
  let launch := img m rec 0 4
  let blocks := gs.filterMap fun e => groupBlock s c launch (img m (base + 0x1000 + 0x18000 * e.1) 0xC 4)
  let wants := gs.map fun e => (e.2.2.2, (groupBlock s c launch (img m (base + 0x1000 + 0x18000 * e.1) 0xC 4)).map fun a => blockCore m a % 4)
  match getKernel s c (BitVec.ofNat 32 launch) with
  | none => none
  | some k =>
    if !blocks.all (blockFree s) then none
    else (clusterOrder s k).findSome? fun cl =>
      let r := lessReserved s cl (roomNow s cl)
      if blocks.any (fun a => blockCore m a / 4 != cl) || decide (r.banks < img m rec 8 1) || (bitOf (img m rec 9 1) 0 && r.barriers == 0)
      then none
      else match placeImages r.seqs wants with
        | none => none
        | some seqs =>
          let core := coreOfPlan (cl, seqs)
          if k.circ.isEmpty || (portsFree s k (img m rec 4 4) core && !(ownCores s k).contains core) then some (cl, seqs) else none

/-- A saved bank is restored (R216, R395). -/
def restoreBank (s : State) (key at_ b : Nat) (owner : Nat × Nat × Nat) : State :=
  let m := s.mem
  let mode := b % 4
  let n := if bitOf b 5 then 4096 else img m at_ (64 * 4095) 4
  let s := putBank s key
    { mode := mode, pending := if fld b 4 2 = 0 then none else some (fld b 4 2 - 1), owner := some owner
      fifo := if mode = 2 then (List.range n).map fun i => (List.range 16).map fun l => mem32 m (at_ + 64 * i + 4 * l) else [] }
  let image := m.filter fun e => decide (at_ ≤ e.1) && decide (e.1 < at_ + 262144)
  if mode = 2 then s
  else { s with pond := image.foldl (fun p e => mput p (key * 262144 + (e.1 - at_)) e.2) (mzero s.pond (key * 262144) 262144) }

/-- Re-injects one group of a save on a sequencer. -/
def restoreGroup (s : State) (c : Nat) (e : (Nat × Nat × Nat × Nat) × Nat) : State :=
  let base := (getCtx s c).sabase + 0x1000 + 0x18000 * e.1.1
  let loc := e.2 * 64 + freeSlot s e.2
  let g := readGroup s c base
  let s := acquireBy (.path loc 0) 5 (putGroup s loc g)
  let s := match groupBlock s c g.launch.toNat g.gidx.toNat with
    | some a => restoreBlock s a loc (.group loc)
    | none => s
  let s := replayEntries s loc base (List.range 64)
  replayAll s loc (maccCount s loc) 0

/-- A paused child goes on from its record (R269, R270): its state, flags, priority, cursor and engine state. One that waited
for a predecessor which has ended meanwhile is issued (R259). A matrix or copy child reads its tensors again, and a collective
its communicator, but takes no new instance. -/
def restoreChild (s : State) (b : Nat) : State :=
  let m := s.mem
  let key := img m b 0 4 / 4096
  modChild s key fun h =>
    let fl := img m b 6 1
    let words (n : Nat) : List DWord := (List.range n).map fun i => BitVec.ofNat 64 (img m b (0x40 + 4 * i) 4)
    let cursor : DWord := BitVec.ofNat 64 (img m b 0x10 8)
    { h with
      st := match img m b 4 1 with
        | 2 => if tokenOver s h.ctx (BitVec.ofNat 32 (img m b 8 4)) then .issued else .waiting
        | 3 => .running
        | _ => .issued
      begun := h.begun && h.cls == 2, inst := if h.cls = 2 && h.begun then img m b 0x60 4 else h.inst, sent := false, beats := 0
      attached := bitOf fl 0, givenUp := bitOf fl 2, adopted := bitOf fl 3, parkedAt := none, stop := false
      prio := img m b 7 1, cursor := cursor, asked := false, got := []
      req := { h.req with
        any := bitOf fl 1, pred := BitVec.ofNat 32 (img m b 8 4), scope := img m b 0xC 1
        desc := if h.cls = 2 then words 8 else mem64s m (b + 0x40) 8
        x := if h.cls = 0 then mem64s m (b + 0x80) 5 else h.req.x
        latch := if h.cls = 0 then BitVec.ofNat 32 (img m b 0xA8 4) else h.req.latch } }

/-- The paused-child records of a save that a test on launch number and set of their children picks. -/
def restoreChildren (s : State) (c : Nat) (f : Child → Bool) : State :=
  let base := (getCtx s c).sabase
  let h := img s.mem base 0x1C 4
  let recs := base + img s.mem base 0x28 8 + up4k (4 * h)
  (List.range h).foldl (fun s i =>
    let b := recs + 256 * i
    let key := img s.mem b 0 4 / 4096
    match getChild s key with
    | none => s
    | some k =>
      if k.ctx = c && liveChild k && f k then
        let s := match (saveBlocks s c).find? fun a => img s.mem a 0x28 4 == 0xFFFFFFFF && img s.mem a 0x2C 4 == img s.mem b 0 4 with
          | some a => restoreBlock s a 0 (.child key)
          | none => s
        restoreChild s b
      else s) s

/-- The next saved set is re-injected, if some cluster has room for it: its banks, barrier, groups and children. A set
whose kernel has been cancelled meanwhile is passed over (R130). -/
def restoreNext (s : State) (c : Nat) : State :=
  let x := getCtx s c
  match x.restore with
  | [] => s
  | rec :: rest =>
    let m := s.mem
    let launch := img m rec 0 4
    let k := img m rec 4 4
    let gs := (imageList s c).filter fun e => e.2.1 == launch && e.2.2.1 == k
    match getKernel s c (BitVec.ofNat 32 launch), restorePlace s c rec gs with
    | none, _ => modCtx s c fun x => { x with restore := rest }
    | some _, none => s
    | some kn, some (cl, seqs) =>
      let nb := img m rec 8 1
      let banks := (freeBanks s cl).take nb
      let dw := img m rec 0x10 8
      let s := (banks.zipIdx).foldl (fun s e =>
        restoreBank s (cl * 32 + e.1) (rec + 64 + 262144 * e.2) (img m rec (0x20 + e.2) 1) (c, launch, k)) s
      let r : SetRec := { ctx := c, launch := launch, k := k, cluster := cl, banks := banks, core0 := 4 * cl + seqs.headD 0 / 4
                          barrier := bitOf (img m rec 9 1) 0, live := BitVec.ofNat 16 (fld dw 47 32)
                          arrived := BitVec.ofNat 16 (fld dw 31 16), phase := fld dw 7 0, size := kn.setsize }
      let s := { s with sets := s.sets ++ [r], lastCluster := cl }
      let s := (gs.zip (seqs.map fun i => 16 * cl + i)).foldl (fun s e => restoreGroup s c e) s
      let s := restoreChildren s c fun h => h.launch.toNat == launch && h.set.toNat == k
      nowResident (modCtx s c fun x => { x with restore := rest }) c

/-- The addresses of the set records of a save: as many as there are sets among its groups. -/
def setRecords (m : Memory) (a : Nat) : Nat → List Nat
  | 0 => []
  | n + 1 => a :: setRecords m (a + 64 + 262144 * img m a 8 1) n

/-- The matrix state blocks of the paused children of a context that are still to go on. -/
def kidBlocks (s : State) (c : Nat) : List Nat :=
  (saveBlocks s c).filter fun a => img s.mem a 0x28 4 == 0xFFFFFFFF && match childByToken s c (BitVec.ofNat 32 (img s.mem a 0x2C 4)) with
    | some (_, h) => liveChild h
    | none => false

/-- Re-injection (R395), which is made as a whole once every saved set has a place and the tiles of
every paused child are free (R310): the children whose set has no group
left go on, then the sets in order; the context is runnable, or resident, and the command ends. -/
def resumeImage (s : State) (c : Nat) : State :=
  let x := getCtx s c
  let sets := ((imageList s c).map fun e => (e.2.1, e.2.2.1)).eraseDups
  let t := putCtx s c { x with st := .runnable }
  let t := restoreChildren t c fun h => !sets.contains (h.launch.toNat, h.set.toNat)
  let t := if (ctxChildren t c).any fun e => liveChild e.2 then nowResident t c else t
  let t := x.restore.foldl (fun t _ => restoreNext t c) t
  if (getCtx t c).restore.isEmpty && (kidBlocks s c).all (blockFree s) then
    resumeQueues (modCtx t c fun x => { x with busy := false, imaged := false, err := 0, savedHeld := [] }) c
  else s

/-- RESUME begins (R395): EC and N from the header, and the set records that are to be re-injected. DESIGN CHOICE
(notes/assumptions/19.md): R494 restores EC, and R93 says of the header's N only that it is saved; N is read back too, so that an
MBLIMIT written while the context is saved does not stand. -/
def beginRestore (s : State) (c : Nat) : State :=
  let x := getCtx s c
  let m := s.mem
  let g := img m x.sabase 0x18 4
  let sets := ((imageList s c).map fun e => (e.2.1, e.2.2.1)).eraseDups
  let recs := setRecords m (x.sabase + img m x.sabase 0x20 8 + up4k (8 * g)) sets.length
  resumeImage (putCtx s c { x with ec := img m x.sabase 8 8 % 2 ^ 48, mblimit := min (img m x.sabase 0x10 8) 64, restore := recs,
                                   busy := true }) c

end Sys2Proof.Machine
end

