-- ==== Sys2Proof/Machine/Page.lean ====
section
/-! DEFINITION. The page commands of the host complex: invalidations and the units that acknowledge them, RESOLVE and
REJECT (spec/16_page.md R373-R378). -/

namespace Sys2Proof.Machine

/-! ## Invalidation (R373, R375) -/

/-- Every translation unit (R371). -/
def allUnits : List TUnit :=
  (List.finRange 256).map .core ++ (List.finRange 64).map .copy ++ (List.finRange 8).map .walk ++ (List.finRange 2).map .engine

/-- Whether a copy engine's child waits for remote pieces of its chunk. -/
def copyBusy (s : State) (cl c : Nat) : Bool :=
  (ctxChildren s c).any fun e => childCore e.1 / 4 == cl && e.2.cls == 1 && decide (e.2.st = .running) && e.2.asked

/-- Whether a group holds an outstanding translation (R373): an access that has been translated and has not bound or performed. A
saved access that waits for its page holds none (R395). Each read of a waiting WAITEVT is an access of its own, which binds at
once (notes/assumptions/10.md). -/
def groupTranslates (g : Group) : Bool := g.macc.any fun e => !e.pond && e.lanes.any (·.placed)

/-- Whether the open bundle is of a core and a context. -/
def bundleOpen (s : State) (core c : Nat) : Bool :=
  match s.cur with
  | none => false
  | some is => coreOf is.loc == core && match getGroup s is.loc with
    | some g => g.ctx == c
    | none => false

/-- Whether a unit is at a quiescent point for a context (R373). Chunks, packets, walks and Tarn's reads perform whole, so
only bundles, accesses in flight and remote copies keep a unit from one. -/
def quiescent (s : State) (c : Nat) (u : TUnit) : Bool :=
  match u with
  | .core n => !bundleOpen s n c && !((ctxGroups s c).any fun e => coreOf e.1 == n.val && groupTranslates e.2)
  | .copy n => !copyBusy s n c
  | _ => true

/-- Whether a cached entry goes with an invalidation: every walk-cache entry of the ASN, and the leaves that map a byte of
the range (R375). -/
def entryGoes (i : Invalidation) (u : TUnit) (e : TlbEntry) : Bool :=
  decide (e.tunit = u) && e.asn == i.asn && (match u, i.range with
    | .walk _, _ => true
    | _, none => true
    | _, some (a, n) => decide (e.va < a + n * 65536) && decide (a < e.va + 2 ^ e.bits))

/-- A finished invalidation of the host complex clears BUSY (R375); a sweep waits for ASN_SWEEP_COMPLETE. -/
def invalidationDone (s : State) (i : Invalidation) : State :=
  if i.units.isEmpty && !i.sweep then
    modCtx { s with invals := s.invals.erase i } i.ctx fun x => { x with pgbusy := false, pgerr := 0 }
  else s

/-- A waiting WAITEVT or WAITMEM of a context whose unit has dropped its entries translates its word's address again before
its next read (R375, R379, notes/assumptions/10.md). -/
def forgetPlaces (s : State) (c : Nat) (u : TUnit) : State :=
  let wait (w : Wait) : Wait := match w with
    | .waitevt e => .waitevt (if e.met then e else { e with pa := none })
    | w => w
  let path (pt : Path) : Path := { pt with waits := pt.waits.map wait }
  match u with
  | .core n => { s with groups := s.groups.map fun e => match e.2 with
      | some g => if coreOf e.1 = n.val && g.ctx == c && groupWaits g then (e.1, some { g with p0 := path g.p0, p1 := path g.p1 }) else e
      | none => e }
  | .engine _ => { s with queues := s.queues.map fun e => match e.2.on with
      | some (.waitmem _ va cond value mask met) =>
        if e.2.ctx = c then (e.1, { e.2 with on := some (.waitmem none va cond value mask met) }) else e
      | _ => e }
  | _ => s

/-- UNIT_QUIESCE_INVALIDATE: a unit at a quiescent point drops its entries and acknowledges. -/
def quiesceUnit (s : State) (c : Nat) (u : TUnit) : State :=
  match s.invals.find? fun i => i.ctx == c && i.units.contains u with
  | none => s
  | some i =>
    if !quiescent s c u then s
    else
      let j := { i with units := i.units.erase u, blockedUnits := i.blockedUnits.erase u }
      invalidationDone { forgetPlaces s c u with
        tlb := s.tlb.filter fun e => !entryGoes i u e
        invals := s.invals.map fun k => if k = i then j else k } j

/-- INVALIDATION_LIMIT: a unit that has not reached a quiescent point starts no new translation of the ASN (R373). -/
def limitUnit (s : State) (c : Nat) (u : TUnit) : State :=
  { s with invals := s.invals.map fun i =>
      if i.ctx = c && i.units.contains u && !i.blockedUnits.contains u then { i with blockedUnits := u :: i.blockedUnits } else i }

/-! ## Commands (R374) -/

/-- Whether a context's state admits page commands. -/
def pageable (st : CtxSt) : Bool :=
  match st with
  | .free => false
  | .destroyed => false
  | _ => true

/-- A page command: BUSY, the state, and for `ranged` the range are checked; BUSY stands until the command ends (R86,
R374). -/
def pageCommand (s : State) (c : Nat) (ranged : Bool) (f : State → State) : State :=
  let x := getCtx s c
  let n := x.pgcnt.toNat
  if x.pgbusy then putCtx s c { x with pgerr := 1 }
  else if !pageable x.st then putCtx s c { x with pgerr := 2 }
  else if ranged && (n == 0 || decide (fld x.pgva.toNat 56 16 * 65536 + n * 65536 > 2 ^ 57)) then putCtx s c { x with pgerr := 4 }
  else f (putCtx s c { x with pgerr := 0 })

/-- The range of a context's page registers. -/
def pageRange (x : Context) : Nat × Nat := (fld x.pgva.toNat 56 16 * 65536, x.pgcnt.toNat)

/-- Whether an address lies in a range. -/
def inRange (r : Nat × Nat) (va : Nat) : Bool := decide (r.1 ≤ va) && decide (va < r.1 + r.2 * 65536)

/-- INVALIDATE and INVALIDATE_ALL (R375). -/
def pgInvalidate (s : State) (c : Nat) : State := pageCommand s c true fun s =>
  let x := getCtx s c
  { putCtx s c { x with pgbusy := true } with
    invals := s.invals ++ [⟨c, x.asn, some (pageRange x), allUnits, [], false⟩] }
def pgInvalidateAll (s : State) (c : Nat) : State := pageCommand s c false fun s =>
  let x := getCtx s c
  { putCtx s c { x with pgbusy := true } with invals := s.invals ++ [⟨c, x.asn, none, allUnits, [], false⟩] }

/-- Whether a park waits for a page of a range. -/
def parkIn (r : Nat × Nat) : Park → Bool
  | .page va _ _ => inRange r va
  | _ => false

/-- A queue that a page blocks goes on with its packet or its births; a suspended one will (R99, R377). -/
def unblockQueue (x : Queue) : Queue :=
  if x.st = .blocked then { x with st := .dispatching, on := none }
  else if x.st = .suspended && x.left = .blocked then { x with left := .dispatching, on := none }
  else { x with on := none }

/-- The page, in a range, that a queue of a context waits for. -/
def queuePark (x : Queue) (c : Nat) (r : Nat × Nat) : Option Nat :=
  match x.on with
  | some (.page va) => if x.ctx = c && inRange r va then some va else none
  | _ => none

/-- The context of something owed. -/
def owedCtx : Owed → Nat
  | .decrement c .. => c
  | .successor c .. => c
  | .packets c .. => c
  | .batch c .. => c

/-- Whether something owed waits for a page of a range. -/
def owedIn (c : Nat) (r : Nat × Nat) (o : Owing) : Bool :=
  owedCtx o.what == c && match o.page with
    | some va => inRange r va
    | none => false

/-- RESOLVE (R377): every park of the context in the range wakes, and the context's count of them rises. -/
def pgResolve (s : State) (c : Nat) : State := pageCommand s c true fun s =>
  let x := getCtx s c
  let r := pageRange x
  let s := wakeCtx (putCtx s c { x with resolves := x.resolves + 1 }) c (parkIn r)
  { s with
    children := s.children.map fun e => match e.2 with
      | some h => (match h.parkedAt with
        | some (va, _) => if h.ctx = c && inRange r va then (e.1, some { h with parkedAt := none }) else e
        | none => e)
      | none => e
    queues := s.queues.map fun e => if (queuePark e.2 c r).isSome then (e.1, unblockQueue e.2) else e
    owed := s.owed.map fun o => if owedIn c r o then { o with page := none } else o }

/-- A path that REJECT reaches raises the page-fault trap on its bundle (R378). -/
def rejectPath (r : Nat × Nat) (pt : Path) : Path :=
  match pt.st, pt.parks.find? (parkIn r) with
  | .parked, some (.page va slot lanes) => { pt with st := .live, parks := [], rejected := some (va, slot, lanes), heldAt := none }
  | _, _ => pt

/-- A queue faults with PROTECT on the packet at its HEAD, or on the kernel whose groups are being born (R102, R378). -/
def rejectQueue (s : State) (q va : Nat) : State :=
  let x := getQueue s q
  match x.birthing with
  | none => packetFault s q 6 va (headTag x)
  | some l => match getKernel s x.ctx l with
    | none => s
    | some k => blockListFault s k va

/-- Something owed whose page is rejected is lost, as with a protection fault (R108). -/
def rejectOwed (s : State) (o : Owing) : State :=
  match o.what with
  | .decrement c ctr q pkt tag => packetDone (queueRecord s c 0x316 5 0 ctr 0 0 0 q pkt.toNat tag.toNat) q
  | .successor c ctr _ tq _ => successorLost s c ctr tq
  | _ => s

/-- REJECT (R378): every park of the context in the range becomes a fault. -/
def pgReject (s : State) (c : Nat) : State := pageCommand s c true fun s =>
  let r := pageRange (getCtx s c)
  let s := (ctxGroups s c).foldl (fun s e => putGroup s e.1 { e.2 with p0 := rejectPath r e.2.p0, p1 := rejectPath r e.2.p1 }) s
  let s := (ctxChildren s c).foldl (fun s e => match e.2.parkedAt with
    | some (va, _) => if decide (e.2.st = .running) && inRange r va then finishChild s e.1 .faulted 2 va 0 else s
    | none => s) s
  let s := (s.queues.filterMap fun e => (queuePark e.2 c r).map fun va => (e.1, va)).foldl (fun s e => rejectQueue s e.1 e.2) s
  (s.owed.filter (owedIn c r)).foldl rejectOwed { s with owed := s.owed.filter fun o => !owedIn c r o }

end Sys2Proof.Machine
end

