-- ==== Sys2Proof/Machine/TarnRead.lean ====
section
/-! DEFINITION. What Tarn's heads, its fallback and its scanline cores share: the fields of a head descriptor, head events,
reads through Tarn's engine buffer, texels and their filter (spec/19_presentation.md R422-R428, R435, R439;
spec/20_scanline_isa.md R458). -/

namespace Sys2Proof.Machine

/-! ## A head's descriptor (R427) -/

def Head.out (h : Head) : Nat := fld (dwAt h.desc 0) 39 38
def Head.dport (h : Head) : Nat := fld (dwAt h.desc 0) 37 36
def Head.fport (h : Head) : Nat := fld (dwAt h.desc 0) 35 32
def Head.dst (h : Head) : Nat := fld (dwAt h.desc 0) 31 20
def Head.enc (h : Head) : Nat := fld (dwAt h.desc 0) 19 18
def Head.lead (h : Head) : Nat := fld (dwAt h.desc 0) 10 0
def Head.hact (h : Head) : Nat := fld (dwAt h.desc 1) 63 48
def Head.vact (h : Head) : Nat := fld (dwAt h.desc 1) 47 32
def Head.htotal (h : Head) : Nat := fld (dwAt h.desc 1) 31 16
def Head.vtotal (h : Head) : Nat := fld (dwAt h.desc 1) 15 0
def Head.pclk (h : Head) : Nat := fld (dwAt h.desc 2) 63 32
def Head.res (h : Head) : Nat := fld (dwAt h.desc 3) 63 32
def Head.sres (h : Head) : Nat := fld (dwAt h.desc 3) 31 0
def Head.dies (h : Head) : Nat := fld (dwAt h.desc 4) 63 56
def Head.ways (h : Head) : Nat := fld (dwAt h.desc 4) 55 52
def Head.dscw (h : Head) : Nat := fld (dwAt h.desc 4) 31 16
def Head.bpp (h : Head) : Nat := fld (dwAt h.desc 4) 15 0
def Head.cmask (h : Head) : Nat := dwAt h.desc 5
def Head.prog (h : Head) : Nat := fld (dwAt h.desc 6) 56 4 * 16
def Head.hist (h : Head) (k : Nat) : Nat := if k % 2 = 0 then fld (dwAt h.desc 7) 63 48 else fld (dwAt h.desc 7) 47 32

/-- Slices of a scan-out frame (R422); slice `i` of a head is slice `i % S` of frame `i / S`. -/
def Head.slicesPer (h : Head) : Nat := h.vact / 16
def Head.frameOf (h : Head) (i : Nat) : Nat := i / h.slicesPer
def Head.sliceOf (h : Head) (i : Nat) : Nat := i % h.slicesPer

/-- The lines, since the head entered active, from there to line 0 of a slice (R429, R433): an idle frame of VTOTAL lines
precedes frame 0 (DEDUCED, log 34: it begins at line 0 as the head enters active, as the example of R482 has it). -/
def Head.lineAt (h : Head) (i : Nat) : Nat := h.vtotal + h.frameOf i * h.vtotal + 16 * h.sliceOf i

/-- The lines at which a slice latches, may start, must be complete and has left (R433, R434, R437). -/
def Head.latchAt (h : Head) (i : Nat) : Nat := h.lineAt i - h.lead
def Head.startAt (h : Head) (i : Nat) : Nat := max (h.latchAt i) (h.lineAt i - 48)
def Head.deadlineAt (h : Head) (i : Nat) : Nat := h.lineAt i - 2
def Head.leaveAt (h : Head) (i : Nat) : Nat := h.lineAt i + 16

/-- The time of a line on the clock that all heads share, in fs, as a fraction. -/
def Head.beamTime (h : Head) (line : Nat) : Nat × Nat := (h.since * h.pclk + line * h.htotal * 10 ^ 12, h.pclk)

/-- How many scan-out frames have begun when the beam is on a line: frame 0 begins as its slice 0 latches (R429), every later
one on its own line 0, as R483 has it (DEDUCED, notes/assumptions/34.md). -/
def Head.begunAt (h : Head) (line : Nat) : Nat := max (if h.latchAt 0 ≤ line then 1 else 0) (line / h.vtotal)

/-- The beam on a line: FRAME counts the frames that have begun, of which a stopping head begins none. -/
def Head.beamTo (h : Head) (line : Nat) : Head :=
  { h with beam := line, frame := if h.st = .stopping then h.frame else BitVec.ofNat 32 (h.begunAt line) }

/-- A slice of a head; none once it has been output. -/
def Head.slice (h : Head) (i : Nat) : Option Slice := (h.slices.find? fun e => e.1 == i).map (·.2)

/-- Rewrites a slice that is under way. -/
def modSlice (s : State) (hd i : Nat) (f : Slice → Slice) : State :=
  modHead s hd fun h => { h with slices := h.slices.map fun e => if e.1 = i then (i, f e.2) else e }

/-! ## Events (R439) -/

/-- Posts a head event, or counts it as lost when the queue is full. -/
def headEvent (s : State) (hd typ slice frame detail frameid : Nat) : State :=
  let h := getHead s hd
  let log := max 4 (fld h.evq.toNat 3 0)
  let at_ := fld h.evq.toNat 51 5 * 32 + 32 * (h.evtail.toNat % 2 ^ log)
  if (h.evtail - h.evhead).toNat ≥ 2 ^ log then putHead s hd { h with evlost := h.evlost + 1 }
  else
    let s := putHead s hd { h with evtail := h.evtail + 1 }
    if inGddr at_ 32 then
      writeBy .tarn s at_ (packFields [(1, typ), (1, hd), (2, slice), (4, frame), (8, detail), (4, frameid), (12, 0)])
    else s

/-- An event of a slice: its number, its scan-out frame, and the FRAMEID of the frame in use for it. -/
def sliceEvent (s : State) (hd typ i detail : Nat) : State :=
  let h := getHead s hd
  let id := match h.slice i with
    | some { frame := some f, .. } => f.frameid.toNat
    | _ => 0
  headEvent s hd typ (h.sliceOf i) (h.frameOf i % 2 ^ 32) detail id

/-! ## Reads (R371, R376, R424) -/

/-- Tarn's engine buffer. -/
def tarnUnit : TUnit := .engine 1

/-- Reads bytes of a context's memory for Tarn: none if its buffer starts no new translation, or the address that failed; a
translation fault is reported with SOURCE 6 and never parks. -/
def tarnRead (s : State) (c va n : Nat) : State × Except (Option Nat) (List Byte) :=
  if va + n > 2 ^ 57 then (s, .error (some va))
  else match readVirt s tarnUnit c va n with
    | (s, .ok b) => (s, .ok b)
    | (s, .error (0, _, _)) => (s, .error none)
    | (s, .error (1, level, at_)) => (pageReport s c { source := 6, access := 1, va := at_, level := level }, .error (some at_))
    | (s, .error (_, _, at_)) => (s, .error (some at_))

/-- Reads a tensor descriptor for Tarn. -/
def tarnTensor (s : State) (c t : Nat) : State × Except (Option Nat) (List DWord) :=
  let x := getCtx s c
  let va := x.ttbase + 64 * t
  if t ≥ x.ttcount then (s, .error (some va))
  else match tarnRead s c va 64 with
    | (s, .ok b) => (s, .ok (bytesDw b))
    | (s, .error e) => (s, .error e)

/-- Reads elements of a tensor as their codes. -/
def readElems (s : State) (c : Nat) (t : Tensor) : List (List Nat) → State × Except (Option Nat) (List Nat)
  | [] => (s, .ok [])
  | ix :: rest =>
    match tarnRead s c (elemAddress t ix).1 (elemWidth t.fmt / 8) with
    | (s, .error e) => (s, .error e)
    | (s, .ok b) =>
      match readElems s c t rest with
      | (s, .ok l) => (s, .ok (leNat b :: l))
      | (s, .error e) => (s, .error e)

/-- A tensor of rank 3 with this format and EXT0 (R423, R427). -/
def planeOk (d : List DWord) (fmt e0 : Nat) : Bool :=
  let t := tensorOf d
  !tensorBad d && t.rank == 3 && t.fmt == fmt && t.ext.getD 0 0 == e0

/-- A history tensor that can be used (R436). -/
def historyOk (h : Head) (d : List DWord) : Bool :=
  planeOk d 3 4 && (tensorOf d).ext.getD 1 0 == h.hact && (tensorOf d).ext.getD 2 0 == h.vact

/-! ## Texels and the bilinear filter (R435, R458) -/

/-- (0, 0, 0, 1) in binary16. -/
def blackTexel : List Nat := [0, 0, 0, 0x3C00]

/-- A coordinate less nothing: its floor and the 256ths of the rest, clamped to −2^31..2^31 − 1. -/
def coordSplit (v : FVal) : Int × Nat :=
  let lim (n : Bool) : Int × Nat := if n then (-(2 ^ 31), 0) else (2 ^ 31 - 1, 0)
  match v with
  | .nan _ => (0, 0)
  | .inf n => lim n
  | .fin n m e =>
    let q := min e 0
    let i := inUnits n m e q
    let one : Int := ((2 ^ (-q).toNat : Nat) : Int)
    if i < -(2 ^ 31) * one then lim true
    else if (2 ^ 31 - 1) * one < i then lim false
    else
      let fl := i / one
      (fl, (roundInt 0 { neg := false, num := (i - fl * one).toNat * 256, e := q }).1.toNat)

/-- A coordinate clamped to an extent. -/
def clampTo (i : Int) (n : Nat) : Nat := min i.toNat (n - 1)

/-- The columns and rows of the four taps of a bilinear sample in an image. -/
def tapsOf (x y : Int × Nat) (e1 e2 : Nat) : List (Nat × Nat) :=
  corners.map fun e => (clampTo (x.1 + (e.1 : Int)) e1, clampTo (y.1 + (e.2 : Int)) e2)

/-- The weights of the four taps, of 65,536. -/
def tapWeights (fx fy : Nat) : List Nat :=
  corners.map fun e => (if e.1 = 0 then 256 - fx else fx) * (if e.2 = 0 then 256 - fy else fy)

/-- The filtered channels of four texels of codes of a format (R435, R458): the exact sum over 65,536, rounded once. -/
def blend (f : Fmt) (ws : List Nat) (texels : List (List Nat)) (channels : Nat) : List Nat :=
  (List.range channels).map fun ch =>
    (sumOnce f 0 ((ws.zip texels).map fun e => prodExact (.fin false e.1 (-16)) (decodeF f (e.2.getD ch 0)))).1

/-- Reads texels of an image: for each place, the codes of its channels; `none` for a place reads as (0, 0, 0, 1). -/
def readTexels (s : State) (c : Nat) (t : Tensor) : List (Option (Nat × Nat)) → State × Except (Option Nat) (List (List Nat))
  | [] => (s, .ok [])
  | p :: rest =>
    match (match p with
      | none => (s, Except.ok blackTexel)
      | some (x, y) => readElems s c t ((List.range (t.ext.getD 0 0)).map fun ch => [ch, x, y])) with
    | (s, .error e) => (s, .error e)
    | (s, .ok px) =>
      match readTexels s c t rest with
      | (s, .ok l) => (s, .ok (px :: l))
      | (s, .error e) => (s, .error e)

/-- Whether a row of a head's history of the frame before `k` has been written (R435, R436). -/
def historyRow (h : Head) (k y : Nat) : Bool := decide (0 < k) && tget false h.written ((k - 1) * h.slicesPer + y / 16)

end Sys2Proof.Machine
end

