-- ==== Sys2Proof/Machine/Scanline.lean ====
section
/-! DEFINITION. Tarn's scanline cores: contexts and their switches, words and landing, and the meanings of the slots of a
word (spec/20_scanline_isa.md R444-R464). -/

namespace Sys2Proof.Machine

/-! ## Places -/

def getSl (s : State) (core : Nat) : SlCore := tget {} s.slcores core
def putSl (s : State) (core : Nat) (x : SlCore) : State := { s with slcores := tput {} s.slcores core x }
def modSl (s : State) (core : Nat) (f : SlCore → SlCore) : State := putSl s core (f (getSl s core))

/-- Context `k` of a core. -/
def SlCore.ctx (x : SlCore) (k : Nat) : SlContext := tget {} x.ctxs k
def getSlc (s : State) (core k : Nat) : SlContext := (getSl s core).ctx k
def putSlc (s : State) (core k : Nat) (x : SlContext) : State := modSl s core fun c => { c with ctxs := tput {} c.ctxs k x }
def modSlc (s : State) (core k : Nat) (f : SlContext → SlContext) : State := putSlc s core k (f (getSlc s core k))

/-- A line-store byte of a context's window (R456). -/
def lsKey (core k off : Nat) : Nat := core * 524288 + 131072 * k + off

/-- Register n of file f (a 0, b 1, m 2, l 3, w 4, c 5). -/
def slKey (f n : Nat) : Nat := 32 * f + n
def SlContext.reg (x : SlContext) (f n : Nat) : Word := tget 0 x.regs (slKey f n)

/-! ## Landing (R447, R448) -/

/-- Results land in the order given. -/
def slLand (x : SlContext) (l : List SlResult) : SlContext :=
  { x with regs := l.foldl (fun r e => tput 0 r (slKey e.file e.reg) e.val) x.regs }

/-- A word issues: every result in flight is a word nearer, and those whose count is over land. -/
def slCount (x : SlContext) : SlContext :=
  let l := x.inflight.map fun e => { e with remain := e.remain - 1 }
  { slLand x (l.filter fun e => e.remain == 0) with inflight := l.filter fun e => e.remain != 0 }

/-- A result put into landing order: after every one that lands no later. -/
def slInsert (e : SlResult) : List SlResult → List SlResult
  | [] => [e]
  | h :: t => if e.remain < h.remain then e :: h :: t else h :: slInsert e t

/-- Results in landing order: by the words that remain, then as they were issued. -/
def slOrder (l : List SlResult) : List SlResult := l.foldl (fun o e => slInsert e o) []

/-- A landing fence. -/
def slFence (x : SlContext) : SlContext := { slLand x (slOrder x.inflight) with inflight := [] }

/-! ## Switches (R450) -/

/-- When a slice's deadline comes, on the clock that all heads share. -/
def deadlineTime (s : State) (hd i : Nat) : Nat × Nat := let h := getHead s hd; h.beamTime (h.deadlineAt i)

/-- Whether one deadline comes before another. -/
def sooner (a b : Nat × Nat) : Bool := decide (a.1 * b.2 < b.1 * a.2)

/-- The contexts of a core in a state. -/
def slcsIn (s : State) (core : Nat) (st : SlSt) : List Nat := (List.range 4).filter fun k => decide ((getSlc s core k).st = st)

/-- The current context of a core. -/
def slCurrent (s : State) (core : Nat) : Option Nat := (slcsIn s core .current).head?

/-- The ready context whose slice has the earliest deadline, the lowest of equals. -/
def slNext (s : State) (core : Nat) : Option Nat :=
  let left (k : Nat) : Nat × Nat := deadlineTime s (getSlc s core k).head (getSlc s core k).slice
  (slcsIn s core .ready).foldl (fun o k => match o with
    | none => some k
    | some b => if sooner (left k) (left b) then some k else some b) none

/-- A core with no current context takes the next ready one; a stopped core switches no context. -/
def slSwitch (s : State) (core : Nat) : State :=
  if (getSl s core).stopped || (slCurrent s core).isSome then s
  else match slNext s core with
    | some k => modSlc s core k fun x => { x with st := .current }
    | none => s

/-! ## Calls' entries (R465) -/

/-- An entry is freed: its generation advances (R255). -/
def freeCall (t : TarnCall) : TarnCall := { gen := if t.gen ≥ 4095 then 1 else t.gen + 1 }

def TarnCall.live (t : TarnCall) : Bool := t.st == 1 || t.st == 2
def TarnCall.over (t : TarnCall) : Bool := t.st == 3 || t.st == 4 || t.st == 5

/-- The entries of an ended context: unstarted calls are cancelled at once, a running one at its next k-block boundary. -/
def endCalls (l : Tbl TarnCall) : Tbl TarnCall :=
  l.map fun e => (e.1, if e.2.st = 2 ∨ e.2.st = 6 then { e.2 with st := 6 } else if e.2.st = 0 then e.2 else freeCall e.2)

/-- The token of a call (R465). -/
def slToken (core k entry gen : Nat) : Nat := core * 2 ^ 26 + k * 2 ^ 24 + entry * 2 ^ 20 + gen

/-! ## Starting and ending a slice's program (R434, R446, R450) -/

/-- The core that a slice is given to (R434). -/
def sliceCore (h : Head) (i : Nat) : Nat :=
  let l := (List.range 64).filter fun c => bitOf h.cmask c
  l.getD (h.sliceOf i % l.length) 0

/-- A slice's program starts in a context: every register 0, PC at PROG, the line-store window zero. -/
def slStart (s : State) (core k hd i : Nat) : State :=
  let h := getHead s hd
  let x := getSlc s core k
  let s := { s with lineStore := tclear s.lineStore (lsKey core k 0) 131072 }
  let s := putSlc s core k { st := .ready, head := hd, slice := i, pc := h.prog, calls := x.calls }
  slSwitch (modSlice s hd i fun q => { q with st := .running core k }) core

/-- The slices of every head that wait for a context of a core. -/
def slWaiting (s : State) (core : Nat) : List (Nat × Nat) :=
  s.heads.flatMap fun e => e.2.slices.filterMap fun q =>
    if decide (q.2.st = .started) && sliceCore e.2 q.1 == core then some (e.1, q.1) else none

/-- A free context takes the slice that waits with the earliest deadline (R450). -/
def slTake (s : State) (core : Nat) : State :=
  match (slcsIn s core .free).head? with
  | none => s
  | some k =>
    match (slWaiting s core).foldl (fun o q => match o with
      | none => some q
      | some b => if sooner (deadlineTime s q.1 q.2) (deadlineTime s b.1 b.2) then some q else some b) none with
    | some (hd, i) => slStart s core k hd i
    | none => s

/-- A context ends: its results, pixels and fetches are discarded and its calls cancelled; the core switches. -/
def slEnd (s : State) (core k : Nat) : State :=
  let s := match s.slw with
    | some w => if w.core = core ∧ w.k = k then { s with slw := none } else s
    | none => s
  let s := putSlc s core k { calls := endCalls (getSlc s core k).calls }
  slTake (slSwitch s core) core

/-- A context fault (R451). -/
def slFault (s : State) (core k detail : Nat) : State :=
  let x := getSlc s core k
  let s := sliceEvent s x.head 3 x.slice detail
  slEnd (modSlice s x.head x.slice fun q => { q with st := .fallback }) core k

/-! ## The record of a stopped context (R467) -/

/-- What STATE says. -/
def slStateCode : SlSt → Nat
  | .free => 0
  | .ready => 1
  | .current => 2
  | .waiting => 3

/-- The registers of a file as bytes. -/
def slFile (x : SlContext) (f n : Nat) : List Byte := (List.range n).flatMap fun j => natLe (x.reg f j).toNat 4

/-- The 4 KiB from a context's record on: its 2 KiB, the rest zero. -/
def slRecord (s : State) (core k : Nat) : List Byte :=
  let x := getSlc s core k
  let h := getHead s x.head
  let on := decide (x.st ≠ .free)
  let fl := slOrder x.inflight
  packFields [(1, slStateCode x.st), (1, if x.st = .waiting then x.waitMode else 0), (1, x.head), (1, 0),
      (4, if on then h.sliceOf x.slice else 0), (8, x.pc), (4, if on then h.frameOf x.slice % 2 ^ 32 else 0), (4, x.pushed)]
    ++ List.replicate 0x28 0
    ++ slFile x 0 32 ++ slFile x 1 32 ++ slFile x 2 32 ++ slFile x 3 32 ++ slFile x 4 32 ++ slFile x 5 16
    ++ packFields [(4, fl.length)] ++ List.replicate 0xFC 0
    ++ ((List.range 64).flatMap fun j => match fl[j]? with
      | some e => packFields [(1, e.file), (1, e.reg), (1, e.remain), (1, e.slot), (4, e.val.toNat), (8, 0)]
      | none => List.replicate 16 0)
    ++ List.replicate 0x800 0

/-- A core freezes and writes its contexts' records. -/
def slFreeze (s : State) (core : Nat) : State :=
  let s := modSl s core fun c => { c with
    stopped := true, stepping := false, freezing := false
    ctxs := c.ctxs.map fun e => (e.1, if e.2.st = .free then e.2 else { e.2 with dumped := true }) }
  (List.range 4).foldl (fun s k =>
    let a := (getSl s core).dump + 0x1000 * k
    if inGddr a 0x1000 then writeBy .tarn s a (slRecord s core k) else s) s

/-! ## Waits (R461) -/

/-- Whether a WAIT's condition is true. -/
def slWaitTrue (x : SlContext) : Nat → Bool
  | 1 => !x.calls.any fun e => e.2.live
  | 2 => x.fetches.isEmpty
  | 3 => x.fifo.isEmpty
  | _ => true

/-- What a true WAIT does: WAIT.mb writes its count and frees the tokens of the ended calls. -/
def slWaitDone (x : SlContext) (mode reg : Nat) : SlContext :=
  if mode = 1 then
    { x with regs := tput 0 x.regs (slKey 5 reg) (BitVec.ofNat 32 x.faultedCalls), faultedCalls := 0
             calls := x.calls.map fun e => (e.1, if e.2.over then freeCall e.2 else e.2) }
  else x

/-- A waiting context whose condition has become true is ready. -/
def slWake (s : State) (core k : Nat) : State :=
  let x := getSlc s core k
  if decide (x.st = .waiting) && slWaitTrue x x.waitMode && !(getSl s core).stopped then
    slSwitch (putSlc s core k { slWaitDone x x.waitMode x.waitReg with st := .ready }) core
  else s

/-! ## The open word -/

/-- A position by its number. -/
def slPosOf : Nat → SlPos
  | 0 => .a
  | 1 => .b
  | 2 => .m
  | 3 => .l
  | 4 => .w
  | _ => .c

/-- The 20 bits of a slot. -/
def slBits (w : BitVec 128) (pos : Nat) : BitVec 20 := w.extractLsb' (slShift (slPosOf pos)) 20

/-- The first present slot from a position on. -/
def slPresent (w : BitVec 128) (pos : Nat) : Option Nat := (List.range 6).find? fun p => decide (pos ≤ p) && w.getLsbD p

/-- Whether a word is legal: header bits 0, absent slots 0, present slots decode (R444, R445, R451). -/
def slLegal (w : BitVec 128) : Bool :=
  w.extractLsb' 6 2 == 0 && (List.range 6).all fun p =>
    if w.getLsbD p then (match decodeSl (slPosOf p) (slBits w p) with
      | .ok _ => true
      | .error _ => false)
    else slBits w p == 0

/-- The instruction of the open word's next slot. -/
def slInstr (w : SlIssue) : Option Instr :=
  match decodeSl (slPosOf w.pos) (slBits w.word w.pos) with
  | .ok i => some i
  | .error _ => none

/-- Whether an OUT, a FETCH or an OXCALL of a word holds the core (R449). -/
def slHolds (x : SlContext) (w : BitVec 128) : Bool :=
  (List.range 6).any fun p => w.getLsbD p && match decodeSl (slPosOf p) (slBits w p) with
    | .ok .slOut => decide (x.fifo.length ≥ 256)
    | .ok .slFetch => decide (x.fetches.length ≥ 8)
    | .ok .slOxcall => (List.range 16).all fun j => let t := tget ({} : TarnCall) x.calls j; t.live || t.st == 6
    | _ => false

/-- The word at an address (R444); it needs X. -/
def slFetchWord (s : State) (c va : Nat) : State × Except (Option Nat) (BitVec 128) :=
  if va + 16 > 2 ^ 57 then (s, .error (some va))
  else match translateRange s tarnUnit c va 16 { x := true } 2 with
    | (s, .ok l) => (s, .ok (BitVec.ofNat 128 (leNat (readPieces s.mem l))))
    | (s, .error (0, _, _)) => (s, .error none)
    | (s, .error (1, level, at_)) => (pageReport s c { source := 6, access := 4, va := at_, slot := 0xFF, level := level }, .error (some at_))
    | (s, .error (_, _, at_)) => (s, .error (some at_))

/-- Whether a core is held (R449): for texels of a SAMP, or its current context's next word needs room that there is not. -/
def slHeld (s : State) (core : Nat) : Bool :=
  (getSl s core).sampHeld || match slCurrent s core with
    | none => false
    | some k =>
      let x := getSlc s core k
      match (slFetchWord s (headCtx (getHead s x.head)) x.pc).2 with
      | .ok w => slHolds x w
      | .error _ => false

/-- A core that is to freeze does so once it is not held (R467). -/
def slFreezeNow (s : State) (core : Nat) : State := if (getSl s core).freezing && !slHeld s core then slFreeze s core else s

/-- A core is to freeze: at once, or when its hold has ended. -/
def slAskFreeze (s : State) (core : Nat) : State := slFreezeNow (modSl s core fun c => { c with freezing := true, stepping := false }) core

/-- A stepping core has issued its word. -/
def slStepped (s : State) (core : Nat) : State := if (getSl s core).stepping then slAskFreeze s core else s

/-- A command is in progress: a freeze that waits, or a STEP whose word has not issued (R466). -/
def slBusy (c : SlCore) : Bool := c.busy || c.freezing || c.stepping

/-- A word has issued (R447): the context goes on at the next word, its results in flight. -/
def slFinish (s : State) (w : SlIssue) : State :=
  let s := { s with slw := none }
  slStepped (modSlc s w.core w.k fun x => { x with pc := w.next, inflight := x.inflight ++ w.results }) w.core

/-- The slot at the open word's position is done. -/
def slAdvance (s : State) (w : SlIssue) : State :=
  match slPresent w.word (w.pos + 1) with
  | some p => { s with slw := some { w with pos := p } }
  | none => slFinish s w

/-- Whether a breakpoint stands before a word. -/
def slBreaks (x : SlCore) (pc : Nat) : Bool := x.brk.getLsbD 0 && fld x.brk.toNat 56 4 == pc / 16 && !x.stepping

/-- Whether a core's current context could issue: not stopped nor about to, not held, no breakpoint, Tarn's buffer not held (R373). -/
def slReady (s : State) (core : Nat) : Option Nat :=
  let c := getSl s core
  if c.stopped || c.sampHeld || c.freezing then none
  else match slCurrent s core with
    | none => none
    | some k =>
      let x := c.ctx k
      if slBreaks c x.pc || unitHeld s tarnUnit (getCtx s (headCtx (getHead s x.head))).asn then none else some k

/-- A core opens the current context's next word (R447, R449): a held word stays; an illegal one faults; with no slot it is over. -/
def slOpen (s : State) (core : Nat) : State :=
  match slReady s core with
  | none => s
  | some k =>
    let x := getSlc s core k
    match slFetchWord s (headCtx (getHead s x.head)) x.pc with
    | (s, .error none) => s
    | (s, .error (some at_)) => slStepped (slFault s core k at_) core
    | (s, .ok w) =>
      if !slLegal w then slStepped (slFault s core k x.pc) core
      else if slHolds x w then s
      else
        let s := putSlc s core k (slCount x)
        let is : SlIssue := ⟨core, k, x.pc, w, 0, x.pc + 16, []⟩
        match slPresent w 0 with
        | some p => { s with slw := some { is with pos := p } }
        | none => slFinish s is

/-! ## The frame of a slot -/

/-- What a slot reads. -/
structure SlC where
  s : State
  w : SlIssue
  x : SlContext
  h : Head

def slC (s : State) (w : SlIssue) : SlC := { s := s, w := w, x := getSlc s w.core w.k, h := getHead s (getSlc s w.core w.k).head }

/-- Its fields, and its sources in its own file. -/
def SlC.d (c : SlC) : Nat := ((slBits c.w.word c.w.pos).extractLsb' 10 5).toNat
def SlC.xf (c : SlC) : Nat := ((slBits c.w.word c.w.pos).extractLsb' 5 5).toNat
def SlC.yf (c : SlC) : Nat := ((slBits c.w.word c.w.pos).extractLsb' 0 5).toNat
def SlC.rd (c : SlC) : Word := c.x.reg c.w.pos c.d
def SlC.rx (c : SlC) : Word := c.x.reg c.w.pos c.xf
def SlC.ry (c : SlC) : Word := c.x.reg c.w.pos c.yf
def SlC.xy (c : SlC) : Nat := 32 * c.xf + c.yf
/-- The memory that Tarn reads for the context, the slice, and its frame. -/
def SlC.ctx (c : SlC) : Nat := headCtx c.h
def SlC.slice (c : SlC) : Slice := (c.h.slice c.x.slice).getD {}
def SlC.frame (c : SlC) : Frame := c.slice.frame.getD ⟨0, 0, 0, 0, 0, 0, 0, []⟩

/-- What a slot answers: results; a branch; a context fault with its address, the word's own if none; the end of the word by
WAIT or DONE. -/
inductive SlRes where
  | ok (l : List SlResult)
  | jump (target : Nat)
  | fault (detail : Option Nat)
  | wait (mode reg : Nat)
  | done

/-- A slot's meaning. -/
abbrev SlMeaning := SlC → State × SlRes

/-- The latency of a slot position (R447). -/
def slLatency : Nat → Nat
  | 2 => 4
  | 4 => 12
  | _ => 2

/-- A result of the slot in a file. -/
def SlC.res (c : SlC) (f r lat : Nat) (v : Word) : SlResult := ⟨f, r, lat, c.w.pos, v⟩

/-- A form that writes d of its own file and reads nothing else. -/
def slPure (f : SlC → Word) : SlMeaning := fun c => (c.s, .ok [c.res c.w.pos c.d (slLatency c.w.pos) (f c)])

/-- WAIT (R448, R450, R461): what is in flight lands, this word's results among it; then the context goes on or waits. -/
def slWaitEnd (s : State) (w : SlIssue) (mode reg : Nat) : State :=
  let x := getSlc s w.core w.k
  let x := slFence { x with pc := w.next, inflight := x.inflight ++ w.results }
  let s := { s with slw := none }
  let s := if slWaitTrue x mode then putSlc s w.core w.k (slWaitDone x mode reg)
    else slSwitch (putSlc s w.core w.k { x with st := .waiting, waitMode := mode, waitReg := reg }) w.core
  slStepped s w.core

/-- DONE (R464): with the slice's pixels pushed, the FIFO drains, the slice is complete and the context free. -/
def slDoneEnd (s : State) (w : SlIssue) : State :=
  let x := getSlc s w.core w.k
  let h := getHead s x.head
  let s := { s with slw := none }
  if x.pushed = 16 * h.hact then
    slStepped (slEnd (modSlice s x.head x.slice fun q => { q with pixels := q.pixels ++ x.fifo, st := .complete }) w.core w.k) w.core
  else slStepped (slFault s w.core w.k w.addr) w.core

/-- Runs the slot at the open word's position. -/
def runSl (f : SlMeaning) (s : State) : Host.Outcome State Fault Refusal :=
  match s.slw with
  | none => .fault .notIssued
  | some w =>
    match f (slC s w) with
    | (s, .ok l) => .next (slAdvance s { w with results := w.results ++ l })
    | (s, .jump t) => .next (slAdvance s { w with next := t })
    | (s, .fault d) => .next (slStepped (slFault { s with slw := none } w.core w.k (d.getD w.addr)) w.core)
    | (s, .wait mode reg) => .next (slWaitEnd s w mode reg)
    | (s, .done) => .next (slDoneEnd s w)

/-! ## ALU and multiply forms (R454, R455) -/

/-- An immediate of `w` bits, sign-extended. -/
def slImm (w x : Nat) : Word := BitVec.ofInt 32 (toSigned w x)

def slInt2 (f : Word → Word → Word) : SlMeaning := slPure fun c => f c.rx c.ry
def mSlAddi : SlMeaning := slPure fun c => c.rx + slImm 5 c.yf
def mSlMovi : SlMeaning := slPure fun c => slImm 10 c.xy
def mSlMovl : SlMeaning := slPure fun c => BitVec.ofNat 32 (c.rd.toNat * 1024 + c.xy)

/-- A word as binary32. -/
def f32 (x : Word) : FVal := decodeF binary32 x.toNat
def slF2 (f : FVal → FVal → Nat × BitVec 6) : SlMeaning := slPure fun c => BitVec.ofNat 32 (f (f32 c.rx) (f32 c.ry)).1
def slF1 (f : FVal → Nat × BitVec 6) : SlMeaning := slPure fun c => BitVec.ofNat 32 (f (f32 c.rx)).1
def mSlFslt : SlMeaning := slPure fun c => if fcmpCond 2 (f32 c.rx) (f32 c.ry) then 1 else 0
def mSlFfma : SlMeaning := slPure fun c => BitVec.ofNat 32 (ffma binary32 0 (f32 c.rx) (f32 c.ry) (f32 c.rd)).1

/-- F2I (R38, R455). -/
def slF2i (v : FVal) : Word :=
  match v with
  | .nan _ => 0
  | .inf n => if n then 0x80000000 else 0x7FFFFFFF
  | .fin n m e => (clamp32 (roundInt 3 { neg := n, num := m, e := e }).1).1

/-- I2F. -/
def slI2f (x : Word) : Word := BitVec.ofNat 32 (roundF binary32 0 { neg := decide (x.toInt < 0), num := x.toInt.natAbs, e := 0 }).1

/-- F2H and its halves back. -/
def slF2h (x y : Word) : Word := BitVec.ofNat 32 (encodeF binary16 (f32 x) + 65536 * encodeF binary16 (f32 y))
def slH2f (x : Nat) : Word := BitVec.ofNat 32 (encodeF binary32 (decodeF binary16 (x % 65536)))

/-! ## Line store and output (R456, R457) -/

/-- The address of LDW and STW; none outside the window or misaligned. -/
def slAddr (c : SlC) : Option Nat :=
  let a := c.rx.toNat + 4 * c.yf
  if a % 4 ≠ 0 ∨ a ≥ 0x20000 then none else some a

def mSlLdw : SlMeaning := fun c =>
  match slAddr c with
  | none => (c.s, .fault none)
  | some a => (c.s, .ok [c.res 3 c.d 3 (mem32 c.s.lineStore (lsKey c.w.core c.w.k a))])

def mSlStw : SlMeaning := fun c =>
  match slAddr c with
  | none => (c.s, .fault none)
  | some a => ({ c.s with lineStore := writeN c.s.lineStore (lsKey c.w.core c.w.k a) 4 c.rd.toNat }, .ok [])

/-- OUT (R457). -/
def mSlOut : SlMeaning := fun c =>
  if c.x.pushed ≥ 16 * c.h.hact then (c.s, .fault none)
  else
    let px : Pixel := ⟨c.rd.extractLsb' 0 16, c.rd.extractLsb' 16 16, c.rx.extractLsb' 0 16, c.rx.extractLsb' 16 16⟩
    (putSlc c.s c.w.core c.w.k { c.x with pushed := c.x.pushed + 1, fifo := c.x.fifo ++ [px] }, .ok [])

/-! ## Frame tensors (R451, R458, R462) -/

/-- A source of R458: its tensor number, format and channels. -/
def slSource (c : SlC) (src : Nat) : Nat × Nat × Nat :=
  match src with
  | 0 => (c.frame.tc, 3, 4)
  | 1 => (c.frame.tz, 2, 1)
  | 2 => (c.frame.tmv, 3, 2)
  | _ => (c.h.hist (c.h.frameOf c.x.slice + 1), 3, 4)

/-- What a source comes to: a tensor; a history that cannot be used, which reads as (0, 0, 0, 1); or a context fault. -/
inductive SlTensor where
  | use (t : Tensor)
  | black
  | bad (detail : Nat)

/-- The virtual address of a tensor's descriptor. -/
def descVa (s : State) (c t : Nat) : Nat := (getCtx s c).ttbase + 64 * t

/-- Reads and checks the tensor of a source. -/
def slTensor (c : SlC) (src : Nat) : State × SlTensor :=
  let (t, fmt, e0) := slSource c src
  if src = 3 ∧ t ≥ (getCtx c.s c.ctx).ttcount then (c.s, .black)
  else match tarnTensor c.s c.ctx t with
    | (s, .error e) => (s, .bad (e.getD 0))
    | (s, .ok d) =>
      if src = 3 then (s, if historyOk c.h d then .use (tensorOf d) else .black)
      else if planeOk d fmt e0 then (s, .use (tensorOf d))
      else (s, .bad (descVa s c.ctx t))

/-- The texels of a source at places; rows of the history that were never written are (0, 0, 0, 1). -/
def slTexels (c : SlC) (s : State) (src : Nat) (t : Tensor) (ps : List (Nat × Nat)) : State × Except (Option Nat) (List (List Nat)) :=
  let seen (p : Nat × Nat) : Bool := src != 3 || historyRow c.h (c.h.frameOf c.x.slice) p.2
  readTexels s c.ctx t (ps.map fun p => if seen p then some p else none)

/-- A sample coordinate less one half where the filter asks for it: a NaN is 0. -/
def slCoord (half : Bool) (v : FVal) : Int × Nat :=
  match v with
  | .fin n m e =>
    let x := addExact 0 n m e true (if half then 1 else 0) (-1)
    coordSplit (.fin x.neg x.num x.e)
  | v => coordSplit v

/-- The words of a sample's channels. -/
def slPack (px : List Nat) (src : Nat) : List Word :=
  let w (i : Nat) : Word := BitVec.ofNat 32 (px.getD i 0 + 65536 * px.getD (i + 1) 0)
  match src with
  | 1 => [BitVec.ofNat 32 (px.getD 0 0)]
  | 2 => [w 0]
  | _ => [w 0, w 2]

/-- SAMP (R449, R458): the core is held until its texels arrive. -/
def slSample (bl : Bool) : SlMeaning := fun c =>
  let src := c.yf % 4
  let x := slCoord bl (f32 (c.x.reg 4 c.xf))
  let y := slCoord bl (f32 (c.x.reg 4 (c.xf + 1)))
  let answer (s : State) (px : List Nat) : State × SlRes :=
    let ws := slPack px src
    (modSl s c.w.core fun q => { q with sampHeld := true },
      .ok ((List.range ws.length).map fun j => c.res 4 (c.d + j) 12 (ws.getD j 0)))
  match slTensor c src with
  | (s, .bad d) => (s, .fault (some d))
  | (s, .black) => answer s blackTexel
  | (s, .use t) =>
    let e1 := t.ext.getD 1 0
    let e2 := t.ext.getD 2 0
    let ps := if bl then tapsOf x y e1 e2 else [(clampTo x.1 e1, clampTo y.1 e2)]
    match slTexels c s src t ps with
    | (s, .error e) => (s, .fault (some (e.getD 0)))
    | (s, .ok l) =>
      let f := if src = 1 then binary32 else binary16
      answer s (if bl then blend f (tapWeights x.2 y.2) l ((slSource c src).2.2) else l.getD 0 [])

/-! ## Control forms (R459-R464) -/

/-- XFER to a file. -/
def slXfer (f : Nat) : SlMeaning := fun c => (c.s, .ok [c.res f c.d 2 (c.x.reg c.yf c.xf)])

/-- The address that lies a signed number of words from this one. -/
def slTarget (c : SlC) (w off : Nat) : Nat := ofSigned 64 ((c.w.addr : Int) + 16 * toSigned w off)

def mSlBr : SlMeaning := fun c => (c.s, .jump (slTarget c 15 (1024 * c.d + c.xy)))
def slBranch (onZero : Bool) : SlMeaning := fun c =>
  if (c.rd == 0) == onZero then (c.s, .jump (slTarget c 10 c.xy)) else (c.s, .ok [])

/-- WAIT in a mode. -/
def slWaitMode (mode : Nat) : SlMeaning := fun c => (c.s, .wait mode c.d)

/-- The bytes of a FETCH, column by column: elements whole, all channels as stored. -/
def slColumns (c : SlC) (s : State) (src : Option Nat) (t : Tensor) (i1 i2 n : Nat) : State × Except (Option Nat) (List Byte) :=
  let e0 := t.ext.getD 0 0
  let row := min i2 (t.ext.getD 2 0 - 1)
  let cols := (List.range n).map fun j => min (i1 + j) (t.ext.getD 1 0 - 1)
  let w := elemWidth t.fmt / 8
  if src == some 3 && !historyRow c.h (c.h.frameOf c.x.slice) row then
    (s, .ok (cols.flatMap fun _ => blackTexel.flatMap fun v => natLe v 2))
  else match readElems s c.ctx t (cols.flatMap fun x => (List.range e0).map fun ch => [ch, x, row]) with
    | (s, .error e) => (s, .error e)
    | (s, .ok l) => (s, .ok (l.flatMap fun v => natLe v w))

/-- A FETCH goes on in the background with the bytes it reads (R449, R462). -/
def slFetched (c : SlC) (off : Nat) (r : State × Except (Option Nat) (List Byte)) : State × SlRes :=
  match r with
  | (s, .error e) => (s, .fault (some (e.getD 0)))
  | (s, .ok b) => (modSlc s c.w.core c.w.k fun x => { x with fetches := x.fetches ++ [⟨off, b⟩] }, .ok [])

/-- FETCH (R462). -/
def mSlFetch : SlMeaning := fun c =>
  let off := c.rd.toNat
  let lo := c.rx.toNat
  let hi := (c.x.reg 5 (c.xf + 1)).toNat
  let sel := lo % 65536
  let i2 := lo / 65536
  let i1 := hi % 65536
  let n := hi / 65536
  let fits (bytes : Nat) : Bool := decide (off + n * bytes ≤ 0x20000)
  if off % 4 ≠ 0 ∨ n = 0 ∨ n > 4096 then (c.s, .fault none)
  else
    let run (s : State) (src : Option Nat) (t : Tensor) : State × SlRes :=
      if fits (t.ext.getD 0 0 * (elemWidth t.fmt / 8)) then slFetched c off (slColumns c s src t i1 i2 n) else (s, .fault none)
    if 0xFFF0 ≤ sel ∧ sel ≤ 0xFFF3 then
      match slTensor c (sel - 0xFFF0) with
      | (s, .bad d) => (s, .fault (some d))
      | (s, .black) =>
        if fits 8 then slFetched c off (s, .ok ((List.range n).flatMap fun _ => blackTexel.flatMap fun v => natLe v 2))
        else (s, .fault none)
      | (s, .use t) => run s (some (sel - 0xFFF0)) t
    else match tarnTensor c.s c.ctx sel with
      | (s, .error e) => (s, .fault (some (e.getD 0)))
      | (s, .ok d) =>
        if tensorBad d || (tensorOf d).rank != 3 || decide (elemWidth (tensorOf d).fmt < 8) then (s, .fault (some (descVa s c.ctx sel)))
        else run s none (tensorOf d)

/-- POSE (R463): a word of the slice's output pose, or of the render pose. -/
def mSlPose : SlMeaning := slPure fun c =>
  let p := if c.yf < 16 then c.slice.pose else c.frame.pose
  let w := c.yf % 16
  BitVec.ofNat 32 (dwAt p (w / 2) / 2 ^ (32 * (w % 2)))

/-- SYS (R463). -/
def mSlSys : SlMeaning := slPure fun c =>
  BitVec.ofNat 32 (match c.yf with
    | 0 => c.h.sliceOf c.x.slice
    | 1 => c.h.hact
    | 2 => c.h.vact
    | 3 => c.x.head
    | 4 => c.h.frameOf c.x.slice
    | 5 => c.frame.ext1
    | 6 => c.frame.ext2
    | 7 => c.w.k
    | 8 => c.w.core
    | _ => c.h.lead)

/-- The entry that an OXCALL takes: the lowest free one, and with all 16 in use the lowest whose call has ended. -/
def freeEntry (x : SlContext) : Option Nat :=
  let at_ (j : Nat) : TarnCall := tget ({} : TarnCall) x.calls j
  match (List.range 16).find? fun j => (at_ j).st == 0 with
  | some j => some j
  | none => (List.range 16).find? fun j => (at_ j).over

/-- OXCALL (R465). -/
def mSlOxcall : SlMeaning := fun c =>
  let va := c.rx.toNat + 2 ^ 32 * (c.x.reg 5 (c.xf + 1)).toNat
  if va % 128 ≠ 0 then (c.s, .fault none)
  else match freeEntry c.x with
    | none => (c.s, .fault none)
    | some j =>
      let t := tget ({} : TarnCall) c.x.calls j
      let t := if t.st = 0 then t else freeCall t
      let s := putSlc c.s c.w.core c.w.k { c.x with calls := tput {} c.x.calls j { t with st := 1, addr := va, order := c.s.childOrder, word := c.w.addr, pos := c.w.pos } }
      ({ s with childOrder := s.childOrder + 1 }, .ok [c.res 5 c.d 2 (BitVec.ofNat 32 (slToken c.w.core c.w.k j t.gen))])

def mSlDone : SlMeaning := fun c => (c.s, .done)

end Sys2Proof.Machine
end

