-- ==== Sys2Proof/Machine/TarnCalls.lean ====
section
/-! DEFINITION. Tarn's Oxbow and its calls, the background work of scanline contexts, and the debug commands of scanline
cores (spec/19_presentation.md R440; spec/20_scanline_isa.md R449, R457, R462, R465-R467). -/

namespace Sys2Proof.Machine

/-! ## Calls (R440, R465) -/

/-- Every call that has not been started: its place and entry. -/
def issuedCalls (s : State) : List ((Nat × Nat × Nat) × TarnCall) :=
  s.slcores.flatMap fun c => c.2.ctxs.flatMap fun x => x.2.calls.filterMap fun e =>
    if e.2.st = 1 then some ((c.1, x.1, e.1), e.2) else none

/-- The call that starts next: the first issued. -/
def nextCall (s : State) : Option ((Nat × Nat × Nat) × TarnCall) :=
  (issuedCalls s).foldl (fun o c => match o with
    | none => some c
    | some b => if c.2.order < b.2.order then some c else some b) none

/-- A call's entry, and its update. -/
def getCall (s : State) (p : Nat × Nat × Nat) : TarnCall := tget {} (getSlc s p.1 p.2.1).calls p.2.2
def modCall (s : State) (p : Nat × Nat × Nat) (f : TarnCall → TarnCall) : State :=
  modSlc s p.1 p.2.1 fun x => { x with calls := tput {} x.calls p.2.2 (f (tget {} x.calls p.2.2)) }

/-- The child-fault record of a call (R264): class 3, with no kernel and no predecessor. -/
def callRecord (s : State) (p : Nat × Nat × Nat) (t : TarnCall) : List Byte :=
  packFields [(4, slToken p.1 p.2.1 p.2.2 t.gen), (2, t.cause), (1, 3), (1, 0), (8, t.word), (8, t.fault), (8, t.cursor.toNat), (4, 0),
    (4, srCtx s (headCtx (getHead s (getSlc s p.1 p.2.1).head))), (4, 0), (4, 0), (1, t.pos), (1, 0), (6, 0), (8, t.detail.toNat)]

/-- A call ends (R465): the entry keeps its verdict and record until it is freed; a faulted one counts for WAIT.mb, posts its
record to the fault queue of its head's context (R266) and an OXBOW event; one whose context has ended is freed with no
event. -/
def endCall (s : State) (p : Nat × Nat × Nat) (st cause fault : Nat) (cursor detail : DWord) : State :=
  let s := { s with tarnRun := none }
  let t := getCall s p
  if t.st = 6 then modCall s p freeCall
  else
    let t := { t with st := st, cause := cause, fault := fault, cursor := cursor, detail := detail, block := [] }
    let s := modCall s p fun _ => t
    let s := if st = 4 then
        let x := getSlc s p.1 p.2.1
        let s := postRecord s (headCtx (getHead s x.head)) (callRecord s p t)
        sliceEvent (putSlc s p.1 p.2.1 { x with faultedCalls := x.faultedCalls + 1 }) x.head 7 x.slice (slToken p.1 p.2.1 p.2.2 t.gen)
      else s
    slWake s p.1 p.2.1

/-- A call ends faulted before its first k-block. -/
def failCall (s : State) (p : Nat × Nat × Nat) (cause fault : Nat) : State := endCall s p 4 cause fault 0 0

/-- The causes of a child's faults (R265) that this unit raises. -/
def callUnmapped : Nat := 0x120
def callFormat : Nat := 5

/-- The page-fault report of a call (R376, R440): its token, and the word and slot that created it. -/
def callReport (s : State) (p : Nat × Nat × Nat) (c va level access : Nat) : State :=
  let t := getCall s p
  pageReport s c { token := slToken p.1 p.2.1 p.2.2 t.gen, source := 3, access := access, va := va, baddr := t.word, slot := t.pos, level := level }

/-- A read for a call fails: a translation fault is reported with SOURCE 3; the call ends faulted, or waits (none). -/
def callRead (s : State) (p : Nat × Nat × Nat) (c va n : Nat) : State × Option (List Byte) :=
  if va + n > 2 ^ 57 then (failCall s p 4 va, none)
  else match readVirt s tarnUnit c va n with
    | (s, .ok b) => (s, some b)
    | (s, .error (0, _, _)) => (s, none)
    | (s, .error (1, level, at_)) =>
      (failCall (callReport s p c at_ level 1) p callUnmapped at_, none)
    | (s, .error (_, _, at_)) => (failCall s p 2 at_, none)

/-- A format fault of a routine on Tarn's Oxbow (R440). -/
def tarnRoutineBad (d : List DWord) : Bool :=
  let r := routineOf d
  routineBad d || r.fa != r.fb || !(r.fa == 3 || r.fa == 4) || decide (r.m > 64) || decide (r.n > 64)
  || decide (r.acc0 + blockTiles r > 16) || r.scale != 0 || r.sparse != 0 || r.sr || fld (dwAt d 0) 27 20 != 0
  || (r.chk && (decide (r.m ≥ 64) || decide (r.n ≥ 64))) || r.asp || r.bsp || r.dsp

/-- Reads the tensors that a routine uses, one after another; none once the call has ended or must wait. -/
def callTensors (s : State) (p : Nat × Nat × Nat) (c : Nat) : List (Nat × Bool × Nat) → State × Option (List DWord)
  | [] => (s, some [])
  | (t, used, fmt) :: rest =>
    let x := getCtx s c
    let first : State × Option (List DWord) :=
      if !used then (s, some (List.replicate 8 0))
      else if t ≥ x.ttcount then (failCall s p callFormat 0, none)
      else match callRead s p c (x.ttbase + 64 * t) 64 with
        | (s, none) => (s, none)
        | (s, some b) =>
          let d := bytesDw b
          if tensorBad d || (tensorOf d).fmt ≠ fmt then (failCall s p callFormat 0, none) else (s, some d)
    match first with
    | (s, none) => (s, none)
    | (s, some d) =>
      match callTensors s p c rest with
      | (s, none) => (s, none)
      | (s, some l) => (s, some (d ++ l))

/-- The call that Tarn's Oxbow runs: a descriptor, x0..x3 and seven tensors. -/
def callJob (c : Nat) (blk : List DWord) : MxJob :=
  { tarn := true, core := 0, ctx := c, tu := tarnUnit, who := .tarn, set := none, key := 0, r := routineOf (blk.take 8)
    tens := (List.range 7).map fun i => (blk.drop (12 + 8 * i)).take 8, x := (blk.drop 8).take 4 ++ [0], latch := 0, rm := 0 }

/-- TARN_CALL_START: the Oxbow, idle, reads the block of the call issued first and its tensors. -/
def callStart (s : State) : State :=
  match s.tarnRun, nextCall s with
  | none, some (p, t) =>
    let c := headCtx (getHead s (getSlc s p.1 p.2.1).head)
    match callRead s p c t.addr 128 with
    | (s, none) => s
    | (s, some b) =>
      let d := bytesDw b
      if tarnRoutineBad (d.take 8) || (d.drop 12).any (· != 0) then failCall s p callFormat 0
      else match callTensors s p c (mxTensors (d.take 8)) with
        | (s, none) => s
        | (s, some tens) =>
          let blk := d.take 12 ++ tens
          let j := callJob c blk
          if jobBad j then failCall s p callFormat 0
          else if j.r.win && (decide ((outExtents j.r (j.tensor 0)).1 ≤ 0) || decide ((outExtents j.r (j.tensor 0)).2 ≤ 0)) then endCall s p 3 0 0 0 0
          else modCall { s with tarnRun := some p } p fun t => { t with st := 2, block := blk, cursor := 0 }
  | _, _ => s

/-- A cursor: block ordinal and next k (R308). -/
def mxCursor (o k : Nat) : DWord := BitVec.ofNat 64 (o * 2 ^ 32 + k)

/-- The array of a running call, or its store, reports an uncorrectable soft error (11), or in checksum mode a sum that differs
(12), in the k-block at hand (R265, R306, R309, R440). -/
def callError (s : State) (cause : Nat) : State :=
  match s.tarnRun with
  | none => s
  | some p =>
    let t := getCall s p
    if cause = 11 ∨ (cause = 12 ∧ (routineOf (t.block.take 8)).chk = true) then endCall s p 4 cause 0 t.cursor 0 else s

/-- TARN_CALL_COMPLETE: the running call takes its next k-block and ends after its last (R465); one that is to be cancelled ends
at the boundary before that k-block, with what its earlier ones have left. -/
def callComplete (s : State) : State :=
  match s.tarnRun with
  | none => s
  | some p =>
    let t := getCall s p
    let o := t.cursor.toNat / 2 ^ 32
    let k := t.cursor.toNat % 2 ^ 32
    if t.st = 6 then endCall s p 5 8 0 t.cursor 0
    else
      let c := headCtx (getHead s (getSlc s p.1 p.2.1).head)
      let j := callJob c t.block
      if blockCount j.r = 0 ∨ termCount j.r = 0 then endCall s p 3 0 0 t.cursor 0
      else match mxStep s j o k with
      | (s', .done) => endCall s' p 3 0 0 t.cursor 0
      | (s', .next o k) => modCall s' p fun t => { t with cursor := mxCursor o k }
      | (_, .miss .wait) => s
      | (_, .miss (.ok _)) => s
      | (s', .miss (.page va level access)) => endCall (callReport s' p c va level access) p 4 callUnmapped va t.cursor 0
      | (s', .miss (.fault cause va)) => endCall s' p 4 cause va t.cursor 0
      | (s', .spoiled o k cause va) => endCall s' p 4 cause va (mxCursor o k) 0

/-! ## In the background (R449, R457, R462) -/

/-- FETCH_COMPLETE: a context's oldest FETCH writes its bytes. -/
def fetchDone (s : State) (core k : Nat) : State :=
  let x := getSlc s core k
  match x.fetches with
  | [] => s
  | f :: rest =>
    slWake (putSlc { s with lineStore := mwrite s.lineStore (lsKey core k f.off) f.data } core k { x with fetches := rest }) core k

/-- OUTPUT_FIFO_DRAIN: a context's pixels reach the scanout buffer in push order. -/
def fifoDrain (s : State) (core k : Nat) : State :=
  let x := getSlc s core k
  if x.fifo.isEmpty then s
  else slWake (modSlice (putSlc s core k { x with fifo := [] }) x.head x.slice fun q => { q with pixels := q.pixels ++ x.fifo }) core k

/-- SAMP_TEXEL_ARRIVAL: the core goes on. -/
def texelsArrive (s : State) (core : Nat) : State := modSl s core fun c => { c with sampHeld := false }

/-! ## Debug (R466, R467) -/

/-- The state that a code of the record asks for; other codes leave it. -/
def slEditState (x : SlContext) : Nat → SlSt
  | 0 => .free
  | 1 => .ready
  | 2 => .current
  | 3 => .waiting
  | _ => x.st

/-- The registers of the record: file and number by their place. -/
def slEditRegs (b : List Byte) : Tbl Word :=
  (List.range 176).foldl (fun t i => tput 0 t i (BitVec.ofNat 32 (leNat ((b.drop (0x40 + 4 * i)).take 4)))) []

/-- The results in flight of the record; those of no register are ignored. -/
def slEditFlight (b : List Byte) : List SlResult :=
  (List.range (min 64 (leNat ((b.drop 0x300).take 4)))).filterMap fun i =>
    let e := (b.drop (0x400 + 16 * i)).take 16
    let at_ (j : Nat) : Nat := leNat ((e.drop j).take 1)
    if at_ 0 ≤ 5 ∧ at_ 1 < (if at_ 0 = 5 then 16 else 32) then
      some ⟨at_ 0, at_ 1, at_ 2, at_ 3, BitVec.ofNat 32 (leNat ((e.drop 4).take 4))⟩
    else none

/-- A context takes its record back: STATE, the registers, PC and the results in flight. A context edited to free has its
slice fall back. -/
def slReload (s : State) (core k : Nat) : State :=
  let x := getSlc s core k
  let a := (getSl s core).dump + 0x1000 * k
  if !x.dumped || !inGddr a 0x1000 then s
  else
    let b := readHome s a 0x800
    let st := slEditState x (leNat (b.take 1))
    if st = .free then slEnd (modSlice s x.head x.slice fun q => { q with st := .fallback }) core k
    else
      let st := if st = .current ∧ (slCurrent s core).any (· < k) then .ready else st
      putSlc s core k { x with
        st := st, waitMode := if st = .waiting then x.waitMode else 0
        regs := slEditRegs b, pc := leNat ((b.drop 8).take 8), inflight := slEditFlight b, dumped := false }

/-- The contexts read back and the core goes on. -/
def slResume (s : State) (core dump : Nat) (stepping : Bool) : State :=
  let s := modSl s core fun c => { c with dump := dump, err := 0 }
  let s := (List.range 4).foldl (fun s k => slReload s core k) s
  let s := modSl s core fun c => { c with stopped := false, stepping := stepping }
  let s := (List.range 4).foldl (fun s k => slWake s core k) s
  slTake (slSwitch s core) core

/-- STOP, RUN and STEP, with the value written to SLCMD. -/
def slcoreStop (s : State) (core : Nat) (v : DWord) : State :=
  if (getSl s core).stopped then modSl s core fun c => { c with err := 2 }
  else slAskFreeze (modSl s core fun c => { c with err := 0, dump := fld v.toNat 51 12 * 4096 }) core
def slcoreRun (s : State) (core : Nat) (v : DWord) : State :=
  if !(getSl s core).stopped then modSl s core fun c => { c with err := 2 }
  else slResume s core (fld v.toNat 51 12 * 4096) false
def slcoreStep (s : State) (core : Nat) (v : DWord) : State :=
  if !(getSl s core).stopped then modSl s core fun c => { c with err := 2 }
  else slResume s core (fld v.toNat 51 12 * 4096) true

/-- Whether a core is to freeze: after a hold that has ended, or before the word of its breakpoint. -/
def slAtBreak (s : State) (core : Nat) : Bool :=
  let c := getSl s core
  !c.stopped && !slHeld s core && (c.freezing || match slCurrent s core with
    | some k => slBreaks c (c.ctx k).pc
    | none => false)

/-- SL_BREAKPOINT: the core freezes. -/
def slBreak (s : State) (core : Nat) : State := if slAtBreak s core then slFreeze s core else s

end Sys2Proof.Machine
end

