-- ==== Sys2Proof/Machine/Tarn.lean ====
section
/-! DEFINITION. Tarn's heads: their commands and states, publications and poses, the schedule of slices, the fallback, the
history and the output (spec/19_presentation.md R422-R439; spec/18_link.md R420, R421). -/

namespace Sys2Proof.Machine

/-! ## START and STOP (R428, R429) -/

/-- A format fault of a head descriptor (R427, R428). -/
def headBad (h : Head) : Bool :=
  let w (i : Nat) : Nat := dwAt h.desc i
  fld (w 0) 63 56 != 1 || fld (w 0) 43 40 != 0 || fld (w 0) 17 11 != 0 || fld (w 2) 31 0 != 0 || fld (w 4) 51 32 != 0
  || fld (w 6) 63 57 != 0 || fld (w 6) 3 0 != 0 || fld (w 7) 31 0 != 0 || (List.range 8).any (fun j => w (8 + j) != 0)
  || decide (h.out > 1) || decide (h.enc > 1) || decide (h.lead < 16) || decide (h.lead > 1024)
  || decide (h.hact < 1) || decide (h.hact > 7680) || decide (h.vact < 16) || decide (h.vact > 4320) || h.vact % 16 != 0
  || decide (h.ways > 8) || decide (h.bpp < 96) || decide (h.bpp > 384) || h.pclk == 0
  || decide (h.htotal < h.hact) || decide (h.vtotal < h.vact) || decide (h.lead ≥ h.vtotal)
  || decide (16 * h.htotal * 1000000 < h.hact * h.pclk)
  || decide (h.hact * h.vact * h.pclk * 1000 > 3981312000 * h.htotal * h.vtotal)
  || h.dscw == 0 || h.hact % h.dscw != 0 || h.cmask == 0 || (h.out == 0 && h.sres != 0)
  || (h.out == 0 && decide (h.hact * h.vact * h.pclk * 1000 * h.bpp > 77570000000 * 16 * h.htotal * h.vtotal))

/-- Contexts that may own a head (R428). -/
def headCtxOk (st : CtxSt) : Bool :=
  match st with
  | .free => false
  | .destroyed => false
  | _ => true

/-- A head that holds its output and reservations (R438). -/
def headHolds (h : Head) : Bool := headServing h || decide (h.st = .stopping)

/-- Whether two heads drive one output. -/
def sameOutput (a b : Head) : Bool := a.out == b.out && (if a.out = 0 then a.dport == b.dport else a.fport == b.fport)

/-- A sum of fractions of positive denominators. -/
def sumFrac (l : List (Nat × Nat)) : Nat × Nat := l.foldl (fun a x => (a.1 * x.2 + x.1 * a.2, a.2 * x.2)) (0, 1)

/-- Whether reservations in bytes per second exceed 1.0 TB/s on a die. -/
def overDie (l : List Head) (d : Nat) : Bool :=
  let q := sumFrac ((l.filter fun h => bitOf h.dies d).map fun h => (h.res * h.pclk * 1000, h.htotal))
  decide (q.1 > 10 ^ 12 * q.2)

/-- The other heads of the module. -/
def otherHeads (s : State) (hd : Nat) : List Head := (s.heads.filter fun e => e.1 != hd).map (·.2)

/-- What START answers: 0, or the ERR of R426; of several that hold, the first in the order FORMAT, BADCTX, NOBW, NOLINK
(DESIGN CHOICE: R428 orders none; notes/assumptions/18.md). -/
def startErr (s : State) (hd : Nat) (h : Head) : Nat :=
  if headBad h then 3
  else if !headCtxOk (getCtx s (headCtx h)).st then 5
  else if (otherHeads s hd).any (fun o => headHolds o && sameOutput o h) then 4
  else if (List.range 8).any (fun d => bitOf h.dies d && overDie (h :: (otherHeads s hd).filter headServing) d) then 4
  else if h.out == 1 && decide ((getLink s (16 + h.fport)).st ≠ .up) then 7
  else 0

/-- START with the value written to HCMD. -/
def headStart (s : State) (hd : Nat) (v : DWord) : State :=
  let h := getHead s hd
  let at_ := fld v.toNat 51 7 * 128
  if h.st ≠ .idle ∧ h.st ≠ .error then putHead s hd { h with err := 2 }
  else if !inGddr at_ 128 then putHead s hd { h with err := 3 }
  else
    let n : Head := { evq := h.evq, evhead := h.evhead, evtail := h.evtail, evlost := h.evlost, staged := h.staged
                      shipped := h.shipped, st := .starting, desc := bytesDw (readHome s at_ 128) }
    match startErr s hd n with
    | 0 => putHead s hd n
    | e => putHead s hd { h with err := e }

/-! ## Frames (R424, R425) -/

/-- The number of the scan-out frame begun last, modulo 2^32; 0 before any. -/
def frameNow (h : Head) : Nat := if h.nextLatch = 0 then 0 else (h.frame - 1).toNat

/-- Retires a frame: its event. -/
def retire (s : State) (hd frame : Nat) (f : Frame) : State := headEvent s hd 5 0 (frame % 2 ^ 32) 0 f.frameid.toNat

/-- Frames that no slice still holds leave the list of those superseded. -/
def retireDone (s : State) (hd frame : Nat) : State :=
  let h := getHead s hd
  let busy (f : Frame) : Bool := h.slices.any fun e => decide (e.2.frame = some f)
  let gone := h.retiringFrames.filter fun f => !busy f
  gone.foldl (fun s f => retire s hd frame f) (putHead s hd { h with retiringFrames := h.retiringFrames.filter busy })

/-- The reads of a frame descriptor's tensors: none for a tensor number that does not exist. -/
def frameTensor (s : State) (c t : Nat) : State × Except (Option Nat) (Option (List DWord)) :=
  if t ≥ (getCtx s c).ttcount then (s, .ok none)
  else match tarnTensor s c t with
    | (s, .ok d) => (s, .ok (some d))
    | (s, .error e) => (s, .error e)

/-- The tensors of a frame descriptor, one after another. -/
def frameTensors (s : State) (c : Nat) : List Nat → State × Except (Option Nat) (List (Option (List DWord)))
  | [] => (s, .ok [])
  | t :: rest =>
    match frameTensor s c t with
    | (s, .error e) => (s, .error e)
    | (s, .ok d) =>
      match frameTensors s c rest with
      | (s, .error e) => (s, .error e)
      | (s, .ok l) => (s, .ok (d :: l))

/-- The frame that a descriptor and its three tensors describe (R423). -/
def frameOk (id : Nat) (d : List DWord) (ts : List (Option (List DWord))) : Option Frame :=
  match ts with
  | [some c, some z, some m] =>
    let e (t : List DWord) (k : Nat) : Nat := (tensorOf t).ext.getD k 0
    if planeOk c 3 4 && planeOk z 2 1 && planeOk m 3 2
        && e c 1 == e z 1 && e c 1 == e m 1 && e c 2 == e z 2 && e c 2 == e m 2 then
      some { id := id, tc := fld (dwAt d 0) 47 32, tz := fld (dwAt d 0) 31 16, tmv := fld (dwAt d 0) 15 0, ext1 := e c 1, ext2 := e c 2
             frameid := BitVec.ofNat 32 (dwAt d 1), pose := d.drop 8 }
    else none
  | _ => none

/-- A version or reserved bit of a frame descriptor is wrong, those of its pose (R431) among them. -/
def frameDescBad (d : List DWord) : Bool :=
  fld (dwAt d 0) 63 56 != 1 || fld (dwAt d 0) 55 48 != 0 || fld (dwAt d 1) 63 32 != 0 || ((d.take 8).drop 2).any (· != 0) ||
    fld (dwAt d 13) 63 32 != 0 || dwAt d 14 != 0

/-- PUBLICATION_TAKE: the oldest publication on its way is taken, which acquires it (R251), and makes a pending frame or is
rejected; a head that has left starting and active discards it. -/
def takePublication (s : State) (hd : Nat) : State :=
  let h := getHead s hd
  match h.pubIn with
  | [] => s
  | (c, va) :: rest =>
    if !headTakes h c then putHead s hd { h with pubIn := rest }
    else
      let taken := acquireBy .tarn 4 (putHead s hd { h with pubIn := rest, pub := h.pub + 1 })
      let reject (s : State) (typ detail : Nat) : State := headEvent s hd typ 0 (frameNow (getHead s hd)) detail 0
      match tarnRead taken c va 128 with
        | (_, .error none) => s
        | (s', .error (some at_)) => reject s' 3 (at_ % 2 ^ 57)
        | (s', .ok b) =>
          let d := bytesDw b
          if frameDescBad d then reject s' 4 0
          else match frameTensors s' c [fld (dwAt d 0) 47 32, fld (dwAt d 0) 31 16, fld (dwAt d 0) 15 0] with
            | (_, .error none) => s
            | (s', .error (some at_)) => reject s' 3 (at_ % 2 ^ 57)
            | (s', .ok ts) =>
              let h' := getHead s' hd
              match frameOk h'.pub.toNat d ts with
              | none => reject s' 4 0
              | some f =>
                let s' := putHead s' hd { h' with pendingFrame := some f }
                match h'.pendingFrame with
                | some old => retire s' hd (frameNow h') old
                | none => s'

/-! ## Leaving active (R429) -/

/-- The scanline contexts of a head end. -/
def endContexts (s : State) (hd : Nat) : State :=
  (s.slcores.flatMap fun c => c.2.ctxs.filterMap fun x => if x.2.head = hd ∧ x.2.st ≠ .free then some (c.1, x.1) else none).foldl
    (fun s p => slEnd s p.1 p.2) s

/-- Every frame that a head holds. -/
def framesHeld (h : Head) : List Frame := h.retiringFrames ++ h.inUse.toList ++ h.pendingFrame.toList

/-- What a head keeps when it stops serving: its registers and what it sent, nothing under way. -/
def blankHead (h : Head) (st : HeadSt) : Head :=
  { h with st := st, pubIn := [], poseIn := [], pendingFrame := none, inUse := none, retiringFrames := [], slices := [], outPoses := []
           written := [], beam := 0 }

/-- A head goes idle: RETIRE for every frame, then STOPPED. -/
def headIdle (s : State) (hd : Nat) : State :=
  let h := getHead s hd
  let s := endContexts (putHead s hd (blankHead h .idle)) hd
  headEvent ((framesHeld h).foldl (fun s f => retire s hd (frameNow h) f) s) hd 6 0 (frameNow h) 0 0

/-- A head enters error: STOPPED, then its frames are retired. -/
def headError (s : State) (hd : Nat) : State :=
  let h := getHead s hd
  let s := endContexts (putHead s hd (blankHead h .error)) hd
  (framesHeld h).foldl (fun s f => retire s hd (frameNow h) f) (headEvent s hd 6 0 (frameNow h) 0 0)

/-- No further scan-out frame begins (R429): the slices latched for a frame that has not begun are given up. -/
def dropUnbegun (s : State) (hd : Nat) : State :=
  let h := getHead s hd
  let n := h.begunAt h.beam * h.slicesPer
  let ends := h.slices.filterMap fun e => match e.2.st with
    | .running core k => if n ≤ e.1 then some (core, k) else none
    | _ => none
  ends.foldl (fun s p => slEnd s p.1 p.2) (putHead s hd { h with
    slices := h.slices.filter fun e => decide (e.1 < n)
    nextLatch := min h.nextLatch n, nextStart := min h.nextStart n, nextDeadline := min h.nextDeadline n })

/-- Whether the next slice may latch: a stopping head latches those of its last scan-out frame alone. -/
def mayLatch (h : Head) : Bool :=
  decide (h.st = .active) || (decide (h.st = .stopping) && h.nextLatch % h.slicesPer != 0)

/-- A stopping head whose last slice has been output is idle. -/
def stopCheck (s : State) (hd : Nat) : State :=
  let h := getHead s hd
  if decide (h.st = .stopping) && !mayLatch h && h.nextOutput == h.nextLatch then headIdle s hd else s

/-- STOP. -/
def headStop (s : State) (hd : Nat) : State :=
  let h := getHead s hd
  match h.st with
  | .active => stopCheck (dropUnbegun (putHead s hd { h with st := .stopping, err := 0 }) hd) hd
  | .error => putHead s hd { h with st := .idle, err := 0 }
  | _ => putHead s hd { h with err := 2 }

/-- The owning context is destroyed (R429): the output is blanked and the head is idle. -/
def headDestroy (s : State) (hd : Nat) : State :=
  if headHolds (getHead s hd) then modHead (headIdle s hd) hd fun h => { h with sentSlice := [] } else s

/-- Every head that a context owns. -/
def destroyHeads (s : State) (c : Nat) : State :=
  (s.heads.filterMap fun e => if headCtx e.2 = c then some e.1 else none).foldl headDestroy s

/-- The time on the clock that all heads share: that of the beam that has come furthest, in whole fs. -/
def headClock (s : State) : Nat :=
  (s.heads.map fun e => if e.2.st = .active ∨ e.2.st = .stopping then (e.2.beamTime e.2.beam).1 / e.2.pclk else 0).foldl max 0

/-- HEAD_OUTPUT_TRAINED: an idle frame begins, in which frame 0 does; a stream's port must be up. -/
def outputTrained (s : State) (hd : Nat) : State :=
  let h := getHead s hd
  if decide (h.st = .starting) && (h.out == 0 || decide ((getLink s (16 + h.fport)).st = .up)) then
    putHead s hd { h with st := .active, since := headClock s }
  else s

/-- HEAD_OUTPUT_TRAIN_FAIL: STOPPED and no other event (R429). -/
def outputFailed (s : State) (hd : Nat) : State :=
  let h := getHead s hd
  if h.st = .starting then headEvent (putHead s hd (blankHead h .error)) hd 6 0 (frameNow h) 0 0 else s

/-- HEAD_OUTPUT_LOST. -/
def outputLost (s : State) (hd : Nat) : State := if headHolds (getHead s hd) then headError s hd else s

/-! ## Poses (R432) -/

/-- POSE_COMMIT: the staged pose is on its way to the mailbox. -/
def poseCommitWrite (s : State) (hd : Nat) (v : DWord) : State :=
  if v.getLsbD 0 then modHead s hd fun h => { h with poseIn := h.poseIn ++ [(List.range 8).map fun j => tget 0 h.staged j] } else s

/-- MAILBOX_WRITE: a pose fills the mailbox's next entry; a head neither starting nor active discards it. -/
def mailboxWrite (s : State) (hd : Nat) : State :=
  let h := getHead s hd
  match h.poseIn with
  | [] => s
  | p :: rest =>
    if headServing h then putHead s hd { h with poseIn := rest, mailbox := (p :: h.mailbox).take 8, fresh := true }
    else putHead s hd { h with poseIn := rest }

/-! ## The schedule (R433, R434) -/

/-- The lines of a head's next latch, start, deadline and output; none for one that cannot come next. -/
def headLines (h : Head) : List (Option Nat) :=
  [if mayLatch h then some (h.latchAt h.nextLatch) else none,
   if h.nextStart < h.nextLatch then some (h.startAt h.nextStart) else none,
   if h.nextDeadline < h.nextStart then some (h.deadlineAt h.nextDeadline) else none,
   if h.nextOutput < h.nextDeadline then some (h.leaveAt h.nextOutput) else none]

/-- Whether a head is scanning out. -/
def scanning (h : Head) : Bool := decide (h.st = .active) || decide (h.st = .stopping)

/-- The line of one of the four events, if the beam reaches it before the others. -/
def headDue (h : Head) (j : Nat) : Option Nat :=
  if !scanning h then none
  else match (headLines h).getD j none with
    | none => none
    | some l => if (headLines h).all (fun o => match o with
        | some m => decide (l ≤ m)
        | none => true) then some l else none

/-- The beam goes on to its next line, if no event stands before that. -/
def beamOn (s : State) (hd : Nat) : State :=
  let h := getHead s hd
  if scanning h && ((headLines h).all fun o => match o with
      | some m => decide (h.beam < m)
      | none => true) then putHead s hd (h.beamTo (h.beam + 1)) else s

/-- POSE_LATCH (R425, R433): slice 0 adopts the pending frame; the latch acquires at .m. -/
def poseLatch (s : State) (hd : Nat) : State :=
  let h := getHead s hd
  match headDue h 0 with
  | none => s
  | some line =>
    let i := h.nextLatch
    let adopts := h.sliceOf i == 0 && h.pendingFrame.isSome
    let h : Head := if adopts then { h with
        inUse := h.pendingFrame, pendingFrame := none, retiringFrames := h.retiringFrames ++ h.inUse.toList } else h
    let free := (List.range 8).map fun j => Config.unposed (8 * s.freeCtr + j)
    let (pose, s) : List DWord × State :=
      match h.fresh, h.mailbox, h.inUse with
      | true, p :: _, _ => (p, s)
      | false, _ :: _, _ => (h.lastPose, s)
      | _, [], some f => (f.pose, s)
      | _, [], none => (free, (drawFree s).2)
    let s := acquireBy .tarn 4 <| putHead s hd { h.beamTo line with
      nextLatch := i + 1, fresh := false, lastPose := pose
      slices := h.slices ++ [(i, { frame := h.inUse, pose := pose })], outPoses := tput [] h.outPoses i pose }
    if adopts then retireDone s hd (h.frameOf i - 1) else s

/-- SLICE_START: a slice with a frame in use waits for a context of its core, and takes a free one. -/
def sliceStart (s : State) (hd : Nat) : State :=
  let h := getHead s hd
  match headDue h 1 with
  | none => s
  | some line =>
    let i := h.nextStart
    let s := putHead s hd { h.beamTo line with nextStart := i + 1 }
    match h.slice i with
    | some { frame := some _, .. } => slTake (modSlice s hd i fun q => { q with st := .started }) (sliceCore h i)
    | _ => modSlice s hd i fun q => { q with st := .fallback }

/-! ## The fallback (R435) -/

/-- Matrices in binary64, by rows: each product and sum rounded once, sums left to right. -/
def dotD (a b : List FVal) : FVal :=
  match a.zip b with
  | [] => .fin false 0 0
  | x :: t => t.foldl (fun acc e => dA acc (dM e.1 e.2)) (dM x.1 x.2)
def colD (m : List (List FVal)) (j : Nat) : List FVal := m.map fun r => r.getD j (.fin false 0 0)
def mulD (a b : List (List FVal)) : List (List FVal) := a.map fun r => (List.range 3).map fun j => dotD r (colD b j)
def transposeD (m : List (List FVal)) : List (List FVal) := (List.range 3).map (colD m)

/-- An integer, and a word of a pose, in binary64. -/
def natD (n : Nat) : FVal := .fin false n 0
def poseF (p : List DWord) (off : Nat) : FVal := decodeF binary32 (dwAt p (off / 8) / 2 ^ (8 * (off % 8)) % 2 ^ 32)

/-- The rotation of a pose's quaternion. -/
def rotD (p : List DWord) : List (List FVal) :=
  let x := poseF p 0x0C
  let y := poseF p 0x10
  let z := poseF p 0x14
  let w := poseF p 0x18
  let one (a b : FVal) : FVal := dS (natD 1) (dM (natD 2) (dA a b))
  let two (a b : FVal) (sub : Bool) : FVal := dM (natD 2) (if sub then dS a b else dA a b)
  [ [one (dM y y) (dM z z), two (dM x y) (dM z w) true, two (dM x z) (dM y w) false],
    [two (dM x y) (dM z w) false, one (dM x x) (dM z z), two (dM y z) (dM x w) true],
    [two (dM x z) (dM y w) true, two (dM y z) (dM x w) false, one (dM x x) (dM y y)] ]

/-- The camera matrix of a pose and its inverse. -/
def camD (p : List DWord) : List (List FVal) :=
  [[poseF p 0x1C, natD 0, poseF p 0x24], [natD 0, poseF p 0x20, poseF p 0x28], [natD 0, natD 0, natD 1]]
def camInvD (p : List DWord) : List (List FVal) :=
  [ [dD (natD 1) (poseF p 0x1C), natD 0, fneg (dD (poseF p 0x24) (poseF p 0x1C))],
    [natD 0, dD (natD 1) (poseF p 0x20), fneg (dD (poseF p 0x28) (poseF p 0x20))], [natD 0, natD 0, natD 1] ]

/-- M, from the previous output pose to the latched one. -/
def warpD (ph pl : List DWord) : List (List FVal) := mulD (camD ph) (mulD (transposeD (rotD ph)) (mulD (rotD pl) (camInvD pl)))

/-- A place half a pixel in. -/
def halfIn (x : Nat) : FVal := .fin false (2 * x + 1) (-1)

/-- The point of the history that a pixel takes; none for black. -/
def warpPoint (m : List (List FVal)) (x y : Nat) : Option (FVal × FVal) :=
  let v := m.map fun r => dotD r [halfIn x, halfIn y, natD 1]
  let w := v.getD 2 (natD 0)
  if !fcmpCond 4 w (natD 0) then none
  else
    let half : FVal := .fin false 1 (-1)
    let xs := dS (dD (v.getD 0 (natD 0)) w) half
    let ys := dS (dD (v.getD 1 (natD 0)) w) half
    if isNaN xs || isNaN ys then none else some (xs, ys)

/-- The taps of a pixel: a tap whose row was never written is (0, 0, 0, 1), as is one whose read faults; the first address
that faulted is kept. -/
def fallbackTaps (c : Nat) (t : Tensor) (seen : Nat → Bool) (st : State × Option Nat × List (List Nat)) (p : Nat × Nat) :
    State × Option Nat × List (List Nat) :=
  let (s, bad, l) := st
  match readTexels s c t [if seen p.2 then some p else none] with
  | (s, .ok px) => (s, bad, l ++ px)
  | (s, .error e) => (s, bad.orElse (fun _ => some (e.getD 0)), l ++ [blackTexel])

/-- A pixel of the fallback. -/
def fallbackPixel (c : Nat) (t : Option Tensor) (seen : Nat → Bool) (m : List (List FVal)) (hact vact : Nat) (st : State × Option Nat × List Pixel)
    (xy : Nat × Nat) : State × Option Nat × List Pixel :=
  let (s, bad, out) := st
  let px (l : List Nat) : Pixel := ⟨BitVec.ofNat 16 (l.getD 0 0), BitVec.ofNat 16 (l.getD 1 0), BitVec.ofNat 16 (l.getD 2 0), BitVec.ofNat 16 (l.getD 3 0)⟩
  match warpPoint m xy.1 xy.2 with
  | none => (s, bad, out ++ [px blackTexel])
  | some (xs, ys) =>
    let x := coordSplit xs
    let y := coordSplit ys
    let taps := tapsOf x y hact vact
    let (s, bad, l) := match t with
      | some t => taps.foldl (fallbackTaps c t seen) (s, bad, [])
      | none => (s, bad, taps.map fun _ => blackTexel)
    (s, bad, out ++ [px (blend binary16 (tapWeights x.2 y.2) l 4)])

/-- The pixels of a slice's lines, in push order. -/
def slicePlaces (h : Head) (i : Nat) : List (Nat × Nat) :=
  (List.range 16).flatMap fun y => (List.range h.hact).map fun x => (x, 16 * h.sliceOf i + y)

/-- The history tensor that a frame reads, if any of it has been written and it can be used; with the address of a fault. -/
def fallbackHistory (s : State) (hd i : Nat) : State × Option Tensor × Option Nat :=
  let h := getHead s hd
  let c := headCtx h
  let k := h.frameOf i
  let t := h.hist (k + 1)
  if !((List.range h.slicesPer).any fun j => historyRow h k (16 * j)) || decide (t ≥ (getCtx s c).ttcount) then (s, none, none)
  else match tarnTensor s c t with
    | (s, .error e) => (s, none, some (e.getD 0))
    | (s, .ok d) => (s, if historyOk h d then some (tensorOf d) else none, none)

/-- The fallback produces a slice. -/
def fallback (s : State) (hd i : Nat) (pose : List DWord) : State :=
  let h := getHead s hd
  let ph := if i ≥ h.slicesPer then tget [] h.outPoses (i - h.slicesPer) else pose
  let (s, t, bad) := fallbackHistory s hd i
  let m := warpD ph pose
  let (s, bad, px) := (slicePlaces h i).foldl (fallbackPixel (headCtx h) t (historyRow h (h.frameOf i)) m h.hact h.vact) (s, bad, [])
  let s := modSlice s hd i fun q => { q with st := .complete, pixels := px }
  match bad with
  | some va => sliceEvent s hd 3 i (va % 2 ^ 57)
  | none => s

/-- Tarn's buffer starts no new translation for a head's context (R373), so an event that may need one is made later. -/
def tarnHeld (s : State) (h : Head) : Bool := unitHeld s tarnUnit (getCtx s (headCtx h)).asn

/-- SLICE_DEADLINE (R422, R434): a slice that its program has not completed ends its context and falls back; MISS counts it. -/
def sliceDeadline (s : State) (hd : Nat) : State :=
  let h := getHead s hd
  match headDue h 2 with
  | none => s
  | some line =>
    let i := h.nextDeadline
    if tarnHeld s h then s else
    let s := putHead s hd { h.beamTo line with nextDeadline := i + 1 }
    match h.slice i with
    | none => s
    | some q =>
      if q.st = .complete then s
      else
        let s := modSlice s hd i fun q => { q with st := .fallback, pixels := [] }
        let s := match q.st with
          | .running core k => slEnd s core k
          | _ => s
        let s := fallback s hd i q.pose
        sliceEvent (modHead s hd fun h => { h with miss := h.miss + 1 }) hd 1 i (dwAt q.pose 7)

/-! ## Output (R436, R437) -/

/-- UNORM10 (R427). -/
def encode10 (v : FVal) : Nat :=
  match clamp01 (elemOfF v) with
  | none => 0
  | some (x, _) => (roundInt 0 { x with num := x.num * 1023 }).1.toNat

/-- A component under ENC. -/
def encodeOut (enc : Nat) (x : Half) : Nat :=
  let v := decodeF binary16 x.toNat
  if enc = 0 then (encodeSrgb 0 (elemOfF v)).1 else encode10 v

/-- The bytes of a slice's row of DSC slices. -/
def dscBytes (h : Head) : Nat := h.hact / h.dscw * (16 * ((h.dscw * h.bpp + 127) / 128))

/-- The payload of a stream flit (R420). -/
def streamPayload (hd : Nat) (last : Bool) (frame slice off : Nat) (d : List Byte) : List Byte :=
  packFields [(1, hd + 128 * b01 last), (3, 0), (4, frame % 2 ^ 32), (2, slice), (2, 0), (4, off)] ++ d

/-- A stream slice is noted as sent: frame, slice, SEQ of its output pose, FRAMEID of its frame. -/
def noteShipped (s : State) (hd i : Nat) (q : Slice) : State :=
  modHead s hd fun h => { h with shipped := (h.frameOf i % 2 ^ 32, h.sliceOf i, dwAt q.pose 7, match q.frame with
    | some f => f.frameid.toNat
    | none => 0) :: h.shipped }

/-- A slice leaves as stream flits in OFFSET order (R420); the codec's bytes are open (notes/assumptions/3.md). -/
def sendStream (s : State) (hd i : Nat) : State :=
  let h := getHead s hd
  let n := dscBytes h
  let (free, s) := drawFree s
  let cnt := max 1 ((n + 207) / 208)
  (List.range cnt).foldl (fun s j =>
    let d := (List.range (min 208 (n - 208 * j))).map fun b => Config.dscByte free (208 * j + b)
    sendOn s (16 + h.fport) none { seq := 0, ack := 0, typ := 5, vc := 3, dst := h.dst, src := 0, dstCtx := 0, srcCtx := 0
                                   payload := streamPayload hd (j + 1 == cnt) (h.frameOf i) (h.sliceOf i) (208 * j) d }) s

/-- Writes elements of a tensor in order, up to the first fault: the cause (1 a page), level and address. -/
def writeElems (s : State) (c : Nat) (t : Tensor) : List (List Nat × Nat) → State × Option (Nat × Nat × Nat)
  | [] => (s, none)
  | (ix, v) :: rest =>
    let ea := (elemAddress t ix).1
    if ea + 2 > 2 ^ 57 then (s, some (4, 0, ea))
    else match writeVirt s tarnUnit c ea (natLe v 2) with
      | (s, .ok _) => writeElems s c t rest
      | (s, .error e) => (s, some e)

/-- The elements of a slice's pixels in its history tensor. -/
def historyElems (h : Head) (i : Nat) (px : List Pixel) : List (List Nat × Nat) :=
  ((slicePlaces h i).zip px).flatMap fun e =>
    [([0, e.1.1, e.1.2], e.2.r.toNat), ([1, e.1.1, e.1.2], e.2.g.toNat), ([2, e.1.1, e.1.2], e.2.b.toNat), ([3, e.1.1, e.1.2], e.2.a.toNat)]

/-- A fault of a history write (R436): a translation fault is reported, any other posts a FAULT event. -/
def historyFault (s : State) (hd i access : Nat) (e : Nat × Nat × Nat) : State :=
  let c := headCtx (getHead s hd)
  if e.1 = 1 then pageReport s c { source := 6, access := access, va := e.2.2, level := e.2.1 }
  else sliceEvent s hd 3 i (e.2.2 % 2 ^ 57)

/-- A slice's pixels go to the history; the slice is marked written if every write performs. -/
def historyWrite (s : State) (hd i : Nat) (px : List Pixel) : State :=
  let h := getHead s hd
  let c := headCtx h
  let t := h.hist (h.frameOf i)
  let va := descVa s c t
  if t ≥ (getCtx s c).ttcount then sliceEvent s hd 3 i (va % 2 ^ 57)
  else match readVirt s tarnUnit c va 64 with
    | (s, .error e) => historyFault s hd i 1 e
    | (s, .ok b) =>
      if !historyOk h (bytesDw b) then sliceEvent s hd 3 i (va % 2 ^ 57)
      else match writeElems s c (tensorOf (bytesDw b)) (historyElems h i px) with
        | (s, some e) => historyFault s hd i 2 e
        | (s, none) => modHead s hd fun h => { h with written := tput false h.written i true }

/-- SLICE_OUTPUT: the slice is encoded and sent, written to the history and forgotten; frames that it was the last to read are
retired. -/
def sliceOutput (s : State) (hd : Nat) : State :=
  let h := getHead s hd
  match headDue h 3 with
  | none => s
  | some line =>
    let i := h.nextOutput
    match h.slice i with
    | none => putHead s hd { h.beamTo line with nextOutput := i + 1 }
    | some q =>
      if tarnHeld s h then s else
      let codes := q.pixels.flatMap fun p => [encodeOut h.enc p.r, encodeOut h.enc p.g, encodeOut h.enc p.b]
      let s := putHead s hd { h.beamTo line with sentSlice := codes }
      let s := if h.out = 1 then sendStream (noteShipped s hd i q) hd i else s
      let s := historyWrite s hd i q.pixels
      let S := h.slicesPer
      let s := modHead s hd fun h => { h with
        nextOutput := i + 1
        slices := h.slices.filter fun e => e.1 != i
        outPoses := h.outPoses.filter fun e => decide (i < e.1 + S)
        written := h.written.filter fun e => decide ((h.frameOf i - 1) * S ≤ e.1) }
      stopCheck (retireDone s hd (h.frameOf i)) hd

/-! ## Streams and links (R408, R421, R422, R429) -/

/-- A stream slice that a head sent is dropped, whatever the head does now: MISS counts it once and a DROP event is posted. -/
def dropSlice (s : State) (hd frame slice : Nat) : State :=
  let h := getHead s hd
  match h.shipped.find? fun e => e.1 == frame && e.2.1 == slice with
  | none => s
  | some e => headEvent (putHead s hd { h with miss := h.miss + 1, shipped := h.shipped.erase e }) hd 2 slice frame e.2.2.1 e.2.2.2

/-- The slice that a stream payload names. -/
def payloadSlice (p : List Byte) : Nat × Nat × Nat :=
  (leNat (p.take 1) % 16, leNat ((p.drop 4).take 4), leNat ((p.drop 8).take 2))

/-- The slices of this module with a flit unacknowledged on a link, each once. -/
def streamsOn (s : State) (n : Nat) : List (Nat × Nat × Nat) :=
  let l := getLink s n
  ((l.sent.map (·.bytes) ++ l.waiting.map (·.2)).filterMap fun b =>
    let f := flitOf b
    if f.typ = 5 ∧ f.src = s.modid then some (payloadSlice f.payload) else none).eraseDups

/-- What a change of a link does to the heads: slices that lost a flit are dropped, and a stream head whose port has left up
is in error. -/
def afterLink (s s' : State) (n : Nat) : State :=
  let lost := (streamsOn s n).filter fun p => !(streamsOn s' n).contains p
  let down := match (getLink s' n).st with
    | .error => true
    | .down => true
    | .training => true
    | _ => false
  let s' := if down then lost.foldl (fun s p => dropSlice s p.1 p.2.1 p.2.2) s' else s'
  if (getLink s n).st = .up ∧ (getLink s' n).st ≠ .up then
    (s'.heads.filterMap fun e => if e.2.out == 1 && e.2.fport + 16 == n && headHolds e.2 then some e.1 else none).foldl headError s'
  else s'

/-- A control flit that reports a lost slice to its head's module (notes/assumptions/22.md). -/
def afterFlit (s s' : State) (n : Nat) (b : List Byte) : State :=
  let f := flitOf b
  let p := payloadSlice f.payload
  if (getLink s n).rxseq ≠ (getLink s' n).rxseq ∧ f.typ = 1 ∧ f.payload.length = 16 ∧ f.dst = s.modid ∧ ecrcOk b then
    dropSlice s' p.1 p.2.1 p.2.2
  else s'

/-- The receiver drops a slice: its module counts it, or is told. -/
def streamLost (s : State) (f : StreamFlit) (frame slice : Nat) : State :=
  if f.src.toNat = s.modid then dropSlice s f.head frame slice
  else (sendFlit s f.src.toNat 0 1 1 0 none false 0 (streamPayload f.head false frame slice 0 [])).getD s

/-- STREAM_FLIT_RECEIVE (R421). -/
def streamReceive (s : State) (f : StreamFlit) : State :=
  let rx := tget {} s.streams f.head
  let slice := f.slice.toNat
  let again := rx.frame == f.frame && rx.slice == slice && f.off != 0
  let s := if !again && rx.next != 0 && !rx.lost then streamLost s f rx.frame.toNat rx.slice else s
  let rx : StreamRx := if again then rx else { frame := f.frame, slice := slice, shown := rx.shown }
  let ok := f.good && f.off.toNat == rx.next && !rx.lost
  let s := if !ok && !rx.lost then streamLost s f f.frame.toNat slice else s
  let rx : StreamRx := if ok then { rx with next := rx.next + f.data.length, data := rx.data ++ f.data } else { rx with lost := true }
  let rx : StreamRx := if f.last then (if rx.lost then { rx with next := 0, data := [] } else { rx with next := 0, data := [], shown := rx.data }) else rx
  { s with streams := tput {} s.streams f.head rx }

/-! ## Registers that a read clears (R426) -/

def hmissRead (s : State) (hd : Nat) : State :=
  let h := getHead s hd
  { putHead s hd { h with miss := 0 } with hostData := h.miss.setWidth 64 }

def hevtailRead (s : State) (hd : Nat) : State :=
  let h := getHead s hd
  { putHead s hd { h with evlost := 0 } with hostData := BitVec.ofNat 64 (h.evlost.toNat * 2 ^ 32 + h.evtail.toNat) }

end Sys2Proof.Machine
end

