-- ==== Sys2Proof/Machine/Contexts.lean ====
section
/-! DEFINITION. The commands and events of contexts: CREATE, PREEMPT, the end of a stop, RESUME, DESTROY, the retirement of an
ASN, and the registers with effects of their own (spec/04_context.md R82-R93; spec/17_traps.md R393-R395). -/

namespace Sys2Proof.Machine

/-- A command's outcome. -/
def ctxErr (s : State) (c err : Nat) : State := modCtx s c fun x => { x with err := err }

/-! ## CREATE (R82, R83, R89, R92, R499) -/

/-- A reserved bit of a context descriptor is nonzero or a field is outside its range. -/
def ctxDescBad (d : List DWord) : Bool :=
  let w (i : Nat) : Nat := dwAt d i
  fld (w 0) 63 52 != 0 || fld (w 0) 11 0 != 0 || fld (w 1) 63 57 != 0 || fld (w 1) 5 0 != 0 || fld (w 2) 63 17 != 0
  || fld (w 3) 63 57 != 0 || fld (w 4) 63 52 != 0 || fld (w 4) 5 4 != 0 || fld (w 5) 63 52 != 0 || fld (w 5) 5 4 != 0
  || fld (w 6) 63 52 != 0 || fld (w 6) 11 0 != 0 || fld (w 7) 31 17 != 0 || fld (w 8) 63 11 != 0 || bitOf (w 8) 7
  || (List.range 7).any (fun j => w (9 + j) != 0)
  || decide (w 2 > 65536) || decide (fld (w 3) 1 0 ≥ 2) || decide (fld (w 4) 3 0 < 4)
  || fld (w 7) 16 0 == 0 || decide (fld (w 7) 16 0 > 65536) || decide (fld (w 8) 6 0 > 64)

/-- The context that a descriptor describes. -/
def ctxOf (d : List DWord) : Context :=
  let w (i : Nat) : Nat := dwAt d i
  { root := fld (w 0) 51 12 * 4096, ttbase := fld (w 1) 56 6 * 64, ttcount := fld (w 2) 16 0, handler := fld (w 3) 56 2 * 4
    tp := fld (w 3) 1 0, fqbase := fld (w 4) 51 6 * 64, fqlog := fld (w 4) 3 0, olbase := fld (w 5) 51 6 * 64
    ollog := fld (w 5) 3 0 + 6, sabase := fld (w 6) 51 12 * 4096, sasize := fld (w 7) 63 32, maxres := fld (w 7) 16 0
    priomax := fld (w 8) 10 8, mblimit := fld (w 8) 6 0 }

/-- Its structures lie wholly in local memory. -/
def ctxPlaced (x : Context) : Bool :=
  inGddr x.root 4096 && inGddr x.fqbase (64 * 2 ^ x.fqlog) && inGddr x.olbase (4 * 2 ^ x.ollog) && inGddr x.sabase (x.sasize * 4096)

/-- The lowest ASN that no context holds. -/
def freeAsn (s : State) : Option Nat :=
  (List.range 65536).find? fun a => !s.ctxs.any fun e => decide (e.2.st ≠ .free) && e.2.asn == a

/-- The registers of a context slot that stay across its lives. -/
def keepRegisters (x old : Context) : Context :=
  { x with err := old.err, kerr := old.kerr, kcancel := old.kcancel, pgva := old.pgva, pgcnt := old.pgcnt, pgerr := old.pgerr
           resolves := old.resolves, reports := old.reports, dbgctl := old.dbgctl, dbgcyc := old.dbgcyc, dbghit := old.dbghit }

/-- CREATE, with the value written to CTXCMD. DESIGN CHOICE (notes/assumptions/18.md): where several checks fail, R83 and R89 do not say which
ERR is reported; it is FORMAT before SAVE_SMALL before NO_ASN. -/
def ctxCreate (s : State) (c : Nat) (v : DWord) : State :=
  let old := getCtx s c
  let at_ := fld v.toNat 51 7 * 128
  if old.busy then ctxErr s c 1
  else if old.st ≠ .free || (s.boot.mode ≠ 1 && s.boot.mode ≠ 3) then ctxErr s c 2
  else if !inGddr at_ 128 then ctxErr s c 3
  else
    let d := bytesDw (readHome s at_ 128)
    let x := ctxOf d
    if ctxDescBad d || !ctxPlaced x then ctxErr s c 3
    else if x.sasize * 4096 < 4096 + x.maxres * 0x18000 then ctxErr s c 4
    else match freeAsn s with
      | none => ctxErr s c 5
      | some a => putCtx s c { keepRegisters x old with st := .created, asn := a, err := 0, ecSaved := 0, resolves := 0, reports := 0 }

/-! ## PREEMPT and the end of a stop (R89, R393, R394) -/

/-- PREEMPT. -/
def ctxPreempt (s : State) (c : Nat) : State :=
  let x := getCtx s c
  if x.busy then ctxErr s c 1
  else match x.st with
    | .created | .runnable => suspendQueues (putCtx s c { x with st := .saved, err := 0, ecSaved := x.ec }) c
    | .resident => if saveFits s c then stopContext (putCtx s c { x with err := 0 }) c 2 [] else ctxErr s c 4
    | _ => ctxErr s c 2

/-- Whether every child of a context has reached its pause point. -/
def allPaused (s : State) (c : Nat) : Bool := (ctxChildren s c).all fun e => !liveChild e.2 || match e.2.st with
  | .paused _ => true
  | _ => false

/-- Every group and set of a context leaves the cores, saved or not. -/
def clearCores (s : State) (c : Nat) : State := squash (evictCtx s c) c

/-- A queue of a destroyed context is unbound (R99). -/
def unbindQueue (x : Queue) (c : Nat) : Queue :=
  if x.ctx = c ∧ x.st ≠ .unbound then { noWork x with st := .unbound, birthing := none, out := 0, capture := none } else x

/-- DESTROY takes effect (R89, R92, R429): every kernel, child and orphan is cancelled, every queue unbound, every head of the
context stopped, and the sweep of its ASN begins. -/
def finishDestroy (s : State) (c : Nat) : State :=
  let s := modCtx s c fun x => { x with
    st := .destroyed, retiring := true, busy := false, err := 0, stopFor := 0, faulting := false, unsaved := false, imaged := false
    restore := [], counters := [], savedHeld := [], trapRecs := [], rqs := [], kept := [], kbusy := false }
  let s := { squash s c with
    kernels := s.kernels.filter fun k => k.ctx != c
    owed := s.owed.filter fun o => owedCtx o.what != c
    captures := s.captures.filter fun q => q.ctx != c
    collIn := s.collIn.filter fun f => f.dstCtx.val != c
    queues := s.queues.map fun e => (e.1, unbindQueue e.2 c) }
  let s := evictCtx s c
  let s := (ctxChildren s c).foldl (fun s e => if liveChild e.2 then finishChild (dropRemotes s e.1) e.1 .cancelled 10 0 0 else s) s
  let s := (ctxChildren s c).foldl (fun s e => freeChild s e.1) s
  let s := destroyHeads s c
  { s with invals := s.invals ++ [⟨c, (getCtx s c).asn, none, allUnits, [], true⟩] }

/-- A paused child goes on as it was: a PREEMPT whose save has grown too large leaves its context unchanged (R394). -/
def unpause (h : Child) : Child :=
  match h.st with
  | .paused b => { h with st := if b = 2 then .waiting else if b = 3 then .running else .issued, stop := false }
  | _ => { h with stop := false }

/-- A PREEMPT that finds, once every unit has stopped, that the save no longer fits: SAVE_SMALL, and the context goes on (R394). -/
def unstop (s : State) (c : Nat) : State :=
  let s := { s with children := s.children.map fun e => match e.2 with
      | some h => if h.ctx = c && liveChild h then (e.1, some (unpause h)) else e
      | none => e }
  resumeQueues (modCtx s c fun x => { x with st := .resident, err := 4, busy := false, stopFor := 0 }) c

/-- The groups of a stopped context as they leave their cores: what has left the memory units has performed, atomics have
completed, and bank-mode fences have (R216, R393). -/
def settleCtx (s : State) (c : Nat) : State :=
  let gs := ctxGroups s c
  let s := gs.foldl (fun s e => settleStop s e.1) (squash s c)
  gs.foldl (fun s e => fenceComplete (fenceComplete s e.1 0) e.1 1) s

/-- CONTEXT_SAVE_COMPLETE: the last unit has stopped. The trap records are posted, the save is written and everything leaves the
cores; under DESTROY nothing is saved, and a trap's stop whose save does not fit saves nothing (R394). -/
def contextSaveComplete (s : State) (c : Nat) : State :=
  let x := getCtx s c
  if x.st ≠ .preempting || !allPaused s c then s
  else if x.stopFor = 4 then finishDestroy (postTrapRecords (settleCtx s c) c false) c
  else if x.stopFor = 2 && !x.faulting && !saveFits s c then unstop s c
  else
    let s := settleCtx s c
    let s := postTrapRecords s c (saveFits s c)
    let next (x : Context) : Context := { x with st := if x.faulting then .faulted else .saved, faulting := false, busy := false, stopFor := 0, err := if x.busy then 0 else x.err }
    if saveFits s c then modCtx (evictCtx (writeSave s c) c) c next
    else modCtx s c fun x => { next x with unsaved := true, err := 4 }

/-! ## RESUME and DESTROY -/

/-- RESUME: re-injection of what the save area holds, or at once to runnable. -/
def ctxResume (s : State) (c : Nat) : State :=
  let x := getCtx s c
  if x.busy then ctxErr s c 1
  else if (x.st ≠ .saved && x.st ≠ .faulted) || x.unsaved then ctxErr s c 2
  else if x.imaged then beginRestore (ctxErr s c 0) c
  else resumeQueues (putCtx s c { x with st := .runnable, err := 0 }) c

/-- DESTROY: at once, or when a stop has ended; the heads of the context go idle at once (R429). -/
def ctxDestroy (s : State) (c : Nat) : State :=
  let x := getCtx s c
  if x.busy then ctxErr s c 1
  else match x.st with
    | .free | .destroyed => ctxErr s c 2
    | .resident => destroyHeads (stopContext (putCtx s c { x with err := 0 }) c 4 []) c
    | .preempting => destroyHeads (putCtx s c { x with stopFor := 4, busy := true, err := 0 }) c
    | _ => finishDestroy s c

/-- Whether the sweep of a destroyed context has been acknowledged and no head holds it (R92, R430). -/
def sweepDone (s : State) (c : Nat) : Bool :=
  (s.invals.any fun i => i.ctx == c && i.sweep && i.units.isEmpty)
  && !s.heads.any fun e => decide (e.2.st ≠ .idle) && headCtx e.2 == c

/-- ASN_SWEEP_COMPLETE: the ASN and the context slot are free. -/
def asnSweepComplete (s : State) (c : Nat) : State :=
  let x := getCtx s c
  if x.st = .destroyed && sweepDone s c then
    putCtx { s with invals := s.invals.filter fun i => i.ctx != c } c
      { keepRegisters {} x with fqhead := x.fqhead, fqtail := x.fqtail, fqlost := x.fqlost, mblimit := x.mblimit, ec := x.ec }
  else s

/-! ## ENERGY and FQLOST (R87, R88) -/

/-- ENERGY_WRITE: honoured in created, saved and faulted. DESIGN CHOICE (notes/assumptions/19.md): while an image exists what is written is read
back, but RESUME reloads EC from the image (R494). -/
def energyWrite (s : State) (c : Nat) (v : DWord) : State :=
  let x := getCtx s c
  match x.st with
  | .created | .saved | .faulted => putCtx s c { x with ec := v.toNat % 2 ^ 48, ecSaved := v.toNat % 2 ^ 48, ecrem := 0 }
  | _ => ctxErr s c 2

/-- A read of ENERGY: the counter as saved, or an open value no greater than it (notes/assumptions/3.md). -/
def energyRead (s : State) (c : Nat) : State × Nat :=
  let x := getCtx s c
  match x.st with
  | .saved | .faulted | .destroyed => (s, x.ecSaved)
  | _ => let (n, s) := drawFree s; (s, x.ec - Config.energyShort n)

/-- FQLOST_READ: it clears. -/
def fqlostRead (s : State) (c : Nat) : State :=
  let x := getCtx s c
  { putCtx s c { x with fqlost := 0 } with hostData := x.fqlost.setWidth 64 }

end Sys2Proof.Machine
end

