-- ==== Sys2Proof/Machine/Crypto.lean ====
section
/-! DEFINITION. SHA-384 (FIPS 180-4) and ECDSA (FIPS 186-5) on brainpoolP384r1 of RFC 5639, which R498 and R501 of
spec/24_bringup.md name (notes/assumptions/6.md). -/

namespace Sys2Proof.Machine

/-! ## SHA-384 -/

/-- The greatest r below 2^bits with r^k at most n. -/
def shaRoot (k n : Nat) : Nat → Nat → Nat
  | 0, r => r
  | b + 1, r => if (r + 2 ^ b) ^ k ≤ n then shaRoot k n b (r + 2 ^ b) else shaRoot k n b r

/-- The first 80 primes. -/
def shaPrimes : List Nat := (List.range 410).filter fun n => decide (2 ≤ n) && (List.range n).all fun d => decide (d < 2) || n % d != 0

/-- The round constants: the first 64 bits of the fractional parts of the primes' cube roots. -/
def shaK : List Nat := shaPrimes.map fun p => shaRoot 3 (p * 2 ^ 192) 70 0 % 2 ^ 64

/-- The initial hash value: of the square roots of the ninth to sixteenth primes. -/
def shaH : List Nat := (shaPrimes.drop 8).take 8 |>.map fun p => shaRoot 2 (p * 2 ^ 128) 70 0 % 2 ^ 64

def rotr64 (x n : Nat) : Nat := (x / 2 ^ n + x * 2 ^ (64 - n)) % 2 ^ 64

/-- The message schedule, newest word first, extended by `n` words. -/
def shaSchedule : Nat → List Nat → List Nat
  | 0, w => w
  | n + 1, w =>
    let x := w.getD 14 0
    let y := w.getD 1 0
    let s0 := rotr64 x 1 ^^^ rotr64 x 8 ^^^ x / 2 ^ 7
    let s1 := rotr64 y 19 ^^^ rotr64 y 61 ^^^ y / 2 ^ 6
    shaSchedule n ((s1 + w.getD 6 0 + s0 + w.getD 15 0) % 2 ^ 64 :: w)

/-- One round on the eight working variables. -/
def shaRound (v : List Nat) (kw : Nat) : List Nat :=
  let a := v.getD 0 0
  let e := v.getD 4 0
  let ch := (e &&& v.getD 5 0) ^^^ ((2 ^ 64 - 1 - e) &&& v.getD 6 0)
  let maj := (a &&& v.getD 1 0) ^^^ (a &&& v.getD 2 0) ^^^ (v.getD 1 0 &&& v.getD 2 0)
  let t1 := v.getD 7 0 + (rotr64 e 14 ^^^ rotr64 e 18 ^^^ rotr64 e 41) + ch + kw
  let t2 := (rotr64 a 28 ^^^ rotr64 a 34 ^^^ rotr64 a 39) + maj
  [(t1 + t2) % 2 ^ 64, a, v.getD 1 0, v.getD 2 0, (v.getD 3 0 + t1) % 2 ^ 64, e, v.getD 5 0, v.getD 6 0]

/-- A big-endian number. -/
def beNat (l : List Byte) : Nat := leNat l.reverse
def natBe (x n : Nat) : List Byte := (natLe x n).reverse

/-- One 128-byte block. -/
def shaBlock (h : List Nat) (b : List Byte) : List Nat :=
  let w := ((List.range 16).map fun i => beNat ((b.drop (8 * i)).take 8)).reverse
  let ws := (shaSchedule 64 w).reverse
  let v := (shaK.zip ws).foldl (fun v p => shaRound v (p.1 + p.2)) h
  List.zipWith (fun x y => (x + y) % 2 ^ 64) h v

/-- The blocks of a padded message. -/
def shaBlocks : Nat → List Nat → List Byte → List Nat
  | 0, h, _ => h
  | n + 1, h, b => shaBlocks n (shaBlock h (b.take 128)) (b.drop 128)

/-- SHA-384 of a message, 48 bytes. -/
def sha384 (m : List Byte) : List Byte :=
  let pad := (239 - m.length % 128) % 128
  let b := m ++ 0x80#8 :: List.replicate pad 0#8 ++ natBe (8 * m.length) 16
  ((shaBlocks (b.length / 128) shaH b).take 6).flatMap fun x => natBe x 8

/-! ## brainpoolP384r1 -/

def curveP : Nat := 0x8CB91E82A3386D280F5D6F7E50E641DF152F7109ED5456B412B1DA197FB71123ACD3A729901D1A71874700133107EC53
def curveA : Nat := 0x7BC382C63D8C150C3C72080ACE05AFA0C2BEA28E4FB22787139165EFBA91F90F8AA5814A503AD4EB04A8C7DD22CE2826
def curveB : Nat := 0x04A8C7DD22CE28268B39B55416F0447C2FB77DE107DCD2A62E880EA53EEB62D57CB4390295DBC9943AB78696FA504C11
def curveG : Nat × Nat :=
  (0x1D1C64F068CF45FFA2A63A81B7C13F6B8847A3E77EF14FE3DB7FCAFE0CBD10E8E826E03436D646AAEF87B2E247D4AF1E,
   0x8ABE1D7520F9C2A45CB1EB8E95CFD55262B70B29FEEC5864E19C054FF99129280E4646217791811142820341263C5315)
def curveQ : Nat := 0x8CB91E82A3386D280F5D6F7E50E641DF152F7109ED5456B31F166E6CAC0425A7CF3AB6AF6B7FC3103B883202E9046565

/-- b^e modulo m, for e below 2^n. -/
def powMod (m : Nat) : Nat → Nat → Nat → Nat
  | 0, _, _ => 1 % m
  | n + 1, b, e => let h := powMod m n (b * b % m) (e / 2); if e % 2 = 1 then h * b % m else h

/-- The inverse modulo a prime of 384 bits. -/
def invMod (m x : Nat) : Nat := powMod m 384 x (m - 2)

/-- Addition of points; none is the point at infinity. -/
def curveAdd (p q : Option (Nat × Nat)) : Option (Nat × Nat) :=
  match p, q with
  | none, r => r
  | r, none => r
  | some (x1, y1), some (x2, y2) =>
    if x1 = x2 ∧ (y1 + y2) % curveP = 0 then none
    else
      let l := if x1 = x2 then (3 * x1 * x1 + curveA) * invMod curveP (2 * y1) % curveP
        else (y2 + curveP - y1) * invMod curveP (x2 + curveP - x1) % curveP
      let x := (l * l + 2 * curveP - x1 - x2) % curveP
      some (x, (l * (x1 + curveP - x) + curveP - y1) % curveP)

/-- k times a point, for k below 2^n. -/
def curveMul : Nat → Nat → Option (Nat × Nat) → Option (Nat × Nat)
  | 0, _, _ => none
  | n + 1, k, p =>
    let h := curveMul n (k / 2) (curveAdd p p)
    if k % 2 = 1 then curveAdd h p else h

/-- A point of the curve. -/
def onCurve (p : Nat × Nat) : Bool :=
  decide (p.1 < curveP) && decide (p.2 < curveP) && p.2 * p.2 % curveP == (p.1 * p.1 * p.1 + curveA * p.1 + curveB) % curveP

/-- The signature (r, s) of a message verifies against a public key. -/
def ecdsaVerify (key : Nat × Nat) (r s : Nat) (m : List Byte) : Bool :=
  let e := beNat (sha384 m)
  let w := invMod curveQ s
  decide (0 < r) && decide (r < curveQ) && decide (0 < s) && decide (s < curveQ) && onCurve key
  && match curveAdd (curveMul 384 (e * w % curveQ) (some curveG)) (curveMul 384 (r * w % curveQ) (some key)) with
    | some p => p.1 % curveQ == r
    | none => false

/-- The signature of a message under a private key and a nonce: r then s, big-endian. -/
def ecdsaSign (key nonce : Nat) (m : List Byte) : List Byte :=
  let e := beNat (sha384 m)
  let r := match curveMul 384 nonce (some curveG) with
    | some p => p.1 % curveQ
    | none => 0
  natBe r 48 ++ natBe (invMod curveQ nonce * (e + r * key) % curveQ) 48

end Sys2Proof.Machine
end

