-- ==== Sys2Proof/Machine/Debug.lean ====
section
/-! DEFINITION. Capture windows, the cycle stop and its status (spec/23_debug.md R485-R487, R492, R493). -/

namespace Sys2Proof.Machine

/-! ## Capture windows (R485-R487) -/

/-- A range lies wholly in one die's host carve-out (R21). -/
def inCarveRange (pa n : Nat) : Bool :=
  inCarveOut pa && inCarveOut (pa + n - 1) && pa / 2 ^ 36 == (pa + n - 1) / 2 ^ 36

/-- A capture descriptor that faults its queue: its version, a reserved bit, a field or a buffer out of range. -/
def capDescBad (d : List DWord) : Bool :=
  let w (i : Nat) : Nat := dwAt d i
  let tlog := fld (w 1) 4 0
  let hlog := fld (w 2) 4 0
  fld (w 0) 63 56 != 1 || fld (w 0) 55 3 != 0 || fld (w 1) 63 52 != 0 || fld (w 2) 63 52 != 0 || bitOf (w 2) 5
  || w 5 != 0 || w 6 != 0 || w 7 != 0
  || decide (tlog < 8) || decide (28 < tlog) || decide (hlog < 4) || decide (20 < hlog)
  || !inCarveRange (fld (w 1) 51 5 * 32) (32 * 2 ^ tlog) || !inCarveRange (fld (w 2) 51 6 * 64) (64 * 2 ^ hlog)

/-- The window that a descriptor describes, its counts zero. -/
def captureFrom (c capd : Nat) (d : List DWord) : Capture :=
  let w (i : Nat) : Nat := dwAt d i
  { ctx := c, capd := capd, flags := fld (w 0) 2 0, tbuf := fld (w 1) 51 5 * 32, tlog := fld (w 1) 4 0
    hbuf := fld (w 2) 51 6 * 64, hlog := fld (w 2) 4 0, tnext := 0, tlost := 0, hused := 0, hlost := 0 }

/-- The captures of every other descriptor. -/
def otherCaptures (s : State) (c capd : Nat) : List Capture := s.captures.filter fun q => !(q.ctx == c && q.capd == capd)

/-- CAPSTART opens a window on its queue and zeroes its counts and the whole histogram table. -/
def packetCapstart (s : State) : State :=
  onPacket s false (fun k => reservedBad k [(1, vaBits)] || k.dw 1 % 64 != 0) fun s q k =>
    let x := getQueue s q
    if x.capture.isSome then packetFault s q 3 (packetAddr x) k.tag
    else engineRead s q k (k.dw 1) 64 fun s b =>
      let d := bytesDw b
      if capDescBad d then packetFault s q 3 (k.dw 1) k.tag
      else
        let cp := captureFrom x.ctx (k.dw 1) d
        let s := { s with captures := otherCaptures s x.ctx (k.dw 1) ++ [cp], mem := mzero s.mem cp.hbuf (64 * 2 ^ cp.hlog) }
        packetStarted (modQueue s q fun x => { x with capture := some (k.dw 1) }) q false

/-- Another queue of the context has a window open on the descriptor. -/
def captureShared (s : State) (c capd q : Nat) : Bool :=
  s.queues.any fun e => e.1 != q && e.2.ctx == c && e.2.capture == some capd

/-- Whether a child that a queue's window captures has still to end (R486, R487): its histogram update is still to come. -/
def capturedLive (s : State) (c capd q : Nat) : Bool :=
  (ctxChildren s c).any fun e => liveChild e.2 && e.2.capture == some (capd, q)

/-- CAPSTOP, which starts once every earlier packet has completed and every captured child has ended, closes the window and writes
dw3 and dw4. -/
def packetCapstop (s : State) : State :=
  onPacket s true (fun k => reservedBad k [(1, vaBits)] || k.dw 1 % 64 != 0) fun s q k =>
    let x := getQueue s q
    if x.capture ≠ some (k.dw 1) then packetFault s q 3 (packetAddr x) k.tag
    else if capturedLive s x.ctx (k.dw 1) q then blockQueue s q .order
    else engineWalk s q k (k.dw 1) 64 { w := true } fun s pa =>
      let s := match s.captures.find? fun c => c.ctx == x.ctx && c.capd == k.dw 1 with
        | some c => writeHome s (pa + 24) (natLe c.tnext.toNat 4 ++ natLe c.tlost.toNat 4 ++ natLe c.hused.toNat 4 ++ natLe c.hlost.toNat 4)
        | none => s
      let s := if captureShared s x.ctx (k.dw 1) q then s else { s with captures := otherCaptures s x.ctx (k.dw 1) }
      packetStarted (modQueue s q fun x => { x with capture := none }) q false

/-! ## The cycle stop (R492, R493) -/

/-- DEBUG_CYCLE_STOP: the context stops as PREEMPT stops it, on the named core at once; a save that does not fit leaves it as it is (R394). -/
def debugCycleStop (s : State) (c : Nat) : State :=
  if !dbgDue s c then s
  else if saveFits s c then
    stopContext (modCtx s c fun x => { x with dbgctl := x.dbgctl &&& 0xFFFFFFFFFFFFFFFD, dbghit := true }) c 0 [dbgCore (getCtx s c)]
  else modCtx s c fun x => { x with err := 4 }

/-- DBGSTAT_READ: HIT clears. -/
def dbgstatRead (s : State) (c : Nat) : State :=
  let x := getCtx s c
  { putCtx s c { x with dbghit := false } with hostData := if x.dbghit then 1 else 0 }

end Sys2Proof.Machine
end

