-- ==== Sys2Proof/Machine/Boot.lean ====
section
/-! DEFINITION. Reset, boot, image checks, repair, wear and attestation (spec/24_bringup.md R496-R501; spec/16_page.md R380-R382). -/

namespace Sys2Proof.Machine

/-! ## Images (R497, R498) -/

/-- The body of an image: LEN bytes. -/
def imageBody (i : Image) : List Byte := i.body.take i.len.toNat

/-- What an image's signature covers: header bytes 0x00..0x1F, then the body. -/
def imageMessage (i : Image) : List Byte :=
  natLe i.ver.toNat 4 ++ natLe i.kind.toNat 4 ++ natLe i.len.toNat 8 ++ natLe i.svn.toNat 4 ++ natLe i.reserved.toNat 12 ++ imageBody i

/-- The check of one image against a key and a minimum SVN; one that is cut short passes none (notes/assumptions/38.md). -/
def imageOk (key : Nat × Nat) (minSvn kind : Nat) (i : Image) : Bool :=
  i.ver == 1 && i.kind.toNat == kind && i.reserved == 0 && decide (i.len.toNat ≤ i.body.length) && decide (minSvn ≤ i.svn.toNat)
  && ecdsaVerify key i.sigR.toNat i.sigS.toNat (imageMessage i)

/-- A configuration image is accepted beside a firmware image. -/
def configOk (key : Nat × Nat) (minSvn : Nat) (fw cfg : Image) : Bool :=
  imageOk key minSvn 2 cfg && cfg.svn == fw.svn

/-- An image of a slot that may be empty passes. -/
def firmwareOk (key : Nat × Nat) (minSvn : Nat) (i : Option Image) : Bool :=
  match i with
  | some i => imageOk key minSvn 1 i
  | none => false

/-! ## Reset and boot (R496, R499) -/

/-- Reset: every unit at its reset values. The flash, the secure element, the history of soft errors and what is still to
come from outside stay (notes/assumptions/7.md). -/
def resetModule (s : State) : State :=
  { State.reset with
    agenda := s.agenda, freeCtr := s.freeCtr
    boot := { State.reset.boot with
      fwA := s.boot.fwA, cfgA := s.boot.cfgA, fwB := s.boot.fwB, cfgB := s.boot.cfgB, rootKey := s.boot.rootKey, minSvn := s.boot.minSvn }
    repair := { marked := s.repair.marked ++ s.repair.mapped } }

/-- The boot ends in recovery with an error code. -/
def bootFails (s : State) (err : Nat) : State := { s with boot := { s.boot with mode := 2, bootErr := err } }

/-- The banks that carry spare rows. -/
def allSrams : List Sram :=
  (List.finRange 64).flatMap (fun c => (List.finRange 32).map fun b => Sram.pond c b)
  ++ (List.finRange 8).flatMap (fun d => (List.finRange 48).map fun x => Sram.slice d x)
  ++ (List.finRange 64).map Sram.lineStore

/-- The compute die of a bank; line stores lie on the hub die. -/
def sramDie : Sram → Option Nat
  | .pond c _ => some (c.val / 8)
  | .slice d _ => some d.val
  | .lineStore _ => none

/-- Counts `n` rows of a bank's die as remapped (R382). -/
def countRemaps (r : Repair) (b : Sram) (n : Nat) : Repair :=
  match sramDie b with
  | some d => { r with remap := tput 0 r.remap d (tget 0 r.remap d + BitVec.ofNat 32 n) }
  | none => r

/-- Withdraws a bank (R381, R382). -/
def withdraw (r : Repair) (b : Sram) : Repair :=
  match b with
  | .pond c k => { r with pondw := tput 0 r.pondw c.val (tget 0 r.pondw c.val ||| BitVec.ofNat 32 (2 ^ k.val)) }
  | .slice d x => { r with l2w := tput 0 r.l2w d.val (tget 0 r.l2w d.val ||| BitVec.ofNat 48 (2 ^ x.val)) }
  | .lineStore c => { r with linew := r.linew ||| BitVec.ofNat 64 (2 ^ c.val) }

/-- The boot repair pass on one bank: rows that failed the test or have a history of corrected errors go to spares; a
bank with more of them than spares is withdrawn, and those that have none stay marked. -/
def repairBank (r : Repair) (b : Sram) : Repair :=
  let old := (r.marked.filter fun p => decide (p.1 = b)).map (·.2)
  let r := { r with marked := r.marked.filter fun p => decide (p.1 ≠ b) }
  let rows := (Config.failedRows b ++ old).eraseDups
  let use := rows.take Config.spareRows
  let r := countRemaps { r with mapped := r.mapped ++ use.map fun x => (b, x), marked := r.marked ++ (rows.drop Config.spareRows).map fun x => (b, x) } b use.length
  if Config.spareRows < rows.length then withdraw r b else r

/-- The boot repair pass (R380). -/
def repairPass (r : Repair) : Repair := allSrams.foldl repairBank r

/-- The die links begin their training (R403). -/
def trainDieLinks (s : State) : State := (List.range 16).foldl (fun s n => putLink s n (startTraining (getLink s n))) s

/-- The cfg fields that a configuration body gives (R6): MODID, the energy weights, the ageing threshold. -/
def loadConfig (s : State) (body : List Byte) : State :=
  { s with
    modid := Config.imageModid body % 4080
    energyWeights := (List.range 13).foldl (fun t i => match Config.imageWeight body i with
      | some w => tput (BitVec.ofNat 64 (defaultWeight i)) t i w
      | none => t) []
    boot := { s.boot with ageThreshold := Config.imageThreshold body } }

/-- Whether the training of the die links has ended: each is up or stays in error (R403, R496). -/
def dieLinksSettled (s : State) : Bool :=
  (List.range 16).all fun n => match (getLink s n).st with
    | .up => true
    | .error => true
    | _ => false

/-- Step 5: once the die links have trained, the other host cores and the firmware start and the mode is set. -/
def bootGoesOn (s : State) : State :=
  match s.boot.coming, s.boot.booted with
  | some m, some (f, _) =>
    if dieLinksSettled s then
      { s with boot := { s.boot with mode := m, coming := none, minSvn := max s.boot.minSvn (Config.firmwareMinSvn (imageBody f)) } }
    else s
  | _, _ => s

/-- Steps 3 and 4 for the slot whose firmware passed. -/
def bootSlot (s : State) (key : Nat × Nat) (slot : Bool) (err : Nat) (fw : Option Image) (cfg : Option Image) : State :=
  let s := { s with boot := { s.boot with slot := slot, booted := fw.map fun f => (f, none) } }
  match fw, cfg with
  | some f, some c =>
    if !configOk key s.boot.minSvn f c then bootFails s 3
    else
      let m := Config.imageMode (imageBody c)
      if m ≠ 1 ∧ m ≠ 3 then bootFails s 3
      else
        let s := trainDieLinks (loadConfig s (imageBody c))
        { s with repair := repairPass s.repair, boot := { s.boot with bootErr := err, booted := some (f, some c), coming := some m } }
  | _, _ => bootFails s 3

/-- The boot ROM's steps in order. -/
def bootSteps (s : State) : State :=
  match s.boot.rootKey with
  | none => bootFails s 4
  | some key =>
    if firmwareOk key s.boot.minSvn s.boot.fwA then bootSlot s key false 0 s.boot.fwA s.boot.cfgA
    else if firmwareOk key s.boot.minSvn s.boot.fwB then bootSlot s key true 1 s.boot.fwB s.boot.cfgB
    else bootFails s 2

/-- POWER_ON_RESET. -/
def powerOnReset (s : State) : State := bootSteps (resetModule s)

/-- RESET_REQUEST at the management port. -/
def resetRequest (s : State) : State := bootSteps (resetModule s)

/-- IMAGE_UPLOAD in recovery: a pair that passes goes to slot A, and the module resets. A is the slot that failed, or both
failed: B is tried only after A. -/
def imageUpload (s : State) : State :=
  match s.args.data, s.boot.rootKey with
  | .images fw cfg, some key =>
    if s.boot.mode = 2 ∧ s.boot.bootErr ≠ 4 ∧ imageOk key s.boot.minSvn 1 fw ∧ configOk key s.boot.minSvn fw cfg then
      resetRequest { s with boot := { s.boot with fwA := some fw, cfgA := some cfg } }
    else s
  | _, _ => s

/-! ## Wear (R500) -/

/-- EOL of a die as the monitors left it. -/
def ageEol (s : State) (n : Nat) : Nat := (tget 0xFFFFFFFF s.boot.ages n).toNat

/-- AGEING_UPDATE: a die's predicted remaining hours, which never rise. -/
def ageingUpdate (s : State) : State :=
  let n := s.args.n
  if n < 9 then
    { s with boot := { s.boot with ages := tput 0xFFFFFFFF s.boot.ages n (BitVec.ofNat 64 (min (ageEol s n) s.args.v.toNat)) } }
  else s

/-- AGEn. -/
def ageRegister (s : State) (n : Nat) : Nat := b01 (decide (ageEol s n < s.boot.ageThreshold)) * 2 ^ 63 + ageEol s n

/-! ## Repair in operation (R380-R382) -/

/-- CORRECTED_SOFT_ERROR marks a row for a spare. -/
def correctedSoftError (s : State) : State :=
  match s.args.data with
  | .sram b =>
    let x := (b, s.args.m)
    if s.repair.marked.contains x || s.repair.mapped.contains x then s
    else { s with repair := { s.repair with marked := s.repair.marked ++ [x] } }
  | _ => s

/-- No set holds a pond bank. -/
def sramUnheld (s : State) : Sram → Bool
  | .pond c b => (getBank s (c.val * 32 + b.val)).owner.isNone
  | _ => false

/-- A bank holds nothing that programs can see. A slice writes a row's lines back first. -/
def sramHidden (s : State) : Sram → Bool
  | .pond c b => (getBank s (c.val * 32 + b.val)).mode == 0 || (getBank s (c.val * 32 + b.val)).owner.isNone
  | .slice _ _ => true
  | .lineStore c => ((tget {} s.slcores c.val).ctxs.all fun e => decide (e.2.st = .free))

/-- A bank that is withdrawn already takes no more spares. -/
def sramWithdrawn (s : State) : Sram → Bool
  | .pond c b => (tget 0 s.repair.pondw c.val).getLsbD b.val
  | .slice d x => (tget 0 s.repair.l2w d.val).getLsbD x.val
  | .lineStore c => s.repair.linew.getLsbD c.val

/-- ROW_REMAP: a marked row goes to a spare; a pond bank without spares is withdrawn once no set holds it. -/
def rowRemap (s : State) : State :=
  match s.args.data with
  | .sram b =>
    let x := (b, s.args.m)
    let r := s.repair
    if !r.marked.contains x || !sramHidden s b || sramWithdrawn s b then s
    else if (r.mapped.filter fun p => decide (p.1 = b)).length < Config.spareRows then
      { s with repair := countRemaps { r with marked := r.marked.filter (· != x), mapped := r.mapped ++ [x] } b 1 }
    else if sramUnheld s b then { s with repair := withdraw r b }
    else s
  | _ => s

/-! ## Attestation (R501) -/

def sysstat (s : State) : Nat := s.boot.bootErr * 2 ^ 16 + b01 s.boot.slot * 2 ^ 8 + s.boot.mode

/-- Version 1 of each interface. -/
def ifver : Nat := 0x01010101

/-- Bits set in the words of a table. -/
def bitsSet {n : Nat} (t : Tbl (BitVec n)) : Nat := (t.map fun e => ((List.range n).filter fun i => e.2.getLsbD i).length).sum

/-- Bytes 0x00..0xBF of a report; `free` numbers what stands for an image that was not booted: both where no firmware passed,
the configuration where it was rejected. -/
def reportBytes (s : State) (nonce : List Byte) (free : Nat) : List Byte :=
  let none_ (n : Nat) : List Byte := (List.range n).map fun i => Config.unbooted (free + i)
  let hashes := match s.boot.booted with
    | some (f, some c) => sha384 (imageMessage f) ++ sha384 (imageMessage c)
    | some (f, none) => sha384 (imageMessage f) ++ none_ 48
    | none => none_ 96
  let svn := match s.boot.booted with
    | some (f, _) => natLe f.svn.toNat 4
    | none => none_ 4
  nonce ++ natLe 1 4 ++ natLe s.modid 4 ++ natLe (sysstat s) 4 ++ natLe ifver 4 ++ hashes ++ svn ++ natLe s.boot.minSvn 4
  ++ natLe (bitsSet s.repair.l2w) 4 ++ natLe (bitsSet s.repair.pondw) 4 ++ natLe ((s.repair.remap.map fun e => e.2.toNat).sum) 4
  ++ natLe s.boot.linkErr.toNat 4 ++ natLe 0 8

/-- A write of ATTCMD: the buffer and the report's 288 bytes lie in the carve-out. -/
def attestStart (s : State) (v : DWord) : State :=
  let buf := fld v.toNat 51 8 * 256
  if s.boot.attBusy then { s with boot := { s.boot with attErr := 1 } }
  else if !inCarveRange buf 288 then { s with boot := { s.boot with attErr := 2 } }
  else { s with boot := { s.boot with attBuf := buf, attBusy := true, attErr := 0 } }

/-- The report is written and signed inside the secure element, and BUSY clears. -/
def attestFinish (s : State) : State :=
  if s.boot.attBusy then
    let fr := drawFree s
    let s := fr.2
    let r := reportBytes s (readHome s s.boot.attBuf 48) fr.1
    let sig := ecdsaSign Config.identityKey.toNat (Config.identityNonce fr.1).toNat r
    { writeHome s s.boot.attBuf (r ++ sig) with boot := { s.boot with attBusy := false, attErr := 0 } }
  else s

/-- ATTESTATION_REPORT: ATTCMD, and the report that it asks for. -/
def attestationReport (s : State) : State :=
  if s.boot.attBusy then attestFinish s else attestFinish (attestStart s s.args.v)

end Sys2Proof.Machine
end

