-- ==== Sys2Proof/Machine/ContextForms.lean ====
section
/-! DEFINITION. Contexts' commands and events (spec/04_context.md, spec/23_debug.md): one definition per row. -/

namespace Sys2Proof.Machine

/-- The context, queue, head and scanline core that a move names. -/
def argCtx (s : State) : Nat := s.args.n % 4096
def argQueue (s : State) : Nat := s.args.n % 65536
def argHead (s : State) : Nat := s.args.n % 16
def argCore (s : State) : Nat := s.args.n % 64

/-- The 32-bit value that a move carries: a launch number or a tail index. -/
def argLaunch (s : State) : Word := s.args.v.setWidth 32

/-- The translation unit that a move names. -/
def onUnit (s : State) (f : TUnit → State) : State :=
  match s.args.data with
  | .tunit u => f u
  | _ => s

/-- CTXCMD with CREATE (R83, R89). -/
def execCtxCreate (s : State) : Host.Outcome State Fault Refusal := .next (ctxCreate s (argCtx s) s.args.v)
/-- CTXCMD with PREEMPT (R89). -/
def execCtxPreempt (s : State) : Host.Outcome State Fault Refusal := .next (ctxPreempt s (argCtx s))
/-- CTXCMD with RESUME (R89, R395). -/
def execCtxResume (s : State) : Host.Outcome State Fault Refusal := .next (ctxResume s (argCtx s))
/-- CTXCMD with DESTROY (R89, R92). -/
def execCtxDestroy (s : State) : Host.Outcome State Fault Refusal := .next (ctxDestroy s (argCtx s))
/-- A write of ENERGY (R87). -/
def execEnergyWrite (s : State) : Host.Outcome State Fault Refusal := .next (energyWrite s (argCtx s) s.args.v)
/-- A read of FQLOST (R85, R88). -/
def execFqlostRead (s : State) : Host.Outcome State Fault Refusal := .next (fqlostRead s (argCtx s))
/-- The last unit of a stopping context is saved (R89, R393). -/
def execContextSaveComplete (s : State) : Host.Outcome State Fault Refusal := .next (contextSaveComplete s (argCtx s))
/-- The sweep of a retiring ASN is acknowledged (R92). -/
def execAsnSweepComplete (s : State) : Host.Outcome State Fault Refusal := .next (asnSweepComplete s (argCtx s))
/-- The armed ck edge is reached (R493). -/
def execDebugCycleStop (s : State) : Host.Outcome State Fault Refusal := .next (debugCycleStop s (argCtx s))
/-- A read of DBGSTAT (R492). -/
def execDbgstatRead (s : State) : Host.Outcome State Fault Refusal := .next (dbgstatRead s (argCtx s))
/-- PGCMD with INVALIDATE (R374, R375). -/
def execPgInvalidate (s : State) : Host.Outcome State Fault Refusal := .next (pgInvalidate s (argCtx s))
/-- PGCMD with INVALIDATE_ALL (R375). -/
def execPgInvalidateAll (s : State) : Host.Outcome State Fault Refusal := .next (pgInvalidateAll s (argCtx s))
/-- PGCMD with RESOLVE (R377). -/
def execPgResolve (s : State) : Host.Outcome State Fault Refusal := .next (pgResolve s (argCtx s))
/-- PGCMD with REJECT (R378). -/
def execPgReject (s : State) : Host.Outcome State Fault Refusal := .next (pgReject s (argCtx s))
/-- A unit at a quiescent point drops entries and acknowledges (R373). -/
def execUnitQuiesceInvalidate (s : State) : Host.Outcome State Fault Refusal := .next (onUnit s fun u => quiesceUnit s (argCtx s) u)
/-- A unit that is not quiescent in time starts no new translation (R373). -/
def execInvalidationLimit (s : State) : Host.Outcome State Fault Refusal := .next (onUnit s fun u => limitUnit s (argCtx s) u)
/-- KCMD with CANCEL (R130). -/
def execKernelCancel (s : State) : Host.Outcome State Fault Refusal := .next (cancelKernel s (argCtx s) (argLaunch s))

end Sys2Proof.Machine
end

