-- ==== Sys2Proof/Machine/ConvertForms.lean ====
section
/-! DEFINITION. What the slots of the C class do: one definition for each row of the opcode table, each the row's form run
with its meaning (spec/08_arith.md). -/

namespace Sys2Proof.Machine

/-- CVT_F64. -/
def execCvtF64 (w : Slot) (s : State) : Host.Outcome State Fault Refusal :=
  runSlot formCvtF64 7 w (cvt 1) s

/-- CVT_F32. -/
def execCvtF32 (w : Slot) (s : State) : Host.Outcome State Fault Refusal :=
  runSlot formCvtF32 7 w (cvt 2) s

/-- CVT_F16. -/
def execCvtF16 (w : Slot) (s : State) : Host.Outcome State Fault Refusal :=
  runSlot formCvtF16 7 w (cvt 3) s

/-- CVT_BF16. -/
def execCvtBf16 (w : Slot) (s : State) : Host.Outcome State Fault Refusal :=
  runSlot formCvtBf16 7 w (cvt 4) s

/-- CVT_E4M3. -/
def execCvtE4m3 (w : Slot) (s : State) : Host.Outcome State Fault Refusal :=
  runSlot formCvtE4m3 7 w (cvt 5) s

/-- CVT_E5M2. -/
def execCvtE5m2 (w : Slot) (s : State) : Host.Outcome State Fault Refusal :=
  runSlot formCvtE5m2 7 w (cvt 6) s

/-- CVT_I32. -/
def execCvtI32 (w : Slot) (s : State) : Host.Outcome State Fault Refusal :=
  runSlot formCvtI32 7 w (cvt 7) s

/-- CVT_I16. -/
def execCvtI16 (w : Slot) (s : State) : Host.Outcome State Fault Refusal :=
  runSlot formCvtI16 7 w (cvt 8) s

/-- CVT_I8. -/
def execCvtI8 (w : Slot) (s : State) : Host.Outcome State Fault Refusal :=
  runSlot formCvtI8 7 w (cvt 9) s

/-- CVT_I4. -/
def execCvtI4 (w : Slot) (s : State) : Host.Outcome State Fault Refusal :=
  runSlot formCvtI4 7 w (cvt 10) s

/-- CVT_UN8. -/
def execCvtUn8 (w : Slot) (s : State) : Host.Outcome State Fault Refusal :=
  runSlot formCvtUn8 7 w (cvt 11) s

/-- CVT_SRGB8. -/
def execCvtSrgb8 (w : Slot) (s : State) : Host.Outcome State Fault Refusal :=
  runSlot formCvtSrgb8 7 w (cvt 12) s

/-- CVT_B1. -/
def execCvtB1 (w : Slot) (s : State) : Host.Outcome State Fault Refusal :=
  runSlot formCvtB1 7 w (cvt 13) s

/-- CVT_E8M0. -/
def execCvtE8m0 (w : Slot) (s : State) : Host.Outcome State Fault Refusal :=
  runSlot formCvtE8m0 7 w (cvt 14) s

/-- CPACK. -/
def execCpack (w : Slot) (s : State) : Host.Outcome State Fault Refusal :=
  runSlot formCpack 7 w cPack s

/-- CUNPACK. -/
def execCunpack (w : Slot) (s : State) : Host.Outcome State Fault Refusal :=
  runSlot formCunpack 7 w cUnpack s

end Sys2Proof.Machine
end

