-- ==== Sys2Proof/Machine/Registers.lean ====
section
/-! DEFINITION. The device register space as the host complex reads and writes it, and the host complex's memory accesses
(spec/00_scope.md R6, R7; spec/01_machine.md R20-R22; spec/10_memory_model.md R252; the register tables of R85, R95, R130,
R374, R382, R402, R412, R426, R466, R492, R494 and R500). -/

namespace Sys2Proof.Machine

/-! ## The register map -/

/-- The blocks of registers. -/
inductive RegBlock where
  | ctx
  | kernel
  | page
  | queue
  | repair
  | link
  | fabric
  | head
  | slcore
  | debug
  | energy
  | system
  deriving DecidableEq, Repr

/-- The blocks: base, stride, count and the bytes that each object's registers take. -/
def regBlocks : List (RegBlock × Nat × Nat × Nat × Nat) :=
  [(.ctx, 0x10000000000, 0x40, 4096, 0x40), (.kernel, 0x10000800000, 0x10, 4096, 0x10), (.page, 0x10000900000, 0x20, 4096, 0x20),
   (.queue, 0x10001000000, 0x40, 65536, 0x40), (.repair, 0x10001800000, 0x80, 8, 0x80), (.link, 0x10001A00000, 0x40, 32, 0x20),
   (.fabric, 0x10001A10000, 0x200, 1, 0x200), (.head, 0x10001B00000, 0x80, 16, 0x80), (.slcore, 0x10001C00000, 0x40, 64, 0x18),
   (.debug, 0x10001D00000, 0x20, 4096, 0x20), (.energy, 0x10001D20000, 8, 13, 8), (.system, 0x10001E00000, 0x70, 1, 0x70)]

/-- The register at an address: its block, its object's number and its offset; none where no table lists one (R22). -/
def regAt (pa : Nat) : Option (RegBlock × Nat × Nat) :=
  match regBlocks.find? fun b => decide (b.2.1 ≤ pa) && decide (pa < b.2.1 + b.2.2.1 * b.2.2.2.1) with
  | none => none
  | some (k, base, stride, _, size) =>
    let off := (pa - base) % stride
    let gap := k == .fabric && decide (0x10 ≤ off) && decide (off < 0x100)
    if off < size && !gap then some (k, (pa - base) / stride, off / 8 * 8) else none

/-! ## Status codes -/

def ctxStCode : CtxSt → Nat
  | .free => 0
  | .created => 1
  | .runnable => 2
  | .resident => 3
  | .preempting => 4
  | .saved => 5
  | .faulted => 6
  | .destroyed => 7

def queueStCode : QueueSt → Nat
  | .unbound => 0
  | .idle => 1
  | .runnable => 2
  | .dispatching => 3
  | .blocked => 4
  | .suspended => 5
  | .faulted => 6
  | .drained => 7

def linkStCode : LinkSt → Nat
  | .down => 0
  | .training => 1
  | .negotiating => 2
  | .up => 3
  | .draining => 4
  | .stopped => 5
  | .error => 6

def headStCode : HeadSt → Nat
  | .idle => 0
  | .starting => 1
  | .active => 2
  | .stopping => 3
  | .error => 4

/-- A status register's ERR, BUSY and STATE. -/
def statBits (err : Nat) (busy : Bool) (busyAt st : Nat) : Nat := err * 256 + b01 busy * 2 ^ busyAt + st

/-- The line that an active head's beam is on. -/
def headLine (h : Head) : Nat := if h.st = .active then h.beam % h.vtotal else 0

/-! ## Reads (R6): reserved fields and write-only registers read zero -/

def ctxReg (x : Context) (off : Nat) : Nat :=
  match off with
  | 0x08 => x.asn * 2 ^ 48 + statBits x.err x.busy 4 (ctxStCode x.st)
  | 0x10 => x.ec
  | 0x18 => x.fqhead.toNat
  | 0x20 => x.fqtail.toNat
  | 0x28 => x.fqlost.toNat
  | 0x30 => x.mblimit
  | 0x38 => x.orphans
  | _ => 0

def queueReg (x : Queue) (off : Nat) : Nat :=
  match off with
  | 0x00 => x.qbase.toNat
  | 0x08 => x.qctl.toNat
  | 0x10 => x.out % 2 ^ 32 * 2 ^ 32 + statBits x.err false 4 (queueStCode x.st)
  | 0x20 => x.head.toNat
  | 0x28 => x.tail.toNat
  | 0x30 => x.faultIdx.toNat * 2 ^ 32 + x.faultCode
  | _ => 0

def pageReg (x : Context) (off : Nat) : Nat :=
  match off with
  | 0x00 => x.pgva.toNat
  | 0x08 => x.pgcnt.toNat
  | 0x18 => statBits x.pgerr x.pgbusy 0 0
  | _ => 0

def debugReg (x : Context) (off : Nat) : Nat :=
  match off with
  | 0x00 => x.dbgctl.toNat
  | 0x08 => x.dbgcyc.toNat
  | 0x10 => b01 x.dbghit
  | _ => 0

def repairReg (r : Repair) (die off : Nat) : Nat :=
  if off = 0 then (tget 0 r.l2w die).toNat
  else if off < 0x48 then (tget 0 r.pondw (die * 8 + (off - 8) / 8)).toNat
  else if off = 0x48 then (tget 0 r.remap die).toNat
  else 0

def linkReg (s : State) (n : Nat) (l : Link) (off : Nat) : Nat :=
  match off with
  | 0x08 => (if isDieLink n then s.modid else l.peer) * 2 ^ 52 + l.slpver * 2 ^ 40 + statBits l.err l.busy 4 (linkStCode l.st)
  | 0x10 => l.replayCnt.toNat * 2 ^ 32 + l.crcerr.toNat
  | 0x18 => l.txseq.toNat * 65536 + l.rxseq.toNat
  | _ => 0

def fabricReg (s : State) (off : Nat) : Nat :=
  if off = 0 then s.modid
  else if off < 0x100 then 0
  else if off % 16 = 0 then (tget 0 s.expBase ((off - 0x100) / 16)).toNat
  else (tget 0 s.expCtl ((off - 0x100) / 16)).toNat

def headReg (h : Head) (off : Nat) : Nat :=
  match off with
  | 0x08 => headLine h * 2 ^ 32 + statBits h.err h.busy 4 (headStCode h.st)
  | 0x10 => h.miss.toNat
  | 0x18 => h.pub.toNat * 2 ^ 32 + h.frame.toNat
  | 0x20 => fld h.evq.toNat 51 5 * 32 + max 4 (fld h.evq.toNat 3 0)
  | 0x28 => h.evhead.toNat
  | 0x30 => h.evlost.toNat * 2 ^ 32 + h.evtail.toNat
  | _ => if 0x38 ≤ off ∧ off < 0x78 then (tget 0 h.staged ((off - 0x38) / 8)).toNat else 0

def slcoreReg (c : SlCore) (off : Nat) : Nat :=
  match off with
  | 0x08 => statBits c.err (slBusy c) 4 (b01 c.stopped)
  | 0x10 => c.brk.toNat
  | _ => 0

def systemReg (s : State) (off : Nat) : Nat :=
  if off = 0 then sysstat s
  else if off = 0x08 then ifver
  else if off < 0x58 then ageRegister s ((off - 0x10) / 8)
  else if off = 0x58 then s.boot.linkErr.toNat
  else if off = 0x68 then statBits s.boot.attErr s.boot.attBusy 0 0
  else 0

/-- A register's readable value, with nothing cleared. -/
def regPeek (s : State) (b : RegBlock) (n off : Nat) : Nat :=
  match b with
  | .ctx => ctxReg (getCtx s n) off
  | .kernel => if off = 8 then statBits (getCtx s n).kerr (getCtx s n).kbusy 0 0 else 0
  | .page => pageReg (getCtx s n) off
  | .queue => queueReg (getQueue s n) off
  | .repair => repairReg s.repair n off
  | .link => linkReg s n (getLink s n) off
  | .fabric => fabricReg s off
  | .head => headReg (getHead s n) off
  | .slcore => slcoreReg (getSl s n) off
  | .debug => debugReg (getCtx s n) off
  | .energy => weight s n
  | .system => systemReg s off

/-- A doubleword read: its value goes to `hostData`, and a field of code RC clears. -/
def regRead (s : State) (b : RegBlock) (n off : Nat) : State :=
  match b, off with
  | .ctx, 0x10 => let r := energyRead s n; { r.1 with hostData := BitVec.ofNat 64 r.2 }
  | .ctx, 0x28 => fqlostRead s n
  | .queue, 0x30 => qfaultRead s n
  | .link, 0x10 => linkCount s n
  | .head, 0x10 => hmissRead s n
  | .head, 0x30 => hevtailRead s n
  | .debug, 0x10 => dbgstatRead s n
  | _, _ => { s with hostData := BitVec.ofNat 64 (regPeek s b n off) }

/-! ## Writes: read-only fields and reserved bits are ignored (R6, R7) -/

/-- The command in bits 3:0 of a value. -/
def cmdOf (v : DWord) : Nat := fld v.toNat 3 0

/-- CTXCMD (R85, R86). -/
def ctxCommand (s : State) (c : Nat) (v : DWord) : State :=
  match cmdOf v with
  | 1 => ctxCreate s c v
  | 2 => ctxPreempt s c
  | 3 => ctxResume s c
  | 4 => ctxDestroy s c
  | _ => ctxErr s c (if (getCtx s c).busy then 1 else 6)

def ctxRegWrite (s : State) (c off : Nat) (v : DWord) : State :=
  match off with
  | 0x00 => ctxCommand s c v
  | 0x10 => energyWrite s c v
  | 0x18 => modCtx s c fun x => { x with fqhead := v.setWidth 32 }
  | 0x30 => modCtx s c fun x => { x with mblimit := min 64 (fld v.toNat 6 0) }
  | _ => s

/-- KCMD (R130). -/
def kernelCommand (s : State) (c : Nat) (v : DWord) : State :=
  if cmdOf v = 1 then cancelKernel s c (BitVec.ofNat 32 (fld v.toNat 63 32))
  else modCtx s c fun x => { x with kerr := if x.kbusy then 2 else 3 }

/-- PGCMD (R374). -/
def pageRegWrite (s : State) (c off : Nat) (v : DWord) : State :=
  match off with
  | 0x00 => modCtx s c fun x => { x with pgva := v &&& 0x01FFFFFFFFFF0000 }
  | 0x08 => modCtx s c fun x => { x with pgcnt := v &&& 0xFFFFFFFF }
  | 0x10 => (match cmdOf v with
    | 1 => pgInvalidate s c
    | 2 => pgInvalidateAll s c
    | 3 => pgResolve s c
    | 4 => pgReject s c
    | _ => modCtx s c fun x => { x with pgerr := if x.pgbusy then 1 else 3 })
  | _ => s

/-- QCTL (R96): a command of 0 changes nothing; any other takes effect with the fields written beside it, and one that fails
changes nothing but ERR. -/
def queueCommand (s : State) (q : Nat) (v : DWord) : State :=
  match cmdOf v with
  | 0 => s
  | 1 => qctlCommand s q v queueBind
  | 2 => qctlCommand s q v queueUnbind
  | 3 => qctlCommand s q v queueSuspend
  | 4 => qctlCommand s q v queueResume
  | 5 => qctlCommand s q v queueReset
  | _ => queueErr s q 5

def queueRegWrite (s : State) (q off : Nat) (v : DWord) : State :=
  match off with
  | 0x00 => modQueue s q fun x => { x with qbase := v &&& 0x000FFFFFFFFFF01F }
  | 0x08 => queueCommand s q v
  | 0x18 => doorbell s q (v.setWidth 32)
  | _ => s

/-- LNKCTL (R402): a command that takes a link out of service is followed to its streams' heads. -/
def linkCommandWrite (s : State) (n : Nat) (v : DWord) : State :=
  match cmdOf v with
  | 1 => linkTrain s n
  | 2 => afterLink s (linkDrain s n) n
  | 3 => afterLink s (linkDown s n) n
  | _ => linkCommand s n fun s l => putLink s n { l with err := 3 }

def fabricRegWrite (s : State) (off : Nat) (v : DWord) : State :=
  if off = 8 then routeWrite s v
  else if off < 0x100 then s
  else
    let w := (off - 0x100) / 16
    if off % 16 = 0 then { s with expBase := tput 0 s.expBase w (v &&& 0xFFFFFF0000) }
    else { s with expCtl := tput 0 s.expCtl w (v &&& 0xFFFFFFFF0FFF0007) }

/-- HCMD (R426). -/
def headCommand (s : State) (hd : Nat) (v : DWord) : State :=
  if (getHead s hd).busy then modHead s hd fun h => { h with err := 1 }
  else match cmdOf v with
    | 1 => headStart s hd v
    | 2 => headStop s hd
    | _ => modHead s hd fun h => { h with err := 6 }

def headRegWrite (s : State) (hd off : Nat) (v : DWord) : State :=
  match off with
  | 0x00 => headCommand s hd v
  | 0x20 => modHead s hd fun h => { h with evq := v &&& 0x000FFFFFFFFFFFEF }
  | 0x28 => modHead s hd fun h => { h with evhead := v.setWidth 32 }
  | 0x78 => poseCommitWrite s hd v
  | _ => if 0x38 ≤ off ∧ off < 0x78 then modHead s hd fun h => { h with staged := tput 0 h.staged ((off - 0x38) / 8) v } else s

/-- SLCMD (R466). -/
def slcoreCommand (s : State) (c : Nat) (v : DWord) : State :=
  if slBusy (getSl s c) then modSl s c fun x => { x with err := 1 }
  else match cmdOf v with
    | 1 => slcoreStop s c v
    | 2 => slcoreRun s c v
    | 3 => slcoreStep s c v
    | _ => modSl s c fun x => { x with err := 3 }

def slcoreRegWrite (s : State) (c off : Nat) (v : DWord) : State :=
  match off with
  | 0x00 => slcoreCommand s c v
  | 0x10 => modSl s c fun x => { x with brk := v &&& 0x01FFFFFFFFFFFFF1 }
  | _ => s

def debugRegWrite (s : State) (c off : Nat) (v : DWord) : State :=
  match off with
  | 0x00 => modCtx s c fun x => { x with dbgctl := v &&& 0xFF03 }
  | 0x08 => modCtx s c fun x => { x with dbgcyc := v }
  | _ => s

/-- A doubleword write. -/
def regWrite (s : State) (b : RegBlock) (n off : Nat) (v : DWord) : State :=
  match b with
  | .ctx => ctxRegWrite s n off v
  | .kernel => if off = 0 then kernelCommand s n v else s
  | .page => pageRegWrite s n off v
  | .queue => queueRegWrite s n off v
  | .repair => s
  | .link => if off = 0 then linkCommandWrite s n v else s
  | .fabric => fabricRegWrite s off v
  | .head => headRegWrite s n off v
  | .slcore => slcoreRegWrite s n off v
  | .debug => debugRegWrite s n off v
  | .energy => s
  | .system => if off = 0x60 then attestStart s v else s

/-! ## Accesses of the host complex (R20-R22, R252) -/

/-- Whether a host core runs: core 0 from reset on, the other 31 once step 5 of the boot has started them, which it does as it
sets the mode (R496). -/
def hostCoreRuns (s : State) (core : Nat) : Bool := core == 0 || s.boot.mode == 1 || s.boot.mode == 3

/-- REGISTER_WRITE by a host core of a doubleword at an address of the register space. -/
def registerWrite (s : State) (core pa : Nat) (v : DWord) : State :=
  if !hostCoreRuns s core then s
  else match regAt pa with
  | some (b, n, off) => regWrite s b n off v
  | none => hostFault s core .store

/-- Device register space. -/
def inDevice (pa : Nat) : Bool := decide (0x10000000000 ≤ pa) && decide (pa < 0x20000000000)

/-- A remote address that names local memory of another module (R410). -/
def remoteOk (s : State) (pa n : Nat) : Bool :=
  isRemote pa && decide (remoteModule pa < 4080) && decide (remoteOffset pa + n ≤ gddrEnd) && remoteModule pa != s.modid

/-- An address of the host complex's view that no range of R20 or register table backs. -/
def hostReserved (s : State) (pa : Nat) : Bool :=
  !(inGddr pa 1 || (inDevice pa && (regAt pa).isSome) || remoteOk s pa 1)

/-- HOST_RESERVED_ACCESS (R22), by the host core that the operand `n` names. -/
def hostReservedAccess (s : State) : State :=
  match s.args.data with
  | .kind k => if hostCoreRuns s (s.args.n % 32) && hostReserved s s.args.v.toNat then hostFault s (s.args.n % 32) k else s
  | _ => s

/-- Whether an operation is a load. -/
def hostLoads (a : HostAccess) : Bool := decide (a.op = .load)

/-- A host core. -/
def hostAgent (a : HostAccess) : Agent := .host a.core.val

/-- The fault that an access of the host complex raises. -/
def accessFault (s : State) (a : HostAccess) : State := hostFault s a.core.val (if hostLoads a then .load else .store)

/-- An access of local memory performs at its home slice (R252): a load takes in the line's writes, an AMO with .aq acquires
at system scope. A failed die link on its way ends it (R11, R408, notes/assumptions/14.md). -/
def hostLocal (s : State) (a : HostAccess) : State :=
  let pa := a.pa.toNat
  let old := leNat (readHome s pa a.size)
  let r := { takeIn (hostAgent a) [lineOf pa] s with hostData := BitVec.ofNat 64 old }
  if !dieReach s 8 (homeDie pa) then accessFault s a
  else match a.op with
    | .fence => s
    | .load => r
    | .store => writeBy (hostAgent a) s pa (natLe a.value.toNat a.size)
    | op =>
      let r := writeBy (hostAgent a) r pa (natLe (amoValue op a.size old a.value.toNat) a.size)
      if a.acq then acquireBy (hostAgent a) 5 r else r

/-- An access of a register: the bytes of its doubleword that it names; a write of part of one leaves its other fields.
DESIGN CHOICE (notes/assumptions/15.md): R6 lists doubleword registers and says nothing of narrower accesses; a load of a part
clears every RC field of the register, and an AMO on a register raises the store access fault. -/
def hostRegister (s : State) (a : HostAccess) (b : RegBlock) (n off : Nat) : State :=
  let lo := a.pa.toNat % 8
  match a.op with
  | .load => let s := regRead s b n off; { s with hostData := BitVec.ofNat 64 (s.hostData.toNat / 256 ^ lo % 256 ^ a.size) }
  | .store =>
    let old := natLe (regPeek s b n off) 8
    let bs := old.take lo ++ natLe a.value.toNat a.size ++ old.drop (lo + a.size)
    regWrite s b n off (BitVec.ofNat 64 (leNat bs))
  | _ => accessFault s a

/-- The operation that an access of another module's memory asks for there. -/
def hostOp (a : HostAccess) : RemoteOp :=
  match a.op with
  | .load => .read a.size
  | .store => .write (natLe a.value.toNat a.size)
  | op => .amo op a.size a.value

/-- An access of another module's memory: a request, or the access fault if no port leads there (R408, R411). -/
def hostRemote (s : State) (a : HostAccess) : State :=
  (askRemote s (.host a.core.val) (a.acq && !hostLoads a && decide (a.op ≠ .store)) 0 a.pa.toNat (hostOp a)).getD (accessFault s a)

/-- HOST_MEMORY_ACCESS (R252): a RISC-V FENCE after loads acquires at system scope; any other operation is a load, store or
AMO of 1 to 8 bytes that lie in one doubleword. DESIGN CHOICE (notes/assumptions/16.md): an access of no byte, or one that
crosses a doubleword, raises its access fault. -/
def hostMemoryAccess (s : State) : State :=
  match s.args.data with
  | .access a =>
    let pa := a.pa.toNat
    let fault := accessFault s a
    if !hostCoreRuns s a.core.val then s
    else if a.op = .fence then acquireBy (hostAgent a) 5 s
    else if a.size = 0 ∨ 8 < pa % 8 + a.size then fault
    else if inGddr pa a.size then hostLocal s a
    else if remoteOk s pa a.size then hostRemote s a
    else match (if inDevice pa then regAt pa else none) with
      | some (b, n, off) => hostRegister s a b n off
      | none => fault
  | _ => s

end Sys2Proof.Machine
end

