-- ==== Sys2Proof/Machine/DeviceForms.lean ====
section
/-! DEFINITION. Links, Tarn, health, boot and the host complex's accesses (spec/16_page.md, spec/18_link.md, spec/19_presentation.md, spec/20_scanline_isa.md, spec/24_bringup.md): one definition per row. -/

namespace Sys2Proof.Machine

/-- A written command register's value with its CMD field. -/
def withCmd (s : State) (cmd : BitVec 64) : DWord := (s.args.v &&& 0xFFFFFFFFFFFFFFF0) ||| cmd

/-- What a move of the fabric carries. -/
def onPeer (s : State) (f : PeerOffer → State) : State :=
  match s.args.data with
  | .peer o => f o
  | _ => s
def onBytes (s : State) (f : List Byte → State) : State :=
  match s.args.data with
  | .bytes b => f b
  | _ => s
def onRequest (s : State) (f : RemoteRequest → State) : State :=
  match s.args.data with
  | .request r => f r
  | _ => s
def onResponse (s : State) (f : RemoteResponse → State) : State :=
  match s.args.data with
  | .response r => f r
  | _ => s
def onColl (s : State) (f : CollFlit → State) : State :=
  match s.args.data with
  | .coll c => f c
  | _ => s
def onStream (s : State) (f : StreamFlit → State) : State :=
  match s.args.data with
  | .stream x => f x
  | _ => s

/-- A soft error is corrected in a row (R380). -/
def execCorrectedSoftError (s : State) : Host.Outcome State Fault Refusal := .next (correctedSoftError s)
/-- A marked row is remapped (R380). -/
def execRowRemap (s : State) : Host.Outcome State Fault Refusal := .next (rowRemap s)
/-- LNKCTL with TRAIN (R403). -/
def execLinkTrain (s : State) : Host.Outcome State Fault Refusal := .next (linkTrain s s.args.n)
/-- LNKCTL with DRAIN (R403). -/
def execLinkDrain (s : State) : Host.Outcome State Fault Refusal := .next (afterLink s (linkDrain s s.args.n) s.args.n)
/-- LNKCTL with DOWN (R403). -/
def execLinkDown (s : State) : Host.Outcome State Fault Refusal := .next (afterLink s (linkDown s s.args.n) s.args.n)
/-- A read of LNKCNT (R402). -/
def execLnkcntRead (s : State) : Host.Outcome State Fault Refusal := .next (linkCount s (s.args.n % 32))
/-- A link's PHY has trained (R403). -/
def execLinkPhyTrained (s : State) : Host.Outcome State Fault Refusal := .next (phyTrained s (s.args.n % 32))
/-- A link's PHY has failed to train (R403). -/
def execLinkPhyTrainFail (s : State) : Host.Outcome State Fault Refusal := .next (bootGoesOn (afterLink s (phyFailed s (s.args.n % 32)) (s.args.n % 32)))
/-- The peer's version masks arrive (R404). -/
def execLinkNegotiated (s : State) : Host.Outcome State Fault Refusal := .next (onPeer s fun o => bootGoesOn (negotiated s (s.args.n % 32) o))
/-- A flit arrives at a link (R405, R406). -/
def execSlpFlitReceive (s : State) : Host.Outcome State Fault Refusal := .next (onBytes s fun b => afterFlit s (afterLink s (receiveFlit s (s.args.n % 32) b) (s.args.n % 32)) (s.args.n % 32) b)
/-- A link loses a lane (R403). -/
def execLinkLaneLoss (s : State) : Host.Outcome State Fault Refusal := .next (bootGoesOn (afterLink s (laneLoss s (s.args.n % 32)) (s.args.n % 32)))
/-- Another module asks for this module's memory (R411). -/
def execRemoteMemoryRequest (s : State) : Host.Outcome State Fault Refusal := .next (onRequest s fun r => serveRemote s r)
/-- Another module answers (R411). -/
def execRemoteMemoryResponse (s : State) : Host.Outcome State Fault Refusal := .next (onResponse s fun r => remoteAnswer s r)
/-- A collective flit arrives for a context (R417, R419). -/
def execCollectiveFlitReceive (s : State) : Host.Outcome State Fault Refusal := .next (onColl s fun f => collReceive s f)
/-- A stream flit arrives (R420, R421). -/
def execStreamFlitReceive (s : State) : Host.Outcome State Fault Refusal := .next (onStream s fun f => streamReceive s f)
/-- A write of ROUTE (R412). -/
def execRouteWrite (s : State) : Host.Outcome State Fault Refusal := .next (routeWrite s s.args.v)
/-- HCMD with START (R428, R429). -/
def execHeadStart (s : State) : Host.Outcome State Fault Refusal := .next (headCommand s (argHead s) (withCmd s 1))
/-- HCMD with STOP (R429). -/
def execHeadStop (s : State) : Host.Outcome State Fault Refusal := .next (headCommand s (argHead s) (withCmd s 2))
/-- A read of HMISS (R426). -/
def execHmissRead (s : State) : Host.Outcome State Fault Refusal := .next (hmissRead s (argHead s))
/-- A read of HEVTAIL (R426). -/
def execHevtailRead (s : State) : Host.Outcome State Fault Refusal := .next (hevtailRead s (argHead s))
/-- A write of POSECMD (R426). -/
def execPoseCommit (s : State) : Host.Outcome State Fault Refusal := .next (poseCommitWrite s (argHead s) s.args.v)
/-- A mailbox takes a pose (R432). -/
def execMailboxWrite (s : State) : Host.Outcome State Fault Refusal := .next (mailboxWrite s (argHead s))
/-- A head takes a publication (R424). -/
def execPublicationTake (s : State) : Host.Outcome State Fault Refusal := .next (takePublication s (argHead s))
/-- A head's output has trained (R429). -/
def execHeadOutputTrained (s : State) : Host.Outcome State Fault Refusal := .next (outputTrained s (argHead s))
/-- A head's output has failed to train (R429). -/
def execHeadOutputTrainFail (s : State) : Host.Outcome State Fault Refusal := .next (outputFailed s (argHead s))
/-- A head's output is lost (R429). -/
def execHeadOutputLost (s : State) : Host.Outcome State Fault Refusal := .next (outputLost s (argHead s))
/-- A slice's pose is latched (R433). -/
def execPoseLatch (s : State) : Host.Outcome State Fault Refusal := .next (poseLatch s (argHead s))
/-- A slice's program starts (R434). -/
def execSliceStart (s : State) : Host.Outcome State Fault Refusal := .next (sliceStart s (argHead s))
/-- A slice's deadline (R434, R435). -/
def execSliceDeadline (s : State) : Host.Outcome State Fault Refusal := .next (sliceDeadline s (argHead s))
/-- A slice is output and joins the history (R436, R437). -/
def execSliceOutput (s : State) : Host.Outcome State Fault Refusal := .next (sliceOutput s (argHead s))
/-- A FETCH lays its bytes in the line store (R462). -/
def execFetchComplete (s : State) : Host.Outcome State Fault Refusal := .next (fetchDone s (argCore s) (s.args.m % 4))
/-- Tarn's Oxbow starts a call (R465). -/
def execTarnCallStart (s : State) : Host.Outcome State Fault Refusal := .next (callStart s)
/-- Tarn's Oxbow ends its call (R440, R465). -/
def execTarnCallComplete (s : State) : Host.Outcome State Fault Refusal := .next (if s.args.m = 0 then callComplete s else callError s s.args.m)
/-- SLCMD with STOP (R467). -/
def execSlcoreStop (s : State) : Host.Outcome State Fault Refusal := .next (slcoreCommand s (argCore s) (withCmd s 1))
/-- SLCMD with RUN (R467). -/
def execSlcoreRun (s : State) : Host.Outcome State Fault Refusal := .next (slcoreCommand s (argCore s) (withCmd s 2))
/-- SLCMD with STEP (R467). -/
def execSlcoreStep (s : State) : Host.Outcome State Fault Refusal := .next (slcoreCommand s (argCore s) (withCmd s 3))
/-- A scanline core meets its breakpoint (R467). -/
def execSlBreakpoint (s : State) : Host.Outcome State Fault Refusal := .next (slBreak s (argCore s))
/-- An output FIFO drains into the scanout buffer (R457). -/
def execOutputFifoDrain (s : State) : Host.Outcome State Fault Refusal := .next (fifoDrain s (argCore s) (s.args.m % 4))
/-- The texels of a held SAMP arrive (R449). -/
def execSampTexelArrival (s : State) : Host.Outcome State Fault Refusal := .next (texelsArrive s (argCore s))
/-- A host access of a reserved address (R22). -/
def execHostReservedAccess (s : State) : Host.Outcome State Fault Refusal := .next (hostReservedAccess s)
/-- A doubleword write at a register's address (R6, R7). -/
def execRegisterWrite (s : State) : Host.Outcome State Fault Refusal := .next (registerWrite s (s.args.m % 32) s.args.n s.args.v)
/-- Power-on (R496). -/
def execPowerOnReset (s : State) : Host.Outcome State Fault Refusal := .next (powerOnReset s)
/-- A reset request at the management port (R496). -/
def execResetRequest (s : State) : Host.Outcome State Fault Refusal := .next (resetRequest s)
/-- An image pair is uploaded in recovery (R499). -/
def execImageUpload (s : State) : Host.Outcome State Fault Refusal := .next (imageUpload s)
/-- The ageing monitors report (R500). -/
def execAgeingUpdate (s : State) : Host.Outcome State Fault Refusal := .next (ageingUpdate s)
/-- ATTCMD and its report (R501). -/
def execAttestationReport (s : State) : Host.Outcome State Fault Refusal := .next (attestationReport s)
/-- A host load, store or AMO (R252). -/
def execHostMemoryAccess (s : State) : Host.Outcome State Fault Refusal := .next (hostMemoryAccess s)

end Sys2Proof.Machine
end

