-- ==== Sys2Proof/Machine/FloatForms.lean ====
section
/-! DEFINITION. What the slots of the float forms of VA and VB do: one definition for each row of the opcode table, each the row's form run
with its meaning (spec/08_arith.md). -/

namespace Sys2Proof.Machine

/-- FCMP_F32. -/
def execFcmpF32 (u : VUnit) (w : Slot) (s : State) : Host.Outcome State Fault Refusal :=
  runSlot formFcmpF32 (vClass u) w f32Cmp s

/-- FCMP_F64. -/
def execFcmpF64 (u : VUnit) (w : Slot) (s : State) : Host.Outcome State Fault Refusal :=
  runSlot formFcmpF64 (vClass u) w f64Cmp s

/-- FADD_F32. -/
def execFaddF32 (u : VUnit) (w : Slot) (s : State) : Host.Outcome State Fault Refusal :=
  runSlot formFaddF32 (vClass u) w (f32Binary 6 (fadd binary32)) s

/-- FSUB_F32. -/
def execFsubF32 (u : VUnit) (w : Slot) (s : State) : Host.Outcome State Fault Refusal :=
  runSlot formFsubF32 (vClass u) w (f32Binary 6 (fsub binary32)) s

/-- FMUL_F32. -/
def execFmulF32 (u : VUnit) (w : Slot) (s : State) : Host.Outcome State Fault Refusal :=
  runSlot formFmulF32 (vClass u) w (f32Binary 6 (fmul binary32)) s

/-- FFMA_F32. -/
def execFfmaF32 (u : VUnit) (w : Slot) (s : State) : Host.Outcome State Fault Refusal :=
  runSlot formFfmaF32 (vClass u) w f32Fma s

/-- FMIN_F32. -/
def execFminF32 (u : VUnit) (w : Slot) (s : State) : Host.Outcome State Fault Refusal :=
  runSlot formFminF32 (vClass u) w (f32Binary 6 fun _ => fminmax false binary32) s

/-- FMAX_F32. -/
def execFmaxF32 (u : VUnit) (w : Slot) (s : State) : Host.Outcome State Fault Refusal :=
  runSlot formFmaxF32 (vClass u) w (f32Binary 6 fun _ => fminmax true binary32) s

/-- FDIV_F32. -/
def execFdivF32 (u : VUnit) (w : Slot) (s : State) : Host.Outcome State Fault Refusal :=
  runSlot formFdivF32 (vClass u) w f32Div s

/-- FSQRT_F32. -/
def execFsqrtF32 (u : VUnit) (w : Slot) (s : State) : Host.Outcome State Fault Refusal :=
  runSlot formFsqrtF32 (vClass u) w (f32Unary (fsqrt binary32)) s

/-- FRCP_F32. -/
def execFrcpF32 (u : VUnit) (w : Slot) (s : State) : Host.Outcome State Fault Refusal :=
  runSlot formFrcpF32 (vClass u) w (f32Unary (frcp binary32)) s

/-- FRSQ_F32. -/
def execFrsqF32 (u : VUnit) (w : Slot) (s : State) : Host.Outcome State Fault Refusal :=
  runSlot formFrsqF32 (vClass u) w (f32Unary (frsq binary32)) s

/-- FEXP2_F32. -/
def execFexp2F32 (u : VUnit) (w : Slot) (s : State) : Host.Outcome State Fault Refusal :=
  runSlot formFexp2F32 (vClass u) w (f32Unary fexp2) s

/-- FLOG2_F32. -/
def execFlog2F32 (u : VUnit) (w : Slot) (s : State) : Host.Outcome State Fault Refusal :=
  runSlot formFlog2F32 (vClass u) w (f32Unary flog2) s

/-- FSIN_F32. -/
def execFsinF32 (u : VUnit) (w : Slot) (s : State) : Host.Outcome State Fault Refusal :=
  runSlot formFsinF32 (vClass u) w (f32Unary (fsincos 0)) s

/-- FCOS_F32. -/
def execFcosF32 (u : VUnit) (w : Slot) (s : State) : Host.Outcome State Fault Refusal :=
  runSlot formFcosF32 (vClass u) w (f32Unary (fsincos 1)) s

/-- FADD_F16. -/
def execFaddF16 (u : VUnit) (w : Slot) (s : State) : Host.Outcome State Fault Refusal :=
  runSlot formFaddF16 (vClass u) w (f16Binary (fadd binary16)) s

/-- FSUB_F16. -/
def execFsubF16 (u : VUnit) (w : Slot) (s : State) : Host.Outcome State Fault Refusal :=
  runSlot formFsubF16 (vClass u) w (f16Binary (fsub binary16)) s

/-- FMUL_F16. -/
def execFmulF16 (u : VUnit) (w : Slot) (s : State) : Host.Outcome State Fault Refusal :=
  runSlot formFmulF16 (vClass u) w (f16Binary (fmul binary16)) s

/-- FFMA_F16. -/
def execFfmaF16 (u : VUnit) (w : Slot) (s : State) : Host.Outcome State Fault Refusal :=
  runSlot formFfmaF16 (vClass u) w f16Fma s

/-- FADD_F64. -/
def execFaddF64 (u : VUnit) (w : Slot) (s : State) : Host.Outcome State Fault Refusal :=
  runSlot formFaddF64 (vClass u) w (f64Binary 12 (fadd binary64)) s

/-- FSUB_F64. -/
def execFsubF64 (u : VUnit) (w : Slot) (s : State) : Host.Outcome State Fault Refusal :=
  runSlot formFsubF64 (vClass u) w (f64Binary 12 (fsub binary64)) s

/-- FMUL_F64. -/
def execFmulF64 (u : VUnit) (w : Slot) (s : State) : Host.Outcome State Fault Refusal :=
  runSlot formFmulF64 (vClass u) w (f64Binary 12 (fmul binary64)) s

/-- FFMA_F64. -/
def execFfmaF64 (u : VUnit) (w : Slot) (s : State) : Host.Outcome State Fault Refusal :=
  runSlot formFfmaF64 (vClass u) w f64Fma s

/-- FMIN_F64. -/
def execFminF64 (u : VUnit) (w : Slot) (s : State) : Host.Outcome State Fault Refusal :=
  runSlot formFminF64 (vClass u) w (f64Binary 12 fun _ => fminmax false binary64) s

/-- FMAX_F64. -/
def execFmaxF64 (u : VUnit) (w : Slot) (s : State) : Host.Outcome State Fault Refusal :=
  runSlot formFmaxF64 (vClass u) w (f64Binary 12 fun _ => fminmax true binary64) s

/-- FDIV_F64. -/
def execFdivF64 (u : VUnit) (w : Slot) (s : State) : Host.Outcome State Fault Refusal :=
  runSlot formFdivF64 (vClass u) w (f64Binary 48 (fdiv binary64)) s

/-- FSQRT_F64. -/
def execFsqrtF64 (u : VUnit) (w : Slot) (s : State) : Host.Outcome State Fault Refusal :=
  runSlot formFsqrtF64 (vClass u) w (f64Unary (fsqrt binary64)) s

/-- FRCP_F64. -/
def execFrcpF64 (u : VUnit) (w : Slot) (s : State) : Host.Outcome State Fault Refusal :=
  runSlot formFrcpF64 (vClass u) w (f64Unary (frcp binary64)) s

/-- FRSQ_F64. -/
def execFrsqF64 (u : VUnit) (w : Slot) (s : State) : Host.Outcome State Fault Refusal :=
  runSlot formFrsqF64 (vClass u) w (f64Unary (frsq binary64)) s

end Sys2Proof.Machine
end

