-- ==== Sys2Proof/Machine/GraphicsForms.lean ====
section
/-! DEFINITION. What the slots of the G class do: one definition for each row of the opcode table, each the row's form run
with its meaning (spec/14_graphics.md). -/

namespace Sys2Proof.Machine

/-- GRSTEP. -/
def execGrstep (w : Slot) (s : State) : Host.Outcome State Fault Refusal :=
  runSlot formGrstep 4 w gGrstep s

/-- GBOX. -/
def execGbox (w : Slot) (s : State) : Host.Outcome State Fault Refusal :=
  runSlot formGbox 4 w gGbox s

/-- GTRI2. -/
def execGtri2 (w : Slot) (s : State) : Host.Outcome State Fault Refusal :=
  runSlot formGtri2 4 w gGtri2 s

/-- GCURVE. -/
def execGcurve (w : Slot) (s : State) : Host.Outcome State Fault Refusal :=
  runSlot formGcurve 4 w gGcurve s

/-- GPSPLIT. -/
def execGpsplit (w : Slot) (s : State) : Host.Outcome State Fault Refusal :=
  runSlot formGpsplit 4 w gGpsplit s

/-- GPFLAT. -/
def execGpflat (w : Slot) (s : State) : Host.Outcome State Fault Refusal :=
  runSlot formGpflat 4 w gGpflat s

/-- GTEX. -/
def execGtex (w : Slot) (s : State) : Host.Outcome State Fault Refusal :=
  runSlot formGtex 4 w (gGtex false) s

/-- GTEXL. -/
def execGtexl (w : Slot) (s : State) : Host.Outcome State Fault Refusal :=
  runSlot formGtexl 4 w (gGtex true) s

/-- GPUBLISH. -/
def execGpublish (w : Slot) (s : State) : Host.Outcome State Fault Refusal :=
  runSlot formGpublish 4 w gGpublish s

end Sys2Proof.Machine
end

