-- ==== Sys2Proof/Machine/GroupEvents.lean ====
section
/-! DEFINITION. The sequencers', memory's and children's own events (spec/03_bundles.md, spec/07_group.md, spec/10_memory_model.md, spec/11_operation.md): one definition per row. -/

namespace Sys2Proof.Machine

/-- Compute dies issue bundles in test and operation only (R496, R499). -/
def computes (s : State) : Bool := s.boot.mode == 1 || s.boot.mode == 3

/-- The engine that a move names. -/
def onEngine (s : State) (f : Engine → State) : State :=
  match s.args.data with
  | .engine e => f e
  | _ => s

/-- The picker chooses and a bundle opens, under a soft error where m names a slot (R135, R63, R383, R499). -/
def execBundleIssue (s : State) : Host.Outcome State Fault Refusal := .next (if computes s then issueFrom s (s.args.n % 1024) else s)
/-- A fixed-latency result lands (R71). -/
def execResultLand (s : State) : Host.Outcome State Fault Refusal := .next (landResult s s.args.n s.args.m)
/-- A delay window closes (R72). -/
def execDelayWindowClose (s : State) : Host.Outcome State Fault Refusal := .next (closeWindow s s.args.n s.args.m)
/-- A scale latch write takes effect (R73). -/
def execScaleLatchEffect (s : State) : Host.Outcome State Fault Refusal := .next (latchEffect s s.args.n)
/-- A group with no path left retires (R133). -/
def execGroupRetire (s : State) : Host.Outcome State Fault Refusal := .next (retireGroup s s.args.n)
/-- The sequencer grants a waiting claim (R142). -/
def execClaimGrant (s : State) : Host.Outcome State Fault Refusal := .next (grantClaim s (s.args.n % 1024))
/-- A path has not issued for the watchdog's time (R136, R383). -/
def execWatchdog (s : State) : Host.Outcome State Fault Refusal := .next (watchdogPath s s.args.n s.args.m)
/-- A lane's Wellspring queue is refilled (R45). -/
def execWellspringFill (s : State) : Host.Outcome State Fault Refusal := .next (fillLane s s.args.n s.args.m)
/-- A load binds and its result lands (R231, R242). -/
def execMemoryResultLand (s : State) : Host.Outcome State Fault Refusal := .next (memoryLand s s.args.n s.args.m (s.args.v.getLsbD 0))
/-- A write, atomic or fence performs (R243, R244). -/
def execStorePerform (s : State) : Host.Outcome State Fault Refusal := .next (storePerform s s.args.n s.args.m)
/-- Cluster copies past their age are dropped (R233). -/
def execClusterCopyExpire (s : State) : Host.Outcome State Fault Refusal := .next (expireCopies s)
/-- A die's congestion signal rises (R138, R237). -/
def execCongestionSet (s : State) : Host.Outcome State Fault Refusal := .next (congestionSet s s.args.n)
/-- A die's congestion signal falls (R138, R237). -/
def execCongestionClear (s : State) : Host.Outcome State Fault Refusal := .next (congestionClear s s.args.n)
/-- A bank-mode fence completes (R215). -/
def execBankModeFenceComplete (s : State) : Host.Outcome State Fault Refusal := .next (fenceComplete s s.args.n s.args.m)
/-- A waiting WAITEVT looks at its word (R366). -/
def execWaitevtWake (s : State) : Host.Outcome State Fault Refusal := .next (evtTry s s.args.n s.args.m)
/-- A waiting WAITEVT reaches its limit (R366). -/
def execWaitevtLimit (s : State) : Host.Outcome State Fault Refusal := .next (evtLimit s s.args.n s.args.m)
/-- An engine starts its next child (R261). -/
def execChildStart (s : State) : Host.Outcome State Fault Refusal := .next (onEngine s fun e => engineStart s e)
/-- The Millpond performs a chunk (R275). -/
def execCopyChunkComplete (s : State) : Host.Outcome State Fault Refusal := .next (copyChunkEvent s s.args.n)
/-- A beat arrives over a circuit (R277). -/
def execCircuitBeatArrive (s : State) : Host.Outcome State Fault Refusal := .next (circuitBeat s s.args.n)
/-- A child moves on or completes (R258); with operand 11 or 12 its engine reports an error instead (R265). -/
def execChildComplete (s : State) : Host.Outcome State Fault Refusal :=
  .next (if s.args.m = 0 then childMove s s.args.n else childError s s.args.n s.args.m)
/-- A child reaches a pause point under a stop or a cancellation (R269). -/
def execChildPause (s : State) : Host.Outcome State Fault Refusal := .next (childPause s s.args.n)
/-- A die holds issue for a ck (R17). -/
def execIssueHold (s : State) : Host.Outcome State Fault Refusal := .next (holdIssue s (s.args.n % 8))

end Sys2Proof.Machine
end

