-- ==== Sys2Proof/Machine/MatrixForms.lean ====
section
/-! DEFINITION. What the slots of the X and K classes do: one definition for each row of the opcode table, each the row's form run
with its meaning (spec/12_matrix.md, spec/13_windows.md). -/

namespace Sys2Proof.Machine

/-- MXDEF. -/
def execMxdef (w : Slot) (s : State) : Host.Outcome State Fault Refusal :=
  runSlot formMxdef 5 w xMxdef s

/-- MXDEF_REL. -/
def execMxdefRel (w : Slot) (s : State) : Host.Outcome State Fault Refusal :=
  runSlot formMxdefRel 5 w xMxdef s

/-- MXCALL. -/
def execMxcall (w : Slot) (s : State) : Host.Outcome State Fault Refusal :=
  runSlot formMxcall 5 w xMxcall s

/-- MXPARM. -/
def execMxparm (w : Slot) (s : State) : Host.Outcome State Fault Refusal :=
  runSlot formMxparm 5 w xMxparm s

/-- MXACC. -/
def execMxacc (w : Slot) (s : State) : Host.Outcome State Fault Refusal :=
  runSlot formMxacc 5 w xMxacc s

/-- MXZERO. -/
def execMxzero (w : Slot) (s : State) : Host.Outcome State Fault Refusal :=
  runSlot formMxzero 5 w xMxzero s

/-- KSET. -/
def execKset (w : Slot) (s : State) : Host.Outcome State Fault Refusal :=
  runSlot formKset 6 w kSet s

/-- KLD. -/
def execKld (w : Slot) (s : State) : Host.Outcome State Fault Refusal :=
  runSlot formKld 6 w kLd s

end Sys2Proof.Machine
end

