-- ==== Sys2Proof/Machine/MemoryForms.lean ====
section
/-! DEFINITION. What the slots of the M class do: one definition for each row of the opcode table, each the row's form run
with its meaning (spec/09_memory_instr.md, spec/10_memory_model.md). -/

namespace Sys2Proof.Machine

/-- LD_B8. -/
def execLdB8 (w : Slot) (s : State) : Host.Outcome State Fault Refusal :=
  runSlot formLdB8 3 w (mLoad formLdB8.op 1 false) s

/-- LD_S8. -/
def execLdS8 (w : Slot) (s : State) : Host.Outcome State Fault Refusal :=
  runSlot formLdS8 3 w (mLoad formLdS8.op 1 true) s

/-- LD_B16. -/
def execLdB16 (w : Slot) (s : State) : Host.Outcome State Fault Refusal :=
  runSlot formLdB16 3 w (mLoad formLdB16.op 2 false) s

/-- LD_S16. -/
def execLdS16 (w : Slot) (s : State) : Host.Outcome State Fault Refusal :=
  runSlot formLdS16 3 w (mLoad formLdS16.op 2 true) s

/-- LD_B32. -/
def execLdB32 (w : Slot) (s : State) : Host.Outcome State Fault Refusal :=
  runSlot formLdB32 3 w (mLoad formLdB32.op 4 false) s

/-- LD_B64. -/
def execLdB64 (w : Slot) (s : State) : Host.Outcome State Fault Refusal :=
  runSlot formLdB64 3 w (mLoad formLdB64.op 8 false) s

/-- ST_B8. -/
def execStB8 (w : Slot) (s : State) : Host.Outcome State Fault Refusal :=
  runSlot formStB8 3 w (mStore formStB8.op 1) s

/-- ST_B16. -/
def execStB16 (w : Slot) (s : State) : Host.Outcome State Fault Refusal :=
  runSlot formStB16 3 w (mStore formStB16.op 2) s

/-- ST_B32. -/
def execStB32 (w : Slot) (s : State) : Host.Outcome State Fault Refusal :=
  runSlot formStB32 3 w (mStore formStB32.op 4) s

/-- ST_B64. -/
def execStB64 (w : Slot) (s : State) : Host.Outcome State Fault Refusal :=
  runSlot formStB64 3 w (mStore formStB64.op 8) s

/-- LDS_B8. -/
def execLdsB8 (w : Slot) (s : State) : Host.Outcome State Fault Refusal :=
  runSlot formLdsB8 3 w (mSpecLoad 1 false) s

/-- LDS_S8. -/
def execLdsS8 (w : Slot) (s : State) : Host.Outcome State Fault Refusal :=
  runSlot formLdsS8 3 w (mSpecLoad 1 true) s

/-- LDS_B16. -/
def execLdsB16 (w : Slot) (s : State) : Host.Outcome State Fault Refusal :=
  runSlot formLdsB16 3 w (mSpecLoad 2 false) s

/-- LDS_S16. -/
def execLdsS16 (w : Slot) (s : State) : Host.Outcome State Fault Refusal :=
  runSlot formLdsS16 3 w (mSpecLoad 2 true) s

/-- LDS_B32. -/
def execLdsB32 (w : Slot) (s : State) : Host.Outcome State Fault Refusal :=
  runSlot formLdsB32 3 w (mSpecLoad 4 false) s

/-- LDS_B64. -/
def execLdsB64 (w : Slot) (s : State) : Host.Outcome State Fault Refusal :=
  runSlot formLdsB64 3 w (mSpecLoad 8 false) s

/-- LDP_B8. -/
def execLdpB8 (w : Slot) (s : State) : Host.Outcome State Fault Refusal :=
  runSlot formLdpB8 3 w (mPondLoad formLdpB8.op 1 false) s

/-- LDP_S8. -/
def execLdpS8 (w : Slot) (s : State) : Host.Outcome State Fault Refusal :=
  runSlot formLdpS8 3 w (mPondLoad formLdpS8.op 1 true) s

/-- LDP_B16. -/
def execLdpB16 (w : Slot) (s : State) : Host.Outcome State Fault Refusal :=
  runSlot formLdpB16 3 w (mPondLoad formLdpB16.op 2 false) s

/-- LDP_S16. -/
def execLdpS16 (w : Slot) (s : State) : Host.Outcome State Fault Refusal :=
  runSlot formLdpS16 3 w (mPondLoad formLdpS16.op 2 true) s

/-- LDP_B32. -/
def execLdpB32 (w : Slot) (s : State) : Host.Outcome State Fault Refusal :=
  runSlot formLdpB32 3 w (mPondLoad formLdpB32.op 4 false) s

/-- LDP_B64. -/
def execLdpB64 (w : Slot) (s : State) : Host.Outcome State Fault Refusal :=
  runSlot formLdpB64 3 w (mPondLoad formLdpB64.op 8 false) s

/-- STP_B8. -/
def execStpB8 (w : Slot) (s : State) : Host.Outcome State Fault Refusal :=
  runSlot formStpB8 3 w (mPondStore formStpB8.op 1) s

/-- STP_B16. -/
def execStpB16 (w : Slot) (s : State) : Host.Outcome State Fault Refusal :=
  runSlot formStpB16 3 w (mPondStore formStpB16.op 2) s

/-- STP_B32. -/
def execStpB32 (w : Slot) (s : State) : Host.Outcome State Fault Refusal :=
  runSlot formStpB32 3 w (mPondStore formStpB32.op 4) s

/-- STP_B64. -/
def execStpB64 (w : Slot) (s : State) : Host.Outcome State Fault Refusal :=
  runSlot formStpB64 3 w (mPondStore formStpB64.op 8) s

/-- LDT. -/
def execLdt (w : Slot) (s : State) : Host.Outcome State Fault Refusal :=
  runSlot formLdt 3 w (mTensor false formLdt.op) s

/-- STT. -/
def execStt (w : Slot) (s : State) : Host.Outcome State Fault Refusal :=
  runSlot formStt 3 w (mTensor true formStt.op) s

/-- FENCE. -/
def execFence (w : Slot) (s : State) : Host.Outcome State Fault Refusal :=
  runSlot formFence 3 w mFence s

/-- DRAIN. -/
def execDrain (w : Slot) (s : State) : Host.Outcome State Fault Refusal :=
  runSlot formDrain 3 w mDrain s

/-- PREF. -/
def execPref (w : Slot) (s : State) : Host.Outcome State Fault Refusal :=
  runSlot formPref 3 w mPref s

/-- ATOM_ADD. -/
def execAtomAdd (w : Slot) (s : State) : Host.Outcome State Fault Refusal :=
  runSlot formAtomAdd 3 w (mAtom formAtomAdd.op .add 4) s

/-- ATOM_MIN_S. -/
def execAtomMinS (w : Slot) (s : State) : Host.Outcome State Fault Refusal :=
  runSlot formAtomMinS 3 w (mAtom formAtomMinS.op .minS 4) s

/-- ATOM_MIN_U. -/
def execAtomMinU (w : Slot) (s : State) : Host.Outcome State Fault Refusal :=
  runSlot formAtomMinU 3 w (mAtom formAtomMinU.op .minU 4) s

/-- ATOM_MAX_S. -/
def execAtomMaxS (w : Slot) (s : State) : Host.Outcome State Fault Refusal :=
  runSlot formAtomMaxS 3 w (mAtom formAtomMaxS.op .maxS 4) s

/-- ATOM_MAX_U. -/
def execAtomMaxU (w : Slot) (s : State) : Host.Outcome State Fault Refusal :=
  runSlot formAtomMaxU 3 w (mAtom formAtomMaxU.op .maxU 4) s

/-- ATOM_AND. -/
def execAtomAnd (w : Slot) (s : State) : Host.Outcome State Fault Refusal :=
  runSlot formAtomAnd 3 w (mAtom formAtomAnd.op .and 4) s

/-- ATOM_OR. -/
def execAtomOr (w : Slot) (s : State) : Host.Outcome State Fault Refusal :=
  runSlot formAtomOr 3 w (mAtom formAtomOr.op .or 4) s

/-- ATOM_XOR. -/
def execAtomXor (w : Slot) (s : State) : Host.Outcome State Fault Refusal :=
  runSlot formAtomXor 3 w (mAtom formAtomXor.op .xor 4) s

/-- ATOM_EXCH. -/
def execAtomExch (w : Slot) (s : State) : Host.Outcome State Fault Refusal :=
  runSlot formAtomExch 3 w (mAtom formAtomExch.op .exch 4) s

/-- ATOM_ADD_B64. -/
def execAtomAddB64 (w : Slot) (s : State) : Host.Outcome State Fault Refusal :=
  runSlot formAtomAddB64 3 w (mAtom formAtomAddB64.op .add 8) s

/-- ATOM_EXCH_B64. -/
def execAtomExchB64 (w : Slot) (s : State) : Host.Outcome State Fault Refusal :=
  runSlot formAtomExchB64 3 w (mAtom formAtomExchB64.op .exch 8) s

/-- ATOM_FADD_F32. -/
def execAtomFaddF32 (w : Slot) (s : State) : Host.Outcome State Fault Refusal :=
  runSlot formAtomFaddF32 3 w (mAtom formAtomFaddF32.op .fadd 4) s

/-- ATOM_FMIN_F32. -/
def execAtomFminF32 (w : Slot) (s : State) : Host.Outcome State Fault Refusal :=
  runSlot formAtomFminF32 3 w (mAtom formAtomFminF32.op .fmin 4) s

/-- ATOM_FMAX_F32. -/
def execAtomFmaxF32 (w : Slot) (s : State) : Host.Outcome State Fault Refusal :=
  runSlot formAtomFmaxF32 3 w (mAtom formAtomFmaxF32.op .fmax 4) s

/-- ATOMC_B32. -/
def execAtomcB32 (w : Slot) (s : State) : Host.Outcome State Fault Refusal :=
  runSlot formAtomcB32 3 w (mAtomc formAtomcB32.op 4) s

/-- ATOMC_B64. -/
def execAtomcB64 (w : Slot) (s : State) : Host.Outcome State Fault Refusal :=
  runSlot formAtomcB64 3 w (mAtomc formAtomcB64.op 8) s

/-- FIFOPUSH. -/
def execFifopush (w : Slot) (s : State) : Host.Outcome State Fault Refusal :=
  runSlot formFifopush 3 w mFifoPush s

/-- FIFOPOP. -/
def execFifopop (w : Slot) (s : State) : Host.Outcome State Fault Refusal :=
  runSlot formFifopop 3 w mFifoPop s

end Sys2Proof.Machine
end

