-- ==== Sys2Proof/Machine/QueueForms.lean ====
section
/-! DEFINITION. Queues' commands, doorbells and packets (spec/05_queue.md, spec/06_kernel.md): one definition per row. -/

namespace Sys2Proof.Machine

/-- QCTL with BIND (R96, R99). -/
def execQueueBind (s : State) : Host.Outcome State Fault Refusal := .next (qctlCommand s (argQueue s) s.args.v queueBind)
/-- QCTL with UNBIND (R99). -/
def execQueueUnbind (s : State) : Host.Outcome State Fault Refusal := .next (qctlCommand s (argQueue s) s.args.v queueUnbind)
/-- QCTL with SUSPEND (R99). -/
def execQueueSuspend (s : State) : Host.Outcome State Fault Refusal := .next (qctlCommand s (argQueue s) s.args.v queueSuspend)
/-- QCTL with RESUME (R99). -/
def execQueueResume (s : State) : Host.Outcome State Fault Refusal := .next (qctlCommand s (argQueue s) s.args.v queueResume)
/-- QCTL with RESET (R99). -/
def execQueueReset (s : State) : Host.Outcome State Fault Refusal := .next (qctlCommand s (argQueue s) s.args.v queueReset)
/-- A write of QDOOR (R97). -/
def execQdoorWrite (s : State) : Host.Outcome State Fault Refusal := .next (doorbell s (argQueue s) (argLaunch s))
/-- A read of QFAULT (R95). -/
def execQfaultRead (s : State) : Host.Outcome State Fault Refusal := .next (qfaultRead s (argQueue s))
/-- NOP packet (R102). -/
def execNop (s : State) : Host.Outcome State Fault Refusal := .next (packetNop s)
/-- LAUNCH packet (R114, R118). -/
def execLaunch (s : State) : Host.Outcome State Fault Refusal := .next (packetLaunch s)
/-- BLOCKLAUNCH packet (R335). -/
def execBlocklaunch (s : State) : Host.Outcome State Fault Refusal := .next (packetBlocklaunch s)
/-- WAITMEM packet (R104). -/
def execWaitmem (s : State) : Host.Outcome State Fault Refusal := .next (packetWaitmem s)
/-- A blocked WAITMEM polls (R104). -/
def execWaitmemSatisfied (s : State) : Host.Outcome State Fault Refusal := .next (waitmemAgain s (argQueue s))
/-- SIGNAL packet (R104). -/
def execSignal (s : State) : Host.Outcome State Fault Refusal := .next (packetSignal s)
/-- DEPEND packet (R106). -/
def execDepend (s : State) : Host.Outcome State Fault Refusal := .next (packetDepend s)
/-- INDIRECT packet (R105). -/
def execIndirect (s : State) : Host.Outcome State Fault Refusal := .next (packetIndirect s)
/-- PRESENT packet (R442). -/
def execPresent (s : State) : Host.Outcome State Fault Refusal := .next (packetPresent s)
/-- CAPSTART packet (R486). -/
def execCapstart (s : State) : Host.Outcome State Fault Refusal := .next (packetCapstart s)
/-- CAPSTOP packet (R487). -/
def execCapstop (s : State) : Host.Outcome State Fault Refusal := .next (packetCapstop s)
/-- RQCONF packet, configure (R109). -/
def execRqconfConfigure (s : State) : Host.Outcome State Fault Refusal := .next (packetRqConfigure s)
/-- RQCONF packet, flush (R111). -/
def execRqconfFlush (s : State) : Host.Outcome State Fault Refusal := .next (packetRqFlush s)
/-- RQCONF packet, tear down (R109). -/
def execRqconfTearDown (s : State) : Host.Outcome State Fault Refusal := .next (packetRqTearDown s)
/-- The queue engine serves what it owes (R107, R108, R128). -/
def execSuccessorEnqueue (s : State) : Host.Outcome State Fault Refusal := .next (serveOwed s)
/-- A checked launch is admitted when it fits (R123, R127). -/
def execKernelAdmit (s : State) : Host.Outcome State Fault Refusal := .next (admitKernel s (argQueue s))
/-- The next set of a kernel is born, or a saved set is re-injected (R121, R395). -/
def execSetBirth (s : State) : Host.Outcome State Fault Refusal := .next (if s.args.m = 1 then resumeImage s (argCtx s) else setBirth s (argCtx s) (argLaunch s))

end Sys2Proof.Machine
end

