-- ==== Sys2Proof/Machine/ScanlineForms.lean ====
section
/-! DEFINITION. What each slot of a scanline word does in the open word (spec/20_scanline_isa.md R453-R465): one definition per
row of the opcode table. -/

namespace Sys2Proof.Machine

/-- ADD, slots A and B (R454). -/
def execSlAdd (s : State) : Host.Outcome State Fault Refusal := runSl (slInt2 (· + ·)) s
/-- SUB. -/
def execSlSub (s : State) : Host.Outcome State Fault Refusal := runSl (slInt2 (· - ·)) s
/-- AND. -/
def execSlAnd (s : State) : Host.Outcome State Fault Refusal := runSl (slInt2 (· &&& ·)) s
/-- OR. -/
def execSlOr (s : State) : Host.Outcome State Fault Refusal := runSl (slInt2 (· ||| ·)) s
/-- XOR. -/
def execSlXor (s : State) : Host.Outcome State Fault Refusal := runSl (slInt2 (· ^^^ ·)) s
/-- SHL. -/
def execSlShl (s : State) : Host.Outcome State Fault Refusal := runSl (slInt2 shl) s
/-- SHR. -/
def execSlShr (s : State) : Host.Outcome State Fault Refusal := runSl (slInt2 shr) s
/-- SAR. -/
def execSlSar (s : State) : Host.Outcome State Fault Refusal := runSl (slInt2 sar) s
/-- MIN. -/
def execSlMin (s : State) : Host.Outcome State Fault Refusal := runSl (slInt2 minS) s
/-- MAX. -/
def execSlMax (s : State) : Host.Outcome State Fault Refusal := runSl (slInt2 maxS) s
/-- SLT. -/
def execSlSlt (s : State) : Host.Outcome State Fault Refusal := runSl (slInt2 fun x y => if x.slt y then 1 else 0) s
/-- SEQ. -/
def execSlSeq (s : State) : Host.Outcome State Fault Refusal := runSl (slInt2 fun x y => if x = y then 1 else 0) s
/-- ADDI, slots A and B. -/
def execSlAddi (s : State) : Host.Outcome State Fault Refusal := runSl (mSlAddi) s
/-- MOVI, slots A and B. -/
def execSlMovi (s : State) : Host.Outcome State Fault Refusal := runSl (mSlMovi) s
/-- MOVL, slots A and B. -/
def execSlMovl (s : State) : Host.Outcome State Fault Refusal := runSl (mSlMovl) s
/-- FADD, slots A and B (R455). -/
def execSlFadd (s : State) : Host.Outcome State Fault Refusal := runSl (slF2 (fadd binary32 0)) s
/-- FSUB. -/
def execSlFsub (s : State) : Host.Outcome State Fault Refusal := runSl (slF2 (fsub binary32 0)) s
/-- FMIN. -/
def execSlFmin (s : State) : Host.Outcome State Fault Refusal := runSl (slF2 (fminmax false binary32)) s
/-- FMAX. -/
def execSlFmax (s : State) : Host.Outcome State Fault Refusal := runSl (slF2 (fminmax true binary32)) s
/-- FSLT. -/
def execSlFslt (s : State) : Host.Outcome State Fault Refusal := runSl (mSlFslt) s
/-- F2I. -/
def execSlF2i (s : State) : Host.Outcome State Fault Refusal := runSl (slPure fun c => slF2i (f32 c.rx)) s
/-- I2F. -/
def execSlI2f (s : State) : Host.Outcome State Fault Refusal := runSl (slPure fun c => slI2f c.rx) s
/-- F2H. -/
def execSlF2h (s : State) : Host.Outcome State Fault Refusal := runSl (slPure fun c => slF2h c.rx c.ry) s
/-- H2FL. -/
def execSlH2fl (s : State) : Host.Outcome State Fault Refusal := runSl (slPure fun c => slH2f c.rx.toNat) s
/-- H2FH. -/
def execSlH2fh (s : State) : Host.Outcome State Fault Refusal := runSl (slPure fun c => slH2f (c.rx.toNat / 65536)) s
/-- FMUL, slot M. -/
def execSlFmul (s : State) : Host.Outcome State Fault Refusal := runSl (slF2 (fmul binary32 0)) s
/-- FFMA. -/
def execSlFfma (s : State) : Host.Outcome State Fault Refusal := runSl (mSlFfma) s
/-- FDIV. -/
def execSlFdiv (s : State) : Host.Outcome State Fault Refusal := runSl (slF2 (fdiv binary32 0)) s
/-- FRCP. -/
def execSlFrcp (s : State) : Host.Outcome State Fault Refusal := runSl (slF1 (frcp binary32 0)) s
/-- FSQRT. -/
def execSlFsqrt (s : State) : Host.Outcome State Fault Refusal := runSl (slF1 (fsqrt binary32 0)) s
/-- FADD, slot M. -/
def execSlMFadd (s : State) : Host.Outcome State Fault Refusal := runSl (slF2 (fadd binary32 0)) s
/-- FSUB, slot M. -/
def execSlMFsub (s : State) : Host.Outcome State Fault Refusal := runSl (slF2 (fsub binary32 0)) s
/-- IMUL (R454). -/
def execSlImul (s : State) : Host.Outcome State Fault Refusal := runSl (slInt2 (· * ·)) s
/-- MOVI, slot M. -/
def execSlMMovi (s : State) : Host.Outcome State Fault Refusal := runSl (mSlMovi) s
/-- MOVL, slot M. -/
def execSlMMovl (s : State) : Host.Outcome State Fault Refusal := runSl (mSlMovl) s
/-- LDW (R456). -/
def execSlLdw (s : State) : Host.Outcome State Fault Refusal := runSl (mSlLdw) s
/-- STW (R456). -/
def execSlStw (s : State) : Host.Outcome State Fault Refusal := runSl (mSlStw) s
/-- OUT (R457). -/
def execSlOut (s : State) : Host.Outcome State Fault Refusal := runSl (mSlOut) s
/-- ADD, slot L. -/
def execSlLAdd (s : State) : Host.Outcome State Fault Refusal := runSl (slInt2 (· + ·)) s
/-- ADDI, slot L. -/
def execSlLAddi (s : State) : Host.Outcome State Fault Refusal := runSl (mSlAddi) s
/-- MOVI, slot L. -/
def execSlLMovi (s : State) : Host.Outcome State Fault Refusal := runSl (mSlMovi) s
/-- MOVL, slot L. -/
def execSlLMovl (s : State) : Host.Outcome State Fault Refusal := runSl (mSlMovl) s
/-- SAMP.bl (R458). -/
def execSlSampBl (s : State) : Host.Outcome State Fault Refusal := runSl (slSample true) s
/-- SAMP.pt (R458). -/
def execSlSampPt (s : State) : Host.Outcome State Fault Refusal := runSl (slSample false) s
/-- XFER.a (R459). -/
def execSlXferA (s : State) : Host.Outcome State Fault Refusal := runSl (slXfer 0) s
/-- XFER.b. -/
def execSlXferB (s : State) : Host.Outcome State Fault Refusal := runSl (slXfer 1) s
/-- XFER.m. -/
def execSlXferM (s : State) : Host.Outcome State Fault Refusal := runSl (slXfer 2) s
/-- XFER.l. -/
def execSlXferL (s : State) : Host.Outcome State Fault Refusal := runSl (slXfer 3) s
/-- XFER.w. -/
def execSlXferW (s : State) : Host.Outcome State Fault Refusal := runSl (slXfer 4) s
/-- XFER.c. -/
def execSlXferC (s : State) : Host.Outcome State Fault Refusal := runSl (slXfer 5) s
/-- BR (R460). -/
def execSlBr (s : State) : Host.Outcome State Fault Refusal := runSl (mSlBr) s
/-- BRNZ. -/
def execSlBrnz (s : State) : Host.Outcome State Fault Refusal := runSl (slBranch false) s
/-- BRZ. -/
def execSlBrz (s : State) : Host.Outcome State Fault Refusal := runSl (slBranch true) s
/-- WAIT (R461). -/
def execSlWait (s : State) : Host.Outcome State Fault Refusal := runSl (slWaitMode 0) s
/-- WAIT.mb. -/
def execSlWaitMb (s : State) : Host.Outcome State Fault Refusal := runSl (slWaitMode 1) s
/-- WAIT.fr. -/
def execSlWaitFr (s : State) : Host.Outcome State Fault Refusal := runSl (slWaitMode 2) s
/-- WAIT.fifo. -/
def execSlWaitFifo (s : State) : Host.Outcome State Fault Refusal := runSl (slWaitMode 3) s
/-- FETCH (R462). -/
def execSlFetch (s : State) : Host.Outcome State Fault Refusal := runSl (mSlFetch) s
/-- OXCALL (R465). -/
def execSlOxcall (s : State) : Host.Outcome State Fault Refusal := runSl (mSlOxcall) s
/-- POSE (R463). -/
def execSlPose (s : State) : Host.Outcome State Fault Refusal := runSl (mSlPose) s
/-- SYS (R463). -/
def execSlSys (s : State) : Host.Outcome State Fault Refusal := runSl (mSlSys) s
/-- MOVI, slot C. -/
def execSlCMovi (s : State) : Host.Outcome State Fault Refusal := runSl (mSlMovi) s
/-- MOVL, slot C. -/
def execSlCMovl (s : State) : Host.Outcome State Fault Refusal := runSl (mSlMovl) s
/-- ADDI, slot C. -/
def execSlCAddi (s : State) : Host.Outcome State Fault Refusal := runSl (mSlAddi) s
/-- DONE (R464). -/
def execSlDone (s : State) : Host.Outcome State Fault Refusal := runSl (mSlDone) s

end Sys2Proof.Machine
end

