-- ==== Sys2Proof/Machine/SystemForms.lean ====
section
/-! DEFINITION. What the slots of the Z class do: one definition for each row of the opcode table, each the row's form run
with its meaning (spec/15_barrier.md, spec/17_traps.md). -/

namespace Sys2Proof.Machine

/-- BAR. -/
def execBar (w : Slot) (s : State) : Host.Outcome State Fault Refusal :=
  runSlot formBar 10 w (zBar 0) s

/-- BAR_ARRIVE. -/
def execBarArrive (w : Slot) (s : State) : Host.Outcome State Fault Refusal :=
  runSlot formBarArrive 10 w (zBar 1) s

/-- BAR_WAIT. -/
def execBarWait (w : Slot) (s : State) : Host.Outcome State Fault Refusal :=
  runSlot formBarWait 10 w (zBar 2) s

/-- BARB_INIT. -/
def execBarbInit (w : Slot) (s : State) : Host.Outcome State Fault Refusal :=
  runSlot formBarbInit 10 w (zBarb 0) s

/-- BARB_EXPECT. -/
def execBarbExpect (w : Slot) (s : State) : Host.Outcome State Fault Refusal :=
  runSlot formBarbExpect 10 w (zBarb 1) s

/-- BARB_ARRIVE. -/
def execBarbArrive (w : Slot) (s : State) : Host.Outcome State Fault Refusal :=
  runSlot formBarbArrive 10 w (zBarb 2) s

/-- BARB_WAIT. -/
def execBarbWait (w : Slot) (s : State) : Host.Outcome State Fault Refusal :=
  runSlot formBarbWait 10 w (zBarb 3) s

/-- RBREL. -/
def execRbrel (w : Slot) (s : State) : Host.Outcome State Fault Refusal :=
  runSlot formRbrel 10 w zRbrel s

/-- RBCLAIM. -/
def execRbclaim (w : Slot) (s : State) : Host.Outcome State Fault Refusal :=
  runSlot formRbclaim 10 w zRbclaim s

/-- TRAP. -/
def execTrap (w : Slot) (s : State) : Host.Outcome State Fault Refusal :=
  runSlot formTrap 10 w zTrap s

/-- RTE. -/
def execRte (w : Slot) (s : State) : Host.Outcome State Fault Refusal :=
  runSlot formRte 10 w (zRte false) s

/-- RTE_SKIP. -/
def execRteSkip (w : Slot) (s : State) : Host.Outcome State Fault Refusal :=
  runSlot formRteSkip 10 w (zRte true) s

/-- BANKMODE. -/
def execBankmode (w : Slot) (s : State) : Host.Outcome State Fault Refusal :=
  runSlot formBankmode 10 w zBankmode s

/-- PRPUB. -/
def execPrpub (w : Slot) (s : State) : Host.Outcome State Fault Refusal :=
  runSlot formPrpub 10 w zPrpub s

/-- POSEW. -/
def execPosew (w : Slot) (s : State) : Host.Outcome State Fault Refusal :=
  runSlot formPosew 10 w zPosew s

/-- TRACEMARK. -/
def execTracemark (w : Slot) (s : State) : Host.Outcome State Fault Refusal :=
  runSlot formTracemark 10 w zTracemark s

/-- BRK. -/
def execBrk (w : Slot) (s : State) : Host.Outcome State Fault Refusal :=
  runSlot formBrk 10 w zBrk s

/-- WAITEVT. -/
def execWaitevt (w : Slot) (s : State) : Host.Outcome State Fault Refusal :=
  runSlot formWaitevt 10 w zWaitevt s

/-- ENRD. -/
def execEnrd (w : Slot) (s : State) : Host.Outcome State Fault Refusal :=
  runSlot formEnrd 10 w zEnrd s

end Sys2Proof.Machine
end

