-- ==== Sys2Proof/Machine/UniformForms.lean ====
section
/-! DEFINITION. What the slots of the U class do: one definition for each row of the opcode table, each the row's form run
with its meaning (spec/08_arith.md). -/

namespace Sys2Proof.Machine

/-- UADD. -/
def execUadd (w : Slot) (s : State) : Host.Outcome State Fault Refusal :=
  runSlot formUadd 0 w (uAddSub addCarry addSat) s

/-- USUB. -/
def execUsub (w : Slot) (s : State) : Host.Outcome State Fault Refusal :=
  runSlot formUsub 0 w (uAddSub subBorrow subSat) s

/-- UMUL. -/
def execUmul (w : Slot) (s : State) : Host.Outcome State Fault Refusal :=
  runSlot formUmul 0 w uMul s

/-- UMULH_S. -/
def execUmulhS (w : Slot) (s : State) : Host.Outcome State Fault Refusal :=
  runSlot formUmulhS 0 w (uBinary false mulhS) s

/-- UMULH_U. -/
def execUmulhU (w : Slot) (s : State) : Host.Outcome State Fault Refusal :=
  runSlot formUmulhU 0 w (uBinary false mulhU) s

/-- UAND. -/
def execUand (w : Slot) (s : State) : Host.Outcome State Fault Refusal :=
  runSlot formUand 0 w (uBinary false (· &&& ·)) s

/-- UOR. -/
def execUor (w : Slot) (s : State) : Host.Outcome State Fault Refusal :=
  runSlot formUor 0 w (uBinary false (· ||| ·)) s

/-- UXOR. -/
def execUxor (w : Slot) (s : State) : Host.Outcome State Fault Refusal :=
  runSlot formUxor 0 w (uBinary false (· ^^^ ·)) s

/-- USHL. -/
def execUshl (w : Slot) (s : State) : Host.Outcome State Fault Refusal :=
  runSlot formUshl 0 w (uBinary true shl) s

/-- USHR. -/
def execUshr (w : Slot) (s : State) : Host.Outcome State Fault Refusal :=
  runSlot formUshr 0 w (uBinary true shr) s

/-- USAR. -/
def execUsar (w : Slot) (s : State) : Host.Outcome State Fault Refusal :=
  runSlot formUsar 0 w (uBinary true sar) s

/-- UMIN_S. -/
def execUminS (w : Slot) (s : State) : Host.Outcome State Fault Refusal :=
  runSlot formUminS 0 w (uBinary false minS) s

/-- UMIN_U. -/
def execUminU (w : Slot) (s : State) : Host.Outcome State Fault Refusal :=
  runSlot formUminU 0 w (uBinary false minU) s

/-- UMAX_S. -/
def execUmaxS (w : Slot) (s : State) : Host.Outcome State Fault Refusal :=
  runSlot formUmaxS 0 w (uBinary false maxS) s

/-- UMAX_U. -/
def execUmaxU (w : Slot) (s : State) : Host.Outcome State Fault Refusal :=
  runSlot formUmaxU 0 w (uBinary false maxU) s

/-- UCMP_S. -/
def execUcmpS (w : Slot) (s : State) : Host.Outcome State Fault Refusal :=
  runSlot formUcmpS 0 w (uCmp true) s

/-- UCMP_U. -/
def execUcmpU (w : Slot) (s : State) : Host.Outcome State Fault Refusal :=
  runSlot formUcmpU 0 w (uCmp false) s

/-- USEL. -/
def execUsel (w : Slot) (s : State) : Host.Outcome State Fault Refusal :=
  runSlot formUsel 0 w uSel s

/-- UMOV. -/
def execUmov (w : Slot) (s : State) : Host.Outcome State Fault Refusal :=
  runSlot formUmov 0 w uMov s

/-- UMOV_IMM. -/
def execUmovImm (w : Slot) (s : State) : Host.Outcome State Fault Refusal :=
  runSlot formUmovImm 0 w uMovImm s

/-- UMOV_HI. -/
def execUmovHi (w : Slot) (s : State) : Host.Outcome State Fault Refusal :=
  runSlot formUmovHi 0 w uMovHi s

/-- UMOVW. -/
def execUmovw (w : Slot) (s : State) : Host.Outcome State Fault Refusal :=
  runSlot formUmovw 0 w uMovw s

/-- ULDX. -/
def execUldx (w : Slot) (s : State) : Host.Outcome State Fault Refusal :=
  runSlot formUldx 0 w uLdx s

/-- USTX. -/
def execUstx (w : Slot) (s : State) : Host.Outcome State Fault Refusal :=
  runSlot formUstx 0 w uStx s

/-- UPOPC. -/
def execUpopc (w : Slot) (s : State) : Host.Outcome State Fault Refusal :=
  runSlot formUpopc 0 w (uUnary popc) s

/-- UCLZ. -/
def execUclz (w : Slot) (s : State) : Host.Outcome State Fault Refusal :=
  runSlot formUclz 0 w (uUnary clz) s

/-- UBFX. -/
def execUbfx (w : Slot) (s : State) : Host.Outcome State Fault Refusal :=
  runSlot formUbfx 0 w (uBinary true bfx) s

/-- UBFI. -/
def execUbfi (w : Slot) (s : State) : Host.Outcome State Fault Refusal :=
  runSlot formUbfi 0 w uBfi s

/-- URDS. -/
def execUrds (w : Slot) (s : State) : Host.Outcome State Fault Refusal :=
  runSlot formUrds 0 w uRds s

/-- UWRS. -/
def execUwrs (w : Slot) (s : State) : Host.Outcome State Fault Refusal :=
  runSlot formUwrs 0 w uWrs s

end Sys2Proof.Machine
end

