-- ==== Sys2Proof/Machine/VectorForms.lean ====
section
/-! DEFINITION. What the slots of the integer, predicate and lane-exchange forms of VA and VB do: one definition for each row of the opcode table, each the row's form run
with its meaning (spec/08_arith.md). -/

namespace Sys2Proof.Machine

/-- VADD. -/
def execVadd (u : VUnit) (w : Slot) (s : State) : Host.Outcome State Fault Refusal :=
  runSlot formVadd (vClass u) w (vAddSub addCarry addSat) s

/-- VSUB. -/
def execVsub (u : VUnit) (w : Slot) (s : State) : Host.Outcome State Fault Refusal :=
  runSlot formVsub (vClass u) w (vAddSub subBorrow subSat) s

/-- VMUL. -/
def execVmul (u : VUnit) (w : Slot) (s : State) : Host.Outcome State Fault Refusal :=
  runSlot formVmul (vClass u) w vMul s

/-- VMULH_S. -/
def execVmulhS (u : VUnit) (w : Slot) (s : State) : Host.Outcome State Fault Refusal :=
  runSlot formVmulhS (vClass u) w (vBinary false mulhS) s

/-- VMULH_U. -/
def execVmulhU (u : VUnit) (w : Slot) (s : State) : Host.Outcome State Fault Refusal :=
  runSlot formVmulhU (vClass u) w (vBinary false mulhU) s

/-- VAND. -/
def execVand (u : VUnit) (w : Slot) (s : State) : Host.Outcome State Fault Refusal :=
  runSlot formVand (vClass u) w (vBinary false (· &&& ·)) s

/-- VOR. -/
def execVor (u : VUnit) (w : Slot) (s : State) : Host.Outcome State Fault Refusal :=
  runSlot formVor (vClass u) w (vBinary false (· ||| ·)) s

/-- VXOR. -/
def execVxor (u : VUnit) (w : Slot) (s : State) : Host.Outcome State Fault Refusal :=
  runSlot formVxor (vClass u) w (vBinary false (· ^^^ ·)) s

/-- VSHL. -/
def execVshl (u : VUnit) (w : Slot) (s : State) : Host.Outcome State Fault Refusal :=
  runSlot formVshl (vClass u) w (vBinary true shl) s

/-- VSHR. -/
def execVshr (u : VUnit) (w : Slot) (s : State) : Host.Outcome State Fault Refusal :=
  runSlot formVshr (vClass u) w (vBinary true shr) s

/-- VSAR. -/
def execVsar (u : VUnit) (w : Slot) (s : State) : Host.Outcome State Fault Refusal :=
  runSlot formVsar (vClass u) w (vBinary true sar) s

/-- VMIN_S. -/
def execVminS (u : VUnit) (w : Slot) (s : State) : Host.Outcome State Fault Refusal :=
  runSlot formVminS (vClass u) w (vBinary false minS) s

/-- VMIN_U. -/
def execVminU (u : VUnit) (w : Slot) (s : State) : Host.Outcome State Fault Refusal :=
  runSlot formVminU (vClass u) w (vBinary false minU) s

/-- VMAX_S. -/
def execVmaxS (u : VUnit) (w : Slot) (s : State) : Host.Outcome State Fault Refusal :=
  runSlot formVmaxS (vClass u) w (vBinary false maxS) s

/-- VMAX_U. -/
def execVmaxU (u : VUnit) (w : Slot) (s : State) : Host.Outcome State Fault Refusal :=
  runSlot formVmaxU (vClass u) w (vBinary false maxU) s

/-- VCLZ. -/
def execVclz (u : VUnit) (w : Slot) (s : State) : Host.Outcome State Fault Refusal :=
  runSlot formVclz (vClass u) w (vUnary clz) s

/-- VPOPC. -/
def execVpopc (u : VUnit) (w : Slot) (s : State) : Host.Outcome State Fault Refusal :=
  runSlot formVpopc (vClass u) w (vUnary popc) s

/-- VBFX. -/
def execVbfx (u : VUnit) (w : Slot) (s : State) : Host.Outcome State Fault Refusal :=
  runSlot formVbfx (vClass u) w (vBinary true bfx) s

/-- VBFI. -/
def execVbfi (u : VUnit) (w : Slot) (s : State) : Host.Outcome State Fault Refusal :=
  runSlot formVbfi (vClass u) w vBfi s

/-- VSEL. -/
def execVsel (u : VUnit) (w : Slot) (s : State) : Host.Outcome State Fault Refusal :=
  runSlot formVsel (vClass u) w vSel s

/-- VCMP_S. -/
def execVcmpS (u : VUnit) (w : Slot) (s : State) : Host.Outcome State Fault Refusal :=
  runSlot formVcmpS (vClass u) w (vCmp true) s

/-- VCMP_U. -/
def execVcmpU (u : VUnit) (w : Slot) (s : State) : Host.Outcome State Fault Refusal :=
  runSlot formVcmpU (vClass u) w (vCmp false) s

/-- PAND. -/
def execPand (u : VUnit) (w : Slot) (s : State) : Host.Outcome State Fault Refusal :=
  runSlot formPand (vClass u) w (pBinary (· && ·)) s

/-- POR. -/
def execPor (u : VUnit) (w : Slot) (s : State) : Host.Outcome State Fault Refusal :=
  runSlot formPor (vClass u) w (pBinary (· || ·)) s

/-- PXOR. -/
def execPxor (u : VUnit) (w : Slot) (s : State) : Host.Outcome State Fault Refusal :=
  runSlot formPxor (vClass u) w (pBinary (· != ·)) s

/-- PNOT. -/
def execPnot (u : VUnit) (w : Slot) (s : State) : Host.Outcome State Fault Refusal :=
  runSlot formPnot (vClass u) w pNot s

/-- VSHUF. -/
def execVshuf (u : VUnit) (w : Slot) (s : State) : Host.Outcome State Fault Refusal :=
  runSlot formVshuf (vClass u) w vShuf s

/-- VBCAST. -/
def execVbcast (u : VUnit) (w : Slot) (s : State) : Host.Outcome State Fault Refusal :=
  runSlot formVbcast (vClass u) w vBcast s

/-- VBCAST_LANE. -/
def execVbcastLane (u : VUnit) (w : Slot) (s : State) : Host.Outcome State Fault Refusal :=
  runSlot formVbcastLane (vClass u) w vBcastLane s

/-- VRED. -/
def execVred (u : VUnit) (w : Slot) (s : State) : Host.Outcome State Fault Refusal :=
  runSlot formVred (vClass u) w vRed s

/-- VVOTE. -/
def execVvote (u : VUnit) (w : Slot) (s : State) : Host.Outcome State Fault Refusal :=
  runSlot formVvote (vClass u) w vVote s

/-- VQDX. -/
def execVqdx (u : VUnit) (w : Slot) (s : State) : Host.Outcome State Fault Refusal :=
  runSlot formVqdx (vClass u) w (vQuad 1) s

/-- VQDY. -/
def execVqdy (u : VUnit) (w : Slot) (s : State) : Host.Outcome State Fault Refusal :=
  runSlot formVqdy (vClass u) w (vQuad 2) s

end Sys2Proof.Machine
end

