-- ==== Sys2Proof/Machine/Dispatch.lean ====
section
/-! DEFINITION. One arm per row of the opcode table, each a direct call of its meaning. -/

namespace Sys2Proof.Machine

/-- What an instruction does to the machine. -/
def exec (i : Instr) (s : State) : Host.Outcome State Fault Refusal :=
  match i with
  | .uadd w => Sys2Proof.Machine.execUadd w s
  | .usub w => Sys2Proof.Machine.execUsub w s
  | .umul w => Sys2Proof.Machine.execUmul w s
  | .umulhS w => Sys2Proof.Machine.execUmulhS w s
  | .umulhU w => Sys2Proof.Machine.execUmulhU w s
  | .uand w => Sys2Proof.Machine.execUand w s
  | .uor w => Sys2Proof.Machine.execUor w s
  | .uxor w => Sys2Proof.Machine.execUxor w s
  | .ushl w => Sys2Proof.Machine.execUshl w s
  | .ushr w => Sys2Proof.Machine.execUshr w s
  | .usar w => Sys2Proof.Machine.execUsar w s
  | .uminS w => Sys2Proof.Machine.execUminS w s
  | .uminU w => Sys2Proof.Machine.execUminU w s
  | .umaxS w => Sys2Proof.Machine.execUmaxS w s
  | .umaxU w => Sys2Proof.Machine.execUmaxU w s
  | .ucmpS w => Sys2Proof.Machine.execUcmpS w s
  | .ucmpU w => Sys2Proof.Machine.execUcmpU w s
  | .usel w => Sys2Proof.Machine.execUsel w s
  | .umov w => Sys2Proof.Machine.execUmov w s
  | .umovImm w => Sys2Proof.Machine.execUmovImm w s
  | .umovHi w => Sys2Proof.Machine.execUmovHi w s
  | .umovw w => Sys2Proof.Machine.execUmovw w s
  | .uldx w => Sys2Proof.Machine.execUldx w s
  | .ustx w => Sys2Proof.Machine.execUstx w s
  | .upopc w => Sys2Proof.Machine.execUpopc w s
  | .uclz w => Sys2Proof.Machine.execUclz w s
  | .ubfx w => Sys2Proof.Machine.execUbfx w s
  | .ubfi w => Sys2Proof.Machine.execUbfi w s
  | .urds w => Sys2Proof.Machine.execUrds w s
  | .uwrs w => Sys2Proof.Machine.execUwrs w s
  | .vadd u w => Sys2Proof.Machine.execVadd u w s
  | .vsub u w => Sys2Proof.Machine.execVsub u w s
  | .vmul u w => Sys2Proof.Machine.execVmul u w s
  | .vmulhS u w => Sys2Proof.Machine.execVmulhS u w s
  | .vmulhU u w => Sys2Proof.Machine.execVmulhU u w s
  | .vand u w => Sys2Proof.Machine.execVand u w s
  | .vor u w => Sys2Proof.Machine.execVor u w s
  | .vxor u w => Sys2Proof.Machine.execVxor u w s
  | .vshl u w => Sys2Proof.Machine.execVshl u w s
  | .vshr u w => Sys2Proof.Machine.execVshr u w s
  | .vsar u w => Sys2Proof.Machine.execVsar u w s
  | .vminS u w => Sys2Proof.Machine.execVminS u w s
  | .vminU u w => Sys2Proof.Machine.execVminU u w s
  | .vmaxS u w => Sys2Proof.Machine.execVmaxS u w s
  | .vmaxU u w => Sys2Proof.Machine.execVmaxU u w s
  | .vclz u w => Sys2Proof.Machine.execVclz u w s
  | .vpopc u w => Sys2Proof.Machine.execVpopc u w s
  | .vbfx u w => Sys2Proof.Machine.execVbfx u w s
  | .vbfi u w => Sys2Proof.Machine.execVbfi u w s
  | .vsel u w => Sys2Proof.Machine.execVsel u w s
  | .vcmpS u w => Sys2Proof.Machine.execVcmpS u w s
  | .vcmpU u w => Sys2Proof.Machine.execVcmpU u w s
  | .fcmpF32 u w => Sys2Proof.Machine.execFcmpF32 u w s
  | .fcmpF64 u w => Sys2Proof.Machine.execFcmpF64 u w s
  | .faddF32 u w => Sys2Proof.Machine.execFaddF32 u w s
  | .fsubF32 u w => Sys2Proof.Machine.execFsubF32 u w s
  | .fmulF32 u w => Sys2Proof.Machine.execFmulF32 u w s
  | .ffmaF32 u w => Sys2Proof.Machine.execFfmaF32 u w s
  | .fminF32 u w => Sys2Proof.Machine.execFminF32 u w s
  | .fmaxF32 u w => Sys2Proof.Machine.execFmaxF32 u w s
  | .fdivF32 u w => Sys2Proof.Machine.execFdivF32 u w s
  | .fsqrtF32 u w => Sys2Proof.Machine.execFsqrtF32 u w s
  | .frcpF32 u w => Sys2Proof.Machine.execFrcpF32 u w s
  | .frsqF32 u w => Sys2Proof.Machine.execFrsqF32 u w s
  | .fexp2F32 u w => Sys2Proof.Machine.execFexp2F32 u w s
  | .flog2F32 u w => Sys2Proof.Machine.execFlog2F32 u w s
  | .fsinF32 u w => Sys2Proof.Machine.execFsinF32 u w s
  | .fcosF32 u w => Sys2Proof.Machine.execFcosF32 u w s
  | .faddF16 u w => Sys2Proof.Machine.execFaddF16 u w s
  | .fsubF16 u w => Sys2Proof.Machine.execFsubF16 u w s
  | .fmulF16 u w => Sys2Proof.Machine.execFmulF16 u w s
  | .ffmaF16 u w => Sys2Proof.Machine.execFfmaF16 u w s
  | .faddF64 u w => Sys2Proof.Machine.execFaddF64 u w s
  | .fsubF64 u w => Sys2Proof.Machine.execFsubF64 u w s
  | .fmulF64 u w => Sys2Proof.Machine.execFmulF64 u w s
  | .ffmaF64 u w => Sys2Proof.Machine.execFfmaF64 u w s
  | .fminF64 u w => Sys2Proof.Machine.execFminF64 u w s
  | .fmaxF64 u w => Sys2Proof.Machine.execFmaxF64 u w s
  | .fdivF64 u w => Sys2Proof.Machine.execFdivF64 u w s
  | .fsqrtF64 u w => Sys2Proof.Machine.execFsqrtF64 u w s
  | .frcpF64 u w => Sys2Proof.Machine.execFrcpF64 u w s
  | .frsqF64 u w => Sys2Proof.Machine.execFrsqF64 u w s
  | .pand u w => Sys2Proof.Machine.execPand u w s
  | .por u w => Sys2Proof.Machine.execPor u w s
  | .pxor u w => Sys2Proof.Machine.execPxor u w s
  | .pnot u w => Sys2Proof.Machine.execPnot u w s
  | .vshuf u w => Sys2Proof.Machine.execVshuf u w s
  | .vbcast u w => Sys2Proof.Machine.execVbcast u w s
  | .vbcastLane u w => Sys2Proof.Machine.execVbcastLane u w s
  | .vred u w => Sys2Proof.Machine.execVred u w s
  | .vvote u w => Sys2Proof.Machine.execVvote u w s
  | .vqdx u w => Sys2Proof.Machine.execVqdx u w s
  | .vqdy u w => Sys2Proof.Machine.execVqdy u w s
  | .ldB8 w => Sys2Proof.Machine.execLdB8 w s
  | .ldS8 w => Sys2Proof.Machine.execLdS8 w s
  | .ldB16 w => Sys2Proof.Machine.execLdB16 w s
  | .ldS16 w => Sys2Proof.Machine.execLdS16 w s
  | .ldB32 w => Sys2Proof.Machine.execLdB32 w s
  | .ldB64 w => Sys2Proof.Machine.execLdB64 w s
  | .stB8 w => Sys2Proof.Machine.execStB8 w s
  | .stB16 w => Sys2Proof.Machine.execStB16 w s
  | .stB32 w => Sys2Proof.Machine.execStB32 w s
  | .stB64 w => Sys2Proof.Machine.execStB64 w s
  | .ldsB8 w => Sys2Proof.Machine.execLdsB8 w s
  | .ldsS8 w => Sys2Proof.Machine.execLdsS8 w s
  | .ldsB16 w => Sys2Proof.Machine.execLdsB16 w s
  | .ldsS16 w => Sys2Proof.Machine.execLdsS16 w s
  | .ldsB32 w => Sys2Proof.Machine.execLdsB32 w s
  | .ldsB64 w => Sys2Proof.Machine.execLdsB64 w s
  | .ldpB8 w => Sys2Proof.Machine.execLdpB8 w s
  | .ldpS8 w => Sys2Proof.Machine.execLdpS8 w s
  | .ldpB16 w => Sys2Proof.Machine.execLdpB16 w s
  | .ldpS16 w => Sys2Proof.Machine.execLdpS16 w s
  | .ldpB32 w => Sys2Proof.Machine.execLdpB32 w s
  | .ldpB64 w => Sys2Proof.Machine.execLdpB64 w s
  | .stpB8 w => Sys2Proof.Machine.execStpB8 w s
  | .stpB16 w => Sys2Proof.Machine.execStpB16 w s
  | .stpB32 w => Sys2Proof.Machine.execStpB32 w s
  | .stpB64 w => Sys2Proof.Machine.execStpB64 w s
  | .ldt w => Sys2Proof.Machine.execLdt w s
  | .stt w => Sys2Proof.Machine.execStt w s
  | .fence w => Sys2Proof.Machine.execFence w s
  | .drain w => Sys2Proof.Machine.execDrain w s
  | .pref w => Sys2Proof.Machine.execPref w s
  | .atomAdd w => Sys2Proof.Machine.execAtomAdd w s
  | .atomMinS w => Sys2Proof.Machine.execAtomMinS w s
  | .atomMinU w => Sys2Proof.Machine.execAtomMinU w s
  | .atomMaxS w => Sys2Proof.Machine.execAtomMaxS w s
  | .atomMaxU w => Sys2Proof.Machine.execAtomMaxU w s
  | .atomAnd w => Sys2Proof.Machine.execAtomAnd w s
  | .atomOr w => Sys2Proof.Machine.execAtomOr w s
  | .atomXor w => Sys2Proof.Machine.execAtomXor w s
  | .atomExch w => Sys2Proof.Machine.execAtomExch w s
  | .atomAddB64 w => Sys2Proof.Machine.execAtomAddB64 w s
  | .atomExchB64 w => Sys2Proof.Machine.execAtomExchB64 w s
  | .atomFaddF32 w => Sys2Proof.Machine.execAtomFaddF32 w s
  | .atomFminF32 w => Sys2Proof.Machine.execAtomFminF32 w s
  | .atomFmaxF32 w => Sys2Proof.Machine.execAtomFmaxF32 w s
  | .atomcB32 w => Sys2Proof.Machine.execAtomcB32 w s
  | .atomcB64 w => Sys2Proof.Machine.execAtomcB64 w s
  | .fifopush w => Sys2Proof.Machine.execFifopush w s
  | .fifopop w => Sys2Proof.Machine.execFifopop w s
  | .grstep w => Sys2Proof.Machine.execGrstep w s
  | .gbox w => Sys2Proof.Machine.execGbox w s
  | .gtri2 w => Sys2Proof.Machine.execGtri2 w s
  | .gcurve w => Sys2Proof.Machine.execGcurve w s
  | .gpsplit w => Sys2Proof.Machine.execGpsplit w s
  | .gpflat w => Sys2Proof.Machine.execGpflat w s
  | .gtex w => Sys2Proof.Machine.execGtex w s
  | .gtexl w => Sys2Proof.Machine.execGtexl w s
  | .gpublish w => Sys2Proof.Machine.execGpublish w s
  | .mxdef w => Sys2Proof.Machine.execMxdef w s
  | .mxdefRel w => Sys2Proof.Machine.execMxdefRel w s
  | .mxcall w => Sys2Proof.Machine.execMxcall w s
  | .mxparm w => Sys2Proof.Machine.execMxparm w s
  | .mxacc w => Sys2Proof.Machine.execMxacc w s
  | .mxzero w => Sys2Proof.Machine.execMxzero w s
  | .kset w => Sys2Proof.Machine.execKset w s
  | .kld w => Sys2Proof.Machine.execKld w s
  | .cvtF64 w => Sys2Proof.Machine.execCvtF64 w s
  | .cvtF32 w => Sys2Proof.Machine.execCvtF32 w s
  | .cvtF16 w => Sys2Proof.Machine.execCvtF16 w s
  | .cvtBf16 w => Sys2Proof.Machine.execCvtBf16 w s
  | .cvtE4m3 w => Sys2Proof.Machine.execCvtE4m3 w s
  | .cvtE5m2 w => Sys2Proof.Machine.execCvtE5m2 w s
  | .cvtI32 w => Sys2Proof.Machine.execCvtI32 w s
  | .cvtI16 w => Sys2Proof.Machine.execCvtI16 w s
  | .cvtI8 w => Sys2Proof.Machine.execCvtI8 w s
  | .cvtI4 w => Sys2Proof.Machine.execCvtI4 w s
  | .cvtUn8 w => Sys2Proof.Machine.execCvtUn8 w s
  | .cvtSrgb8 w => Sys2Proof.Machine.execCvtSrgb8 w s
  | .cvtB1 w => Sys2Proof.Machine.execCvtB1 w s
  | .cvtE8m0 w => Sys2Proof.Machine.execCvtE8m0 w s
  | .cpack w => Sys2Proof.Machine.execCpack w s
  | .cunpack w => Sys2Proof.Machine.execCunpack w s
  | .cpy w => Sys2Proof.Machine.execCpy w s
  | .coll w => Sys2Proof.Machine.execColl w s
  | .twait w => Sys2Proof.Machine.execTwait w s
  | .ttest w => Sys2Proof.Machine.execTtest w s
  | .tcancel w => Sys2Proof.Machine.execTcancel w s
  | .tdet w => Sys2Proof.Machine.execTdet w s
  | .trel w => Sys2Proof.Machine.execTrel w s
  | .tprio w => Sys2Proof.Machine.execTprio w s
  | .cntwaitMx w => Sys2Proof.Machine.execCntwaitMx w s
  | .cntwaitCp w => Sys2Proof.Machine.execCntwaitCp w s
  | .cntwaitCo w => Sys2Proof.Machine.execCntwaitCo w s
  | .qput w => Sys2Proof.Machine.execQput w s
  | .rres w => Sys2Proof.Machine.execRres w s
  | .rcommit w => Sys2Proof.Machine.execRcommit w s
  | .rngseed w => Sys2Proof.Machine.execRngseed w s
  | .bra w => Sys2Proof.Machine.execBra w s
  | .brcAny w => Sys2Proof.Machine.execBrcAny w s
  | .brcAll w => Sys2Proof.Machine.execBrcAll w s
  | .brcNone w => Sys2Proof.Machine.execBrcNone w s
  | .brcNall w => Sys2Proof.Machine.execBrcNall w s
  | .brd w => Sys2Proof.Machine.execBrd w s
  | .join w => Sys2Proof.Machine.execJoin w s
  | .call w => Sys2Proof.Machine.execCall w s
  | .ret w => Sys2Proof.Machine.execRet w s
  | .chk w => Sys2Proof.Machine.execChk w s
  | .yield w => Sys2Proof.Machine.execYield w s
  | .exit w => Sys2Proof.Machine.execExit w s
  | .lfill w => Sys2Proof.Machine.execLfill w s
  | .bar w => Sys2Proof.Machine.execBar w s
  | .barArrive w => Sys2Proof.Machine.execBarArrive w s
  | .barWait w => Sys2Proof.Machine.execBarWait w s
  | .barbInit w => Sys2Proof.Machine.execBarbInit w s
  | .barbExpect w => Sys2Proof.Machine.execBarbExpect w s
  | .barbArrive w => Sys2Proof.Machine.execBarbArrive w s
  | .barbWait w => Sys2Proof.Machine.execBarbWait w s
  | .rbrel w => Sys2Proof.Machine.execRbrel w s
  | .rbclaim w => Sys2Proof.Machine.execRbclaim w s
  | .trap w => Sys2Proof.Machine.execTrap w s
  | .rte w => Sys2Proof.Machine.execRte w s
  | .rteSkip w => Sys2Proof.Machine.execRteSkip w s
  | .bankmode w => Sys2Proof.Machine.execBankmode w s
  | .prpub w => Sys2Proof.Machine.execPrpub w s
  | .posew w => Sys2Proof.Machine.execPosew w s
  | .tracemark w => Sys2Proof.Machine.execTracemark w s
  | .brk w => Sys2Proof.Machine.execBrk w s
  | .waitevt w => Sys2Proof.Machine.execWaitevt w s
  | .enrd w => Sys2Proof.Machine.execEnrd w s
  | .hSlot stop gap gw mb => Sys2Proof.Machine.execHSlot stop gap gw mb s
  | .slAdd => Sys2Proof.Machine.execSlAdd s
  | .slSub => Sys2Proof.Machine.execSlSub s
  | .slAnd => Sys2Proof.Machine.execSlAnd s
  | .slOr => Sys2Proof.Machine.execSlOr s
  | .slXor => Sys2Proof.Machine.execSlXor s
  | .slShl => Sys2Proof.Machine.execSlShl s
  | .slShr => Sys2Proof.Machine.execSlShr s
  | .slSar => Sys2Proof.Machine.execSlSar s
  | .slMin => Sys2Proof.Machine.execSlMin s
  | .slMax => Sys2Proof.Machine.execSlMax s
  | .slSlt => Sys2Proof.Machine.execSlSlt s
  | .slSeq => Sys2Proof.Machine.execSlSeq s
  | .slAddi => Sys2Proof.Machine.execSlAddi s
  | .slMovi => Sys2Proof.Machine.execSlMovi s
  | .slMovl => Sys2Proof.Machine.execSlMovl s
  | .slFadd => Sys2Proof.Machine.execSlFadd s
  | .slFsub => Sys2Proof.Machine.execSlFsub s
  | .slFmin => Sys2Proof.Machine.execSlFmin s
  | .slFmax => Sys2Proof.Machine.execSlFmax s
  | .slFslt => Sys2Proof.Machine.execSlFslt s
  | .slF2i => Sys2Proof.Machine.execSlF2i s
  | .slI2f => Sys2Proof.Machine.execSlI2f s
  | .slF2h => Sys2Proof.Machine.execSlF2h s
  | .slH2fl => Sys2Proof.Machine.execSlH2fl s
  | .slH2fh => Sys2Proof.Machine.execSlH2fh s
  | .slFmul => Sys2Proof.Machine.execSlFmul s
  | .slFfma => Sys2Proof.Machine.execSlFfma s
  | .slFdiv => Sys2Proof.Machine.execSlFdiv s
  | .slFrcp => Sys2Proof.Machine.execSlFrcp s
  | .slFsqrt => Sys2Proof.Machine.execSlFsqrt s
  | .slMFadd => Sys2Proof.Machine.execSlMFadd s
  | .slMFsub => Sys2Proof.Machine.execSlMFsub s
  | .slImul => Sys2Proof.Machine.execSlImul s
  | .slMMovi => Sys2Proof.Machine.execSlMMovi s
  | .slMMovl => Sys2Proof.Machine.execSlMMovl s
  | .slLdw => Sys2Proof.Machine.execSlLdw s
  | .slStw => Sys2Proof.Machine.execSlStw s
  | .slOut => Sys2Proof.Machine.execSlOut s
  | .slLAdd => Sys2Proof.Machine.execSlLAdd s
  | .slLAddi => Sys2Proof.Machine.execSlLAddi s
  | .slLMovi => Sys2Proof.Machine.execSlLMovi s
  | .slLMovl => Sys2Proof.Machine.execSlLMovl s
  | .slSampBl => Sys2Proof.Machine.execSlSampBl s
  | .slSampPt => Sys2Proof.Machine.execSlSampPt s
  | .slXferA => Sys2Proof.Machine.execSlXferA s
  | .slXferB => Sys2Proof.Machine.execSlXferB s
  | .slXferM => Sys2Proof.Machine.execSlXferM s
  | .slXferL => Sys2Proof.Machine.execSlXferL s
  | .slXferW => Sys2Proof.Machine.execSlXferW s
  | .slXferC => Sys2Proof.Machine.execSlXferC s
  | .slBr => Sys2Proof.Machine.execSlBr s
  | .slBrnz => Sys2Proof.Machine.execSlBrnz s
  | .slBrz => Sys2Proof.Machine.execSlBrz s
  | .slWait => Sys2Proof.Machine.execSlWait s
  | .slWaitMb => Sys2Proof.Machine.execSlWaitMb s
  | .slWaitFr => Sys2Proof.Machine.execSlWaitFr s
  | .slWaitFifo => Sys2Proof.Machine.execSlWaitFifo s
  | .slFetch => Sys2Proof.Machine.execSlFetch s
  | .slOxcall => Sys2Proof.Machine.execSlOxcall s
  | .slPose => Sys2Proof.Machine.execSlPose s
  | .slSys => Sys2Proof.Machine.execSlSys s
  | .slCMovi => Sys2Proof.Machine.execSlCMovi s
  | .slCMovl => Sys2Proof.Machine.execSlCMovl s
  | .slCAddi => Sys2Proof.Machine.execSlCAddi s
  | .slDone => Sys2Proof.Machine.execSlDone s
  | .ctxCreate => Sys2Proof.Machine.execCtxCreate s
  | .ctxPreempt => Sys2Proof.Machine.execCtxPreempt s
  | .ctxResume => Sys2Proof.Machine.execCtxResume s
  | .ctxDestroy => Sys2Proof.Machine.execCtxDestroy s
  | .energyWrite => Sys2Proof.Machine.execEnergyWrite s
  | .fqlostRead => Sys2Proof.Machine.execFqlostRead s
  | .contextSaveComplete => Sys2Proof.Machine.execContextSaveComplete s
  | .asnSweepComplete => Sys2Proof.Machine.execAsnSweepComplete s
  | .queueBind => Sys2Proof.Machine.execQueueBind s
  | .queueUnbind => Sys2Proof.Machine.execQueueUnbind s
  | .queueSuspend => Sys2Proof.Machine.execQueueSuspend s
  | .queueResume => Sys2Proof.Machine.execQueueResume s
  | .queueReset => Sys2Proof.Machine.execQueueReset s
  | .qdoorWrite => Sys2Proof.Machine.execQdoorWrite s
  | .qfaultRead => Sys2Proof.Machine.execQfaultRead s
  | .nop => Sys2Proof.Machine.execNop s
  | .launch => Sys2Proof.Machine.execLaunch s
  | .blocklaunch => Sys2Proof.Machine.execBlocklaunch s
  | .waitmem => Sys2Proof.Machine.execWaitmem s
  | .waitmemSatisfied => Sys2Proof.Machine.execWaitmemSatisfied s
  | .signal => Sys2Proof.Machine.execSignal s
  | .depend => Sys2Proof.Machine.execDepend s
  | .indirect => Sys2Proof.Machine.execIndirect s
  | .present => Sys2Proof.Machine.execPresent s
  | .capstart => Sys2Proof.Machine.execCapstart s
  | .capstop => Sys2Proof.Machine.execCapstop s
  | .rqconfConfigure => Sys2Proof.Machine.execRqconfConfigure s
  | .rqconfFlush => Sys2Proof.Machine.execRqconfFlush s
  | .rqconfTearDown => Sys2Proof.Machine.execRqconfTearDown s
  | .successorEnqueue => Sys2Proof.Machine.execSuccessorEnqueue s
  | .kernelAdmit => Sys2Proof.Machine.execKernelAdmit s
  | .setBirth => Sys2Proof.Machine.execSetBirth s
  | .kernelCancel => Sys2Proof.Machine.execKernelCancel s
  | .bundleIssue => Sys2Proof.Machine.execBundleIssue s
  | .resultLand => Sys2Proof.Machine.execResultLand s
  | .delayWindowClose => Sys2Proof.Machine.execDelayWindowClose s
  | .scaleLatchEffect => Sys2Proof.Machine.execScaleLatchEffect s
  | .groupRetire => Sys2Proof.Machine.execGroupRetire s
  | .claimGrant => Sys2Proof.Machine.execClaimGrant s
  | .watchdog => Sys2Proof.Machine.execWatchdog s
  | .wellspringFill => Sys2Proof.Machine.execWellspringFill s
  | .memoryResultLand => Sys2Proof.Machine.execMemoryResultLand s
  | .storePerform => Sys2Proof.Machine.execStorePerform s
  | .clusterCopyExpire => Sys2Proof.Machine.execClusterCopyExpire s
  | .congestionSet => Sys2Proof.Machine.execCongestionSet s
  | .congestionClear => Sys2Proof.Machine.execCongestionClear s
  | .bankModeFenceComplete => Sys2Proof.Machine.execBankModeFenceComplete s
  | .waitevtWake => Sys2Proof.Machine.execWaitevtWake s
  | .waitevtLimit => Sys2Proof.Machine.execWaitevtLimit s
  | .childStart => Sys2Proof.Machine.execChildStart s
  | .copyChunkComplete => Sys2Proof.Machine.execCopyChunkComplete s
  | .circuitBeatArrive => Sys2Proof.Machine.execCircuitBeatArrive s
  | .childComplete => Sys2Proof.Machine.execChildComplete s
  | .childPause => Sys2Proof.Machine.execChildPause s
  | .pgInvalidate => Sys2Proof.Machine.execPgInvalidate s
  | .pgInvalidateAll => Sys2Proof.Machine.execPgInvalidateAll s
  | .pgResolve => Sys2Proof.Machine.execPgResolve s
  | .pgReject => Sys2Proof.Machine.execPgReject s
  | .unitQuiesceInvalidate => Sys2Proof.Machine.execUnitQuiesceInvalidate s
  | .invalidationLimit => Sys2Proof.Machine.execInvalidationLimit s
  | .correctedSoftError => Sys2Proof.Machine.execCorrectedSoftError s
  | .rowRemap => Sys2Proof.Machine.execRowRemap s
  | .linkTrain => Sys2Proof.Machine.execLinkTrain s
  | .linkDrain => Sys2Proof.Machine.execLinkDrain s
  | .linkDown => Sys2Proof.Machine.execLinkDown s
  | .lnkcntRead => Sys2Proof.Machine.execLnkcntRead s
  | .linkPhyTrained => Sys2Proof.Machine.execLinkPhyTrained s
  | .linkPhyTrainFail => Sys2Proof.Machine.execLinkPhyTrainFail s
  | .linkNegotiated => Sys2Proof.Machine.execLinkNegotiated s
  | .slpFlitReceive => Sys2Proof.Machine.execSlpFlitReceive s
  | .linkLaneLoss => Sys2Proof.Machine.execLinkLaneLoss s
  | .remoteMemoryRequest => Sys2Proof.Machine.execRemoteMemoryRequest s
  | .remoteMemoryResponse => Sys2Proof.Machine.execRemoteMemoryResponse s
  | .collectiveFlitReceive => Sys2Proof.Machine.execCollectiveFlitReceive s
  | .streamFlitReceive => Sys2Proof.Machine.execStreamFlitReceive s
  | .routeWrite => Sys2Proof.Machine.execRouteWrite s
  | .headStart => Sys2Proof.Machine.execHeadStart s
  | .headStop => Sys2Proof.Machine.execHeadStop s
  | .hmissRead => Sys2Proof.Machine.execHmissRead s
  | .hevtailRead => Sys2Proof.Machine.execHevtailRead s
  | .poseCommit => Sys2Proof.Machine.execPoseCommit s
  | .mailboxWrite => Sys2Proof.Machine.execMailboxWrite s
  | .publicationTake => Sys2Proof.Machine.execPublicationTake s
  | .headOutputTrained => Sys2Proof.Machine.execHeadOutputTrained s
  | .headOutputTrainFail => Sys2Proof.Machine.execHeadOutputTrainFail s
  | .headOutputLost => Sys2Proof.Machine.execHeadOutputLost s
  | .poseLatch => Sys2Proof.Machine.execPoseLatch s
  | .sliceStart => Sys2Proof.Machine.execSliceStart s
  | .sliceDeadline => Sys2Proof.Machine.execSliceDeadline s
  | .sliceOutput => Sys2Proof.Machine.execSliceOutput s
  | .fetchComplete => Sys2Proof.Machine.execFetchComplete s
  | .tarnCallStart => Sys2Proof.Machine.execTarnCallStart s
  | .tarnCallComplete => Sys2Proof.Machine.execTarnCallComplete s
  | .slcoreStop => Sys2Proof.Machine.execSlcoreStop s
  | .slcoreRun => Sys2Proof.Machine.execSlcoreRun s
  | .slcoreStep => Sys2Proof.Machine.execSlcoreStep s
  | .slBreakpoint => Sys2Proof.Machine.execSlBreakpoint s
  | .debugCycleStop => Sys2Proof.Machine.execDebugCycleStop s
  | .dbgstatRead => Sys2Proof.Machine.execDbgstatRead s
  | .issueHold => Sys2Proof.Machine.execIssueHold s
  | .hostReservedAccess => Sys2Proof.Machine.execHostReservedAccess s
  | .registerWrite => Sys2Proof.Machine.execRegisterWrite s
  | .powerOnReset => Sys2Proof.Machine.execPowerOnReset s
  | .resetRequest => Sys2Proof.Machine.execResetRequest s
  | .imageUpload => Sys2Proof.Machine.execImageUpload s
  | .ageingUpdate => Sys2Proof.Machine.execAgeingUpdate s
  | .attestationReport => Sys2Proof.Machine.execAttestationReport s
  | .outputFifoDrain => Sys2Proof.Machine.execOutputFifoDrain s
  | .sampTexelArrival => Sys2Proof.Machine.execSampTexelArrival s
  | .hostMemoryAccess => Sys2Proof.Machine.execHostMemoryAccess s

end Sys2Proof.Machine
end

