-- ==== Sys2Proof/Machine/Policy.lean ====
section
/-! DEFINITION. Which agent moves next when no slot is under way and nothing has been put on the agenda
(notes/assumptions/2.md): the acts that stand open, in an order that is one of those that the spec allows; queue selection
and the fetch of a packet (spec/05_queue.md R98, R100, R102); the opening of a scanline word (spec/20_scanline_isa.md R447). -/

namespace Sys2Proof.Machine

/-- An act: a move of an agent, the dispatch of a queue's next packet, the opening of a core's next scanline word, or a head's beam
that goes on to its next line. -/
inductive Act where
  | move (m : Move)
  | packet (q : Nat)
  | word (core : Nat)
  | line (hd : Nat)
  deriving DecidableEq, Repr

/-- A move on an object. -/
def actOn (op : Instr) (n : Nat) (m : Nat := 0) (v : DWord := 0) (d : Payload := .none) : Act := .move ⟨op, ⟨n, m, v, d⟩⟩

/-! ## Queues (R98-R102) -/

/-- Whether a queue's packet may be dispatched by selection. -/
def queueWaits (s : State) (x : Queue) : Bool := decide (x.st = .runnable) && ctxServed s x.ctx

/-- The queue that the engine selects (R100): the highest priority; among equals, the first number after the last served. -/
def pickQueue (s : State) : Option Nat :=
  let l := (s.queues.filter fun e => queueWaits s e.2).map fun e => (e.1, e.2.prio)
  match (l.map (·.2)).max? with
  | none => none
  | some p =>
    let qs := (l.filter fun e => e.2 == p).map (·.1)
    let from_ := tget 0 s.lastServed p
    match qs.find? fun q => decide (from_ ≤ q) with
    | some q => some q
    | none => qs.head?

/-- Notes which queue its priority served last. -/
def noteServed (s : State) (q : Nat) : State := { s with lastServed := tput 0 s.lastServed (getQueue s q).prio (q + 1) }

/-- A queue's packet in dispatch, which the engine reads once: from its ring, or from an INDIRECT array in the context's
memory (R98, R105). -/
def packetRead (s : State) (q : Nat) : State × Option Packet :=
  let x := getQueue s q
  match x.pkt, x.ind with
  | some k, _ => (s, some k)
  | none, none => (s, some (packetOfBytes (readHome s (packetAddr x) 64)))
  | none, some (a, _) =>
    if !inVirt a 64 then (packetFault s q 6 a 0, none)
    else match readVirt s queueUnit x.ctx a 64 with
      | (s, .ok b) => (s, some (packetOfBytes b))
      | (s, .error (0, _, _)) => (s, none)
      | (s, .error (1, level, at_)) => (blockOnPage s q at_ level 1, none)
      | (s, .error (_, _, at_)) => (packetFault s q 6 at_ 0, none)

/-- Dispatches a queue's next packet: an unlisted TYPE is BADTYPE; any other is the instruction of its type. -/
def dispatchPacket (s : State) (q : Nat) : State :=
  match packetRead (modQueue s q fun x => { x with st := if x.st = .runnable then .dispatching else x.st }) q with
  | (s, none) => s
  | (s, some k) =>
    match decodePacket k with
    | none => packetFault s q 1 (packetAddr (getQueue s q)) k.tag
    | some i => match exec i { s with args := ⟨q, 0, 0, .packet k⟩ } with
      | .next t => t
      | _ => s

/-! ## What an act does -/

/-- A move with its operands in place. -/
def runMove (s : State) (m : Move) : State :=
  match exec m.op { s with args := m.args } with
  | .next t => t
  | _ => s

/-- The state that an act leaves. -/
def runAct (s : State) : Act → State
  | .move m => runMove s m
  | .packet q => noteServed (dispatchPacket s q) q
  | .word core => slOpen s core
  | .line hd => beamOn s hd

/-- Whether an act changes anything but the operands that stand in place. -/
def actsNow (s : State) (a : Act) : Bool :=
  match a with
  | .move m => decide (runMove s m ≠ { s with args := m.args })
  | .packet q => let t := dispatchPacket s q; decide ({ t with args := s.args } ≠ s)
  | .word core => decide (slOpen s core ≠ s)
  | .line hd => decide (beamOn s hd ≠ s)

/-! ## What stands open at once -/

/-- A path's closing window and the ends of its waits. -/
def pathActs (loc : Nat) (g : Group) (p : Nat) : List Act :=
  let pt := pathAt g p
  (if windowDue pt then [actOn .delayWindowClose loc p] else [])
  ++ pt.waits.filterMap fun w => match w with
    | .waitevt _ => some (actOn .waitevtWake loc p)
    | .fence _ => some (actOn .bankModeFenceComplete loc p)
    | _ => none

/-- A group's: windows, latches, results that have run their time, memory entries, random words that a held bundle needs,
and its end. -/
def groupActs (s : State) (loc : Nat) (g : Group) : List Act :=
  pathActs loc g 0 ++ pathActs loc g 1
  ++ (if latchDue g then [actOn .scaleLatchEffect loc] else [])
  ++ (match (List.range g.inflight.length).find? fun i => (g.inflight[i]?.map (·.left)) == some 0 with
    | some i => [actOn .resultLand loc i]
    | none => [])
  ++ (match g.macc.findIdx? fun e => !entryPlaced e with
    | some i => [actOn .storePerform loc i, actOn .memoryResultLand loc i]
    | none => [])
  ++ (match readyEntry g fun e => !isLoad e && entryReach s loc e with
    | some i => [actOn .storePerform loc i]
    | none => [])
  ++ (match readyEntry g fun e => isLoad e && entryReach s loc e with
    | some i => [actOn .memoryResultLand loc i]
    | none => [])
  ++ (if g.p0.heldAt.isSome || g.p1.heldAt.isSome then
      ((List.range 16).filter fun l => decide ((streamOf g l).queue.length < 8)).map fun l => actOn .wellspringFill loc l
    else [])
  ++ (if g.fences.isEmpty then [] else [actOn .bankModeFenceComplete loc 0])
  ++ (if mayRetire s g then [actOn .groupRetire loc] else [])

/-- A context's: a stop that ends, an armed edge, a sweep that ends, an image to re-inject. -/
def ctxActs (s : State) (c : Nat) (x : Context) : List Act :=
  (if decide (x.st = .preempting) && allPaused s c then [actOn .contextSaveComplete c] else [])
  ++ (if dbgDue s c && (saveFits s c || x.err != 4) then [actOn .debugCycleStop c] else [])
  ++ (if decide (x.st = .destroyed) && sweepDone s c then [actOn .asnSweepComplete c] else [])
  ++ (if x.restore.isEmpty then [] else [actOn .setBirth c 1])

/-- A queue's: a wait for order or for a doubleword, a launch to admit. -/
def queueActs (s : State) (q : Nat) (x : Queue) : List Act :=
  (if x.launch.isSome then [actOn .kernelAdmit q] else [])
  ++ (match x.st, x.on with
    | .blocked, some .order => if x.out = 0 ∧ ctxServed s x.ctx then [.packet q] else []
    | .blocked, some (.waitmem ..) => [actOn .waitmemSatisfied q]
    | .dispatching, none => if x.birthing.isNone && x.launch.isNone && ctxServed s x.ctx then [.packet q] else []
    | _, _ => [])

/-- The engine of a child (R261). -/
def engineOf (key : Nat) (h : Child) : Engine :=
  match h.cls with
  | 0 => .oxbow (Fin.ofNat 256 (childCore key))
  | 1 => .millpond (Fin.ofNat 64 (childCluster key))
  | _ => .links

/-- A child's: its pause point, its start, its next chunk, beat or k-block. -/
def childActs (key : Nat) (h : Child) : List Act :=
  (if h.cancel.isSome || h.stop then [actOn .childPause key] else [])
  ++ (match h.st with
    | .issued => [actOn .childStart key 0 0 (.engine (engineOf key h))]
    | .running => [actOn .copyChunkComplete key, actOn .circuitBeatArrive key, actOn .childComplete key]
    | _ => [])

/-- A link's: the die links train and negotiate with their own device. -/
def linkActs (s : State) (n : Nat) (l : Link) : List Act :=
  if !isDieLink n then []
  else match l.st with
    | .training => [actOn .linkPhyTrained n]
    | .negotiating => [actOn .linkNegotiated n 0 0 (.peer ⟨BitVec.ofNat 12 s.modid, 2, 2, 2, 2⟩)]
    | _ => []

/-- A head's: publications, poses, its output's training. -/
def headActs (hd : Nat) (h : Head) : List Act :=
  (if h.pubIn.isEmpty then [] else [actOn .publicationTake hd])
  ++ (if h.poseIn.isEmpty then [] else [actOn .mailboxWrite hd])
  ++ (if h.st = .starting then [actOn .headOutputTrained hd] else [])

/-- A scanline core's: texels, fetches, the output FIFOs, its breakpoint. -/
def slcoreActs (s : State) (core : Nat) (c : SlCore) : List Act :=
  (if c.sampHeld then [actOn .sampTexelArrival core] else [])
  ++ (c.ctxs.flatMap fun e =>
    (if e.2.fetches.isEmpty then [] else [actOn .fetchComplete core e.1])
    ++ (if e.2.fifo.isEmpty then [] else [actOn .outputFifoDrain core e.1]))
  ++ (if slAtBreak s core then [actOn .slBreakpoint core] else [])

/-- Everything that stands open and that only finitely much can follow from. -/
def openActs (s : State) : List Act :=
  (s.ctxs.flatMap fun e => ctxActs s e.1 e.2)
  ++ (s.groups.flatMap fun e => match e.2 with
    | some g => groupActs s e.1 g
    | none => [])
  ++ (s.seqs.flatMap fun e => if e.2.claims.isEmpty then [] else [actOn .claimGrant e.1])
  ++ (s.children.flatMap fun e => match e.2 with
    | some h => childActs e.1 h
    | none => [])
  ++ (s.queues.flatMap fun e => queueActs s e.1 e.2)
  ++ (s.kernels.filter (birthDue s)).map (fun k => actOn .setBirth k.ctx 0 (k.launch.setWidth 64))
  ++ (if s.owed.any fun o => o.page.isNone then [actOn .successorEnqueue 0] else [])
  ++ (s.invals.flatMap fun i => i.units.map fun u => actOn .unitQuiesceInvalidate i.ctx 0 0 (.tunit u))
  ++ (s.links.flatMap fun e => linkActs s e.1 e.2)
  ++ (s.heads.flatMap fun e => headActs e.1 e.2)
  ++ (s.slcores.flatMap fun e => slcoreActs s e.1 e.2)
  ++ (if s.tarnRun.isSome then [actOn .tarnCallComplete 0] else if (nextCall s).isSome then [actOn .tarnCallStart 0] else [])
  ++ (if s.boot.attBusy then [actOn .attestationReport 0] else [])
  ++ (s.repair.marked.map fun p => actOn .rowRemap 0 p.2 0 (.sram p.1))
  ++ (if s.copies.any fun c => !copyAlive s c then [actOn .clusterCopyExpire 0] else [])

/-! ## Agents that may go on without end -/

/-- The result that is nearest to its time. -/
def nearestResult (g : Group) : Option Nat :=
  ((List.range g.inflight.length).foldl (fun o i => match g.inflight[i]?, o with
    | some r, some (j, l) => if r.left < l then some (i, r.left) else some (j, l)
    | some r, none => some (i, r.left)
    | none, o => o) (none : Option (Nat × Nat))).map (·.1)

/-- On a core no group of which can issue, time goes on: to a group's nearest result, or to a WAITEVT's limit; a limit of
which only the last ck remains runs out in any case. -/
def timeActs (s : State) (loc : Nat) (g : Group) : List Act :=
  let busy := s.groups.any fun e => match e.2 with
    | some h => coreOf e.1 == coreOf loc && groupReady s e.1 h
    | none => false
  let limits (all : Bool) : List Act := (List.range 2).flatMap fun p => (pathAt g p).waits.filterMap fun w => match w with
    | .waitevt e => if e.limit = 1 || (all && e.limit != 0) then some (actOn .waitevtLimit loc p) else none
    | _ => none
  if busy then limits false
  else match nearestResult g with
    | some i => [actOn .resultLand loc i]
    | none => limits true

/-- Sequencers, the queue engine, scanline cores, and time. -/
def agentActs (s : State) : List Act :=
  let places := s.groups.filterMap fun e => e.2.map fun g => (e.1, g)
  ((places.map fun e => seqOf e.1).eraseDups.map fun q => actOn .bundleIssue q)
  ++ (match pickQueue s with
    | some q => [.packet q]
    | none => [])
  ++ ((s.slcores.filter fun e => (slReady s e.1).isSome).map fun e => .word e.1)
  ++ places.flatMap fun e => timeActs s e.1 e.2

/-- Turns a list round, so that each of its members comes first in turn. -/
def turned (n : Nat) (l : List Act) : List Act := let k := n % max 1 l.length; l.drop k ++ l.take k

/-- What a head's beam does next, with its time: the event of the line it is on, or its next line. -/
def beamOf (hd : Nat) (h : Head) : Option (Act × Nat × Nat) :=
  match [Instr.poseLatch, Instr.sliceStart, Instr.sliceDeadline, Instr.sliceOutput].zipIdx.findSome? fun e =>
      (headDue h e.2).map fun line => (e.1, line) with
  | none => none
  | some (op, line) =>
    if line ≤ h.beam then some (actOn op hd, h.beamTime line) else some (.line hd, h.beamTime (h.beam + 1))

/-- What comes next on the beams of all heads. -/
def beamActs (s : State) : List Act :=
  ((s.heads.filterMap fun e => beamOf e.1 e.2).foldl (fun o b => match o with
    | none => some b
    | some a => if b.2.1 * a.2.2 < a.2.1 * b.2.2 then some b else some a) none).toList.map (·.1)

/-- What happens when all else has come to rest: a limit of an invalidation, and WATCHDOG. -/
def restActs (s : State) : List Act :=
  (s.invals.flatMap fun i => i.units.map fun u => actOn .invalidationLimit i.ctx 0 0 (.tunit u))
  ++ s.groups.flatMap fun e => match e.2 with
    | some _ => [actOn .watchdog e.1 0, actOn .watchdog e.1 1]
    | none => []

/-- The act that comes next: the first that changes anything, of those that stand open, of the agents in turn, of the
beams (which come first once in 4,096 epochs), and of what follows when all is at rest. -/
def nextAct (s : State) : Option Act :=
  let agents := turned s.epoch (agentActs s)
  let beams := beamActs s
  (openActs s ++ (if s.epoch % 4096 < 2 then beams ++ agents else agents ++ beams) ++ restActs s).find? (actsNow s)

/-! ## One step of each kind -/

/-- The next slot of the open bundle: its instruction, or the illegal-encoding trap (R56). -/
def stepSlot (s : State) (is : Issue) : Host.Outcome State Fault Refusal :=
  match decodeSlot is.words with
  | .ok (i, _) => exec i s
  | .error _ => .next (trapSlot s is is.idx ⟨1, 0, 0, 0⟩)

/-- The next slot of the open scanline word, which was legal when it was opened. -/
def stepWord (s : State) (w : SlIssue) : Host.Outcome State Fault Refusal :=
  match slInstr w with
  | some i => exec i s
  | none => .next { s with slw := none }

/-! ## Which bundles could issue (R133, R134) -/

/-- The open bundle's slots, taken one after another until it closes. -/
def trySlots : Nat → State → State
  | 0, s => s
  | n + 1, s =>
    match s.cur with
    | none => s
    | some is =>
      match stepSlot s is with
      | .next t => trySlots n t
      | _ => s

/-- The next bundle of a path, if it may issue, is tried: one that is found held begins to wait, and any other is left as it was. -/
def tryPath (s : State) (loc p : Nat) : State :=
  match getGroup s loc with
  | none => s
  | some g =>
    if !pathReady s loc g p then s
    else
      let t := trySlots 8 (openBundle { s with args := {} } loc p)
      let held := match getGroup t loc with
        | some h => decide ((pathAt h p).heldAt = some s.epoch)
        | none => false
      if t.cur.isNone && held then { t with args := s.args } else s

/-- Every path of a core is tried, so that of its groups those are ready that can issue (R133). -/
def tryCore (s : State) (core : Nat) : State :=
  ((s.groups.map (·.1)).filter fun l => coreOf l == core).foldl (fun s l => tryPath (tryPath s l 0) l 1) s

/-- The core on which ck may pass with a move. -/
def movedCore (m : Move) : Option Nat :=
  match m.op with
  | .bundleIssue => some (m.args.n % 1024 / 4)
  | .resultLand | .waitevtLimit | .watchdog => some (coreOf m.args.n)
  | _ => none

/-- Before ck pass on a core, the bundles of its groups are tried: the ck count as passed over for those that could issue
(R134, notes/assumptions/2.md). -/
def settleHeld (s : State) (m : Move) : State :=
  match movedCore m with
  | some core => if computes s then tryCore s core else s
  | none => s

/-- Whether a move counts as something done (notes/assumptions/2.md): all but the opening of a bundle, which may find it held. -/
def moveCounts : Instr → Bool
  | .bundleIssue => false
  | _ => true

/-- A move: its operands stand in place and its instruction runs, once the held bundles of a core whose ck may pass are known. -/
def stepMove (s : State) (m : Move) : Host.Outcome State Fault Refusal :=
  match exec m.op { settleHeld s m with args := m.args } with
  | .next t => .next (if moveCounts m.op then { t with epoch := t.epoch + 1 } else t)
  | r => r

/-- An act of the policy's. -/
def stepAct (s : State) : Act → Host.Outcome State Fault Refusal
  | .move m => stepMove s m
  | a => .next (runAct { s with epoch := s.epoch + 1 } a)

/-- The move that a start-up module makes first (R496, R499). -/
def startUp : Move := ⟨.powerOnReset, {}⟩

/-! ## A place to fetch from -/

/-- The group whose bundle is fetched: the one at place 0, or one that holds all its lanes. -/
def fetchGroup (s : State) : Group := (getGroup s 0).getD { p0 := { st := .live, mask := 0xFFFF } }

/-- A bundle of these words, open at place 0 as BUNDLE_ISSUE opens it (notes/assumptions/8.md). -/
def placeWords (s : State) (ws : List Word) : State :=
  { putGroup s 0 (fetchGroup s) with cur := some (openIssue 0 0 (fetchGroup s).p0.pc ws) }

end Sys2Proof.Machine
end

