-- ==== Sys2Proof/Machine/Step.lean ====
section
/-! DEFINITION. One step of the module (notes/assumptions/2.md), and where a table's word is fetched from. -/

namespace Sys2Proof.Machine

/-- One step: the open bundle's next slot; else the open scanline word's; else the boot of a module that has not begun it; else the
first move of the agenda; else the act that comes next; a module with none rests. -/
def step (s : State) : Host.Outcome State Fault Refusal :=
  match s.cur with
  | some is => stepSlot s is
  | none =>
    match s.slw with
    | some w => stepWord s w
    | none =>
      if s.boot.mode = 0 && s.boot.coming.isNone then stepMove s startUp
      else
        match s.agenda with
        | m :: rest => stepMove { s with agenda := rest } m
        | [] =>
          match nextAct s with
          | some a => stepAct s a
          | none => .next s

/-- The state with a table's word as the first slot of a bundle that `step` has opened, so that it is taken next. -/
def State.withFetchWord (s : State) (nbits w : Nat) : State := placeWords s (tableWords nbits w)

end Sys2Proof.Machine
end

