-- ==== Sys2Proof/WellFormed.lean ====
section
/-! DEFINITION. Which instructions are well formed: a slot's fields are a legal encoding of its form (R56-R61). A
scanline row and a move of the host complex or of an engine carry no field of their own, and are well formed; the
fields of a scanline slot are checked by `decodeSl` and those of a packet by the packet's meaning (R451, R102). -/

namespace Sys2Proof

open Sys2Proof.Machine

/-- The fields that tell a form from another one of its class and opcode, beside those that it fixes: UMOV.imm and UMOV.hi
have their immediate (R175), and A = 63 is MXDEF's release form (R313). -/
def chosen (f : Form) (cls : Nat) (w : Slot) : Bool :=
  match cls, f.op, f.a with
  | 0, 0x12, .fix _ => w.imm.isSome
  | 5, 0, .reg .. => w.a != 63
  | _, _, _ => true

/-- Well-formedness, for every row. -/
def Instr.wf (i : Instr) : Bool :=
  match slotOf i with
  | some (f, cls, w) => chosen f cls w && slotOk f w
  | none => true

end Sys2Proof
end

