-- ==== Sys2Proof/Safety.lean ====
section
/-! DEFINITION. The terms that the statements use: a safe step; a slot that stands at the open bundle and may issue; what
taking it with given effects leads to; the results of uniform and lane forms; a slot of an open scanline word
(spec/03_bundles.md R52-R76; spec/20_scanline_isa.md R444-R448). -/

namespace Sys2Proof.Safety

open Sys2Proof.Machine

/-- A step is safe when it ends in a state: neither in a fault nor in a refusal. -/
def SafeStep (s : State) : Prop := ∃ t, step s = .next t

/-! ## The slot at the open bundle -/

/-- A slot of the open bundle: the state, the bundle, its group, and the slot's form, class and fields. -/
structure Taken where
  s : State
  is : Issue
  g : Group
  f : Form
  cls : Nat
  w : Slot

/-- The bundle's path. -/
def Taken.path (q : Taken) : Path := pathAt q.g q.is.path

/-- What the slot reads: the state, group and path as they stand (R63). -/
def Taken.sc (q : Taken) : SC := ⟨q.s, { q.is with uses := q.is.uses ++ usesOf q.f q.w }, q.g, q.path, q.w⟩

/-- The instruction stands at an open bundle and may issue: its encoding is legal and has the E slot that its form needs
(R56-R61), no soft error meets it (R383), it is no lower in class order than the slots before it (R54), a B slot has no open delay window (R72), its
operands are legal where its scalar guard lets them be looked at (R55, R57), no register of a CALL's link is named in the
link's window (R160), and no register that it names waits for a result (R70). -/
abbrev Taken.ready (q : Taken) (i : Instr) : Prop :=
  slotOf i = some (q.f, q.cls, q.w) ∧ q.s.cur = some q.is ∧ getGroup q.s q.is.loc = some q.g
  ∧ slotOk q.f q.w = true ∧ eGiven q.f q.w = true ∧ q.is.above ≤ q.cls ∧ (q.cls = 9 → q.path.window = none)
  ∧ (softAt q.is || guardOpen q.f q.g q.path q.w && operandFault q.f q.w q.g.blocks) = false ∧ linkFault q.path (usesOf q.f q.w) = false
  ∧ (usesOf q.f q.w).any (pendingUse q.g q.path) = false

/-- The open bundle after the slot: its words are passed over, its energy is charged, and its effects, flags and registers
join those of the slots before it (R66, R494). `us` are registers that it names beyond its fields. -/
def Taken.after (q : Taken) (effs : List Eff) (flags : BitVec 6) (us : List RegUse) : Issue :=
  { q.is with
    words := q.is.words.drop (slotWords q.w)
    idx := q.is.idx + slotWords q.w
    above := q.cls + 1
    cost := q.is.cost + wordCost q.s (q.is.words.headD 0)
    effs := q.is.effs ++ (traceSlotEffs q.cls (q.is.words.headD 0) q.w effs).map fun e => (q.is.idx, e)
    flags := q.is.flags ||| flags
    uses := q.is.uses ++ usesOf q.f q.w ++ us }

/-- The slot's effects fit: the registers that they name lie outside a CALL's window, the path's shadow has room (R149), a
bundle that ends here stays within the limits of R396, and a bundle that goes on has a word to go on with (R53). -/
abbrev Taken.fits (q : Taken) (effs : List Eff) (flags : BitVec 6) (us : List RegUse) : Prop :=
  linkFault q.path us = false ∧ shadowFull q.path (q.is.effs.map (·.2)) effs = false
  ∧ (q.w.stop = true → dumpFull q.g ((q.after effs flags us).effs.map (·.2)) = false)
  ∧ (q.w.stop = false → (q.after effs flags us).words ≠ [])

/-- What taking the slot leads to: its bundle commits after its last slot, and stays open before (R64, R66). `s'` is the
state with what the slot's translations have changed. -/
def Taken.done (q : Taken) (s' : State) (effs : List Eff) (flags : BitVec 6) (us : List RegUse) : State :=
  if q.w.stop then commit s' (q.after effs flags us) else { s' with cur := some (q.after effs flags us) }

/-- The instruction completes with these effects: where they fit, `exec` answers the next state in which they have joined
the bundle. -/
abbrev Taken.gives (q : Taken) (i : Instr) (s' : State) (effs : List Eff) (flags : BitVec 6) (us : List RegUse) : Prop :=
  q.fits effs flags us → exec i q.s = .next (q.done s' effs flags us)

/-- The instruction completes with these effects, having translated nothing and named no register beyond its fields. -/
abbrev Taken.yields (q : Taken) (i : Instr) (effs : List Eff) (flags : BitVec 6) : Prop := q.gives i q.s effs flags []

/-- The instruction traps: the bundle is abandoned and the trap of R383 with this cause, address and lanes is raised on the
slot, which gives it the slot's token (R386, R388). -/
abbrev Taken.traps (q : Taken) (i : Instr) (cause addr : Nat) (lanes : LaneMask) : Prop :=
  exec i q.s = .next (trapSlot q.s q.is q.is.idx ⟨cause, addr, lanes, 0⟩)

/-! ## Operands -/

/-- The scalar guard is 1 and not poisoned. -/
abbrev Taken.on (q : Taken) : Prop := scalarGuard q.sc = ⟨true, false⟩

/-- Field numbers. -/
def Taken.d (q : Taken) : Nat := q.w.d.toNat
def Taken.a (q : Taken) : Nat := q.w.a.toNat
def Taken.b (q : Taken) : Nat := q.w.b.toNat

/-- Uniforms as the path reads them. -/
def Taken.s32 (q : Taken) (r : Nat) : PWord := sreg q.g q.path r

/-- The immediate, or none, taken by sign or by zero extension (R59, R166). -/
def Taken.imm (q : Taken) (zext : Bool) : Option Word := q.w.imm.map fun x => if zext then x.setWidth 32 else x.signExtend 32

/-- Operand B of a uniform form: the immediate if there is one, else s(b). -/
def Taken.uy (q : Taken) (zext : Bool) : PWord :=
  match q.imm zext with
  | some x => ⟨x, false⟩
  | none => q.s32 q.b

/-- Operand B of a lane form: the immediate if there is one, else v(b) in the lane. -/
def Taken.vy (q : Taken) (zext : Bool) (l : Nat) : PWord :=
  match q.imm zext with
  | some x => ⟨x, false⟩
  | none => vreg q.g q.b l

/-- Operand B under the float rule (R166): binary32 takes the immediate shifted by 8, binary16 takes it in both halves. -/
def Taken.vyF32 (q : Taken) (l : Nat) : PWord :=
  match q.w.imm with
  | some x => ⟨BitVec.ofNat 32 (x.toNat * 256), false⟩
  | none => vreg q.g q.b l
def Taken.vyF16 (q : Taken) (l : Nat) : PWord :=
  match q.w.imm with
  | some x => ⟨BitVec.ofNat 32 (x.toNat % 65536 * 65537), false⟩
  | none => vreg q.g q.b l

/-- The active lanes: those of the path whose guard is 1 and not poisoned (R9, R75). -/
def Taken.act (q : Taken) : List Nat := lanesOf (actives q.sc)

/-- The lanes of the path with a poisoned guard (R75). -/
def Taken.dim (q : Taken) : List Nat := lanesOf (guardPoison q.sc)

/-- The union of the flags of a list. -/
def flagUnion (l : List (BitVec 6)) : BitVec 6 := l.foldl (· ||| ·) 0

/-! ## Memory operands -/

/-- No active lane, and none whose guard is poisoned, meets a test (R76). -/
abbrev Taken.clean (q : Taken) (dirty : Nat → Bool) : Prop :=
  ∀ l < 16, (actives q.sc ||| guardPoison q.sc).getLsbD l = true → dirty l = false

/-- The checks of R201 on the active lanes, at an address for each lane. -/
def Taken.checks (q : Taken) (n : Need) (size : Nat) (ea : Nat → Nat) : State × Option (List LaneCheck) :=
  checkLanes q.s q.is.loc q.g.ctx n size (q.act.map fun l => (l, ea l))

/-! ## Arithmetic of the rules (R171-R174) -/

/-- SHL, SHR and SAR by y<7:0>. -/
def shiftLeft (x y : Word) : Word :=
  if y.toNat % 256 ≥ 32 then 0 else BitVec.ofNat 32 (x.toNat * 2 ^ (y.toNat % 256))
def shiftRight (x y : Word) : Word :=
  if y.toNat % 256 ≥ 32 then 0 else BitVec.ofNat 32 (x.toNat / 2 ^ (y.toNat % 256))
def shiftArith (x y : Word) : Word :=
  if y.toNat % 256 ≥ 32 then (if x.msb then 0xFFFFFFFF else 0) else BitVec.ofInt 32 (x.toInt / 2 ^ (y.toNat % 256))

/-- The width of a bit field: y<13:8>, no wider than what lies above its position y<4:0>. -/
def fieldWidth (y : Word) : Nat := min (y.toNat / 256 % 64) (32 - y.toNat % 32)

/-- BFX: the field of x that y names, sign-extended with y<16>. -/
def bitField (x y : Word) : Word :=
  let w := fieldWidth y
  let f := x.toNat / 2 ^ (y.toNat % 32) % 2 ^ w
  if w = 0 then 0
  else if y.getLsbD 16 && decide (2 ^ (w - 1) ≤ f) then BitVec.ofInt 32 ((f : Int) - 2 ^ w) else BitVec.ofNat 32 f

/-- BFI: d with the field that y names replaced by the low bits of x. -/
def insertField (d x y : Word) : Word :=
  let n := y.toNat % 32
  let m := 2 ^ fieldWidth y * 2 ^ n
  BitVec.ofNat 32 (d.toNat / m * m + x.toNat % 2 ^ fieldWidth y * 2 ^ n + d.toNat % 2 ^ n)

/-- CLZ. -/
def leadingZeros (x : Word) : Word := if x.toNat = 0 then 32 else BitVec.ofNat 32 (31 - Nat.log2 x.toNat)

/-- An exact result clamped to −2^31 .. 2^31 − 1, and whether that changed it. -/
def clampInt32 (t : Int) : Word × Bool :=
  let c := max (-(2 ^ 31)) (min t (2 ^ 31 - 1))
  (BitVec.ofInt 32 c, decide (c ≠ t))

/-- The conditions of UCMP and VCMP. -/
def comparison (signed : Bool) (cc : Nat) (x y : Word) : Bool :=
  let a : Int := if signed then x.toInt else x.toNat
  let b : Int := if signed then y.toInt else y.toNat
  match cc with
  | 0 => decide (a = b)
  | 1 => decide (a ≠ b)
  | 2 => decide (a < b)
  | 3 => decide (a ≤ b)
  | 4 => decide (b < a)
  | _ => decide (b ≤ a)

/-! ## Results of lane forms (R75, R167) -/

/-- v(r) in the active lanes takes `val`; a lane with a poisoned guard keeps its value with poison set. -/
def Taken.toLanes (q : Taken) (lat r : Nat) (val : Nat → PWord) : Eff :=
  .result lat (q.act.map (fun l => .v r l (val l)) ++ q.dim.map fun l => .v r l ⟨(vreg q.g r l).val, true⟩)

/-- v(r + 1) : v(r) in the active lanes takes `val`. -/
def Taken.toPairs (q : Taken) (lat r : Nat) (val : Nat → Nat × Bool) : Eff :=
  .result lat (q.act.flatMap (fun l => [.v r l ⟨BitVec.ofNat 32 (val l).1, (val l).2⟩,
      .v (r + 1) l ⟨BitVec.ofNat 32 ((val l).1 / 2 ^ 32), (val l).2⟩])
    ++ q.dim.flatMap fun l => [.v r l ⟨(vreg q.g r l).val, true⟩, .v (r + 1) l ⟨(vreg q.g (r + 1) l).val, true⟩])

/-- p(r) in the active lanes takes `val`. -/
def Taken.toPred (q : Taken) (lat r : Nat) (val : Nat → PBit) : Eff :=
  .result lat (q.act.map (fun l => .p r l (val l)) ++ q.dim.map fun l => .p r l ⟨(preg q.g r).val.getLsbD l, true⟩)

/-- The lanes with a poisoned guard keep v(d) .. v(d + n − 1), or p(d) .. p(d + n − 1), with poison set (R75). -/
def Taken.keepV (q : Taken) (n : Nat) : List RegWrite :=
  q.dim.flatMap fun l => (List.range n).map fun j => .v (q.d + j) l ⟨(vreg q.g (q.d + j) l).val, true⟩
def Taken.keepP (q : Taken) (n : Nat) : List RegWrite :=
  q.dim.flatMap fun l => (List.range n).map fun j => .p (q.d + j) l ⟨(preg q.g (q.d + j)).val.getLsbD l, true⟩

/-- The real number that a finite value stands for. -/
def realOf : FVal → ℚ
  | .fin n m e => (if n then -(m : ℚ) else m) * 2 ^ e
  | _ => 0

/-- A value is neither infinite nor a NaN. -/
def finite : FVal → Bool
  | .fin .. => true
  | _ => false

/-- A flag that a result which is not poisoned raises (R40). -/
def unlessPoison (po : Bool) (fl : BitVec 6) : BitVec 6 := if po then 0 else fl

/-! ## Frames -/

/-- Two groups with the same registers: vector, uniform, predicate, parameter and staged registers, and the scale latches. -/
abbrev SameFiles (g h : Group) : Prop := h.v = g.v ∧ h.s = g.s ∧ h.sp = g.sp ∧ h.p = g.p ∧ h.x = g.x ∧ h.y = g.y ∧ h.k = g.k

/-- Two groups with the same special registers but sr.fflags. -/
abbrev SameSpecials (g h : Group) : Prop :=
  h.gidx = g.gidx ∧ h.set = g.set ∧ h.launch = g.launch ∧ h.key = g.key ∧ h.ctx = g.ctx ∧ h.blocks = g.blocks ∧ h.cyclehi = g.cyclehi
  ∧ h.lfault = g.lfault ∧ h.lfrec = g.lfrec ∧ h.epc = g.epc ∧ h.ecause = g.ecause ∧ h.efault = g.efault

/-- The register files of a group are in canonical form: keys rising, no entry equal to what an unlisted register reads as. -/
abbrev CanonicalFiles (g : Group) : Prop :=
  tblWf {} g.v = true ∧ tblWf {} g.s = true ∧ tblWf {} g.sp = true ∧ tblWf {} g.p = true ∧ tblWf 0 g.x = true

/-- An address lies outside a range of bytes. -/
abbrev Outside (a lo n : Nat) : Prop := a < lo ∨ lo + n ≤ a

/-! ## The slot at the open scanline word -/

/-- A slot of the open scanline word. -/
structure SlTaken where
  s : State
  w : SlIssue

/-- What it reads. -/
def SlTaken.c (q : SlTaken) : SlC := slC q.s q.w

/-- The instruction stands at the open word's position. -/
abbrev SlTaken.ready (q : SlTaken) (i : Instr) : Prop := q.s.slw = some q.w ∧ slInstr q.w = some i

/-- It completes with results that join the word's, or with the word's issue after its last slot (R447). -/
abbrev SlTaken.yields (q : SlTaken) (i : Instr) (s' : State) (l : List SlResult) : Prop :=
  exec i q.s = .next (slAdvance s' { q.w with results := q.w.results ++ l })

/-- A register of the slot's own file, by one of its fields. -/
def SlTaken.reg (q : SlTaken) (n : Nat) : Word := q.c.x.reg q.w.pos n

/-- A result in the slot's own file, to the register that its d field names. -/
def SlTaken.own (q : SlTaken) (v : Word) : SlResult := ⟨q.w.pos, q.c.d, slLatency q.w.pos, q.w.pos, v⟩

end Sys2Proof.Safety
end

