-- ==== Sys2Proof/Certificates/Slice0/Obligations.lean ====
section
/-! DEFINITION. What the provers are to prove: one proposition for each entry of OBLIGATIONS.json, from the numbered rules of
spec/. -/

open Sys2Proof Sys2Proof.Machine Sys2Proof.Safety

/-! ## Uniform slots (R165-R178) -/

/-- R171: the integer forms of the U class that take two operands and touch no carry write their result to s(d), 2 ck after
issue (R71), poisoned if an operand is (R75); no flag is raised (R168). -/
def Obligations.UniformIntegerResult : Prop :=
  ∀ e ∈ ([(.umulhS, false, fun x y => BitVec.ofInt 32 (x.toInt * y.toInt / 2 ^ 32)),
      (.umulhU, false, fun x y => BitVec.ofNat 32 (x.toNat * y.toNat / 2 ^ 32)),
      (.uand, false, fun x y => x &&& y), (.uor, false, fun x y => x ||| y), (.uxor, false, fun x y => x ^^^ y),
      (.ushl, true, shiftLeft), (.ushr, true, shiftRight), (.usar, true, shiftArith),
      (.uminS, false, fun x y => if x.toInt ≤ y.toInt then x else y), (.uminU, false, fun x y => if x.toNat ≤ y.toNat then x else y),
      (.umaxS, false, fun x y => if y.toInt ≤ x.toInt then x else y), (.umaxU, false, fun x y => if y.toNat ≤ x.toNat then x else y),
      (.ubfx, true, bitField)]
      : List ((Slot → Instr) × Bool × (Word → Word → Word))),
  ∀ q : Taken, q.ready (e.1 q.w) → q.on →
    q.yields (e.1 q.w) [.result 2 [.s q.d ⟨e.2.2 (q.s32 q.a).val (q.uy e.2.1).val, (q.s32 q.a).poison || (q.uy e.2.1).poison⟩]] 0

/-- R171-R173: UADD and USUB with their carry predicate and with saturation, and UMUL. -/
def Obligations.UniformCarryAndSaturation : Prop :=
  (∀ e ∈ ([(.uadd, fun x y c => (BitVec.ofNat 32 (x.toNat + y.toNat + c), decide (x.toNat + y.toNat + c ≥ 2 ^ 32)),
        fun x y => x.toInt + y.toInt),
      (.usub, fun x y c => (BitVec.ofInt 32 ((x.toNat : Int) - y.toNat - c), decide (x.toNat < y.toNat + c)),
        fun x y => x.toInt - y.toInt)]
      : List ((Slot → Instr) × (Word → Word → Nat → Word × Bool) × (Word → Word → Int))),
    ∀ q : Taken, q.ready (e.1 q.w) → q.on →
      let m := q.sc.mod
      let x := (q.s32 q.a).val
      let y := (q.uy false).val
      let po := (q.s32 q.a).poison || (q.uy false).poison
      let n := m.creg.toNat % 8
      let cin : PBit := if m.creg.getLsbD 3 then spreg q.g q.path n else ⟨false, false⟩
      (m.sat = false → m.cv = false → q.yields (e.1 q.w) [.result 2 [.s q.d ⟨(e.2.1 x y 0).1, po⟩]] 0)
      ∧ (m.sat = false → m.cv = true →
          q.yields (e.1 q.w) [.result 2 [.s q.d ⟨(e.2.1 x y (if cin.val then 1 else 0)).1, po || cin.poison⟩,
            .sp n ⟨(e.2.1 x y (if cin.val then 1 else 0)).2, po || cin.poison⟩]] 0)
      ∧ (m.sat = true → q.yields (e.1 q.w) [.result 2 [.s q.d ⟨(clampInt32 (e.2.2 x y)).1, po⟩]]
          (unlessPoison po (if (clampInt32 (e.2.2 x y)).2 then fSAT else 0))))
  ∧ ∀ q : Taken, q.ready (.umul q.w) → q.on →
      let x := (q.s32 q.a).val
      let y := (q.uy false).val
      let po := (q.s32 q.a).poison || (q.uy false).poison
      (q.sc.mod.sat = false → q.yields (.umul q.w) [.result 2 [.s q.d ⟨BitVec.ofNat 32 (x.toNat * y.toNat), po⟩]] 0)
      ∧ (q.sc.mod.sat = true → q.yields (.umul q.w) [.result 2 [.s q.d ⟨(clampInt32 (x.toInt * y.toInt)).1, po⟩]]
          (unlessPoison po (if (clampInt32 (x.toInt * y.toInt)).2 then fSAT else 0)))

/-- R171, R174, R175: the U forms of one operand, the comparisons, the selection and the moves. -/
def Obligations.UniformMovesAndTests : Prop :=
  (∀ q : Taken, q.ready (.umov q.w) → q.on → q.yields (.umov q.w) [.result 2 [.s q.d (q.s32 q.a)]] 0)
  ∧ (∀ q : Taken, ∀ x, q.ready (.umovImm q.w) → q.on → q.w.imm = some x →
      q.yields (.umovImm q.w) [.result 2 [.s q.d ⟨x.signExtend 32, false⟩]] 0)
  ∧ (∀ q : Taken, ∀ x, q.ready (.umovHi q.w) → q.on → q.w.imm = some x →
      q.yields (.umovHi q.w) [.result 2 [.s q.d ⟨BitVec.ofNat 32 ((q.s32 q.d).val.toNat % 2 ^ 24 + x.toNat % 256 * 2 ^ 24),
        (q.s32 q.d).poison⟩]] 0)
  ∧ (∀ q : Taken, q.ready (.upopc q.w) → q.on → q.yields (.upopc q.w) [.result 2 [.s q.d
      ⟨BitVec.ofNat 32 ((List.range 32).countP (q.s32 q.a).val.getLsbD), (q.s32 q.a).poison⟩]] 0)
  ∧ (∀ q : Taken, q.ready (.uclz q.w) → q.on → q.yields (.uclz q.w) [.result 2 [.s q.d
      ⟨leadingZeros (q.s32 q.a).val, (q.s32 q.a).poison⟩]] 0)
  ∧ (∀ q : Taken, q.ready (.ubfi q.w) → q.on → q.yields (.ubfi q.w) [.result 2 [.s q.d
      ⟨insertField (q.s32 q.d).val (q.s32 q.a).val (q.uy true).val, (q.s32 q.a).poison || (q.uy true).poison || (q.s32 q.d).poison⟩]] 0)
  ∧ (∀ q : Taken, q.ready (.usel q.w) → q.on → q.sc.mod.cv = true →
      let c := spreg q.g q.path q.sc.mod.creg.toNat
      q.yields (.usel q.w) [.result 2 [.s q.d ⟨(if c.val then q.s32 q.a else q.uy false).val,
        (q.s32 q.a).poison || (q.uy false).poison || c.poison⟩]] 0)
  ∧ ∀ e ∈ ([(.ucmpS, true), (.ucmpU, false)] : List ((Slot → Instr) × Bool)), ∀ q : Taken, q.ready (e.1 q.w) → q.on →
      q.yields (e.1 q.w) [.result 2 [.sp (q.d % 8) ⟨comparison e.2 (q.d / 8) (q.s32 q.a).val (q.uy false).val,
        (q.s32 q.a).poison || (q.uy false).poison⟩]] 0

/-- R176, R177: UMOVW moves n uniforms between the nameable registers and the file; ULDX and USTX take the index in the file
modulo 2^32, an index above 1023 traps OUT_OF_RANGE, and a poisoned one poisons ULDX's destination. -/
def Obligations.UniformFileMoves : Prop :=
  (∀ q : Taken, ∀ x, q.ready (.umovw q.w) → q.on → q.w.imm = some x →
    let n := x.toNat / 2 ^ 11 % 8 + 1
    let w := x.toNat % 1024
    let out := x.getLsbD 10
    let near := if out then q.a else q.d
    let src := if out then near else w
    let dst := if out then w else near
    (if out then q.d else q.a) = 0 → near + n ≤ 64 → w + n ≤ 1024 →
    (pendingUse q.g q.path ⟨.s, src, n, false⟩ || pendingUse q.g q.path ⟨.s, dst, n, true⟩) = false →
    q.gives (.umovw q.w) q.s [.result 2 ((List.range n).map fun j => .s (dst + j) (q.s32 (src + j)))] 0
      [⟨.s, src, n, false⟩, ⟨.s, dst, n, true⟩])
  ∧ (∀ q : Taken, q.ready (.uldx q.w) → q.on →
    let i := ((q.s32 q.a).val + (q.uy false).val).toNat
    let po := (q.s32 q.a).poison || (q.uy false).poison
    (po = false → i ≤ 1023 → pendingUse q.g q.path ⟨.s, i, 1, false⟩ = false →
      q.gives (.uldx q.w) q.s [.result 2 [.s q.d (q.s32 i)]] 0 [⟨.s, i, 1, false⟩])
    ∧ (po = false → i > 1023 → q.traps (.uldx q.w) 4 0 0)
    ∧ (po = true → q.yields (.uldx q.w) [.result 2 [.s q.d ⟨(q.s32 q.d).val, true⟩]] 0))
  ∧ ∀ q : Taken, q.ready (.ustx q.w) → q.on →
    let i := ((q.s32 q.a).val + (q.uy false).val).toNat
    let po := (q.s32 q.a).poison || (q.uy false).poison
    (po = false → i ≤ 1023 → pendingUse q.g q.path ⟨.s, i, 1, true⟩ = false →
      q.gives (.ustx q.w) q.s [.result 2 [.s i (q.s32 q.d)]] 0 [⟨.s, i, 1, true⟩])
    ∧ (po = false → i > 1023 → q.traps (.ustx q.w) 4 0 0)
    ∧ (po = true → q.traps (.ustx q.w) 7 0 0)

/-- R132, R178: URDS reads every special register of a group but sr.lane, which no uniform can hold, and latches sr.cyclehi with
sr.cycle; UWRS writes the seven that software may write, and one that it may not write traps ILLEGAL_OPERAND. -/
def Obligations.SpecialRegisterAccess : Prop :=
  (∀ q : Taken, q.ready (.urds q.w) → q.on →
    let g := q.g
    let ck := (getCore q.s (coreOf q.is.loc)).ck
    let reads : List (Nat × Word) := [(0x01, g.gidx), (0x02, g.set), (0x03, g.launch),
      (0x04, BitVec.ofNat 32 ((getCtx q.s g.ctx).asn * 65536 + g.ctx)), (0x06, g.cyclehi), (0x07, g.fflags), (0x08, g.lfault),
      (0x09, BitVec.ofNat 32 g.key.toNat), (0x0A, BitVec.ofNat 32 (g.key.toNat / 2 ^ 32)),
      (0x0B, BitVec.ofNat 32 (g.key.toNat / 2 ^ 64)), (0x0C, BitVec.ofNat 32 (g.key.toNat / 2 ^ 96)),
      (0x0D, BitVec.ofNat 32 g.epc.toNat), (0x0E, BitVec.ofNat 32 (g.epc.toNat / 2 ^ 32)),
      (0x0F, (g.ecause &&& 0xFFFFF7FF) ||| (if g.hnd then 0x800 else 0)), (0x10, BitVec.ofNat 32 g.efault.toNat), (0x11, BitVec.ofNat 32 (g.efault.toNat / 2 ^ 32)),
      (0x12, BitVec.ofNat 32 q.path.mask.toNat), (0x13, BitVec.ofNat 32 q.path.depth), (0x14, BitVec.ofNat 32 g.blocks),
      (0x15, BitVec.ofNat 32 (dieOf (coreOf q.is.loc) * 2 ^ 29 + coreOf q.is.loc % 32 * 2 ^ 24 + seqOf q.is.loc % 4 * 2 ^ 22
        + q.is.loc % 64 * 2 ^ 16))]
    (∀ r ∈ reads, q.a = r.1 → q.yields (.urds q.w) [.result 2 [.s q.d ⟨r.2, false⟩]] 0)
    ∧ (q.a = 0x05 → q.yields (.urds q.w) [.result 2 [.s q.d ⟨BitVec.ofNat 32 ck, false⟩], .latchCycle (BitVec.ofNat 32 (ck / 2 ^ 32))] 0)
    ∧ (q.a = 0x00 ∨ q.a > 0x15 → q.traps (.urds q.w) 2 0 0))
  ∧ ∀ q : Taken, q.ready (.uwrs q.w) → q.on →
    (q.d ∈ [0x07, 0x08, 0x0D, 0x0E, 0x0F, 0x10, 0x11] → (q.s32 q.a).poison = false →
      q.yields (.uwrs q.w) [.special q.d (q.s32 q.a).val] 0)
    ∧ (q.d ∈ [0x07, 0x08, 0x0D, 0x0E, 0x0F, 0x10, 0x11] → (q.s32 q.a).poison = true → q.traps (.uwrs q.w) 7 0 0)
    ∧ (q.d ∉ [0x07, 0x08, 0x0D, 0x0E, 0x0F, 0x10, 0x11] → q.traps (.uwrs q.w) 2 0 0)

/-- R75, R167: a U-class slot whose guard is 0 has no effect; one whose guard is poisoned leaves its destination's value with
poison set, and raises no flag. Stated for the forms that write s(d) and name nothing beyond their fields. -/
def Obligations.UniformGuard : Prop :=
  ∀ i ∈ ([.uadd, .usub, .umul, .umulhS, .umulhU, .uand, .uor, .uxor, .ushl, .ushr, .usar, .uminS, .uminU, .umaxS, .umaxU, .ubfx,
      .ubfi, .umov, .upopc, .uclz] : List (Slot → Instr)), ∀ q : Taken, q.ready (i q.w) →
    (scalarGuard q.sc = ⟨false, false⟩ → q.yields (i q.w) [] 0)
    ∧ ((scalarGuard q.sc).poison = true → q.sc.mod.cv = false →
        q.yields (i q.w) [.result 2 [.s q.d ⟨(q.s32 q.d).val, true⟩]] 0)

/-! ## Lane slots (R165-R196) -/

/-- R167, R171: the integer forms of VA and VB that take two operands and touch no carry write their result to v(d) in each
active lane, 4 ck after issue; lanes that are not active keep their value. -/
def Obligations.LaneIntegerResult : Prop :=
  ∀ u : VUnit, ∀ e ∈ ([(.vmulhS u, false, fun x y => BitVec.ofInt 32 (x.toInt * y.toInt / 2 ^ 32)),
      (.vmulhU u, false, fun x y => BitVec.ofNat 32 (x.toNat * y.toNat / 2 ^ 32)),
      (.vand u, false, fun x y => x &&& y), (.vor u, false, fun x y => x ||| y), (.vxor u, false, fun x y => x ^^^ y),
      (.vshl u, true, shiftLeft), (.vshr u, true, shiftRight), (.vsar u, true, shiftArith),
      (.vminS u, false, fun x y => if x.toInt ≤ y.toInt then x else y), (.vminU u, false, fun x y => if x.toNat ≤ y.toNat then x else y),
      (.vmaxS u, false, fun x y => if y.toInt ≤ x.toInt then x else y), (.vmaxU u, false, fun x y => if y.toNat ≤ x.toNat then x else y),
      (.vbfx u, true, bitField)]
      : List ((Slot → Instr) × Bool × (Word → Word → Word))),
  ∀ q : Taken, q.ready (e.1 q.w) →
    q.yields (e.1 q.w) [q.toLanes 4 q.d fun l =>
      ⟨e.2.2 (vreg q.g q.a l).val (q.vy e.2.1 l).val, (vreg q.g q.a l).poison || (q.vy e.2.1 l).poison⟩] 0

/-- R171-R173: VADD and VSUB with their carry predicate and with saturation, and VMUL. -/
def Obligations.LaneCarryAndSaturation : Prop :=
  (∀ u : VUnit, ∀ e ∈ ([(.vadd u, fun x y c => (BitVec.ofNat 32 (x.toNat + y.toNat + c), decide (x.toNat + y.toNat + c ≥ 2 ^ 32)),
        fun x y => x.toInt + y.toInt),
      (.vsub u, fun x y c => (BitVec.ofInt 32 ((x.toNat : Int) - y.toNat - c), decide (x.toNat < y.toNat + c)),
        fun x y => x.toInt - y.toInt)]
      : List ((Slot → Instr) × (Word → Word → Nat → Word × Bool) × (Word → Word → Int))),
    ∀ q : Taken, q.ready (e.1 q.w) →
      let m := q.sc.mod
      let x (l : Nat) := (vreg q.g q.a l).val
      let y (l : Nat) := (q.vy false l).val
      let po (l : Nat) := (vreg q.g q.a l).poison || (q.vy false l).poison
      let n := m.creg.toNat % 8
      let cin (l : Nat) : PBit := if m.creg.getLsbD 3 then ⟨(preg q.g n).val.getLsbD l, (preg q.g n).poison.getLsbD l⟩ else ⟨false, false⟩
      let r (l : Nat) := e.2.1 (x l) (y l) (if (cin l).val then 1 else 0)
      (m.sat = false → m.cv = false → q.yields (e.1 q.w) [q.toLanes 4 q.d fun l => ⟨(e.2.1 (x l) (y l) 0).1, po l⟩] 0)
      ∧ (m.sat = false → m.cv = true →
          q.yields (e.1 q.w) [.result 4 (q.act.flatMap (fun l =>
              [.v q.d l ⟨(r l).1, po l || (cin l).poison⟩, .p n l ⟨(r l).2, po l || (cin l).poison⟩])
            ++ q.dim.flatMap fun l => [.v q.d l ⟨(vreg q.g q.d l).val, true⟩, .p n l ⟨(preg q.g n).val.getLsbD l, true⟩])] 0)
      ∧ (m.sat = true → q.yields (e.1 q.w) [q.toLanes 4 q.d fun l => ⟨(clampInt32 (e.2.2 (x l) (y l))).1, po l⟩]
          (flagUnion (q.act.map fun l => unlessPoison (po l) (if (clampInt32 (e.2.2 (x l) (y l))).2 then fSAT else 0)))))
  ∧ ∀ u : VUnit, ∀ q : Taken, q.ready (.vmul u q.w) →
      let x (l : Nat) := (vreg q.g q.a l).val
      let y (l : Nat) := (q.vy false l).val
      let po (l : Nat) := (vreg q.g q.a l).poison || (q.vy false l).poison
      (q.sc.mod.sat = false →
        q.yields (.vmul u q.w) [q.toLanes 4 q.d fun l => ⟨BitVec.ofNat 32 ((x l).toNat * (y l).toNat), po l⟩] 0)
      ∧ (q.sc.mod.sat = true →
        q.yields (.vmul u q.w) [q.toLanes 4 q.d fun l => ⟨(clampInt32 ((x l).toInt * (y l).toInt)).1, po l⟩]
          (flagUnion (q.act.map fun l => unlessPoison (po l) (if (clampInt32 ((x l).toInt * (y l).toInt)).2 then fSAT else 0))))

/-- R171, R174, R179: the lane forms of one operand, the insertion, the selection, the comparisons and the predicate forms. -/
def Obligations.LaneTestsAndPredicates : Prop :=
  ∀ u : VUnit, ∀ q : Taken,
    let x (l : Nat) := vreg q.g q.a l
    let pa (l : Nat) := (preg q.g q.a).val.getLsbD l
    let pb (l : Nat) := (preg q.g q.b).val.getLsbD l
    let ppo (l : Nat) := (preg q.g q.a).poison.getLsbD l || (preg q.g q.b).poison.getLsbD l
    (q.ready (.vclz u q.w) → q.yields (.vclz u q.w) [q.toLanes 4 q.d fun l => ⟨leadingZeros (x l).val, (x l).poison⟩] 0)
    ∧ (q.ready (.vpopc u q.w) → q.yields (.vpopc u q.w) [q.toLanes 4 q.d fun l =>
        ⟨BitVec.ofNat 32 ((List.range 32).countP (x l).val.getLsbD), (x l).poison⟩] 0)
    ∧ (q.ready (.vbfi u q.w) → q.yields (.vbfi u q.w) [q.toLanes 4 q.d fun l =>
        ⟨insertField (vreg q.g q.d l).val (x l).val (q.vy true l).val, (x l).poison || (q.vy true l).poison || (vreg q.g q.d l).poison⟩] 0)
    ∧ (q.ready (.vsel u q.w) → q.sc.mod.cv = true →
        let c := preg q.g q.sc.mod.creg.toNat
        q.yields (.vsel u q.w) [q.toLanes 4 q.d fun l => ⟨(if c.val.getLsbD l then x l else q.vy false l).val,
          (x l).poison || (q.vy false l).poison || c.poison.getLsbD l⟩] 0)
    ∧ (∀ e ∈ ([(.vcmpS u, true), (.vcmpU u, false)] : List ((Slot → Instr) × Bool)), q.ready (e.1 q.w) →
        q.yields (e.1 q.w) [q.toPred 4 (q.d % 8) fun l => ⟨comparison e.2 (q.d / 8) (x l).val (q.vy false l).val,
          (x l).poison || (q.vy false l).poison⟩] 0)
    ∧ (∀ e ∈ ([(.pand u, fun a b => a && b), (.por u, fun a b => a || b), (.pxor u, fun a b => a != b)]
        : List ((Slot → Instr) × (Bool → Bool → Bool))), q.ready (e.1 q.w) →
        q.yields (e.1 q.w) [q.toPred 4 q.d fun l => ⟨e.2 (pa l) (pb l), ppo l⟩] 0)
    ∧ (q.ready (.pnot u q.w) → q.yields (.pnot u q.w) [q.toPred 4 q.d fun l => ⟨!pa l, (preg q.g q.a).poison.getLsbD l⟩] 0)

/-- R180-R184: VSHUF by register, butterfly and rotation; VBCAST of a uniform and of the lane number; VRED down the tree of R48
and VVOTE to a uniform, which a poisoned guard leaves with poison set; the quad differences. -/
def Obligations.LaneExchange : Prop :=
  ∀ u : VUnit, ∀ q : Taken,
    (q.ready (.vshuf u q.w) →
      let src (l : Nat) : Nat × Bool := match q.w.imm with
        | none => ((vreg q.g q.b l).val.toNat % 16, (vreg q.g q.b l).poison)
        | some x => (if x.getLsbD 4 then (l + x.toNat % 16) % 16 else l ^^^ (x.toNat % 16), false)
      q.yields (.vshuf u q.w) [q.toLanes 6 q.d fun l =>
        ⟨(vreg q.g q.a (src l).1).val, (vreg q.g q.a (src l).1).poison || (src l).2⟩] 0)
    ∧ (q.ready (.vbcast u q.w) → q.yields (.vbcast u q.w) [q.toLanes 6 q.d fun _ => q.s32 q.a] 0)
    ∧ (q.ready (.vbcastLane u q.w) → q.yields (.vbcastLane u q.w) [q.toLanes 6 q.d fun l => ⟨BitVec.ofNat 32 l, false⟩] 0)
    ∧ (q.ready (.vred u q.w) → (q.b = 1 ∨ q.sc.mod.rm = 0) →
      let op := redOp q.b q.sc.mod.rm.toNat
      let r := redTree op.1 ((List.range 16).map fun l => if (actives q.sc).getLsbD l then some (vreg q.g q.a l).val else none)
      let po := q.act.any fun l => (vreg q.g q.a l).poison
      (guardPoison q.sc = 0 → po = false →
        q.yields (.vred u q.w) [.result 10 [.s q.d ⟨r.1.getD op.2, false⟩]] r.2)
      ∧ (guardPoison q.sc ≠ 0 → q.yields (.vred u q.w) [.result 10 [.s q.d ⟨(q.s32 q.d).val, true⟩]] 0))
    ∧ (q.ready (.vvote u q.w) →
      (guardPoison q.sc = 0 →
        q.yields (.vvote u q.w) [.result 6 [.s q.d ⟨BitVec.ofNat 32 (actives q.sc &&& (preg q.g q.a).val).toNat,
          decide (actives q.sc &&& (preg q.g q.a).poison ≠ 0)⟩]] 0)
      ∧ (guardPoison q.sc ≠ 0 → q.yields (.vvote u q.w) [.result 6 [.s q.d ⟨(q.s32 q.d).val, true⟩]] 0))
    ∧ ∀ e ∈ ([(.vqdx u, 1), (.vqdy u, 2)] : List ((Slot → Instr) × Nat)), q.ready (e.1 q.w) →
      let lo (l : Nat) := if q.b ≠ 0 then l / 4 * 4 else if e.2 = 1 then l / 2 * 2 else l / 4 * 4 + l % 2
      let r (l : Nat) := fsub binary32 q.sc.mod.rm.toNat (f32 (vreg q.g q.a (lo l + e.2)).val) (f32 (vreg q.g q.a (lo l)).val)
      let po (l : Nat) := (vreg q.g q.a (lo l + e.2)).poison || (vreg q.g q.a (lo l)).poison
      q.yields (e.1 q.w) [q.toLanes 6 q.d fun l => ⟨BitVec.ofNat 32 (r l).1, po l⟩] (flagUnion (q.act.map fun l => unlessPoison (po l) (r l).2))

/-- R75, R182, R187, R188: the binary32 forms act in each active lane on decoded operands under RM, with the latencies of R71;
flags come from lanes whose result is not poisoned. The addend of FFMA is v(d), or v(CREG) with CV.
VRED with a poisoned active lane poisons s(d) and raises no flag, which is the model's reading (notes/assumptions/30.md, DEDUCED). -/
def Obligations.LaneBinary32 : Prop :=
  ∀ u : VUnit, ∀ q : Taken,
    let rm := q.sc.mod.rm.toNat
    let x (l : Nat) := vreg q.g q.a l
    let y (l : Nat) := q.vyF32 l
    (∀ e ∈ ([(.faddF32 u, 6, fadd binary32 rm), (.fsubF32 u, 6, fsub binary32 rm), (.fmulF32 u, 6, fmul binary32 rm),
        (.fminF32 u, 6, fminmax false binary32), (.fmaxF32 u, 6, fminmax true binary32)]
        : List ((Slot → Instr) × Nat × (FVal → FVal → Nat × BitVec 6))), q.ready (e.1 q.w) →
      let r (l : Nat) := e.2.2 (f32 (x l).val) (f32 (y l).val)
      q.yields (e.1 q.w) [q.toLanes e.2.1 q.d fun l => ⟨BitVec.ofNat 32 (r l).1, (x l).poison || (y l).poison⟩]
        (flagUnion (q.act.map fun l => unlessPoison ((x l).poison || (y l).poison) (r l).2)))
    ∧ (q.ready (.fdivF32 u q.w) → q.sc.mod.fmt ≠ 7 →
      let r (l : Nat) := fdiv binary32 rm (f32 (x l).val) (f32 (y l).val)
      q.yields (.fdivF32 u q.w) [q.toLanes 24 q.d fun l => ⟨BitVec.ofNat 32 (r l).1, (x l).poison || (y l).poison⟩]
        (flagUnion (q.act.map fun l => unlessPoison ((x l).poison || (y l).poison) (r l).2)))
    ∧ (∀ e ∈ ([(.fsqrtF32 u, fsqrt binary32 rm), (.frcpF32 u, frcp binary32 rm), (.frsqF32 u, frsq binary32 rm), (.fexp2F32 u, fexp2 rm),
        (.flog2F32 u, flog2 rm), (.fsinF32 u, fsincos 0 rm), (.fcosF32 u, fsincos 1 rm)]
        : List ((Slot → Instr) × (FVal → Nat × BitVec 6))), q.ready (e.1 q.w) →
      let r (l : Nat) := e.2 (f32 (x l).val)
      q.yields (e.1 q.w) [q.toLanes 24 q.d fun l => ⟨BitVec.ofNat 32 (r l).1, (x l).poison⟩]
        (flagUnion (q.act.map fun l => unlessPoison (x l).poison (r l).2)))
    ∧ (q.ready (.ffmaF32 u q.w) →
      let z (l : Nat) := vreg q.g (if q.sc.mod.cv then q.sc.mod.creg.toNat else q.d) l
      let r (l : Nat) := ffma binary32 rm (f32 (x l).val) (f32 (y l).val) (f32 (z l).val)
      let po (l : Nat) := (x l).poison || (y l).poison || (z l).poison
      q.yields (.ffmaF32 u q.w) [q.toLanes 6 q.d fun l => ⟨BitVec.ofNat 32 (r l).1, po l⟩]
        (flagUnion (q.act.map fun l => unlessPoison (po l) (r l).2)))
    ∧ (q.ready (.fcmpF32 u q.w) →
      let po (l : Nat) := (x l).poison || (y l).poison
      q.yields (.fcmpF32 u q.w) [q.toPred 4 (q.d % 8) fun l => ⟨fcmpCond (q.d / 8) (f32 (x l).val) (f32 (y l).val), po l⟩]
        (flagUnion (q.act.map fun l => unlessPoison (po l) (sigFlag [f32 (x l).val, f32 (y l).val]))))
    ∧ (q.ready (.vred u q.w) → (q.b = 1 ∨ q.sc.mod.rm = 0) → guardPoison q.sc = 0 → (∃ l ∈ q.act, (x l).poison = true) →
      let op := redOp q.b q.sc.mod.rm.toNat
      let r := redTree op.1 ((List.range 16).map fun l => if (actives q.sc).getLsbD l then some (x l).val else none)
      q.yields (.vred u q.w) [.result 10 [.s q.d ⟨r.1.getD op.2, true⟩]] 0)

/-- R189: FDIV with FMT = 7 divides signed integers under RM, clamped with SAT; a divisor of 0 in an active lane whose operands
are not poisoned traps DIVIDE_BY_ZERO with the lanes named. -/
def Obligations.LaneIntegerDivision : Prop :=
  ∀ u : VUnit, ∀ q : Taken, q.ready (.fdivF32 u q.w) → q.sc.mod.fmt = 7 →
    let x (l : Nat) := vreg q.g q.a l
    let y (l : Nat) := q.vy false l
    let po (l : Nat) := (x l).poison || (y l).poison
    let neg (l : Nat) : Bool := decide ((x l).val.toInt < 0) != decide ((y l).val.toInt < 0)
    let r (l : Nat) : Int :=
      (roundInt q.sc.mod.rm.toNat { neg := neg l, num := (x l).val.toInt.natAbs, den := (y l).val.toInt.natAbs, e := 0 }).1
    ((∀ l ∈ q.act, po l = false → (y l).val ≠ 0) → (∀ l ∈ q.act, po l = false) →
      (q.sc.mod.sat = false → q.yields (.fdivF32 u q.w) [q.toLanes 24 q.d fun l => ⟨BitVec.ofInt 32 (r l), po l⟩] 0)
      ∧ (q.sc.mod.sat = true → q.yields (.fdivF32 u q.w) [q.toLanes 24 q.d fun l => ⟨(clampInt32 (r l)).1, po l⟩]
          (flagUnion (q.act.map fun l => if (clampInt32 (r l)).2 then fSAT else 0))))
    ∧ ((∃ l ∈ q.act, po l = false ∧ (y l).val = 0) →
      q.traps (.fdivF32 u q.w) 8 0 (maskOf fun l => (actives q.sc).getLsbD l && !po l && (y l).val == 0))

/-- R187, R188: the binary16 forms act on both halves of each active lane's word; the binary64 forms on even–odd pairs. -/
def Obligations.LaneBinary16And64 : Prop :=
  ∀ u : VUnit, ∀ q : Taken,
    let rm := q.sc.mod.rm.toNat
    let half (x : Word) (k : Nat) : FVal := decodeF binary16 (x.toNat / 2 ^ (16 * k) % 65536)
    let x (l : Nat) := vreg q.g q.a l
    let y (l : Nat) := q.vyF16 l
    let X (l : Nat) := vpair q.g q.a l
    let Y (l : Nat) := vpair q.g q.b l
    let dbl (v : Nat × Bool) : FVal := decodeF binary64 v.1
    (∀ e ∈ ([(.faddF16 u, fadd binary16 rm), (.fsubF16 u, fsub binary16 rm), (.fmulF16 u, fmul binary16 rm)]
        : List ((Slot → Instr) × (FVal → FVal → Nat × BitVec 6))), q.ready (e.1 q.w) →
      let r (l k : Nat) := e.2 (half (x l).val k) (half (y l).val k)
      let po (l : Nat) := (x l).poison || (y l).poison
      q.yields (e.1 q.w) [q.toLanes 6 q.d fun l => ⟨BitVec.ofNat 32 ((r l 0).1 + 65536 * (r l 1).1), po l⟩]
        (flagUnion (q.act.map fun l => unlessPoison (po l) ((r l 0).2 ||| (r l 1).2))))
    ∧ (q.ready (.ffmaF16 u q.w) →
      let z (l : Nat) := vreg q.g (if q.sc.mod.cv then q.sc.mod.creg.toNat else q.d) l
      let r (l k : Nat) := ffma binary16 rm (half (x l).val k) (half (y l).val k) (half (z l).val k)
      let po (l : Nat) := (x l).poison || (y l).poison || (z l).poison
      q.yields (.ffmaF16 u q.w) [q.toLanes 6 q.d fun l => ⟨BitVec.ofNat 32 ((r l 0).1 + 65536 * (r l 1).1), po l⟩]
        (flagUnion (q.act.map fun l => unlessPoison (po l) ((r l 0).2 ||| (r l 1).2))))
    ∧ (∀ e ∈ ([(.faddF64 u, 12, fadd binary64 rm), (.fsubF64 u, 12, fsub binary64 rm), (.fmulF64 u, 12, fmul binary64 rm),
        (.fminF64 u, 12, fminmax false binary64), (.fmaxF64 u, 12, fminmax true binary64), (.fdivF64 u, 48, fdiv binary64 rm)]
        : List ((Slot → Instr) × Nat × (FVal → FVal → Nat × BitVec 6))), q.ready (e.1 q.w) →
      let r (l : Nat) := e.2.2 (dbl (X l)) (dbl (Y l))
      q.yields (e.1 q.w) [q.toPairs e.2.1 q.d fun l => ((r l).1, (X l).2 || (Y l).2)]
        (flagUnion (q.act.map fun l => unlessPoison ((X l).2 || (Y l).2) (r l).2)))
    ∧ (∀ e ∈ ([(.fsqrtF64 u, fsqrt binary64 rm), (.frcpF64 u, frcp binary64 rm), (.frsqF64 u, frsq binary64 rm)]
        : List ((Slot → Instr) × (FVal → Nat × BitVec 6))), q.ready (e.1 q.w) →
      q.yields (e.1 q.w) [q.toPairs 48 q.d fun l => ((e.2 (dbl (X l))).1, (X l).2)]
        (flagUnion (q.act.map fun l => unlessPoison (X l).2 (e.2 (dbl (X l))).2)))
    ∧ (q.ready (.ffmaF64 u q.w) →
      let Z (l : Nat) := vpair q.g (if q.sc.mod.cv then q.sc.mod.creg.toNat else q.d) l
      let r (l : Nat) := ffma binary64 rm (dbl (X l)) (dbl (Y l)) (dbl (Z l))
      let po (l : Nat) := (X l).2 || (Y l).2 || (Z l).2
      q.yields (.ffmaF64 u q.w) [q.toPairs 12 q.d fun l => ((r l).1, po l)] (flagUnion (q.act.map fun l => unlessPoison (po l) (r l).2)))
    ∧ (q.ready (.fcmpF64 u q.w) →
      let po (l : Nat) := (X l).2 || (Y l).2
      q.yields (.fcmpF64 u q.w) [q.toPred 4 (q.d % 8) fun l => ⟨fcmpCond (q.d / 8) (dbl (X l)) (dbl (Y l)), po l⟩]
        (flagUnion (q.act.map fun l => unlessPoison (po l) (sigFlag [dbl (X l), dbl (Y l)]))))

/-- R190-R196: CVT takes element B<2:0> of FMT's width from v(a) (binary64 from a pair), converts it, and puts it into element
B<5:3> of v(d), whose other bits stay; RM = 5 pops each active lane's Wellspring word.
CPACK packs the thirty-two values of the pair v(a), v(a + 1) over the lanes into one block, each active lane taking its byte and the
scale code; CUNPACK gives back a lane's two values.
The model's choices in it: CUNPACK reads no B field, so every B does the same (notes/assumptions/11.md, DESIGN CHOICE), an E8M0
element of 0xFF is a NaN, and a scale code of 0xFF gives one for the destinations R194 does not name
(notes/assumptions/25.md, DESIGN CHOICE). -/
def Obligations.ConvertAndPack : Prop :=
  (∀ e ∈ ([(.cvtF64, 1), (.cvtF32, 2), (.cvtF16, 3), (.cvtBf16, 4), (.cvtE4m3, 5), (.cvtE5m2, 6), (.cvtI32, 7), (.cvtI16, 8), (.cvtI8, 9),
      (.cvtI4, 10), (.cvtUn8, 11), (.cvtSrgb8, 12), (.cvtB1, 13), (.cvtE8m0, 14)] : List ((Slot → Instr) × Nat)),
  ∀ q : Taken, q.ready (e.1 q.w) →
    let m := q.sc.mod
    let src := if m.fmt = 0 then 2 else m.fmt.toNat
    let w := elemWidth e.2
    let x (l : Nat) : Nat × Bool := if src = 1 then vpair q.g q.a l else ((vreg q.g q.a l).val.toNat, (vreg q.g q.a l).poison)
    let code (l : Nat) := if src = 1 then (x l).1 else (x l).1 / 2 ^ (elemWidth src * (q.b % 8)) % 2 ^ elemWidth src
    let scale := if m.cv then some ((tget 0 q.g.k m.creg.toNat).toNat % 256) else none
    let r (l : Nat) := cvtValue e.2 src (code l) ⟨m.rm.toNat, (streamOf q.g l).queue.headD 0⟩ m.sat scale
    let po (l : Nat) := (x l).2 || (decide (w < 32) && (vreg q.g q.d l).poison)
    let us : List RegUse := [⟨.v, q.a, if src = 1 then 2 else 1, false⟩, ⟨.v, q.d, if e.2 = 1 then 2 else 1, true⟩]
    (src = 1 → q.a % 2 = 0) → (e.2 = 1 → q.d % 2 = 0) →
    (∀ k ∈ us, k.first + k.cnt ≤ 8 * q.g.blocks ∧ pendingUse q.g q.path k = false) →
    (m.rm = 5 → ∀ l ∈ q.act, (streamOf q.g l).queue ≠ []) →
    q.gives (e.1 q.w) q.s
      ((if e.2 = 1 then q.toPairs 8 q.d fun l => ((r l).1, po l)
        else q.toLanes 8 q.d fun l => ⟨putElem w (q.b / 8) (vreg q.g q.d l).val (r l).1, po l⟩)
        :: (if m.rm = 5 then [.popRandom (actives q.sc)] else []))
      (flagUnion (q.act.map fun l => unlessPoison (po l) (r l).2)) us)
  ∧ (∀ q : Taken, q.ready (.cpack q.w) →
    let blk := q4Pack ((List.range 32).map fun i =>
      if (actives q.sc).getLsbD (i / 2) then f32 (vreg q.g (q.a + i % 2) (i / 2)).val else .fin false 0 0)
    let po := q.act.any fun l => (vreg q.g q.a l).poison || (vreg q.g (q.a + 1) l).poison
    q.yields (.cpack q.w) [q.toLanes 8 q.d fun l => ⟨BitVec.ofNat 32 (blk.2.1.getD l 0 + 256 * blk.1), po⟩]
      (if actives q.sc = 0 then 0 else unlessPoison po blk.2.2))
  ∧ ∀ q : Taken, q.ready (.cunpack q.w) →
    let x (l : Nat) := vreg q.g q.a l
    let e (l : Nat) := (x l).val.toNat / 256 % 256
    let n (l : Nat) := q4Decode ((x l).val.toNat % 256)
    let v (l : Nat) (i : Int) : Nat × BitVec 6 := if e l = 255 then (canonNaN binary32, fNV)
      else roundF binary32 q.sc.mod.rm.toNat { neg := decide (i < 0), num := i.natAbs, e := (e l : Int) - 127 }
    q.yields (.cunpack q.w) [q.toPairs 8 q.d fun l => ((v l (n l).1).1 % 2 ^ 32 + 2 ^ 32 * (v l (n l).2.1).1, (x l).poison)]
      (flagUnion (q.act.map fun l => unlessPoison (x l).poison
        ((v l (n l).1).2 ||| (v l (n l).2.1).2 ||| (if (n l).2.2 then fNV else 0))))

/-! ## Memory slots (R199-R230) -/

/-- R200, R203, R207, R376: LD with every lane's address clean, in range, aligned and translated makes one load of its size at
those addresses, which binds later; with `.lanefault` the lanes that fail are recorded and the others load; lanes with a
poisoned guard keep their registers with poison set. An address that is poisoned in an active lane, or in one whose guard is
poisoned, traps POISON. LDS raises nothing: a lane whose address is poisoned or fails a check keeps its registers with poison set, and
the others load. -/
def Obligations.GlobalLoadIssue : Prop :=
  (∀ e ∈ ([(.ldB8, 1, false), (.ldS8, 1, true), (.ldB16, 2, false), (.ldS16, 2, true), (.ldB32, 4, false), (.ldB64, 8, false)]
    : List ((Slot → Instr) × Nat × Bool)),
  ∀ q : Taken, q.ready (e.1 q.w) →
    let ea (l : Nat) := (globalEa q.sc l).1
    let entry (good : List LaneCheck) := accessEff q.sc (.load (8 * e.2.1) e.2.2 q.d) false e.2.1 (good.map readAccess)
    let kept := poisonedDest q.sc q.d (regsOf e.2.1) (guardPoison q.sc)
    (∀ s' l, q.clean (fun l => (globalEa q.sc l).2) → q.checks { r := true } e.2.1 ea = (s', some l) →
      ((∀ x ∈ l, x.cause = 0) → q.sc.mod.lf = false → q.gives (e.1 q.w) s' (entry l ++ kept ++ traceEff q.sc l) 0 [])
      ∧ (q.sc.mod.lf = true → q.gives (e.1 q.w) s'
          (laneFaultEff q.sc q.f.op l ++ (entry (l.filter fun x => x.cause == 0) ++ kept) ++ traceEff q.sc l) 0 []))
    ∧ (¬q.clean (fun l => (globalEa q.sc l).2) →
      q.traps (e.1 q.w) 7 0 (maskOf fun l => (actives q.sc ||| guardPoison q.sc).getLsbD l && (globalEa q.sc l).2)))
  ∧ ∀ e ∈ ([(.ldsB8, 1, false), (.ldsS8, 1, true), (.ldsB16, 2, false), (.ldsS16, 2, true), (.ldsB32, 4, false), (.ldsB64, 8, false)]
      : List ((Slot → Instr) × Nat × Bool)),
    ∀ q : Taken, q.ready (e.1 q.w) →
      let lanes := (q.act.filter fun l => !(globalEa q.sc l).2).map fun l => (l, (globalEa q.sc l).1)
      ∀ s' l, checkLanes q.s q.is.loc q.g.ctx { r := true } e.2.1 lanes = (s', some l) →
        let good := l.filter fun x => x.cause == 0
        let lost := maskOf fun i => (actives q.sc).getLsbD i && !(good.any fun x => x.lane == i)
        q.gives (e.1 q.w) s' (accessEff q.sc (.load (8 * e.2.1) e.2.2 q.d) false e.2.1 (good.map readAccess)
          ++ poisonedDest q.sc q.d (regsOf e.2.1) (lost ||| guardPoison q.sc) ++ traceEff q.sc l) 0 []

/-- R204, R208: ST with every address clean and passed and every datum clean makes one write, at its addresses, of the bytes of
its datum; with `.lanefault` the lanes that fail are recorded and the others store. -/
def Obligations.GlobalStoreIssue : Prop :=
  ∀ e ∈ ([(.stB8, 1), (.stB16, 2), (.stB32, 4), (.stB64, 8)] : List ((Slot → Instr) × Nat)),
  ∀ q : Taken, q.ready (e.1 q.w) →
    let bytes (x : LaneCheck) : LaneAccess :=
      { lane := x.lane, va := x.ea, pa := x.pa, data := natLe (vpair q.g q.d x.lane).1 e.2 }
    let entry (good : List LaneCheck) := accessEff q.sc .write false e.2 (good.map bytes)
    let dirty (l : Nat) := (globalEa q.sc l).2 || (List.range (regsOf e.2)).any fun j => (vreg q.g (q.d + j) l).poison
    (∀ s' l, q.clean dirty → q.checks { w := true } e.2 (fun l => (globalEa q.sc l).1) = (s', some l) →
      ((∀ x ∈ l, x.cause = 0) → q.sc.mod.lf = false → q.gives (e.1 q.w) s' (entry l ++ traceEff q.sc l) 0 [])
      ∧ (q.sc.mod.lf = true → q.gives (e.1 q.w) s'
          (laneFaultEff q.sc q.f.op l ++ entry (l.filter fun x => x.cause == 0) ++ traceEff q.sc l) 0 []))
    ∧ (¬q.clean dirty → q.traps (e.1 q.w) 7 0 (maskOf fun l => (actives q.sc ||| guardPoison q.sc).getLsbD l && dirty l))

/-- R201, R211, R225, R376, R384: an LD, ST, LDP, STP, ATOM or ATOMC without `.lanefault` of which a lane fails traps or parks:
out of range first, then misaligned, then a page that is not present, which parks the path and posts a report with the access's
code, then a protection, which for a pond address is a bank that is no scratchpad. -/
def Obligations.FailedAccessOrder : Prop :=
  let first (k : Nat) (l : List LaneCheck) : Nat := (firstWith k l).1
  let has (k : Nat) (l : List LaneCheck) : Prop := lanesWith k l ≠ 0
  (∀ e ∈ ([(.ldB8, 1, 1, 0), (.ldS8, 1, 1, 0), (.ldB16, 1, 2, 0), (.ldS16, 1, 2, 0), (.ldB32, 1, 4, 0), (.ldB64, 1, 8, 0),
      (.stB8, 2, 1, 1), (.stB16, 2, 2, 1), (.stB32, 2, 4, 1), (.stB64, 2, 8, 2),
      (.atomAdd, 3, 4, 1), (.atomMinS, 3, 4, 1), (.atomMinU, 3, 4, 1), (.atomMaxS, 3, 4, 1), (.atomMaxU, 3, 4, 1), (.atomAnd, 3, 4, 1),
      (.atomOr, 3, 4, 1), (.atomXor, 3, 4, 1), (.atomExch, 3, 4, 1), (.atomAddB64, 3, 8, 2), (.atomExchB64, 3, 8, 2),
      (.atomFaddF32, 3, 4, 1), (.atomFminF32, 3, 4, 1), (.atomFmaxF32, 3, 4, 1), (.atomcB32, 3, 4, 2), (.atomcB64, 3, 8, 4)]
      : List ((Slot → Instr) × Nat × Nat × Nat)),
    let code := e.2.1
    let size := e.2.2.1
    let need : Need := { r := code != 2, w := code != 1 }
    ∀ q : Taken, q.ready (e.1 q.w) → q.sc.mod.lf = false →
    q.clean (fun l => (globalEa q.sc l).2 || (List.range e.2.2.2).any fun j => (vreg q.g (q.d + j) l).poison) →
    ∀ s' l, q.checks need size (fun l => (globalEa q.sc l).1) = (s', some l) →
      (has 4 l → exec (e.1 q.w) q.s = .next (trapSlot s' q.is q.is.idx ⟨4, first 4 l, lanesWith 4 l, 0⟩))
      ∧ (¬has 4 l → has 3 l → exec (e.1 q.w) q.s = .next (trapSlot s' q.is q.is.idx ⟨3, first 3 l, lanesWith 3 l, 0⟩))
      ∧ (¬has 4 l → ¬has 3 l → has 1 l → exec (e.1 q.w) q.s = .next (parkOnPage (chargeIssued s' q.is) q.is
          { source := 4, access := code, va := first 1 l, slot := q.is.idx, level := (firstWith 1 l).2, lanes := (lanesWith 1 l).toNat }))
      ∧ (¬has 4 l → ¬has 3 l → ¬has 1 l → has 2 l →
          exec (e.1 q.w) q.s = .next (trapSlot s' q.is q.is.idx ⟨6, first 2 l, lanesWith 2 l, 0⟩)))
  ∧ ∀ e ∈ ([(.ldpB8, 1, 0), (.ldpS8, 1, 0), (.ldpB16, 2, 0), (.ldpS16, 2, 0), (.ldpB32, 4, 0), (.ldpB64, 8, 0),
      (.stpB8, 1, 1), (.stpB16, 2, 1), (.stpB32, 4, 1), (.stpB64, 8, 2)] : List ((Slot → Instr) × Nat × Nat)),
    ∀ q : Taken, q.ready (e.1 q.w) → q.sc.mod.lf = false →
    q.clean (fun l => (pondEa q.sc l).2 || (List.range e.2.2).any fun j => (vreg q.g (q.d + j) l).poison) →
    (∀ l ∈ q.act, fencedAt q.s q.g (pondEa q.sc l).1 = false) →
    let l := q.act.map fun i => checkPond q.s q.g e.2.1 i (pondEa q.sc i).1
    (has 4 l → q.traps (e.1 q.w) 4 (first 4 l) (lanesWith 4 l))
    ∧ (¬has 4 l → has 3 l → q.traps (e.1 q.w) 3 (first 3 l) (lanesWith 3 l))
    ∧ (¬has 4 l → ¬has 3 l → has 2 l → q.traps (e.1 q.w) 6 (first 2 l) (lanesWith 2 l))

/-- R200, R208, R211, R212, R215: LDP and STP with every address clean make one access to pond memory of the lanes that stand in a
scratchpad bank of the set, aligned: of all, or with `.lanefault` of those that pass while the others are recorded. An address in a
bank that a bank-mode fence has taken holds the bundle. -/
def Obligations.PondAccessIssue : Prop :=
  ∀ q : Taken,
    let ea (l : Nat) := (pondEa q.sc l).1
    let chk (size : Nat) : List LaneCheck := q.act.map fun l => checkPond q.s q.g size l (ea l)
    let passed (size : Nat) : List LaneCheck := (chk size).filter fun x => x.cause == 0
    let free : Prop := ∀ l ∈ q.act, fencedAt q.s q.g (ea l) = false
    (∀ e ∈ ([(.ldpB8, 1, false), (.ldpS8, 1, true), (.ldpB16, 2, false), (.ldpS16, 2, true), (.ldpB32, 4, false), (.ldpB64, 8, false)]
        : List ((Slot → Instr) × Nat × Bool)), q.ready (e.1 q.w) → q.clean (fun l => (pondEa q.sc l).2) →
      let entry (good : List LaneCheck) := accessEff q.sc (.load (8 * e.2.1) e.2.2 q.d) true e.2.1 (good.map readAccess)
      let kept := poisonedDest q.sc q.d (regsOf e.2.1) (guardPoison q.sc)
      (free → (∀ x ∈ chk e.2.1, x.cause = 0) → q.sc.mod.lf = false →
        q.gives (e.1 q.w) q.s (entry (chk e.2.1) ++ kept ++ traceEff q.sc (chk e.2.1)) 0 [])
      ∧ (free → q.sc.mod.lf = true → q.gives (e.1 q.w) q.s
          (laneFaultEff q.sc q.f.op (chk e.2.1) ++ (entry (passed e.2.1) ++ kept) ++ traceEff q.sc (chk e.2.1)) 0 [])
      ∧ (¬free → exec (e.1 q.w) q.s = .next (holdSlot q.s q.is false)))
    ∧ ∀ e ∈ ([(.stpB8, 1), (.stpB16, 2), (.stpB32, 4), (.stpB64, 8)] : List ((Slot → Instr) × Nat)), q.ready (e.1 q.w) →
      q.clean (fun l => (pondEa q.sc l).2 || (List.range (regsOf e.2)).any fun j => (vreg q.g (q.d + j) l).poison) →
      let entry (good : List LaneCheck) := accessEff q.sc .write true e.2 (good.map fun x =>
        { lane := x.lane, va := x.ea, pa := x.pa, data := natLe (vpair q.g q.d x.lane).1 e.2 })
      (free → (∀ x ∈ chk e.2, x.cause = 0) → q.sc.mod.lf = false →
        q.gives (e.1 q.w) q.s (entry (chk e.2) ++ traceEff q.sc (chk e.2)) 0 [])
      ∧ (free → q.sc.mod.lf = true → q.gives (e.1 q.w) q.s
          (laneFaultEff q.sc q.f.op (chk e.2) ++ entry (passed e.2) ++ traceEff q.sc (chk e.2)) 0 [])
      ∧ (¬free → exec (e.1 q.w) q.s = .next (holdSlot q.s q.is false))

/-- R208, R219-R223: LDT and STT of a tensor in range with clean coordinates. The descriptor is kept, or read through the context's
translation and kept from then on, which is the model's choice (R220 lets the units keep it; notes/assumptions/10.md). A descriptor with
a format fault, or an odd d of a 64-bit element, traps ILLEGAL_OPERAND. Each active lane reads or writes the element that its
coordinates address under BORDER, whole or as the bits of a byte; under BORDER 1 a lane outside the extents reads 0 and stores
nothing; one outside under BORDER 0, or at an address of 2^57 or more, is out of range. With `.lanefault` the lanes that fail are
recorded and the others go on. -/
def Obligations.TensorAccessIssue : Prop :=
  (∀ (border ext : Nat) (i : Int), 0 < ext →
    (0 ≤ i → i < ext → borderCoord border ext i = some i.toNat)
    ∧ (i < 0 ∨ (ext : Int) ≤ i → border < 2 → borderCoord border ext i = none)
    ∧ (i < 0 → borderCoord 2 ext i = some 0) ∧ ((ext : Int) ≤ i → borderCoord 2 ext i = some (ext - 1))
    ∧ (∃ j k : Int, borderCoord 3 ext i = some j.toNat ∧ 0 ≤ j ∧ j < ext ∧ i = j + k * ext))
  ∧ ∀ q : Taken, ∀ s1 desc keep, actives q.sc ≠ 0 → (q.s32 q.a).poison = false →
    let n := (q.s32 q.a).val.toNat
    let x := getCtx q.s q.g.ctx
    n < 65536 → n < x.ttcount →
    ((desc ≠ [] ∧ tget [] x.kept n = desc ∧ s1 = q.s ∧ keep = [])
      ∨ (tget [] x.kept n = [] ∧ x.ttbase + 64 * n < 2 ^ 57 ∧ ∃ pa,
          translateNow q.s (coreUnit q.is.loc) q.g.ctx (x.ttbase + 64 * n) { r := true } = (s1, .ok pa)
          ∧ desc = mem64s s1.mem pa 8 ∧ keep = [.keep n desc])) →
    let t := tensorOf desc
    let w := elemWidth t.fmt
    let size := if w < 8 then 1 else w / 8
    let us (wr : Bool) : List RegUse := [⟨.v, q.b, t.rank, false⟩, ⟨.v, q.d, regsOf size, wr⟩]
    let fit (wr : Bool) : Prop := ∀ k ∈ us wr, k.first + k.cnt ≤ 8 * q.g.blocks ∧ pendingUse q.g q.path k = false
    let bad : Prop := tensorBad desc = true ∨ (w = 64 ∧ q.d % 2 = 1)
    let place (l : Nat) : Option (Nat × Nat) :=
      (borderCoords t ((List.range t.rank).map fun k => (vreg q.g (q.b + k) l).val.toInt)).map (elemAddress t)
    let bit (l : Nat) : Nat := ((place l).getD (0, 0)).2
    let near : List (Nat × Nat) := q.act.filterMap fun l => (place l).bind fun p => if p.1 < 2 ^ 57 then some (l, p.1) else none
    let all (l : List LaneCheck) : List LaneCheck := q.act.filterMap fun i => match place i with
      | none => if t.border = 1 then none else some ⟨i, 0, 4, 0, 0, false⟩
      | some p => if p.1 < 2 ^ 57 then l.find? (fun y => y.lane == i) else some ⟨i, p.1, 4, 0, 0, true⟩
    let zeros : List Nat := q.act.filter fun i => (place i).isNone && t.border == 1
    let dirty (l : Nat) : Bool := (List.range t.rank).any fun k => (vreg q.g (q.b + k) l).poison
    let loads (good : List LaneCheck) : List Eff :=
      accessEff q.sc (.load w false q.d) false size (good.map fun x => { readAccess x with mask := subMask w (bit x.lane) })
      ++ (if zeros.isEmpty then [] else [.result 14 (zeros.flatMap fun i => (List.range (regsOf size)).map fun j => .v (q.d + j) i ⟨0, false⟩)])
      ++ poisonedDest q.sc q.d (regsOf size) (guardPoison q.sc)
    let stores (good : List LaneCheck) : List Eff :=
      accessEff q.sc .write false size (good.map fun x =>
        { readAccess x with data := natLe ((vpair q.g q.d x.lane).1 * 2 ^ bit x.lane) size, mask := subMask w (bit x.lane) })
    let done (i : Instr) (effs : List LaneCheck → List Eff) (u : List RegUse) (s' : State) (l : List LaneCheck) : Prop :=
      ((∀ x ∈ all l, x.cause = 0) → q.sc.mod.lf = false → q.gives i s' (keep ++ (effs (all l) ++ traceEff q.sc (all l))) 0 u)
      ∧ (q.sc.mod.lf = true → q.gives i s' (keep ++ (laneFaultEff q.sc q.f.op (all l)
          ++ effs ((all l).filter fun x => x.cause == 0) ++ traceEff q.sc (all l))) 0 u)
    (∀ e ∈ ([.ldt, .stt] : List (Slot → Instr)), q.ready (e q.w) → bad →
      exec (e q.w) q.s = .next (trapSlot s1 q.is q.is.idx ⟨2, 0, 0, 0⟩))
    ∧ (q.ready (.ldt q.w) → ¬bad → fit true → q.clean dirty →
      ∀ s' l, checkLanes s1 q.is.loc q.g.ctx { r := true } 1 near = (s', some l) → done (.ldt q.w) loads (us true) s' l)
    ∧ (q.ready (.stt q.w) → ¬bad → fit false →
      q.clean (fun l => dirty l || (List.range (regsOf size)).any fun j => (vreg q.g (q.d + j) l).poison) →
      ∀ s' l, checkLanes s1 q.is.loc q.g.ctx { w := true } 1 near = (s', some l) → done (.stt q.w) stores (us false) s' l)

/-- R208, R225, R226: ATOM and ATOMC with every address and datum clean make one atomic access, with their datum, or the compared
and the new value, of all lanes where all pass; with `.lanefault` of those that pass, the others being recorded. -/
def Obligations.AtomicIssue : Prop :=
  ∀ q : Taken, ∀ s' l,
    let kept (n : Nat) := poisonedDest q.sc q.d n (guardPoison q.sc)
    let dirty (n l : Nat) := (globalEa q.sc l).2 || (List.range n).any fun j => (vreg q.g (q.d + j) l).poison
    let bytes (size x : Nat) (r : Nat) : List Byte := natLe (vpair q.g r x).1 size
    let done (i : Instr) (effs : List LaneCheck → List Eff) : Prop :=
      ((∀ x ∈ l, x.cause = 0) → q.sc.mod.lf = false → q.gives i s' (effs l ++ traceEff q.sc l) 0 [])
      ∧ (q.sc.mod.lf = true → q.gives i s'
          (laneFaultEff q.sc q.f.op l ++ effs (l.filter fun x => x.cause == 0) ++ traceEff q.sc l) 0 [])
    (∀ e ∈ ([(.atomAdd, .add, 4), (.atomMinS, .minS, 4), (.atomMinU, .minU, 4), (.atomMaxS, .maxS, 4), (.atomMaxU, .maxU, 4),
        (.atomAnd, .and, 4), (.atomOr, .or, 4), (.atomXor, .xor, 4), (.atomExch, .exch, 4), (.atomAddB64, .add, 8),
        (.atomExchB64, .exch, 8), (.atomFaddF32, .fadd, 4), (.atomFminF32, .fmin, 4), (.atomFmaxF32, .fmax, 4)]
        : List ((Slot → Instr) × AtomOp × Nat)), q.ready (e.1 q.w) → q.clean (dirty (regsOf e.2.2)) →
      q.checks { r := true, w := true } e.2.2 (fun l => (globalEa q.sc l).1) = (s', some l) →
      done (e.1 q.w) fun good => accessEff q.sc (.atomic e.2.1 q.d) false e.2.2
          (good.map fun x => { readAccess x with data := bytes e.2.2 x.lane q.d }) ++ kept (regsOf e.2.2))
    ∧ ∀ e ∈ ([(.atomcB32, 4), (.atomcB64, 8)] : List ((Slot → Instr) × Nat)), q.ready (e.1 q.w) → q.clean (dirty (2 * regsOf e.2)) →
      q.checks { r := true, w := true } e.2 (fun l => (globalEa q.sc l).1) = (s', some l) →
      done (e.1 q.w) fun good => accessEff q.sc (.atomic .cas q.d) false e.2
          (good.map fun x => { readAccess x with data := bytes e.2 x.lane q.d ++ bytes e.2 x.lane (q.d + regsOf e.2) })
        ++ kept (regsOf e.2)

/-- R217, R228-R230, R243, R488: FENCE and DRAIN order the path at their scope, .m by default, and do nothing with no lane active;
PREF fetches the lines of the lanes that pass, its trace record holding every active lane; FIFOPUSH and FIFOPOP act on a FIFO bank that
has room, or an entry, wait on a full or an empty one, and do nothing with no lane active. -/
def Obligations.OrderingAndFifoSlots : Prop :=
  ∀ q : Taken,
    let scope := if q.sc.mod.scope = 0 then 4 else q.sc.mod.scope.toNat
    (∀ e ∈ ([.fence, .drain, .fifopush, .fifopop] : List (Slot → Instr)), q.ready (e q.w) → actives q.sc = 0 → q.yields (e q.w) [] 0)
    ∧ (q.ready (.fence q.w) → actives q.sc ≠ 0 → q.yields (.fence q.w) [.fence scope false] 0)
    ∧ (q.ready (.drain q.w) → actives q.sc ≠ 0 → q.yields (.drain q.w) [.fence scope true, .wait .drain] 0)
    ∧ (q.ready (.pref q.w) → ∀ s' l,
        checkLanes q.s q.is.loc q.g.ctx { r := true } 1 ((q.act.filter fun l => !(globalEa q.sc l).2).map fun l => (l, (globalEa q.sc l).1))
          = (s', some l) →
        q.gives (.pref q.w) s' ((if q.sc.mod.cache = 2 then [] else [.prefetch ((l.filter fun x => x.cause == 0).map fun x => x.pa / 1024)])
          ++ [.trace (slotWord q.sc) q.sc.mod.lf (q.act.map fun i => (i, (globalEa q.sc i).1))]) 0 [])
    ∧ ∀ b bank, (q.s32 q.a).val.toNat < 32 → (q.s32 q.a).poison = false → (pondOf q.s q.g).2[(q.s32 q.a).val.toNat]? = some b →
        bank = (pondOf q.s q.g).1 * 32 + b → (getBank q.s bank).mode = 2 → (getBank q.s bank).fencing = none →
        actives q.sc ≠ 0 → (∀ e ∈ q.g.macc, meets e.mask q.path.mask = false) →
      (q.ready (.fifopush q.w) → q.clean (fun l => (vreg q.g q.b l).poison) →
        ((getBank q.s bank).fifo.length < 4096 → q.yields (.fifopush q.w)
          [.fifoPush bank ((List.range 16).map fun l => if (actives q.sc).getLsbD l then (vreg q.g q.b l).val else 0)] 0)
        ∧ ((getBank q.s bank).fifo.length ≥ 4096 → exec (.fifopush q.w) q.s = .next (holdSlot q.s q.is true)))
      ∧ (q.ready (.fifopop q.w) →
        ((getBank q.s bank).fifo ≠ [] → q.yields (.fifopop q.w)
          (poisonedDest q.sc q.d 1 (guardPoison q.sc) ++ [.fifoPop bank q.d (actives q.sc)]) 0)
        ∧ ((getBank q.s bank).fifo = [] → exec (.fifopop q.w) q.s = .next (holdSlot q.s q.is true)))

/-! ## Graphics slots (R330-R353) -/

/-- R75, R331, R333, R334: GRSTEP writes, for each active lane and each quarter j of the block, p(d + j) with whether the pixel's centre
lies inside three edges, under the tie rule; of two opposite edges at most one passes at a pixel, and of two that are an edge at all, one
does. With no lane active it does nothing; d above 3 or a above 52 traps ILLEGAL_OPERAND. That a lane with a poisoned guard keeps its
destinations with poison set is the model's reading (notes/assumptions/30.md, DEDUCED). -/
def Obligations.EdgeTestsOfBlock : Prop :=
  let pass (E A B : Int) : Prop := E > 0 ∨ (E = 0 ∧ (A > 0 ∨ (A = 0 ∧ B > 0)))
  (∀ E A B : Int, (pass E A B → ¬pass (-E) (-A) (-B)) ∧ (A ≠ 0 ∨ B ≠ 0 → pass E A B ∨ pass (-E) (-A) (-B)))
  ∧ (∀ q : Taken, q.ready (.grstep q.w) →
    (q.d ≤ 3 → q.a ≤ 52 → actives q.sc = 0 → q.yields (.grstep q.w) [] 0)
    ∧ (q.d > 3 ∨ q.a > 52 → q.traps (.grstep q.w) 2 0 0))
  ∧ ∀ q : Taken, q.ready (.grstep q.w) → q.d ≤ 3 → q.a ≤ 52 → actives q.sc ≠ 0 →
    (q.s32 q.b).poison = false → (∀ i < 12, (q.s32 (q.a + i)).poison = false) →
    let A (e : Nat) : Int := (q.s32 (q.a + 4 * e)).val.toInt
    let B (e : Nat) : Int := (q.s32 (q.a + 4 * e + 1)).val.toInt
    let C (e : Nat) : Int := (((q.s32 (q.a + 4 * e + 3)).val ++ (q.s32 (q.a + 4 * e + 2)).val : BitVec 64)).toInt
    let BX : Int := ((q.s32 q.b).val.toNat % 65536 : Nat)
    let BY : Int := ((q.s32 q.b).val.toNat / 65536 : Nat)
    let X (l j : Nat) : Int := 256 * (8 * BX + (4 * (j % 2) + 2 * (l / 4 % 2) + l % 2 : Nat)) + 128
    let Y (l j : Nat) : Int := 256 * (8 * BY + (4 * (j / 2) + 2 * (l / 8) + l / 2 % 2 : Nat)) + 128
    let E (l j e : Nat) : Int := A e * X l j + B e * Y l j + C e
    let inside (l j e : Nat) : Prop := pass (E l j e) (A e) (B e)
    q.yields (.grstep q.w) [.result 6 ((q.act.flatMap fun l => (List.range 4).map fun j =>
      .p (q.d + j) l ⟨decide (inside l j 0) && decide (inside l j 1) && decide (inside l j 2), false⟩) ++ q.keepP 4)] 0

/-- R75, R331, R345, R346: GPFLAT sets p(d) in an active lane exactly when every one of the lane's sixteen control values lies within the tolerance
of the bilinear interpolant of its corners, as real numbers; a value that is not finite, or a NaN tolerance, gives 0.
GPSPLIT writes the quadrant's sixteen control values: each the exact sum of the old ones under the half's weights, rounded once under
RM. A quadrant above 3, or ranges that overlap otherwise than whole, trap ILLEGAL_OPERAND. With no lane active both do nothing.
The model's readings in it: a lane with a poisoned guard keeps its destinations with poison set (notes/assumptions/30.md, DEDUCED), and
GPSPLIT's sum takes every product in, so that a weight of 0 times an infinity is a NaN (notes/assumptions/40.md, DEDUCED). -/
def Obligations.PatchForms : Prop :=
  (∀ q : Taken, q.ready (.gpflat q.w) → actives q.sc = 0 → q.yields (.gpflat q.w) [] 0)
  ∧ (∀ q : Taken, q.ready (.gpflat q.w) → actives q.sc ≠ 0 →
    let P (l r c : Nat) : FVal := f32 (vreg q.g (q.a + 4 * r + c) l).val
    let tol : FVal := match q.w.imm with
      | some x => f32 (BitVec.ofNat 32 (x.toNat * 256))
      | none => f32 (q.s32 q.b).val
    let B (l r c : Nat) : ℚ := ((3 - c) * (3 - r) * realOf (P l 0 0) + c * (3 - r) * realOf (P l 0 3)
      + (3 - c) * r * realOf (P l 3 0) + c * r * realOf (P l 3 3)) / 9
    (q.w.imm = none → (q.s32 q.b).poison = false) → (∀ l ∈ q.act, ∀ i < 16, (vreg q.g (q.a + i) l).poison = false) →
    ∃ flat : Nat → Bool,
      q.yields (.gpflat q.w) [.result 12 (q.act.map (fun l => .p q.d l ⟨flat l, false⟩) ++ q.keepP 1)] 0
      ∧ ∀ l ∈ q.act,
        ((∀ r < 4, ∀ c < 4, finite (P l r c) = true) → finite tol = true →
          (flat l = true ↔ ∀ r < 4, ∀ c < 4, |realOf (P l r c) - B l r c| ≤ realOf tol))
        ∧ ((∃ r < 4, ∃ c < 4, finite (P l r c) = false) → flat l = false)
        ∧ ((∃ b, tol = .nan b) → flat l = false)
        ∧ (tol = .inf false → (flat l = true ↔ ∀ r < 4, ∀ c < 4, finite (P l r c) = true))
        ∧ (tol = .inf true → flat l = false))
  ∧ ∀ q : Taken, q.ready (.gpsplit q.w) →
      let quad := q.uy true
      let apart : Prop := q.a = q.d ∨ q.d + 16 ≤ q.a ∨ q.a + 16 ≤ q.d
      let lower : List (List Nat) := [[4, 4, 0, 0], [1, 6, 1, 0], [0, 4, 4, 0], [0, 1, 6, 1]]
      let upper : List (List Nat) := [[1, 6, 1, 0], [0, 4, 4, 0], [0, 1, 6, 1], [0, 0, 4, 4]]
      let wt (k r i : Nat) : Nat := ((if quad.val.toNat / 2 ^ k % 2 = 1 then upper else lower).getD r []).getD i 0
      let value (l r c : Nat) : Nat := (sumOnce binary32 q.sc.mod.rm.toNat ((List.range 16).map fun i =>
        prodExact (.fin false (wt 1 r (i / 4) * wt 0 c (i % 4)) (-6)) (f32 (vreg q.g (q.a + i) l).val))).1
      (quad.val.toNat < 4 → apart → actives q.sc = 0 → q.yields (.gpsplit q.w) [] 0)
      ∧ (quad.val.toNat < 4 → apart → actives q.sc ≠ 0 → quad.poison = false →
        (∀ l ∈ q.act, ∀ i < 16, (vreg q.g (q.a + i) l).poison = false) →
        q.yields (.gpsplit q.w) [.result 16 ((q.act.flatMap fun l => (List.range 16).map fun i =>
          .v (q.d + i) l ⟨BitVec.ofNat 32 (value l (i / 4) (i % 4)), false⟩) ++ q.keepV 16)] 0)
      ∧ (quad.val.toNat ≥ 4 ∨ ¬apart → q.traps (.gpsplit q.w) 2 0 0)

/-- R75, R331, R336-R343: GBOX, GTRI2 and GCURVE read one record in each active lane; with every address passed, no failed die link on a
read's way and every record legal they write each lane's results from its own ray and record, and set no flag. A GBOX no lane of which
hits an unbuilt subtree commits so. With no lane active they do nothing. The model's readings in it: the bundle is held until the path's
earlier accesses have performed (notes/assumptions/33.md, DEDUCED), and a lane with a poisoned guard keeps its destinations with poison set
(notes/assumptions/30.md, DEDUCED). (That a failed die link holds a read is notes/assumptions/14.md, DESIGN CHOICE.) -/
def Obligations.RayRecordForms : Prop :=
  (∀ i ∈ ([.gbox, .gtri2, .gcurve] : List (Slot → Instr)), ∀ q : Taken, q.ready (i q.w) →
    (actives q.sc = 0 → q.yields (i q.w) [] 0)
    ∧ (actives q.sc ≠ 0 → pathBusy q.sc = true → exec (i q.w) q.s = .next (holdSlot q.s q.is false)))
  ∧ ∀ q : Taken, actives q.sc ≠ 0 → pathBusy q.sc = false →
    let ea (l : Nat) := (vpair q.g q.b l).1
    (∀ l ∈ q.act, (∀ j < 8, (vreg q.g (q.a + j) l).poison = false) ∧ (vpair q.g q.b l).2 = false) → ∀ s' l,
    let t := fetchLines q.sc s' (l.map (·.pa))
    let record (x : LaneCheck) (n : Nat) : List Byte := fetchBytes q.sc t x.pa n
    (q.ready (.gbox q.w) → q.checks { r := true } 128 ea = (s', some l) → (∀ x ∈ l, x.cause = 0) → fetchReach q.sc s' (l.map (·.pa)) = true →
      let node (x : LaneCheck) := record x 128
      let hits (x : LaneCheck) := boxHits { q.sc with s := t } x.lane (node x)
      (∀ x ∈ l, nodeBad (node x) = false) → (∀ x ∈ l, ∀ h ∈ hits x, childWord (node x) h.1 % 16 < 6) →
      q.gives (.gbox q.w) t [.result 20 ((l.flatMap fun x =>
        .v q.d x.lane ⟨BitVec.ofNat 32 (((List.range (hits x).length).map fun j => (8 + ((hits x).getD j (0, fZero)).1) * 16 ^ j).sum), false⟩
        :: (List.range 8).map fun j => .v (q.d + 1 + j) x.lane
            ⟨BitVec.ofNat 32 (if j < (hits x).length then encodeF binary32 ((hits x).getD j (0, fZero)).2 else 0x7F800000), false⟩)
        ++ q.keepV 9)] 0 [])
    ∧ (q.ready (.gtri2 q.w) → q.checks { r := true } 64 ea = (s', some l) → (∀ x ∈ l, x.cause = 0) → fetchReach q.sc s' (l.map (·.pa)) = true →
      (∀ x ∈ l, triBad (record x 64) = false) →
      q.gives (.gtri2 q.w) t
        [.result 36 ((l.flatMap fun x => triLane { q.sc with s := t } x.lane (record x 64)) ++ q.keepV 4)] 0 [])
    ∧ (q.ready (.gcurve q.w) → q.checks { r := true } 64 ea = (s', some l) → (∀ x ∈ l, x.cause = 0) → fetchReach q.sc s' (l.map (·.pa)) = true →
      (∀ x ∈ l, recWord (record x 64) 0x3C = 0) →
      q.gives (.gcurve q.w) t
        [.result 108 ((l.flatMap fun x => curveLane { q.sc with s := t } x.lane (record x 64)) ++ q.keepV 4)] 0 [])

/-- R75, R331, R347-R349: GTEX and GTEXL with legal levels, clean coordinates in the lanes that they read and every texel in reach write
four channels in each active lane, 40 ck after issue, and keep the descriptors that they read. A reserved control word traps ILLEGAL_OPERAND;
with no lane active a legal one does nothing. The model's readings in it: the bundle is held until the path's earlier accesses have performed
(notes/assumptions/33.md, DEDUCED), and a lane with a poisoned guard keeps its destinations with poison set (notes/assumptions/30.md,
DEDUCED). (Reach is that no die link on a read's way has failed: notes/assumptions/14.md, DESIGN CHOICE.) -/
def Obligations.TextureLookup : Prop :=
  ∀ e ∈ ([(.gtex, false), (.gtexl, true)] : List ((Slot → Instr) × Bool)), ∀ q : Taken, q.ready (e.1 q.w) →
    (e.2 = true → q.sc.mod.cv = true) →
    let w := q.s32 q.b
    let k := texCtl w.val
    let bad : Prop := k.filt = 3 ∨ w.val.toNat / 2 ^ 26 ≠ 0
    (bad → q.traps (e.1 q.w) 2 0 0)
    ∧ (¬bad → actives q.sc = 0 → q.yields (e.1 q.w) [] 0)
    ∧ (¬bad → actives q.sc ≠ 0 → pathBusy q.sc = true → exec (e.1 q.w) q.s = .next (holdSlot q.s q.is false))
    ∧ (¬bad → actives q.sc ≠ 0 → pathBusy q.sc = false → w.poison = false →
      (∀ l ∈ q.act, ∀ i ∈ texLanes l, ∀ j < 2, (vreg q.g (q.a + j) i).poison = false) →
      (e.2 = true → ∀ l ∈ q.act, (vreg q.g q.sc.mod.creg.toNat l).poison = false) →
      ∀ s1 ds keep, texLevels q.sc 16 ((List.range k.nlev).map (k.tex + ·)) = (s1, .ok (ds, keep)) → texBad ds = false →
      let ts := ds.map tensorOf
      let size := elemWidth (ts.getD 0 (tensorOf [])).fmt / 8
      let look (l : Nat) : List (List Sample × Nat) :=
        let u := f32 (vreg q.g q.a l).val
        let v := f32 (vreg q.g (q.a + 1) l).val
        if e.2 then texLookups k ts (clampLod k.nlev (f32 (vreg q.g q.sc.mod.creg.toNat l).val)) 1 u v fZero fZero
        else
          let d := texLod { q.sc with s := s1 } k (ts.getD 0 (tensorOf [])) l
          texLookups k ts d.1 d.2.1 u v d.2.2.1 d.2.2.2
      let need := q.act.flatMap fun l => ((look l).flatMap (·.1)).flatMap fun p => (List.range 4).flatMap fun ch =>
        ([(0, 0), (1, 0), (0, 1), (1, 1)] : List (Nat × Nat)).filterMap fun ij => match texelAt ts p ch ij.1 ij.2 with
          | some (.ok ea) => some (l, ea)
          | some (.error _) => none
          | none => some (l, 2 ^ 64)
      ∀ s' qs, checkLanes s1 q.is.loc q.g.ctx { r := true } size need.eraseDups = (s', some qs) →
      (∀ x ∈ qs, x.cause = 0) → fetchReach q.sc s' (qs.map (·.pa)) = true →
      let t := fetchLines q.sc s' (qs.map (·.pa))
      let texel (ea : Nat) : FVal := match qs.find? fun x => x.ea == ea with
        | some x => f32 (BitVec.ofNat 32 (cvtValue 2 (ts.getD 0 (tensorOf [])).fmt (leNat (fetchBytes q.sc t x.pa size)) ⟨0, 0⟩ false none).1)
        | none => fZero
      q.gives (e.1 q.w) t (keep ++ [.result 40 ((q.act.flatMap fun l => (List.range 4).map fun ch =>
        .v (q.d + ch) l ⟨BitVec.ofNat 32 (filtered texel ts (look l) ch), false⟩) ++ q.keepV 4)]) 0 [])

/-- R75, R331, R353: GPUBLISH with every new word legal and every address passed makes one access that exchanges the words at home, released
at its scope, .m by default; a new word whose TYPE is 7 or more, or with a reserved bit, traps ILLEGAL_OPERAND. With no lane active it
does nothing. That a lane with a poisoned guard keeps p(d) with poison set is the model's reading (notes/assumptions/30.md, DEDUCED). -/
def Obligations.SubtreePublication : Prop :=
  (∀ q : Taken, q.ready (.gpublish q.w) → actives q.sc = 0 → q.yields (.gpublish q.w) [] 0)
  ∧ ∀ q : Taken, q.ready (.gpublish q.w) → actives q.sc ≠ 0 →
    let new (l : Nat) := (vpair q.g q.b l).1
    let bad (l : Nat) : Bool := decide (new l % 16 ≥ 7) || decide (new l / 16 % 4 ≠ 0) || decide (new l / 2 ^ 57 % 8 ≠ 0)
    let scope := if q.sc.mod.scope = 0 then 4 else q.sc.mod.scope.toNat
    ((∃ l ∈ q.act, bad l = true) → q.traps (.gpublish q.w) 2 0 (maskOf fun l => (actives q.sc).getLsbD l && bad l))
    ∧ ((∀ l ∈ q.act, bad l = false ∧ (vpair q.g q.a l).2 = false ∧ (vpair q.g q.b l).2 = false) → ∀ s' l,
      q.checks { r := true, w := true } 8 (fun l => (vpair q.g q.a l).1) = (s', some l) → (∀ x ∈ l, x.cause = 0) →
      q.gives (.gpublish q.w) s'
        (.access { entryOf q.sc (.atomic .publish q.d) false 8 (l.map fun x => { readAccess x with data := natLe (new x.lane) 8 })
            with scope := scope, cached := false }
          :: (if q.keepP 1 = [] then [] else [.result 20 (q.keepP 1)])) 0 [])

/-! ## Matrix slots (R312-R317), latches (R297, R298) -/

/-- R297, R298, R313, R315, R317: MXDEF fills and frees an entry of the routine table; MXPARM writes an x register; MXZERO claims and frees
tiles. KSET loads a scale latch from an immediate or a uniform, KLD from a lane; a poisoned source traps, and a lane above 15 is
illegal. -/
def Obligations.MatrixSetupAndLatches : Prop :=
  (∀ q : Taken, q.ready (.mxdef q.w) → q.on → q.a ≠ 63 →
    let i := (q.uy true).val.toNat
    let va := (spair q.g q.path q.a).1
    i ≤ 255 → (q.uy true).poison = false → (spair q.g q.path q.a).2 = false → va < 2 ^ 57 → va % 64 = 0 → pathBusy q.sc = false →
    (∀ e, routineEntry q.s (coreOf q.is.loc) i = some e → e.holder = q.is.loc) →
    ∀ s' pa, translateNow q.s (coreUnit q.is.loc) q.g.ctx va { r := true } = (s', .ok pa) →
      (routineBad (mem64s s'.mem pa 8) = false → q.gives (.mxdef q.w) s' [.routine i (mem64s s'.mem pa 8)] 0 [])
      ∧ (routineBad (mem64s s'.mem pa 8) = true → exec (.mxdef q.w) q.s = .next (trapSlot s' q.is q.is.idx ⟨2, 0, 0, 0⟩)))
  ∧ (∀ q : Taken, q.ready (.mxdefRel q.w) → q.on → q.a = 63 → (q.uy true).val.toNat ≤ 255 → (q.uy true).poison = false →
      (holdsEntry q.s q.is.loc (q.uy true).val.toNat = true → q.yields (.mxdefRel q.w) [.routineFree (q.uy true).val.toNat] 0)
      ∧ (holdsEntry q.s q.is.loc (q.uy true).val.toNat = false → q.traps (.mxdefRel q.w) 2 0 0))
  ∧ (∀ q : Taken, q.ready (.mxparm q.w) → q.on →
      let p := if q.a = 63 then (0, false) else spair q.g q.path q.a
      let v : BitVec 64 := match q.w.imm with
        | some x => x.signExtend 64
        | none => 0
      (p.2 = false → q.yields (.mxparm q.w) [.result 2 [.x q.d (BitVec.ofNat 64 p.1 + v)]] 0)
      ∧ (p.2 = true → q.traps (.mxparm q.w) 7 0 0))
  ∧ (∀ q : Taken, q.ready (.mxzero q.w) → q.on → (q.uy true).poison = false →
      let ctl := (q.uy true).val.toNat
      let n := ctl % 16 + 1
      let core := coreOf q.is.loc
      ctl < 512 → ctl / 16 % 16 = 0 → q.a + n ≤ 64 → (∀ i < n, tileUsed q.s core (q.a + i) = false) →
      (ctl / 256 = 0 → (∀ i < n, tileHolder q.s core (q.a + i) = .free ∨ tileHolder q.s core (q.a + i) = .group q.is.loc) →
        q.yields (.mxzero q.w) [.tilesZero q.a n] 0)
      ∧ (ctl / 256 = 1 → (∀ i < n, tileHolder q.s core (q.a + i) = .group q.is.loc) → q.yields (.mxzero q.w) [.tilesFree q.a n] 0))
  ∧ (∀ q : Taken, q.ready (.kset q.w) → q.on →
    ((q.uy true).poison = false → q.yields (.kset q.w) [.latch q.d (q.uy true).val] 0)
    ∧ ((q.uy true).poison = true → q.traps (.kset q.w) 7 0 0))
  ∧ ∀ q : Taken, q.ready (.kld q.w) → q.on →
    let l := q.uy true
    (l.val.toNat ≤ 15 → l.poison = false → (vreg q.g q.a l.val.toNat).poison = false →
      q.yields (.kld q.w) [.latch q.d (vreg q.g q.a l.val.toNat).val] 0)
    ∧ (l.val.toNat ≤ 15 → l.poison = true ∨ (vreg q.g q.a l.val.toNat).poison = true → q.traps (.kld q.w) 7 0 0)
    ∧ (l.val.toNat > 15 → q.traps (.kld q.w) 2 0 0)

/-- R314, R316: MXCALL of an entry and of tiles that the group holds creates a matrix child with the parameters as they stand;
MXACC moves 64 elements of a row between a tile and four registers, or reads the tile's flags; a tile not held traps. -/
def Obligations.MatrixCallAndTiles : Prop :=
  (∀ q : Taken, ∀ e, q.ready (.mxcall q.w) → q.on →
    let pred : PWord := if q.b = 63 then ⟨0, false⟩ else q.s32 q.b
    let r := routineOf e.desc
    let us : List RegUse := [⟨.x, 0, 4, false⟩, ⟨.x, 7, 1, false⟩]
    let i := (q.s32 q.a).val.toNat
    us.any (pendingUse q.g q.path) = false → i ≤ 255 → (q.s32 q.a).poison = false → pred.poison = false →
    routineEntry q.s (coreOf q.is.loc) i = some e → e.holder = q.is.loc →
    (∀ j < blockTiles r, holdsTile q.s q.is.loc (r.acc0 + j) = true) →
    unreleased q.s q.g + creating q.sc < 16 → (classCounter q.g 0).length < 65535 → createHold q.sc 0 = false →
    q.gives (.mxcall q.w) q.s [.child q.d { cls := 0, pred := pred.val, any := r.any, det := q.sc.mod.det, scope := scopeOr4 q.sc, cache := q.sc.mod.cache.toNat, desc := e.desc, x := [0, 1, 2, 3, 7].map fun j => tget 0 q.g.x j, latch := tget 0 q.g.k r.kl, rm := q.sc.mod.rm.toNat }] 0 us)
  ∧ ∀ q : Taken, q.ready (.mxacc q.w) → q.on → (q.uy true).poison = false →
    let ctl := (q.uy true).val.toNat
    let row := ctl % 64
    let core := coreOf q.is.loc
    let cells : List (Nat × Nat) := (List.range 4).flatMap fun j => (lanesOf q.path.mask).map fun l => (j, l)
    ctl < 1024 → ctl / 64 % 4 = 0 → tileUsed q.s core q.a = false →
    (holdsTile q.s q.is.loc q.a = false → q.traps (.mxacc q.w) 2 0 0)
    ∧ (holdsTile q.s q.is.loc q.a = true → ctl / 256 = 0 →
        q.yields (.mxacc q.w) [.result 16 (cells.map fun e => .v (q.d + e.1) e.2 ⟨accElem q.s core q.a row (16 * e.1 + e.2), false⟩)] 0)
    ∧ (holdsTile q.s q.is.loc q.a = true → ctl / 256 = 1 → (∀ e ∈ cells, (vreg q.g (q.d + e.1) e.2).poison = false) →
        q.yields (.mxacc q.w) [.tileWrite q.a (cells.map fun e => (64 * row + 16 * e.1 + e.2, (vreg q.g (q.d + e.1) e.2).val))] 0)
    ∧ (holdsTile q.s q.is.loc q.a = true → ctl = 512 →
        q.yields (.mxacc q.w) [.result 16 ((lanesOf q.path.mask).map fun l =>
          .v q.d l ⟨(tget (0 : BitVec 5) (getCore q.s core).xflags q.a).setWidth 32, false⟩)] 0)

/-! ## Children, queues and records (R256-R283, R114-R118, R197) -/

/-- R256-R260, R271, R279, R415, R416: CPY and COLL with clean operands, fewer than sixteen unreleased children and no wait of R256
create a child of their class with the request that stands in their uniforms; a seventeenth unreleased child traps OUT_OF_RANGE.
CPY from s(a) stages the words that differ from y0..y7; CPY with A = 63 takes y0..y7 as they stand. A counter of 65,535 holds the
bundle. -/
def Obligations.ChildCreation : Prop :=
  ∀ q : Taken, q.on →
    let pred : PWord := if q.b = 63 then ⟨0, false⟩ else q.s32 q.b
    let count := unreleased q.s q.g + creating q.sc
    let word (j : Nat) : DWord := BitVec.ofNat 64 (spair q.g q.path (q.a + 2 * j)).1
    pred.poison = false →
    (q.ready (.cpy q.w) → q.a ≠ 63 → q.a % 2 = 0 → q.a ≤ 48 → (∀ j < 16, (q.s32 (q.a + j)).poison = false) →
      let y := (List.range 8).map word
      let staged := ((List.range 8).filter fun j => decide (word j ≠ tget 0 q.g.y j)).map fun j => Eff.stage j (word j)
      (count < 16 → (classCounter q.g 1).length ≥ 65535 → exec (.cpy q.w) q.s = .next (holdSlot q.s q.is true))
      ∧ (count < 16 → (classCounter q.g 1).length < 65535 → createHold q.sc 1 = false →
        q.yields (.cpy q.w) (staged ++ [.child q.d { cls := 1, pred := pred.val, any := (word 5).getLsbD 13, det := q.sc.mod.det, scope := scopeOr4 q.sc, cache := q.sc.mod.cache.toNat, desc := y }]) 0)
      ∧ (count ≥ 16 → q.traps (.cpy q.w) 4 0 0))
    ∧ (q.ready (.cpy q.w) → q.a = 63 → q.w.imm = none → count < 16 → (classCounter q.g 1).length < 65535 → createHold q.sc 1 = false →
        q.yields (.cpy q.w) [.child q.d { cls := 1, pred := pred.val, any := (tget 0 q.g.y 5).getLsbD 13, det := q.sc.mod.det, scope := scopeOr4 q.sc, cache := q.sc.mod.cache.toNat, desc := (List.range 8).map fun j => tget 0 q.g.y j }] 0)
    ∧ (q.ready (.coll q.w) → q.a ≤ 56 → (∀ j < 8, (q.s32 (q.a + j)).poison = false) → count < 16 → (classCounter q.g 2).length < 65535 → createHold q.sc 2 = false →
        q.yields (.coll q.w) [.child q.d { cls := 2, pred := pred.val, any := (q.s32 (q.a + 7)).val.getLsbD 10, det := q.sc.mod.det, scope := if q.sc.mod.scope = 0 then 5 else q.sc.mod.scope.toNat, cache := q.sc.mod.cache.toNat, desc := (List.range 8).map fun j => (q.s32 (q.a + j)).val.setWidth 64 }] 0)

/-- R257, R262, R280-R283: the token forms on a clean token. A stale token answers RETIRED; a child of another owner traps
ILLEGAL_OPERAND; TWAIT and TTEST report an ended child and free one that completed; TTEST of a child that has not ended answers its
status, and TWAIT of one holds its bundle; with CV both store the record of a child that failed at the pair CREG; TDET, TREL and TPRIO act
on the child at commit; CNTWAIT answers once its counter has fallen to its bound, and holds its bundle until then. That it acquires at the
widest scope of the children that have left the counter is the model's reading (notes/assumptions/27.md, DEDUCED). -/
def Obligations.ChildTokens : Prop :=
  ∀ q : Taken, q.on →
    let tok := q.s32 q.a
    let here := childByToken q.s q.g.ctx tok.val
    let answer (x : Word) : Eff := .result 4 [.s q.d ⟨x, false⟩]
    tok.poison = false →
    (∀ i ∈ ([.twait, .ttest] : List (Slot → Instr)), q.ready (i q.w) →
      (q.sc.mod.cv = true → (spair q.g q.path q.sc.mod.creg.toNat).2 = false) →
      (here = none → q.yields (i q.w) [answer 3] 0)
      ∧ ∀ key h, here = some (key, h) →
        (ownedBy q.g h = false → exec (i q.w) q.s = .next (trapSlot q.s q.is q.is.idx ⟨2, 0, 0, tok.val⟩))
        ∧ (ownedBy q.g h = true → h.st = .complete → q.yields (i q.w) [answer (statusWord h false), .acquire h.req.scope, .childFree key] 0)
        ∧ (ownedBy q.g h = true → h.st = .faulted ∨ h.st = .cancelled →
            (q.sc.mod.cv = false → q.yields (i q.w) [answer (statusWord h false), .acquire h.req.scope] 0)
            ∧ (q.sc.mod.cv = true →
                let va := (spair q.g q.path q.sc.mod.creg.toNat).1
                ∀ s' x, checkGlobal q.s q.is.loc q.g.ctx { w := true } 64 0 va = (s', some x) → x.cause = 0 →
                  q.gives (i q.w) s' [answer (statusWord h false), .acquire h.req.scope,
                    .access { entryOf q.sc .write false 64 [{ lane := 0, va := va, pa := x.pa, data := childRecord q.s key h }] with
                      scope := 1, cached := false }] 0 [])))
    ∧ (∀ key h, here = some (key, h) → ownedBy q.g h = true → childEnded h = false →
        (q.sc.mod.cv = true → (spair q.g q.path q.sc.mod.creg.toNat).2 = false) →
        (q.ready (.ttest q.w) → q.yields (.ttest q.w) [answer (statusWord h false)] 0)
        ∧ (q.ready (.twait q.w) → exec (.twait q.w) q.s = .next (holdSlot q.s q.is true)))
    ∧ (q.ready (.tcancel q.w) → q.yields (.tcancel q.w) [.tcancel q.d tok.val] 0)
    ∧ (here = none → (q.ready (.tdet q.w) → q.yields (.tdet q.w) [] 0) ∧ (q.ready (.trel q.w) → q.yields (.trel q.w) [] 0))
    ∧ (∀ key h, here = some (key, h) → ownedBy q.g h = true →
        (q.ready (.tdet q.w) → q.yields (.tdet q.w) [.childDetach key] 0)
        ∧ (q.ready (.trel q.w) → q.yields (.trel q.w) [if childEnded h then .childFree key else .childGiveUp key] 0)
        ∧ (q.ready (.tprio q.w) → (q.uy true).val.toNat ≤ 3 → (q.uy true).poison = false → childEnded h = false →
            q.yields (.tprio q.w) [.childPrio key (min (q.uy true).val.toNat h.maxPrio)] 0))
    ∧ ∀ e ∈ ([(.cntwaitMx, 0), (.cntwaitCp, 1), (.cntwaitCo, 2)] : List ((Slot → Instr) × Nat)), q.ready (e.1 q.w) →
        (q.uy true).poison = false →
        ((classCounter q.g e.2).length > (q.uy true).val.toNat → exec (e.1 q.w) q.s = .next (holdSlot q.s q.is true))
        ∧ ((classCounter q.g e.2).length ≤ (q.uy true).val.toNat →
        let left := leftChildren q.s q.g e.2
        let acq := Eff.acquire ((left.map fun k => k.2.req.scope).foldl max (tget 0 q.g.leftScopes e.2))
        let free := (left.filter fun k => decide (k.2.st = .complete)).map fun k => Eff.childFree k.1
        (earliest (left.filter fun k => decide (k.2.st = .faulted) && !k.2.reported) = none →
          q.yields (e.1 q.w) ([answer 0, acq] ++ free) 0)
        ∧ ∀ key h, earliest (left.filter fun k => decide (k.2.st = .faulted) && !k.2.reported) = some (key, h) →
          q.yields (e.1 q.w) ([answer (tokenOf key h.gen), acq, .childReported key] ++ free) 0)

/-- R114-R116, R164, R197: QPUT, RRES, RCOMMIT and LFILL with clean and legal operands act on their queue at commit. RNGSEED seeds the
streams of the selected lanes from s(b) and v(a). That QPUT and RCOMMIT hold their bundle until the group's earlier accesses have
performed is the model's reading of their release (notes/assumptions/33.md, DEDUCED). -/
def Obligations.QueueAndRecordSlots : Prop :=
  ∀ q : Taken, q.on →
    let a := (q.s32 q.a).val.toNat
    let rq := a % 1024
    let n := a / 65536
    (q.ready (.qput q.w) → (q.s32 q.b).poison = false → (∀ j < 16, (q.s32 (q.a + j)).poison = false) →
      (q.a ≤ 48 → (q.s32 q.b).val.toNat < 65536 → q.g.macc = [] →
        q.yields (.qput q.w) [.qput q.d (q.s32 q.b).val.toNat ((List.range 16).map fun j => (q.s32 (q.a + j)).val)] 0)
      ∧ (q.a ≤ 48 → (q.s32 q.b).val.toNat < 65536 → q.g.macc ≠ [] → exec (.qput q.w) q.s = .next (holdSlot q.s q.is false))
      ∧ (q.a > 48 ∨ (q.s32 q.b).val.toNat ≥ 65536 → q.traps (.qput q.w) 2 0 0))
    ∧ ((q.s32 q.a).poison = false → a / 1024 % 64 = 0 → 1 ≤ n → n ≤ 4096 → tget none (getCtx q.s q.g.ctx).rqs rq ≠ none →
      (q.ready (.rres q.w) → q.yields (.rres q.w) [.rres q.d q.b rq n] 0)
      ∧ (q.ready (.rcommit q.w) → (q.s32 q.b).poison = false →
          (q.g.macc = [] → q.yields (.rcommit q.w) [.rcommit rq n (q.s32 q.b).val] 0)
          ∧ (q.g.macc ≠ [] → exec (.rcommit q.w) q.s = .next (holdSlot q.s q.is false))))
    ∧ ((a / 1024 % 64 ≠ 0 ∨ n = 0 ∨ n > 4096 ∨ tget none (getCtx q.s q.g.ctx).rqs rq = none) →
      (q.ready (.rres q.w) → q.traps (.rres q.w) 2 0 0) ∧ (q.ready (.rcommit q.w) → q.traps (.rcommit q.w) 2 0 0))
    ∧ (q.ready (.lfill q.w) → ∀ r, tget none (getCtx q.s q.g.ctx).rqs (q.s32 q.b).val.toNat = some r → (q.s32 q.b).val.toNat < 1024 →
        r.cons = 0 → (q.s32 q.b).poison = false → q.path.mask &&& (preg q.g q.a).poison = 0 →
        q.yields (.lfill q.w) [.lfill q.d q.a (q.s32 q.b).val.toNat] 0)
    ∧ (q.ready (.rngseed q.w) →
        let sel : PMask := if q.sc.mod.cv then preg q.g q.sc.mod.creg.toNat else ⟨0xFFFF, 0⟩
        let lanes := lanesOf (q.path.mask &&& sel.val)
        (q.s32 q.b).poison = false → q.path.mask &&& sel.poison = 0 → (∀ l ∈ lanes, (vpair q.g q.a l).2 = false) →
        q.yields (.rngseed q.w) [.seed (q.path.mask &&& sel.val) (q.s32 q.b).val (lanes.map fun l => BitVec.ofNat 64 (vpair q.g q.a l).1)] 0)

/-! ## Branches and regions (R144-R163) -/

/-- R155-R161: a branch whose guard is 1 opens a delay window of three bundles, to its target when it is taken: BRA, CALL and RET
always, BRC when its mode holds of the lanes of p(a), CHK when its register is poisoned. BRD with lanes on both sides opens a region
whose sides part after the window. A guard of 0 leaves the branch not taken, and BRD's token 0; a poisoned guard traps POISON, and so does a
poisoned lane of the p(a) that BRC or BRD tests. CHK branches when a lane of v(a) or p(a), or s(a), or sp(a), is poisoned, by the kind that D
names, and consumes none of it. -/
def Obligations.BranchWindows : Prop :=
  (∀ q : Taken,
    let m := q.path.mask
    let reaches (r : Nat) (t : Nat) : Prop := match q.w.imm with
      | some x => (t : Int) = (q.is.baddr + 4 * x.toInt) % 2 ^ 57
      | none => spair q.g q.path r = (t, false) ∧ t < 2 ^ 57 ∧ t % 4 = 0
    let window (taken : Bool) (t : Nat) : Eff := .window { left := 3, taken := taken, target := if taken then t else 0 }
    let yes := lanesOf (m &&& (preg q.g q.a).val)
    let all := lanesOf m
    let forms : List (Slot → Instr) := [.bra, .brcAny, .brcAll, .brcNone, .brcNall, .brd, .call, .ret]
    (∀ i ∈ forms, q.ready (i q.w) → (scalarGuard q.sc).poison = true → q.traps (i q.w) 7 0 0)
    ∧ (scalarGuard q.sc = ⟨false, false⟩ →
        (∀ i ∈ ([.bra, .brcAny, .brcAll, .brcNone, .brcNall, .call, .ret] : List (Slot → Instr)), q.ready (i q.w) →
          q.yields (i q.w) [window false 0] 0)
        ∧ (q.ready (.brd q.w) → q.yields (.brd q.w) [.result 2 [.s q.d ⟨0, false⟩], window false 0] 0))
    ∧ (q.on → ∀ t,
        (q.ready (.bra q.w) → reaches q.b t → q.yields (.bra q.w) [window true t] 0)
        ∧ (q.ready (.call q.w) → reaches q.b t →
            q.yields (.call q.w) [.window { left := 3, taken := true, target := t, link := some (q.d, 0) }] 0)
        ∧ (q.ready (.ret q.w) → spair q.g q.path q.a = (t, false) → t < 2 ^ 57 → t % 4 = 0 → q.yields (.ret q.w) [window true t] 0)
        ∧ (m &&& (preg q.g q.a).poison = 0 → reaches q.b t →
            (q.ready (.brcAny q.w) → q.yields (.brcAny q.w) [window (decide (yes ≠ [])) t] 0)
            ∧ (q.ready (.brcAll q.w) → q.yields (.brcAll q.w) [window (decide (yes.length = all.length)) t] 0)
            ∧ (q.ready (.brcNone q.w) → q.yields (.brcNone q.w) [window (decide (yes = [])) t] 0)
            ∧ (q.ready (.brcNall q.w) → q.yields (.brcNall q.w) [window (decide (yes.length < all.length)) t] 0)
            ∧ (q.ready (.brd q.w) →
                let m1 := m &&& (preg q.g q.a).val
                let m0 := m &&& ~~~m1
                let tok : Word := BitVec.ofNat 32 (q.is.baddr / 4 % 2 ^ 26 * 64 + q.path.depth + 1)
                (m0 = 0 ∨ m1 = 0 → q.yields (.brd q.w) [.result 2 [.s q.d ⟨0, false⟩], window (decide (m1 ≠ 0)) t] 0)
                ∧ (m0 ≠ 0 → m1 ≠ 0 → q.path.depth < 32 → q.yields (.brd q.w) [.result 2 [.s q.d ⟨tok, false⟩], .openRegion tok m0 m1 t, .window { left := 3, taken := true, target := t, fork := true }] 0)
                ∧ (m0 ≠ 0 → m1 ≠ 0 → q.path.depth = 32 → q.traps (.brd q.w) 9 0 0)))
        ∧ (m &&& (preg q.g q.a).poison ≠ 0 → ∀ i ∈ ([.brcAny, .brcAll, .brcNone, .brcNall, .brd] : List (Slot → Instr)),
            q.ready (i q.w) → q.traps (i q.w) 7 0 (m &&& (preg q.g q.a).poison))))
  ∧ ∀ q : Taken, q.ready (.chk q.w) → ∀ t : Nat,
      let reaches : Prop := match q.w.imm with
        | some x => (t : Int) = (q.is.baddr + 4 * x.toInt) % 2 ^ 57
        | none => spair q.g q.path q.b = (t, false) ∧ t < 2 ^ 57 ∧ t % 4 = 0
      let kind : RegKind := match q.d with
        | 0 => .v
        | 1 => .s
        | 2 => .p
        | _ => .sp
      let us : List RegUse := if q.d ≥ 2 ∧ q.a = 7 then [] else [⟨kind, q.a, 1, false⟩]
      let poisoned : Bool := match q.d with
        | 0 => (lanesOf q.path.mask).any fun l => (vreg q.g q.a l).poison
        | 1 => (q.s32 q.a).poison
        | 2 => (lanesOf q.path.mask).any fun l => (preg q.g q.a).poison.getLsbD l
        | _ => (spreg q.g q.path q.a).poison
      (q.d ≥ 2 → q.a < 8) → (∀ u ∈ us, pendingUse q.g q.path u = false) →
      (scalarGuard q.sc = ⟨false, false⟩ → q.gives (.chk q.w) q.s [.window { left := 3, taken := false, target := 0 }] 0 us)
      ∧ ((q.d = 0 → q.a < 8 * q.g.blocks) →
        ((scalarGuard q.sc).poison = true → q.traps (.chk q.w) 7 0 0)
        ∧ (q.on → reaches → q.gives (.chk q.w) q.s
            [.window { left := 3, taken := poisoned, target := if poisoned then t else 0 }] 0 us))

/-- R159, R162, R163, R62: JOIN of the innermost region's token arrives at its end, JOIN of 0 does nothing, and JOIN of another
token traps ILLEGAL_OPERAND; YIELD, EXIT and the hints of an H slot act at commit. -/
def Obligations.PathControl : Prop :=
  (∀ q : Taken, q.ready (.join q.w) → q.on →
    let t := q.s32 q.a
    (t = ⟨0, false⟩ → q.yields (.join q.w) [] 0)
    ∧ (t.val ≠ 0 → q.path.depth ≠ 0 → t.val.toNat = innerToken q.g q.path → t.poison = false → q.yields (.join q.w) [.join t.val] 0)
    ∧ (t.val ≠ 0 → q.path.depth = 0 ∨ t.val.toNat ≠ innerToken q.g q.path → q.traps (.join q.w) 2 0 0))
  ∧ (∀ e ∈ ([(.yield, .yield), (.exit, .exitPath)] : List ((Slot → Instr) × Eff)), ∀ q : Taken, q.ready (e.1 q.w) → q.on →
      q.yields (e.1 q.w) [e.2] 0)
  ∧ ∀ (s : State) (is : Issue) (g : Group) (stop : Bool) (gap : BitVec 5) (gw mb : Bool),
    s.cur = some is → getGroup s is.loc = some g → is.above ≤ 12 →
    let next : Issue := { is with words := is.words.drop 1, idx := is.idx + 1, above := 13, effs := is.effs ++ [(is.idx, .hint gap.toNat gw)] }
    (stop = true → exec (.hSlot stop gap gw mb) s = .next (commit s next))
    ∧ (stop = false → is.words.drop 1 ≠ [] → exec (.hSlot stop gap gw mb) s = .next { s with cur := some next })

/-! ## Barriers, blocks and the other Z slots -/

/-- R355-R366: BAR arrives, waits, or both, in a group with one path; it waits for the phase of its last arrival to end; BARB acts at commit on
a barrier word of the pond, and traps on one that is misplaced or not in use; WAITEVT of a word that passes its checks waits on it. That BAR
and BARB hold their bundle until the earlier accesses that they release have performed is the model's reading (notes/assumptions/33.md,
DEDUCED). -/
def Obligations.BarrierAndEventSlots : Prop :=
  ∀ q : Taken, q.on →
    let one : Prop := q.path.depth = 0 ∧ (pathAt q.g (1 - q.is.path)).st = .empty
    let clear : Prop := (q.g.arr = true → setPhase q.s q.g ≠ q.g.ph) ∧ q.g.macc = []
    (∀ i ∈ ([.bar, .barArrive, .barWait] : List (Slot → Instr)), q.ready (i q.w) → ¬one → q.traps (i q.w) 2 0 0)
    ∧ (one → clear → q.ready (.bar q.w) → q.yields (.bar q.w) [.barArrive, .wait (.bar (setPhase q.s q.g))] 0)
    ∧ (one → clear → q.ready (.barArrive q.w) → q.yields (.barArrive q.w) [.barArrive] 0)
    ∧ (∀ i ∈ ([.bar, .barArrive] : List (Slot → Instr)), one → q.ready (i q.w) →
        (q.g.arr = true → setPhase q.s q.g = q.g.ph → exec (i q.w) q.s = .next (holdSlot q.s q.is true))
        ∧ ((q.g.arr = true → setPhase q.s q.g ≠ q.g.ph) → q.g.macc ≠ [] → exec (i q.w) q.s = .next (holdSlot q.s q.is false)))
    ∧ (one → q.ready (.barWait q.w) → q.yields (.barWait q.w) (if q.g.arr then [.wait (.bar q.g.ph)] else []) 0)
    ∧ (∀ e ∈ ([(.barbInit, 0, fun x => 0 < x ∧ x < 2 ^ 28), (.barbExpect, 1, fun x => 0 < x ∧ x < 2 ^ 28), (.barbArrive, 2, fun x => x ≤ 4096),
          (.barbWait, 3, fun x => x < 128)] : List ((Slot → Instr) × Nat × (Nat → Prop))), q.ready (e.1 q.w) →
        let off := (q.s32 q.a).val.toNat
        let x := (q.uy true).val.toNat
        let c := checkPond q.s q.g 8 0 off
        e.2.2 x → (q.s32 q.a).poison = false → (q.uy true).poison = false →
        (fencedAt q.s q.g off = true ∨ pathBusy q.sc = true → exec (e.1 q.w) q.s = .next (holdSlot q.s q.is false))
        ∧ (fencedAt q.s q.g off = false → pathBusy q.sc = false →
        (c.cause = 0 → (e.2.1 ≠ 0 → (barAt q.s c.pa).v = true) → (e.2.1 = 2 → (barAt q.s c.pa).expect ≠ 0) →
          q.yields (e.1 q.w) [.barbOp e.2.1 off x (q.d % 16)] 0)
        ∧ (c.cause = 3 → q.traps (e.1 q.w) 3 off 0) ∧ (c.cause = 4 → q.traps (e.1 q.w) 4 off 0) ∧ (c.cause = 2 → q.traps (e.1 q.w) 6 off 0)
        ∧ (c.cause = 0 → (e.2.1 ≠ 0 ∧ (barAt q.s c.pa).v = false) ∨ (e.2.1 = 2 ∧ (barAt q.s c.pa).expect = 0) → q.traps (e.1 q.w) 2 0 0)))
    ∧ (q.ready (.waitevt q.w) → (q.s32 q.b).poison = false → ∀ va s' x, spair q.g q.path q.a = (va, false) →
        checkGlobal q.s q.is.loc q.g.ctx { r := true } 4 0 va = (s', some x) → x.cause = 0 →
        q.gives (.waitevt q.w) s' [.wait (.waitevt ⟨some x.pa, va, q.is.baddr, slotWord q.sc, modWord q.sc, (q.s32 q.b).val, (q.w.imm.map BitVec.toNat).getD 0, false, 0⟩)] 0
          [⟨.sp, q.d % 8, 1, true⟩])

/-- R141, R142, R214, R215, R441, R442, R443, R490, R495: RBREL gives back the group's highest blocks, RBCLAIM takes free ones at once where no
claim waits before it and else waits as a claim of its sequencer, and BANKMODE changes a bank's mode or fences; what the rules forbid
traps. PRPUB of a 128-aligned record, POSEW of sixteen clean uniforms, TRACEMARK and ENRD act at commit. The model's choices in it: a claim
takes any free block, reserved for sets to come or not (notes/assumptions/31.md, DESIGN CHOICE), and PRPUB and POSEW hold their bundle
until the group's earlier accesses have performed (notes/assumptions/33.md, DEDUCED). -/
def Obligations.BlocksBanksAndTraces : Prop :=
  ∀ q : Taken, q.on →
    let one : Prop := q.path.depth = 0 ∧ (pathAt q.g (1 - q.is.path)).st = .empty
    let y := q.uy true
    let n := y.val.toNat
    let seq := seqOf q.is.loc
    (q.ready (.rbrel q.w) →
      let us : List RegUse := [⟨.v, 8 * (q.g.blocks - n), 8 * n, true⟩]
      (one → 0 < n → n < q.g.blocks → y.poison = false → ((q.is.uses ++ usesOf q.f q.w).any fun u => us.any (usesMeet u)) = false →
        us.any (pendingUse q.g q.path) = false → q.gives (.rbrel q.w) q.s [.blocksRel n] 0 us)
      ∧ (¬one ∨ n = 0 ∨ n ≥ q.g.blocks → q.traps (.rbrel q.w) 2 0 0))
    ∧ (q.ready (.rbclaim q.w) →
      (one → 0 < n → q.g.blocks + n ≤ 8 → y.poison = false →
        q.path.granted = n ∨ ((getSeq q.s seq).claims = [] ∧ n ≤ freeBlocks q.s seq + q.path.granted) →
        q.yields (.rbclaim q.w) [.blocksClaim n] 0)
      ∧ (one → 0 < n → q.g.blocks + n ≤ 8 → y.poison = false → q.path.granted ≠ n →
        let claims := (getSeq q.s seq).claims
        let mine : Prop := ∃ k ∈ claims, k.loc = q.is.loc ∧ k.path = q.is.path
        (mine → exec (.rbclaim q.w) q.s = .next (holdSlot q.s q.is true))
        ∧ (¬mine → claims ≠ [] ∨ n > freeBlocks q.s seq + q.path.granted → exec (.rbclaim q.w) q.s = .next (holdSlot
            (putSeq q.s seq { getSeq q.s seq with claims := claims ++ [⟨q.is.loc, q.is.path, n, q.is.idx, q.is.len⟩] }) q.is true)))
      ∧ (¬one ∨ n = 0 ∨ q.g.blocks + n > 8 → q.traps (.rbclaim q.w) 2 0 0))
    ∧ (q.ready (.bankmode q.w) → n < 1024 → n / 32 % 8 = 0 → y.poison = false →
      (n = 768 → fenceBehind q.s q.g = false → q.yields (.bankmode q.w) [.bankFence] 0)
      ∧ (n / 256 < 3 → n % 32 < (pondOf q.s q.g).2.length → q.yields (.bankmode q.w) [.bankMode (n % 32) (n / 256)] 0)
      ∧ (n / 256 < 3 → n % 32 ≥ (pondOf q.s q.g).2.length → q.traps (.bankmode q.w) 4 0 0))
    ∧ (q.ready (.prpub q.w) → ∀ va, spair q.g q.path q.a = (va, false) → y.poison = false → 0 < y.val.toNat → y.val.toNat < 65536 →
      (va < 2 ^ 57 → va % 128 = 0 → q.g.macc = [] → q.yields (.prpub q.w) [.publish y.val.toNat va q.d] 0)
      ∧ (va < 2 ^ 57 → va % 128 = 0 → q.g.macc ≠ [] → exec (.prpub q.w) q.s = .next (holdSlot q.s q.is false))
      ∧ (va ≥ 2 ^ 57 → q.traps (.prpub q.w) 4 va 0) ∧ (va < 2 ^ 57 → va % 128 ≠ 0 → q.traps (.prpub q.w) 3 va 0))
    ∧ (q.ready (.posew q.w) → q.a ≤ 48 → y.val.toNat ≤ 15 → y.poison = false → (∀ j < 16, (q.s32 (q.a + j)).poison = false) →
      (q.g.macc = [] → q.yields (.posew q.w) [.poseWrite y.val.toNat ((List.range 16).map fun j => (q.s32 (q.a + j)).val) q.d] 0)
      ∧ (q.g.macc ≠ [] → exec (.posew q.w) q.s = .next (holdSlot q.s q.is false)))
    ∧ (q.ready (.tracemark q.w) → y.poison = false → q.yields (.tracemark q.w) [.mark y.val] 0)
    ∧ (q.ready (.enrd q.w) → q.yields (.enrd q.w) [.enrd q.d] 0)

/-- R391: with its guard 1, TRAP raises SOFTWARE with its operand as the address and BRK raises BREAKPOINT with its tag; with its guard 0
either has no effect; a poisoned guard or operand traps POISON. Beside the rule: RTE and RTE.skip in a
handler, outside a delay window, return to sr.epc at commit; outside a handler they trap ILLEGAL_OPERAND. -/
def Obligations.TrapAndReturnSlots : Prop :=
  (∀ i ∈ ([.trap, .brk] : List (Slot → Instr)), ∀ q : Taken, q.ready (i q.w) →
      (scalarGuard q.sc = ⟨false, false⟩ → q.yields (i q.w) [] 0)
      ∧ ((scalarGuard q.sc).poison = true → q.traps (i q.w) 7 0 0))
  ∧ ∀ q : Taken, q.on →
    (q.ready (.trap q.w) → (q.uy true).poison = false → q.traps (.trap q.w) 14 (q.uy true).val.toNat 0)
    ∧ (q.ready (.trap q.w) → (q.uy true).poison = true → q.traps (.trap q.w) 7 0 0)
    ∧ (q.ready (.brk q.w) → q.traps (.brk q.w) 15 q.b 0)
    ∧ ∀ e ∈ ([(.rte, false), (.rteSkip, true)] : List ((Slot → Instr) × Bool)), q.ready (e.1 q.w) →
      let t := q.g.epc.toNat
      (q.g.hnd = true → q.path.window = none → t < 2 ^ 57 → t % 4 = 0 →
        q.yields (e.1 q.w) [.rte t (q.g.ecause.toNat / 4096 % 8) e.2] 0)
      ∧ (q.g.hnd = false → q.traps (e.1 q.w) 2 0 0)
      ∧ (q.g.hnd = true → q.path.window = none → t ≥ 2 ^ 57 → q.traps (e.1 q.w) 4 t 0)
      ∧ (q.g.hnd = true → q.path.window = none → t < 2 ^ 57 → t % 4 ≠ 0 → q.traps (e.1 q.w) 3 t 0)

/-! ## Traps (R383-R392) -/

/-- R383, R384, R388, R389, R493: a trap of a context with TP = 1, outside a handler, that is no BREAKPOINT under BRKSTOP, enters the handler: the
bundle is abandoned; sr.epc, sr.efault and the fields of sr.ecause take the bundle's address, the trap's address and its cause, slot,
length, window and lanes; the path goes on at HANDLER with its mask, depth and shadow, its window set aside; every register, the
memory and the other path keep their values. Under TP = 0, inside the handler, or for a BREAKPOINT under BRKSTOP, the context begins to
stop as faulting. Of a slot's causes SOFT_ERROR comes next after an illegal encoding, for every form; that a soft error meets a bundle at one
of its slots, as an operand of the bundle's opening, is the model's choice (notes/assumptions/20.md, DESIGN CHOICE). -/
def Obligations.TrapEntry : Prop :=
  ∀ (s : State) (is : Issue) (g : Group) (slot : Nat) (t : TrapInfo), getGroup s is.loc = some g → is.path < 2 → 1 ≤ is.len → is.len ≤ 8 →
    slot < 8 → t.cause < 256 →
    let x := getCtx s g.ctx
    let again : Prop := g.hnd = true ∧ g.hndPath = is.path
    let q := pathAt g is.path
    let s' := raiseTrap s is slot t
    (x.tp = 1 → ¬again → (t.cause = 15 → x.dbgctl.getLsbD 0 = false) →
      ∃ h, getGroup s' is.loc = some h
        ∧ h.epc = BitVec.ofNat 64 is.baddr ∧ h.efault = BitVec.ofNat 64 t.addr ∧ h.hnd = true ∧ h.hndPath = is.path
        ∧ h.ecause.toNat % 256 = t.cause ∧ h.ecause.toNat / 256 % 8 = slot ∧ h.ecause.toNat / 4096 % 8 + 1 = is.len
        ∧ h.ecause.getLsbD 11 = true ∧ h.ecause.getLsbD 15 = q.window.isSome ∧ h.ecause.toNat / 65536 = t.lanes.toNat
        ∧ pathAt h is.path = { q with window := none, pc := x.handler, doomed := none, rejected := none }
        ∧ pathAt h (1 - is.path) = pathAt g (1 - is.path) ∧ h.asideWin = q.window
        ∧ SameFiles g h ∧ h.fflags = g.fflags ∧ h.inflight = g.inflight ∧ h.macc = g.macc ∧ h.stack = g.stack
        ∧ s' = { s with cur := none, epoch := s.epoch + 1, groups := s'.groups })
    ∧ (x.tp ≠ 1 ∨ again ∨ (t.cause = 15 ∧ x.dbgctl.getLsbD 0 = true) →
      (getCtx s' g.ctx).faulting = true ∧ (getCtx s' g.ctx).st = .preempting
      ∧ ∃ h, getGroup s' is.loc = some h ∧ h.trapped = true ∧ SameFiles g h ∧ SameSpecials g h ∧ h.inflight = g.inflight ∧ h.macc = g.macc
        ∧ h.stack = g.stack ∧ (pathAt h is.path).pc = q.pc ∧ (pathAt h is.path).window = q.window
        ∧ pathAt h (1 - is.path) = pathAt g (1 - is.path))
    ∧ ∀ (i : Instr) (q : Taken), slotOf i = some (q.f, q.cls, q.w) → q.s.cur = some q.is → getGroup q.s q.is.loc = some q.g →
      slotOk q.f q.w = true → eGiven q.f q.w = true → q.is.above ≤ q.cls → (q.cls = 9 → q.path.window = none) → softAt q.is = true →
      q.traps i 13 0 (softLanes q.is)

/-- R66, R73, R114, R131, R141, R142, R145, R158, R163, R168, R178, R204, R214, R228, R256, R286, R313, R316, R317, R356, R392: what the commit of a bundle of one
effect does. RTE clears HND, restores the window that handler entry set aside and goes on at its target, or with `.skip` past the bundle there,
which counts for the window. UWRS writes its special register; a latch write waits for two more bundles; a branch opens its window, BRD also its
region; EXIT at depth 0 ends the path; an access, FENCE or DRAIN joins the group's accesses; BAR arrives; blocks leave or join the group, the
joining ones zero; a child stands in the table under its token; tiles and routine entries change hands; a bank's mode becomes pending. The
path's pc moves past the bundle, and what the effect does not name keeps its value. -/
def Obligations.TrapReturn : Prop :=
  ∀ (s : State) (is : Issue) (g : Group) (k : Nat), getGroup s is.loc = some g → is.path < 2 → CanonicalFiles g →
    let pt := pathAt g is.path
    let s' := commit s is
    let core := coreOf is.loc
    let next := (pt.pc + 4 * is.len) % 2 ^ 57
    (∀ t len skip, t < 2 ^ 57 → is.effs = [(k, .rte t len skip)] →
      ∃ h, getGroup s' is.loc = some h ∧ h.hnd = false
        ∧ (pathAt h is.path).pc = (if skip then (t + 4 * (len + 1)) % 2 ^ 57 else t)
        ∧ (pathAt h is.path).window = (if skip then countWindow g.asideWin else g.asideWin)
        ∧ (pathAt h is.path).mask = pt.mask ∧ (pathAt h is.path).depth = pt.depth
        ∧ SameFiles g h ∧ SameSpecials g h ∧ s'.mem = s.mem)
    ∧ (∀ n v, is.effs = [(k, .special n v)] →
      ∃ h, getGroup s' is.loc = some h ∧ SameFiles g h ∧ s'.mem = s.mem ∧ (pathAt h is.path).pc = next
        ∧ h.fflags = (if n = 7 then v &&& 0x3F else g.fflags) ||| is.flags.setWidth 32
        ∧ h.lfault = (if n = 8 then v &&& 0xC00FFFFF else g.lfault)
        ∧ h.ecause = (if n = 0x0F then v else g.ecause)
        ∧ h.epc = (if n = 0x0D then (g.epc >>> 32).setWidth 32 ++ v else if n = 0x0E then v ++ g.epc.setWidth 32 else g.epc)
        ∧ h.efault = (if n = 0x10 then (g.efault >>> 32).setWidth 32 ++ v else if n = 0x11 then v ++ g.efault.setWidth 32 else g.efault)
        ∧ h.gidx = g.gidx ∧ h.set = g.set ∧ h.launch = g.launch ∧ h.key = g.key ∧ h.blocks = g.blocks ∧ h.cyclehi = g.cyclehi)
    ∧ (∀ n v, is.effs = [(k, .latch n v)] → ∃ h, getGroup s' is.loc = some h ∧ SameFiles g h ∧ SameSpecials g h
        ∧ h.kpend = countLatches g.kpend ++ [⟨n, v, 2, false⟩])
    ∧ (∀ w, is.effs = [(k, .window w)] → ∃ h, getGroup s' is.loc = some h ∧ SameFiles g h ∧ SameSpecials g h
        ∧ (pathAt h is.path).window = some w ∧ (pathAt h is.path).pc = next)
    ∧ (∀ d t m0 m1 target, is.effs = [(k, .result 2 [.s d ⟨t, false⟩]), (k, .openRegion t m0 m1 target),
          (k, .window { left := 3, taken := true, target := target, fork := true })] →
        ∃ h, getGroup s' is.loc = some h ∧ SameFiles g h ∧ SameSpecials g h ∧ (pathAt h is.path).pc = next
          ∧ (pathAt h is.path).window = some { left := 3, taken := true, target := target, fork := true }
          ∧ h.stack = { token := t, mask0 := m0, mask1 := m1, st0 := .opening, st1 := .opening, pc0 := 0, pc1 := target, sh0 := [], sh1 := [] }
              :: g.stack
          ∧ ⟨pt.mask, pt.depth, 2, [.s d ⟨t, false⟩]⟩ ∈ h.inflight)
    ∧ (is.effs = [(k, .exitPath)] → g.stack = [] → g.hnd = false →
        ∃ h, getGroup s' is.loc = some h ∧ SameFiles g h ∧ (pathAt h is.path).st = .empty ∧ h.macc = g.macc)
    ∧ (is.effs = [(k, .yield)] → ∃ h, getGroup s' is.loc = some h ∧ SameFiles g h ∧ SameSpecials g h ∧ h.giveWay = true
        ∧ (pathAt h is.path).pc = next)
    ∧ (∀ e, is.effs = [(k, .access e)] → ∃ h, getGroup s' is.loc = some h ∧ SameFiles g h ∧ SameSpecials g h ∧ h.macc = g.macc ++ [e]
        ∧ s'.mem = s.mem ∧ s'.pond = s.pond)
    ∧ (∀ sc drain, is.effs = [(k, .fence sc drain)] → ∃ h e, getGroup s' is.loc = some h ∧ SameFiles g h ∧ SameSpecials g h
        ∧ h.macc = g.macc ++ [e] ∧ e.kind = (if drain then .drain else .fence) ∧ e.mask = pt.mask ∧ e.scope = sc ∧ e.lanes = []
        ∧ s'.mem = s.mem ∧ s'.pond = s.pond)
    ∧ (is.effs = [(k, .barArrive)] → g.p0.waits = [] → g.p1.waits = [] → ∀ r, getSet s g.ctx g.launch g.set = some r → r.barrier = true →
        r.live ≠ 0 →
        let all := r.arrived ||| BitVec.ofNat 16 (2 ^ setPos r g)
        ∃ h, getGroup s' is.loc = some h ∧ SameFiles g h ∧ h.arr = true ∧ h.ph = r.phase
          ∧ getSet s' g.ctx g.launch g.set = some (if all = r.live then { r with phase := (r.phase + 1) % 256, arrived := 0 } else { r with arrived := all }))
    ∧ (∀ n, is.effs = [(k, .blocksRel n)] → n ≤ g.blocks → ∃ h, getGroup s' is.loc = some h ∧ h.blocks = g.blocks - n
        ∧ (∀ r l, l < 16 → r < 8 * (g.blocks - n) → vreg h r l = vreg g r l)
        ∧ (∀ r l, l < 16 → 8 * (g.blocks - n) ≤ r → r < 8 * g.blocks → vreg h r l = {})
        ∧ h.s = g.s ∧ h.sp = g.sp ∧ h.p = g.p ∧ h.x = g.x)
    ∧ (∀ n, is.effs = [(k, .blocksClaim n)] → ∃ h, getGroup s' is.loc = some h ∧ h.blocks = g.blocks + n ∧ (pathAt h is.path).granted = 0
        ∧ (∀ r l, l < 16 → r < 8 * g.blocks → vreg h r l = vreg g r l)
        ∧ (∀ r l, l < 16 → 8 * g.blocks ≤ r → r < 8 * (g.blocks + n) → vreg h r l = {})
        ∧ h.s = g.s ∧ h.sp = g.sp ∧ h.p = g.p ∧ h.x = g.x)
    ∧ (∀ d r e c, is.effs = [(k, .child d r)] → r.pred = 0 → takeEntry (getCore s core) = some (e, c) →
        let key := core * 4096 + e
        let tok := tokenOf key (tget 1 c.gens e)
        ∃ h ch, getGroup s' is.loc = some h ∧ SameFiles g h ∧ getChild s' key = some ch ∧ ch.req = r ∧ ch.st = .issued ∧ ch.cls = r.cls
          ∧ ch.ctx = g.ctx ∧ ch.launch = g.launch ∧ ch.gidx = g.gidx ∧ ch.attached = !r.det ∧ ch.baddr = is.baddr ∧ ch.slot = k
          ∧ tokenOf key ch.gen = tok ∧ classCounter h r.cls = classCounter g r.cls ++ [tok]
          ∧ ⟨pt.mask, pt.depth, 4, [.s d ⟨tok, false⟩]⟩ ∈ h.inflight)
    ∧ (tblWf {} s.cores = true → tblWf 0 s.acc = true →
        (∀ i d, is.effs = [(k, .routine i d)] → routineEntry s' core i = some ⟨is.loc, d⟩)
        ∧ (∀ t n, is.effs = [(k, .tilesZero t n)] → ∀ j < n, tileHolder s' core (t + j) = .group is.loc
            ∧ ∀ r < 64, ∀ c < 64, accElem s' core (t + j) r c = 0)
        ∧ (∀ t x v, is.effs = [(k, .tileWrite t [(x, v)])] → x < 4096 → accElem s' core t (x / 64) (x % 64) = v
            ∧ ∀ i, i ≠ accKey core t 0 0 + x → tget 0 s'.acc i = tget 0 s.acc i))
    ∧ (∀ b m, is.effs = [(k, .bankMode b m)] →
        let q := pondOf s g
        (getBank s' (q.1 * 32 + q.2.getD b 0)).pending = some m)

/-! ## Frames of translation, commit and landing -/

/-- R367, R370, R371, R372: a translation changes nothing but cached translations and one byte of memory: the lowest of the leaf entry that it
uses, which gains A, and D for a write. That entry stands at the address of a cached leaf that a write finds with D = 0 and unchanged, at the leaf of the
walk from the lowest cached table, or at that of the walk from the context's root; with none of these memory keeps every byte. The check of the lanes of
an access changes so the leaf of each lane's address, as it stands when that lane is translated. -/
def Obligations.TranslationFrame : Prop :=
  let leaf (m : Memory) (va fuel table : Nat) : Option Nat := match walk m va fuel table with
    | .ok l => some l.at_
    | .error _ => none
  let place (s : State) (u : TUnit) (c va : Nat) (n : Need) : Option Nat :=
    let x := getCtx s c
    let anew := leaf s.mem va 5 x.root
    match tlbFind s u x.asn va with
    | some e =>
      if !grants e.pte.toNat n || closedPa s (leafPa e.pte.toNat e.bits va) n then anew
      else if n.w && !bitOf e.pte.toNat 6 then
        (if sameLeaf (if e.bits = 16 then 0 else (e.bits - 12) / 9) (readN s.mem e.at_ 8) e.pte.toNat n then some e.at_ else anew)
      else none
    | none => match cachedTable s u x.asn va with
      | none => anew
      | some (fuel, table) => match (walkFrom s u x.asn fuel table va n).2 with
        | .fault _ _ => anew
        | _ => leaf s.mem va fuel table
  let marked (n : Need) (b : Byte) : Byte := b ||| (if n.w then 0x60 else 0x20)
  (∀ (s : State) (u : TUnit) (c va : Nat) (n : Need), Memory.wf s.mem = true →
    let s' := (translate s u c va n).1
    s' = { s with mem := s'.mem, tlb := s'.tlb } ∧ Memory.wf s'.mem = true
    ∧ (∀ a, place s u c va n ≠ some a → mget s'.mem a = mget s.mem a)
    ∧ (∀ a, place s u c va n = some a → mget s'.mem a = mget s.mem a ∨ mget s'.mem a = marked n (mget s.mem a))
    ∧ (∀ a pa, place s u c va n = some a → (translate s u c va n).2 = .ok pa → mget s'.mem a = marked n (mget s.mem a)))
  ∧ ∀ (s : State) (loc ctx size : Nat) (n : Need) (l : List (Nat × Nat)), Memory.wf s.mem = true →
    let s' := (checkLanes s loc ctx n size l).1
    s' = { s with mem := s'.mem, tlb := s'.tlb } ∧ Memory.wf s'.mem = true
    ∧ ∀ a, mget s'.mem a ≠ mget s.mem a → mget s'.mem a = marked n (mget s.mem a)
      ∧ ∃ i e, l[i]? = some e ∧ place (checkLanes s loc ctx n size (l.take i)).1 (coreUnit loc) ctx e.2 n = some a

/-- R64-R66, R71-R73, R168, R494: the commit of a bundle whose effects are register results changes no register and no byte of memory: it
raises its flags, moves the path's pc past the bundle, counts its open window and its group's pending latch writes, and puts each
result in flight with its latency. Of other groups the registers, flags, pcs and windows stay, and of contexts only the energy counts move. -/
def Obligations.ResultCommitFrame : Prop :=
  ∀ (s : State) (is : Issue) (g : Group), getGroup s is.loc = some g → is.path < 2 →
    (∀ e ∈ is.effs, ∃ lat ws, e.2 = .result lat ws) →
    let s' := commit s is
    s' = { s with cur := none, epoch := s.epoch + 1, groups := s'.groups, ctxs := s'.ctxs, cores := s'.cores, seqs := s'.seqs }
    ∧ (∃ h, getGroup s' is.loc = some h ∧ SameFiles g h ∧ SameSpecials g h ∧ h.fflags = g.fflags ||| is.flags.setWidth 32
      ∧ (pathAt h is.path).pc = ((pathAt g is.path).pc + 4 * is.len) % 2 ^ 57
      ∧ (pathAt h is.path).mask = (pathAt g is.path).mask ∧ h.kpend = countLatches g.kpend
      ∧ (pathAt h is.path).window = (pathAt g is.path).window.map (fun w => { w with left := w.left - 1 })
      ∧ (pathAt h (1 - is.path)).window = (pathAt g (1 - is.path)).window ∧ (pathAt h (1 - is.path)).pc = (pathAt g (1 - is.path)).pc
      ∧ (∀ k lat ws, is.effs = [(k, .result lat ws)] →
          ⟨(pathAt g is.path).mask, (pathAt g is.path).depth, lat, ws⟩ ∈ h.inflight))
    ∧ (∀ loc h, loc ≠ is.loc → getGroup s loc = some h → ∃ h', getGroup s' loc = some h' ∧ SameFiles h h' ∧ SameSpecials h h'
      ∧ h'.fflags = h.fflags ∧ ∀ p, (pathAt h' p).pc = (pathAt h p).pc ∧ (pathAt h' p).window = (pathAt h p).window)
    ∧ (tblWf {} s.ctxs = true → ∀ c, getCtx s' c = { getCtx s c with ec := (getCtx s' c).ec, ecrem := (getCtx s' c).ecrem })

/-- R65, R71, R145, R149: RESULT_LAND of a result of one register, whose time has come, gives that register its value and leaves every
other; a uniform result of a path at depth 0 lands in the file. A uniform or scalar-predicate result that a path inside a region issued lands in the
shadow of every path in a slot that holds a lane of its mask, which then reads it; a path with none of its lanes reads what it read, and the file
keeps its values unless a path of depth 0 holds one. -/
def Obligations.ResultLanding : Prop :=
  (∀ (s : State) (g : Group) (r : Result) (key : Nat) (x : PWord) (b : PBit), getGroup s s.args.n = some g → CanonicalFiles g →
    g.inflight[s.args.m]? = some r → r.left = 0 → r.depth ≠ 0 → key < 1024 →
    ∃ s' h, exec .resultLand s = .next s' ∧ s' = { s with groups := s'.groups } ∧ getGroup s' s.args.n = some h ∧ CanonicalFiles h
      ∧ (r.writes = [.s key x] ∨ (key < 7 ∧ r.writes = [.sp key b]) →
        let holds (p : Nat) : Prop := (pathAt g p).st ≠ .empty ∧ meets (pathAt g p).mask r.mask = true
        h.v = g.v ∧ h.p = g.p ∧ h.x = g.x ∧ h.inflight = g.inflight.eraseIdx s.args.m
        ∧ ((∀ p < 2, holds p → (pathAt g p).depth ≠ 0) → h.s = g.s ∧ h.sp = g.sp)
        ∧ ∀ p < 2,
          (holds p → (pathAt g p).depth ≠ 0 →
            (r.writes = [.s key x] → sreg h (pathAt h p) key = x) ∧ (r.writes = [.sp key b] → spreg h (pathAt h p) key = b))
          ∧ (holds p → ∀ n < 1024, n ≠ key ∨ r.writes ≠ [.s key x] → (∀ q < 2, holds q → (pathAt g q).depth ≠ 0) →
              sreg h (pathAt h p) n = sreg g (pathAt g p) n)
          ∧ (¬holds p → pathAt h p = pathAt g p)))
  ∧ ∀ (s : State) (g : Group) (r : Result) (wr : RegWrite), getGroup s s.args.n = some g → CanonicalFiles g →
    g.inflight[s.args.m]? = some r → r.left = 0 → r.depth = 0 → r.writes = [wr] →
    ∃ s' h, exec .resultLand s = .next s' ∧ s' = { s with groups := s'.groups } ∧ getGroup s' s.args.n = some h ∧ CanonicalFiles h
      ∧ h = { g with v := h.v, s := h.s, sp := h.sp, p := h.p, x := h.x, inflight := g.inflight.eraseIdx s.args.m }
      ∧ match wr with
        | .v d l x => vreg h d l = x ∧ (∀ k, k ≠ 16 * d + l → tget {} h.v k = tget {} g.v k)
            ∧ h.s = g.s ∧ h.sp = g.sp ∧ h.p = g.p ∧ h.x = g.x
        | .s d x => d < 0x8000 → tget {} h.s d = x ∧ (∀ k, k ≠ d → tget {} h.s k = tget {} g.s k)
            ∧ h.v = g.v ∧ h.sp = g.sp ∧ h.p = g.p ∧ h.x = g.x
        | .sp d x => tget {} h.sp d = x ∧ (∀ k, k ≠ d → tget {} h.sp k = tget {} g.sp k)
            ∧ h.v = g.v ∧ h.s = g.s ∧ h.p = g.p ∧ h.x = g.x
        | .p d l x => l < 16 → (tget ({} : PMask) h.p d).val.getLsbD l = x.val ∧ (tget ({} : PMask) h.p d).poison.getLsbD l = x.poison
            ∧ (∀ j, j ≠ l → (tget ({} : PMask) h.p d).val.getLsbD j = (tget ({} : PMask) g.p d).val.getLsbD j)
            ∧ (∀ k, k ≠ d → tget {} h.p k = tget {} g.p k) ∧ h.v = g.v ∧ h.s = g.s ∧ h.sp = g.sp ∧ h.x = g.x
        | .x d x => tget 0 h.x d = x ∧ (∀ k, k ≠ d → tget 0 h.x k = tget 0 g.x k)
            ∧ h.v = g.v ∧ h.s = g.s ∧ h.sp = g.sp ∧ h.p = g.p

/-! ## Memory events (R203, R204, R225, R231, R240-R244) -/

/-- R203, R206, R223, R231, R233, R240: MEMORY_RESULT_LAND of a load that nothing before it and no failed link holds back binds: each lane's register
takes the little-endian bytes at its address, or the bits of the byte that a sub-byte element takes, zero- or sign-extended, with poison clear; memory keeps
its bytes. It binds at the home, or, with bit 0 of v, for a load that allocates in a cluster with a bank in cache mode, from the cluster's copy of the line
where there is one. (Which of the two a load does is the move's operand: notes/assumptions/2.md.) -/
def Obligations.LoadBinding : Prop :=
  ∀ (s : State) (g : Group) (e : MemEntry) (width d : Nat) (signed : Bool), getGroup s s.args.n = some g → CanonicalFiles g →
    g.macc[s.args.m]? = some e → e.kind = .load width signed d → entryReady g s.args.m = true → entryReach s s.args.n e = true →
    (e.lanes.map (·.lane)).Nodup → (∀ a ∈ e.lanes, a.lane < 16 ∧ a.drop = 0) →
    (width ∈ [8, 16, 32, 64] ∧ e.size * 8 = width ∧ (∀ a ∈ e.lanes, a.mask = 0xFF))
      ∨ (width ∈ [1, 4] ∧ e.size = 1 ∧ signed = false ∧ ∀ a ∈ e.lanes, lowBit a.mask + width ≤ 8 ∧ a.mask = subMask width (lowBit a.mask)) →
    (∀ a ∈ e.lanes, a.pa % 1024 + e.size ≤ 1024) →
    let cl := clusterOf (coreOf s.args.n)
    let bytes (a : LaneAccess) : List Byte :=
      if e.pond then mread s.pond a.pa e.size
      else match if s.args.v.getLsbD 0 && e.cached && hasCache s cl then copyOf s cl (a.pa / 1024) else none with
        | some c => mread c.bytes a.pa e.size
        | none => mread s.mem a.pa e.size
    let x (a : LaneAccess) : Nat := if width < 8 then leNat (bytes a) / 2 ^ lowBit a.mask % 2 ^ width else leNat (bytes a)
    ∃ s' h, exec .memoryResultLand s = .next s' ∧ getGroup s' s.args.n = some h ∧ s'.mem = s.mem ∧ s'.pond = s.pond
      ∧ h = { dropEntry g s.args.m with v := h.v }
      ∧ (∀ a ∈ e.lanes,
          vreg h d a.lane = ⟨if signed then (if x a < 2 ^ (width - 1) then BitVec.ofNat 32 (x a) else BitVec.ofInt 32 ((x a : Int) - 2 ^ width))
            else BitVec.ofNat 32 (x a), false⟩
          ∧ (width = 64 → vreg h (d + 1) a.lane = ⟨BitVec.ofNat 32 (x a / 2 ^ 32), false⟩))
      ∧ ∀ r l, l < 16 → (r ≠ d ∧ (width = 64 → r ≠ d + 1)) ∨ (∀ a ∈ e.lanes, a.lane ≠ l) → vreg h r l = vreg g r l

/-- R204, R208, R212, R223, R228, R229: STORE_PERFORM of a write that nothing of its path stands before stores each lane's bytes at its address, of a
sub-byte element only the bits that it takes, and every byte and bit outside the lanes' ranges keeps its value; a fence changes no byte. An access whose
way a failed die link closes stays as it is (notes/assumptions/14.md, DESIGN CHOICE). -/
def Obligations.StorePerformance : Prop :=
  ∀ (s : State) (g : Group) (e : MemEntry), getGroup s s.args.n = some g → g.macc[s.args.m]? = some e → entryReady g s.args.m = true →
    Memory.wf s.mem = true → Memory.wf s.pond = true →
    (entryReach s s.args.n e = false → exec .storePerform s = .next s ∧ exec .memoryResultLand s = .next s)
    ∧ (entryReach s s.args.n e = true → e.kind = .write → (∀ a ∈ e.lanes, a.data.length = e.size) →
      ∃ s', exec .storePerform s = .next s' ∧ Memory.wf s'.mem = true ∧ Memory.wf s'.pond = true
        ∧ (e.pond = false → s'.pond = s.pond ∧ (∀ b, (∀ a ∈ e.lanes, Outside b a.pa e.size) → mget s'.mem b = mget s.mem b))
        ∧ (e.pond = true → s'.mem = s.mem ∧ (∀ b, (∀ a ∈ e.lanes, Outside b a.pa e.size) → mget s'.pond b = mget s.pond b))
        ∧ ((∀ a ∈ e.lanes, a.mask = 0xFF) → (e.lanes.Pairwise fun a b => a.pa + e.size ≤ b.pa ∨ b.pa + e.size ≤ a.pa) →
            ∀ a ∈ e.lanes, mread (if e.pond then s'.pond else s'.mem) a.pa e.size = a.data)
        ∧ (e.size = 1 → (e.lanes.Pairwise fun a b => a.pa ≠ b.pa ∨ a.mask &&& b.mask = 0) →
            (∀ a ∈ e.lanes, mget (if e.pond then s'.pond else s'.mem) a.pa &&& a.mask = a.data.headD 0 &&& a.mask)
            ∧ ∀ b i, i < 8 → (∀ a ∈ e.lanes, a.pa = b → a.mask.getLsbD i = false) →
              (mget (if e.pond then s'.pond else s'.mem) b).getLsbD i = (mget (if e.pond then s.pond else s.mem) b).getLsbD i))
    ∧ (entryReach s s.args.n e = true → e.kind = .fence ∨ e.kind = .drain → (∀ p < 2, (pathAt g p).st ≠ .join) →
      ∃ s' h, exec .storePerform s = .next s' ∧ getGroup s' s.args.n = some h ∧ h.macc = g.macc.eraseIdx s.args.m ∧ SameFiles g h
        ∧ s'.mem = s.mem ∧ s'.pond = s.pond)

/-- R225, R226, R353: STORE_PERFORM of an atomic takes its lanes in ascending order: each stores the operation's result at its address, of 4 or 8 bytes, and
gives the lane's register, or pair, the old value; every other byte and register keeps its value. A compare that fails stores what stood there; the float
operations round once to nearest. GPUBLISH's exchange stores its word where the old one's TYPE is 7 and answers 1 in p(d), and elsewhere stores nothing and
answers 0. -/
def Obligations.AtomicPerformance : Prop :=
  (∀ e ∈ ([(.add, 4, fun o x _ => (o + x) % 2 ^ 32), (.and, 4, fun o x _ => o &&& x), (.or, 4, fun o x _ => o ||| x),
      (.xor, 4, fun o x _ => o ^^^ x), (.exch, 4, fun _ x _ => x), (.cas, 4, fun o x y => if o = x then y else o),
      (.minU, 4, fun o x _ => min o x), (.maxU, 4, fun o x _ => max o x),
      (.minS, 4, fun o x _ => if (BitVec.ofNat 32 o).toInt ≤ (BitVec.ofNat 32 x).toInt then o else x),
      (.maxS, 4, fun o x _ => if (BitVec.ofNat 32 x).toInt ≤ (BitVec.ofNat 32 o).toInt then o else x),
      (.add, 8, fun o x _ => (o + x) % 2 ^ 64), (.exch, 8, fun _ x _ => x), (.cas, 8, fun o x y => if o = x then y else o),
      (.fadd, 4, fun o x _ => (fadd binary32 0 (decodeF binary32 o) (decodeF binary32 x)).1),
      (.fmin, 4, fun o x _ => (fminmax false binary32 (decodeF binary32 o) (decodeF binary32 x)).1),
      (.fmax, 4, fun o x _ => (fminmax true binary32 (decodeF binary32 o) (decodeF binary32 x)).1)]
      : List (AtomOp × Nat × (Nat → Nat → Nat → Nat))),
  ∀ (s : State) (g : Group) (m : MemEntry) (d : Nat), getGroup s s.args.n = some g → CanonicalFiles g →
    Memory.wf s.mem = true → g.macc[s.args.m]? = some m → entryReady g s.args.m = true → entryReach s s.args.n m = true →
    m.kind = .atomic e.1 d → m.size = e.2.1 → (m.lanes.map (·.lane)).Nodup →
    (∀ a ∈ m.lanes, a.lane < 16 ∧ a.drop = 0 ∧ a.data.length = (if e.1 = .cas then 2 * e.2.1 else e.2.1)) →
    let n := e.2.1
    let one (q : Memory × List (Nat × Nat)) (a : LaneAccess) : Memory × List (Nat × Nat) :=
      let old := leNat (mread q.1 a.pa n)
      (mwrite q.1 a.pa (natLe (e.2.2 old (leNat (a.data.take n)) (leNat (a.data.drop n))) n), q.2 ++ [(a.lane, old)])
    let all := m.lanes.foldl one (s.mem, [])
    ∃ s' h, exec .storePerform s = .next s' ∧ getGroup s' s.args.n = some h ∧ s'.mem = all.1 ∧ Memory.wf s'.mem = true ∧ s'.pond = s.pond
      ∧ (∀ b, (∀ a ∈ m.lanes, Outside b a.pa n) → mget s'.mem b = mget s.mem b)
      ∧ (∀ l old, (l, old) ∈ all.2 → vreg h d l = ⟨BitVec.ofNat 32 old, false⟩ ∧ (n = 8 → vreg h (d + 1) l = ⟨BitVec.ofNat 32 (old / 2 ^ 32), false⟩))
      ∧ (∀ r l, l < 16 → (r ≠ d ∧ (n = 8 → r ≠ d + 1)) ∨ (∀ a ∈ m.lanes, a.lane ≠ l) → vreg h r l = vreg g r l)
      ∧ h.s = g.s ∧ h.sp = g.sp ∧ h.p = g.p ∧ h.x = g.x ∧ h.macc = g.macc.eraseIdx s.args.m)
  ∧ ∀ (s : State) (g : Group) (m : MemEntry) (a : LaneAccess) (d : Nat), getGroup s s.args.n = some g → CanonicalFiles g →
    Memory.wf s.mem = true → g.macc[s.args.m]? = some m → entryReady g s.args.m = true → entryReach s s.args.n m = true →
    m.kind = .atomic .publish d → m.size = 8 → m.lanes = [a] → a.lane < 16 → a.drop = 0 → a.data.length = 8 →
    let under : Prop := leNat (mread s.mem a.pa 8) % 16 = 7
    ∃ s' h, exec .storePerform s = .next s' ∧ getGroup s' s.args.n = some h ∧ Memory.wf s'.mem = true
      ∧ (under → mread s'.mem a.pa 8 = a.data ∧ ∀ b, Outside b a.pa 8 → mget s'.mem b = mget s.mem b)
      ∧ (¬under → s'.mem = s.mem)
      ∧ ((tget ({} : PMask) h.p d).val.getLsbD a.lane = true ↔ under) ∧ (tget ({} : PMask) h.p d).poison.getLsbD a.lane = false
      ∧ (∀ j, j ≠ a.lane → (tget ({} : PMask) h.p d).val.getLsbD j = (tget ({} : PMask) g.p d).val.getLsbD j)
      ∧ h.v = g.v ∧ h.s = g.s ∧ h.sp = g.sp ∧ h.x = g.x ∧ h.macc = g.macc.eraseIdx s.args.m

/-! ## What the sequencers and the engines do between bundles -/

/-- R45, R72, R73, R144-R150, R160: DELAY_WINDOW_CLOSE of a window whose three bundles have committed and left no wait takes the branch, or leaves a branch not
taken where it is; a CALL's link takes the address of the bundle after the window; BRD's window forks the path into its two sides, the second pending where no
slot is free for it. JOIN of a side whose other side has arrived in the other slot, in a region of depth 1, merges the two: the path of all lanes goes on at side
1's pc, and each uniform takes side 1's value where side 1 wrote it, else side 0's where side 0 did; of side 0's results in flight those that side 1 has written
over are dropped. A free slot takes the pending side. SCALE_LATCH_EFFECT makes due writes of a latch take effect; WELLSPRING_FILL appends a block to a queue of at
most twelve words. -/
def Obligations.WindowsLatchesAndStreams : Prop :=
  (∀ (s : State) (g : Group), getGroup s s.args.n = some g →
    let pt := pathAt g s.args.m
    (∀ w, pt.window = some w → w.left = 0 → pt.waits = [] → w.link = none → w.fork = false →
      exec .delayWindowClose s = .next (putGroup s s.args.n (modPath g s.args.m fun pt =>
        { pt with window := none, pc := if w.taken then w.target else pt.pc })))
    ∧ (∀ w d, pt.window = some w → w.left = 0 → pt.waits = [] → w.link = some (d, 0) → w.fork = false →
      exec .delayWindowClose s = .next (putGroup s s.args.n (modPath
        (landWrites (modPath g s.args.m fun pt => { pt with window := none }) pt.mask pt.depth
          [.s d ⟨BitVec.ofNat 32 pt.pc, false⟩, .s (d + 1) ⟨BitVec.ofNat 32 (pt.pc / 2 ^ 32), false⟩])
        s.args.m fun pt => { pt with pc := if w.taken then w.target else pt.pc })))
    ∧ (∀ w r rest, s.args.m < 2 → pt.window = some w → w.left = 0 → pt.waits = [] → w.link = none → w.fork = true → g.stack = r :: rest →
      r.st0 = .opening → regionDepth r = pt.depth + 1 → r.mask0 ||| r.mask1 = pt.mask → pt.mask ≠ 0 →
      ∃ h, exec .delayWindowClose s = .next (putGroup s s.args.n h) ∧ SameFiles g h ∧ SameSpecials g h ∧ h.macc = g.macc ∧ h.inflight = g.inflight
        ∧ ((pathAt g (1 - s.args.m)).st = .empty →
            (h.p0.st = .live ∧ h.p0.depth = pt.depth + 1 ∧ h.p0.mask = r.mask0 ∧ h.p0.pc = pt.pc ∧ h.p0.shadow = pt.shadow ∧ h.p0.window = none)
            ∧ (h.p1.st = .live ∧ h.p1.depth = pt.depth + 1 ∧ h.p1.mask = r.mask1 ∧ h.p1.pc = r.pc1 ∧ h.p1.shadow = pt.shadow ∧ h.p1.window = none)
            ∧ ∃ r', h.stack.head? = some r' ∧ r'.st0 = .live ∧ r'.st1 = .live ∧ r'.token = r.token)
        ∧ ((pathAt g (1 - s.args.m)).st ≠ .empty →
            let k := pathAt h s.args.m
            (k.st = .live ∧ k.depth = pt.depth + 1 ∧ k.mask = r.mask0 ∧ k.pc = pt.pc ∧ k.shadow = pt.shadow ∧ k.window = none)
            ∧ pathAt h (1 - s.args.m) = pathAt g (1 - s.args.m)
            ∧ ∃ r', h.stack.head? = some r' ∧ r'.st0 = .live ∧ r'.st1 = .pending ∧ r'.pc1 = r.pc1 ∧ r'.sh1 = pt.shadow ∧ r'.token = r.token))
    ∧ (pt.window = none ∨ pt.waits ≠ [] → exec .delayWindowClose s = .next (putGroup s s.args.n g))
    ∧ (∀ k x rest, g.kpend = ⟨k, x, 0, false⟩ :: rest → (∀ q ∈ rest, q.aside = true ∨ q.left ≠ 0) →
        exec .scaleLatchEffect s = .next (putGroup s s.args.n { g with k := tput 0 g.k k x, kpend := rest }))
    ∧ (let x := streamOf g (s.args.m % 16)
      (x.queue.length ≤ 12 → exec .wellspringFill s = .next (putGroup s s.args.n (putStream g (s.args.m % 16)
        { x with queue := x.queue ++ streamBlock g.key x.s x.i x.next, next := x.next + 1 })))
      ∧ (x.queue.length > 12 → exec .wellspringFill s = .next (putGroup s s.args.n g))))
  ∧ (∀ (g : Group) (p : Nat) (r : Region) (rest : List Region), p < 2 → (pathAt g p).st = .empty → g.stack = r :: rest → r.st1 = .pending →
      let h := fillSlot g p
      (pathAt h p).st = .live ∧ (pathAt h p).mask = r.mask1 ∧ (pathAt h p).pc = r.pc1 ∧ (pathAt h p).shadow = r.sh1
      ∧ (pathAt h p).depth = regionDepth r ∧ pathAt h (1 - p) = pathAt g (1 - p) ∧ SameFiles g h)
  ∧ ∀ (g : Group) (p : Nat) (r : Region), p < 2 → CanonicalFiles g → g.stack = [r] → regionDepth r = 1 → r.mask0 ≠ 0 → r.mask1 ≠ 0 → r.mask0 &&& r.mask1 = 0 →
    let one : Bool := (pathAt g p).mask == r.mask1
    let side (i : Nat) : Path := pathAt g (if one = decide (i = 1) then p else 1 - p)
    (∀ i < 2, (side i).depth = 1 ∧ (side i).waits = [] ∧ (side i).mask = (if i = 1 then r.mask1 else r.mask0)
      ∧ ((side i).shadow.map (·.reg)).Nodup ∧ (∀ e ∈ (side i).shadow, e.level = 1 ∧ (e.reg < 1024 ∨ (0x8000 ≤ e.reg ∧ e.val.toNat ≤ 1)))) →
    (pathAt g p).st = .live → (pathAt g (1 - p)).st = .join → (if one then r.st0 else r.st1) = .arrived → (if one then r.st1 else r.st0) = .live →
    let h := joinPath g p
    let q := if one then p else 1 - p
    h.stack = [] ∧ (pathAt h (1 - q)).st = .empty
    ∧ ((pathAt h q).st = .live ∧ (pathAt h q).depth = 0 ∧ (pathAt h q).mask = r.mask0 ||| r.mask1 ∧ (pathAt h q).pc = (side 1).pc
      ∧ (pathAt h q).shadow = [])
    ∧ h.v = g.v ∧ h.p = g.p ∧ h.x = g.x ∧ h.macc = g.macc
    ∧ (∀ n < 1024, tget ({} : PWord) h.s n = match shadowOf (side 1).shadow n, shadowOf (side 0).shadow n with
        | some e, _ => ⟨e.val, e.poison⟩
        | none, some e => ⟨e.val, e.poison⟩
        | none, none => tget {} g.s n)
    ∧ (∀ n < 7, tget ({} : PBit) h.sp n = match shadowOf (side 1).shadow (0x8000 + n), shadowOf (side 0).shadow (0x8000 + n) with
        | some e, _ => ⟨e.val != 0, e.poison⟩
        | none, some e => ⟨e.val != 0, e.poison⟩
        | none, none => tget {} g.sp n)
    ∧ ∀ left n x, ⟨r.mask0, 1, left, [.s n x]⟩ ∈ g.inflight →
        ((shadowOf (side 1).shadow n).isSome = true → ⟨r.mask0, 0, left, []⟩ ∈ h.inflight)
        ∧ ((shadowOf (side 1).shadow n).isSome = false → ⟨r.mask0, 0, left, [.s n x]⟩ ∈ h.inflight)

/-- R11, R17, R133, R138, R142, R215, R233, R237, R358, R366, R383: the events that grant a claim, raise and lower congestion, hold issue, age cluster copies,
complete a bank fence, end a WAITEVT, fire the watchdog and retire a group. The model's choices in it: one move lets the ck up to a limit pass, as many as no
context's stop cuts short (notes/assumptions/43.md, DESIGN CHOICE; the agenda: notes/assumptions/2.md); the watchdog's trap comes at slot 0 of the path's next bundle
(notes/assumptions/44.md, DESIGN CHOICE); a WAITEVT reads its word at its known place (notes/assumptions/10.md), and not while a die link on the way has failed
(notes/assumptions/14.md, DESIGN CHOICE). -/
def Obligations.SequencerEvents : Prop :=
  ∀ s : State, let n := s.args.n
    (∀ o rest, (getSeq s (n % 1024)).claims = o :: rest → o.n ≤ freeBlocks s (n % 1024) →
      exec .claimGrant s = .next (modPathAt (putSeq s (n % 1024) { getSeq s (n % 1024) with claims := rest }) o.loc o.path fun pt =>
        { pt with granted := o.n, heldAt := none }))
    ∧ (∃ t, exec .congestionSet s = .next t ∧ t = { s with congested := t.congested } ∧ t.congested.getLsbD (n % 8) = true
        ∧ ∀ i, i ≠ n % 8 → t.congested.getLsbD i = s.congested.getLsbD i)
    ∧ (∃ t, exec .congestionClear s = .next t ∧ t = { s with congested := t.congested, seqs := t.seqs }
        ∧ t.congested.getLsbD (n % 8) = false ∧ ∀ i, i ≠ n % 8 → t.congested.getLsbD i = s.congested.getLsbD i)
    ∧ (∃ t, exec .issueHold s = .next t ∧ t = { s with cores := t.cores })
    ∧ (∃ t, exec .clusterCopyExpire s = .next t ∧ t = { s with copies := t.copies }
        ∧ ∀ c, c ∈ t.copies ↔ c ∈ s.copies ∧ ∀ i < 4, ∀ f, c.filled[i]? = some f →
            ((getCore s (4 * c.cluster + i)).ck + 2 ^ 64 - f) % 2 ^ 64 < 16384)
    ∧ (∀ g e a, getGroup s n = some g → (pathAt g s.args.m).waits = [.waitevt e] → (pathAt g s.args.m).st = .live → e.pa = some a →
        let reads : Prop := evtReady g (pathAt g s.args.m).mask a = true ∧ dieReach s (dieOf (coreOf n)) (accessDie a) = true ∧ evtHolds (evtCond e) (mem32 s.mem a) e.comparand = true
        (e.met = false → ¬reads → ∃ t, exec .waitevtWake s = .next t ∧ getGroup t n = some g
            ∧ t = { s with groups := t.groups, copies := t.copies })
        ∧ (e.met = true ∨ reads → ∃ t h, exec .waitevtWake s = .next t ∧ getGroup t n = some h
            ∧ t = { s with groups := t.groups, copies := t.copies } ∧ (pathAt h s.args.m).waits = [] ∧ ⟨(pathAt g s.args.m).mask, (pathAt g s.args.m).depth, 0, [.sp (evtDest e) ⟨true, false⟩]⟩ ∈ h.inflight)
        ∧ (e.limit ≠ 0 → ckRoom s (coreOf n) e.limit < e.limit → exec .waitevtLimit s = .next (advanceCk s (coreOf n) (ckRoom s (coreOf n) e.limit)))
        ∧ (e.limit ≠ 0 → e.met = false → e.limit ≤ ckRoom s (coreOf n) e.limit → ∃ t h, exec .waitevtLimit s = .next t ∧ getGroup t n = some h ∧ t = { advanceCk s (coreOf n) e.limit with groups := t.groups }
            ∧ (pathAt h s.args.m).waits = [] ∧ ⟨(pathAt g s.args.m).mask, (pathAt g s.args.m).depth, 0, [.sp (evtDest e) ⟨false, false⟩]⟩ ∈ h.inflight)
        ∧ (e.limit = 0 → exec .waitevtLimit s = .next s))
    ∧ (∀ g ph, getGroup s n = some g → (pathAt g s.args.m).waits = [.bar ph] → (pathAt g s.args.m).st = .live →
        let left := 2 ^ 32 - (pathAt g s.args.m).held
        left ≤ ckRoom s (coreOf n) left → ∃ t h, exec .watchdog s = .next t ∧ getGroup t n = some h ∧ (pathAt h s.args.m).waits = [] ∧ (pathAt h s.args.m).doomed = some 12)
    ∧ (∀ g, getGroup s n = some g → watched (pathAt g s.args.m) = false → exec .watchdog s = .next s)
    ∧ (∀ g ks, getGroup s n = some g → (pathAt g s.args.m).st = .live → (pathAt g s.args.m).waits = [.fence ks] → g.fences = [] → ks ≠ [] → (∀ k ∈ ks, bankBusy s k = false) →
        tblWf {} s.banks = true →
        ∃ t h, exec .bankModeFenceComplete s = .next t ∧ getGroup t n = some h ∧ (pathAt h s.args.m).waits = []
          ∧ ∀ k ∈ ks, ∀ m, (getBank s k).fencing = some m → (getBank t k).fencing = none ∧ (getBank t k).fifo = []
              ∧ (getBank t k).mode = m ∧ (getBank t k).pending = (getBank s k).pending)
    ∧ (∀ g k, getGroup s n = some g → mayRetire s g = true → tblWf none s.groups = true → getKernel s g.ctx g.launch = some k →
        k.st = .running → 2 ≤ k.live →
        ∃ t, exec .groupRetire s = .next t ∧ getGroup t n = none ∧ getKernel t g.ctx g.launch = some { k with live := k.live - 1 })
    ∧ (∀ g, getGroup s n = some g → mayRetire s g = false → exec .groupRetire s = .next s)

/-- R258, R261, R265, R269, R275, R277: the events of children: an engine starts an issued child than which none that may start
has a higher priority, and does nothing without one; a chunk of a copy waits for its beats; a copy with nothing left completes; a soft
error ends its child; a chunk that is being written runs to its end, then a stop pauses the child and a cancellation ends it. The model's choices in it: a
soft error comes as an operand of the child's event (notes/assumptions/20.md, DESIGN CHOICE), and a paused child gives up the answers that its chunk
had asked for (notes/assumptions/26.md, DEDUCED). -/
def Obligations.ChildEvents : Prop :=
  ∀ (s : State) (key : Nat) (h : Child), s.args.n = key → getChild s key = some h →
    (∀ e, s.args.data = .engine e → (nextStart s e = none → exec .childStart s = .next s)
      ∧ ∀ k c, nextStart s e = some (k, c) →
          let c' := { c with st := .running }
          exec .childStart s = .next (startChild (putChild s k c') k c') ∧ c.st = .issued
          ∧ ∀ j d, (j, some d) ∈ s.children → mayStart s e j d = true → d.prio ≤ c.prio)
    ∧ (h.cls = 1 → h.begun = true → mayMove h = true → copyOver h = false →
        ((copyDesc h.req.desc).circ ≠ 0 → h.beats < chunkBeats h →
          exec .copyChunkComplete s = .next s ∧ exec .circuitBeatArrive s = .next (putChild s key { h with beats := h.beats + 1 }))
        ∧ ((copyDesc h.req.desc).circ = 0 ∨ chunkBeats h ≤ h.beats →
            exec .copyChunkComplete s = .next (copyChunk s key h) ∧ exec .circuitBeatArrive s = .next s))
    ∧ (s.args.m = 0 → mayMove h = true →
        (h.begun = false → exec .childComplete s = .next (startChild s key h))
        ∧ (h.begun = true → h.cls = 1 → copyOver h = true → exec .childComplete s = .next (finishChild s key .complete 0 0 0))
        ∧ (h.begun = true → h.cls = 1 → copyOver h = false → exec .childComplete s = .next s)
        ∧ (h.begun = true → h.cls = 0 → exec .childComplete s = .next (mxMove s key h)))
    ∧ (s.args.m = 11 → mayMove h = true → h.begun = true → h.sent = false → h.cls ≤ 1 →
        exec .childComplete s = .next (finishChild (dropRemotes s key) key .faulted 11 0 0))
    ∧ (mayMove h = false → exec .childComplete s = .next s)
    ∧ (chunkGoes h = true → exec .childPause s = .next s)
    ∧ (h.cancel = none → h.stop = false → exec .childPause s = .next s)
    ∧ (h.cancel = none → h.stop = true → h.st = .waiting →
        exec .childPause s = .next (putChild s key { h with st := .paused 2, stop := false }))
    ∧ (h.cancel = none → h.stop = true → h.st = .issued →
        exec .childPause s = .next (putChild s key { h with st := .paused 1, stop := false }))
    ∧ (h.cancel = none → h.stop = true → h.st = .running → chunkGoes h = false →
        exec .childPause s = .next (putChild (histogram (dropRemotes s key) h false true) key
          { h with st := .paused 3, stop := false, asked := false, got := [], beats := 0 }))
    ∧ (∀ cause, h.cancel = some cause → chunkGoes h = false → exec .childPause s = .next (finishChild (dropRemotes s key) key .cancelled cause 0 0))

/-! ## Steps, decoding, reset -/

/-- R52, R53, R133, R447: a step of a state whose open bundle's words decode to an instruction is that instruction's `exec`, and words that
decode to none raise ILLEGAL_ENCODING; a step of an open scanline word is `exec` of the instruction at its position; a step with nothing open, once the
boot has begun, takes the agenda's first move: it is `exec` of that move with its operands, before which the held bundles of a core whose ck may pass are tried.
(The agenda and that trial are the model's choice of form: notes/assumptions/2.md, DESIGN CHOICE.) -/
def Obligations.StepRunsDecoded : Prop :=
  (∀ (s : State) (is : Issue) (i : Instr) (rest : List Word), s.cur = some is → decodeSlot is.words = .ok (i, rest) → step s = exec i s)
  ∧ (∀ (s : State) (is : Issue) (e : DecodeError), s.cur = some is → decodeSlot is.words = .error e →
      step s = .next (trapSlot s is is.idx ⟨1, 0, 0, 0⟩))
  ∧ (∀ (s : State) (w : SlIssue) (i : Instr), s.cur = none → s.slw = some w → slInstr w = some i → step s = exec i s)
  ∧ (∀ (s t : State) (m : Move) (rest : List Move), s.cur = none → s.slw = none → s.boot.mode ≠ 0 ∨ s.boot.coming ≠ none → s.agenda = m :: rest →
      exec m.op { settleHeld { s with agenda := rest } m with args := m.args } = .next t →
      step s = .next (if m.op = .bundleIssue then t else { t with epoch := t.epoch + 1 }))
  ∧ (∀ (s : State) (m : Move), m.op ≠ .bundleIssue → m.op ≠ .resultLand → m.op ≠ .waitevtLimit → m.op ≠ .watchdog → settleHeld s m = s)
  ∧ (∀ s t : State, s.cur = none → s.slw = none → s.boot.mode = 0 → s.boot.coming = none → exec .powerOnReset { s with args := {} } = .next t →
      step s = .next { t with epoch := t.epoch + 1 })
  ∧ ∀ s : State, s.cur = none → s.slw = none → s.boot.mode ≠ 0 ∨ s.boot.coming ≠ none → s.agenda = [] → nextAct s = none → step s = .next s

/-- R14, R53, R133-R136, R493: BUNDLE_ISSUE of a module that computes, with no bundle open and a turn left to the sequencer, opens at the pc of the
path that the picker chose the words that it fetched, if the path is neither to trap nor to be passed over; with a group ready and its turn gone, the sequencer's core
goes on to its next ck, if no context is to stop at the present one; with none ready nothing changes. The model's choices in it: that one move opens a bundle or lets a ck
pass (notes/assumptions/2.md, DESIGN CHOICE), when ck pass and how many a group to be woken needs (notes/assumptions/45.md, DESIGN CHOICE), and the soft error that may
come with the bundle (notes/assumptions/20.md, DESIGN CHOICE). -/
def Obligations.BundleOpening : Prop :=
  ∀ (s s' : State) (loc : Nat) (g : Group) (ws : List Word), s.boot.mode = 1 ∨ s.boot.mode = 3 → s.cur = none →
    let seq := s.args.n % 1024
    let room := ckRoom s (seq / 4) 2
    let gone : Prop := seq % 4 < (getCore s (seq / 4)).turn
    let ready : Prop := ∃ e ∈ seqGroups s seq, groupReady s e.1 e.2 = true
    let p := pickPath s loc g
    let pt := pathAt g p
    (¬ready → exec .bundleIssue s = .next s)
    ∧ (ready → gone → exec .bundleIssue s = .next (advanceCk s (seq / 4) (min room 1)))
    ∧ (ready → ¬gone → pickGroup s seq = some (loc, g) → getGroup s loc = some g → (2 ≤ room ∨ loc % 64 ∈ (getSeq s seq).active) →
      fetchWords s loc g.ctx pt.pc 8 = (s', .ok ws) → pt.rejected = none → pt.doomed = none → (g.skip && g.hndPath == p) = false →
      exec .bundleIssue s = .next { s' with cur := some { loc := loc, path := p, baddr := pt.pc, words := ws, idx := 0, len := ws.length, above := 0, effs := [], flags := 0, uses := [], mb := memoryBound ws, soft := softStrike s.args } })

/-- R52, R55, R58, R59, R62: words written out from the encoding tables decode to the slots that they stand for. -/
def Obligations.DecodedWords : Prop :=
  decodeSlot [0xD7240005] = .ok (.tracemark ⟨true, 7, 0, 0, 5, none, none⟩, [])
  ∧ decodeSlot [0xD730C000] = .ok (.enrd ⟨true, 7, 12, 0, 0, none, none⟩, [])
  ∧ decodeSlot [0xA7050008] = .ok (.gbox ⟨true, 7, 16, 0, 8, none, none⟩, [])
  ∧ decodeSlot [0xA7201084] = .ok (.gpublish ⟨true, 7, 1, 2, 4, none, none⟩, [])
  ∧ (∃ i w, decodeSlot [0xC700A43F] = .ok (i, []) ∧ i = .cpy w ∧ w.d = 10 ∧ w.a = 16 ∧ w.b = 63 ∧ w.stop = true)

/-- R52-R62, R80: for every well-formed slot, at every value of every field, and every H slot: its words, followed by any words that do not begin with an E slot of
its bundle, decode to it and leave those words. -/
def Obligations.EncodingRoundTrip : Prop :=
  (∀ (i : Instr) (f : Form) (cls : Nat) (w : Slot) (rest : List Word), slotOf i = some (f, cls, w) → i.wf = true →
    (w.stop = true ∨ ∀ x ∈ rest.head?, wordClass x ≠ 11) → decodeSlot (encode i ++ rest) = .ok (i, rest))
  ∧ ∀ (stop gw mb : Bool) (gap : BitVec 5) (rest : List Word),
    decodeSlot (encode (.hSlot stop gap gw mb) ++ rest) = .ok (.hSlot stop gap gw mb, rest)

/-- R85, R95, R496, R499: the module right after reset: no bundle, no kernel, no group, no child, every context free and every queue unbound, the boot not begun; no
byte of memory that differs from what an unwritten byte reads as. That such a byte reads 0 (notes/assumptions/1.md, DESIGN CHOICE), the values of the
registers that the spec gives no reset value (notes/assumptions/5.md, DESIGN CHOICE) and the empty agenda (notes/assumptions/2.md, DESIGN CHOICE) are the model's. -/
def Obligations.ResetState : Prop :=
  State.reset.cur = none ∧ State.reset.slw = none ∧ State.reset.kernels = [] ∧ State.reset.groups = [] ∧ State.reset.children = []
  ∧ State.reset.boot.mode = 0 ∧ State.reset.boot.coming = none ∧ State.reset.modid = 0 ∧ State.reset.links = [] ∧ State.reset.tlb = []
  ∧ State.reset.hostData = 0 ∧ State.reset.agenda = []
  ∧ Memory.wf State.reset.mem = true ∧ Memory.wf State.reset.pond = true ∧ Memory.wf State.reset.lineStore = true
  ∧ (∀ c, getCtx State.reset c = {} ∧ (getCtx State.reset c).st = .free) ∧ (∀ q, getQueue State.reset q = {} ∧ (getQueue State.reset q).st = .unbound)
  ∧ ∀ a n, readHome State.reset a n = List.replicate n 0

/-- R231, R232: the operations through which memory is written keep its canonical form, addresses rising and no byte equal to what an unlisted one reads as: writes at home
and over pages, a load that binds, a write, atomic or fence that performs, all of a group's accesses at a stop, a bank that is drained. (The form is the model's:
notes/assumptions/1.md, DESIGN CHOICE. Translations keep it too: TranslationFrame.) -/
def Obligations.CanonicalMemory : Prop :=
  ∀ s : State, Memory.wf s.mem = true → Memory.wf s.pond = true →
    (∀ a pa bs, Memory.wf (writeBy a s pa bs).mem = true)
    ∧ (∀ u c va bs, Memory.wf (writeVirt s u c va bs).1.mem = true)
    ∧ (∀ loc i b, Memory.wf (bindLoad s loc i b).mem = true ∧ Memory.wf (bindLoad s loc i b).pond = true)
    ∧ (∀ loc i, Memory.wf (performEntry s loc i).mem = true ∧ Memory.wf (performEntry s loc i).pond = true)
    ∧ (∀ loc n, Memory.wf (settleAtomics s loc n).mem = true ∧ Memory.wf (settleAtomics s loc n).pond = true)
    ∧ (∀ k, Memory.wf (drainBank s k).mem = true ∧ Memory.wf (drainBank s k).pond = true)

/-! ## Scanline cores (R444-R465) -/

/-- R447, R453-R455, R463: the forms of a scanline slot that compute from their own file write their result to d of that file, 2 words after
issue, or 4 in slot M. -/
def Obligations.ScanlineArithmetic : Prop :=
  ∀ q : SlTaken,
    let X := q.reg q.c.xf
    let Y := q.reg q.c.yf
    let D := q.reg q.c.d
    let F (r : Nat × BitVec 6) : Word := BitVec.ofNat 32 r.1
    let imm5 : Word := (BitVec.ofNat 5 q.c.yf).signExtend 32
    let imm10 : Word := (BitVec.ofNat 10 (32 * q.c.xf + q.c.yf)).signExtend 32
    let low := BitVec.ofNat 32 (D.toNat * 1024 + (32 * q.c.xf + q.c.yf))
    (∀ e ∈ ([(.slAdd, X + Y), (.slLAdd, X + Y), (.slSub, X - Y), (.slAnd, X &&& Y), (.slOr, X ||| Y), (.slXor, X ^^^ Y),
        (.slShl, shiftLeft X Y), (.slShr, shiftRight X Y), (.slSar, shiftArith X Y), (.slMin, if X.toInt ≤ Y.toInt then X else Y),
        (.slMax, if Y.toInt ≤ X.toInt then X else Y), (.slSlt, if X.toInt < Y.toInt then 1 else 0), (.slSeq, if X = Y then 1 else 0),
        (.slImul, X * Y), (.slAddi, X + imm5), (.slLAddi, X + imm5), (.slCAddi, X + imm5), (.slMovi, imm10), (.slMMovi, imm10),
        (.slLMovi, imm10), (.slCMovi, imm10), (.slMovl, low), (.slMMovl, low), (.slLMovl, low), (.slCMovl, low),
        (.slFadd, F (fadd binary32 0 (f32 X) (f32 Y))), (.slMFadd, F (fadd binary32 0 (f32 X) (f32 Y))),
        (.slFsub, F (fsub binary32 0 (f32 X) (f32 Y))), (.slMFsub, F (fsub binary32 0 (f32 X) (f32 Y))),
        (.slFmin, F (fminmax false binary32 (f32 X) (f32 Y))), (.slFmax, F (fminmax true binary32 (f32 X) (f32 Y))),
        (.slFslt, if fcmpCond 2 (f32 X) (f32 Y) then 1 else 0), (.slFmul, F (fmul binary32 0 (f32 X) (f32 Y))),
        (.slFfma, F (ffma binary32 0 (f32 X) (f32 Y) (f32 D))), (.slFdiv, F (fdiv binary32 0 (f32 X) (f32 Y))),
        (.slFrcp, F (frcp binary32 0 (f32 X))), (.slFsqrt, F (fsqrt binary32 0 (f32 X))), (.slF2i, slF2i (f32 X)), (.slI2f, slI2f X),
        (.slF2h, BitVec.ofNat 32 (encodeF binary16 (f32 X) + 65536 * encodeF binary16 (f32 Y))),
        (.slH2fl, BitVec.ofNat 32 (encodeF binary32 (decodeF binary16 (X.toNat % 65536)))),
        (.slH2fh, BitVec.ofNat 32 (encodeF binary32 (decodeF binary16 (X.toNat / 65536))))] : List (Instr × Word)),
      q.ready e.1 → q.yields e.1 q.s [q.own e.2])
    ∧ (∀ e ∈ ([(.slXferA, 0), (.slXferB, 1), (.slXferM, 2), (.slXferL, 3), (.slXferW, 4), (.slXferC, 5)] : List (Instr × Nat)), q.ready e.1 →
        q.yields e.1 q.s [⟨e.2, q.c.d, 2, q.w.pos, q.c.x.reg q.c.yf q.c.xf⟩])
    ∧ (q.ready .slPose →
        let p := if q.c.yf < 16 then q.c.slice.pose else q.c.frame.pose
        q.yields .slPose q.s [q.own (BitVec.ofNat 32 (dwAt p (q.c.yf % 16 / 2) / 2 ^ (32 * (q.c.yf % 2))))])
    ∧ (q.ready .slSys →
        let v : Nat := [q.c.h.sliceOf q.c.x.slice, q.c.h.hact, q.c.h.vact, q.c.x.head, q.c.h.frameOf q.c.x.slice, q.c.frame.ext1, q.c.frame.ext2,
          q.w.k, q.w.core].getD q.c.yf q.c.h.lead
        q.yields .slSys q.s [q.own (BitVec.ofNat 32 v)])

/-- R447, R449, R456-R465: loads and stores of the line store, pixels, samples, fetches, calls, branches, waits and the end of a program. A
word whose last slot is done goes on at its next word with its results in flight. That DONE drains what is left of the output FIFO
(notes/assumptions/34.md) and that LDW and STW do not wrap at the end of the window (notes/assumptions/35.md) are the model's readings. -/
def Obligations.ScanlineMemoryAndControl : Prop :=
  ∀ q : SlTaken,
    let core := q.w.core
    let k := q.w.k
    let a := (q.reg q.c.xf).toNat + 4 * q.c.yf
    let D := q.reg q.c.d
    let X := q.reg q.c.xf
    let key := lsKey core k a
    (slPresent q.w.word (q.w.pos + 1) = none → (getSl q.s core).stepping = false → ∀ l,
        slAdvance q.s { q.w with results := l } = modSlc { q.s with slw := none } core k fun x =>
          { x with pc := q.w.next, inflight := x.inflight ++ l })
    ∧ (∀ p l, slPresent q.w.word (q.w.pos + 1) = some p →
        slAdvance q.s { q.w with results := l } = { q.s with slw := some { q.w with pos := p, results := l } })
    ∧ (q.ready .slLdw → a % 4 = 0 → a < 0x20000 →
        q.yields .slLdw q.s [⟨3, q.c.d, 3, q.w.pos, BitVec.ofNat 32 (leNat (mread q.s.lineStore key 4))⟩])
    ∧ (q.ready .slStw → a % 4 = 0 → a < 0x20000 → Memory.wf q.s.lineStore = true →
        let m := writeN q.s.lineStore key 4 D.toNat
        q.yields .slStw { q.s with lineStore := m } [] ∧ leNat (mread m key 4) = D.toNat ∧ Memory.wf m = true
        ∧ ∀ b, Outside b key 4 → mget m b = mget q.s.lineStore b)
    ∧ (∀ i ∈ ([.slLdw, .slStw] : List Instr), q.ready i → a % 4 ≠ 0 ∨ a ≥ 0x20000 →
        exec i q.s = .next (slStepped (slFault { q.s with slw := none } core k q.w.addr) core))
    ∧ (q.ready .slOut → q.c.x.pushed < 16 * q.c.h.hact →
        q.yields .slOut (putSlc q.s core k { q.c.x with pushed := q.c.x.pushed + 1, fifo := q.c.x.fifo ++ [⟨BitVec.ofNat 16 D.toNat, BitVec.ofNat 16 (D.toNat / 65536), BitVec.ofNat 16 X.toNat, BitVec.ofNat 16 (X.toNat / 65536)⟩] }) [])
    ∧ (q.ready .slOut → q.c.x.pushed ≥ 16 * q.c.h.hact →
        exec .slOut q.s = .next (slStepped (slFault { q.s with slw := none } core k q.w.addr) core))
    ∧ (∀ e ∈ ([(.slSampBl, true), (.slSampPt, false)] : List (Instr × Bool)), q.ready e.1 →
        let src := q.c.yf % 4
        let res (px : List Nat) : List SlResult := ((slPack px src).zipIdx).map fun v => ⟨4, q.c.d + v.2, 12, q.w.pos, v.1⟩
        let held (s : State) : State := modSl s core fun c => { c with sampHeld := true }
        (∀ s', slTensor q.c src = (s', .black) → q.yields e.1 (held s') (res blackTexel))
        ∧ ∀ s' s'' t l, slTensor q.c src = (s', .use t) →
          let x := slCoord e.2 (f32 (q.c.x.reg 4 q.c.xf))
          let y := slCoord e.2 (f32 (q.c.x.reg 4 (q.c.xf + 1)))
          let e1 := t.ext.getD 1 0
          let e2 := t.ext.getD 2 0
          slTexels q.c s' src t (if e.2 then tapsOf x y e1 e2 else [(clampTo x.1 e1, clampTo y.1 e2)]) = (s'', .ok l) →
          q.yields e.1 (held s'') (res (if e.2 then blend (if src = 1 then binary32 else binary16) (tapWeights x.2 y.2) l (slSource q.c src).2.2
            else l.getD 0 [])))
    ∧ (q.ready .slFetch →
        let lo := X.toNat
        let hi := (q.c.x.reg 5 (q.c.xf + 1)).toNat
        let n := hi / 65536
        D.toNat % 4 = 0 → 0 < n → n ≤ 4096 → ¬(0xFFF0 ≤ lo % 65536 ∧ lo % 65536 ≤ 0xFFF3) → ∀ s' d s'' b,
          tarnTensor q.s q.c.ctx (lo % 65536) = (s', .ok d) → tensorBad d = false → (tensorOf d).rank = 3 → 8 ≤ elemWidth (tensorOf d).fmt →
          D.toNat + n * ((tensorOf d).ext.getD 0 0 * (elemWidth (tensorOf d).fmt / 8)) ≤ 0x20000 →
          slColumns q.c s' none (tensorOf d) (hi % 65536) (lo / 65536) n = (s'', .ok b) →
          q.yields .slFetch (modSlc s'' core k fun x => { x with fetches := x.fetches ++ [⟨D.toNat, b⟩] }) [])
    ∧ (q.ready .slOxcall → ∀ j, freeEntry q.c.x = some j → (X.toNat + 2 ^ 32 * (q.c.x.reg 5 (q.c.xf + 1)).toNat) % 128 = 0 →
        let old := tget ({} : TarnCall) q.c.x.calls j
        let t := if old.st = 0 then old else freeCall old
        q.yields .slOxcall { putSlc q.s core k { q.c.x with calls := tput {} q.c.x.calls j { t with st := 1, addr := X.toNat + 2 ^ 32 * (q.c.x.reg 5 (q.c.xf + 1)).toNat, order := q.s.childOrder, word := q.w.addr, pos := q.w.pos } } with childOrder := q.s.childOrder + 1 }
          [⟨5, q.c.d, 2, q.w.pos, BitVec.ofNat 32 (core * 2 ^ 26 + k * 2 ^ 24 + j * 2 ^ 20 + t.gen)⟩])
    ∧ (let off15 : Int := (BitVec.ofNat 15 (1024 * q.c.d + 32 * q.c.xf + q.c.yf)).toInt
       let off10 : Int := (BitVec.ofNat 10 (32 * q.c.xf + q.c.yf)).toInt
       let go (off : Int) : State := slAdvance q.s { q.w with next := ((q.w.addr + 16 * off) % 2 ^ 64).toNat }
       (q.ready .slBr → exec .slBr q.s = .next (go off15))
       ∧ (q.ready .slBrnz → exec .slBrnz q.s = .next (if D ≠ 0 then go off10 else slAdvance q.s q.w))
       ∧ (q.ready .slBrz → exec .slBrz q.s = .next (if D = 0 then go off10 else slAdvance q.s q.w)))
    ∧ (∀ e ∈ ([(.slWait, 0), (.slWaitMb, 1), (.slWaitFr, 2), (.slWaitFifo, 3)] : List (Instr × Nat)), q.ready e.1 →
        let x := slFence { q.c.x with pc := q.w.next, inflight := q.c.x.inflight ++ q.w.results }
        (slWaitTrue x e.2 = true → exec e.1 q.s = .next (slStepped (putSlc { q.s with slw := none } core k (slWaitDone x e.2 q.c.d)) core))
        ∧ (slWaitTrue x e.2 = false → exec e.1 q.s = .next (slStepped (slSwitch (putSlc { q.s with slw := none } core k
            { x with st := .waiting, waitMode := e.2, waitReg := q.c.d }) core) core)))
    ∧ (q.ready .slDone → q.c.x.pushed = 16 * q.c.h.hact →
        exec .slDone q.s = .next (slStepped (slEnd (modSlice { q.s with slw := none } q.c.x.head q.c.x.slice fun p =>
          { p with pixels := p.pixels ++ q.c.x.fifo, st := .complete }) core k) core))
    ∧ (q.ready .slDone → q.c.x.pushed ≠ 16 * q.c.h.hact →
        exec .slDone q.s = .next (slStepped (slFault { q.s with slw := none } core k q.w.addr) core))

/-! ## Contexts, queues and kernels as the host complex and the queue engine see them (R82-R130, R373-R378, R442, R485-R493) -/

/-- R83-R92, R373-R378, R393, R492, R493: the commands and events of a context in the states that admit them, and the ERR codes of those that
do not. CREATE of a good descriptor gives the slot the lowest free ASN; PREEMPT of a resident context whose save fits begins its stop;
RESUME without an image makes it runnable; DESTROY begins a stop, or takes effect, and its heads are idle at once; page commands check
BUSY, the state and the range. That a PREEMPT of a context with nothing resident counts as a save (notes/assumptions/28.md), which
registers stay across a slot's lives, what becomes of a context whose save does not fit (32), and when a stop reaches each core (20) are
the model's choices. -/
def Obligations.ContextCommands : Prop :=
  ∀ s : State,
    let c := s.args.n % 4096
    let x := getCtx s c
    let range : Nat × Nat := (x.pgva.toNat / 65536 % 2 ^ 41 * 65536, x.pgcnt.toNat)
    let small : Prop := 0 < range.2 ∧ range.1 + range.2 * 65536 ≤ 2 ^ 57
    (∀ i ∈ ([.ctxCreate, .ctxPreempt, .ctxResume, .ctxDestroy] : List Instr), x.busy = true → exec i s = .next (putCtx s c { x with err := 1 }))
    ∧ (x.busy = false →
        (x.st = .free → s.boot.mode = 1 ∨ s.boot.mode = 3 → ∀ a,
          let base := s.args.v.toNat / 128 % 2 ^ 45 * 128
          let d := bytesDw (readHome s base 128)
          let y := ctxOf d
          inGddr base 128 = true → ctxDescBad d = false → ctxPlaced y = true → 4096 + y.maxres * 0x18000 ≤ y.sasize * 4096 → a < 65536 →
          (∀ e ∈ s.ctxs, e.2.st ≠ .free → e.2.asn ≠ a) → (∀ b < a, ∃ e ∈ s.ctxs, e.2.st ≠ .free ∧ e.2.asn = b) →
          exec .ctxCreate s = .next (putCtx s c { keepRegisters y x with st := .created, asn := a, err := 0, resolves := 0, reports := 0 }))
        ∧ (x.st ≠ .free → exec .ctxCreate s = .next (putCtx s c { x with err := 2 }))
        ∧ (x.st = .created ∨ x.st = .runnable → exec .ctxPreempt s = .next (suspendQueues (putCtx s c { x with st := .saved, err := 0, ecSaved := x.ec }) c))
        ∧ (x.st = .resident → saveSize s c ≤ x.sasize * 4096 → ∃ t, exec .ctxPreempt s = .next t ∧ (getCtx t c).st = .preempting ∧ t.mem = s.mem)
        ∧ (x.st = .resident → saveSize s c > x.sasize * 4096 → exec .ctxPreempt s = .next (putCtx s c { x with err := 4 }))
        ∧ (x.st = .saved ∨ x.st = .faulted → x.unsaved = false → x.imaged = false →
            exec .ctxResume s = .next (resumeQueues (putCtx s c { x with st := .runnable, err := 0 }) c))
        ∧ (x.st = .saved ∨ x.st = .faulted → x.unsaved = false → x.imaged = true →
            exec .ctxResume s = .next (beginRestore (putCtx s c { x with err := 0 }) c))
        ∧ (x.st = .resident → (∀ e ∈ s.heads, headCtx e.2 = c → headHolds e.2 = false) →
            ∃ t, exec .ctxDestroy s = .next t ∧ (getCtx t c).st = .preempting ∧ (getCtx t c).stopFor = 4 ∧ t.mem = s.mem)
        ∧ (∀ hd h, x.st = .resident → s.heads = [(hd, h)] → headCtx h = c → headHolds h = true → s.slcores = [] →
            ∃ t, exec .ctxDestroy s = .next t ∧ (getHead t hd).st = .idle ∧ (getHead t hd).sentSlice = [])
        ∧ (x.st = .created ∨ x.st = .runnable ∨ x.st = .saved ∨ x.st = .faulted → exec .ctxDestroy s = .next (finishDestroy s c))
        ∧ (x.st = .free ∨ x.st = .destroyed → exec .ctxDestroy s = .next (putCtx s c { x with err := 2 })))
    ∧ (x.st = .created ∨ x.st = .saved ∨ x.st = .faulted →
        exec .energyWrite s = .next (putCtx s c { x with ec := s.args.v.toNat % 2 ^ 48, ecSaved := s.args.v.toNat % 2 ^ 48, ecrem := 0 }))
    ∧ (x.st = .runnable ∨ x.st = .resident → exec .energyWrite s = .next (putCtx s c { x with err := 2 }))
    ∧ (exec .fqlostRead s = .next { putCtx s c { x with fqlost := 0 } with hostData := x.fqlost.setWidth 64 })
    ∧ (exec .dbgstatRead s = .next { putCtx s c { x with dbghit := false } with hostData := if x.dbghit then 1 else 0 })
    ∧ (x.st = .preempting → allPaused s c = true →
        (x.stopFor = 4 → exec .contextSaveComplete s = .next (finishDestroy (postTrapRecords (settleCtx s c) c false) c))
        ∧ (x.stopFor = 2 → x.faulting = false → saveSize s c > x.sasize * 4096 → exec .contextSaveComplete s = .next (unstop s c))
        ∧ (x.stopFor ≠ 4 → (x.stopFor = 2 → x.faulting = false → saveSize s c ≤ x.sasize * 4096) →
            let s1 := settleCtx s c
            let s2 := postTrapRecords s1 c (saveFits s1 c)
            let ended (y : Context) : Context := { y with st := if y.faulting then .faulted else .saved, faulting := false, busy := false, stopFor := 0, err := if y.busy then 0 else y.err }
            (saveFits s2 c = true → exec .contextSaveComplete s = .next (modCtx (evictCtx (writeSave s2 c) c) c ended))
            ∧ (saveFits s2 c = false → exec .contextSaveComplete s = .next (modCtx s2 c fun y => { ended y with unsaved := true, err := 4 }))))
    ∧ (x.st = .destroyed → sweepDone s c = true → exec .asnSweepComplete s = .next (putCtx { s with invals := s.invals.filter fun i => i.ctx != c } c
        { keepRegisters {} x with fqhead := x.fqhead, fqtail := x.fqtail, fqlost := x.fqlost, mblimit := x.mblimit, ec := x.ec }))
    ∧ (dbgDue s c = true → saveSize s c ≤ x.sasize * 4096 → ∃ t, exec .debugCycleStop s = .next t ∧ (getCtx t c).st = .preempting
        ∧ (getCtx t c).dbghit = true ∧ (getCtx t c).dbgctl.getLsbD 1 = false ∧ t.mem = s.mem)
    ∧ (∀ i ∈ ([.pgInvalidate, .pgInvalidateAll, .pgResolve, .pgReject] : List Instr),
        (x.pgbusy = true → exec i s = .next (putCtx s c { x with pgerr := 1 }))
        ∧ (x.pgbusy = false → x.st = .free ∨ x.st = .destroyed → exec i s = .next (putCtx s c { x with pgerr := 2 }))
        ∧ (x.pgbusy = false → x.st ≠ .free → x.st ≠ .destroyed → i ≠ .pgInvalidateAll → ¬small → exec i s = .next (putCtx s c { x with pgerr := 4 })))
    ∧ (x.pgbusy = false → x.st ≠ .free → x.st ≠ .destroyed →
        (∃ t, exec .pgInvalidateAll s = .next t ∧ t.invals = s.invals ++ [⟨c, x.asn, none, allUnits, [], false⟩] ∧ (getCtx t c).pgbusy = true
          ∧ t = { s with ctxs := t.ctxs, invals := t.invals })
        ∧ (small →
          (∃ t, exec .pgInvalidate s = .next t ∧ t.invals = s.invals ++ [⟨c, x.asn, some range, allUnits, [], false⟩] ∧ (getCtx t c).pgbusy = true
            ∧ t = { s with ctxs := t.ctxs, invals := t.invals })
          ∧ (∃ t, exec .pgResolve s = .next t ∧ t.mem = s.mem
            ∧ (∀ e ∈ t.children, ∀ h, e.2 = some h → h.ctx = c → ∀ va n, h.parkedAt = some (va, n) → ¬(range.1 ≤ va ∧ va < range.1 + range.2 * 65536))
            ∧ ∀ o ∈ t.owed, owedIn c range o = false)
          ∧ (∃ t, exec .pgReject s = .next t)
          ∧ ((∀ e ∈ ctxChildren s c, e.2.parkedAt = none) → (∀ e ∈ s.queues, queuePark e.2 c range = none) → (∀ o ∈ s.owed, owedIn c range o = false) →
            exec .pgReject s = .next ((ctxGroups s c).foldl (fun s e => putGroup s e.1 { e.2 with p0 := rejectPath range e.2.p0, p1 := rejectPath range e.2.p1 })
              (putCtx s c { x with pgerr := 0 })))))
    ∧ (∀ u i, s.args.data = .tunit u → (s.invals.find? fun i => i.ctx == c && i.units.contains u) = some i →
        (quiescent s c u = true → ∃ t, exec .unitQuiesceInvalidate s = .next t ∧ t.tlb = s.tlb.filter (fun e => !entryGoes i u e) ∧ t.mem = s.mem
          ∧ ∀ loc g, getGroup s loc = some g → ∃ h, getGroup t loc = some h ∧ SameFiles g h ∧ SameSpecials g h ∧ h.macc = g.macc)
        ∧ (quiescent s c u = false → exec .unitQuiesceInvalidate s = .next s)
        ∧ ∃ t, exec .invalidationLimit s = .next t ∧ t = { s with invals := t.invals } ∧ t.invals.length = s.invals.length
          ∧ ∀ j ∈ t.invals, j.ctx = c → j.units.contains u = true → j.blockedUnits.contains u = true)

/-- R95-R99, R102, R130: a queue's commands in the states that admit them, the doorbell, QFAULT, and CANCEL of a kernel that lives. A
command that fails changes nothing but ERR. (A bound queue's LOG is at least 4, so the clauses of UNBIND ask that it is not 0.) The order of BIND's
checks (notes/assumptions/18.md) and that BIND and RESET forget the batches sent to the queue (31) are the model's choices. -/
def Obligations.QueueCommands : Prop :=
  ∀ s : State,
    let q := s.args.n % 65536
    let s1 := modQueue s q fun x => { x with qctl := s.args.v &&& 0xFFF87000 }
    let z := getQueue s1 q
    let old := getQueue s q
    let tail := s.args.v.setWidth 32
    let base := z.qbase.toNat / 4096 % 2 ^ 40 * 4096
    let log := z.qbase.toNat % 32
    let c := z.qctl.toNat / 2 ^ 20 % 4096
    let prio := z.qctl.toNat / 4096 % 8
    let failed (i : Instr) (n : Nat) : Prop := exec i s = .next (putQueue s q { old with err := n })
    (z.st = .unbound ∨ z.st = .drained →
      ((getCtx s1 c).st ≠ .free → (getCtx s1 c).st ≠ .destroyed → prio ≤ (getCtx s1 c).priomax → 4 ≤ log → log ≤ 20 → exec .queueBind s =
        .next (putQueue (dropBatches s1 z.ctx q fun _ => true) q { noWork z with st := .idle, err := 0, head := 0, tail := 0, base := base, log := log, ctx := c, dev := z.qctl.getLsbD 19, prio := prio, ind := none, birthing := none, capture := none, faultAtHead := false }))
      ∧ ((getCtx s1 c).st = .free ∨ (getCtx s1 c).st = .destroyed → failed .queueBind 3)
      ∧ ((getCtx s1 c).st ≠ .free → (getCtx s1 c).st ≠ .destroyed →
        (prio > (getCtx s1 c).priomax → 4 ≤ log → log ≤ 20 → failed .queueBind 2)
        ∧ (prio ≤ (getCtx s1 c).priomax → log < 4 ∨ log > 20 → failed .queueBind 4)))
    ∧ (z.st = .idle ∨ z.st = .runnable ∨ z.st = .blocked →
        (z.log ≠ 0 → exec .queueUnbind s = .next (putQueue s1 q { noWork z with st := if z.out = 0 then .unbound else .drained, err := 0 }))
        ∧ (exec .queueSuspend s = .next (putQueue s1 q { z with st := .suspended, left := z.st, bySoftware := true, err := 0 }))
        ∧ (∀ i ∈ ([.queueBind, .queueResume, .queueReset] : List Instr), failed i 1))
    ∧ (z.st = .suspended → z.left ≠ .unbound → ctxServed s1 z.ctx = true →
        exec .queueResume s = .next (noteRunnable (putQueue s1 q { z with st := z.left, bySoftware := false, err := 0 }) q))
    ∧ (z.st = .faulted → z.birthing = none → z.faultAtHead = true →
        exec .queueReset s = .next (noteRunnable (putQueue (dropBatches s1 z.ctx q fun i => i == z.head.toNat) q { z with head := z.head + 1, ind := none, st := if z.head + 1 = z.tail then .idle else .runnable, err := 0, faultAtHead := false }) q))
    ∧ (old.dev = false → old.st ≠ .unbound → old.st ≠ .drained → tail ≠ old.tail →
        ((tail - old.tail).toNat ≤ 2 ^ old.log → (tail - old.head).toNat ≤ 2 ^ old.log →
          exec .qdoorWrite s = .next (advanceTail s q (tail - old.tail).toNat))
        ∧ ((tail - old.tail).toNat > 2 ^ old.log ∨ (tail - old.head).toNat > 2 ^ old.log →
          exec .qdoorWrite s = .next (queueFault s q 4 tail.toNat 0 0)))
    ∧ (old.dev = true ∨ old.st = .unbound ∨ old.st = .drained → exec .qdoorWrite s = .next s)
    ∧ (exec .qfaultRead s = .next { putQueue s q { old with faultIdx := 0, faultCode := 0 } with
        hostData := BitVec.ofNat 64 (old.faultIdx.toNat * 2 ^ 32 + old.faultCode) })
    ∧ (let k := s.args.n % 4096
       let x := getCtx s k
       (x.kbusy = true → exec .kernelCancel s = .next (putCtx s k { x with kerr := 2 }))
       ∧ (x.kbusy = false → getKernel s k tail = none → exec .kernelCancel s = .next (putCtx s k { x with kerr := 1 }))
       ∧ (∀ kn, x.kbusy = false → getKernel s k tail = some kn → kn.st = .admitted ∨ kn.st = .dispatching ∨ kn.st = .running ∨ kn.st = .draining → (getQueue s kn.queue).birthing ≠ some tail →
          exec .kernelCancel s = .next (residentCheck (kernelCheck (discardKernel
            (modKernel (putCtx s k { x with kerr := 0, kbusy := true, kcancel := tail }) k tail fun y => { y with st := .cancelling, reserved := [], live := residentOf s k tail })
            k tail 9) k tail) k)))

/-- R99-R111, R117-R128, R335, R442, R486, R487: each packet in dispatch. A wrong VER and a reserved bit fault the queue; ORD, and the packets that
always wait, block it while earlier packets are out; else the packet has its effect and HEAD moves on. A launch is checked and waits
to be admitted; KERNEL_ADMIT and SET_BIRTH give a kernel its number and its groups their places. A successor that its queue has no room
for is appended in parts. That an address with a bit above bit 56 is FORMAT (notes/assumptions/9.md), how a WAITMEM comes by its address
again (10), which of two co-resident launches of equal PRIO waits (13), what becomes of a batch (31), and that CAPSTART zeroes the
histogram (37) are the model's readings. -/
def Obligations.PacketsAndKernels : Prop :=
  ∀ s : State,
    let q := s.args.n
    let x := getQueue s q
    let turn : Prop := (x.st = .runnable ∨ x.st = .blocked ∨ (x.st = .dispatching ∧ x.birthing = none)) ∧ ctxServed s x.ctx = true
    let unordered (k : Packet) (always : Bool) : Prop := always = true ∨ k.hdr.getLsbD 16 = true → x.out = 0
    (∀ k, s.args.data = .packet k → turn →
      let s0 := putQueue s q { x with st := .dispatching, on := none, pkt := some k }
      let after := acquireBy .queue 5 s0
      let start := if k.hdr.getLsbD 16 then after else s0
      (∀ i ∈ ([.nop, .launch, .blocklaunch, .waitmem, .signal, .depend, .indirect, .present, .capstart, .capstop, .rqconfConfigure, .rqconfFlush,
          .rqconfTearDown] : List Instr), k.hdr.toNat / 256 % 256 ≠ 1 → exec i s = .next (packetFault s0 q 2 (packetAddr x) k.tag))
      ∧ (k.hdr.toNat / 256 % 256 = 1 →
        (∀ e ∈ ([(.nop, []), (.waitmem, [(1, vaBits), (2, anyBits), (3, anyBits), (4, 7)]), (.signal, [(1, vaBits), (2, anyBits), (3, 0x103)]),
            (.present, [(1, vaBits), (2, 0xFFFF)]), (.capstart, [(1, vaBits)]), (.capstop, [(1, vaBits)]), (.rqconfFlush, [(1, 0x303FF)])]
            : List (Instr × List (Nat × Nat))), reservedBad k e.2 = true → exec e.1 s = .next (packetFault s0 q 3 (packetAddr x) k.tag))
        ∧ (reservedBad k [] = false →
            (unordered k false → exec .nop s = .next (packetStarted start q false))
            ∧ (¬unordered k false → exec .nop s = .next (blockQueue s0 q .order)))
        ∧ (∀ s1 pa, reservedBad k [(1, vaBits), (2, anyBits), (3, anyBits), (4, 7)] = false → k.dw 1 % 8 = 0 → k.dw 1 + 8 ≤ 2 ^ 57 → k.dw 4 < 4 → unordered k false →
            (translateNow start queueUnit x.ctx (k.dw 1) { r := true } = (s1, .ok pa) → exec .waitmem s = .next (
              if memCond (k.dw 4) (readN s1.mem pa 8 &&& k.dw 3) (k.dw 2) then packetStarted (acquireBy .queue 5 s1) q false
              else blockQueue s1 q (.waitmem (some pa) (k.dw 1) (k.dw 4) (k.dw 2) (k.dw 3) false)))
            ∧ (∀ l, translateNow start queueUnit x.ctx (k.dw 1) { r := true } = (s1, .fault 1 l) → exec .waitmem s = .next (blockOnPage s1 q (k.dw 1) l 1)))
        ∧ (∀ s1 pa, reservedBad k [(1, vaBits), (2, anyBits), (3, 0x103)] = false → k.dw 1 % (if k.dw 3 % 4 = 2 then 32 else 8) = 0 → k.dw 1 + 8 ≤ 2 ^ 57 → k.dw 3 % 4 < 3 → x.out = 0 →
            translateNow after queueUnit x.ctx (k.dw 1) (if k.dw 3 % 4 = 0 then { w := true } else { r := true, w := true }) = (s1, .ok pa) →
            (k.dw 3 = 0 → exec .signal s = .next (packetStarted (writeHome s1 pa (natLe (k.dw 2) 8)) q false))
            ∧ (k.dw 3 = 1 → exec .signal s = .next (packetStarted (writeHome s1 pa (natLe ((readN s1.mem pa 8 + k.dw 2) % 2 ^ 64) 8)) q false))
            ∧ (k.dw 3 = 2 → exec .signal s = .next (packetStarted (decrementAt s1 (getQueue s1 q).ctx (k.dw 1) pa q (getQueue s1 q).head (BitVec.ofNat 32 k.tag)) q false))
            ∧ (k.dw 3 ≥ 256 → ∃ t, exec .signal s = .next t ∧ t.boot.irqs = s1.boot.irqs + 1))
        ∧ (∀ s1 pa, reservedBad k [(1, vaBits), (2, 2 ^ 63 - 1), (3, vaBits), (4, 0x0FFFFFFF)] = false → k.dw 1 % 32 = 0 → k.dw 1 + 32 ≤ 2 ^ 57 → k.dw 2 ≠ 0 →
            k.dw 3 % 64 = 0 → k.dw 4 / 65536 % 4096 ≠ 0 → unordered k false →
            (deviceQueue start x.ctx (k.dw 4 % 65536) = true → translateNow start queueUnit x.ctx (k.dw 1) { w := true } = (s1, .ok pa) →
              exec .depend s = .next (packetStarted (writeHome s1 pa (packFields [(8, k.dw 2), (8, k.dw 3), (8, k.dw 4), (8, 0)])) q false))
            ∧ (deviceQueue start x.ctx (k.dw 4 % 65536) = false → exec .depend s = .next (packetFault start q 6 (k.dw 1) k.tag)))
        ∧ (reservedBad k [(1, vaBits), (2, 0xFFFFFFFF)] = false → k.dw 1 % 64 = 0 → 0 < k.dw 2 → k.dw 2 ≤ 65536 → unordered k false → x.ind = none →
            exec .indirect s = .next (modQueue start q fun y => { noWork y with ind := some (k.dw 1, k.dw 2), st := .runnable }))
        ∧ (reservedBad k [(1, vaBits), (2, 0xFFFF)] = false → k.dw 1 % 128 = 0 → k.dw 2 ≠ 0 → x.out = 0 →
            ((∀ h ∈ headsOf (k.dw 2), headOwned (getHead s h) x.ctx = true) →
              exec .present s = .next (packetStarted (publishTo after x.ctx (k.dw 1) (headsOf (k.dw 2))) q false))
            ∧ ((∃ h ∈ headsOf (k.dw 2), headOwned (getHead s h) x.ctx = false) → exec .present s = .next (packetFault after q 6 (packetAddr x) k.tag)))
        ∧ (∀ s1 b, reservedBad k [(1, vaBits)] = false → k.dw 1 % 64 = 0 → unordered k false → x.capture = none → k.dw 1 + 64 ≤ 2 ^ 57 →
            readVirt start queueUnit x.ctx (k.dw 1) 64 = (s1, .ok b) → capDescBad (bytesDw b) = false →
            ∃ t, exec .capstart s = .next t ∧ (getQueue t q).capture = some (k.dw 1) ∧ captureFrom x.ctx (k.dw 1) (bytesDw b) ∈ t.captures)
        ∧ (∀ s1 pa, reservedBad k [(1, vaBits)] = false → k.dw 1 % 64 = 0 → x.out = 0 → x.capture = some (k.dw 1) → k.dw 1 + 64 ≤ 2 ^ 57 →
            capturedLive after x.ctx (k.dw 1) q = false → translateNow after queueUnit x.ctx (k.dw 1) { w := true } = (s1, .ok pa) →
            ∃ t, exec .capstop s = .next t ∧ (getQueue t q).capture = none)
        ∧ (reservedBad k [(1, vaBits)] = false → k.dw 1 % 64 = 0 → x.out = 0 → x.capture = some (k.dw 1) → capturedLive after x.ctx (k.dw 1) q = true →
            exec .capstop s = .next (blockQueue after q .order))
        ∧ (let rq := k.dw 1 % 1024
           let cap := k.dw 3 / (k.dw 4 % 65536)
           let idle : Prop := ∀ r, tget none (getCtx s x.ctx).rqs rq = some r → rqBusy s x.ctx r = false
           let new : RecQueue := { gen := (getCtx s x.ctx).rqConfs, pool := k.dw 2, psize := k.dw 3, rsize := k.dw 4 % 65536, batch := k.dw 4 / 2 ^ 32 % 65536, cons := k.dw 5, tq := k.dw 6 % 65536, next := 0, deliver := 0, oldest := 0, res := [], committed := [], void := [], out := [], freedRecs := [], flushing := false }
           (reservedBad k [(1, 0x303FF), (2, vaBits), (3, anyBits), (4, 0xFFFF0000FFFF), (5, vaBits), (6, 0xFFFF)] = false → k.dw 1 / 65536 % 4 = 0 → k.dw 2 % 64 = 0 →
              16 ≤ k.dw 4 % 65536 → k.dw 4 % 65536 ≤ 4096 → k.dw 4 % 16 = 0 → 0 < k.dw 4 / 2 ^ 32 % 65536 → k.dw 5 % 128 = 0 → 0 < cap → cap ≤ 2 ^ 20 →
              unordered k false → idle → exec .rqconfConfigure s =
                .next (packetStarted (modCtx start x.ctx fun y => { y with rqs := tput none y.rqs rq (some new), rqConfs := y.rqConfs + 1 }) q false))
           ∧ (reservedBad k [(1, 0x303FF)] = false → k.dw 1 / 65536 % 4 = 1 → unordered k false →
              exec .rqconfFlush s = .next (packetStarted (deliver (modRq start x.ctx rq fun r => { r with flushing := true }) x.ctx rq) q false))
           ∧ (reservedBad k [(1, 0x303FF)] = false → k.dw 1 / 65536 % 4 = 2 → unordered k false → idle → tget none (getCtx s x.ctx).rqs rq ≠ none →
              exec .rqconfTearDown s = .next (packetStarted (modCtx start x.ctx fun y => { y with rqs := tput none y.rqs rq none }) q false)))
        ∧ (∀ kn circ, x.launch = none → x.draft = some (kn, circ) → k.dw 1 % 128 = 0 → k.dw 2 % 32 = 0 → unordered k false →
            reservedBad k [(1, vaBits), (2, vaBits), (3, anyBits)] = false → exec .launch s = .next (launchCircuits start q k kn circ))
        ∧ (∀ s1 b, x.launch = none → x.draft = none → k.dw 1 % 128 = 0 → k.dw 2 % 32 = 0 → k.dw 1 + 128 ≤ 2 ^ 57 → unordered k false → readVirt start queueUnit x.ctx (k.dw 1) 128 = (s1, .ok b) →
            let d := bytesDw b
            let y := getQueue s1 q
            let bat : Option RecBatch := if y.ind = none then batchAt s1 y.ctx q y.head.toNat else none
            let circ := dwAt d 3 % 2 ^ 57
            let kernel (groups : Nat) (list : Option Nat) : Kernel :=
              { kernelOf d y.ctx q y.head (BitVec.ofNat 32 k.tag) (k.dw 1) groups (k.dw 2) (BitVec.ofNat 64 (k.dw 3)) list with rqBatch := bat }
            let draft (kn : Kernel) : State := modQueue s1 q fun y => { y with draft := some (kn, circ) }
            (reservedBad k [(1, vaBits), (2, vaBits), (3, anyBits)] = false →
              let groups : Nat := match bat with
                | some b => (b.addrs.length + 15) / 16
                | none => dwAt d 1 % 2 ^ 33
              (dwAt d 15 % 256 = 1 → descBad d groups = false → exec .launch s = .next (launchCircuits (draft (kernel groups none)) q k (kernel groups none) circ))
              ∧ (dwAt d 15 % 256 = 1 → descBad d groups = true → exec .launch s = .next (packetFault s1 q 3 (k.dw 1) k.tag))
              ∧ (dwAt d 15 % 256 ≠ 1 → exec .launch s = .next (packetFault s1 q 2 (k.dw 1) k.tag)))
            ∧ (reservedBad k [(1, vaBits), (2, vaBits), (3, anyBits), (4, vaBits), (5, 0xFFFFFFFF)] = false → k.dw 4 % 8 = 0 → k.dw 5 ≠ 0 →
              dwAt d 15 % 256 = 1 → descBad d (k.dw 5) = false →
              exec .blocklaunch s = .next (launchCircuits (draft (kernel (k.dw 5) (some (k.dw 4)))) q k (kernel (k.dw 5) (some (k.dw 4))) circ)))))
    ∧ (let j := q % 65536
       let y := getQueue s j
       (∀ a va cond value mask met, y.st = .blocked → y.on = some (.waitmem (some a) va cond value mask met) →
        exec .waitmemSatisfied s = .next (if met || memCond cond (readN s.mem a 8 &&& mask) value then packetStarted (acquireBy .queue 5 s) j false
          else putQueue s j y))
       ∧ ∀ k, y.launch = some k → y.st = .dispatching ∨ y.st = .blocked → ctxServed s y.ctx = true → launchTooLarge s k = false →
        let rooms (c : Nat) : Room := lessReserved s c (roomNow s c)
        (∀ res, planSets s k rooms [] (clusterOrder s k) 0 (if k.cores then setCount k else 1) = some res →
          residentCount s k.ctx + (if k.cores then k.groups else setGroupCount k 0) ≤ (getCtx s k.ctx).maxres → heldByCores s j k = false →
          ∃ t, exec .kernelAdmit s = .next t ∧ t.kernels = s.kernels ++ [{ k with launch := (getCtx s k.ctx).nextLaunch, reserved := res }] ∧ t.mem = s.mem)
        ∧ (heldByCores s j k = true → exec .kernelAdmit s =
            .next (modQueue (blockQueue s j .capacity) j fun z => { z with waited := some (z.waited.getD s.epoch) })))
    ∧ (∀ k cl seqs later s1 masks, s.args.m ≠ 1 → getKernel s (q % 4096) (s.args.v.setWidth 32) = some k → birthDue s k = true → birthPlace s k = some (cl, seqs, later) →
        birthMasks s k ((List.range seqs.length).map fun j => k.nextSet * k.setsize + j) = (s1, .ok masks) →
        exec .setBirth s = .next (birthSet s1 k cl seqs later masks))
    ∧ ((∀ o ∈ s.owed, o.page ≠ none) → exec .successorEnqueue s = .next s)
    ∧ ∀ o rest, s.owed = o :: rest → o.page = none →
      let u : State := { s with owed := rest }
      (∀ c ctr succ tq n s1 b, o.what = .successor c ctr succ tq n → deviceQueue s c tq = true → succ + 64 * n ≤ 2 ^ 57 →
        readVirt u queueUnit c succ (64 * n) = (s1, .ok b) → exec .successorEnqueue s = .next (owe s1 (.packets c ctr tq b false) none))
      ∧ (∀ c ctr tq b begun, o.what = .packets c ctr tq b begun →
        let room := if begun then ringRoom (getQueue s tq) else ringSpace u tq
        (deviceQueue s c tq = true → b.length / 64 ≤ room → exec .successorEnqueue s = .next (appendPackets u tq b))
        ∧ (deviceQueue s c tq = true → 0 < room → room < b.length / 64 → exec .successorEnqueue s =
            .next (owe (appendPackets u tq (b.take (64 * room))) (.packets c ctr tq (b.drop (64 * room)) true) none))
        ∧ (deviceQueue s c tq = false → exec .successorEnqueue s = .next (successorLost u c ctr tq)))
      ∧ (∀ c cons b, o.what = .batch c cons b → deviceQueue s c b.tq = true → 1 ≤ ringSpace u b.tq →
        exec .successorEnqueue s = .next (modCtx (appendPackets u b.tq (packFields [(8, 0x0101), (8, cons), (48, 0)])) c fun y =>
          { y with batches := y.batches ++ [{ b with pkt := (getQueue s b.tq).tail.toNat }] }))

/-! ## Repair, links, the host complex, boot and attestation (R6, R22, R252, R380-R382, R402-R421, R496-R501) -/

/-- R6, R7, R20-R22, R252, R380-R382, R402-R412, R417-R421, R496-R501: marked rows and spares, the link commands and events, the requests and answers
of other modules, host accesses of memory and registers, reset and boot, and attestation. The payloads of requests and answers (notes/assumptions/22.md),
those of a collective's flits (23), that a refused request is answered (39), the host accesses that no rule describes (15, 16), that a
failed die link ends a host access with its fault (14), and the corners of repair and boot (36, 38) are the model's choices. -/
def Obligations.ModuleEvents : Prop :=
  ∀ s : State,
    let n := s.args.n
    let p := n % 32
    let l := getLink s n
    let lp := getLink s p
    (∀ b, s.args.data = .sram b →
      let x := (b, s.args.m)
      let r := s.repair
      (x ∉ r.marked → x ∉ r.mapped → exec .correctedSoftError s = .next { s with repair := { r with marked := r.marked ++ [x] } })
      ∧ (x ∈ r.marked → sramHidden s b = true → sramWithdrawn s b = false → (r.mapped.filter fun p => decide (p.1 = b)).length < Config.spareRows →
        exec .rowRemap s = .next { s with repair := countRemaps { r with marked := r.marked.filter (· != x), mapped := r.mapped ++ [x] } b 1 })
      ∧ (x ∈ r.marked → sramHidden s b = true → sramWithdrawn s b = false → (r.mapped.filter fun p => decide (p.1 = b)).length ≥ Config.spareRows →
        sramUnheld s b = true → exec .rowRemap s = .next { s with repair := withdraw r b }))
    ∧ (n < 16 → exec .linkTrain s = .next (putLink s n { l with err := 5 }))
    ∧ (16 ≤ n → n < 32 → l.busy = false →
        (l.st = .down ∨ l.st = .stopped ∨ l.st = .error → exec .linkTrain s =
          .next (putLink s n { l with st := .training, txseq := 0, rxseq := 0, sent := [], slpver := 0, peer := 0, vers := [], err := 0, busy := true }))
        ∧ (l.st = .up ∨ l.st = .training ∨ l.st = .negotiating ∨ l.st = .draining → exec .linkTrain s = .next (putLink s n { l with err := 2 }))
        ∧ (l.st = .up → l.sent = [] → exec .linkDrain s = .next (afterLink s (putLink s n { l with err := 0, st := .stopped, slpver := 0, peer := 0, vers := [] }) n))
        ∧ (l.st = .up → l.sent ≠ [] → exec .linkDrain s = .next (afterLink s (putLink s n { l with err := 0, st := .draining, busy := true }) n))
        ∧ (l.st = .up ∨ l.st = .draining ∨ l.st = .stopped ∨ l.st = .error → exec .linkDown s = .next (afterLink s (putLink (dropSent s n) n
            { getLink (dropSent s n) n with err := 0, busy := false, st := .down, slpver := 0, peer := 0, vers := [] }) n)))
    ∧ (exec .lnkcntRead s = .next { putLink s p { lp with replayCnt := 0, crcerr := 0 } with hostData := BitVec.ofNat 64 (lp.replayCnt.toNat * 2 ^ 32 + lp.crcerr.toNat) })
    ∧ (lp.st = .training → exec .linkPhyTrained s = .next (putLink s p { lp with st := .negotiating })
        ∧ exec .linkPhyTrainFail s = .next (bootGoesOn (afterLink s (enterError s p 0) p)))
    ∧ (∀ o, s.args.data = .peer o → lp.st = .negotiating →
        (o.slp.getLsbD 1 = true → exec .linkNegotiated s = .next (bootGoesOn (putLink s p { lp with st := .up, slpver := 1, vers := [o.pkt, o.save, o.trc].map (fun m => if m.getLsbD 1 then 1 else 0), peer := if p < 16 then s.modid else o.peer.toNat, busy := false, retrains := 0, err := if lp.busy then 0 else lp.err })))
        ∧ (o.slp.getLsbD 1 = false → exec .linkNegotiated s = .next (bootGoesOn (enterError s p 4))))
    ∧ (lp.st = .up ∨ lp.st = .draining → exec .linkLaneLoss s = .next (bootGoesOn (afterLink s (enterError s p 0) p)))
    ∧ (∀ m f c, s.boot.coming = some m → s.boot.booted = some (f, c) →
        (dieLinksSettled s = true → (bootGoesOn s).boot.mode = m ∧ (bootGoesOn s).boot.coming = none ∧ bootGoesOn s = { s with boot := (bootGoesOn s).boot })
        ∧ (dieLinksSettled s = false → bootGoesOn s = s))
    ∧ (∀ b, s.args.data = .bytes b → lp.st = .up ∨ lp.st = .draining →
        let f := flitOf b
        let becomes (r : State) : Prop := exec .slpFlitReceive s = .next (afterFlit s (afterLink s r p) p b)
        (lcrcOk b = false ∨ f.typ ≥ 6 → becomes (nakFlit s p))
        ∧ (lcrcOk b = true → f.typ = 0 → becomes (takeAck s p f.ack))
        ∧ (lcrcOk b = true → f.typ < 6 → f.typ ≠ 0 →
          let took := takeAck (putLink s p { lp with rxseq := lp.rxseq + 1 }) p f.ack
          let nak : Prop := f.typ = 1 ∧ f.payload.length = 2
          let passes : Prop := 16 ≤ p ∧ ¬nak ∧ f.dst ≠ took.modid
          (f.seq ≠ lp.rxseq.toNat → becomes (nakFlit s p))
          ∧ (f.seq = lp.rxseq.toNat → passes → ∀ o, portFor took f.dst (flitLine f) = some o → becomes (sendBytes took o none b))
          ∧ (f.seq = lp.rxseq.toNat → ¬passes → ecrcOk b = false → becomes (ecrcFails took p f))
          ∧ (f.seq = lp.rxseq.toNat → ecrcOk b = true → nak → becomes (takeNak took p (leNat f.payload)))
          ∧ (f.seq = lp.rxseq.toNat → ¬passes → ecrcOk b = true → ¬nak → becomes took)))
    ∧ (∀ r, s.args.data = .request r →
        let off := r.off.toNat
        let who : Agent := .elsewhere r.src.toNat
        let answer (s : State) (ok : Bool) (d : List Byte) : Host.Outcome State Fault Refusal :=
          .next ((flitParts d (max 1 ((d.length + 207) / 208))).foldl (fun s b => (sendFlit s r.src.toNat (remoteLine s.modid off) 3 1 0 none false 0
            (natLe r.tag.toNat 3 ++ [if ok then 1 else 0] ++ b)).getD s) s)
        (∀ k, r.op = .read k → exported s r.src off k false true = true → inGddr off k = true → exec .remoteMemoryRequest s = answer s true (readHome s off k))
        ∧ (exported s r.src off (remoteNeed r.op).1 (remoteNeed r.op).2.1 (remoteNeed r.op).2.2 = false → exec .remoteMemoryRequest s = answer s false [])
        ∧ (∀ d, r.op = .write d → exported s r.src off d.length true false = true → inGddr off d.length = true →
            exec .remoteMemoryRequest s = answer (writeBy who s off d) true [])
        ∧ (∀ red fmt d, r.op = .reduce red fmt d → exported s r.src off d.length true true = true → inGddr off d.length = true → exec .remoteMemoryRequest s =
            answer (writeBy who s off (combineBytes false red fmt (max 1 (elemWidth fmt / 8)) d.length (readHome s off d.length) d)) true [])
        ∧ (∀ k rd, r.op = .check k rd → exported s r.src off k true rd = true → inGddr off k = true → exec .remoteMemoryRequest s = answer s true [])
        ∧ (∀ red mask v, r.op = .merge red mask v → exported s r.src off 1 true (red != 0) = true → inGddr off 1 = true →
            exec .remoteMemoryRequest s = answer (writeBy who s off ((readHome s off 1).map fun o => mergeByte red o v mask)) true [])
        ∧ (∀ k v, exported s r.src off k true true = true → inGddr off k = true →
            let old := readHome s off k
            (r.op = .amo .amoSwap k v → exec .remoteMemoryRequest s = answer (writeBy who s off (natLe v.toNat k)) true old)
            ∧ (r.op = .amo .amoAdd k v → exec .remoteMemoryRequest s = answer (writeBy who s off (natLe ((leNat old + v.toNat) % 256 ^ k) k)) true old)
            ∧ (r.op = .amo .amoAnd k v → exec .remoteMemoryRequest s = answer (writeBy who s off (natLe (leNat old &&& v.toNat) k)) true old)
            ∧ (r.op = .amo .amoOr k v → exec .remoteMemoryRequest s = answer (writeBy who s off (natLe (leNat old ||| v.toNat) k)) true old)))
    ∧ (∀ r q, s.args.data = .response r → (s.remotes.find? fun q => q.tag == r.tag && q.data.isNone) = some q →
        (∀ core, q.asker = .host core →
          let t := { s with remotes := s.remotes.erase q }
          let u := if q.rd then { t with hostData := BitVec.ofNat 64 (leNat r.data) } else t
          (r.ok = true → exec .remoteMemoryResponse s = .next (if q.acq then acquireBy (.host core) 5 u else u))
          ∧ (r.ok = false → exec .remoteMemoryResponse s = .next { t with boot := { s.boot with hostFaults := s.boot.hostFaults ++ [(core, if q.wr then .store else .load)] } }))
        ∧ (∀ key, q.asker = .child key →
          (r.ok = true → remotesOf s key = [q] → exec .remoteMemoryResponse s =
            .next (modChild { s with remotes := s.remotes.filter fun o => !decide (o.asker = .child key) } key fun h => { h with got := if q.rd then padTo q.len r.data else [] }))
          ∧ (r.ok = false → exec .remoteMemoryResponse s = .next (finishChild (dropRemotes s key) key .faulted 2 0 0))))
    ∧ (∀ f, s.args.data = .coll f →
        (∀ key h, collChild s f = some (key, h) →
          (f.norank = true → exec .collectiveFlitReceive s = .next (memberFails s key h 0x111 0))
          ∧ (f.norank = false → f.credit ≠ 0 → exec .collectiveFlitReceive s =
              .next (putChild s key { h with owing := (List.range f.credit).foldl (fun l _ => l.erase f.src) h.owing })))
        ∧ (f.norank = false → f.credit = 0 → ctxCreated s f.dstCtx.val = false →
          (f.fail = true ∨ f.srcMod.toNat = s.modid → exec .collectiveFlitReceive s = .next s)
          ∧ ∀ t, f.fail = false → f.srcMod.toNat ≠ s.modid →
            sendFlit s f.srcMod.toNat 0 4 2 f.srcCtx.val none false f.dstCtx.val (collPayload { f with norank := true, data := [] }) = some t →
            exec .collectiveFlitReceive s = .next t)
        ∧ (f.norank = false → f.credit = 0 → ctxCreated s f.dstCtx.val = true →
          (collChild s f = none → collStale s f none = false → collChild { s with collIn := s.collIn ++ [f] } f = none →
            exec .collectiveFlitReceive s = .next { s with collIn := s.collIn ++ [f] })
          ∧ (∀ key h, collChild s f = some (key, h) → collStale s f (some h) = true →
            exec .collectiveFlitReceive s = .next (if mayMove h then collMove s key h else s))))
    ∧ (∀ f, s.args.data = .stream f → f.good = true →
        let rx := tget {} s.streams f.head
        let start : StreamRx := { frame := f.frame, slice := f.slice.toNat, shown := rx.shown }
        let put (x : StreamRx) : Host.Outcome State Fault Refusal := .next { s with streams := tput {} s.streams f.head x }
        (rx.next = 0 → f.off = 0 → exec .streamFlitReceive s = put (if f.last then { start with shown := f.data } else { start with next := f.data.length, data := f.data }))
        ∧ (rx.frame = f.frame → rx.slice = f.slice.toNat → f.off ≠ 0 → f.off.toNat = rx.next → rx.lost = false → exec .streamFlitReceive s =
            put (if f.last then { rx with next := 0, data := [], shown := rx.data ++ f.data } else { rx with next := rx.next + f.data.length, data := rx.data ++ f.data })))
    ∧ (exec .routeWrite s = .next { s with routes := tput 0 s.routes (s.args.v.toNat / 65536 % 4096) (BitVec.ofNat 16 s.args.v.toNat) })
    ∧ (∀ k, s.args.data = .kind k → hostCoreRuns s p = true → hostReserved s s.args.v.toNat = true →
        exec .hostReservedAccess s = .next { s with boot := { s.boot with hostFaults := s.boot.hostFaults ++ [(p, k)] } })
    ∧ (hostCoreRuns s (s.args.m % 32) = false → exec .registerWrite s = .next s)
    ∧ (hostCoreRuns s (s.args.m % 32) = true →
        (regAt n = none → exec .registerWrite s = .next { s with boot := { s.boot with hostFaults := s.boot.hostFaults ++ [(s.args.m % 32, .store)] } })
        ∧ (∀ b k off, regAt n = some (b, k, off) → exec .registerWrite s = .next (regWrite s b k off s.args.v))
        ∧ ∀ b k off, regAt n = some (b, k, off) → b = .repair ∨ b = .energy → exec .registerWrite s = .next s)
    ∧ (∀ i ∈ ([.powerOnReset, .resetRequest] : List Instr), ∃ t, exec i s = .next t
        ∧ t.cur = none ∧ t.slw = none ∧ t.groups = [] ∧ t.kernels = [] ∧ t.children = [] ∧ t.mem = [] ∧ t.pond = [] ∧ t.lineStore = [] ∧ t.tlb = []
        ∧ (∀ c, (getCtx t c).st = .free) ∧ (∀ q, (getQueue t q).st = .unbound)
        ∧ t.boot.fwA = s.boot.fwA ∧ t.boot.cfgA = s.boot.cfgA ∧ t.boot.fwB = s.boot.fwB ∧ t.boot.cfgB = s.boot.cfgB
        ∧ (s.boot.rootKey = none → t.boot.mode = 2 ∧ t.boot.bootErr = 4)
        ∧ (∀ key, s.boot.rootKey = some key →
            (firmwareOk key s.boot.minSvn s.boot.fwA = false → firmwareOk key s.boot.minSvn s.boot.fwB = false → t.boot.mode = 2 ∧ t.boot.bootErr = 2)
            ∧ (∀ f c, firmwareOk key s.boot.minSvn s.boot.fwA = true → s.boot.fwA = some f → s.boot.cfgA = some c → t.boot.slot = false
                ∧ (configOk key s.boot.minSvn f c = false → t.boot.mode = 2 ∧ t.boot.bootErr = 3)
                ∧ (configOk key s.boot.minSvn f c = true → Config.imageMode (imageBody c) = 1 ∨ Config.imageMode (imageBody c) = 3 →
                    t.boot.mode = 0 ∧ t.boot.coming = some (Config.imageMode (imageBody c)) ∧ t.boot.bootErr = 0 ∧ t.boot.booted = some (f, some c)
                    ∧ ∀ n < 16, (getLink t n).st = .training))
            ∧ (∀ f c, firmwareOk key s.boot.minSvn s.boot.fwA = false → firmwareOk key s.boot.minSvn s.boot.fwB = true → s.boot.fwB = some f → s.boot.cfgB = some c →
                t.boot.slot = true ∧ (configOk key s.boot.minSvn f c = true → Config.imageMode (imageBody c) = 1 ∨ Config.imageMode (imageBody c) = 3 →
                  t.boot.mode = 0 ∧ t.boot.coming = some (Config.imageMode (imageBody c)) ∧ t.boot.bootErr = 1 ∧ t.boot.booted = some (f, some c)))))
    ∧ (∀ fw cfg key, s.args.data = .images fw cfg → s.boot.rootKey = some key → s.boot.mode = 2 → s.boot.bootErr ≠ 4 → imageOk key s.boot.minSvn 1 fw = true →
        configOk key s.boot.minSvn fw cfg = true → ∃ t, exec .imageUpload s = .next t
          ∧ t.boot.fwA = some fw ∧ t.boot.cfgA = some cfg ∧ t.boot.fwB = s.boot.fwB ∧ t.boot.slot = false)
    ∧ (n < 9 → exec .ageingUpdate s = .next { s with boot := { s.boot with ages := tput 0xFFFFFFFF s.boot.ages n (BitVec.ofNat 64 (min (tget 0xFFFFFFFF s.boot.ages n).toNat s.args.v.toNat)) } })
    ∧ (s.boot.attBusy = false →
        let buf := s.args.v.toNat / 256 % 2 ^ 44 * 256
        (inCarveRange buf 288 = true → ∃ t, exec .attestationReport s = .next t ∧ t.boot.attBusy = false ∧ t.boot.attErr = 0 ∧ t.boot.attBuf = buf)
        ∧ (inCarveRange buf 288 = false → exec .attestationReport s = .next { s with boot := { s.boot with attErr := 2 } }))
    ∧ (∀ a, s.args.data = .access a → hostCoreRuns s a.core.val = false → exec .hostMemoryAccess s = .next s)
    ∧ ∀ a, s.args.data = .access a → hostCoreRuns s a.core.val = true →
        let pa := a.pa.toNat
        let me : Agent := .host a.core.val
        let me' : Asker := .host a.core.val
        let fault := { s with boot := { s.boot with hostFaults := s.boot.hostFaults ++ [(a.core.val, if a.op = .load then .load else .store)] } }
        let old := leNat (readHome s pa a.size)
        let got := { takeIn me [lineOf pa] s with hostData := BitVec.ofNat 64 old }
        let amo (x : Nat) : Host.Outcome State Fault Refusal :=
          let t := writeBy me got pa (natLe x a.size)
          .next (if a.acq then acquireBy me 5 t else t)
        (a.op = .fence → exec .hostMemoryAccess s = .next (acquireBy me 5 s))
        ∧ (a.op ≠ .fence → a.size ≠ 0 → pa % 8 + a.size ≤ 8 → inGddr pa a.size = true → dieReach s 8 (homeDie pa) = false →
          exec .hostMemoryAccess s = .next fault)
        ∧ (a.size ≠ 0 → pa % 8 + a.size ≤ 8 → inGddr pa a.size = true → dieReach s 8 (homeDie pa) = true →
          (a.op = .load → exec .hostMemoryAccess s = .next got)
          ∧ (a.op = .store → Memory.wf s.mem = true → ∃ t, exec .hostMemoryAccess s = .next t ∧ leNat (mread t.mem pa a.size) = a.value.toNat % 256 ^ a.size
              ∧ (∀ b, Outside b pa a.size → mget t.mem b = mget s.mem b) ∧ Memory.wf t.mem = true)
          ∧ (a.op = .amoSwap → exec .hostMemoryAccess s = amo a.value.toNat) ∧ (a.op = .amoAdd → exec .hostMemoryAccess s = amo ((old + a.value.toNat) % 256 ^ a.size))
          ∧ (a.op = .amoAnd → exec .hostMemoryAccess s = amo (old &&& a.value.toNat)) ∧ (a.op = .amoOr → exec .hostMemoryAccess s = amo (old ||| a.value.toNat)))
        ∧ (a.size ≠ 0 → pa % 8 + a.size ≤ 8 → inGddr pa a.size = false → remoteOk s pa a.size = true → ∀ t,
          (a.op = .load → askRemote s me' false 0 pa (.read a.size) = some t → exec .hostMemoryAccess s = .next t)
          ∧ (a.op = .store → askRemote s me' false 0 pa (.write (natLe a.value.toNat a.size)) = some t → exec .hostMemoryAccess s = .next t)
          ∧ (a.op = .amoSwap ∨ a.op = .amoAdd ∨ a.op = .amoAnd ∨ a.op = .amoOr → askRemote s me' a.acq 0 pa (.amo a.op a.size a.value) = some t → exec .hostMemoryAccess s = .next t))
        ∧ (a.op ≠ .fence → a.size ≠ 0 → pa % 8 + a.size ≤ 8 → inGddr pa a.size = false → remoteOk s pa a.size = false → regAt pa = none →
            exec .hostMemoryAccess s = .next fault)

/-! ## Heads and scanline cores between words (R422-R443, R449, R457, R462-R467) -/

/-- R424-R437, R440, R449, R457, R462, R465-R467: a head's commands, publications, poses and the events of its slices; the calls, copies and output
FIFOs of scanline cores, and STOP, RUN, STEP and the breakpoint. The order of a head's events, when FRAME counts a frame as begun, what
STOP gives up and the clock that the beams share (notes/assumptions/34.md), and what RUN and STEP do at a breakpoint (35) are the
model's readings. -/
def Obligations.HeadAndScanlineEvents : Prop :=
  ∀ s : State,
    let hd := s.args.n % 16
    let h := getHead s hd
    let core := s.args.n % 64
    let k := s.args.m % 4
    let x := getSlc s core k
    let cmd (n : BitVec 64) : BitVec 64 := (s.args.v &&& 0xFFFFFFFFFFFFFFF0) ||| n
    let base := (cmd 1).toNat / 128 % 2 ^ 45 * 128
    let dump (n : BitVec 64) : Nat := (cmd n).toNat / 4096 % 2 ^ 40 * 4096
    (h.busy = false →
      (h.st = .idle ∨ h.st = .error → inGddr base 128 = true →
        let fresh : Head := { evq := h.evq, evhead := h.evhead, evtail := h.evtail, evlost := h.evlost, staged := h.staged, shipped := h.shipped, st := .starting, desc := bytesDw (readHome s base 128) }
        (startErr s hd fresh = 0 → exec .headStart s = .next (putHead s hd fresh))
        ∧ (startErr s hd fresh ≠ 0 → exec .headStart s = .next (putHead s hd { h with err := startErr s hd fresh })))
      ∧ (h.st = .active → exec .headStop s = .next (stopCheck (dropUnbegun (putHead s hd { h with st := .stopping, err := 0 }) hd) hd))
      ∧ (h.st = .error → exec .headStop s = .next (putHead s hd { h with st := .idle, err := 0 }))
      ∧ (h.st = .idle ∨ h.st = .starting ∨ h.st = .stopping → exec .headStop s = .next (putHead s hd { h with err := 2 })))
    ∧ (exec .hmissRead s = .next { putHead s hd { h with miss := 0 } with hostData := h.miss.setWidth 64 })
    ∧ (exec .hevtailRead s = .next { putHead s hd { h with evlost := 0 } with hostData := BitVec.ofNat 64 (h.evlost.toNat * 2 ^ 32 + h.evtail.toNat) })
    ∧ (s.args.v.getLsbD 0 = true → exec .poseCommit s = .next (putHead s hd { h with poseIn := h.poseIn ++ [(List.range 8).map fun j => tget 0 h.staged j] }))
    ∧ (∀ p rest, h.poseIn = p :: rest →
        (h.st = .starting ∨ h.st = .active → exec .mailboxWrite s = .next (putHead s hd { h with poseIn := rest, mailbox := (p :: h.mailbox).take 8, fresh := true }))
        ∧ (h.st = .idle ∨ h.st = .stopping ∨ h.st = .error → exec .mailboxWrite s = .next (putHead s hd { h with poseIn := rest })))
    ∧ (∀ c va rest, h.pubIn = (c, va) :: rest →
        let taken := acquireBy .tarn 4 (putHead s hd { h with pubIn := rest, pub := h.pub + 1 })
        (headTakes h c = false → exec .publicationTake s = .next (putHead s hd { h with pubIn := rest }))
        ∧ (headTakes h c = true → ∀ s1 b, tarnRead taken c va 128 = (s1, .ok b) →
          let d := bytesDw b
          (frameDescBad d = true → exec .publicationTake s = .next (headEvent s1 hd 4 0 (frameNow (getHead s1 hd)) 0 0))
          ∧ (frameDescBad d = false → ∀ s2 ts f, frameTensors s1 c [dwAt d 0 / 2 ^ 32 % 65536, dwAt d 0 / 65536 % 65536, dwAt d 0 % 65536] = (s2, .ok ts) →
              let h2 := getHead s2 hd
              let t := putHead s2 hd { h2 with pendingFrame := some f }
              frameOk h2.pub.toNat d ts = some f →
              (h2.pendingFrame = none → exec .publicationTake s = .next t)
              ∧ ∀ old, h2.pendingFrame = some old → exec .publicationTake s = .next (retire t hd (frameNow h2) old))))
    ∧ (h.st = .starting → h.out = 0 ∨ (getLink s (16 + h.fport)).st = .up → exec .headOutputTrained s = .next (putHead s hd { h with st := .active, since := headClock s }))
    ∧ (h.st = .starting → exec .headOutputTrainFail s = .next (headEvent (putHead s hd (blankHead h .error)) hd 6 0 (frameNow h) 0 0))
    ∧ (h.st = .starting ∨ h.st = .active ∨ h.st = .stopping → exec .headOutputLost s = .next (headError s hd))
    ∧ (∀ line p rest, headDue h 0 = some line → h.mailbox = p :: rest → h.sliceOf h.nextLatch ≠ 0 →
        let pose := if h.fresh then p else h.lastPose
        exec .poseLatch s = .next (acquireBy .tarn 4 (putHead s hd { h.beamTo line with nextLatch := h.nextLatch + 1, fresh := false, lastPose := pose, slices := h.slices ++ [(h.nextLatch, { frame := h.inUse, pose := pose })], outPoses := tput [] h.outPoses h.nextLatch pose })))
    ∧ (∀ line, headDue h 1 = some line →
        let i := h.nextStart
        let t := putHead s hd { h.beamTo line with nextStart := i + 1 }
        (∀ q f, h.slice i = some q → q.frame = some f → exec .sliceStart s = .next (slTake (modSlice t hd i fun q => { q with st := .started }) (sliceCore h i)))
        ∧ ((h.slice i).bind (·.frame) = none → exec .sliceStart s = .next (modSlice t hd i fun q => { q with st := .fallback })))
    ∧ (∀ line q, tarnHeld s h = false → headDue h 2 = some line → h.slice h.nextDeadline = some q →
        let i := h.nextDeadline
        let t := putHead s hd { h.beamTo line with nextDeadline := i + 1 }
        let dropped := modSlice t hd i fun q => { q with st := .fallback, pixels := [] }
        let missed (u : State) : State := sliceEvent (modHead (fallback u hd i q.pose) hd fun h => { h with miss := h.miss + 1 }) hd 1 i (dwAt q.pose 7)
        (q.st = .complete → exec .sliceDeadline s = .next t)
        ∧ (q.st = .latched ∨ q.st = .started ∨ q.st = .fallback → exec .sliceDeadline s = .next (missed dropped))
        ∧ (∀ c j, q.st = .running c j → exec .sliceDeadline s = .next (missed (slEnd dropped c j))))
    ∧ (∀ line, headDue h 3 = some line →
        let i := h.nextOutput
        (h.slice i = none → exec .sliceOutput s = .next (putHead s hd { h.beamTo line with nextOutput := i + 1 }))
        ∧ (∀ q, tarnHeld s h = false → h.slice i = some q →
          let t0 := putHead s hd { h.beamTo line with sentSlice := q.pixels.flatMap fun p => [encodeOut h.enc p.r, encodeOut h.enc p.g, encodeOut h.enc p.b] }
          let t := historyWrite (if h.out = 1 then sendStream (noteShipped t0 hd i q) hd i else t0) hd i q.pixels
          exec .sliceOutput s = .next (stopCheck (retireDone (modHead t hd fun h => { h with nextOutput := i + 1, slices := h.slices.filter fun e => e.1 != i, outPoses := h.outPoses.filter fun e => decide (i < e.1 + (getHead s hd).slicesPer), written := h.written.filter fun e => decide ((h.frameOf i - 1) * (getHead s hd).slicesPer ≤ e.1) }) hd (h.frameOf i)) hd)))
    ∧ (∀ f rest, x.fetches = f :: rest → exec .fetchComplete s =
        .next (slWake (putSlc { s with lineStore := mwrite s.lineStore (lsKey core k f.off) f.data } core k { x with fetches := rest }) core k))
    ∧ ((nextCall s = none → exec .tarnCallStart s = .next s)
        ∧ (∀ p t s1 b s2 tens, s.tarnRun = none → nextCall s = some (p, t) →
            let c := headCtx (getHead s (getSlc s p.1 p.2.1).head)
            let d := bytesDw b
            let blk := d.take 12 ++ tens
            callRead s p c t.addr 128 = (s1, some b) → tarnRoutineBad (d.take 8) = false → (∀ y ∈ d.drop 12, y = 0) → callTensors s1 p c (mxTensors (d.take 8)) = (s2, some tens) →
            jobBad (callJob c blk) = false →
            ((callJob c blk).r.win = true → 0 < (outExtents (callJob c blk).r ((callJob c blk).tensor 0)).1 ∧ 0 < (outExtents (callJob c blk).r ((callJob c blk).tensor 0)).2) → exec .tarnCallStart s = .next (modCall { s2 with tarnRun := some p } p fun t => { t with st := 2, block := blk, cursor := 0 })))
    ∧ (∀ p, s.tarnRun = some p → s.args.m = 0 →
        let t := getCall s p
        let j := callJob (headCtx (getHead s (getSlc s p.1 p.2.1).head)) t.block
        let o := t.cursor.toNat / 2 ^ 32
        let k := t.cursor.toNat % 2 ^ 32
        (t.st = 6 → exec .tarnCallComplete s = .next (endCall s p 5 8 0 t.cursor 0))
        ∧ (t.st ≠ 6 → blockCount j.r ≠ 0 → termCount j.r ≠ 0 →
            (∀ s1, mxStep s j o k = (s1, .done) → exec .tarnCallComplete s = .next (endCall s1 p 3 0 0 t.cursor 0))
            ∧ ∀ s1 o1 k1, mxStep s j o k = (s1, .next o1 k1) →
              exec .tarnCallComplete s = .next (modCall s1 p fun t => { t with cursor := BitVec.ofNat 64 (o1 * 2 ^ 32 + k1) })))
    ∧ (∀ p, s.tarnRun = some p → s.args.m = 11 → exec .tarnCallComplete s = .next (endCall s p 4 11 0 (getCall s p).cursor 0))
    ∧ ((slBusy (getSl s core) = true → ∀ i ∈ ([.slcoreStop, .slcoreRun, .slcoreStep] : List Instr), exec i s = .next (modSl s core fun c => { c with err := 1 }))
      ∧ (slBusy (getSl s core) = false →
        ((getSl s core).stopped = false → exec .slcoreStop s = .next (slAskFreeze (modSl s core fun c => { c with err := 0, dump := dump 1 }) core)
          ∧ exec .slcoreRun s = .next (modSl s core fun c => { c with err := 2 }) ∧ exec .slcoreStep s = .next (modSl s core fun c => { c with err := 2 }))
        ∧ ((getSl s core).stopped = true → exec .slcoreRun s = .next (slResume s core (dump 2) false) ∧ exec .slcoreStep s = .next (slResume s core (dump 3) true)
          ∧ exec .slcoreStop s = .next (modSl s core fun c => { c with err := 2 }))))
    ∧ ((slAtBreak s core = true → exec .slBreakpoint s = .next (slFreeze s core)) ∧ (slAtBreak s core = false → exec .slBreakpoint s = .next s))
    ∧ (x.fifo ≠ [] → exec .outputFifoDrain s =
        .next (slWake (modSlice (putSlc s core k { x with fifo := [] }) x.head x.slice fun q => { q with pixels := q.pixels ++ x.fifo }) core k))
    ∧ exec .sampTexelArrival s = .next (modSl s core fun c => { c with sampHeld := false })
end

