-- ==== Sys2Proof/Laws/Exec.lean ====
section
/-! SUPPORT. What `exec` runs for each instruction of a slot and of a scanline slot: one equation for each arm, so that no
proof unfolds `exec`. -/

namespace Sys2Proof.Laws

open Sys2Proof.Machine

theorem exec_uadd (w : Slot) (s : State) : exec (.uadd w) s = runSlot formUadd 0 w (uAddSub addCarry addSat) s := by rfl
theorem exec_usub (w : Slot) (s : State) : exec (.usub w) s = runSlot formUsub 0 w (uAddSub subBorrow subSat) s := by rfl
theorem exec_umul (w : Slot) (s : State) : exec (.umul w) s = runSlot formUmul 0 w uMul s := by rfl
theorem exec_umulhS (w : Slot) (s : State) : exec (.umulhS w) s = runSlot formUmulhS 0 w (uBinary false mulhS) s := by rfl
theorem exec_umulhU (w : Slot) (s : State) : exec (.umulhU w) s = runSlot formUmulhU 0 w (uBinary false mulhU) s := by rfl
theorem exec_uand (w : Slot) (s : State) : exec (.uand w) s = runSlot formUand 0 w (uBinary false (· &&& ·)) s := by rfl
theorem exec_uor (w : Slot) (s : State) : exec (.uor w) s = runSlot formUor 0 w (uBinary false (· ||| ·)) s := by rfl
theorem exec_uxor (w : Slot) (s : State) : exec (.uxor w) s = runSlot formUxor 0 w (uBinary false (· ^^^ ·)) s := by rfl
theorem exec_ushl (w : Slot) (s : State) : exec (.ushl w) s = runSlot formUshl 0 w (uBinary true shl) s := by rfl
theorem exec_ushr (w : Slot) (s : State) : exec (.ushr w) s = runSlot formUshr 0 w (uBinary true shr) s := by rfl
theorem exec_usar (w : Slot) (s : State) : exec (.usar w) s = runSlot formUsar 0 w (uBinary true sar) s := by rfl
theorem exec_uminS (w : Slot) (s : State) : exec (.uminS w) s = runSlot formUminS 0 w (uBinary false minS) s := by rfl
theorem exec_uminU (w : Slot) (s : State) : exec (.uminU w) s = runSlot formUminU 0 w (uBinary false minU) s := by rfl
theorem exec_umaxS (w : Slot) (s : State) : exec (.umaxS w) s = runSlot formUmaxS 0 w (uBinary false maxS) s := by rfl
theorem exec_umaxU (w : Slot) (s : State) : exec (.umaxU w) s = runSlot formUmaxU 0 w (uBinary false maxU) s := by rfl
theorem exec_ucmpS (w : Slot) (s : State) : exec (.ucmpS w) s = runSlot formUcmpS 0 w (uCmp true) s := by rfl
theorem exec_ucmpU (w : Slot) (s : State) : exec (.ucmpU w) s = runSlot formUcmpU 0 w (uCmp false) s := by rfl
theorem exec_usel (w : Slot) (s : State) : exec (.usel w) s = runSlot formUsel 0 w uSel s := by rfl
theorem exec_umov (w : Slot) (s : State) : exec (.umov w) s = runSlot formUmov 0 w uMov s := by rfl
theorem exec_umovImm (w : Slot) (s : State) : exec (.umovImm w) s = runSlot formUmovImm 0 w uMovImm s := by rfl
theorem exec_umovHi (w : Slot) (s : State) : exec (.umovHi w) s = runSlot formUmovHi 0 w uMovHi s := by rfl
theorem exec_umovw (w : Slot) (s : State) : exec (.umovw w) s = runSlot formUmovw 0 w uMovw s := by rfl
theorem exec_uldx (w : Slot) (s : State) : exec (.uldx w) s = runSlot formUldx 0 w uLdx s := by rfl
theorem exec_ustx (w : Slot) (s : State) : exec (.ustx w) s = runSlot formUstx 0 w uStx s := by rfl
theorem exec_upopc (w : Slot) (s : State) : exec (.upopc w) s = runSlot formUpopc 0 w (uUnary popc) s := by rfl
theorem exec_uclz (w : Slot) (s : State) : exec (.uclz w) s = runSlot formUclz 0 w (uUnary clz) s := by rfl
theorem exec_ubfx (w : Slot) (s : State) : exec (.ubfx w) s = runSlot formUbfx 0 w (uBinary true bfx) s := by rfl
theorem exec_ubfi (w : Slot) (s : State) : exec (.ubfi w) s = runSlot formUbfi 0 w uBfi s := by rfl
theorem exec_urds (w : Slot) (s : State) : exec (.urds w) s = runSlot formUrds 0 w uRds s := by rfl
theorem exec_uwrs (w : Slot) (s : State) : exec (.uwrs w) s = runSlot formUwrs 0 w uWrs s := by rfl
theorem exec_vadd (u : VUnit) (w : Slot) (s : State) : exec (.vadd u w) s = runSlot formVadd (vClass u) w (vAddSub addCarry addSat) s := by rfl
theorem exec_vsub (u : VUnit) (w : Slot) (s : State) : exec (.vsub u w) s = runSlot formVsub (vClass u) w (vAddSub subBorrow subSat) s := by rfl
theorem exec_vmul (u : VUnit) (w : Slot) (s : State) : exec (.vmul u w) s = runSlot formVmul (vClass u) w vMul s := by rfl
theorem exec_vmulhS (u : VUnit) (w : Slot) (s : State) : exec (.vmulhS u w) s = runSlot formVmulhS (vClass u) w (vBinary false mulhS) s := by rfl
theorem exec_vmulhU (u : VUnit) (w : Slot) (s : State) : exec (.vmulhU u w) s = runSlot formVmulhU (vClass u) w (vBinary false mulhU) s := by rfl
theorem exec_vand (u : VUnit) (w : Slot) (s : State) : exec (.vand u w) s = runSlot formVand (vClass u) w (vBinary false (· &&& ·)) s := by rfl
theorem exec_vor (u : VUnit) (w : Slot) (s : State) : exec (.vor u w) s = runSlot formVor (vClass u) w (vBinary false (· ||| ·)) s := by rfl
theorem exec_vxor (u : VUnit) (w : Slot) (s : State) : exec (.vxor u w) s = runSlot formVxor (vClass u) w (vBinary false (· ^^^ ·)) s := by rfl
theorem exec_vshl (u : VUnit) (w : Slot) (s : State) : exec (.vshl u w) s = runSlot formVshl (vClass u) w (vBinary true shl) s := by rfl
theorem exec_vshr (u : VUnit) (w : Slot) (s : State) : exec (.vshr u w) s = runSlot formVshr (vClass u) w (vBinary true shr) s := by rfl
theorem exec_vsar (u : VUnit) (w : Slot) (s : State) : exec (.vsar u w) s = runSlot formVsar (vClass u) w (vBinary true sar) s := by rfl
theorem exec_vminS (u : VUnit) (w : Slot) (s : State) : exec (.vminS u w) s = runSlot formVminS (vClass u) w (vBinary false minS) s := by rfl
theorem exec_vminU (u : VUnit) (w : Slot) (s : State) : exec (.vminU u w) s = runSlot formVminU (vClass u) w (vBinary false minU) s := by rfl
theorem exec_vmaxS (u : VUnit) (w : Slot) (s : State) : exec (.vmaxS u w) s = runSlot formVmaxS (vClass u) w (vBinary false maxS) s := by rfl
theorem exec_vmaxU (u : VUnit) (w : Slot) (s : State) : exec (.vmaxU u w) s = runSlot formVmaxU (vClass u) w (vBinary false maxU) s := by rfl
theorem exec_vclz (u : VUnit) (w : Slot) (s : State) : exec (.vclz u w) s = runSlot formVclz (vClass u) w (vUnary clz) s := by rfl
theorem exec_vpopc (u : VUnit) (w : Slot) (s : State) : exec (.vpopc u w) s = runSlot formVpopc (vClass u) w (vUnary popc) s := by rfl
theorem exec_vbfx (u : VUnit) (w : Slot) (s : State) : exec (.vbfx u w) s = runSlot formVbfx (vClass u) w (vBinary true bfx) s := by rfl
theorem exec_vbfi (u : VUnit) (w : Slot) (s : State) : exec (.vbfi u w) s = runSlot formVbfi (vClass u) w vBfi s := by rfl
theorem exec_vsel (u : VUnit) (w : Slot) (s : State) : exec (.vsel u w) s = runSlot formVsel (vClass u) w vSel s := by rfl
theorem exec_vcmpS (u : VUnit) (w : Slot) (s : State) : exec (.vcmpS u w) s = runSlot formVcmpS (vClass u) w (vCmp true) s := by rfl
theorem exec_vcmpU (u : VUnit) (w : Slot) (s : State) : exec (.vcmpU u w) s = runSlot formVcmpU (vClass u) w (vCmp false) s := by rfl
theorem exec_fcmpF32 (u : VUnit) (w : Slot) (s : State) : exec (.fcmpF32 u w) s = runSlot formFcmpF32 (vClass u) w f32Cmp s := by rfl
theorem exec_fcmpF64 (u : VUnit) (w : Slot) (s : State) : exec (.fcmpF64 u w) s = runSlot formFcmpF64 (vClass u) w f64Cmp s := by rfl
theorem exec_faddF32 (u : VUnit) (w : Slot) (s : State) : exec (.faddF32 u w) s = runSlot formFaddF32 (vClass u) w (f32Binary 6 (fadd binary32)) s := by rfl
theorem exec_fsubF32 (u : VUnit) (w : Slot) (s : State) : exec (.fsubF32 u w) s = runSlot formFsubF32 (vClass u) w (f32Binary 6 (fsub binary32)) s := by rfl
theorem exec_fmulF32 (u : VUnit) (w : Slot) (s : State) : exec (.fmulF32 u w) s = runSlot formFmulF32 (vClass u) w (f32Binary 6 (fmul binary32)) s := by rfl
theorem exec_ffmaF32 (u : VUnit) (w : Slot) (s : State) : exec (.ffmaF32 u w) s = runSlot formFfmaF32 (vClass u) w f32Fma s := by rfl
theorem exec_fminF32 (u : VUnit) (w : Slot) (s : State) : exec (.fminF32 u w) s = runSlot formFminF32 (vClass u) w (f32Binary 6 fun _ => fminmax false binary32) s := by rfl
theorem exec_fmaxF32 (u : VUnit) (w : Slot) (s : State) : exec (.fmaxF32 u w) s = runSlot formFmaxF32 (vClass u) w (f32Binary 6 fun _ => fminmax true binary32) s := by rfl
theorem exec_fdivF32 (u : VUnit) (w : Slot) (s : State) : exec (.fdivF32 u w) s = runSlot formFdivF32 (vClass u) w f32Div s := by rfl
theorem exec_fsqrtF32 (u : VUnit) (w : Slot) (s : State) : exec (.fsqrtF32 u w) s = runSlot formFsqrtF32 (vClass u) w (f32Unary (fsqrt binary32)) s := by rfl
theorem exec_frcpF32 (u : VUnit) (w : Slot) (s : State) : exec (.frcpF32 u w) s = runSlot formFrcpF32 (vClass u) w (f32Unary (frcp binary32)) s := by rfl
theorem exec_frsqF32 (u : VUnit) (w : Slot) (s : State) : exec (.frsqF32 u w) s = runSlot formFrsqF32 (vClass u) w (f32Unary (frsq binary32)) s := by rfl
theorem exec_fexp2F32 (u : VUnit) (w : Slot) (s : State) : exec (.fexp2F32 u w) s = runSlot formFexp2F32 (vClass u) w (f32Unary fexp2) s := by rfl
theorem exec_flog2F32 (u : VUnit) (w : Slot) (s : State) : exec (.flog2F32 u w) s = runSlot formFlog2F32 (vClass u) w (f32Unary flog2) s := by rfl
theorem exec_fsinF32 (u : VUnit) (w : Slot) (s : State) : exec (.fsinF32 u w) s = runSlot formFsinF32 (vClass u) w (f32Unary (fsincos 0)) s := by rfl
theorem exec_fcosF32 (u : VUnit) (w : Slot) (s : State) : exec (.fcosF32 u w) s = runSlot formFcosF32 (vClass u) w (f32Unary (fsincos 1)) s := by rfl
theorem exec_faddF16 (u : VUnit) (w : Slot) (s : State) : exec (.faddF16 u w) s = runSlot formFaddF16 (vClass u) w (f16Binary (fadd binary16)) s := by rfl
theorem exec_fsubF16 (u : VUnit) (w : Slot) (s : State) : exec (.fsubF16 u w) s = runSlot formFsubF16 (vClass u) w (f16Binary (fsub binary16)) s := by rfl
theorem exec_fmulF16 (u : VUnit) (w : Slot) (s : State) : exec (.fmulF16 u w) s = runSlot formFmulF16 (vClass u) w (f16Binary (fmul binary16)) s := by rfl
theorem exec_ffmaF16 (u : VUnit) (w : Slot) (s : State) : exec (.ffmaF16 u w) s = runSlot formFfmaF16 (vClass u) w f16Fma s := by rfl
theorem exec_faddF64 (u : VUnit) (w : Slot) (s : State) : exec (.faddF64 u w) s = runSlot formFaddF64 (vClass u) w (f64Binary 12 (fadd binary64)) s := by rfl
theorem exec_fsubF64 (u : VUnit) (w : Slot) (s : State) : exec (.fsubF64 u w) s = runSlot formFsubF64 (vClass u) w (f64Binary 12 (fsub binary64)) s := by rfl
theorem exec_fmulF64 (u : VUnit) (w : Slot) (s : State) : exec (.fmulF64 u w) s = runSlot formFmulF64 (vClass u) w (f64Binary 12 (fmul binary64)) s := by rfl
theorem exec_ffmaF64 (u : VUnit) (w : Slot) (s : State) : exec (.ffmaF64 u w) s = runSlot formFfmaF64 (vClass u) w f64Fma s := by rfl
theorem exec_fminF64 (u : VUnit) (w : Slot) (s : State) : exec (.fminF64 u w) s = runSlot formFminF64 (vClass u) w (f64Binary 12 fun _ => fminmax false binary64) s := by rfl
theorem exec_fmaxF64 (u : VUnit) (w : Slot) (s : State) : exec (.fmaxF64 u w) s = runSlot formFmaxF64 (vClass u) w (f64Binary 12 fun _ => fminmax true binary64) s := by rfl
theorem exec_fdivF64 (u : VUnit) (w : Slot) (s : State) : exec (.fdivF64 u w) s = runSlot formFdivF64 (vClass u) w (f64Binary 48 (fdiv binary64)) s := by rfl
theorem exec_fsqrtF64 (u : VUnit) (w : Slot) (s : State) : exec (.fsqrtF64 u w) s = runSlot formFsqrtF64 (vClass u) w (f64Unary (fsqrt binary64)) s := by rfl
theorem exec_frcpF64 (u : VUnit) (w : Slot) (s : State) : exec (.frcpF64 u w) s = runSlot formFrcpF64 (vClass u) w (f64Unary (frcp binary64)) s := by rfl
theorem exec_frsqF64 (u : VUnit) (w : Slot) (s : State) : exec (.frsqF64 u w) s = runSlot formFrsqF64 (vClass u) w (f64Unary (frsq binary64)) s := by rfl
theorem exec_pand (u : VUnit) (w : Slot) (s : State) : exec (.pand u w) s = runSlot formPand (vClass u) w (pBinary (· && ·)) s := by rfl
theorem exec_por (u : VUnit) (w : Slot) (s : State) : exec (.por u w) s = runSlot formPor (vClass u) w (pBinary (· || ·)) s := by rfl
theorem exec_pxor (u : VUnit) (w : Slot) (s : State) : exec (.pxor u w) s = runSlot formPxor (vClass u) w (pBinary (· != ·)) s := by rfl
theorem exec_pnot (u : VUnit) (w : Slot) (s : State) : exec (.pnot u w) s = runSlot formPnot (vClass u) w pNot s := by rfl
theorem exec_vshuf (u : VUnit) (w : Slot) (s : State) : exec (.vshuf u w) s = runSlot formVshuf (vClass u) w vShuf s := by rfl
theorem exec_vbcast (u : VUnit) (w : Slot) (s : State) : exec (.vbcast u w) s = runSlot formVbcast (vClass u) w vBcast s := by rfl
theorem exec_vbcastLane (u : VUnit) (w : Slot) (s : State) : exec (.vbcastLane u w) s = runSlot formVbcastLane (vClass u) w vBcastLane s := by rfl
theorem exec_vred (u : VUnit) (w : Slot) (s : State) : exec (.vred u w) s = runSlot formVred (vClass u) w vRed s := by rfl
theorem exec_vvote (u : VUnit) (w : Slot) (s : State) : exec (.vvote u w) s = runSlot formVvote (vClass u) w vVote s := by rfl
theorem exec_vqdx (u : VUnit) (w : Slot) (s : State) : exec (.vqdx u w) s = runSlot formVqdx (vClass u) w (vQuad 1) s := by rfl
theorem exec_vqdy (u : VUnit) (w : Slot) (s : State) : exec (.vqdy u w) s = runSlot formVqdy (vClass u) w (vQuad 2) s := by rfl
theorem exec_ldB8 (w : Slot) (s : State) : exec (.ldB8 w) s = runSlot formLdB8 3 w (mLoad formLdB8.op 1 false) s := by rfl
theorem exec_ldS8 (w : Slot) (s : State) : exec (.ldS8 w) s = runSlot formLdS8 3 w (mLoad formLdS8.op 1 true) s := by rfl
theorem exec_ldB16 (w : Slot) (s : State) : exec (.ldB16 w) s = runSlot formLdB16 3 w (mLoad formLdB16.op 2 false) s := by rfl
theorem exec_ldS16 (w : Slot) (s : State) : exec (.ldS16 w) s = runSlot formLdS16 3 w (mLoad formLdS16.op 2 true) s := by rfl
theorem exec_ldB32 (w : Slot) (s : State) : exec (.ldB32 w) s = runSlot formLdB32 3 w (mLoad formLdB32.op 4 false) s := by rfl
theorem exec_ldB64 (w : Slot) (s : State) : exec (.ldB64 w) s = runSlot formLdB64 3 w (mLoad formLdB64.op 8 false) s := by rfl
theorem exec_stB8 (w : Slot) (s : State) : exec (.stB8 w) s = runSlot formStB8 3 w (mStore formStB8.op 1) s := by rfl
theorem exec_stB16 (w : Slot) (s : State) : exec (.stB16 w) s = runSlot formStB16 3 w (mStore formStB16.op 2) s := by rfl
theorem exec_stB32 (w : Slot) (s : State) : exec (.stB32 w) s = runSlot formStB32 3 w (mStore formStB32.op 4) s := by rfl
theorem exec_stB64 (w : Slot) (s : State) : exec (.stB64 w) s = runSlot formStB64 3 w (mStore formStB64.op 8) s := by rfl
theorem exec_ldsB8 (w : Slot) (s : State) : exec (.ldsB8 w) s = runSlot formLdsB8 3 w (mSpecLoad 1 false) s := by rfl
theorem exec_ldsS8 (w : Slot) (s : State) : exec (.ldsS8 w) s = runSlot formLdsS8 3 w (mSpecLoad 1 true) s := by rfl
theorem exec_ldsB16 (w : Slot) (s : State) : exec (.ldsB16 w) s = runSlot formLdsB16 3 w (mSpecLoad 2 false) s := by rfl
theorem exec_ldsS16 (w : Slot) (s : State) : exec (.ldsS16 w) s = runSlot formLdsS16 3 w (mSpecLoad 2 true) s := by rfl
theorem exec_ldsB32 (w : Slot) (s : State) : exec (.ldsB32 w) s = runSlot formLdsB32 3 w (mSpecLoad 4 false) s := by rfl
theorem exec_ldsB64 (w : Slot) (s : State) : exec (.ldsB64 w) s = runSlot formLdsB64 3 w (mSpecLoad 8 false) s := by rfl
theorem exec_ldpB8 (w : Slot) (s : State) : exec (.ldpB8 w) s = runSlot formLdpB8 3 w (mPondLoad formLdpB8.op 1 false) s := by rfl
theorem exec_ldpS8 (w : Slot) (s : State) : exec (.ldpS8 w) s = runSlot formLdpS8 3 w (mPondLoad formLdpS8.op 1 true) s := by rfl
theorem exec_ldpB16 (w : Slot) (s : State) : exec (.ldpB16 w) s = runSlot formLdpB16 3 w (mPondLoad formLdpB16.op 2 false) s := by rfl
theorem exec_ldpS16 (w : Slot) (s : State) : exec (.ldpS16 w) s = runSlot formLdpS16 3 w (mPondLoad formLdpS16.op 2 true) s := by rfl
theorem exec_ldpB32 (w : Slot) (s : State) : exec (.ldpB32 w) s = runSlot formLdpB32 3 w (mPondLoad formLdpB32.op 4 false) s := by rfl
theorem exec_ldpB64 (w : Slot) (s : State) : exec (.ldpB64 w) s = runSlot formLdpB64 3 w (mPondLoad formLdpB64.op 8 false) s := by rfl
theorem exec_stpB8 (w : Slot) (s : State) : exec (.stpB8 w) s = runSlot formStpB8 3 w (mPondStore formStpB8.op 1) s := by rfl
theorem exec_stpB16 (w : Slot) (s : State) : exec (.stpB16 w) s = runSlot formStpB16 3 w (mPondStore formStpB16.op 2) s := by rfl
theorem exec_stpB32 (w : Slot) (s : State) : exec (.stpB32 w) s = runSlot formStpB32 3 w (mPondStore formStpB32.op 4) s := by rfl
theorem exec_stpB64 (w : Slot) (s : State) : exec (.stpB64 w) s = runSlot formStpB64 3 w (mPondStore formStpB64.op 8) s := by rfl
theorem exec_ldt (w : Slot) (s : State) : exec (.ldt w) s = runSlot formLdt 3 w (mTensor false formLdt.op) s := by rfl
theorem exec_stt (w : Slot) (s : State) : exec (.stt w) s = runSlot formStt 3 w (mTensor true formStt.op) s := by rfl
theorem exec_fence (w : Slot) (s : State) : exec (.fence w) s = runSlot formFence 3 w mFence s := by rfl
theorem exec_drain (w : Slot) (s : State) : exec (.drain w) s = runSlot formDrain 3 w mDrain s := by rfl
theorem exec_pref (w : Slot) (s : State) : exec (.pref w) s = runSlot formPref 3 w mPref s := by rfl
theorem exec_atomAdd (w : Slot) (s : State) : exec (.atomAdd w) s = runSlot formAtomAdd 3 w (mAtom formAtomAdd.op .add 4) s := by rfl
theorem exec_atomMinS (w : Slot) (s : State) : exec (.atomMinS w) s = runSlot formAtomMinS 3 w (mAtom formAtomMinS.op .minS 4) s := by rfl
theorem exec_atomMinU (w : Slot) (s : State) : exec (.atomMinU w) s = runSlot formAtomMinU 3 w (mAtom formAtomMinU.op .minU 4) s := by rfl
theorem exec_atomMaxS (w : Slot) (s : State) : exec (.atomMaxS w) s = runSlot formAtomMaxS 3 w (mAtom formAtomMaxS.op .maxS 4) s := by rfl
theorem exec_atomMaxU (w : Slot) (s : State) : exec (.atomMaxU w) s = runSlot formAtomMaxU 3 w (mAtom formAtomMaxU.op .maxU 4) s := by rfl
theorem exec_atomAnd (w : Slot) (s : State) : exec (.atomAnd w) s = runSlot formAtomAnd 3 w (mAtom formAtomAnd.op .and 4) s := by rfl
theorem exec_atomOr (w : Slot) (s : State) : exec (.atomOr w) s = runSlot formAtomOr 3 w (mAtom formAtomOr.op .or 4) s := by rfl
theorem exec_atomXor (w : Slot) (s : State) : exec (.atomXor w) s = runSlot formAtomXor 3 w (mAtom formAtomXor.op .xor 4) s := by rfl
theorem exec_atomExch (w : Slot) (s : State) : exec (.atomExch w) s = runSlot formAtomExch 3 w (mAtom formAtomExch.op .exch 4) s := by rfl
theorem exec_atomAddB64 (w : Slot) (s : State) : exec (.atomAddB64 w) s = runSlot formAtomAddB64 3 w (mAtom formAtomAddB64.op .add 8) s := by rfl
theorem exec_atomExchB64 (w : Slot) (s : State) : exec (.atomExchB64 w) s = runSlot formAtomExchB64 3 w (mAtom formAtomExchB64.op .exch 8) s := by rfl
theorem exec_atomFaddF32 (w : Slot) (s : State) : exec (.atomFaddF32 w) s = runSlot formAtomFaddF32 3 w (mAtom formAtomFaddF32.op .fadd 4) s := by rfl
theorem exec_atomFminF32 (w : Slot) (s : State) : exec (.atomFminF32 w) s = runSlot formAtomFminF32 3 w (mAtom formAtomFminF32.op .fmin 4) s := by rfl
theorem exec_atomFmaxF32 (w : Slot) (s : State) : exec (.atomFmaxF32 w) s = runSlot formAtomFmaxF32 3 w (mAtom formAtomFmaxF32.op .fmax 4) s := by rfl
theorem exec_atomcB32 (w : Slot) (s : State) : exec (.atomcB32 w) s = runSlot formAtomcB32 3 w (mAtomc formAtomcB32.op 4) s := by rfl
theorem exec_atomcB64 (w : Slot) (s : State) : exec (.atomcB64 w) s = runSlot formAtomcB64 3 w (mAtomc formAtomcB64.op 8) s := by rfl
theorem exec_fifopush (w : Slot) (s : State) : exec (.fifopush w) s = runSlot formFifopush 3 w mFifoPush s := by rfl
theorem exec_fifopop (w : Slot) (s : State) : exec (.fifopop w) s = runSlot formFifopop 3 w mFifoPop s := by rfl
theorem exec_grstep (w : Slot) (s : State) : exec (.grstep w) s = runSlot formGrstep 4 w gGrstep s := by rfl
theorem exec_gbox (w : Slot) (s : State) : exec (.gbox w) s = runSlot formGbox 4 w gGbox s := by rfl
theorem exec_gtri2 (w : Slot) (s : State) : exec (.gtri2 w) s = runSlot formGtri2 4 w gGtri2 s := by rfl
theorem exec_gcurve (w : Slot) (s : State) : exec (.gcurve w) s = runSlot formGcurve 4 w gGcurve s := by rfl
theorem exec_gpsplit (w : Slot) (s : State) : exec (.gpsplit w) s = runSlot formGpsplit 4 w gGpsplit s := by rfl
theorem exec_gpflat (w : Slot) (s : State) : exec (.gpflat w) s = runSlot formGpflat 4 w gGpflat s := by rfl
theorem exec_gtex (w : Slot) (s : State) : exec (.gtex w) s = runSlot formGtex 4 w (gGtex false) s := by rfl
theorem exec_gtexl (w : Slot) (s : State) : exec (.gtexl w) s = runSlot formGtexl 4 w (gGtex true) s := by rfl
theorem exec_gpublish (w : Slot) (s : State) : exec (.gpublish w) s = runSlot formGpublish 4 w gGpublish s := by rfl
theorem exec_mxdef (w : Slot) (s : State) : exec (.mxdef w) s = runSlot formMxdef 5 w xMxdef s := by rfl
theorem exec_mxdefRel (w : Slot) (s : State) : exec (.mxdefRel w) s = runSlot formMxdefRel 5 w xMxdef s := by rfl
theorem exec_mxcall (w : Slot) (s : State) : exec (.mxcall w) s = runSlot formMxcall 5 w xMxcall s := by rfl
theorem exec_mxparm (w : Slot) (s : State) : exec (.mxparm w) s = runSlot formMxparm 5 w xMxparm s := by rfl
theorem exec_mxacc (w : Slot) (s : State) : exec (.mxacc w) s = runSlot formMxacc 5 w xMxacc s := by rfl
theorem exec_mxzero (w : Slot) (s : State) : exec (.mxzero w) s = runSlot formMxzero 5 w xMxzero s := by rfl
theorem exec_kset (w : Slot) (s : State) : exec (.kset w) s = runSlot formKset 6 w kSet s := by rfl
theorem exec_kld (w : Slot) (s : State) : exec (.kld w) s = runSlot formKld 6 w kLd s := by rfl
theorem exec_cvtF64 (w : Slot) (s : State) : exec (.cvtF64 w) s = runSlot formCvtF64 7 w (cvt 1) s := by rfl
theorem exec_cvtF32 (w : Slot) (s : State) : exec (.cvtF32 w) s = runSlot formCvtF32 7 w (cvt 2) s := by rfl
theorem exec_cvtF16 (w : Slot) (s : State) : exec (.cvtF16 w) s = runSlot formCvtF16 7 w (cvt 3) s := by rfl
theorem exec_cvtBf16 (w : Slot) (s : State) : exec (.cvtBf16 w) s = runSlot formCvtBf16 7 w (cvt 4) s := by rfl
theorem exec_cvtE4m3 (w : Slot) (s : State) : exec (.cvtE4m3 w) s = runSlot formCvtE4m3 7 w (cvt 5) s := by rfl
theorem exec_cvtE5m2 (w : Slot) (s : State) : exec (.cvtE5m2 w) s = runSlot formCvtE5m2 7 w (cvt 6) s := by rfl
theorem exec_cvtI32 (w : Slot) (s : State) : exec (.cvtI32 w) s = runSlot formCvtI32 7 w (cvt 7) s := by rfl
theorem exec_cvtI16 (w : Slot) (s : State) : exec (.cvtI16 w) s = runSlot formCvtI16 7 w (cvt 8) s := by rfl
theorem exec_cvtI8 (w : Slot) (s : State) : exec (.cvtI8 w) s = runSlot formCvtI8 7 w (cvt 9) s := by rfl
theorem exec_cvtI4 (w : Slot) (s : State) : exec (.cvtI4 w) s = runSlot formCvtI4 7 w (cvt 10) s := by rfl
theorem exec_cvtUn8 (w : Slot) (s : State) : exec (.cvtUn8 w) s = runSlot formCvtUn8 7 w (cvt 11) s := by rfl
theorem exec_cvtSrgb8 (w : Slot) (s : State) : exec (.cvtSrgb8 w) s = runSlot formCvtSrgb8 7 w (cvt 12) s := by rfl
theorem exec_cvtB1 (w : Slot) (s : State) : exec (.cvtB1 w) s = runSlot formCvtB1 7 w (cvt 13) s := by rfl
theorem exec_cvtE8m0 (w : Slot) (s : State) : exec (.cvtE8m0 w) s = runSlot formCvtE8m0 7 w (cvt 14) s := by rfl
theorem exec_cpack (w : Slot) (s : State) : exec (.cpack w) s = runSlot formCpack 7 w cPack s := by rfl
theorem exec_cunpack (w : Slot) (s : State) : exec (.cunpack w) s = runSlot formCunpack 7 w cUnpack s := by rfl
theorem exec_cpy (w : Slot) (s : State) : exec (.cpy w) s = runSlot formCpy 8 w yCpy s := by rfl
theorem exec_coll (w : Slot) (s : State) : exec (.coll w) s = runSlot formColl 8 w yColl s := by rfl
theorem exec_twait (w : Slot) (s : State) : exec (.twait w) s = runSlot formTwait 8 w (yTest true) s := by rfl
theorem exec_ttest (w : Slot) (s : State) : exec (.ttest w) s = runSlot formTtest 8 w (yTest false) s := by rfl
theorem exec_tcancel (w : Slot) (s : State) : exec (.tcancel w) s = runSlot formTcancel 8 w yTcancel s := by rfl
theorem exec_tdet (w : Slot) (s : State) : exec (.tdet w) s = runSlot formTdet 8 w yTdet s := by rfl
theorem exec_trel (w : Slot) (s : State) : exec (.trel w) s = runSlot formTrel 8 w yTrel s := by rfl
theorem exec_tprio (w : Slot) (s : State) : exec (.tprio w) s = runSlot formTprio 8 w yTprio s := by rfl
theorem exec_cntwaitMx (w : Slot) (s : State) : exec (.cntwaitMx w) s = runSlot formCntwaitMx 8 w (yCntwait 0) s := by rfl
theorem exec_cntwaitCp (w : Slot) (s : State) : exec (.cntwaitCp w) s = runSlot formCntwaitCp 8 w (yCntwait 1) s := by rfl
theorem exec_cntwaitCo (w : Slot) (s : State) : exec (.cntwaitCo w) s = runSlot formCntwaitCo 8 w (yCntwait 2) s := by rfl
theorem exec_qput (w : Slot) (s : State) : exec (.qput w) s = runSlot formQput 8 w yQput s := by rfl
theorem exec_rres (w : Slot) (s : State) : exec (.rres w) s = runSlot formRres 8 w yRres s := by rfl
theorem exec_rcommit (w : Slot) (s : State) : exec (.rcommit w) s = runSlot formRcommit 8 w yRcommit s := by rfl
theorem exec_rngseed (w : Slot) (s : State) : exec (.rngseed w) s = runSlot formRngseed 8 w yRngseed s := by rfl
theorem exec_bra (w : Slot) (s : State) : exec (.bra w) s = runSlot formBra 9 w bBra s := by rfl
theorem exec_brcAny (w : Slot) (s : State) : exec (.brcAny w) s = runSlot formBrcAny 9 w (bBrc 0) s := by rfl
theorem exec_brcAll (w : Slot) (s : State) : exec (.brcAll w) s = runSlot formBrcAll 9 w (bBrc 1) s := by rfl
theorem exec_brcNone (w : Slot) (s : State) : exec (.brcNone w) s = runSlot formBrcNone 9 w (bBrc 2) s := by rfl
theorem exec_brcNall (w : Slot) (s : State) : exec (.brcNall w) s = runSlot formBrcNall 9 w (bBrc 3) s := by rfl
theorem exec_brd (w : Slot) (s : State) : exec (.brd w) s = runSlot formBrd 9 w bBrd s := by rfl
theorem exec_join (w : Slot) (s : State) : exec (.join w) s = runSlot formJoin 9 w bJoin s := by rfl
theorem exec_call (w : Slot) (s : State) : exec (.call w) s = runSlot formCall 9 w bCall s := by rfl
theorem exec_ret (w : Slot) (s : State) : exec (.ret w) s = runSlot formRet 9 w bRet s := by rfl
theorem exec_chk (w : Slot) (s : State) : exec (.chk w) s = runSlot formChk 9 w bChkForm s := by rfl
theorem exec_yield (w : Slot) (s : State) : exec (.yield w) s = runSlot formYield 9 w bYield s := by rfl
theorem exec_exit (w : Slot) (s : State) : exec (.exit w) s = runSlot formExit 9 w bExit s := by rfl
theorem exec_lfill (w : Slot) (s : State) : exec (.lfill w) s = runSlot formLfill 9 w bLfill s := by rfl
theorem exec_bar (w : Slot) (s : State) : exec (.bar w) s = runSlot formBar 10 w (zBar 0) s := by rfl
theorem exec_barArrive (w : Slot) (s : State) : exec (.barArrive w) s = runSlot formBarArrive 10 w (zBar 1) s := by rfl
theorem exec_barWait (w : Slot) (s : State) : exec (.barWait w) s = runSlot formBarWait 10 w (zBar 2) s := by rfl
theorem exec_barbInit (w : Slot) (s : State) : exec (.barbInit w) s = runSlot formBarbInit 10 w (zBarb 0) s := by rfl
theorem exec_barbExpect (w : Slot) (s : State) : exec (.barbExpect w) s = runSlot formBarbExpect 10 w (zBarb 1) s := by rfl
theorem exec_barbArrive (w : Slot) (s : State) : exec (.barbArrive w) s = runSlot formBarbArrive 10 w (zBarb 2) s := by rfl
theorem exec_barbWait (w : Slot) (s : State) : exec (.barbWait w) s = runSlot formBarbWait 10 w (zBarb 3) s := by rfl
theorem exec_rbrel (w : Slot) (s : State) : exec (.rbrel w) s = runSlot formRbrel 10 w zRbrel s := by rfl
theorem exec_rbclaim (w : Slot) (s : State) : exec (.rbclaim w) s = runSlot formRbclaim 10 w zRbclaim s := by rfl
theorem exec_trap (w : Slot) (s : State) : exec (.trap w) s = runSlot formTrap 10 w zTrap s := by rfl
theorem exec_rte (w : Slot) (s : State) : exec (.rte w) s = runSlot formRte 10 w (zRte false) s := by rfl
theorem exec_rteSkip (w : Slot) (s : State) : exec (.rteSkip w) s = runSlot formRteSkip 10 w (zRte true) s := by rfl
theorem exec_bankmode (w : Slot) (s : State) : exec (.bankmode w) s = runSlot formBankmode 10 w zBankmode s := by rfl
theorem exec_prpub (w : Slot) (s : State) : exec (.prpub w) s = runSlot formPrpub 10 w zPrpub s := by rfl
theorem exec_posew (w : Slot) (s : State) : exec (.posew w) s = runSlot formPosew 10 w zPosew s := by rfl
theorem exec_tracemark (w : Slot) (s : State) : exec (.tracemark w) s = runSlot formTracemark 10 w zTracemark s := by rfl
theorem exec_brk (w : Slot) (s : State) : exec (.brk w) s = runSlot formBrk 10 w zBrk s := by rfl
theorem exec_waitevt (w : Slot) (s : State) : exec (.waitevt w) s = runSlot formWaitevt 10 w zWaitevt s := by rfl
theorem exec_enrd (w : Slot) (s : State) : exec (.enrd w) s = runSlot formEnrd 10 w zEnrd s := by rfl
theorem exec_slAdd (s : State) : exec .slAdd s = runSl (slInt2 (· + ·)) s := by rfl
theorem exec_slSub (s : State) : exec .slSub s = runSl (slInt2 (· - ·)) s := by rfl
theorem exec_slAnd (s : State) : exec .slAnd s = runSl (slInt2 (· &&& ·)) s := by rfl
theorem exec_slOr (s : State) : exec .slOr s = runSl (slInt2 (· ||| ·)) s := by rfl
theorem exec_slXor (s : State) : exec .slXor s = runSl (slInt2 (· ^^^ ·)) s := by rfl
theorem exec_slShl (s : State) : exec .slShl s = runSl (slInt2 shl) s := by rfl
theorem exec_slShr (s : State) : exec .slShr s = runSl (slInt2 shr) s := by rfl
theorem exec_slSar (s : State) : exec .slSar s = runSl (slInt2 sar) s := by rfl
theorem exec_slMin (s : State) : exec .slMin s = runSl (slInt2 minS) s := by rfl
theorem exec_slMax (s : State) : exec .slMax s = runSl (slInt2 maxS) s := by rfl
theorem exec_slSlt (s : State) : exec .slSlt s = runSl (slInt2 fun x y => if x.slt y then 1 else 0) s := by rfl
theorem exec_slSeq (s : State) : exec .slSeq s = runSl (slInt2 fun x y => if x = y then 1 else 0) s := by rfl
theorem exec_slAddi (s : State) : exec .slAddi s = runSl (mSlAddi) s := by rfl
theorem exec_slMovi (s : State) : exec .slMovi s = runSl (mSlMovi) s := by rfl
theorem exec_slMovl (s : State) : exec .slMovl s = runSl (mSlMovl) s := by rfl
theorem exec_slFadd (s : State) : exec .slFadd s = runSl (slF2 (fadd binary32 0)) s := by rfl
theorem exec_slFsub (s : State) : exec .slFsub s = runSl (slF2 (fsub binary32 0)) s := by rfl
theorem exec_slFmin (s : State) : exec .slFmin s = runSl (slF2 (fminmax false binary32)) s := by rfl
theorem exec_slFmax (s : State) : exec .slFmax s = runSl (slF2 (fminmax true binary32)) s := by rfl
theorem exec_slFslt (s : State) : exec .slFslt s = runSl (mSlFslt) s := by rfl
theorem exec_slF2i (s : State) : exec .slF2i s = runSl (slPure fun c => slF2i (f32 c.rx)) s := by rfl
theorem exec_slI2f (s : State) : exec .slI2f s = runSl (slPure fun c => slI2f c.rx) s := by rfl
theorem exec_slF2h (s : State) : exec .slF2h s = runSl (slPure fun c => slF2h c.rx c.ry) s := by rfl
theorem exec_slH2fl (s : State) : exec .slH2fl s = runSl (slPure fun c => slH2f c.rx.toNat) s := by rfl
theorem exec_slH2fh (s : State) : exec .slH2fh s = runSl (slPure fun c => slH2f (c.rx.toNat / 65536)) s := by rfl
theorem exec_slFmul (s : State) : exec .slFmul s = runSl (slF2 (fmul binary32 0)) s := by rfl
theorem exec_slFfma (s : State) : exec .slFfma s = runSl (mSlFfma) s := by rfl
theorem exec_slFdiv (s : State) : exec .slFdiv s = runSl (slF2 (fdiv binary32 0)) s := by rfl
theorem exec_slFrcp (s : State) : exec .slFrcp s = runSl (slF1 (frcp binary32 0)) s := by rfl
theorem exec_slFsqrt (s : State) : exec .slFsqrt s = runSl (slF1 (fsqrt binary32 0)) s := by rfl
theorem exec_slMFadd (s : State) : exec .slMFadd s = runSl (slF2 (fadd binary32 0)) s := by rfl
theorem exec_slMFsub (s : State) : exec .slMFsub s = runSl (slF2 (fsub binary32 0)) s := by rfl
theorem exec_slImul (s : State) : exec .slImul s = runSl (slInt2 (· * ·)) s := by rfl
theorem exec_slMMovi (s : State) : exec .slMMovi s = runSl (mSlMovi) s := by rfl
theorem exec_slMMovl (s : State) : exec .slMMovl s = runSl (mSlMovl) s := by rfl
theorem exec_slLdw (s : State) : exec .slLdw s = runSl (mSlLdw) s := by rfl
theorem exec_slStw (s : State) : exec .slStw s = runSl (mSlStw) s := by rfl
theorem exec_slOut (s : State) : exec .slOut s = runSl (mSlOut) s := by rfl
theorem exec_slLAdd (s : State) : exec .slLAdd s = runSl (slInt2 (· + ·)) s := by rfl
theorem exec_slLAddi (s : State) : exec .slLAddi s = runSl (mSlAddi) s := by rfl
theorem exec_slLMovi (s : State) : exec .slLMovi s = runSl (mSlMovi) s := by rfl
theorem exec_slLMovl (s : State) : exec .slLMovl s = runSl (mSlMovl) s := by rfl
theorem exec_slSampBl (s : State) : exec .slSampBl s = runSl (slSample true) s := by rfl
theorem exec_slSampPt (s : State) : exec .slSampPt s = runSl (slSample false) s := by rfl
theorem exec_slXferA (s : State) : exec .slXferA s = runSl (slXfer 0) s := by rfl
theorem exec_slXferB (s : State) : exec .slXferB s = runSl (slXfer 1) s := by rfl
theorem exec_slXferM (s : State) : exec .slXferM s = runSl (slXfer 2) s := by rfl
theorem exec_slXferL (s : State) : exec .slXferL s = runSl (slXfer 3) s := by rfl
theorem exec_slXferW (s : State) : exec .slXferW s = runSl (slXfer 4) s := by rfl
theorem exec_slXferC (s : State) : exec .slXferC s = runSl (slXfer 5) s := by rfl
theorem exec_slBr (s : State) : exec .slBr s = runSl (mSlBr) s := by rfl
theorem exec_slBrnz (s : State) : exec .slBrnz s = runSl (slBranch false) s := by rfl
theorem exec_slBrz (s : State) : exec .slBrz s = runSl (slBranch true) s := by rfl
theorem exec_slWait (s : State) : exec .slWait s = runSl (slWaitMode 0) s := by rfl
theorem exec_slWaitMb (s : State) : exec .slWaitMb s = runSl (slWaitMode 1) s := by rfl
theorem exec_slWaitFr (s : State) : exec .slWaitFr s = runSl (slWaitMode 2) s := by rfl
theorem exec_slWaitFifo (s : State) : exec .slWaitFifo s = runSl (slWaitMode 3) s := by rfl
theorem exec_slFetch (s : State) : exec .slFetch s = runSl (mSlFetch) s := by rfl
theorem exec_slOxcall (s : State) : exec .slOxcall s = runSl (mSlOxcall) s := by rfl
theorem exec_slPose (s : State) : exec .slPose s = runSl (mSlPose) s := by rfl
theorem exec_slSys (s : State) : exec .slSys s = runSl (mSlSys) s := by rfl
theorem exec_slCMovi (s : State) : exec .slCMovi s = runSl (mSlMovi) s := by rfl
theorem exec_slCMovl (s : State) : exec .slCMovl s = runSl (mSlMovl) s := by rfl
theorem exec_slCAddi (s : State) : exec .slCAddi s = runSl (mSlAddi) s := by rfl
theorem exec_slDone (s : State) : exec .slDone s = runSl (mSlDone) s := by rfl

end Sys2Proof.Laws
end

