-- ==== Sys2Proof/Laws/PerInstr.lean ====
section
/-! SUPPORT. For every row that is a slot: its well-formed fields select it among the rows of its class and opcode (R52, R77). -/

namespace Sys2Proof.Laws.EncodingRoundTrip

open Sys2Proof.Machine

/-- A well-formed slot's class, opcode and fields select its own row, which makes it again. -/
def Statement (i : Instr) : Prop :=
  ∀ f cls w, slotOf i = some (f, cls, w) → i.wf = true →
    ∃ r, rowAt cls f.op ⟨w.d, w.a, w.b, w.imm.isSome⟩ = some r ∧ r.form = f ∧ r.make w = i

/-- From a row that the fields select. -/
theorem of_row {i : Instr} {f : Form} {cls : Nat} {w : Slot} {mk : Slot → Instr} (h : slotOf i = some (f, cls, w))
    (hr : (chosen f cls w && slotOk f w) = true → rowAt cls f.op ⟨w.d, w.a, w.b, w.imm.isSome⟩ = some ⟨f, mk⟩) (hi : mk w = i) :
    Statement i := by
  intro f' cls' w' h' hw
  obtain ⟨rfl, rfl, rfl⟩ : f = f' ∧ cls = cls' ∧ w = w' := by simpa [h] using h'
  exact ⟨_, hr (by simpa [Instr.wf, h] using hw), rfl, hi⟩

/-- The fields that a form fixes. -/
theorem fix_a {f : Form} {cls n : Nat} {w : Slot} (hf : f.a = .fix n) (h : (chosen f cls w && slotOk f w) = true) : w.a.toNat = n := by
  simp [slotOk, hf, opdOk] at h
  exact h.2.1.1.1.2
theorem fix_d {f : Form} {cls n : Nat} {w : Slot} (hf : f.d = .fix n) (h : (chosen f cls w && slotOk f w) = true) : w.d.toNat = n := by
  simp [slotOk, hf, opdOk] at h
  exact h.2.1.1.1.1
theorem low_d {f : Form} {cls n : Nat} {w : Slot} (hf : f.d = .low4 n) (h : (chosen f cls w && slotOk f w) = true) : w.d.toNat / 16 = n := by
  simp [slotOk, hf, opdOk] at h
  exact h.2.1.1.1.1
theorem fix_imm {f : Form} {cls : Nat} {w : Slot} (hf : f.imm = .none) (h : (chosen f cls w && slotOk f w) = true) : w.imm = none := by
  cases hm : w.imm with
  | none => rfl
  | some x => simp [slotOk, hf, hm, immOk] at h
theorem fix_b {f : Form} {cls n : Nat} {w : Slot} (hf : f.b = .fix n) (hi : f.imm = .none) (h : (chosen f cls w && slotOk f w) = true) :
    w.b.toNat = n := by
  have hm := fix_imm hi h
  simp [slotOk, hf, hm, opdOk] at h
  exact h.2.1.2

/-- Of a row that is no slot. -/
theorem of_none {i : Instr} (h : slotOf i = none) : Statement i := by
  intro f cls w h'
  simp [h] at h'

theorem uadd (w : Slot) : Statement (.uadd w) := of_row rfl (fun _ => rfl) rfl
theorem usub (w : Slot) : Statement (.usub w) := of_row rfl (fun _ => rfl) rfl
theorem umul (w : Slot) : Statement (.umul w) := of_row rfl (fun _ => rfl) rfl
theorem umulhS (w : Slot) : Statement (.umulhS w) := of_row rfl (fun _ => rfl) rfl
theorem umulhU (w : Slot) : Statement (.umulhU w) := of_row rfl (fun _ => rfl) rfl
theorem uand (w : Slot) : Statement (.uand w) := of_row rfl (fun _ => rfl) rfl
theorem uor (w : Slot) : Statement (.uor w) := of_row rfl (fun _ => rfl) rfl
theorem uxor (w : Slot) : Statement (.uxor w) := of_row rfl (fun _ => rfl) rfl
theorem ushl (w : Slot) : Statement (.ushl w) := of_row rfl (fun _ => rfl) rfl
theorem ushr (w : Slot) : Statement (.ushr w) := of_row rfl (fun _ => rfl) rfl
theorem usar (w : Slot) : Statement (.usar w) := of_row rfl (fun _ => rfl) rfl
theorem uminS (w : Slot) : Statement (.uminS w) := of_row rfl (fun _ => rfl) rfl
theorem uminU (w : Slot) : Statement (.uminU w) := of_row rfl (fun _ => rfl) rfl
theorem umaxS (w : Slot) : Statement (.umaxS w) := of_row rfl (fun _ => rfl) rfl
theorem umaxU (w : Slot) : Statement (.umaxU w) := of_row rfl (fun _ => rfl) rfl
theorem ucmpS (w : Slot) : Statement (.ucmpS w) := of_row rfl (fun _ => rfl) rfl
theorem ucmpU (w : Slot) : Statement (.ucmpU w) := of_row rfl (fun _ => rfl) rfl
theorem usel (w : Slot) : Statement (.usel w) := of_row rfl (fun _ => rfl) rfl
theorem umov (w : Slot) : Statement (.umov w) := of_row (mk := .umov) rfl (fun h => by obtain ⟨_, _, _, _, _, imm, _⟩ := w; obtain rfl := fix_imm (f := formUmov) rfl h; rfl) rfl
theorem umovImm (w : Slot) : Statement (.umovImm w) := of_row (mk := .umovImm) rfl (fun h => by obtain ⟨_, _, _, a, _, imm, _⟩ := w; obtain rfl : a = 0 := BitVec.eq_of_toNat_eq (fix_a (f := formUmovImm) rfl h); cases imm with
    | none => simp [chosen, formUmovImm] at h
    | some x => rfl) rfl
theorem umovHi (w : Slot) : Statement (.umovHi w) := of_row (mk := .umovHi) rfl (fun h => by obtain ⟨_, _, _, a, _, imm, _⟩ := w; obtain rfl : a = 1 := BitVec.eq_of_toNat_eq (fix_a (f := formUmovHi) rfl h); cases imm with
    | none => simp [chosen, formUmovHi] at h
    | some x => rfl) rfl
theorem umovw (w : Slot) : Statement (.umovw w) := of_row rfl (fun _ => rfl) rfl
theorem uldx (w : Slot) : Statement (.uldx w) := of_row rfl (fun _ => rfl) rfl
theorem ustx (w : Slot) : Statement (.ustx w) := of_row rfl (fun _ => rfl) rfl
theorem upopc (w : Slot) : Statement (.upopc w) := of_row rfl (fun _ => rfl) rfl
theorem uclz (w : Slot) : Statement (.uclz w) := of_row rfl (fun _ => rfl) rfl
theorem ubfx (w : Slot) : Statement (.ubfx w) := of_row rfl (fun _ => rfl) rfl
theorem ubfi (w : Slot) : Statement (.ubfi w) := of_row rfl (fun _ => rfl) rfl
theorem urds (w : Slot) : Statement (.urds w) := of_row rfl (fun _ => rfl) rfl
theorem uwrs (w : Slot) : Statement (.uwrs w) := of_row rfl (fun _ => rfl) rfl
theorem vadd (u : VUnit) (w : Slot) : Statement (.vadd u w) := by cases u <;> exact of_row rfl (fun _ => rfl) rfl
theorem vsub (u : VUnit) (w : Slot) : Statement (.vsub u w) := by cases u <;> exact of_row rfl (fun _ => rfl) rfl
theorem vmul (u : VUnit) (w : Slot) : Statement (.vmul u w) := by cases u <;> exact of_row rfl (fun _ => rfl) rfl
theorem vmulhS (u : VUnit) (w : Slot) : Statement (.vmulhS u w) := by cases u <;> exact of_row rfl (fun _ => rfl) rfl
theorem vmulhU (u : VUnit) (w : Slot) : Statement (.vmulhU u w) := by cases u <;> exact of_row rfl (fun _ => rfl) rfl
theorem vand (u : VUnit) (w : Slot) : Statement (.vand u w) := by cases u <;> exact of_row rfl (fun _ => rfl) rfl
theorem vor (u : VUnit) (w : Slot) : Statement (.vor u w) := by cases u <;> exact of_row rfl (fun _ => rfl) rfl
theorem vxor (u : VUnit) (w : Slot) : Statement (.vxor u w) := by cases u <;> exact of_row rfl (fun _ => rfl) rfl
theorem vshl (u : VUnit) (w : Slot) : Statement (.vshl u w) := by cases u <;> exact of_row rfl (fun _ => rfl) rfl
theorem vshr (u : VUnit) (w : Slot) : Statement (.vshr u w) := by cases u <;> exact of_row rfl (fun _ => rfl) rfl
theorem vsar (u : VUnit) (w : Slot) : Statement (.vsar u w) := by cases u <;> exact of_row rfl (fun _ => rfl) rfl
theorem vminS (u : VUnit) (w : Slot) : Statement (.vminS u w) := by cases u <;> exact of_row rfl (fun _ => rfl) rfl
theorem vminU (u : VUnit) (w : Slot) : Statement (.vminU u w) := by cases u <;> exact of_row rfl (fun _ => rfl) rfl
theorem vmaxS (u : VUnit) (w : Slot) : Statement (.vmaxS u w) := by cases u <;> exact of_row rfl (fun _ => rfl) rfl
theorem vmaxU (u : VUnit) (w : Slot) : Statement (.vmaxU u w) := by cases u <;> exact of_row rfl (fun _ => rfl) rfl
theorem vclz (u : VUnit) (w : Slot) : Statement (.vclz u w) := by cases u <;> exact of_row rfl (fun _ => rfl) rfl
theorem vpopc (u : VUnit) (w : Slot) : Statement (.vpopc u w) := by cases u <;> exact of_row rfl (fun _ => rfl) rfl
theorem vbfx (u : VUnit) (w : Slot) : Statement (.vbfx u w) := by cases u <;> exact of_row rfl (fun _ => rfl) rfl
theorem vbfi (u : VUnit) (w : Slot) : Statement (.vbfi u w) := by cases u <;> exact of_row rfl (fun _ => rfl) rfl
theorem vsel (u : VUnit) (w : Slot) : Statement (.vsel u w) := by cases u <;> exact of_row rfl (fun _ => rfl) rfl
theorem vcmpS (u : VUnit) (w : Slot) : Statement (.vcmpS u w) := by cases u <;> exact of_row rfl (fun _ => rfl) rfl
theorem vcmpU (u : VUnit) (w : Slot) : Statement (.vcmpU u w) := by cases u <;> exact of_row rfl (fun _ => rfl) rfl
theorem fcmpF32 (u : VUnit) (w : Slot) : Statement (.fcmpF32 u w) := by cases u <;> exact of_row rfl (fun _ => rfl) rfl
theorem fcmpF64 (u : VUnit) (w : Slot) : Statement (.fcmpF64 u w) := by cases u <;> exact of_row rfl (fun _ => rfl) rfl
theorem faddF32 (u : VUnit) (w : Slot) : Statement (.faddF32 u w) := by cases u <;> exact of_row rfl (fun _ => rfl) rfl
theorem fsubF32 (u : VUnit) (w : Slot) : Statement (.fsubF32 u w) := by cases u <;> exact of_row rfl (fun _ => rfl) rfl
theorem fmulF32 (u : VUnit) (w : Slot) : Statement (.fmulF32 u w) := by cases u <;> exact of_row rfl (fun _ => rfl) rfl
theorem ffmaF32 (u : VUnit) (w : Slot) : Statement (.ffmaF32 u w) := by cases u <;> exact of_row rfl (fun _ => rfl) rfl
theorem fminF32 (u : VUnit) (w : Slot) : Statement (.fminF32 u w) := by cases u <;> exact of_row rfl (fun _ => rfl) rfl
theorem fmaxF32 (u : VUnit) (w : Slot) : Statement (.fmaxF32 u w) := by cases u <;> exact of_row rfl (fun _ => rfl) rfl
theorem fdivF32 (u : VUnit) (w : Slot) : Statement (.fdivF32 u w) := by cases u <;> exact of_row rfl (fun _ => rfl) rfl
theorem fsqrtF32 (u : VUnit) (w : Slot) : Statement (.fsqrtF32 u w) := by cases u <;> exact of_row rfl (fun _ => rfl) rfl
theorem frcpF32 (u : VUnit) (w : Slot) : Statement (.frcpF32 u w) := by cases u <;> exact of_row rfl (fun _ => rfl) rfl
theorem frsqF32 (u : VUnit) (w : Slot) : Statement (.frsqF32 u w) := by cases u <;> exact of_row rfl (fun _ => rfl) rfl
theorem fexp2F32 (u : VUnit) (w : Slot) : Statement (.fexp2F32 u w) := by cases u <;> exact of_row rfl (fun _ => rfl) rfl
theorem flog2F32 (u : VUnit) (w : Slot) : Statement (.flog2F32 u w) := by cases u <;> exact of_row rfl (fun _ => rfl) rfl
theorem fsinF32 (u : VUnit) (w : Slot) : Statement (.fsinF32 u w) := by cases u <;> exact of_row rfl (fun _ => rfl) rfl
theorem fcosF32 (u : VUnit) (w : Slot) : Statement (.fcosF32 u w) := by cases u <;> exact of_row rfl (fun _ => rfl) rfl
theorem faddF16 (u : VUnit) (w : Slot) : Statement (.faddF16 u w) := by cases u <;> exact of_row rfl (fun _ => rfl) rfl
theorem fsubF16 (u : VUnit) (w : Slot) : Statement (.fsubF16 u w) := by cases u <;> exact of_row rfl (fun _ => rfl) rfl
theorem fmulF16 (u : VUnit) (w : Slot) : Statement (.fmulF16 u w) := by cases u <;> exact of_row rfl (fun _ => rfl) rfl
theorem ffmaF16 (u : VUnit) (w : Slot) : Statement (.ffmaF16 u w) := by cases u <;> exact of_row rfl (fun _ => rfl) rfl
theorem faddF64 (u : VUnit) (w : Slot) : Statement (.faddF64 u w) := by cases u <;> exact of_row rfl (fun _ => rfl) rfl
theorem fsubF64 (u : VUnit) (w : Slot) : Statement (.fsubF64 u w) := by cases u <;> exact of_row rfl (fun _ => rfl) rfl
theorem fmulF64 (u : VUnit) (w : Slot) : Statement (.fmulF64 u w) := by cases u <;> exact of_row rfl (fun _ => rfl) rfl
theorem ffmaF64 (u : VUnit) (w : Slot) : Statement (.ffmaF64 u w) := by cases u <;> exact of_row rfl (fun _ => rfl) rfl
theorem fminF64 (u : VUnit) (w : Slot) : Statement (.fminF64 u w) := by cases u <;> exact of_row rfl (fun _ => rfl) rfl
theorem fmaxF64 (u : VUnit) (w : Slot) : Statement (.fmaxF64 u w) := by cases u <;> exact of_row rfl (fun _ => rfl) rfl
theorem fdivF64 (u : VUnit) (w : Slot) : Statement (.fdivF64 u w) := by cases u <;> exact of_row rfl (fun _ => rfl) rfl
theorem fsqrtF64 (u : VUnit) (w : Slot) : Statement (.fsqrtF64 u w) := by cases u <;> exact of_row rfl (fun _ => rfl) rfl
theorem frcpF64 (u : VUnit) (w : Slot) : Statement (.frcpF64 u w) := by cases u <;> exact of_row rfl (fun _ => rfl) rfl
theorem frsqF64 (u : VUnit) (w : Slot) : Statement (.frsqF64 u w) := by cases u <;> exact of_row rfl (fun _ => rfl) rfl
theorem pand (u : VUnit) (w : Slot) : Statement (.pand u w) := by cases u <;> exact of_row rfl (fun _ => rfl) rfl
theorem por (u : VUnit) (w : Slot) : Statement (.por u w) := by cases u <;> exact of_row rfl (fun _ => rfl) rfl
theorem pxor (u : VUnit) (w : Slot) : Statement (.pxor u w) := by cases u <;> exact of_row rfl (fun _ => rfl) rfl
theorem pnot (u : VUnit) (w : Slot) : Statement (.pnot u w) := by cases u <;> exact of_row rfl (fun _ => rfl) rfl
theorem vshuf (u : VUnit) (w : Slot) : Statement (.vshuf u w) := by cases u <;> exact of_row rfl (fun _ => rfl) rfl
theorem vbcast (u : VUnit) (w : Slot) : Statement (.vbcast u w) := by
  cases u
  all_goals exact of_row (mk := .vbcast _) rfl (fun h => by obtain ⟨_, _, _, _, x, _, _⟩ := w; obtain rfl : x = 0 := BitVec.eq_of_toNat_eq (fix_b (f := formVbcast) rfl rfl h); rfl) rfl
theorem vbcastLane (u : VUnit) (w : Slot) : Statement (.vbcastLane u w) := by
  cases u
  all_goals exact of_row (mk := .vbcastLane _) rfl (fun h => by obtain ⟨_, _, _, _, x, _, _⟩ := w; obtain rfl : x = 1 := BitVec.eq_of_toNat_eq (fix_b (f := formVbcastLane) rfl rfl h); rfl) rfl
theorem vred (u : VUnit) (w : Slot) : Statement (.vred u w) := by cases u <;> exact of_row rfl (fun _ => rfl) rfl
theorem vvote (u : VUnit) (w : Slot) : Statement (.vvote u w) := by cases u <;> exact of_row rfl (fun _ => rfl) rfl
theorem vqdx (u : VUnit) (w : Slot) : Statement (.vqdx u w) := by cases u <;> exact of_row rfl (fun _ => rfl) rfl
theorem vqdy (u : VUnit) (w : Slot) : Statement (.vqdy u w) := by cases u <;> exact of_row rfl (fun _ => rfl) rfl
theorem ldB8 (w : Slot) : Statement (.ldB8 w) := of_row rfl (fun _ => rfl) rfl
theorem ldS8 (w : Slot) : Statement (.ldS8 w) := of_row rfl (fun _ => rfl) rfl
theorem ldB16 (w : Slot) : Statement (.ldB16 w) := of_row rfl (fun _ => rfl) rfl
theorem ldS16 (w : Slot) : Statement (.ldS16 w) := of_row rfl (fun _ => rfl) rfl
theorem ldB32 (w : Slot) : Statement (.ldB32 w) := of_row rfl (fun _ => rfl) rfl
theorem ldB64 (w : Slot) : Statement (.ldB64 w) := of_row rfl (fun _ => rfl) rfl
theorem stB8 (w : Slot) : Statement (.stB8 w) := of_row rfl (fun _ => rfl) rfl
theorem stB16 (w : Slot) : Statement (.stB16 w) := of_row rfl (fun _ => rfl) rfl
theorem stB32 (w : Slot) : Statement (.stB32 w) := of_row rfl (fun _ => rfl) rfl
theorem stB64 (w : Slot) : Statement (.stB64 w) := of_row rfl (fun _ => rfl) rfl
theorem ldsB8 (w : Slot) : Statement (.ldsB8 w) := of_row rfl (fun _ => rfl) rfl
theorem ldsS8 (w : Slot) : Statement (.ldsS8 w) := of_row rfl (fun _ => rfl) rfl
theorem ldsB16 (w : Slot) : Statement (.ldsB16 w) := of_row rfl (fun _ => rfl) rfl
theorem ldsS16 (w : Slot) : Statement (.ldsS16 w) := of_row rfl (fun _ => rfl) rfl
theorem ldsB32 (w : Slot) : Statement (.ldsB32 w) := of_row rfl (fun _ => rfl) rfl
theorem ldsB64 (w : Slot) : Statement (.ldsB64 w) := of_row rfl (fun _ => rfl) rfl
theorem ldpB8 (w : Slot) : Statement (.ldpB8 w) := of_row rfl (fun _ => rfl) rfl
theorem ldpS8 (w : Slot) : Statement (.ldpS8 w) := of_row rfl (fun _ => rfl) rfl
theorem ldpB16 (w : Slot) : Statement (.ldpB16 w) := of_row rfl (fun _ => rfl) rfl
theorem ldpS16 (w : Slot) : Statement (.ldpS16 w) := of_row rfl (fun _ => rfl) rfl
theorem ldpB32 (w : Slot) : Statement (.ldpB32 w) := of_row rfl (fun _ => rfl) rfl
theorem ldpB64 (w : Slot) : Statement (.ldpB64 w) := of_row rfl (fun _ => rfl) rfl
theorem stpB8 (w : Slot) : Statement (.stpB8 w) := of_row rfl (fun _ => rfl) rfl
theorem stpB16 (w : Slot) : Statement (.stpB16 w) := of_row rfl (fun _ => rfl) rfl
theorem stpB32 (w : Slot) : Statement (.stpB32 w) := of_row rfl (fun _ => rfl) rfl
theorem stpB64 (w : Slot) : Statement (.stpB64 w) := of_row rfl (fun _ => rfl) rfl
theorem ldt (w : Slot) : Statement (.ldt w) := of_row rfl (fun _ => rfl) rfl
theorem stt (w : Slot) : Statement (.stt w) := of_row rfl (fun _ => rfl) rfl
theorem fence (w : Slot) : Statement (.fence w) := of_row rfl (fun _ => rfl) rfl
theorem drain (w : Slot) : Statement (.drain w) := of_row rfl (fun _ => rfl) rfl
theorem pref (w : Slot) : Statement (.pref w) := of_row rfl (fun _ => rfl) rfl
theorem atomAdd (w : Slot) : Statement (.atomAdd w) := of_row rfl (fun _ => rfl) rfl
theorem atomMinS (w : Slot) : Statement (.atomMinS w) := of_row rfl (fun _ => rfl) rfl
theorem atomMinU (w : Slot) : Statement (.atomMinU w) := of_row rfl (fun _ => rfl) rfl
theorem atomMaxS (w : Slot) : Statement (.atomMaxS w) := of_row rfl (fun _ => rfl) rfl
theorem atomMaxU (w : Slot) : Statement (.atomMaxU w) := of_row rfl (fun _ => rfl) rfl
theorem atomAnd (w : Slot) : Statement (.atomAnd w) := of_row rfl (fun _ => rfl) rfl
theorem atomOr (w : Slot) : Statement (.atomOr w) := of_row rfl (fun _ => rfl) rfl
theorem atomXor (w : Slot) : Statement (.atomXor w) := of_row rfl (fun _ => rfl) rfl
theorem atomExch (w : Slot) : Statement (.atomExch w) := of_row rfl (fun _ => rfl) rfl
theorem atomAddB64 (w : Slot) : Statement (.atomAddB64 w) := of_row rfl (fun _ => rfl) rfl
theorem atomExchB64 (w : Slot) : Statement (.atomExchB64 w) := of_row rfl (fun _ => rfl) rfl
theorem atomFaddF32 (w : Slot) : Statement (.atomFaddF32 w) := of_row rfl (fun _ => rfl) rfl
theorem atomFminF32 (w : Slot) : Statement (.atomFminF32 w) := of_row rfl (fun _ => rfl) rfl
theorem atomFmaxF32 (w : Slot) : Statement (.atomFmaxF32 w) := of_row rfl (fun _ => rfl) rfl
theorem atomcB32 (w : Slot) : Statement (.atomcB32 w) := of_row rfl (fun _ => rfl) rfl
theorem atomcB64 (w : Slot) : Statement (.atomcB64 w) := of_row rfl (fun _ => rfl) rfl
theorem fifopush (w : Slot) : Statement (.fifopush w) := of_row rfl (fun _ => rfl) rfl
theorem fifopop (w : Slot) : Statement (.fifopop w) := of_row rfl (fun _ => rfl) rfl
theorem grstep (w : Slot) : Statement (.grstep w) := of_row rfl (fun _ => rfl) rfl
theorem gbox (w : Slot) : Statement (.gbox w) := of_row rfl (fun _ => rfl) rfl
theorem gtri2 (w : Slot) : Statement (.gtri2 w) := of_row rfl (fun _ => rfl) rfl
theorem gcurve (w : Slot) : Statement (.gcurve w) := of_row rfl (fun _ => rfl) rfl
theorem gpsplit (w : Slot) : Statement (.gpsplit w) := of_row rfl (fun _ => rfl) rfl
theorem gpflat (w : Slot) : Statement (.gpflat w) := of_row rfl (fun _ => rfl) rfl
theorem gtex (w : Slot) : Statement (.gtex w) := of_row rfl (fun _ => rfl) rfl
theorem gtexl (w : Slot) : Statement (.gtexl w) := of_row rfl (fun _ => rfl) rfl
theorem gpublish (w : Slot) : Statement (.gpublish w) := of_row rfl (fun _ => rfl) rfl
theorem mxdef (w : Slot) : Statement (.mxdef w) := of_row (mk := .mxdef) rfl (fun h => if_neg (by simp [chosen, formMxdef] at h; exact h.1)) rfl
theorem mxdefRel (w : Slot) : Statement (.mxdefRel w) := of_row (mk := .mxdefRel) rfl (fun h => by obtain ⟨_, _, _, x, _, _, _⟩ := w; obtain rfl : x = 63 := BitVec.eq_of_toNat_eq (fix_a (f := formMxdefRel) rfl h); rfl) rfl
theorem mxcall (w : Slot) : Statement (.mxcall w) := of_row rfl (fun _ => rfl) rfl
theorem mxparm (w : Slot) : Statement (.mxparm w) := of_row rfl (fun _ => rfl) rfl
theorem mxacc (w : Slot) : Statement (.mxacc w) := of_row rfl (fun _ => rfl) rfl
theorem mxzero (w : Slot) : Statement (.mxzero w) := of_row rfl (fun _ => rfl) rfl
theorem kset (w : Slot) : Statement (.kset w) := of_row rfl (fun _ => rfl) rfl
theorem kld (w : Slot) : Statement (.kld w) := of_row rfl (fun _ => rfl) rfl
theorem cvtF64 (w : Slot) : Statement (.cvtF64 w) := of_row rfl (fun _ => rfl) rfl
theorem cvtF32 (w : Slot) : Statement (.cvtF32 w) := of_row rfl (fun _ => rfl) rfl
theorem cvtF16 (w : Slot) : Statement (.cvtF16 w) := of_row rfl (fun _ => rfl) rfl
theorem cvtBf16 (w : Slot) : Statement (.cvtBf16 w) := of_row rfl (fun _ => rfl) rfl
theorem cvtE4m3 (w : Slot) : Statement (.cvtE4m3 w) := of_row rfl (fun _ => rfl) rfl
theorem cvtE5m2 (w : Slot) : Statement (.cvtE5m2 w) := of_row rfl (fun _ => rfl) rfl
theorem cvtI32 (w : Slot) : Statement (.cvtI32 w) := of_row rfl (fun _ => rfl) rfl
theorem cvtI16 (w : Slot) : Statement (.cvtI16 w) := of_row rfl (fun _ => rfl) rfl
theorem cvtI8 (w : Slot) : Statement (.cvtI8 w) := of_row rfl (fun _ => rfl) rfl
theorem cvtI4 (w : Slot) : Statement (.cvtI4 w) := of_row rfl (fun _ => rfl) rfl
theorem cvtUn8 (w : Slot) : Statement (.cvtUn8 w) := of_row rfl (fun _ => rfl) rfl
theorem cvtSrgb8 (w : Slot) : Statement (.cvtSrgb8 w) := of_row rfl (fun _ => rfl) rfl
theorem cvtB1 (w : Slot) : Statement (.cvtB1 w) := of_row rfl (fun _ => rfl) rfl
theorem cvtE8m0 (w : Slot) : Statement (.cvtE8m0 w) := of_row rfl (fun _ => rfl) rfl
theorem cpack (w : Slot) : Statement (.cpack w) := of_row rfl (fun _ => rfl) rfl
theorem cunpack (w : Slot) : Statement (.cunpack w) := of_row rfl (fun _ => rfl) rfl
theorem cpy (w : Slot) : Statement (.cpy w) := of_row rfl (fun _ => rfl) rfl
theorem coll (w : Slot) : Statement (.coll w) := of_row rfl (fun _ => rfl) rfl
theorem twait (w : Slot) : Statement (.twait w) := of_row rfl (fun _ => rfl) rfl
theorem ttest (w : Slot) : Statement (.ttest w) := of_row rfl (fun _ => rfl) rfl
theorem tcancel (w : Slot) : Statement (.tcancel w) := of_row rfl (fun _ => rfl) rfl
theorem tdet (w : Slot) : Statement (.tdet w) := of_row rfl (fun _ => rfl) rfl
theorem trel (w : Slot) : Statement (.trel w) := of_row rfl (fun _ => rfl) rfl
theorem tprio (w : Slot) : Statement (.tprio w) := of_row rfl (fun _ => rfl) rfl
theorem cntwaitMx (w : Slot) : Statement (.cntwaitMx w) := of_row (mk := .cntwaitMx) rfl (fun h => by obtain ⟨_, _, _, x, _, _, _⟩ := w; obtain rfl : x = 0 := BitVec.eq_of_toNat_eq (fix_a (f := formCntwaitMx) rfl h); rfl) rfl
theorem cntwaitCp (w : Slot) : Statement (.cntwaitCp w) := of_row (mk := .cntwaitCp) rfl (fun h => by obtain ⟨_, _, _, x, _, _, _⟩ := w; obtain rfl : x = 1 := BitVec.eq_of_toNat_eq (fix_a (f := formCntwaitCp) rfl h); rfl) rfl
theorem cntwaitCo (w : Slot) : Statement (.cntwaitCo w) := of_row (mk := .cntwaitCo) rfl (fun h => by obtain ⟨_, _, _, x, _, _, _⟩ := w; obtain rfl : x = 2 := BitVec.eq_of_toNat_eq (fix_a (f := formCntwaitCo) rfl h); rfl) rfl
theorem qput (w : Slot) : Statement (.qput w) := of_row rfl (fun _ => rfl) rfl
theorem rres (w : Slot) : Statement (.rres w) := of_row rfl (fun _ => rfl) rfl
theorem rcommit (w : Slot) : Statement (.rcommit w) := of_row rfl (fun _ => rfl) rfl
theorem rngseed (w : Slot) : Statement (.rngseed w) := of_row rfl (fun _ => rfl) rfl
theorem bra (w : Slot) : Statement (.bra w) := of_row rfl (fun _ => rfl) rfl
theorem brcAny (w : Slot) : Statement (.brcAny w) := of_row (mk := .brcAny) rfl (fun h => by obtain ⟨_, _, x, _, _, _, _⟩ := w; obtain rfl : x = 0 := BitVec.eq_of_toNat_eq (fix_d (f := formBrcAny) rfl h); rfl) rfl
theorem brcAll (w : Slot) : Statement (.brcAll w) := of_row (mk := .brcAll) rfl (fun h => by obtain ⟨_, _, x, _, _, _, _⟩ := w; obtain rfl : x = 1 := BitVec.eq_of_toNat_eq (fix_d (f := formBrcAll) rfl h); rfl) rfl
theorem brcNone (w : Slot) : Statement (.brcNone w) := of_row (mk := .brcNone) rfl (fun h => by obtain ⟨_, _, x, _, _, _, _⟩ := w; obtain rfl : x = 2 := BitVec.eq_of_toNat_eq (fix_d (f := formBrcNone) rfl h); rfl) rfl
theorem brcNall (w : Slot) : Statement (.brcNall w) := of_row (mk := .brcNall) rfl (fun h => by obtain ⟨_, _, x, _, _, _, _⟩ := w; obtain rfl : x = 3 := BitVec.eq_of_toNat_eq (fix_d (f := formBrcNall) rfl h); rfl) rfl
theorem brd (w : Slot) : Statement (.brd w) := of_row rfl (fun _ => rfl) rfl
theorem join (w : Slot) : Statement (.join w) := of_row rfl (fun _ => rfl) rfl
theorem call (w : Slot) : Statement (.call w) := of_row rfl (fun _ => rfl) rfl
theorem ret (w : Slot) : Statement (.ret w) := of_row rfl (fun _ => rfl) rfl
theorem chk (w : Slot) : Statement (.chk w) := of_row rfl (fun _ => rfl) rfl
theorem yield (w : Slot) : Statement (.yield w) := of_row rfl (fun _ => rfl) rfl
theorem exit (w : Slot) : Statement (.exit w) := of_row rfl (fun _ => rfl) rfl
theorem lfill (w : Slot) : Statement (.lfill w) := of_row rfl (fun _ => rfl) rfl
theorem bar (w : Slot) : Statement (.bar w) := of_row (mk := .bar) rfl (fun h => by obtain ⟨_, _, _, x, _, _, _⟩ := w; obtain rfl : x = 0 := BitVec.eq_of_toNat_eq (fix_a (f := formBar) rfl h); rfl) rfl
theorem barArrive (w : Slot) : Statement (.barArrive w) := of_row (mk := .barArrive) rfl (fun h => by obtain ⟨_, _, _, x, _, _, _⟩ := w; obtain rfl : x = 1 := BitVec.eq_of_toNat_eq (fix_a (f := formBarArrive) rfl h); rfl) rfl
theorem barWait (w : Slot) : Statement (.barWait w) := of_row (mk := .barWait) rfl (fun h => by obtain ⟨_, _, _, x, _, _, _⟩ := w; obtain rfl : x = 2 := BitVec.eq_of_toNat_eq (fix_a (f := formBarWait) rfl h); rfl) rfl
theorem barbInit (w : Slot) : Statement (.barbInit w) := of_row (mk := .barbInit) rfl (fun h => by
    have := low_d (f := formBarbInit) (n := 0) rfl h
    exact if_pos (by simp [BitVec.lt_def]; omega)) rfl
theorem barbExpect (w : Slot) : Statement (.barbExpect w) := of_row (mk := .barbExpect) rfl (fun h => by
    have := low_d (f := formBarbExpect) (n := 1) rfl h
    refine (if_neg (by simp [BitVec.lt_def]; omega)).trans ?_; exact if_pos (by simp [BitVec.lt_def]; omega)) rfl
theorem barbArrive (w : Slot) : Statement (.barbArrive w) := of_row (mk := .barbArrive) rfl (fun h => by
    have := low_d (f := formBarbArrive) (n := 2) rfl h
    refine (if_neg (by simp [BitVec.lt_def]; omega)).trans ?_; refine (if_neg (by simp [BitVec.lt_def]; omega)).trans ?_; exact if_pos (by simp [BitVec.lt_def]; omega)) rfl
theorem barbWait (w : Slot) : Statement (.barbWait w) := of_row (mk := .barbWait) rfl (fun h => by
    have := low_d (f := formBarbWait) (n := 3) rfl h
    refine (if_neg (by simp [BitVec.lt_def]; omega)).trans ?_; refine (if_neg (by simp [BitVec.lt_def]; omega)).trans ?_; refine (if_neg (by simp [BitVec.lt_def]; omega)).trans ?_; rfl) rfl
theorem rbrel (w : Slot) : Statement (.rbrel w) := of_row rfl (fun _ => rfl) rfl
theorem rbclaim (w : Slot) : Statement (.rbclaim w) := of_row rfl (fun _ => rfl) rfl
theorem trap (w : Slot) : Statement (.trap w) := of_row rfl (fun _ => rfl) rfl
theorem rte (w : Slot) : Statement (.rte w) := of_row (mk := .rte) rfl (fun h => by obtain ⟨_, _, _, x, _, _, _⟩ := w; obtain rfl : x = 0 := BitVec.eq_of_toNat_eq (fix_a (f := formRte) rfl h); rfl) rfl
theorem rteSkip (w : Slot) : Statement (.rteSkip w) := of_row (mk := .rteSkip) rfl (fun h => by obtain ⟨_, _, _, x, _, _, _⟩ := w; obtain rfl : x = 1 := BitVec.eq_of_toNat_eq (fix_a (f := formRteSkip) rfl h); rfl) rfl
theorem bankmode (w : Slot) : Statement (.bankmode w) := of_row rfl (fun _ => rfl) rfl
theorem prpub (w : Slot) : Statement (.prpub w) := of_row rfl (fun _ => rfl) rfl
theorem posew (w : Slot) : Statement (.posew w) := of_row rfl (fun _ => rfl) rfl
theorem tracemark (w : Slot) : Statement (.tracemark w) := of_row rfl (fun _ => rfl) rfl
theorem brk (w : Slot) : Statement (.brk w) := of_row rfl (fun _ => rfl) rfl
theorem waitevt (w : Slot) : Statement (.waitevt w) := of_row rfl (fun _ => rfl) rfl
theorem enrd (w : Slot) : Statement (.enrd w) := of_row rfl (fun _ => rfl) rfl
theorem hSlot (stop : Bool) (gap : BitVec 5) (gw mb : Bool) : Statement (.hSlot stop gap gw mb) := of_none rfl
theorem slAdd : Statement .slAdd := of_none rfl
theorem slSub : Statement .slSub := of_none rfl
theorem slAnd : Statement .slAnd := of_none rfl
theorem slOr : Statement .slOr := of_none rfl
theorem slXor : Statement .slXor := of_none rfl
theorem slShl : Statement .slShl := of_none rfl
theorem slShr : Statement .slShr := of_none rfl
theorem slSar : Statement .slSar := of_none rfl
theorem slMin : Statement .slMin := of_none rfl
theorem slMax : Statement .slMax := of_none rfl
theorem slSlt : Statement .slSlt := of_none rfl
theorem slSeq : Statement .slSeq := of_none rfl
theorem slAddi : Statement .slAddi := of_none rfl
theorem slMovi : Statement .slMovi := of_none rfl
theorem slMovl : Statement .slMovl := of_none rfl
theorem slFadd : Statement .slFadd := of_none rfl
theorem slFsub : Statement .slFsub := of_none rfl
theorem slFmin : Statement .slFmin := of_none rfl
theorem slFmax : Statement .slFmax := of_none rfl
theorem slFslt : Statement .slFslt := of_none rfl
theorem slF2i : Statement .slF2i := of_none rfl
theorem slI2f : Statement .slI2f := of_none rfl
theorem slF2h : Statement .slF2h := of_none rfl
theorem slH2fl : Statement .slH2fl := of_none rfl
theorem slH2fh : Statement .slH2fh := of_none rfl
theorem slFmul : Statement .slFmul := of_none rfl
theorem slFfma : Statement .slFfma := of_none rfl
theorem slFdiv : Statement .slFdiv := of_none rfl
theorem slFrcp : Statement .slFrcp := of_none rfl
theorem slFsqrt : Statement .slFsqrt := of_none rfl
theorem slMFadd : Statement .slMFadd := of_none rfl
theorem slMFsub : Statement .slMFsub := of_none rfl
theorem slImul : Statement .slImul := of_none rfl
theorem slMMovi : Statement .slMMovi := of_none rfl
theorem slMMovl : Statement .slMMovl := of_none rfl
theorem slLdw : Statement .slLdw := of_none rfl
theorem slStw : Statement .slStw := of_none rfl
theorem slOut : Statement .slOut := of_none rfl
theorem slLAdd : Statement .slLAdd := of_none rfl
theorem slLAddi : Statement .slLAddi := of_none rfl
theorem slLMovi : Statement .slLMovi := of_none rfl
theorem slLMovl : Statement .slLMovl := of_none rfl
theorem slSampBl : Statement .slSampBl := of_none rfl
theorem slSampPt : Statement .slSampPt := of_none rfl
theorem slXferA : Statement .slXferA := of_none rfl
theorem slXferB : Statement .slXferB := of_none rfl
theorem slXferM : Statement .slXferM := of_none rfl
theorem slXferL : Statement .slXferL := of_none rfl
theorem slXferW : Statement .slXferW := of_none rfl
theorem slXferC : Statement .slXferC := of_none rfl
theorem slBr : Statement .slBr := of_none rfl
theorem slBrnz : Statement .slBrnz := of_none rfl
theorem slBrz : Statement .slBrz := of_none rfl
theorem slWait : Statement .slWait := of_none rfl
theorem slWaitMb : Statement .slWaitMb := of_none rfl
theorem slWaitFr : Statement .slWaitFr := of_none rfl
theorem slWaitFifo : Statement .slWaitFifo := of_none rfl
theorem slFetch : Statement .slFetch := of_none rfl
theorem slOxcall : Statement .slOxcall := of_none rfl
theorem slPose : Statement .slPose := of_none rfl
theorem slSys : Statement .slSys := of_none rfl
theorem slCMovi : Statement .slCMovi := of_none rfl
theorem slCMovl : Statement .slCMovl := of_none rfl
theorem slCAddi : Statement .slCAddi := of_none rfl
theorem slDone : Statement .slDone := of_none rfl
theorem ctxCreate : Statement .ctxCreate := of_none rfl
theorem ctxPreempt : Statement .ctxPreempt := of_none rfl
theorem ctxResume : Statement .ctxResume := of_none rfl
theorem ctxDestroy : Statement .ctxDestroy := of_none rfl
theorem energyWrite : Statement .energyWrite := of_none rfl
theorem fqlostRead : Statement .fqlostRead := of_none rfl
theorem contextSaveComplete : Statement .contextSaveComplete := of_none rfl
theorem asnSweepComplete : Statement .asnSweepComplete := of_none rfl
theorem queueBind : Statement .queueBind := of_none rfl
theorem queueUnbind : Statement .queueUnbind := of_none rfl
theorem queueSuspend : Statement .queueSuspend := of_none rfl
theorem queueResume : Statement .queueResume := of_none rfl
theorem queueReset : Statement .queueReset := of_none rfl
theorem qdoorWrite : Statement .qdoorWrite := of_none rfl
theorem qfaultRead : Statement .qfaultRead := of_none rfl
theorem nop : Statement .nop := of_none rfl
theorem launch : Statement .launch := of_none rfl
theorem blocklaunch : Statement .blocklaunch := of_none rfl
theorem waitmem : Statement .waitmem := of_none rfl
theorem waitmemSatisfied : Statement .waitmemSatisfied := of_none rfl
theorem signal : Statement .signal := of_none rfl
theorem depend : Statement .depend := of_none rfl
theorem indirect : Statement .indirect := of_none rfl
theorem present : Statement .present := of_none rfl
theorem capstart : Statement .capstart := of_none rfl
theorem capstop : Statement .capstop := of_none rfl
theorem rqconfConfigure : Statement .rqconfConfigure := of_none rfl
theorem rqconfFlush : Statement .rqconfFlush := of_none rfl
theorem rqconfTearDown : Statement .rqconfTearDown := of_none rfl
theorem successorEnqueue : Statement .successorEnqueue := of_none rfl
theorem kernelAdmit : Statement .kernelAdmit := of_none rfl
theorem setBirth : Statement .setBirth := of_none rfl
theorem kernelCancel : Statement .kernelCancel := of_none rfl
theorem bundleIssue : Statement .bundleIssue := of_none rfl
theorem resultLand : Statement .resultLand := of_none rfl
theorem delayWindowClose : Statement .delayWindowClose := of_none rfl
theorem scaleLatchEffect : Statement .scaleLatchEffect := of_none rfl
theorem groupRetire : Statement .groupRetire := of_none rfl
theorem claimGrant : Statement .claimGrant := of_none rfl
theorem watchdog : Statement .watchdog := of_none rfl
theorem wellspringFill : Statement .wellspringFill := of_none rfl
theorem memoryResultLand : Statement .memoryResultLand := of_none rfl
theorem storePerform : Statement .storePerform := of_none rfl
theorem clusterCopyExpire : Statement .clusterCopyExpire := of_none rfl
theorem congestionSet : Statement .congestionSet := of_none rfl
theorem congestionClear : Statement .congestionClear := of_none rfl
theorem bankModeFenceComplete : Statement .bankModeFenceComplete := of_none rfl
theorem waitevtWake : Statement .waitevtWake := of_none rfl
theorem waitevtLimit : Statement .waitevtLimit := of_none rfl
theorem childStart : Statement .childStart := of_none rfl
theorem copyChunkComplete : Statement .copyChunkComplete := of_none rfl
theorem circuitBeatArrive : Statement .circuitBeatArrive := of_none rfl
theorem childComplete : Statement .childComplete := of_none rfl
theorem childPause : Statement .childPause := of_none rfl
theorem pgInvalidate : Statement .pgInvalidate := of_none rfl
theorem pgInvalidateAll : Statement .pgInvalidateAll := of_none rfl
theorem pgResolve : Statement .pgResolve := of_none rfl
theorem pgReject : Statement .pgReject := of_none rfl
theorem unitQuiesceInvalidate : Statement .unitQuiesceInvalidate := of_none rfl
theorem invalidationLimit : Statement .invalidationLimit := of_none rfl
theorem correctedSoftError : Statement .correctedSoftError := of_none rfl
theorem rowRemap : Statement .rowRemap := of_none rfl
theorem linkTrain : Statement .linkTrain := of_none rfl
theorem linkDrain : Statement .linkDrain := of_none rfl
theorem linkDown : Statement .linkDown := of_none rfl
theorem lnkcntRead : Statement .lnkcntRead := of_none rfl
theorem linkPhyTrained : Statement .linkPhyTrained := of_none rfl
theorem linkPhyTrainFail : Statement .linkPhyTrainFail := of_none rfl
theorem linkNegotiated : Statement .linkNegotiated := of_none rfl
theorem slpFlitReceive : Statement .slpFlitReceive := of_none rfl
theorem linkLaneLoss : Statement .linkLaneLoss := of_none rfl
theorem remoteMemoryRequest : Statement .remoteMemoryRequest := of_none rfl
theorem remoteMemoryResponse : Statement .remoteMemoryResponse := of_none rfl
theorem collectiveFlitReceive : Statement .collectiveFlitReceive := of_none rfl
theorem streamFlitReceive : Statement .streamFlitReceive := of_none rfl
theorem routeWrite : Statement .routeWrite := of_none rfl
theorem headStart : Statement .headStart := of_none rfl
theorem headStop : Statement .headStop := of_none rfl
theorem hmissRead : Statement .hmissRead := of_none rfl
theorem hevtailRead : Statement .hevtailRead := of_none rfl
theorem poseCommit : Statement .poseCommit := of_none rfl
theorem mailboxWrite : Statement .mailboxWrite := of_none rfl
theorem publicationTake : Statement .publicationTake := of_none rfl
theorem headOutputTrained : Statement .headOutputTrained := of_none rfl
theorem headOutputTrainFail : Statement .headOutputTrainFail := of_none rfl
theorem headOutputLost : Statement .headOutputLost := of_none rfl
theorem poseLatch : Statement .poseLatch := of_none rfl
theorem sliceStart : Statement .sliceStart := of_none rfl
theorem sliceDeadline : Statement .sliceDeadline := of_none rfl
theorem sliceOutput : Statement .sliceOutput := of_none rfl
theorem fetchComplete : Statement .fetchComplete := of_none rfl
theorem tarnCallStart : Statement .tarnCallStart := of_none rfl
theorem tarnCallComplete : Statement .tarnCallComplete := of_none rfl
theorem slcoreStop : Statement .slcoreStop := of_none rfl
theorem slcoreRun : Statement .slcoreRun := of_none rfl
theorem slcoreStep : Statement .slcoreStep := of_none rfl
theorem slBreakpoint : Statement .slBreakpoint := of_none rfl
theorem debugCycleStop : Statement .debugCycleStop := of_none rfl
theorem dbgstatRead : Statement .dbgstatRead := of_none rfl
theorem issueHold : Statement .issueHold := of_none rfl
theorem hostReservedAccess : Statement .hostReservedAccess := of_none rfl
theorem registerWrite : Statement .registerWrite := of_none rfl
theorem powerOnReset : Statement .powerOnReset := of_none rfl
theorem resetRequest : Statement .resetRequest := of_none rfl
theorem imageUpload : Statement .imageUpload := of_none rfl
theorem ageingUpdate : Statement .ageingUpdate := of_none rfl
theorem attestationReport : Statement .attestationReport := of_none rfl
theorem outputFifoDrain : Statement .outputFifoDrain := of_none rfl
theorem sampTexelArrival : Statement .sampTexelArrival := of_none rfl
theorem hostMemoryAccess : Statement .hostMemoryAccess := of_none rfl

end Sys2Proof.Laws.EncodingRoundTrip
end

