-- ==== Sys2Proof/Laws/Slots.lean ====
section
/-! SUPPORT. What taking a slot comes to, said once: a ready slot whose meaning answers effects joins the bundle with them, and
one whose meaning answers a trap raises it. The statements about slots are proved from these. -/

namespace Sys2Proof.Laws

open Sys2Proof.Machine Sys2Proof.Safety

/-- A ready slot reaches its meaning. -/
theorem slotStep_ready (q : Taken) (i : Instr) (m : Meaning) (h : q.ready i) :
    slotStep q.f q.cls q.w m q.s q.is q.g =
      finishSlot (m q.sc).1 { q.is with uses := q.is.uses ++ usesOf q.f q.w }
        (takeSlot q.s { q.is with uses := q.is.uses ++ usesOf q.f q.w } q.cls q.w) q.g q.cls q.w (m q.sc).2 := by
  obtain ⟨_, _, _, hok, he, hord, hb, hso, hlink, hpend⟩ := h
  obtain ⟨hsoft, hopd⟩ := Bool.or_eq_false_iff.mp hso
  have hb' : ((q.cls == 9) && (pathAt q.g q.is.path).window.isSome) = false := by
    by_cases hc : q.cls = 9
    · have := hb hc
      simp only [Taken.path] at this
      simp [this]
    · simp [hc]
  have hord' : decide (q.cls < q.is.above) = false := by simpa using hord
  simp only [Taken.path] at hopd hlink hpend
  simp [slotStep, hok, he, hord', hb', hsoft, hopd, hlink, hpend, Taken.sc, Taken.path]

/-- A ready slot whose meaning answers effects joins the bundle with them. -/
theorem gives_of_ok {q : Taken} {i : Instr} {f : Form} {cls : Nat} {w : Slot} {m : Meaning} {s' : State} {effs : List Eff}
    {flags : BitVec 6} {us : List RegUse} (h : q.ready i) (hi : slotOf i = some (f, cls, w))
    (hx : exec i q.s = runSlot f cls w m q.s) (hm : m q.sc = (s', .ok effs flags us)) : q.gives i s' effs flags us := by
  obtain ⟨rfl, rfl, rfl⟩ : f = q.f ∧ cls = q.cls ∧ w = q.w := by simpa [hi] using h.1
  intro hf
  obtain ⟨hl, hsh, hd, hw⟩ := hf
  have hcur := h.2.1
  have hg := h.2.2.1
  rw [hx]
  simp only [runSlot, hcur, hg]
  rw [slotStep_ready q i m h, hm]
  simp only [Taken.path] at hl hsh
  congr 1
  have hne : q.w.stop = false → q.is.words.drop (slotWords q.w) ≠ [] := fun hs => hw hs
  simp only [finishSlot, closeSlot, hl, hsh, Bool.false_eq_true, if_false]
  cases hs : q.w.stop with
  | true =>
    have := hd hs
    simp only [Taken.after] at this
    simp only [Taken.done, hs, if_true, takeSlot, Taken.after, this, Bool.false_eq_true, if_false, List.append_assoc]
  | false =>
    have := hne hs
    simp only [Taken.done, hs, takeSlot, Taken.after, Bool.false_eq_true, if_false]
    have hw' : (q.is.words.drop (slotWords q.w)).isEmpty = false := by simpa using this
    simp only [hw', Bool.false_eq_true, if_false]

/-- A ready slot whose meaning answers a trap raises it, when it translated nothing. -/
theorem traps_of_trap {q : Taken} {i : Instr} {f : Form} {cls : Nat} {w : Slot} {m : Meaning} {cause addr : Nat}
    {lanes : LaneMask} {tok : Word} (h : q.ready i) (hi : slotOf i = some (f, cls, w))
    (hx : exec i q.s = runSlot f cls w m q.s) (hm : m q.sc = (q.s, .trap ⟨cause, addr, lanes, tok⟩)) :
    q.traps i cause addr lanes := by
  obtain ⟨rfl, rfl, rfl⟩ : f = q.f ∧ cls = q.cls ∧ w = q.w := by simpa [hi] using h.1
  have hcur := h.2.1
  have hg := h.2.2.1
  unfold Taken.traps
  rw [hx]
  simp only [runSlot, hcur, hg]
  rw [slotStep_ready q i m h, hm]
  rfl

/-- Operand B of a uniform form is `uy`. -/
theorem uB_sc (q : Taken) (z : Bool) : uB z q.sc = q.uy z := by
  simp only [uB, Taken.uy, Taken.imm, Taken.sc, SC.b]
  cases q.w.imm <;> cases z <;> rfl

/-- Operand B of a lane form is `vy`. -/
theorem vB_sc (q : Taken) (z : Bool) (l : Nat) : vB z q.sc l = q.vy z l := by
  simp only [vB, Taken.vy, Taken.imm, Taken.sc, SC.b]
  cases q.w.imm <;> cases z <;> rfl

/-- A uniform form with its guard 1 yields its writes. -/
theorem uSlot_on {q : Taken} {f : SC → Except TrapInfo (List RegWrite × BitVec 6)} {ws : List RegWrite} {fl : BitVec 6}
    (ho : q.on) (hf : f q.sc = .ok (ws, fl)) : uSlot f q.sc = (q.s, .ok [.result 2 ws] fl []) := by
  have ho' : scalarGuard q.sc = ⟨true, false⟩ := ho
  simp only [uSlot, pureM, hf, ho', if_true, Bool.false_eq_true, if_false]
  rfl

/-- The union of no flags is none. -/
theorem flagUnion_none (l : List Nat) : flagUnion (l.map fun _ => 0) = 0 := by
  unfold flagUnion
  induction l with
  | nil => rfl
  | cons _ t ih => simpa using ih

/-- What a lane form answers. -/
theorem laneSlot_sc (q : Taken) (lat : Nat) (f : SC → Nat → List RegWrite × BitVec 6) :
    laneSlot lat f q.sc = (q.s, .ok [.result lat (q.act.flatMap (fun l => (f q.sc l).1)
      ++ q.dim.flatMap fun l => (f q.sc l).1.map (poisonOld q.sc))] (flagUnion (q.act.map fun l => (f q.sc l).2)) []) := by
  simp only [laneSlot, pureM, Taken.act, Taken.dim, flagUnion, List.flatMap_map, List.foldl_map]
  rfl

/-- A lane form that writes one vector register. -/
theorem laneSlot_v {q : Taken} {lat r : Nat} {f : SC → Nat → List RegWrite × BitVec 6} {val : Nat → PWord} {fl : Nat → BitVec 6}
    (h : ∀ l, f q.sc l = ([.v r l (val l)], fl l)) :
    laneSlot lat f q.sc = (q.s, .ok [q.toLanes lat r val] (flagUnion (q.act.map fl)) []) := by
  rw [laneSlot_sc]
  simp only [h, Taken.toLanes, List.map_cons, List.map_nil, ← List.map_eq_flatMap]
  rfl

/-- A lane form that writes one lane predicate. -/
theorem laneSlot_p {q : Taken} {lat r : Nat} {f : SC → Nat → List RegWrite × BitVec 6} {val : Nat → PBit} {fl : Nat → BitVec 6}
    (h : ∀ l, f q.sc l = ([.p r l (val l)], fl l)) :
    laneSlot lat f q.sc = (q.s, .ok [q.toPred lat r val] (flagUnion (q.act.map fl)) []) := by
  rw [laneSlot_sc]
  simp only [h, Taken.toPred, List.map_cons, List.map_nil, ← List.map_eq_flatMap]
  rfl

/-- A lane form that writes a pair of vector registers. -/
theorem laneSlot_pair {q : Taken} {lat r : Nat} {f : SC → Nat → List RegWrite × BitVec 6} {val : Nat → Nat × Bool}
    {fl : Nat → BitVec 6} (h : ∀ l, f q.sc l = (pairWrites r l (val l).1 (val l).2, fl l)) :
    laneSlot lat f q.sc = (q.s, .ok [q.toPairs lat r val] (flagUnion (q.act.map fl)) []) := by
  rw [laneSlot_sc]
  simp only [h, Taken.toPairs, pairWrites, List.map_cons, List.map_nil]
  rfl

end Sys2Proof.Laws
end

