-- ==== Sys2Proof/Laws/Tables.lean ====
section
/-! SUPPORT. Tables and memories: reading after writing, and that every operation keeps the canonical form. -/

namespace Sys2Proof.Laws

open Sys2Proof.Machine

variable {α : Type} [DecidableEq α]

/-- Every key of a table lies at or above a bound. -/
def Above (n : Nat) : Tbl α → Prop
  | [] => True
  | (k, _) :: _ => n ≤ k

/-- The canonical form, entry by entry. -/
theorem tblWf_cons (d : α) (k : Nat) (v : α) (t : Tbl α) :
    tblWf d ((k, v) :: t) = true ↔ v ≠ d ∧ Above (k + 1) t ∧ tblWf d t = true := by
  cases t with
  | nil => simp [tblWf, Above]
  | cons e t => obtain ⟨k', v'⟩ := e; simp [tblWf, Above, and_assoc]

omit [DecidableEq α] in
/-- A canonical table read below its keys gives the default. -/
theorem tget_below (d : α) {t : Tbl α} {n : Nat} (h : Above (n + 1) t) : tget d t n = d := by
  cases t with
  | nil => rfl
  | cons e t =>
    obtain ⟨k, v⟩ := e
    simp only [Above] at h
    simp [tget, show k ≠ n by omega, show n < k by omega]

/-- Setting keeps a lower bound of the keys. -/
theorem tput_above (d : α) {t : Tbl α} {n k : Nat} (v : α) (h : Above n t) (hk : n ≤ k)
    (hw : tblWf d t = true) : Above n (tput d t k v) := by
  cases t with
  | nil => simp only [tput]; split <;> simp_all [Above]
  | cons e t =>
    obtain ⟨k', w⟩ := e
    rw [tblWf_cons] at hw
    simp only [Above] at h
    simp only [tput]
    split
    · split
      · cases t with
        | nil => trivial
        | cons e t => obtain ⟨k'', _⟩ := e; have := hw.2.1; simp only [Above] at *; omega
      · simpa [Above] using hk
    · split
      · split <;> simp_all [Above]
      · simpa [Above] using h

/-- Setting keeps the canonical form. -/
theorem tput_wf (d : α) (t : Tbl α) (k : Nat) (v : α) (h : tblWf d t = true) : tblWf d (tput d t k v) = true := by
  induction t with
  | nil => simp only [tput]; split <;> simp_all [tblWf]
  | cons e t ih =>
    obtain ⟨k', w⟩ := e
    have hc := (tblWf_cons d k' w t).mp h
    simp only [tput]
    split
    · subst_vars
      split
      · exact hc.2.2
      · rw [tblWf_cons]; exact ⟨by assumption, hc.2⟩
    · split
      · split
        · exact h
        · rw [tblWf_cons]; exact ⟨by assumption, by simp only [Above]; omega, h⟩
      · rw [tblWf_cons]
        exact ⟨hc.1, tput_above d v hc.2.1 (by omega) hc.2.2, ih hc.2.2⟩

/-- What a key reads as after it has been set. -/
theorem tget_tput (d : α) (t : Tbl α) (k : Nat) (v : α) (h : tblWf d t = true) : tget d (tput d t k v) k = v := by
  induction t with
  | nil => simp only [tput]; split <;> simp_all [tget]
  | cons e t ih =>
    obtain ⟨k', w⟩ := e
    have hc := (tblWf_cons d k' w t).mp h
    simp only [tput]
    split
    · rename_i hk
      subst hk
      split
      · rename_i hv
        rw [hv]; exact tget_below d hc.2.1
      · simp [tget]
    · split
      · split
        · rename_i hv
          rw [hv]; simp [tget, *]
        · simp [tget]
      · simp [tget, *, ih hc.2.2]

/-- Every other key reads as before. -/
theorem tget_tput_ne (d : α) (t : Tbl α) (k j : Nat) (v : α) (h : tblWf d t = true) (hj : j ≠ k) :
    tget d (tput d t k v) j = tget d t j := by
  induction t with
  | nil =>
    simp only [tput]
    split
    · rfl
    · simp [tget, hj.symm]
  | cons e t ih =>
    obtain ⟨k', w⟩ := e
    have hc := (tblWf_cons d k' w t).mp h
    simp only [tput]
    split
    · rename_i hk
      subst hk
      split
      · simp only [tget, hj.symm, if_false]
        split
        · exact tget_below d (by
            cases t with
            | nil => trivial
            | cons e t => obtain ⟨k'', _⟩ := e; have := hc.2.1; simp only [Above] at *; omega)
        · rfl
      · simp [tget, hj.symm]
    · split
      · split
        · rfl
        · simp only [tget, hj.symm, if_false]
          split
          · simp [show k' ≠ j by omega, show j < k' by omega]
          · rfl
      · simp only [tget]
        split
        · rfl
        · split
          · rfl
          · exact ih hc.2.2

/-- Clearing keeps a lower bound of the keys and the canonical form. -/
theorem tclear_wf (d : α) (t : Tbl α) (a n : Nat) (h : tblWf d t = true) :
    tblWf d (tclear t a n) = true ∧ ∀ b, Above b t → Above b (tclear t a n) := by
  induction t with
  | nil => exact ⟨rfl, fun _ _ => trivial⟩
  | cons e t ih =>
    obtain ⟨k, v⟩ := e
    have hc := (tblWf_cons d k v t).mp h
    have hi := ih hc.2.2
    have up (b : Nat) (hb : b ≤ k) : Above b t := by
      cases t with
      | nil => trivial
      | cons e t => obtain ⟨k', _⟩ := e; have := hc.2.1; simp only [Above] at *; omega
    simp only [tclear, List.filter_cons] at *
    split
    · refine ⟨(tblWf_cons d k v _).mpr ⟨hc.1, hi.2 _ hc.2.1, hi.1⟩, fun b hb => hb⟩
    · exact ⟨hi.1, fun b hb => hi.2 b (up b hb)⟩

/-! ## Memories -/

/-- The empty memory is canonical. -/
theorem wf_nil : Memory.wf [] = true := rfl

/-- A byte store keeps the canonical form. -/
theorem mput_wf (m : Memory) (a : Nat) (b : Byte) (h : m.wf = true) : (mput m a b).wf = true := tput_wf 0 m a b h

/-- A store of bytes keeps the canonical form. -/
theorem mwrite_wf (m : Memory) (a : Nat) (bs : List Byte) (h : m.wf = true) : (mwrite m a bs).wf = true := by
  induction bs generalizing m a with
  | nil => exact h
  | cons b bs ih => exact ih _ _ (mput_wf m a b h)

/-- A store of a number keeps the canonical form. -/
theorem writeN_wf (m : Memory) (a n x : Nat) (h : m.wf = true) : (writeN m a n x).wf = true := mwrite_wf m a _ h

/-- Zeroing keeps the canonical form. -/
theorem mzero_wf (m : Memory) (a n : Nat) (h : m.wf = true) : (mzero m a n).wf = true := (tclear_wf 0 m a n h).1

/-- A byte reads as stored. -/
theorem mget_mput (m : Memory) (a : Nat) (b : Byte) (h : m.wf = true) : mget (mput m a b) a = b := tget_tput 0 m a b h

/-- Every other byte reads as before. -/
theorem mget_mput_ne (m : Memory) (a j : Nat) (b : Byte) (h : m.wf = true) (hj : j ≠ a) : mget (mput m a b) j = mget m j :=
  tget_tput_ne 0 m a j b h hj

/-- A store of bytes leaves every byte outside its range as it was. -/
theorem mget_mwrite_out (m : Memory) (a j : Nat) (bs : List Byte) (h : m.wf = true) (hj : j < a ∨ a + bs.length ≤ j) :
    mget (mwrite m a bs) j = mget m j := by
  induction bs generalizing m a with
  | nil => rfl
  | cons b bs ih =>
    simp only [List.length_cons] at hj
    rw [mwrite, ih _ _ (mput_wf m a b h) (by omega), mget_mput_ne m a j b h (by omega)]

/-- A store of bytes sets each byte of its range. -/
theorem mget_mwrite_in (m : Memory) (a i : Nat) (bs : List Byte) (h : m.wf = true) (hi : i < bs.length) :
    mget (mwrite m a bs) (a + i) = bs[i] := by
  induction bs generalizing m a i with
  | nil => simp at hi
  | cons b bs ih =>
    cases i with
    | zero =>
      simp only [mwrite, Nat.add_zero, List.getElem_cons_zero]
      rw [mget_mwrite_out _ _ _ _ (mput_wf m a b h) (by omega), mget_mput m a b h]
    | succ i =>
      simp only [List.length_cons] at hi
      have := ih (mput m a b) (a + 1) i (mput_wf m a b h) (by omega)
      simpa [mwrite, Nat.add_comm, Nat.add_left_comm] using this

end Sys2Proof.Laws
end

