-- ==== Sys2Proof/Laws/State.lean ====
section
/-! SUPPORT. The updates of State: what each leaves alone, field by field, and what it reads as afterwards. -/

namespace Sys2Proof.Laws

open Sys2Proof.Machine

/-! ## An update of one table reads as written, and leaves its other entries alone -/

/-- Setting an entry to a value other than the default, whatever the table. -/
theorem tget_tput_some {α : Type} [DecidableEq α] (d : α) (t : Tbl α) (k : Nat) (v : α) (hv : v ≠ d) :
    tget d (tput d t k v) k = v := by
  induction t with
  | nil => simp [tput, hv, tget]
  | cons e t ih =>
    obtain ⟨k', w⟩ := e
    simp only [tput]
    split
    · simp [tget]
    · split
      · simp [tget]
      · rename_i h1 h2
        simp only [tget]
        rw [if_neg (by omega), if_neg (by omega)]
        exact ih

@[simp] theorem getGroup_putGroup (s : State) (n : Nat) (g : Group) : getGroup (putGroup s n g) n = some g :=
  tget_tput_some none s.groups n (some g) (by simp)

@[simp] theorem getChild_putChild (s : State) (n : Nat) (c : Child) : getChild (putChild s n c) n = some c :=
  tget_tput_some none s.children n (some c) (by simp)

theorem getCtx_putCtx (s : State) (n : Nat) (x : Context) (h : tblWf ({} : Context) s.ctxs = true) :
    getCtx (putCtx s n x) n = x :=
  tget_tput ({} : Context) s.ctxs n x h

theorem getQueue_putQueue (s : State) (n : Nat) (x : Queue) (h : tblWf ({} : Queue) s.queues = true) :
    getQueue (putQueue s n x) n = x :=
  tget_tput ({} : Queue) s.queues n x h

theorem getCore_putCore (s : State) (n : Nat) (x : Core) (h : tblWf ({} : Core) s.cores = true) :
    getCore (putCore s n x) n = x :=
  tget_tput ({} : Core) s.cores n x h

theorem getSeq_putSeq (s : State) (n : Nat) (x : Seq) (h : tblWf ({} : Seq) s.seqs = true) :
    getSeq (putSeq s n x) n = x :=
  tget_tput ({} : Seq) s.seqs n x h

theorem getBank_putBank (s : State) (n : Nat) (x : Bank) (h : tblWf ({} : Bank) s.banks = true) :
    getBank (putBank s n x) n = x :=
  tget_tput ({} : Bank) s.banks n x h

theorem getHead_putHead (s : State) (n : Nat) (x : Head) (h : tblWf ({} : Head) s.heads = true) :
    getHead (putHead s n x) n = x :=
  tget_tput ({} : Head) s.heads n x h

theorem getLink_putLink (s : State) (n : Nat) (x : Link) (h : tblWf ({} : Link) s.links = true) :
    getLink (putLink s n x) n = x :=
  tget_tput ({} : Link) s.links n x h

theorem getSl_putSl (s : State) (n : Nat) (x : SlCore) (h : tblWf ({} : SlCore) s.slcores = true) :
    getSl (putSl s n x) n = x :=
  tget_tput ({} : SlCore) s.slcores n x h

theorem getGroup_putGroup_ne (s : State) (n m : Nat) (x : Group) (h : tblWf none s.groups = true) (hm : m ≠ n) :
    getGroup (putGroup s n x) m = getGroup s m := tget_tput_ne none s.groups n m (some x) h hm

theorem getCtx_putCtx_ne (s : State) (n m : Nat) (x : Context) (h : tblWf ({} : Context) s.ctxs = true) (hm : m ≠ n) :
    getCtx (putCtx s n x) m = getCtx s m := tget_tput_ne ({} : Context) s.ctxs n m x h hm

theorem getQueue_putQueue_ne (s : State) (n m : Nat) (x : Queue) (h : tblWf ({} : Queue) s.queues = true) (hm : m ≠ n) :
    getQueue (putQueue s n x) m = getQueue s m := tget_tput_ne ({} : Queue) s.queues n m x h hm

theorem getCore_putCore_ne (s : State) (n m : Nat) (x : Core) (h : tblWf ({} : Core) s.cores = true) (hm : m ≠ n) :
    getCore (putCore s n x) m = getCore s m := tget_tput_ne ({} : Core) s.cores n m x h hm

theorem getSeq_putSeq_ne (s : State) (n m : Nat) (x : Seq) (h : tblWf ({} : Seq) s.seqs = true) (hm : m ≠ n) :
    getSeq (putSeq s n x) m = getSeq s m := tget_tput_ne ({} : Seq) s.seqs n m x h hm

theorem getBank_putBank_ne (s : State) (n m : Nat) (x : Bank) (h : tblWf ({} : Bank) s.banks = true) (hm : m ≠ n) :
    getBank (putBank s n x) m = getBank s m := tget_tput_ne ({} : Bank) s.banks n m x h hm

theorem getChild_putChild_ne (s : State) (n m : Nat) (x : Child) (h : tblWf none s.children = true) (hm : m ≠ n) :
    getChild (putChild s n x) m = getChild s m := tget_tput_ne none s.children n m (some x) h hm

theorem getHead_putHead_ne (s : State) (n m : Nat) (x : Head) (h : tblWf ({} : Head) s.heads = true) (hm : m ≠ n) :
    getHead (putHead s n x) m = getHead s m := tget_tput_ne ({} : Head) s.heads n m x h hm

theorem getLink_putLink_ne (s : State) (n m : Nat) (x : Link) (h : tblWf ({} : Link) s.links = true) (hm : m ≠ n) :
    getLink (putLink s n x) m = getLink s m := tget_tput_ne ({} : Link) s.links n m x h hm

theorem getSl_putSl_ne (s : State) (n m : Nat) (x : SlCore) (h : tblWf ({} : SlCore) s.slcores = true) (hm : m ≠ n) :
    getSl (putSl s n x) m = getSl s m := tget_tput_ne ({} : SlCore) s.slcores n m x h hm

/-! ## Changing an entry is reading it and writing it -/

@[simp] theorem modCtx_eq (s : State) (n : Nat) (f : Context → Context) : modCtx s n f = putCtx s n (f (getCtx s n)) := rfl

@[simp] theorem modQueue_eq (s : State) (n : Nat) (f : Queue → Queue) : modQueue s n f = putQueue s n (f (getQueue s n)) := rfl

@[simp] theorem modCore_eq (s : State) (n : Nat) (f : Core → Core) : modCore s n f = putCore s n (f (getCore s n)) := rfl

@[simp] theorem modSeq_eq (s : State) (n : Nat) (f : Seq → Seq) : modSeq s n f = putSeq s n (f (getSeq s n)) := rfl

@[simp] theorem modHead_eq (s : State) (n : Nat) (f : Head → Head) : modHead s n f = putHead s n (f (getHead s n)) := rfl

@[simp] theorem modLink_eq (s : State) (n : Nat) (f : Link → Link) : modLink s n f = putLink s n (f (getLink s n)) := rfl

@[simp] theorem modSl_eq (s : State) (n : Nat) (f : SlCore → SlCore) : modSl s n f = putSl s n (f (getSl s n)) := rfl

/-- Changing a group that is there. -/
theorem modGroup_some {s : State} {n : Nat} {g : Group} (f : Group → Group) (h : getGroup s n = some g) :
    modGroup s n f = putGroup s n (f g) := by simp [modGroup, h]

/-- Changing a group that is not there changes nothing. -/
theorem modGroup_none {s : State} {n : Nat} (f : Group → Group) (h : getGroup s n = none) : modGroup s n f = s := by
  simp [modGroup, h]

/-- Changing a child that is there. -/
theorem modChild_some {s : State} {n : Nat} {c : Child} (f : Child → Child) (h : getChild s n = some c) :
    modChild s n f = putChild s n (f c) := by simp [modChild, h]

/-! ## Every field that an update does not write -/

@[simp] theorem putGroup_agenda (s : State) (n : Nat) (x : Group) : (putGroup s n x).agenda = s.agenda := rfl
@[simp] theorem putGroup_args (s : State) (n : Nat) (x : Group) : (putGroup s n x).args = s.args := rfl
@[simp] theorem putGroup_cur (s : State) (n : Nat) (x : Group) : (putGroup s n x).cur = s.cur := rfl
@[simp] theorem putGroup_slw (s : State) (n : Nat) (x : Group) : (putGroup s n x).slw = s.slw := rfl
@[simp] theorem putGroup_freeCtr (s : State) (n : Nat) (x : Group) : (putGroup s n x).freeCtr = s.freeCtr := rfl
@[simp] theorem putGroup_epoch (s : State) (n : Nat) (x : Group) : (putGroup s n x).epoch = s.epoch := rfl
@[simp] theorem putGroup_hostData (s : State) (n : Nat) (x : Group) : (putGroup s n x).hostData = s.hostData := rfl
@[simp] theorem putGroup_mem (s : State) (n : Nat) (x : Group) : (putGroup s n x).mem = s.mem := rfl
@[simp] theorem putGroup_pond (s : State) (n : Nat) (x : Group) : (putGroup s n x).pond = s.pond := rfl
@[simp] theorem putGroup_lineStore (s : State) (n : Nat) (x : Group) : (putGroup s n x).lineStore = s.lineStore := rfl
@[simp] theorem putGroup_acc (s : State) (n : Nat) (x : Group) : (putGroup s n x).acc = s.acc := rfl
@[simp] theorem putGroup_tarnAcc (s : State) (n : Nat) (x : Group) : (putGroup s n x).tarnAcc = s.tarnAcc := rfl
@[simp] theorem putGroup_tarnXflags (s : State) (n : Nat) (x : Group) : (putGroup s n x).tarnXflags = s.tarnXflags := rfl
@[simp] theorem putGroup_copies (s : State) (n : Nat) (x : Group) : (putGroup s n x).copies = s.copies := rfl
@[simp] theorem putGroup_tlb (s : State) (n : Nat) (x : Group) : (putGroup s n x).tlb = s.tlb := rfl
@[simp] theorem putGroup_ctxs (s : State) (n : Nat) (x : Group) : (putGroup s n x).ctxs = s.ctxs := rfl
@[simp] theorem putGroup_queues (s : State) (n : Nat) (x : Group) : (putGroup s n x).queues = s.queues := rfl
@[simp] theorem putGroup_lastServed (s : State) (n : Nat) (x : Group) : (putGroup s n x).lastServed = s.lastServed := rfl
@[simp] theorem putGroup_kernels (s : State) (n : Nat) (x : Group) : (putGroup s n x).kernels = s.kernels := rfl
@[simp] theorem putGroup_sets (s : State) (n : Nat) (x : Group) : (putGroup s n x).sets = s.sets := rfl
@[simp] theorem putGroup_lastCluster (s : State) (n : Nat) (x : Group) : (putGroup s n x).lastCluster = s.lastCluster := rfl
@[simp] theorem putGroup_cores (s : State) (n : Nat) (x : Group) : (putGroup s n x).cores = s.cores := rfl
@[simp] theorem putGroup_seqs (s : State) (n : Nat) (x : Group) : (putGroup s n x).seqs = s.seqs := rfl
@[simp] theorem putGroup_banks (s : State) (n : Nat) (x : Group) : (putGroup s n x).banks = s.banks := rfl
@[simp] theorem putGroup_children (s : State) (n : Nat) (x : Group) : (putGroup s n x).children = s.children := rfl
@[simp] theorem putGroup_childOrder (s : State) (n : Nat) (x : Group) : (putGroup s n x).childOrder = s.childOrder := rfl
@[simp] theorem putGroup_owed (s : State) (n : Nat) (x : Group) : (putGroup s n x).owed = s.owed := rfl
@[simp] theorem putGroup_invals (s : State) (n : Nat) (x : Group) : (putGroup s n x).invals = s.invals := rfl
@[simp] theorem putGroup_congested (s : State) (n : Nat) (x : Group) : (putGroup s n x).congested = s.congested := rfl
@[simp] theorem putGroup_links (s : State) (n : Nat) (x : Group) : (putGroup s n x).links = s.links := rfl
@[simp] theorem putGroup_modid (s : State) (n : Nat) (x : Group) : (putGroup s n x).modid = s.modid := rfl
@[simp] theorem putGroup_routes (s : State) (n : Nat) (x : Group) : (putGroup s n x).routes = s.routes := rfl
@[simp] theorem putGroup_expBase (s : State) (n : Nat) (x : Group) : (putGroup s n x).expBase = s.expBase := rfl
@[simp] theorem putGroup_expCtl (s : State) (n : Nat) (x : Group) : (putGroup s n x).expCtl = s.expCtl := rfl
@[simp] theorem putGroup_remotes (s : State) (n : Nat) (x : Group) : (putGroup s n x).remotes = s.remotes := rfl
@[simp] theorem putGroup_remoteCtr (s : State) (n : Nat) (x : Group) : (putGroup s n x).remoteCtr = s.remoteCtr := rfl
@[simp] theorem putGroup_collIn (s : State) (n : Nat) (x : Group) : (putGroup s n x).collIn = s.collIn := rfl
@[simp] theorem putGroup_heads (s : State) (n : Nat) (x : Group) : (putGroup s n x).heads = s.heads := rfl
@[simp] theorem putGroup_streams (s : State) (n : Nat) (x : Group) : (putGroup s n x).streams = s.streams := rfl
@[simp] theorem putGroup_slcores (s : State) (n : Nat) (x : Group) : (putGroup s n x).slcores = s.slcores := rfl
@[simp] theorem putGroup_tarnRun (s : State) (n : Nat) (x : Group) : (putGroup s n x).tarnRun = s.tarnRun := rfl
@[simp] theorem putGroup_captures (s : State) (n : Nat) (x : Group) : (putGroup s n x).captures = s.captures := rfl
@[simp] theorem putGroup_energyWeights (s : State) (n : Nat) (x : Group) : (putGroup s n x).energyWeights = s.energyWeights := rfl
@[simp] theorem putGroup_captureCtr (s : State) (n : Nat) (x : Group) : (putGroup s n x).captureCtr = s.captureCtr := rfl
@[simp] theorem putGroup_boot (s : State) (n : Nat) (x : Group) : (putGroup s n x).boot = s.boot := rfl
@[simp] theorem putGroup_repair (s : State) (n : Nat) (x : Group) : (putGroup s n x).repair = s.repair := rfl
@[simp] theorem putCtx_agenda (s : State) (n : Nat) (x : Context) : (putCtx s n x).agenda = s.agenda := rfl
@[simp] theorem putCtx_args (s : State) (n : Nat) (x : Context) : (putCtx s n x).args = s.args := rfl
@[simp] theorem putCtx_cur (s : State) (n : Nat) (x : Context) : (putCtx s n x).cur = s.cur := rfl
@[simp] theorem putCtx_slw (s : State) (n : Nat) (x : Context) : (putCtx s n x).slw = s.slw := rfl
@[simp] theorem putCtx_freeCtr (s : State) (n : Nat) (x : Context) : (putCtx s n x).freeCtr = s.freeCtr := rfl
@[simp] theorem putCtx_epoch (s : State) (n : Nat) (x : Context) : (putCtx s n x).epoch = s.epoch := rfl
@[simp] theorem putCtx_hostData (s : State) (n : Nat) (x : Context) : (putCtx s n x).hostData = s.hostData := rfl
@[simp] theorem putCtx_mem (s : State) (n : Nat) (x : Context) : (putCtx s n x).mem = s.mem := rfl
@[simp] theorem putCtx_pond (s : State) (n : Nat) (x : Context) : (putCtx s n x).pond = s.pond := rfl
@[simp] theorem putCtx_lineStore (s : State) (n : Nat) (x : Context) : (putCtx s n x).lineStore = s.lineStore := rfl
@[simp] theorem putCtx_acc (s : State) (n : Nat) (x : Context) : (putCtx s n x).acc = s.acc := rfl
@[simp] theorem putCtx_tarnAcc (s : State) (n : Nat) (x : Context) : (putCtx s n x).tarnAcc = s.tarnAcc := rfl
@[simp] theorem putCtx_tarnXflags (s : State) (n : Nat) (x : Context) : (putCtx s n x).tarnXflags = s.tarnXflags := rfl
@[simp] theorem putCtx_copies (s : State) (n : Nat) (x : Context) : (putCtx s n x).copies = s.copies := rfl
@[simp] theorem putCtx_tlb (s : State) (n : Nat) (x : Context) : (putCtx s n x).tlb = s.tlb := rfl
@[simp] theorem putCtx_queues (s : State) (n : Nat) (x : Context) : (putCtx s n x).queues = s.queues := rfl
@[simp] theorem putCtx_lastServed (s : State) (n : Nat) (x : Context) : (putCtx s n x).lastServed = s.lastServed := rfl
@[simp] theorem putCtx_kernels (s : State) (n : Nat) (x : Context) : (putCtx s n x).kernels = s.kernels := rfl
@[simp] theorem putCtx_sets (s : State) (n : Nat) (x : Context) : (putCtx s n x).sets = s.sets := rfl
@[simp] theorem putCtx_lastCluster (s : State) (n : Nat) (x : Context) : (putCtx s n x).lastCluster = s.lastCluster := rfl
@[simp] theorem putCtx_groups (s : State) (n : Nat) (x : Context) : (putCtx s n x).groups = s.groups := rfl
@[simp] theorem putCtx_cores (s : State) (n : Nat) (x : Context) : (putCtx s n x).cores = s.cores := rfl
@[simp] theorem putCtx_seqs (s : State) (n : Nat) (x : Context) : (putCtx s n x).seqs = s.seqs := rfl
@[simp] theorem putCtx_banks (s : State) (n : Nat) (x : Context) : (putCtx s n x).banks = s.banks := rfl
@[simp] theorem putCtx_children (s : State) (n : Nat) (x : Context) : (putCtx s n x).children = s.children := rfl
@[simp] theorem putCtx_childOrder (s : State) (n : Nat) (x : Context) : (putCtx s n x).childOrder = s.childOrder := rfl
@[simp] theorem putCtx_owed (s : State) (n : Nat) (x : Context) : (putCtx s n x).owed = s.owed := rfl
@[simp] theorem putCtx_invals (s : State) (n : Nat) (x : Context) : (putCtx s n x).invals = s.invals := rfl
@[simp] theorem putCtx_congested (s : State) (n : Nat) (x : Context) : (putCtx s n x).congested = s.congested := rfl
@[simp] theorem putCtx_links (s : State) (n : Nat) (x : Context) : (putCtx s n x).links = s.links := rfl
@[simp] theorem putCtx_modid (s : State) (n : Nat) (x : Context) : (putCtx s n x).modid = s.modid := rfl
@[simp] theorem putCtx_routes (s : State) (n : Nat) (x : Context) : (putCtx s n x).routes = s.routes := rfl
@[simp] theorem putCtx_expBase (s : State) (n : Nat) (x : Context) : (putCtx s n x).expBase = s.expBase := rfl
@[simp] theorem putCtx_expCtl (s : State) (n : Nat) (x : Context) : (putCtx s n x).expCtl = s.expCtl := rfl
@[simp] theorem putCtx_remotes (s : State) (n : Nat) (x : Context) : (putCtx s n x).remotes = s.remotes := rfl
@[simp] theorem putCtx_remoteCtr (s : State) (n : Nat) (x : Context) : (putCtx s n x).remoteCtr = s.remoteCtr := rfl
@[simp] theorem putCtx_collIn (s : State) (n : Nat) (x : Context) : (putCtx s n x).collIn = s.collIn := rfl
@[simp] theorem putCtx_heads (s : State) (n : Nat) (x : Context) : (putCtx s n x).heads = s.heads := rfl
@[simp] theorem putCtx_streams (s : State) (n : Nat) (x : Context) : (putCtx s n x).streams = s.streams := rfl
@[simp] theorem putCtx_slcores (s : State) (n : Nat) (x : Context) : (putCtx s n x).slcores = s.slcores := rfl
@[simp] theorem putCtx_tarnRun (s : State) (n : Nat) (x : Context) : (putCtx s n x).tarnRun = s.tarnRun := rfl
@[simp] theorem putCtx_captures (s : State) (n : Nat) (x : Context) : (putCtx s n x).captures = s.captures := rfl
@[simp] theorem putCtx_energyWeights (s : State) (n : Nat) (x : Context) : (putCtx s n x).energyWeights = s.energyWeights := rfl
@[simp] theorem putCtx_captureCtr (s : State) (n : Nat) (x : Context) : (putCtx s n x).captureCtr = s.captureCtr := rfl
@[simp] theorem putCtx_boot (s : State) (n : Nat) (x : Context) : (putCtx s n x).boot = s.boot := rfl
@[simp] theorem putCtx_repair (s : State) (n : Nat) (x : Context) : (putCtx s n x).repair = s.repair := rfl
@[simp] theorem putQueue_agenda (s : State) (n : Nat) (x : Queue) : (putQueue s n x).agenda = s.agenda := rfl
@[simp] theorem putQueue_args (s : State) (n : Nat) (x : Queue) : (putQueue s n x).args = s.args := rfl
@[simp] theorem putQueue_cur (s : State) (n : Nat) (x : Queue) : (putQueue s n x).cur = s.cur := rfl
@[simp] theorem putQueue_slw (s : State) (n : Nat) (x : Queue) : (putQueue s n x).slw = s.slw := rfl
@[simp] theorem putQueue_freeCtr (s : State) (n : Nat) (x : Queue) : (putQueue s n x).freeCtr = s.freeCtr := rfl
@[simp] theorem putQueue_epoch (s : State) (n : Nat) (x : Queue) : (putQueue s n x).epoch = s.epoch := rfl
@[simp] theorem putQueue_hostData (s : State) (n : Nat) (x : Queue) : (putQueue s n x).hostData = s.hostData := rfl
@[simp] theorem putQueue_mem (s : State) (n : Nat) (x : Queue) : (putQueue s n x).mem = s.mem := rfl
@[simp] theorem putQueue_pond (s : State) (n : Nat) (x : Queue) : (putQueue s n x).pond = s.pond := rfl
@[simp] theorem putQueue_lineStore (s : State) (n : Nat) (x : Queue) : (putQueue s n x).lineStore = s.lineStore := rfl
@[simp] theorem putQueue_acc (s : State) (n : Nat) (x : Queue) : (putQueue s n x).acc = s.acc := rfl
@[simp] theorem putQueue_tarnAcc (s : State) (n : Nat) (x : Queue) : (putQueue s n x).tarnAcc = s.tarnAcc := rfl
@[simp] theorem putQueue_tarnXflags (s : State) (n : Nat) (x : Queue) : (putQueue s n x).tarnXflags = s.tarnXflags := rfl
@[simp] theorem putQueue_copies (s : State) (n : Nat) (x : Queue) : (putQueue s n x).copies = s.copies := rfl
@[simp] theorem putQueue_tlb (s : State) (n : Nat) (x : Queue) : (putQueue s n x).tlb = s.tlb := rfl
@[simp] theorem putQueue_ctxs (s : State) (n : Nat) (x : Queue) : (putQueue s n x).ctxs = s.ctxs := rfl
@[simp] theorem putQueue_lastServed (s : State) (n : Nat) (x : Queue) : (putQueue s n x).lastServed = s.lastServed := rfl
@[simp] theorem putQueue_kernels (s : State) (n : Nat) (x : Queue) : (putQueue s n x).kernels = s.kernels := rfl
@[simp] theorem putQueue_sets (s : State) (n : Nat) (x : Queue) : (putQueue s n x).sets = s.sets := rfl
@[simp] theorem putQueue_lastCluster (s : State) (n : Nat) (x : Queue) : (putQueue s n x).lastCluster = s.lastCluster := rfl
@[simp] theorem putQueue_groups (s : State) (n : Nat) (x : Queue) : (putQueue s n x).groups = s.groups := rfl
@[simp] theorem putQueue_cores (s : State) (n : Nat) (x : Queue) : (putQueue s n x).cores = s.cores := rfl
@[simp] theorem putQueue_seqs (s : State) (n : Nat) (x : Queue) : (putQueue s n x).seqs = s.seqs := rfl
@[simp] theorem putQueue_banks (s : State) (n : Nat) (x : Queue) : (putQueue s n x).banks = s.banks := rfl
@[simp] theorem putQueue_children (s : State) (n : Nat) (x : Queue) : (putQueue s n x).children = s.children := rfl
@[simp] theorem putQueue_childOrder (s : State) (n : Nat) (x : Queue) : (putQueue s n x).childOrder = s.childOrder := rfl
@[simp] theorem putQueue_owed (s : State) (n : Nat) (x : Queue) : (putQueue s n x).owed = s.owed := rfl
@[simp] theorem putQueue_invals (s : State) (n : Nat) (x : Queue) : (putQueue s n x).invals = s.invals := rfl
@[simp] theorem putQueue_congested (s : State) (n : Nat) (x : Queue) : (putQueue s n x).congested = s.congested := rfl
@[simp] theorem putQueue_links (s : State) (n : Nat) (x : Queue) : (putQueue s n x).links = s.links := rfl
@[simp] theorem putQueue_modid (s : State) (n : Nat) (x : Queue) : (putQueue s n x).modid = s.modid := rfl
@[simp] theorem putQueue_routes (s : State) (n : Nat) (x : Queue) : (putQueue s n x).routes = s.routes := rfl
@[simp] theorem putQueue_expBase (s : State) (n : Nat) (x : Queue) : (putQueue s n x).expBase = s.expBase := rfl
@[simp] theorem putQueue_expCtl (s : State) (n : Nat) (x : Queue) : (putQueue s n x).expCtl = s.expCtl := rfl
@[simp] theorem putQueue_remotes (s : State) (n : Nat) (x : Queue) : (putQueue s n x).remotes = s.remotes := rfl
@[simp] theorem putQueue_remoteCtr (s : State) (n : Nat) (x : Queue) : (putQueue s n x).remoteCtr = s.remoteCtr := rfl
@[simp] theorem putQueue_collIn (s : State) (n : Nat) (x : Queue) : (putQueue s n x).collIn = s.collIn := rfl
@[simp] theorem putQueue_heads (s : State) (n : Nat) (x : Queue) : (putQueue s n x).heads = s.heads := rfl
@[simp] theorem putQueue_streams (s : State) (n : Nat) (x : Queue) : (putQueue s n x).streams = s.streams := rfl
@[simp] theorem putQueue_slcores (s : State) (n : Nat) (x : Queue) : (putQueue s n x).slcores = s.slcores := rfl
@[simp] theorem putQueue_tarnRun (s : State) (n : Nat) (x : Queue) : (putQueue s n x).tarnRun = s.tarnRun := rfl
@[simp] theorem putQueue_captures (s : State) (n : Nat) (x : Queue) : (putQueue s n x).captures = s.captures := rfl
@[simp] theorem putQueue_energyWeights (s : State) (n : Nat) (x : Queue) : (putQueue s n x).energyWeights = s.energyWeights := rfl
@[simp] theorem putQueue_captureCtr (s : State) (n : Nat) (x : Queue) : (putQueue s n x).captureCtr = s.captureCtr := rfl
@[simp] theorem putQueue_boot (s : State) (n : Nat) (x : Queue) : (putQueue s n x).boot = s.boot := rfl
@[simp] theorem putQueue_repair (s : State) (n : Nat) (x : Queue) : (putQueue s n x).repair = s.repair := rfl
@[simp] theorem putCore_agenda (s : State) (n : Nat) (x : Core) : (putCore s n x).agenda = s.agenda := rfl
@[simp] theorem putCore_args (s : State) (n : Nat) (x : Core) : (putCore s n x).args = s.args := rfl
@[simp] theorem putCore_cur (s : State) (n : Nat) (x : Core) : (putCore s n x).cur = s.cur := rfl
@[simp] theorem putCore_slw (s : State) (n : Nat) (x : Core) : (putCore s n x).slw = s.slw := rfl
@[simp] theorem putCore_freeCtr (s : State) (n : Nat) (x : Core) : (putCore s n x).freeCtr = s.freeCtr := rfl
@[simp] theorem putCore_epoch (s : State) (n : Nat) (x : Core) : (putCore s n x).epoch = s.epoch := rfl
@[simp] theorem putCore_hostData (s : State) (n : Nat) (x : Core) : (putCore s n x).hostData = s.hostData := rfl
@[simp] theorem putCore_mem (s : State) (n : Nat) (x : Core) : (putCore s n x).mem = s.mem := rfl
@[simp] theorem putCore_pond (s : State) (n : Nat) (x : Core) : (putCore s n x).pond = s.pond := rfl
@[simp] theorem putCore_lineStore (s : State) (n : Nat) (x : Core) : (putCore s n x).lineStore = s.lineStore := rfl
@[simp] theorem putCore_acc (s : State) (n : Nat) (x : Core) : (putCore s n x).acc = s.acc := rfl
@[simp] theorem putCore_tarnAcc (s : State) (n : Nat) (x : Core) : (putCore s n x).tarnAcc = s.tarnAcc := rfl
@[simp] theorem putCore_tarnXflags (s : State) (n : Nat) (x : Core) : (putCore s n x).tarnXflags = s.tarnXflags := rfl
@[simp] theorem putCore_copies (s : State) (n : Nat) (x : Core) : (putCore s n x).copies = s.copies := rfl
@[simp] theorem putCore_tlb (s : State) (n : Nat) (x : Core) : (putCore s n x).tlb = s.tlb := rfl
@[simp] theorem putCore_ctxs (s : State) (n : Nat) (x : Core) : (putCore s n x).ctxs = s.ctxs := rfl
@[simp] theorem putCore_queues (s : State) (n : Nat) (x : Core) : (putCore s n x).queues = s.queues := rfl
@[simp] theorem putCore_lastServed (s : State) (n : Nat) (x : Core) : (putCore s n x).lastServed = s.lastServed := rfl
@[simp] theorem putCore_kernels (s : State) (n : Nat) (x : Core) : (putCore s n x).kernels = s.kernels := rfl
@[simp] theorem putCore_sets (s : State) (n : Nat) (x : Core) : (putCore s n x).sets = s.sets := rfl
@[simp] theorem putCore_lastCluster (s : State) (n : Nat) (x : Core) : (putCore s n x).lastCluster = s.lastCluster := rfl
@[simp] theorem putCore_groups (s : State) (n : Nat) (x : Core) : (putCore s n x).groups = s.groups := rfl
@[simp] theorem putCore_seqs (s : State) (n : Nat) (x : Core) : (putCore s n x).seqs = s.seqs := rfl
@[simp] theorem putCore_banks (s : State) (n : Nat) (x : Core) : (putCore s n x).banks = s.banks := rfl
@[simp] theorem putCore_children (s : State) (n : Nat) (x : Core) : (putCore s n x).children = s.children := rfl
@[simp] theorem putCore_childOrder (s : State) (n : Nat) (x : Core) : (putCore s n x).childOrder = s.childOrder := rfl
@[simp] theorem putCore_owed (s : State) (n : Nat) (x : Core) : (putCore s n x).owed = s.owed := rfl
@[simp] theorem putCore_invals (s : State) (n : Nat) (x : Core) : (putCore s n x).invals = s.invals := rfl
@[simp] theorem putCore_congested (s : State) (n : Nat) (x : Core) : (putCore s n x).congested = s.congested := rfl
@[simp] theorem putCore_links (s : State) (n : Nat) (x : Core) : (putCore s n x).links = s.links := rfl
@[simp] theorem putCore_modid (s : State) (n : Nat) (x : Core) : (putCore s n x).modid = s.modid := rfl
@[simp] theorem putCore_routes (s : State) (n : Nat) (x : Core) : (putCore s n x).routes = s.routes := rfl
@[simp] theorem putCore_expBase (s : State) (n : Nat) (x : Core) : (putCore s n x).expBase = s.expBase := rfl
@[simp] theorem putCore_expCtl (s : State) (n : Nat) (x : Core) : (putCore s n x).expCtl = s.expCtl := rfl
@[simp] theorem putCore_remotes (s : State) (n : Nat) (x : Core) : (putCore s n x).remotes = s.remotes := rfl
@[simp] theorem putCore_remoteCtr (s : State) (n : Nat) (x : Core) : (putCore s n x).remoteCtr = s.remoteCtr := rfl
@[simp] theorem putCore_collIn (s : State) (n : Nat) (x : Core) : (putCore s n x).collIn = s.collIn := rfl
@[simp] theorem putCore_heads (s : State) (n : Nat) (x : Core) : (putCore s n x).heads = s.heads := rfl
@[simp] theorem putCore_streams (s : State) (n : Nat) (x : Core) : (putCore s n x).streams = s.streams := rfl
@[simp] theorem putCore_slcores (s : State) (n : Nat) (x : Core) : (putCore s n x).slcores = s.slcores := rfl
@[simp] theorem putCore_tarnRun (s : State) (n : Nat) (x : Core) : (putCore s n x).tarnRun = s.tarnRun := rfl
@[simp] theorem putCore_captures (s : State) (n : Nat) (x : Core) : (putCore s n x).captures = s.captures := rfl
@[simp] theorem putCore_energyWeights (s : State) (n : Nat) (x : Core) : (putCore s n x).energyWeights = s.energyWeights := rfl
@[simp] theorem putCore_captureCtr (s : State) (n : Nat) (x : Core) : (putCore s n x).captureCtr = s.captureCtr := rfl
@[simp] theorem putCore_boot (s : State) (n : Nat) (x : Core) : (putCore s n x).boot = s.boot := rfl
@[simp] theorem putCore_repair (s : State) (n : Nat) (x : Core) : (putCore s n x).repair = s.repair := rfl
@[simp] theorem putSeq_agenda (s : State) (n : Nat) (x : Seq) : (putSeq s n x).agenda = s.agenda := rfl
@[simp] theorem putSeq_args (s : State) (n : Nat) (x : Seq) : (putSeq s n x).args = s.args := rfl
@[simp] theorem putSeq_cur (s : State) (n : Nat) (x : Seq) : (putSeq s n x).cur = s.cur := rfl
@[simp] theorem putSeq_slw (s : State) (n : Nat) (x : Seq) : (putSeq s n x).slw = s.slw := rfl
@[simp] theorem putSeq_freeCtr (s : State) (n : Nat) (x : Seq) : (putSeq s n x).freeCtr = s.freeCtr := rfl
@[simp] theorem putSeq_epoch (s : State) (n : Nat) (x : Seq) : (putSeq s n x).epoch = s.epoch := rfl
@[simp] theorem putSeq_hostData (s : State) (n : Nat) (x : Seq) : (putSeq s n x).hostData = s.hostData := rfl
@[simp] theorem putSeq_mem (s : State) (n : Nat) (x : Seq) : (putSeq s n x).mem = s.mem := rfl
@[simp] theorem putSeq_pond (s : State) (n : Nat) (x : Seq) : (putSeq s n x).pond = s.pond := rfl
@[simp] theorem putSeq_lineStore (s : State) (n : Nat) (x : Seq) : (putSeq s n x).lineStore = s.lineStore := rfl
@[simp] theorem putSeq_acc (s : State) (n : Nat) (x : Seq) : (putSeq s n x).acc = s.acc := rfl
@[simp] theorem putSeq_tarnAcc (s : State) (n : Nat) (x : Seq) : (putSeq s n x).tarnAcc = s.tarnAcc := rfl
@[simp] theorem putSeq_tarnXflags (s : State) (n : Nat) (x : Seq) : (putSeq s n x).tarnXflags = s.tarnXflags := rfl
@[simp] theorem putSeq_copies (s : State) (n : Nat) (x : Seq) : (putSeq s n x).copies = s.copies := rfl
@[simp] theorem putSeq_tlb (s : State) (n : Nat) (x : Seq) : (putSeq s n x).tlb = s.tlb := rfl
@[simp] theorem putSeq_ctxs (s : State) (n : Nat) (x : Seq) : (putSeq s n x).ctxs = s.ctxs := rfl
@[simp] theorem putSeq_queues (s : State) (n : Nat) (x : Seq) : (putSeq s n x).queues = s.queues := rfl
@[simp] theorem putSeq_lastServed (s : State) (n : Nat) (x : Seq) : (putSeq s n x).lastServed = s.lastServed := rfl
@[simp] theorem putSeq_kernels (s : State) (n : Nat) (x : Seq) : (putSeq s n x).kernels = s.kernels := rfl
@[simp] theorem putSeq_sets (s : State) (n : Nat) (x : Seq) : (putSeq s n x).sets = s.sets := rfl
@[simp] theorem putSeq_lastCluster (s : State) (n : Nat) (x : Seq) : (putSeq s n x).lastCluster = s.lastCluster := rfl
@[simp] theorem putSeq_groups (s : State) (n : Nat) (x : Seq) : (putSeq s n x).groups = s.groups := rfl
@[simp] theorem putSeq_cores (s : State) (n : Nat) (x : Seq) : (putSeq s n x).cores = s.cores := rfl
@[simp] theorem putSeq_banks (s : State) (n : Nat) (x : Seq) : (putSeq s n x).banks = s.banks := rfl
@[simp] theorem putSeq_children (s : State) (n : Nat) (x : Seq) : (putSeq s n x).children = s.children := rfl
@[simp] theorem putSeq_childOrder (s : State) (n : Nat) (x : Seq) : (putSeq s n x).childOrder = s.childOrder := rfl
@[simp] theorem putSeq_owed (s : State) (n : Nat) (x : Seq) : (putSeq s n x).owed = s.owed := rfl
@[simp] theorem putSeq_invals (s : State) (n : Nat) (x : Seq) : (putSeq s n x).invals = s.invals := rfl
@[simp] theorem putSeq_congested (s : State) (n : Nat) (x : Seq) : (putSeq s n x).congested = s.congested := rfl
@[simp] theorem putSeq_links (s : State) (n : Nat) (x : Seq) : (putSeq s n x).links = s.links := rfl
@[simp] theorem putSeq_modid (s : State) (n : Nat) (x : Seq) : (putSeq s n x).modid = s.modid := rfl
@[simp] theorem putSeq_routes (s : State) (n : Nat) (x : Seq) : (putSeq s n x).routes = s.routes := rfl
@[simp] theorem putSeq_expBase (s : State) (n : Nat) (x : Seq) : (putSeq s n x).expBase = s.expBase := rfl
@[simp] theorem putSeq_expCtl (s : State) (n : Nat) (x : Seq) : (putSeq s n x).expCtl = s.expCtl := rfl
@[simp] theorem putSeq_remotes (s : State) (n : Nat) (x : Seq) : (putSeq s n x).remotes = s.remotes := rfl
@[simp] theorem putSeq_remoteCtr (s : State) (n : Nat) (x : Seq) : (putSeq s n x).remoteCtr = s.remoteCtr := rfl
@[simp] theorem putSeq_collIn (s : State) (n : Nat) (x : Seq) : (putSeq s n x).collIn = s.collIn := rfl
@[simp] theorem putSeq_heads (s : State) (n : Nat) (x : Seq) : (putSeq s n x).heads = s.heads := rfl
@[simp] theorem putSeq_streams (s : State) (n : Nat) (x : Seq) : (putSeq s n x).streams = s.streams := rfl
@[simp] theorem putSeq_slcores (s : State) (n : Nat) (x : Seq) : (putSeq s n x).slcores = s.slcores := rfl
@[simp] theorem putSeq_tarnRun (s : State) (n : Nat) (x : Seq) : (putSeq s n x).tarnRun = s.tarnRun := rfl
@[simp] theorem putSeq_captures (s : State) (n : Nat) (x : Seq) : (putSeq s n x).captures = s.captures := rfl
@[simp] theorem putSeq_energyWeights (s : State) (n : Nat) (x : Seq) : (putSeq s n x).energyWeights = s.energyWeights := rfl
@[simp] theorem putSeq_captureCtr (s : State) (n : Nat) (x : Seq) : (putSeq s n x).captureCtr = s.captureCtr := rfl
@[simp] theorem putSeq_boot (s : State) (n : Nat) (x : Seq) : (putSeq s n x).boot = s.boot := rfl
@[simp] theorem putSeq_repair (s : State) (n : Nat) (x : Seq) : (putSeq s n x).repair = s.repair := rfl
@[simp] theorem putBank_agenda (s : State) (n : Nat) (x : Bank) : (putBank s n x).agenda = s.agenda := rfl
@[simp] theorem putBank_args (s : State) (n : Nat) (x : Bank) : (putBank s n x).args = s.args := rfl
@[simp] theorem putBank_cur (s : State) (n : Nat) (x : Bank) : (putBank s n x).cur = s.cur := rfl
@[simp] theorem putBank_slw (s : State) (n : Nat) (x : Bank) : (putBank s n x).slw = s.slw := rfl
@[simp] theorem putBank_freeCtr (s : State) (n : Nat) (x : Bank) : (putBank s n x).freeCtr = s.freeCtr := rfl
@[simp] theorem putBank_epoch (s : State) (n : Nat) (x : Bank) : (putBank s n x).epoch = s.epoch := rfl
@[simp] theorem putBank_hostData (s : State) (n : Nat) (x : Bank) : (putBank s n x).hostData = s.hostData := rfl
@[simp] theorem putBank_mem (s : State) (n : Nat) (x : Bank) : (putBank s n x).mem = s.mem := rfl
@[simp] theorem putBank_pond (s : State) (n : Nat) (x : Bank) : (putBank s n x).pond = s.pond := rfl
@[simp] theorem putBank_lineStore (s : State) (n : Nat) (x : Bank) : (putBank s n x).lineStore = s.lineStore := rfl
@[simp] theorem putBank_acc (s : State) (n : Nat) (x : Bank) : (putBank s n x).acc = s.acc := rfl
@[simp] theorem putBank_tarnAcc (s : State) (n : Nat) (x : Bank) : (putBank s n x).tarnAcc = s.tarnAcc := rfl
@[simp] theorem putBank_tarnXflags (s : State) (n : Nat) (x : Bank) : (putBank s n x).tarnXflags = s.tarnXflags := rfl
@[simp] theorem putBank_copies (s : State) (n : Nat) (x : Bank) : (putBank s n x).copies = s.copies := rfl
@[simp] theorem putBank_tlb (s : State) (n : Nat) (x : Bank) : (putBank s n x).tlb = s.tlb := rfl
@[simp] theorem putBank_ctxs (s : State) (n : Nat) (x : Bank) : (putBank s n x).ctxs = s.ctxs := rfl
@[simp] theorem putBank_queues (s : State) (n : Nat) (x : Bank) : (putBank s n x).queues = s.queues := rfl
@[simp] theorem putBank_lastServed (s : State) (n : Nat) (x : Bank) : (putBank s n x).lastServed = s.lastServed := rfl
@[simp] theorem putBank_kernels (s : State) (n : Nat) (x : Bank) : (putBank s n x).kernels = s.kernels := rfl
@[simp] theorem putBank_sets (s : State) (n : Nat) (x : Bank) : (putBank s n x).sets = s.sets := rfl
@[simp] theorem putBank_lastCluster (s : State) (n : Nat) (x : Bank) : (putBank s n x).lastCluster = s.lastCluster := rfl
@[simp] theorem putBank_groups (s : State) (n : Nat) (x : Bank) : (putBank s n x).groups = s.groups := rfl
@[simp] theorem putBank_cores (s : State) (n : Nat) (x : Bank) : (putBank s n x).cores = s.cores := rfl
@[simp] theorem putBank_seqs (s : State) (n : Nat) (x : Bank) : (putBank s n x).seqs = s.seqs := rfl
@[simp] theorem putBank_children (s : State) (n : Nat) (x : Bank) : (putBank s n x).children = s.children := rfl
@[simp] theorem putBank_childOrder (s : State) (n : Nat) (x : Bank) : (putBank s n x).childOrder = s.childOrder := rfl
@[simp] theorem putBank_owed (s : State) (n : Nat) (x : Bank) : (putBank s n x).owed = s.owed := rfl
@[simp] theorem putBank_invals (s : State) (n : Nat) (x : Bank) : (putBank s n x).invals = s.invals := rfl
@[simp] theorem putBank_congested (s : State) (n : Nat) (x : Bank) : (putBank s n x).congested = s.congested := rfl
@[simp] theorem putBank_links (s : State) (n : Nat) (x : Bank) : (putBank s n x).links = s.links := rfl
@[simp] theorem putBank_modid (s : State) (n : Nat) (x : Bank) : (putBank s n x).modid = s.modid := rfl
@[simp] theorem putBank_routes (s : State) (n : Nat) (x : Bank) : (putBank s n x).routes = s.routes := rfl
@[simp] theorem putBank_expBase (s : State) (n : Nat) (x : Bank) : (putBank s n x).expBase = s.expBase := rfl
@[simp] theorem putBank_expCtl (s : State) (n : Nat) (x : Bank) : (putBank s n x).expCtl = s.expCtl := rfl
@[simp] theorem putBank_remotes (s : State) (n : Nat) (x : Bank) : (putBank s n x).remotes = s.remotes := rfl
@[simp] theorem putBank_remoteCtr (s : State) (n : Nat) (x : Bank) : (putBank s n x).remoteCtr = s.remoteCtr := rfl
@[simp] theorem putBank_collIn (s : State) (n : Nat) (x : Bank) : (putBank s n x).collIn = s.collIn := rfl
@[simp] theorem putBank_heads (s : State) (n : Nat) (x : Bank) : (putBank s n x).heads = s.heads := rfl
@[simp] theorem putBank_streams (s : State) (n : Nat) (x : Bank) : (putBank s n x).streams = s.streams := rfl
@[simp] theorem putBank_slcores (s : State) (n : Nat) (x : Bank) : (putBank s n x).slcores = s.slcores := rfl
@[simp] theorem putBank_tarnRun (s : State) (n : Nat) (x : Bank) : (putBank s n x).tarnRun = s.tarnRun := rfl
@[simp] theorem putBank_captures (s : State) (n : Nat) (x : Bank) : (putBank s n x).captures = s.captures := rfl
@[simp] theorem putBank_energyWeights (s : State) (n : Nat) (x : Bank) : (putBank s n x).energyWeights = s.energyWeights := rfl
@[simp] theorem putBank_captureCtr (s : State) (n : Nat) (x : Bank) : (putBank s n x).captureCtr = s.captureCtr := rfl
@[simp] theorem putBank_boot (s : State) (n : Nat) (x : Bank) : (putBank s n x).boot = s.boot := rfl
@[simp] theorem putBank_repair (s : State) (n : Nat) (x : Bank) : (putBank s n x).repair = s.repair := rfl
@[simp] theorem putChild_agenda (s : State) (n : Nat) (x : Child) : (putChild s n x).agenda = s.agenda := rfl
@[simp] theorem putChild_args (s : State) (n : Nat) (x : Child) : (putChild s n x).args = s.args := rfl
@[simp] theorem putChild_cur (s : State) (n : Nat) (x : Child) : (putChild s n x).cur = s.cur := rfl
@[simp] theorem putChild_slw (s : State) (n : Nat) (x : Child) : (putChild s n x).slw = s.slw := rfl
@[simp] theorem putChild_freeCtr (s : State) (n : Nat) (x : Child) : (putChild s n x).freeCtr = s.freeCtr := rfl
@[simp] theorem putChild_epoch (s : State) (n : Nat) (x : Child) : (putChild s n x).epoch = s.epoch := rfl
@[simp] theorem putChild_hostData (s : State) (n : Nat) (x : Child) : (putChild s n x).hostData = s.hostData := rfl
@[simp] theorem putChild_mem (s : State) (n : Nat) (x : Child) : (putChild s n x).mem = s.mem := rfl
@[simp] theorem putChild_pond (s : State) (n : Nat) (x : Child) : (putChild s n x).pond = s.pond := rfl
@[simp] theorem putChild_lineStore (s : State) (n : Nat) (x : Child) : (putChild s n x).lineStore = s.lineStore := rfl
@[simp] theorem putChild_acc (s : State) (n : Nat) (x : Child) : (putChild s n x).acc = s.acc := rfl
@[simp] theorem putChild_tarnAcc (s : State) (n : Nat) (x : Child) : (putChild s n x).tarnAcc = s.tarnAcc := rfl
@[simp] theorem putChild_tarnXflags (s : State) (n : Nat) (x : Child) : (putChild s n x).tarnXflags = s.tarnXflags := rfl
@[simp] theorem putChild_copies (s : State) (n : Nat) (x : Child) : (putChild s n x).copies = s.copies := rfl
@[simp] theorem putChild_tlb (s : State) (n : Nat) (x : Child) : (putChild s n x).tlb = s.tlb := rfl
@[simp] theorem putChild_ctxs (s : State) (n : Nat) (x : Child) : (putChild s n x).ctxs = s.ctxs := rfl
@[simp] theorem putChild_queues (s : State) (n : Nat) (x : Child) : (putChild s n x).queues = s.queues := rfl
@[simp] theorem putChild_lastServed (s : State) (n : Nat) (x : Child) : (putChild s n x).lastServed = s.lastServed := rfl
@[simp] theorem putChild_kernels (s : State) (n : Nat) (x : Child) : (putChild s n x).kernels = s.kernels := rfl
@[simp] theorem putChild_sets (s : State) (n : Nat) (x : Child) : (putChild s n x).sets = s.sets := rfl
@[simp] theorem putChild_lastCluster (s : State) (n : Nat) (x : Child) : (putChild s n x).lastCluster = s.lastCluster := rfl
@[simp] theorem putChild_groups (s : State) (n : Nat) (x : Child) : (putChild s n x).groups = s.groups := rfl
@[simp] theorem putChild_cores (s : State) (n : Nat) (x : Child) : (putChild s n x).cores = s.cores := rfl
@[simp] theorem putChild_seqs (s : State) (n : Nat) (x : Child) : (putChild s n x).seqs = s.seqs := rfl
@[simp] theorem putChild_banks (s : State) (n : Nat) (x : Child) : (putChild s n x).banks = s.banks := rfl
@[simp] theorem putChild_childOrder (s : State) (n : Nat) (x : Child) : (putChild s n x).childOrder = s.childOrder := rfl
@[simp] theorem putChild_owed (s : State) (n : Nat) (x : Child) : (putChild s n x).owed = s.owed := rfl
@[simp] theorem putChild_invals (s : State) (n : Nat) (x : Child) : (putChild s n x).invals = s.invals := rfl
@[simp] theorem putChild_congested (s : State) (n : Nat) (x : Child) : (putChild s n x).congested = s.congested := rfl
@[simp] theorem putChild_links (s : State) (n : Nat) (x : Child) : (putChild s n x).links = s.links := rfl
@[simp] theorem putChild_modid (s : State) (n : Nat) (x : Child) : (putChild s n x).modid = s.modid := rfl
@[simp] theorem putChild_routes (s : State) (n : Nat) (x : Child) : (putChild s n x).routes = s.routes := rfl
@[simp] theorem putChild_expBase (s : State) (n : Nat) (x : Child) : (putChild s n x).expBase = s.expBase := rfl
@[simp] theorem putChild_expCtl (s : State) (n : Nat) (x : Child) : (putChild s n x).expCtl = s.expCtl := rfl
@[simp] theorem putChild_remotes (s : State) (n : Nat) (x : Child) : (putChild s n x).remotes = s.remotes := rfl
@[simp] theorem putChild_remoteCtr (s : State) (n : Nat) (x : Child) : (putChild s n x).remoteCtr = s.remoteCtr := rfl
@[simp] theorem putChild_collIn (s : State) (n : Nat) (x : Child) : (putChild s n x).collIn = s.collIn := rfl
@[simp] theorem putChild_heads (s : State) (n : Nat) (x : Child) : (putChild s n x).heads = s.heads := rfl
@[simp] theorem putChild_streams (s : State) (n : Nat) (x : Child) : (putChild s n x).streams = s.streams := rfl
@[simp] theorem putChild_slcores (s : State) (n : Nat) (x : Child) : (putChild s n x).slcores = s.slcores := rfl
@[simp] theorem putChild_tarnRun (s : State) (n : Nat) (x : Child) : (putChild s n x).tarnRun = s.tarnRun := rfl
@[simp] theorem putChild_captures (s : State) (n : Nat) (x : Child) : (putChild s n x).captures = s.captures := rfl
@[simp] theorem putChild_energyWeights (s : State) (n : Nat) (x : Child) : (putChild s n x).energyWeights = s.energyWeights := rfl
@[simp] theorem putChild_captureCtr (s : State) (n : Nat) (x : Child) : (putChild s n x).captureCtr = s.captureCtr := rfl
@[simp] theorem putChild_boot (s : State) (n : Nat) (x : Child) : (putChild s n x).boot = s.boot := rfl
@[simp] theorem putChild_repair (s : State) (n : Nat) (x : Child) : (putChild s n x).repair = s.repair := rfl
@[simp] theorem putHead_agenda (s : State) (n : Nat) (x : Head) : (putHead s n x).agenda = s.agenda := rfl
@[simp] theorem putHead_args (s : State) (n : Nat) (x : Head) : (putHead s n x).args = s.args := rfl
@[simp] theorem putHead_cur (s : State) (n : Nat) (x : Head) : (putHead s n x).cur = s.cur := rfl
@[simp] theorem putHead_slw (s : State) (n : Nat) (x : Head) : (putHead s n x).slw = s.slw := rfl
@[simp] theorem putHead_freeCtr (s : State) (n : Nat) (x : Head) : (putHead s n x).freeCtr = s.freeCtr := rfl
@[simp] theorem putHead_epoch (s : State) (n : Nat) (x : Head) : (putHead s n x).epoch = s.epoch := rfl
@[simp] theorem putHead_hostData (s : State) (n : Nat) (x : Head) : (putHead s n x).hostData = s.hostData := rfl
@[simp] theorem putHead_mem (s : State) (n : Nat) (x : Head) : (putHead s n x).mem = s.mem := rfl
@[simp] theorem putHead_pond (s : State) (n : Nat) (x : Head) : (putHead s n x).pond = s.pond := rfl
@[simp] theorem putHead_lineStore (s : State) (n : Nat) (x : Head) : (putHead s n x).lineStore = s.lineStore := rfl
@[simp] theorem putHead_acc (s : State) (n : Nat) (x : Head) : (putHead s n x).acc = s.acc := rfl
@[simp] theorem putHead_tarnAcc (s : State) (n : Nat) (x : Head) : (putHead s n x).tarnAcc = s.tarnAcc := rfl
@[simp] theorem putHead_tarnXflags (s : State) (n : Nat) (x : Head) : (putHead s n x).tarnXflags = s.tarnXflags := rfl
@[simp] theorem putHead_copies (s : State) (n : Nat) (x : Head) : (putHead s n x).copies = s.copies := rfl
@[simp] theorem putHead_tlb (s : State) (n : Nat) (x : Head) : (putHead s n x).tlb = s.tlb := rfl
@[simp] theorem putHead_ctxs (s : State) (n : Nat) (x : Head) : (putHead s n x).ctxs = s.ctxs := rfl
@[simp] theorem putHead_queues (s : State) (n : Nat) (x : Head) : (putHead s n x).queues = s.queues := rfl
@[simp] theorem putHead_lastServed (s : State) (n : Nat) (x : Head) : (putHead s n x).lastServed = s.lastServed := rfl
@[simp] theorem putHead_kernels (s : State) (n : Nat) (x : Head) : (putHead s n x).kernels = s.kernels := rfl
@[simp] theorem putHead_sets (s : State) (n : Nat) (x : Head) : (putHead s n x).sets = s.sets := rfl
@[simp] theorem putHead_lastCluster (s : State) (n : Nat) (x : Head) : (putHead s n x).lastCluster = s.lastCluster := rfl
@[simp] theorem putHead_groups (s : State) (n : Nat) (x : Head) : (putHead s n x).groups = s.groups := rfl
@[simp] theorem putHead_cores (s : State) (n : Nat) (x : Head) : (putHead s n x).cores = s.cores := rfl
@[simp] theorem putHead_seqs (s : State) (n : Nat) (x : Head) : (putHead s n x).seqs = s.seqs := rfl
@[simp] theorem putHead_banks (s : State) (n : Nat) (x : Head) : (putHead s n x).banks = s.banks := rfl
@[simp] theorem putHead_children (s : State) (n : Nat) (x : Head) : (putHead s n x).children = s.children := rfl
@[simp] theorem putHead_childOrder (s : State) (n : Nat) (x : Head) : (putHead s n x).childOrder = s.childOrder := rfl
@[simp] theorem putHead_owed (s : State) (n : Nat) (x : Head) : (putHead s n x).owed = s.owed := rfl
@[simp] theorem putHead_invals (s : State) (n : Nat) (x : Head) : (putHead s n x).invals = s.invals := rfl
@[simp] theorem putHead_congested (s : State) (n : Nat) (x : Head) : (putHead s n x).congested = s.congested := rfl
@[simp] theorem putHead_links (s : State) (n : Nat) (x : Head) : (putHead s n x).links = s.links := rfl
@[simp] theorem putHead_modid (s : State) (n : Nat) (x : Head) : (putHead s n x).modid = s.modid := rfl
@[simp] theorem putHead_routes (s : State) (n : Nat) (x : Head) : (putHead s n x).routes = s.routes := rfl
@[simp] theorem putHead_expBase (s : State) (n : Nat) (x : Head) : (putHead s n x).expBase = s.expBase := rfl
@[simp] theorem putHead_expCtl (s : State) (n : Nat) (x : Head) : (putHead s n x).expCtl = s.expCtl := rfl
@[simp] theorem putHead_remotes (s : State) (n : Nat) (x : Head) : (putHead s n x).remotes = s.remotes := rfl
@[simp] theorem putHead_remoteCtr (s : State) (n : Nat) (x : Head) : (putHead s n x).remoteCtr = s.remoteCtr := rfl
@[simp] theorem putHead_collIn (s : State) (n : Nat) (x : Head) : (putHead s n x).collIn = s.collIn := rfl
@[simp] theorem putHead_streams (s : State) (n : Nat) (x : Head) : (putHead s n x).streams = s.streams := rfl
@[simp] theorem putHead_slcores (s : State) (n : Nat) (x : Head) : (putHead s n x).slcores = s.slcores := rfl
@[simp] theorem putHead_tarnRun (s : State) (n : Nat) (x : Head) : (putHead s n x).tarnRun = s.tarnRun := rfl
@[simp] theorem putHead_captures (s : State) (n : Nat) (x : Head) : (putHead s n x).captures = s.captures := rfl
@[simp] theorem putHead_energyWeights (s : State) (n : Nat) (x : Head) : (putHead s n x).energyWeights = s.energyWeights := rfl
@[simp] theorem putHead_captureCtr (s : State) (n : Nat) (x : Head) : (putHead s n x).captureCtr = s.captureCtr := rfl
@[simp] theorem putHead_boot (s : State) (n : Nat) (x : Head) : (putHead s n x).boot = s.boot := rfl
@[simp] theorem putHead_repair (s : State) (n : Nat) (x : Head) : (putHead s n x).repair = s.repair := rfl
@[simp] theorem putLink_agenda (s : State) (n : Nat) (x : Link) : (putLink s n x).agenda = s.agenda := rfl
@[simp] theorem putLink_args (s : State) (n : Nat) (x : Link) : (putLink s n x).args = s.args := rfl
@[simp] theorem putLink_cur (s : State) (n : Nat) (x : Link) : (putLink s n x).cur = s.cur := rfl
@[simp] theorem putLink_slw (s : State) (n : Nat) (x : Link) : (putLink s n x).slw = s.slw := rfl
@[simp] theorem putLink_freeCtr (s : State) (n : Nat) (x : Link) : (putLink s n x).freeCtr = s.freeCtr := rfl
@[simp] theorem putLink_epoch (s : State) (n : Nat) (x : Link) : (putLink s n x).epoch = s.epoch := rfl
@[simp] theorem putLink_hostData (s : State) (n : Nat) (x : Link) : (putLink s n x).hostData = s.hostData := rfl
@[simp] theorem putLink_mem (s : State) (n : Nat) (x : Link) : (putLink s n x).mem = s.mem := rfl
@[simp] theorem putLink_pond (s : State) (n : Nat) (x : Link) : (putLink s n x).pond = s.pond := rfl
@[simp] theorem putLink_lineStore (s : State) (n : Nat) (x : Link) : (putLink s n x).lineStore = s.lineStore := rfl
@[simp] theorem putLink_acc (s : State) (n : Nat) (x : Link) : (putLink s n x).acc = s.acc := rfl
@[simp] theorem putLink_tarnAcc (s : State) (n : Nat) (x : Link) : (putLink s n x).tarnAcc = s.tarnAcc := rfl
@[simp] theorem putLink_tarnXflags (s : State) (n : Nat) (x : Link) : (putLink s n x).tarnXflags = s.tarnXflags := rfl
@[simp] theorem putLink_copies (s : State) (n : Nat) (x : Link) : (putLink s n x).copies = s.copies := rfl
@[simp] theorem putLink_tlb (s : State) (n : Nat) (x : Link) : (putLink s n x).tlb = s.tlb := rfl
@[simp] theorem putLink_ctxs (s : State) (n : Nat) (x : Link) : (putLink s n x).ctxs = s.ctxs := rfl
@[simp] theorem putLink_queues (s : State) (n : Nat) (x : Link) : (putLink s n x).queues = s.queues := rfl
@[simp] theorem putLink_lastServed (s : State) (n : Nat) (x : Link) : (putLink s n x).lastServed = s.lastServed := rfl
@[simp] theorem putLink_kernels (s : State) (n : Nat) (x : Link) : (putLink s n x).kernels = s.kernels := rfl
@[simp] theorem putLink_sets (s : State) (n : Nat) (x : Link) : (putLink s n x).sets = s.sets := rfl
@[simp] theorem putLink_lastCluster (s : State) (n : Nat) (x : Link) : (putLink s n x).lastCluster = s.lastCluster := rfl
@[simp] theorem putLink_groups (s : State) (n : Nat) (x : Link) : (putLink s n x).groups = s.groups := rfl
@[simp] theorem putLink_cores (s : State) (n : Nat) (x : Link) : (putLink s n x).cores = s.cores := rfl
@[simp] theorem putLink_seqs (s : State) (n : Nat) (x : Link) : (putLink s n x).seqs = s.seqs := rfl
@[simp] theorem putLink_banks (s : State) (n : Nat) (x : Link) : (putLink s n x).banks = s.banks := rfl
@[simp] theorem putLink_children (s : State) (n : Nat) (x : Link) : (putLink s n x).children = s.children := rfl
@[simp] theorem putLink_childOrder (s : State) (n : Nat) (x : Link) : (putLink s n x).childOrder = s.childOrder := rfl
@[simp] theorem putLink_owed (s : State) (n : Nat) (x : Link) : (putLink s n x).owed = s.owed := rfl
@[simp] theorem putLink_invals (s : State) (n : Nat) (x : Link) : (putLink s n x).invals = s.invals := rfl
@[simp] theorem putLink_congested (s : State) (n : Nat) (x : Link) : (putLink s n x).congested = s.congested := rfl
@[simp] theorem putLink_modid (s : State) (n : Nat) (x : Link) : (putLink s n x).modid = s.modid := rfl
@[simp] theorem putLink_routes (s : State) (n : Nat) (x : Link) : (putLink s n x).routes = s.routes := rfl
@[simp] theorem putLink_expBase (s : State) (n : Nat) (x : Link) : (putLink s n x).expBase = s.expBase := rfl
@[simp] theorem putLink_expCtl (s : State) (n : Nat) (x : Link) : (putLink s n x).expCtl = s.expCtl := rfl
@[simp] theorem putLink_remotes (s : State) (n : Nat) (x : Link) : (putLink s n x).remotes = s.remotes := rfl
@[simp] theorem putLink_remoteCtr (s : State) (n : Nat) (x : Link) : (putLink s n x).remoteCtr = s.remoteCtr := rfl
@[simp] theorem putLink_collIn (s : State) (n : Nat) (x : Link) : (putLink s n x).collIn = s.collIn := rfl
@[simp] theorem putLink_heads (s : State) (n : Nat) (x : Link) : (putLink s n x).heads = s.heads := rfl
@[simp] theorem putLink_streams (s : State) (n : Nat) (x : Link) : (putLink s n x).streams = s.streams := rfl
@[simp] theorem putLink_slcores (s : State) (n : Nat) (x : Link) : (putLink s n x).slcores = s.slcores := rfl
@[simp] theorem putLink_tarnRun (s : State) (n : Nat) (x : Link) : (putLink s n x).tarnRun = s.tarnRun := rfl
@[simp] theorem putLink_captures (s : State) (n : Nat) (x : Link) : (putLink s n x).captures = s.captures := rfl
@[simp] theorem putLink_energyWeights (s : State) (n : Nat) (x : Link) : (putLink s n x).energyWeights = s.energyWeights := rfl
@[simp] theorem putLink_captureCtr (s : State) (n : Nat) (x : Link) : (putLink s n x).captureCtr = s.captureCtr := rfl
@[simp] theorem putLink_boot (s : State) (n : Nat) (x : Link) : (putLink s n x).boot = s.boot := rfl
@[simp] theorem putLink_repair (s : State) (n : Nat) (x : Link) : (putLink s n x).repair = s.repair := rfl
@[simp] theorem putSl_agenda (s : State) (n : Nat) (x : SlCore) : (putSl s n x).agenda = s.agenda := rfl
@[simp] theorem putSl_args (s : State) (n : Nat) (x : SlCore) : (putSl s n x).args = s.args := rfl
@[simp] theorem putSl_cur (s : State) (n : Nat) (x : SlCore) : (putSl s n x).cur = s.cur := rfl
@[simp] theorem putSl_slw (s : State) (n : Nat) (x : SlCore) : (putSl s n x).slw = s.slw := rfl
@[simp] theorem putSl_freeCtr (s : State) (n : Nat) (x : SlCore) : (putSl s n x).freeCtr = s.freeCtr := rfl
@[simp] theorem putSl_epoch (s : State) (n : Nat) (x : SlCore) : (putSl s n x).epoch = s.epoch := rfl
@[simp] theorem putSl_hostData (s : State) (n : Nat) (x : SlCore) : (putSl s n x).hostData = s.hostData := rfl
@[simp] theorem putSl_mem (s : State) (n : Nat) (x : SlCore) : (putSl s n x).mem = s.mem := rfl
@[simp] theorem putSl_pond (s : State) (n : Nat) (x : SlCore) : (putSl s n x).pond = s.pond := rfl
@[simp] theorem putSl_lineStore (s : State) (n : Nat) (x : SlCore) : (putSl s n x).lineStore = s.lineStore := rfl
@[simp] theorem putSl_acc (s : State) (n : Nat) (x : SlCore) : (putSl s n x).acc = s.acc := rfl
@[simp] theorem putSl_tarnAcc (s : State) (n : Nat) (x : SlCore) : (putSl s n x).tarnAcc = s.tarnAcc := rfl
@[simp] theorem putSl_tarnXflags (s : State) (n : Nat) (x : SlCore) : (putSl s n x).tarnXflags = s.tarnXflags := rfl
@[simp] theorem putSl_copies (s : State) (n : Nat) (x : SlCore) : (putSl s n x).copies = s.copies := rfl
@[simp] theorem putSl_tlb (s : State) (n : Nat) (x : SlCore) : (putSl s n x).tlb = s.tlb := rfl
@[simp] theorem putSl_ctxs (s : State) (n : Nat) (x : SlCore) : (putSl s n x).ctxs = s.ctxs := rfl
@[simp] theorem putSl_queues (s : State) (n : Nat) (x : SlCore) : (putSl s n x).queues = s.queues := rfl
@[simp] theorem putSl_lastServed (s : State) (n : Nat) (x : SlCore) : (putSl s n x).lastServed = s.lastServed := rfl
@[simp] theorem putSl_kernels (s : State) (n : Nat) (x : SlCore) : (putSl s n x).kernels = s.kernels := rfl
@[simp] theorem putSl_sets (s : State) (n : Nat) (x : SlCore) : (putSl s n x).sets = s.sets := rfl
@[simp] theorem putSl_lastCluster (s : State) (n : Nat) (x : SlCore) : (putSl s n x).lastCluster = s.lastCluster := rfl
@[simp] theorem putSl_groups (s : State) (n : Nat) (x : SlCore) : (putSl s n x).groups = s.groups := rfl
@[simp] theorem putSl_cores (s : State) (n : Nat) (x : SlCore) : (putSl s n x).cores = s.cores := rfl
@[simp] theorem putSl_seqs (s : State) (n : Nat) (x : SlCore) : (putSl s n x).seqs = s.seqs := rfl
@[simp] theorem putSl_banks (s : State) (n : Nat) (x : SlCore) : (putSl s n x).banks = s.banks := rfl
@[simp] theorem putSl_children (s : State) (n : Nat) (x : SlCore) : (putSl s n x).children = s.children := rfl
@[simp] theorem putSl_childOrder (s : State) (n : Nat) (x : SlCore) : (putSl s n x).childOrder = s.childOrder := rfl
@[simp] theorem putSl_owed (s : State) (n : Nat) (x : SlCore) : (putSl s n x).owed = s.owed := rfl
@[simp] theorem putSl_invals (s : State) (n : Nat) (x : SlCore) : (putSl s n x).invals = s.invals := rfl
@[simp] theorem putSl_congested (s : State) (n : Nat) (x : SlCore) : (putSl s n x).congested = s.congested := rfl
@[simp] theorem putSl_links (s : State) (n : Nat) (x : SlCore) : (putSl s n x).links = s.links := rfl
@[simp] theorem putSl_modid (s : State) (n : Nat) (x : SlCore) : (putSl s n x).modid = s.modid := rfl
@[simp] theorem putSl_routes (s : State) (n : Nat) (x : SlCore) : (putSl s n x).routes = s.routes := rfl
@[simp] theorem putSl_expBase (s : State) (n : Nat) (x : SlCore) : (putSl s n x).expBase = s.expBase := rfl
@[simp] theorem putSl_expCtl (s : State) (n : Nat) (x : SlCore) : (putSl s n x).expCtl = s.expCtl := rfl
@[simp] theorem putSl_remotes (s : State) (n : Nat) (x : SlCore) : (putSl s n x).remotes = s.remotes := rfl
@[simp] theorem putSl_remoteCtr (s : State) (n : Nat) (x : SlCore) : (putSl s n x).remoteCtr = s.remoteCtr := rfl
@[simp] theorem putSl_collIn (s : State) (n : Nat) (x : SlCore) : (putSl s n x).collIn = s.collIn := rfl
@[simp] theorem putSl_heads (s : State) (n : Nat) (x : SlCore) : (putSl s n x).heads = s.heads := rfl
@[simp] theorem putSl_streams (s : State) (n : Nat) (x : SlCore) : (putSl s n x).streams = s.streams := rfl
@[simp] theorem putSl_tarnRun (s : State) (n : Nat) (x : SlCore) : (putSl s n x).tarnRun = s.tarnRun := rfl
@[simp] theorem putSl_captures (s : State) (n : Nat) (x : SlCore) : (putSl s n x).captures = s.captures := rfl
@[simp] theorem putSl_energyWeights (s : State) (n : Nat) (x : SlCore) : (putSl s n x).energyWeights = s.energyWeights := rfl
@[simp] theorem putSl_captureCtr (s : State) (n : Nat) (x : SlCore) : (putSl s n x).captureCtr = s.captureCtr := rfl
@[simp] theorem putSl_boot (s : State) (n : Nat) (x : SlCore) : (putSl s n x).boot = s.boot := rfl
@[simp] theorem putSl_repair (s : State) (n : Nat) (x : SlCore) : (putSl s n x).repair = s.repair := rfl
@[simp] theorem modGroup_agenda (s : State) (n : Nat) (f : Group → Group) : (modGroup s n f).agenda = s.agenda := by
  unfold modGroup; split <;> rfl
@[simp] theorem modGroup_args (s : State) (n : Nat) (f : Group → Group) : (modGroup s n f).args = s.args := by
  unfold modGroup; split <;> rfl
@[simp] theorem modGroup_cur (s : State) (n : Nat) (f : Group → Group) : (modGroup s n f).cur = s.cur := by
  unfold modGroup; split <;> rfl
@[simp] theorem modGroup_slw (s : State) (n : Nat) (f : Group → Group) : (modGroup s n f).slw = s.slw := by
  unfold modGroup; split <;> rfl
@[simp] theorem modGroup_freeCtr (s : State) (n : Nat) (f : Group → Group) : (modGroup s n f).freeCtr = s.freeCtr := by
  unfold modGroup; split <;> rfl
@[simp] theorem modGroup_epoch (s : State) (n : Nat) (f : Group → Group) : (modGroup s n f).epoch = s.epoch := by
  unfold modGroup; split <;> rfl
@[simp] theorem modGroup_hostData (s : State) (n : Nat) (f : Group → Group) : (modGroup s n f).hostData = s.hostData := by
  unfold modGroup; split <;> rfl
@[simp] theorem modGroup_mem (s : State) (n : Nat) (f : Group → Group) : (modGroup s n f).mem = s.mem := by
  unfold modGroup; split <;> rfl
@[simp] theorem modGroup_pond (s : State) (n : Nat) (f : Group → Group) : (modGroup s n f).pond = s.pond := by
  unfold modGroup; split <;> rfl
@[simp] theorem modGroup_lineStore (s : State) (n : Nat) (f : Group → Group) : (modGroup s n f).lineStore = s.lineStore := by
  unfold modGroup; split <;> rfl
@[simp] theorem modGroup_acc (s : State) (n : Nat) (f : Group → Group) : (modGroup s n f).acc = s.acc := by
  unfold modGroup; split <;> rfl
@[simp] theorem modGroup_tarnAcc (s : State) (n : Nat) (f : Group → Group) : (modGroup s n f).tarnAcc = s.tarnAcc := by
  unfold modGroup; split <;> rfl
@[simp] theorem modGroup_tarnXflags (s : State) (n : Nat) (f : Group → Group) : (modGroup s n f).tarnXflags = s.tarnXflags := by
  unfold modGroup; split <;> rfl
@[simp] theorem modGroup_copies (s : State) (n : Nat) (f : Group → Group) : (modGroup s n f).copies = s.copies := by
  unfold modGroup; split <;> rfl
@[simp] theorem modGroup_tlb (s : State) (n : Nat) (f : Group → Group) : (modGroup s n f).tlb = s.tlb := by
  unfold modGroup; split <;> rfl
@[simp] theorem modGroup_ctxs (s : State) (n : Nat) (f : Group → Group) : (modGroup s n f).ctxs = s.ctxs := by
  unfold modGroup; split <;> rfl
@[simp] theorem modGroup_queues (s : State) (n : Nat) (f : Group → Group) : (modGroup s n f).queues = s.queues := by
  unfold modGroup; split <;> rfl
@[simp] theorem modGroup_lastServed (s : State) (n : Nat) (f : Group → Group) : (modGroup s n f).lastServed = s.lastServed := by
  unfold modGroup; split <;> rfl
@[simp] theorem modGroup_kernels (s : State) (n : Nat) (f : Group → Group) : (modGroup s n f).kernels = s.kernels := by
  unfold modGroup; split <;> rfl
@[simp] theorem modGroup_sets (s : State) (n : Nat) (f : Group → Group) : (modGroup s n f).sets = s.sets := by
  unfold modGroup; split <;> rfl
@[simp] theorem modGroup_lastCluster (s : State) (n : Nat) (f : Group → Group) : (modGroup s n f).lastCluster = s.lastCluster := by
  unfold modGroup; split <;> rfl
@[simp] theorem modGroup_cores (s : State) (n : Nat) (f : Group → Group) : (modGroup s n f).cores = s.cores := by
  unfold modGroup; split <;> rfl
@[simp] theorem modGroup_seqs (s : State) (n : Nat) (f : Group → Group) : (modGroup s n f).seqs = s.seqs := by
  unfold modGroup; split <;> rfl
@[simp] theorem modGroup_banks (s : State) (n : Nat) (f : Group → Group) : (modGroup s n f).banks = s.banks := by
  unfold modGroup; split <;> rfl
@[simp] theorem modGroup_children (s : State) (n : Nat) (f : Group → Group) : (modGroup s n f).children = s.children := by
  unfold modGroup; split <;> rfl
@[simp] theorem modGroup_childOrder (s : State) (n : Nat) (f : Group → Group) : (modGroup s n f).childOrder = s.childOrder := by
  unfold modGroup; split <;> rfl
@[simp] theorem modGroup_owed (s : State) (n : Nat) (f : Group → Group) : (modGroup s n f).owed = s.owed := by
  unfold modGroup; split <;> rfl
@[simp] theorem modGroup_invals (s : State) (n : Nat) (f : Group → Group) : (modGroup s n f).invals = s.invals := by
  unfold modGroup; split <;> rfl
@[simp] theorem modGroup_congested (s : State) (n : Nat) (f : Group → Group) : (modGroup s n f).congested = s.congested := by
  unfold modGroup; split <;> rfl
@[simp] theorem modGroup_links (s : State) (n : Nat) (f : Group → Group) : (modGroup s n f).links = s.links := by
  unfold modGroup; split <;> rfl
@[simp] theorem modGroup_modid (s : State) (n : Nat) (f : Group → Group) : (modGroup s n f).modid = s.modid := by
  unfold modGroup; split <;> rfl
@[simp] theorem modGroup_routes (s : State) (n : Nat) (f : Group → Group) : (modGroup s n f).routes = s.routes := by
  unfold modGroup; split <;> rfl
@[simp] theorem modGroup_expBase (s : State) (n : Nat) (f : Group → Group) : (modGroup s n f).expBase = s.expBase := by
  unfold modGroup; split <;> rfl
@[simp] theorem modGroup_expCtl (s : State) (n : Nat) (f : Group → Group) : (modGroup s n f).expCtl = s.expCtl := by
  unfold modGroup; split <;> rfl
@[simp] theorem modGroup_remotes (s : State) (n : Nat) (f : Group → Group) : (modGroup s n f).remotes = s.remotes := by
  unfold modGroup; split <;> rfl
@[simp] theorem modGroup_remoteCtr (s : State) (n : Nat) (f : Group → Group) : (modGroup s n f).remoteCtr = s.remoteCtr := by
  unfold modGroup; split <;> rfl
@[simp] theorem modGroup_collIn (s : State) (n : Nat) (f : Group → Group) : (modGroup s n f).collIn = s.collIn := by
  unfold modGroup; split <;> rfl
@[simp] theorem modGroup_heads (s : State) (n : Nat) (f : Group → Group) : (modGroup s n f).heads = s.heads := by
  unfold modGroup; split <;> rfl
@[simp] theorem modGroup_streams (s : State) (n : Nat) (f : Group → Group) : (modGroup s n f).streams = s.streams := by
  unfold modGroup; split <;> rfl
@[simp] theorem modGroup_slcores (s : State) (n : Nat) (f : Group → Group) : (modGroup s n f).slcores = s.slcores := by
  unfold modGroup; split <;> rfl
@[simp] theorem modGroup_tarnRun (s : State) (n : Nat) (f : Group → Group) : (modGroup s n f).tarnRun = s.tarnRun := by
  unfold modGroup; split <;> rfl
@[simp] theorem modGroup_captures (s : State) (n : Nat) (f : Group → Group) : (modGroup s n f).captures = s.captures := by
  unfold modGroup; split <;> rfl
@[simp] theorem modGroup_energyWeights (s : State) (n : Nat) (f : Group → Group) : (modGroup s n f).energyWeights = s.energyWeights := by
  unfold modGroup; split <;> rfl
@[simp] theorem modGroup_captureCtr (s : State) (n : Nat) (f : Group → Group) : (modGroup s n f).captureCtr = s.captureCtr := by
  unfold modGroup; split <;> rfl
@[simp] theorem modGroup_boot (s : State) (n : Nat) (f : Group → Group) : (modGroup s n f).boot = s.boot := by
  unfold modGroup; split <;> rfl
@[simp] theorem modGroup_repair (s : State) (n : Nat) (f : Group → Group) : (modGroup s n f).repair = s.repair := by
  unfold modGroup; split <;> rfl

end Sys2Proof.Laws
end

