-- ==== Sys2Proof/Tests/Slice0.lean ====
section
/-! SUPPORT. Tests: ill-formed terms, decoded words, effects worked out by hand from the rules, and for each statement of
Certificates/Slice0/Obligations.lean a state and operands that meet what it supposes. -/

namespace Sys2Proof.Tests

open Sys2Proof.Machine Sys2Proof.Safety

/-! ## Small states -/

/-- The fields of a slot that is not its bundle's last. -/
def fields (d a b : BitVec 6) : Slot := ⟨false, 7, d, a, b, none, none⟩

/-- With an immediate, with a modifier, with another guard. -/
def withImm (w : Slot) (x : BitVec 24) : Slot := { w with imm := some x }
def withMod (w : Slot) (m : EMod) : Slot := { w with mod := some m }
def withGuard (w : Slot) (p : BitVec 3) : Slot := { w with p := p }

/-- No modifier; and modifiers of one field. -/
def plain : EMod := ⟨false, 0, 0, 0, 0, 0, false, false, false⟩
def reg4 (r : BitVec 6) : EMod := { plain with cv := true, creg := r }
def saturating : EMod := { plain with sat := true }
def faulting : EMod := { plain with lf := true }

/-- A group with two lanes, all its vector registers, and these registers. -/
def group (v s : Tbl PWord) (p : Tbl PMask) : Group :=
  { ctx := 1, launch := 7, blocks := 8, v := v, s := s, p := p, sp := [(0, ⟨true, false⟩), (1, ⟨false, true⟩)], p0 := { st := .live, mask := 3, pc := 0x1000 } }

/-- Its registers in most tests: s2 = 6, s3 = 5, s4 = 0x1000, s6 = 2000; v2 = (6, 7), v3 = (3, 1); p1 = lane 0. -/
def regs : Group :=
  group [(32, ⟨6, false⟩), (33, ⟨7, false⟩), (48, ⟨3, false⟩), (49, ⟨1, false⟩)]
    [(2, ⟨6, false⟩), (3, ⟨5, false⟩), (4, ⟨0x1000, false⟩), (6, ⟨2000, false⟩), (7, ⟨9, true⟩)] [(1, ⟨1, 0⟩), (2, ⟨0, 2⟩)]

/-- A module with context 1 resident under ASN 5, whose first 2^30 bytes core 0 has translated, and a set with two banks: a
scratchpad and a FIFO. -/
def module : State :=
  { State.reset with
    boot := {}
    tlb := [⟨.core 0, 5, 0, 30, 0x7F, 0⟩]
    ctxs := [(1, { st := .resident, asn := 5, tp := 1, handler := 0x8000, ttcount := 4, sasize := 4096, kept := [(1, [0x2000, 0x400000008, 0, 0x0100008200000000, 32, 0, 0, 0])] })]
    sets := [⟨1, 7, 0, 0, [0, 1], 0, true, 3, 0, 0, 16⟩]
    banks := [(0, { mode := 1 }), (1, { mode := 2, fifo := [[1, 2]] })] }

/-- The group at place 0 with an open bundle: this instruction and one more slot. -/
def opened (s : State) (g : Group) (i : Instr) : Taken :=
  let words := encode i ++ [0xE0000000]
  let is : Issue := { loc := 0, path := 0, baddr := 0x1000, words := words, idx := 0, len := words.length, above := 0, effs := [], flags := 0, uses := [] }
  let (f, cls, w) := (slotOf i).getD (formUadd, 0, fields 0 0 0)
  ⟨{ putGroup s 0 g with cur := some is }, is, g, f, cls, w⟩

/-- The same with the registers above. -/
def at1 (i : Instr) : Taken := opened module regs i

/-- The effects of the slots taken so far, with their flags; none where the bundle has not stayed open. -/
def effects (i : Instr) (q : Taken) : Option (List Eff × BitVec 6) :=
  match exec i q.s with
  | .next t => t.cur.map fun is => (is.effs.map (·.2), is.flags)
  | _ => none

/-- The trap that an instruction raises in a handler's context: its cause and address. -/
def trapped (i : Instr) (q : Taken) : Option (Nat × Nat) :=
  match exec i q.s with
  | .next t => (getGroup t 0).bind fun g => if g.hnd then some (g.ecause.toNat % 256, g.efault.toNat) else none
  | _ => none

/-- What a statement about a slot supposes: that it may issue with a guard that is 1, and that effects like these fit. -/
abbrev issues (q : Taken) (i : Instr) (effs : List Eff) : Prop := q.ready i ∧ q.on ∧ q.fits effs 0 []

/-- What a statement about a lane slot supposes. -/
abbrev laneIssues (q : Taken) (i : Instr) (effs : List Eff) : Prop := q.ready i ∧ q.act = [0, 1] ∧ q.fits effs 0 []

/-- The checks of the two lanes at an address that core 0 has translated pass and change nothing. -/
def passed (s : State) (ea : Nat) : State × Option (List LaneCheck) := (s, some [⟨0, ea, 0, 0, ea, true⟩, ⟨1, ea, 0, 0, ea, true⟩])

/-! ## Uniform slots -/

theorem test_uniform_binary_issues : ∀ i ∈ ([.uadd, .usub, .umul, .umulhS, .umulhU, .uand, .uor, .uxor, .ushl, .ushr, .usar, .uminS, .uminU, .umaxS,
    .umaxU, .ubfx, .ubfi, .ucmpS, .ucmpU] : List (Slot → Instr)), issues (at1 (i (fields 1 2 3))) (i (fields 1 2 3)) [.result 2 [.s 1 ⟨0, false⟩]] := by
  decide
theorem test_uniform_unary_issues : ∀ i ∈ ([.umov, .upopc, .uclz] : List (Slot → Instr)),
    issues (at1 (i (fields 1 2 0))) (i (fields 1 2 0)) [.result 2 [.s 1 ⟨0, false⟩]] := by decide
theorem test_umov_immediates_issue : ∀ i ∈ ([.umovImm (withImm (fields 9 0 0) 0x345678), .umovHi (withImm (fields 9 1 0) 0x12)] : List Instr),
    issues (at1 i) i [.result 2 [.s 9 ⟨0, false⟩]] := by decide
theorem test_usel_issues : issues (at1 (.usel (withMod (fields 1 2 3) (reg4 0)))) (.usel (withMod (fields 1 2 3) (reg4 0)))
    [.result 2 [.s 1 ⟨6, false⟩]] := by decide
theorem test_carry_issues : ∀ i ∈ ([.uadd, .usub] : List (Slot → Instr)), ∀ m ∈ [reg4 9, saturating],
    issues (at1 (i (withMod (fields 1 2 3) m))) (i (withMod (fields 1 2 3) m)) [.result 2 [.s 1 ⟨0, false⟩, .sp 1 ⟨false, false⟩]] := by decide
theorem test_umovw_issues : issues (at1 (.umovw (withImm (fields 8 0 0) 0x802))) (.umovw (withImm (fields 8 0 0) 0x802)) [.result 2 [.s 8 ⟨6, false⟩, .s 9 ⟨5, false⟩]]
    ∧ (pendingUse regs regs.p0 ⟨.s, 2, 2, false⟩ || pendingUse regs regs.p0 ⟨.s, 8, 2, true⟩) = false := by decide
theorem test_file_index_issues : ∀ i ∈ ([.uldx, .ustx] : List (Slot → Instr)), ∀ r ∈ ([2, 6, 7] : List (BitVec 6)),
    issues (at1 (i (fields 1 r 3))) (i (fields 1 r 3)) [.result 2 [.s 1 ⟨0, false⟩]] := by decide
theorem test_uniform_guard_off : ∀ p ∈ ([1, 2] : List (BitVec 3)), let w := withGuard (fields 1 2 3) p
    (at1 (.uadd w)).ready (.uadd w) ∧ (scalarGuard (at1 (.uadd w)).sc = ⟨false, false⟩ ∨ (scalarGuard (at1 (.uadd w)).sc).poison = true) := by decide

/-- R171: UADD of 6 and 5; USUB with an immediate sign-extended (R166). -/
theorem test_uadd : effects (.uadd (fields 1 2 3)) (at1 (.uadd (fields 1 2 3))) = some ([.result 2 [.s 1 ⟨11, false⟩]], 0) := by decide
theorem test_usub_imm : let i := Instr.usub (withImm (fields 1 2 0) 0xFFFFFF)
    effects i (at1 i) = some ([.result 2 [.s 1 ⟨7, false⟩]], 0) := by decide
/-- R172: 5 − 6 borrows; the carry predicate takes the borrow. -/
theorem test_usub_borrow : let i := Instr.usub (withMod (fields 1 3 2) (reg4 1))
    effects i (at1 i) = some ([.result 2 [.s 1 ⟨0xFFFFFFFF, false⟩, .sp 1 ⟨true, false⟩]], 0) := by decide
/-- R175's pair: umov s9 imm=0x34_5678, umov.hi s9 imm=0x12 leave 0x1234_5678. -/
theorem test_umov_hi : effects (.umovImm (withImm (fields 9 0 0) 0x345678)) (at1 (.umovImm (withImm (fields 9 0 0) 0x345678))) = some ([.result 2 [.s 9 ⟨0x345678, false⟩]], 0)
    ∧ let g := group [] [(9, ⟨0x345678, false⟩)] []
      effects (.umovHi (withImm (fields 9 1 0) 0x12)) (opened module g (.umovHi (withImm (fields 9 1 0) 0x12))) = some ([.result 2 [.s 9 ⟨0x12345678, false⟩]], 0) := by decide
/-- R75: the sum with a poisoned register is poisoned. -/
theorem test_uadd_poison : let i := Instr.uadd (fields 1 2 7)
    effects i (at1 i) = some ([.result 2 [.s 1 ⟨15, true⟩]], 0) := by decide
/-- R173: UMUL.sat of 2000 and 0x7FFFFF exceeds 2^31 − 1. -/
theorem test_umul_saturates : let i := Instr.umul (withMod (withImm (fields 1 6 0) 0x7FFFFF) saturating)
    effects i (at1 i) = some ([.result 2 [.s 1 ⟨0x7FFFFFFF, false⟩]], fSAT) := by decide
/-- R171: a shift by 32 or more leaves 0; by y<7:0> only. -/
theorem test_ushl : effects (.ushl (withImm (fields 1 2 0) 0x104)) (at1 (.ushl (withImm (fields 1 2 0) 0x104))) = some ([.result 2 [.s 1 ⟨96, false⟩]], 0)
    ∧ effects (.ushl (withImm (fields 1 2 0) 32)) (at1 (.ushl (withImm (fields 1 2 0) 32))) = some ([.result 2 [.s 1 ⟨0, false⟩]], 0) := by decide
/-- R174: UCMP.S.lt, D = 8 · 2 + 3, of 6 and −1 is false, and UCMP.U.lt true. -/
theorem test_ucmp : effects (.ucmpS (withImm (fields 19 2 0) 0xFFFFFF)) (at1 (.ucmpS (withImm (fields 19 2 0) 0xFFFFFF))) = some ([.result 2 [.sp 3 ⟨false, false⟩]], 0)
    ∧ effects (.ucmpU (withImm (fields 19 2 0) 0xFFFFFF)) (at1 (.ucmpU (withImm (fields 19 2 0) 0xFFFFFF))) = some ([.result 2 [.sp 3 ⟨true, false⟩]], 0) := by decide
/-- R177: index 2000 + 5 is above 1023. -/
theorem test_uldx_out_of_range : trapped (.uldx (fields 1 6 3)) (at1 (.uldx (fields 1 6 3))) = some (4, 0) := by decide
/-- R132: URDS of sr.ctx gives ASN : context, and of sr.mask the path's lanes; UWRS of sr.gidx is illegal. -/
theorem test_urds : effects (.urds (fields 1 4 0)) (at1 (.urds (fields 1 4 0))) = some ([.result 2 [.s 1 ⟨0x50001, false⟩]], 0)
    ∧ effects (.urds (fields 1 0x12 0)) (at1 (.urds (fields 1 0x12 0))) = some ([.result 2 [.s 1 ⟨3, false⟩]], 0)
    ∧ trapped (.urds (fields 1 0 0)) (at1 (.urds (fields 1 0 0))) = some (2, 0) := by decide
theorem test_uwrs : effects (.uwrs (fields 0xD 2 0)) (at1 (.uwrs (fields 0xD 2 0))) = some ([.special 0xD 6], 0)
    ∧ trapped (.uwrs (fields 0xD 7 0)) (at1 (.uwrs (fields 0xD 7 0))) = some (7, 0)
    ∧ trapped (.uwrs (fields 1 2 0)) (at1 (.uwrs (fields 1 2 0))) = some (2, 0) := by decide

/-! ## Lane slots -/

theorem test_lane_binary_issues : ∀ u ∈ [VUnit.va, .vb], ∀ i ∈ ([.vadd u, .vsub u, .vmul u, .vmulhS u, .vmulhU u, .vand u, .vor u, .vxor u, .vshl u, .vshr u,
    .vsar u, .vminS u, .vminU u, .vmaxS u, .vmaxU u, .vbfx u, .vbfi u, .vcmpS u, .vcmpU u, .vshuf u] : List (Slot → Instr)),
    laneIssues (at1 (i (fields 1 2 3))) (i (fields 1 2 3)) [.result 4 [.v 1 0 ⟨0, false⟩]] := by decide
theorem test_lane_unary_issues : ∀ i ∈ ([.vclz .va, .vpopc .va, .vbcast .va] : List (Slot → Instr)),
    laneIssues (at1 (i (fields 1 2 0))) (i (fields 1 2 0)) [.result 4 [.v 1 0 ⟨0, false⟩]] := by decide
theorem test_lane_carry_issues : ∀ i ∈ ([.vadd .va, .vsub .va] : List (Slot → Instr)), ∀ m ∈ [reg4 9, saturating],
    laneIssues (at1 (i (withMod (fields 1 2 3) m))) (i (withMod (fields 1 2 3) m)) [.result 4 [.v 1 0 ⟨0, false⟩, .p 1 0 ⟨false, false⟩]] := by decide
theorem test_lane_predicates_issue : ∀ i ∈ ([.pand .va (fields 3 1 2), .por .va (fields 3 1 2), .pxor .vb (fields 3 1 2), .pnot .va (fields 3 1 0), .vvote .va (fields 3 1 0),
    .vred .va (fields 3 2 0), .vred .va (fields 3 2 1), .vqdx .va (fields 3 2 0), .vqdy .va (fields 3 2 1), .vbcastLane .va (fields 3 0 1), .vsel .va (withMod (fields 1 2 3) (reg4 1)),
    .vshuf .va (withImm (fields 1 2 0) 0x11)] : List Instr), laneIssues (at1 i) i [.result 6 [.s 3 ⟨0, false⟩]] := by decide
theorem test_binary32_issues : ∀ i ∈ ([.faddF32 .va, .fsubF32 .va, .fmulF32 .va, .fminF32 .va, .fmaxF32 .va, .fdivF32 .va, .ffmaF32 .va, .fcmpF32 .va]
    : List (Slot → Instr)), laneIssues (at1 (i (fields 1 2 3))) (i (fields 1 2 3)) [.result 6 [.v 1 0 ⟨0, false⟩]] := by decide
theorem test_binary32_unary_issues : ∀ i ∈ ([.fsqrtF32 .va, .frcpF32 .va, .frsqF32 .va, .fexp2F32 .va, .flog2F32 .va, .fsinF32 .va, .fcosF32 .va]
    : List (Slot → Instr)), laneIssues (at1 (i (fields 1 2 0))) (i (fields 1 2 0)) [.result 24 [.v 1 0 ⟨0, false⟩]] := by decide
/-- FDIV on integers: a witness whose divisors are 3 and 1, and one whose divisors are 0. -/
theorem test_integer_division_issues : ∀ m ∈ ([{ plain with fmt := 7 }, { plain with fmt := 7, sat := true }] : List EMod), ∀ b ∈ ([3, 5] : List (BitVec 6)),
    laneIssues (at1 (.fdivF32 .va (withMod (fields 1 2 b) m))) (.fdivF32 .va (withMod (fields 1 2 b) m)) [.result 24 [.v 1 0 ⟨0, false⟩]] := by decide
theorem test_binary16_issues : ∀ i ∈ ([.faddF16 .va, .fsubF16 .va, .fmulF16 .va, .ffmaF16 .va] : List (Slot → Instr)),
    laneIssues (at1 (i (fields 1 2 3))) (i (fields 1 2 3)) [.result 6 [.v 1 0 ⟨0, false⟩]] := by decide
theorem test_binary64_issues : ∀ i ∈ ([.faddF64 .va, .fsubF64 .va, .fmulF64 .va, .fminF64 .va, .fmaxF64 .va, .fdivF64 .va, .ffmaF64 .va, .fcmpF64 .va]
    : List (Slot → Instr)), laneIssues (at1 (i (fields 4 2 6))) (i (fields 4 2 6)) [.result 12 [.v 4 0 ⟨0, false⟩, .v 5 0 ⟨0, false⟩]] := by decide
theorem test_binary64_unary_issues : ∀ i ∈ ([.fsqrtF64 .va, .frcpF64 .va, .frsqF64 .va] : List (Slot → Instr)),
    laneIssues (at1 (i (fields 4 2 0))) (i (fields 4 2 0)) [.result 48 [.v 4 0 ⟨0, false⟩, .v 5 0 ⟨0, false⟩]] := by decide
/-- CVT to each format; from binary64, of a pair; with RM = 5 of a group whose streams have words. -/
theorem test_cvt_issues : (∀ i ∈ ([.cvtF64, .cvtF32, .cvtF16, .cvtBf16, .cvtE4m3, .cvtE5m2, .cvtI32, .cvtI16, .cvtI8, .cvtI4, .cvtUn8, .cvtSrgb8, .cvtB1, .cvtE8m0]
      : List (Slot → Instr)), ∀ m ∈ [plain, { plain with fmt := 1 }], let w := withMod (fields 4 2 0) m
      laneIssues (at1 (i w)) (i w) [.result 8 [.v 4 0 ⟨0, false⟩]] ∧ (∀ k ∈ ([⟨.v, 2, 2, false⟩, ⟨.v, 4, 2, true⟩] : List RegUse), k.first + k.cnt ≤ 8 * regs.blocks ∧ pendingUse regs regs.p0 k = false)) := by decide
theorem test_cvt_stochastic_issues : let w := withMod (fields 4 2 0) { plain with rm := 5 }
    let q := opened module { regs with ws := [(0, { queue := [9] }), (1, { queue := [8] })] } (.cvtF16 w)
    laneIssues q (.cvtF16 w) [.result 8 [.v 4 0 ⟨0, false⟩], .popRandom 3] ∧ ∀ l ∈ q.act, (streamOf q.g l).queue ≠ [] := by decide
theorem test_pack_issues : laneIssues (at1 (.cpack (fields 4 2 0))) (.cpack (fields 4 2 0)) [.result 8 [.v 4 0 ⟨0, false⟩]]
    ∧ laneIssues (at1 (.cunpack (fields 4 2 0))) (.cunpack (fields 4 2 0)) [.result 8 [.v 4 0 ⟨0, false⟩, .v 5 0 ⟨0, false⟩]] := by decide

/-- R171: lanes that are not active keep their value: the guard p1 holds of lane 0 alone. -/
theorem test_vadd_guarded : let i := Instr.vadd .va (withGuard (fields 1 2 3) 1)
    effects i (at1 i) = some ([.result 4 [.v 1 0 ⟨9, false⟩]], 0) := by decide
/-- R75: in lane 1 the guard p2 is poisoned. -/
theorem test_vadd_guard_poison : let i := Instr.vadd .va (withGuard (fields 2 2 3) 2)
    effects i (at1 i) = some ([.result 4 [.v 2 1 ⟨7, true⟩]], 0) := by decide
/-- R187: 1.0 + 2.0 = 3.0 in lane 0; in lane 1 a signaling NaN gives the canonical one and raises NV. -/
theorem test_fadd : let g := group [(32, ⟨0x3F800000, false⟩), (33, ⟨0x7F800001, false⟩), (48, ⟨0x40000000, false⟩), (49, ⟨0, false⟩)] [] []
    effects (.faddF32 .va (fields 1 2 3)) (opened module g (.faddF32 .va (fields 1 2 3)))
      = some ([.result 6 [.v 1 0 ⟨0x40400000, false⟩, .v 1 1 ⟨0x7FC00000, false⟩]], fNV) := by decide
/-- R189: 6 / 3 and 7 / 1; by v5, which is 0, it traps. -/
theorem test_fdiv_integer : let i := Instr.fdivF32 .va (withMod (fields 1 2 3) { plain with fmt := 7 })
    let j := Instr.fdivF32 .va (withMod (fields 1 2 5) { plain with fmt := 7 })
    effects i (at1 i) = some ([.result 24 [.v 1 0 ⟨2, false⟩, .v 1 1 ⟨7, false⟩]], 0) ∧ trapped j (at1 j) = some (8, 0) := by decide
/-- R183, R182: VRED.add of 6 and 7, and VVOTE of p1. -/
theorem test_reductions : effects (.vred .va (fields 3 2 0)) (at1 (.vred .va (fields 3 2 0))) = some ([.result 10 [.s 3 ⟨13, false⟩]], 0)
    ∧ effects (.vvote .va (fields 3 1 0)) (at1 (.vvote .va (fields 3 1 0))) = some ([.result 6 [.s 3 ⟨1, false⟩]], 0) := by decide
/-- R180: the butterfly 1 exchanges lanes 0 and 1. -/
theorem test_vshuf : let i := Instr.vshuf .va (withImm (fields 1 2 0) 1)
    effects i (at1 i) = some ([.result 6 [.v 1 0 ⟨7, false⟩, .v 1 1 ⟨6, false⟩]], 0) := by decide
/-- R190: CVT of the binary32 value 1.0 to binary16 in element 1 keeps the other half of v(d). -/
theorem test_cvt_element : let g := group [(32, ⟨0x3F800000, false⟩), (64, ⟨0x1234, false⟩)] [] [(1, ⟨1, 0⟩)]
    let i := Instr.cvtF16 (withGuard (fields 4 2 8) 1)
    effects i (opened module g i) = some ([.result 8 [.v 4 0 ⟨0x3C001234, false⟩]], 0) := by decide

/-! ## Memory slots -/

/-- Loads and stores of 0x1000, which both lanes may, and with `.lanefault`. -/
theorem test_load_issues : ∀ e ∈ ([(.ldB8, 1), (.ldS8, 1), (.ldB16, 2), (.ldS16, 2), (.ldB32, 4), (.ldB64, 8), (.ldsB8, 1), (.ldsS8, 1), (.ldsB16, 2), (.ldsS16, 2), (.ldsB32, 4),
    (.ldsB64, 8)] : List ((Slot → Instr) × Nat)), let w := fields 8 4 5
    let q := at1 (e.1 w)
    laneIssues q (e.1 w) [] ∧ q.clean (fun l => (globalEa q.sc l).2) ∧ q.checks { r := true } e.2 (fun l => (globalEa q.sc l).1) = passed q.s 0x1000 := by decide
theorem test_load_lanefault_issues : ∀ i ∈ ([.ldB8, .ldS8, .ldB16, .ldS16, .ldB32, .ldB64] : List (Slot → Instr)), let w := withMod (fields 8 4 5) faulting
    laneIssues (at1 (i w)) (i w) [] ∧ (at1 (i w)).sc.mod.lf = true := by decide
theorem test_store_issues : ∀ e ∈ ([(.stB8, 1), (.stB16, 2), (.stB32, 4), (.stB64, 8)] : List ((Slot → Instr) × Nat)), ∀ m ∈ [plain, faulting], let w := withMod (fields 2 4 5) m
    let q := at1 (e.1 w)
    laneIssues q (e.1 w) [] ∧ q.clean (fun l => (globalEa q.sc l).2 || (List.range (regsOf e.2)).any fun j => (vreg q.g (q.d + j) l).poison)
    ∧ q.checks { w := true } e.2 (fun l => (globalEa q.sc l).1) = passed q.s 0x1000 := by decide
/-- The index v7 is poisoned in lane 1. -/
theorem test_poisoned_address : let g := { regs with v := [(113, ⟨0, true⟩)] }
    ∀ i ∈ ([.ldB32, .stB32] : List (Slot → Instr)), (opened module g (i (fields 8 4 7))).ready (i (fields 8 4 7))
    ∧ ¬(opened module g (i (fields 8 4 7))).clean (fun l => (globalEa (opened module g (i (fields 8 4 7))).sc l).2)
    ∧ trapped (i (fields 8 4 7)) (opened module g (i (fields 8 4 7))) = some (7, 0) := by decide
/-- R384: an address at 2^57, a misaligned one, one that no page holds, one whose page grants no read, in the order of their causes. -/
theorem test_failed_access : ∀ e ∈ ([(0, 0x2000000, 4), (0x1002, 0, 3), (0, 0x1000000, 1), (0x40000000, 0, 2)] : List (Word × Word × Nat)),
    let g := { regs with s := [(4, ⟨e.1, false⟩), (5, ⟨e.2.1, false⟩)] }
    let s := { module with tlb := ⟨.core 0, 5, 0x40000000, 30, 0x73, 0⟩ :: module.tlb
                           ctxs := [(1, { (getCtx module 1) with root := 0x100000 })] , mem := writeN (writeN (writeN [] 0x100000 8 0x200001) 0x200000 8 0x300001) 0x300008 8 0x40000073 }
    let q := opened s g (.ldB32 (fields 8 4 9))
    laneIssues q (.ldB32 (fields 8 4 9)) [] ∧ q.clean (fun l => (globalEa q.sc l).2)
    ∧ (q.checks { r := true } 4 (fun l => (globalEa q.sc l).1)).2.map (fun l => l.map (·.cause)) = some [e.2.2, e.2.2] := by decide
theorem test_pond_issues : (∀ e ∈ ([(.ldpB8, 1), (.ldpS8, 1), (.ldpB16, 2), (.ldpS16, 2), (.ldpB32, 4), (.ldpB64, 8), (.stpB8, 1), (.stpB16, 2), (.stpB32, 4), (.stpB64, 8)]
      : List ((Slot → Instr) × Nat)), let w := fields 2 4 5
    let q := at1 (e.1 w)
    laneIssues q (e.1 w) [] ∧ q.clean (fun l => (pondEa q.sc l).2 || (List.range (regsOf e.2)).any fun j => (vreg q.g (q.d + j) l).poison)
    ∧ ∀ l ∈ q.act, fencedAt q.s q.g (pondEa q.sc l).1 = false ∧ (checkPond q.s q.g e.2 l (pondEa q.sc l).1).cause = 0) := by decide
/-- Tensor 1: rank 2 of binary32, 8 by 4 elements of 4 bytes at 0x2000; the coordinates are v5 = v6 = 0. -/
theorem test_tensor_issues : ∀ i ∈ ([.ldt, .stt] : List (Slot → Instr)), let w := fields 8 10 16
    let q := opened module { regs with s := [(10, ⟨1, false⟩)] } (i w)
    let t := tensorOf (tget [] (getCtx module 1).kept 1)
    laneIssues q (i w) [] ∧ tensorBad (tget [] (getCtx module 1).kept 1) = false ∧ t.rank = 2 ∧ elemWidth t.fmt = 32 ∧ (elemAddress t [0, 0]).1 = 0x2000
    ∧ q.checks { r := true, w := true } 1 (fun _ => 0x2000) = passed q.s 0x2000 := by decide
theorem test_atomic_issues : ∀ e ∈ ([(.atomAdd, 4), (.atomMinS, 4), (.atomMinU, 4), (.atomMaxS, 4), (.atomMaxU, 4), (.atomAnd, 4), (.atomOr, 4), (.atomXor, 4), (.atomExch, 4),
    (.atomAddB64, 8), (.atomExchB64, 8), (.atomFaddF32, 4), (.atomFminF32, 4), (.atomFmaxF32, 4), (.atomcB32, 4), (.atomcB64, 8)] : List ((Slot → Instr) × Nat)),
    let w := fields 8 4 5
    let q := at1 (e.1 w)
    laneIssues q (e.1 w) [] ∧ q.clean (fun l => (globalEa q.sc l).2 || (List.range 4).any fun j => (vreg q.g (q.d + j) l).poison)
    ∧ q.checks { r := true, w := true } e.2 (fun l => (globalEa q.sc l).1) = passed q.s 0x1000 := by decide
theorem test_ordering_issues : ∀ i ∈ ([.fence (fields 0 0 0), .drain (fields 0 0 0), .pref (fields 0 4 5)] : List Instr), laneIssues (at1 i) i [.fence 4 false] := by decide
/-- Bank 1 of the set is a FIFO with one entry. -/
theorem test_fifo_issues : ∀ i ∈ ([.fifopush (fields 0 11 2), .fifopop (fields 8 11 0)] : List Instr), let q := opened module { regs with s := [(11, ⟨1, false⟩)] } i
    laneIssues q i [.fifoPush 1 []] ∧ (pondOf q.s q.g).2[1]? = some 1 ∧ (getBank q.s 1).mode = 2 ∧ (getBank q.s 1).fencing = none ∧ (getBank q.s 1).fifo.length = 1 := by decide

/-! ## Graphics and matrix slots -/

/-- A block that starts at pixel (0, 0), with the edges A = 1, B = 0, C = −600 thrice: s16..s27; s28 is the block. -/
def raster : Taken := opened module { regs with s := ([0, 4, 8] : List Nat).flatMap fun k => [(16 + k, ⟨1, false⟩), (18 + k, ⟨0xFFFFFDA8, false⟩), (19 + k, ⟨0xFFFFFFFF, false⟩)] }
  (.grstep (fields 0 16 28))
theorem test_grstep_issues : laneIssues raster (.grstep (fields 0 16 28)) [.result 6 []] ∧ (raster.s32 28).poison = false ∧ ∀ i < 12, (raster.s32 (16 + i)).poison = false := by
  decide
/-- R333: the pixels' centres stand at x = 128, 384 of the quarters of column 0 and 1152, 1408 of column 1; A x + C > 0 from 600. -/
theorem test_grstep : effects (.grstep (fields 0 16 28)) raster = some ([.result 6 [.p 0 0 ⟨false, false⟩, .p 1 0 ⟨true, false⟩, .p 2 0 ⟨false, false⟩, .p 3 0 ⟨true, false⟩,
    .p 0 1 ⟨false, false⟩, .p 1 1 ⟨true, false⟩, .p 2 1 ⟨false, false⟩, .p 3 1 ⟨true, false⟩]], 0) := by decide
/-- A patch of zeros is flat under tolerance 0; GPSPLIT of quadrant 3, whole and apart, and of quadrant 4. -/
theorem test_patch_issues : (∀ i ∈ ([.gpflat (fields 3 16 5), .gpflat (withImm (fields 3 16 0) 0x7F8000), .gpsplit (withImm (fields 16 16 0) 3), .gpsplit (withImm (fields 32 16 0) 0),
      .gpsplit (withImm (fields 32 16 0) 4), .gpsplit (withImm (fields 17 16 0) 0)] : List Instr), laneIssues (at1 i) i [.result 12 []])
    ∧ effects (.gpflat (fields 3 16 5)) (at1 (.gpflat (fields 3 16 5))) = some ([.result 12 [.p 3 0 ⟨true, false⟩, .p 3 1 ⟨true, false⟩]], 0)
    ∧ trapped (.gpsplit (withImm (fields 32 16 0) 4)) (at1 (.gpsplit (withImm (fields 32 16 0) 4))) = some (2, 0)
    ∧ trapped (.gpsplit (withImm (fields 17 16 0) 0)) (at1 (.gpsplit (withImm (fields 17 16 0) 0))) = some (2, 0) := by decide
/-- Records of zeros at 0x1000: a node with no child, a triangle, a curve. -/
theorem test_ray_issues : ∀ e ∈ ([(.gbox, 128), (.gtri2, 64), (.gcurve, 64)] : List ((Slot → Instr) × Nat)), let w := fields 40 16 24
    let q := opened module { regs with v := [(384, ⟨0x1000, false⟩), (385, ⟨0x1000, false⟩)] } (e.1 w)
    laneIssues q (e.1 w) [.result 20 []] ∧ pathBusy q.sc = false ∧ q.checks { r := true } e.2 (fun l => (vpair q.g q.b l).1) = passed q.s 0x1000
    ∧ nodeBad (readHome q.s 0x1000 128) = false ∧ triBad (readHome q.s 0x1000 64) = false ∧ recWord (readHome q.s 0x1000 64) 0x3C = 0
    ∧ boxHits q.sc 0 (readHome q.s 0x1000 128) = [] := by decide
/-- A texture of 2 by 2 texels of four channels of binary32 at 0x3000, looked up at its middle by the nearest level. -/
def textured (i : Instr) : Taken :=
  opened { module with ctxs := [(1, { getCtx module 1 with kept := [(2, [0x3000, 0x200000004, 2, 0x010000C200000000, 16, 32, 0, 0])] })] }
    { regs with s := [(12, ⟨2, false⟩), (13, ⟨0x300002, false⟩)], v := [10, 11].flatMap fun r => [(16 * r, ⟨0x3F000000, false⟩), (16 * r + 1, ⟨0x3F000000, false⟩)] } i
set_option maxRecDepth 4000 in
theorem test_texture_issues : ∀ i ∈ ([.gtex (fields 20 10 12), .gtexl (withMod (fields 20 10 12) (reg4 9))] : List Instr), let q := textured i
    laneIssues q i [.result 40 []] ∧ pathBusy q.sc = false ∧ (texLevels q.sc 16 [2]).1 = q.s
    ∧ (match (texLevels q.sc 16 [2]).2 with
        | .ok (ds, keep) => !texBad ds && keep.isEmpty
        | .error _ => false) = true
    ∧ (∀ l ∈ q.act, ∀ i ∈ texLanes l, ∀ j < 2, (vreg q.g (10 + j) i).poison = false)
    ∧ (effects i q).isSome = true := by decide
/-- R347: filter 3 is reserved. -/
theorem test_texture_reserved : (textured (.gtex (fields 20 10 13))).ready (.gtex (fields 20 10 13)) ∧ trapped (.gtex (fields 20 10 13)) (textured (.gtex (fields 20 10 13))) = some (2, 0) := by decide
/-- GPUBLISH of words of type 0 at 0x1000; a word of type 7 is illegal. -/
def publishing (x : Word) : Taken := opened module { regs with v := [(256, ⟨0x1000, false⟩), (257, ⟨0x1000, false⟩), (288, ⟨x, false⟩)] } (.gpublish (fields 3 16 18))
theorem test_gpublish_issues : laneIssues (publishing 0) (.gpublish (fields 3 16 18)) [] ∧ (publishing 0).checks { r := true, w := true } 8 (fun l => (vpair (publishing 0).g 16 l).1) = passed (publishing 0).s 0x1000
    ∧ laneIssues (publishing 7) (.gpublish (fields 3 16 18)) [] ∧ trapped (.gpublish (fields 3 16 18)) (publishing 7) = some (2, 0) := by decide

/-- A routine on binary32 tensors, 64 by 64 by 4 (R297). -/
def routine : List DWord := [0x0104400000000000, 0x0020100010000000, 0, 0, 0, 0, 0, 0]
/-- The module with the routine at 0x4000 and in entry 2 of core 0, and tile 0 held by the group at place 0. -/
def matrix (i : Instr) : Taken :=
  opened { module with
    cores := [(0, { routines := [(2, some ⟨0, routine⟩)], tiles := [(0, .group 0)], xflags := [(0, 5)] })]
    mem := writeN (writeN [] 0x4000 8 0x0104400000000000) 0x4008 8 0x0020100010000000 }
    { regs with s := [(4, ⟨0x4000, false⟩), (7, ⟨9, true⟩), (14, ⟨2, false⟩)] } i
theorem test_matrix_setup_issues : (∀ i ∈ ([.mxdef (withImm (fields 0 4 0) 3), .mxdef (withImm (fields 0 4 0) 2), .mxdefRel (withImm (fields 0 63 0) 2), .mxdefRel (withImm (fields 0 63 0) 9),
      .mxparm (withImm (fields 1 4 0) 8), .mxparm (fields 1 63 0), .mxzero (withImm (fields 0 0 0) 3), .mxzero (withImm (fields 0 0 0) 0x100),
      .kset (withImm (fields 2 0 0) 5), .kld (withImm (fields 2 2 0) 1), .kld (withImm (fields 2 2 0) 16)] : List Instr), issues (matrix i) i [.latch 0 0])
    ∧ (let q := matrix (.mxdef (withImm (fields 0 4 0) 3))
       routineBad routine = false ∧ translate q.s (coreUnit 0) 1 0x4000 { r := true } = (q.s, .ok 0x4000) ∧ mem64s q.s.mem 0x4000 8 = routine
       ∧ (∀ i < 4, tileUsed q.s 0 i = false ∧ (tileHolder q.s 0 i = .free ∨ tileHolder q.s 0 i = .group 0))) := by decide
theorem test_matrix_call_issues : (let i := Instr.mxcall (fields 8 14 63)
      issues (matrix i) i [.child 8 { cls := 0, pred := 0, any := false, det := false, scope := 4, cache := 0, desc := routine }]
      ∧ routineEntry (matrix i).s 0 2 = some ⟨0, routine⟩ ∧ blockTiles (routineOf routine) = 1 ∧ holdsTile (matrix i).s 0 0 = true
      ∧ unreleased (matrix i).s (matrix i).g + creating (matrix i).sc < 16 ∧ createHold (matrix i).sc 0 = false)
    ∧ ∀ i ∈ ([.mxacc (withImm (fields 8 0 0) 5), .mxacc (withImm (fields 8 0 0) 0x105), .mxacc (withImm (fields 8 0 0) 0x200), .mxacc (withImm (fields 8 1 0) 5)] : List Instr),
      issues (matrix i) i [.result 16 []] ∧ tileUsed (matrix i).s 0 0 = false := by decide
/-- R316: the flags of tile 0, which are 5; tile 1 is not held. -/
theorem test_mxacc : let i := Instr.mxacc (withImm (fields 8 0 0) 0x200)
    effects i (matrix i) = some ([.result 16 [.v 8 0 ⟨5, false⟩, .v 8 1 ⟨5, false⟩]], 0)
    ∧ trapped (.mxacc (withImm (fields 8 1 0) 5)) (matrix (.mxacc (withImm (fields 8 1 0) 5))) = some (2, 0) := by decide
/-- R315: MXPARM adds its immediate to the pair s4, s5. -/
theorem test_mxparm : let i := Instr.mxparm (withImm (fields 1 4 0) 8)
    effects i (matrix i) = some ([.result 2 [.x 1 0x4008]], 0) := by decide
/-- R198: KLD of v2 in lane 1. -/
theorem test_kld : let i := Instr.kld (withImm (fields 2 2 0) 1)
    effects i (matrix i) = some ([.latch 2 7], 0) ∧ trapped (.kld (withImm (fields 2 2 0) 16)) (matrix (.kld (withImm (fields 2 2 0) 16))) = some (2, 0) := by decide

/-! ## Children, queues, branches and system slots -/

/-- A copy child of the group, in entry 3 of core 0 under generation 1: its token is 0x3001. -/
def copyChild (st : ChildSt) : Child :=
  { gen := 1, ctx := 1, launch := 7, gidx := 0, set := 0, adopted := false, cls := 1, st := st, req := ⟨1, 0, false, false, 4, 0, [], [], 0, 0⟩, prio := 0, maxPrio := 2
    order := 0, attached := true, givenUp := false, onOrphan := none, baddr := 0, slot := 0, cursor := 0, cause := 2, addr := 0, detail := 0, empty := false
    reported := false, cancel := none, stop := false, parkedAt := none, inst := 0, beats := 0 }

/-- A record queue of 16 records of 64 bytes at 0x5000. -/
def records : RecQueue :=
  { pool := 0x5000, psize := 1024, rsize := 64, batch := 1, cons := 0, tq := 0, next := 0, deliver := 0, oldest := 0, res := [], committed := [], void := [], out := []
    freedRecs := [], flushing := false }

/-- The module with that child, and with record queue 9 in context 1. -/
def parent (st : ChildSt) : State :=
  { module with children := [(3, some (copyChild st))], ctxs := [(1, { getCtx module 1 with rqs := [(9, some records)] })] }

/-- Uniforms: s4 = 0x1000, s7 poisoned, s20 = the token, s21 = one record of queue 9, s22 = 9, s23 = a reserved bit of RRES. -/
def owner : Group :=
  { regs with s := [(4, ⟨0x1000, false⟩), (7, ⟨9, true⟩), (20, ⟨0x3001, false⟩), (21, ⟨0x10009, false⟩), (22, ⟨9, false⟩), (23, ⟨0x10400, false⟩), (31, ⟨5, false⟩)] }
def owns (st : ChildSt) (i : Instr) : Taken := opened (parent st) owner i

theorem test_creation_issues : ∀ i ∈ ([.cpy (fields 1 32 63), .cpy (fields 1 63 63), .coll (fields 1 32 63)] : List Instr), let q := owns .running i
    issues q i [.child 1 ⟨1, 0, false, false, 4, 0, [], [], 0, 0⟩] ∧ (∀ j < 16, (q.s32 (32 + j)).poison = false) ∧ unreleased q.s q.g + creating q.sc = 1
    ∧ createHold q.sc 1 = false ∧ createHold q.sc 2 = false := by decide
/-- R262: a token of a child that ended complete, that faulted, that runs, and one that is stale. -/
theorem test_token_issues : ∀ st ∈ ([.complete, .faulted, .cancelled, .running] : List ChildSt), ∀ i ∈ ([.twait (fields 1 20 0), .ttest (fields 1 20 0), .tcancel (fields 1 20 0),
    .tdet (fields 0 20 0), .trel (fields 0 20 0), .tprio (withImm (fields 0 20 0) 3)] : List Instr), let q := owns st i
    issues q i [.result 4 [.s 1 ⟨0, false⟩]] ∧ childByToken q.s 1 0x3001 = some (3, copyChild st) ∧ ownedBy q.g (copyChild st) = true := by decide
theorem test_stale_token_issues : ∀ i ∈ ([.twait (fields 1 31 0), .ttest (fields 1 31 0), .tdet (fields 0 31 0), .trel (fields 0 31 0)] : List Instr), let q := owns .running i
    issues q i [.result 4 [.s 1 ⟨3, false⟩]] ∧ childByToken q.s 1 5 = none := by decide
/-- The child of another group. -/
theorem test_foreign_token_issues : ∀ i ∈ ([.twait (fields 1 20 0), .ttest (fields 1 20 0)] : List Instr), let q := opened (parent .running) { owner with gidx := 4 } i
    issues q i [] ∧ ownedBy q.g (copyChild .running) = false ∧ trapped i q = some (2, 0) := by decide
theorem test_cntwait_issues : ∀ i ∈ ([.cntwaitMx (withImm (fields 1 0 0) 0), .cntwaitCp (withImm (fields 1 1 0) 0), .cntwaitCo (withImm (fields 1 2 0) 0)] : List Instr),
    issues (owns .faulted i) i [.result 4 [.s 1 ⟨0, false⟩]] ∧ (classCounter owner 0).length = 0
    ∧ earliest ((leftChildren (parent .faulted) owner 1).filter fun k => decide (k.2.st = .faulted) && !k.2.reported) = some (3, copyChild .faulted) := by decide
/-- R281, R282: TTEST of a running child answers 4, of a complete one 0, and frees it. -/
theorem test_ttest : effects (.ttest (fields 1 20 0)) (owns .running (.ttest (fields 1 20 0))) = some ([.result 4 [.s 1 ⟨4, false⟩]], 0)
    ∧ effects (.ttest (fields 1 20 0)) (owns .complete (.ttest (fields 1 20 0))) = some ([.result 4 [.s 1 ⟨0, false⟩], .acquire 4, .childFree 3], 0)
    ∧ effects (.ttest (fields 1 31 0)) (owns .complete (.ttest (fields 1 31 0))) = some ([.result 4 [.s 1 ⟨3, false⟩]], 0) := by decide
theorem test_queue_issues : (∀ i ∈ ([.qput (fields 1 32 22), .qput (fields 1 48 22), .rres (fields 1 21 2), .rcommit (fields 0 21 22), .rres (fields 1 23 2), .rcommit (fields 0 23 22),
      .lfill (fields 8 1 22), .rngseed (fields 0 2 22), .rngseed (withMod (fields 0 2 22) (reg4 1))] : List Instr), issues (owns .running i) i [.qput 1 9 []])
    ∧ tget none (getCtx (parent .running) 1).rqs 9 = some records ∧ owner.macc = []
    ∧ (∀ j < 16, (sreg owner owner.p0 (32 + j)).poison = false) ∧ ∀ l < 2, (vpair owner 2 l).2 = false := by decide
/-- R114: RRES of a queue number with a reserved bit. -/
theorem test_rres : effects (.rres (fields 1 21 2)) (owns .running (.rres (fields 1 21 2))) = some ([.rres 1 2 9 1], 0)
    ∧ trapped (.rres (fields 1 23 2)) (owns .running (.rres (fields 1 23 2))) = some (2, 0) := by decide
/-- R197: RNGSEED of lane 0 alone, from s22 and the pair v2, v3. -/
theorem test_rngseed : let i := Instr.rngseed (withMod (fields 0 2 22) (reg4 1))
    effects i (owns .running i) = some ([.seed 1 9 [0x300000006]], 0) := by decide

/-- Branches: by an immediate and by the pair s4, s5. -/
theorem test_branch_issues : (∀ i ∈ ([.bra (withImm (fields 0 0 0) 8), .bra (fields 0 0 4), .brcAny (fields 0 1 4), .brcAll (fields 1 1 4), .brcNone (fields 2 1 4), .brcNall (fields 3 1 4),
      .brd (fields 1 1 4), .brd (fields 1 7 4), .call (fields 8 0 4), .ret (fields 0 4 0), .brcAny (fields 0 2 4), .chk (fields 0 2 4), .chk (fields 1 7 4), .chk (fields 2 2 4), .chk (fields 3 1 4)]
      : List Instr), issues (at1 i) i [.window { left := 3, taken := true, target := 0x1000 }])
    ∧ spair regs regs.p0 4 = (0x1000, false) := by decide

/-- A guard of 0 (sp1 is poisoned, sp2 is 0). -/
theorem test_branch_guards : ∀ i ∈ ([.bra, .call] : List (Slot → Instr)), (at1 (i (withGuard (fields 0 0 4) 1))).ready (i (withGuard (fields 0 0 4) 1))
    ∧ (scalarGuard (at1 (i (withGuard (fields 0 0 4) 1))).sc).poison = true ∧ scalarGuard (at1 (i (withGuard (fields 0 0 4) 2))).sc = ⟨false, false⟩ := by decide
/-- R155: BRC.any of p1, whose lane 0 is 1, is taken to s4; BRC.all is not; BRD parts lanes 0 and 1; CHK of the poisoned s7 branches. -/
theorem test_branches : effects (.brcAny (fields 0 1 4)) (at1 (.brcAny (fields 0 1 4))) = some ([.window { left := 3, taken := true, target := 0x1000 }], 0)
    ∧ effects (.brcAll (fields 1 1 4)) (at1 (.brcAll (fields 1 1 4))) = some ([.window { left := 3, taken := false, target := 0 }], 0)
    ∧ effects (.brd (fields 1 1 4)) (at1 (.brd (fields 1 1 4))) = some ([.result 2 [.s 1 ⟨0x10001, false⟩], .openRegion 0x10001 2 1 0x1000,
        .window { left := 3, taken := true, target := 0x1000, fork := true }], 0)
    ∧ effects (.chk (fields 1 7 4)) (at1 (.chk (fields 1 7 4))) = some ([.window { left := 3, taken := true, target := 0x1000 }], 0) := by decide
/-- R155: 0x1000 plus four times −8. -/
theorem test_bra_back : let i := Instr.bra (withImm (fields 0 0 0) 0xFFFFF8)
    effects i (at1 i) = some ([.window { left := 3, taken := true, target := 0xFE0 }], 0) := by decide
/-- Depth 32 already. -/
theorem test_brd_overflow : let i := Instr.brd (fields 1 1 4)
    let q := opened module { regs with p0 := { regs.p0 with depth := 32 } } i
    issues q i [] ∧ trapped i q = some (9, 0) := by decide

/-- A path of depth 1 in a region of token 0x10001. -/
def joining (i : Instr) : Taken :=
  opened module { regs with s := [(1, ⟨0x10001, false⟩), (2, ⟨6, false⟩)], p0 := { regs.p0 with depth := 1 }, stack := [{ token := 0x10001, mask0 := 2, mask1 := 3, st0 := .arrived, st1 := .live, pc0 := 0, pc1 := 0, sh0 := [], sh1 := [] }] } i
theorem test_join_issues : (∀ i ∈ ([.join (fields 0 1 0), .join (fields 0 2 0), .join (fields 0 3 0), .yield (fields 0 0 0), .exit (fields 0 0 0)] : List Instr), issues (joining i) i [.yield])
    ∧ innerToken (joining (.yield (fields 0 0 0))).g (joining (.yield (fields 0 0 0))).path = 0x10001
    ∧ effects (.join (fields 0 1 0)) (joining (.join (fields 0 1 0))) = some ([.join 0x10001], 0) ∧ trapped (.join (fields 0 2 0)) (joining (.join (fields 0 2 0))) = some (2, 0) := by decide
theorem test_h_slot_issues : let q := at1 (.hSlot false 3 true false)
    q.s.cur = some q.is ∧ getGroup q.s 0 = some regs ∧ q.is.above ≤ 12 ∧ effects (.hSlot false 3 true false) q = some ([.hint 3 true], 0) := by decide

/-! ## Barriers, blocks, traces and traps -/

/-- A barrier word at offset 0 of the set's scratchpad, valid and expecting 8 bytes. -/
def barred : State := { module with pond := writeN [] 0 8 (2 ^ 63 + 8 * 2 ^ 28) }
def deep : Group := { regs with p0 := { regs.p0 with depth := 1 } }
theorem test_barrier_issues : ∀ i ∈ ([.bar (fields 0 0 0), .barArrive (fields 0 1 0), .barWait (fields 0 2 0)] : List Instr), issues (at1 i) i [.barArrive, .wait (.bar 0)]
      ∧ (at1 i).path.depth = 0 ∧ (pathAt (at1 i).g 1).st = .empty ∧ (at1 i).g.arr = false ∧ (at1 i).g.macc = [] := by decide
theorem test_barrier_nested : ∀ i ∈ ([.bar (fields 0 0 0), .barArrive (fields 0 1 0), .barWait (fields 0 2 0)] : List Instr), issues (opened module deep i) i []
    ∧ trapped i (opened module deep i) = some (2, 0) := by decide
theorem test_barb_issues : ∀ i ∈ ([.barbInit (withImm (fields 0 5 0) 8), .barbExpect (withImm (fields 16 5 0) 8), .barbArrive (withImm (fields 32 5 0) 8), .barbWait (withImm (fields 50 5 0) 1)] : List Instr),
      issues (opened barred regs i) i [.barbOp 0 0 8 0] ∧ checkPond barred regs 8 0 0 = ⟨0, 0, 0, 0, 0, true⟩ ∧ (barAt barred 0).v = true ∧ (barAt barred 0).expect = 8
      ∧ fencedAt barred regs 0 = false ∧ pathBusy (opened barred regs i).sc = false := by decide
/-- A misaligned word, one beyond the set's banks, and one that is not valid. -/
theorem test_barrier_traps : trapped (.barbWait (withImm (fields 50 3 0) 1)) (opened barred regs (.barbWait (withImm (fields 50 3 0) 1))) = some (3, 5)
    ∧ trapped (.barbWait (withImm (fields 50 4 0) 1)) (opened barred regs (.barbWait (withImm (fields 50 4 0) 1))) = some (2, 0)
    ∧ (let g := { regs with s := [(4, ⟨0x80000, false⟩)] }
       trapped (.barbWait (withImm (fields 50 4 0) 1)) (opened barred g (.barbWait (withImm (fields 50 4 0) 1))) = some (4, 0x80000)) := by decide
theorem test_waitevt_issues : let i := Instr.waitevt (fields 1 4 2)
    let q := at1 i
    issues q i [] ∧ (q.s32 2).poison = false ∧ spair q.g q.path 4 = (0x1000, false) ∧ checkGlobal q.s 0 1 { r := true } 4 0 0x1000 = (q.s, some ⟨0, 0x1000, 0, 0, 0x1000, true⟩)
    ∧ q.fits [.wait (.waitevt ⟨some 0x1000, 0x1000, 0x1000, 0, 0, 6, 0, false, 0⟩)] 0 [⟨.sp, 1, 1, true⟩] := by decide
def three : Group := { regs with blocks := 3 }
theorem test_rbrel_issues : let i := Instr.rbrel (withImm (fields 0 0 0) 1)
      let us : List RegUse := [⟨.v, 16, 8, true⟩]
      issues (opened module three i) i [.blocksRel 1] ∧ us.any (pendingUse three three.p0) = false ∧ ((opened module three i).is.uses ++ usesOf formRbrel (withImm (fields 0 0 0) 1)).any (fun u => us.any (usesMeet u)) = false
      ∧ (opened module three i).fits [.blocksRel 1] 0 us := by decide
theorem test_block_traps : ∀ i ∈ ([.rbrel (withImm (fields 0 0 0) 0), .rbrel (withImm (fields 0 0 0) 3), .rbclaim (withImm (fields 0 0 0) 0), .rbclaim (withImm (fields 0 0 0) 6)] : List Instr),
    trapped i (opened module three i) = some (2, 0) := by decide
theorem test_rbclaim_issues : let i := Instr.rbclaim (withImm (fields 0 0 0) 5)
    issues (opened module three i) i [.blocksClaim 5] ∧ (getSeq module 0).claims = [] ∧ 5 ≤ freeBlocks (opened module three i).s 0 := by decide
theorem test_system_issues : (∀ i ∈ ([.bankmode (withImm (fields 0 0 0) 768), .bankmode (withImm (fields 0 0 0) 0x101), .bankmode (withImm (fields 0 0 0) 2), .prpub (withImm (fields 1 4 0) 1),
      .posew (withImm (fields 1 32 0) 2), .tracemark (withImm (fields 0 0 0) 5), .enrd (fields 8 0 0)] : List Instr), issues (at1 i) i [.mark 5])
    ∧ (pondOf module regs).2.length = 2 ∧ fenceBehind module regs = false ∧ trapped (.bankmode (withImm (fields 0 0 0) 2)) (at1 (.bankmode (withImm (fields 0 0 0) 2))) = some (4, 0) := by decide
/-- PRPUB of a record at 64, which is not aligned to 128, and at 2^57. -/
theorem test_prpub_traps : (let g := { regs with s := [(4, ⟨64, false⟩)] }
      trapped (.prpub (withImm (fields 1 4 0) 1)) (opened module g (.prpub (withImm (fields 1 4 0) 1))) = some (3, 64))
    ∧ (let g := { regs with s := [(5, ⟨0x2000000, false⟩)] }
       trapped (.prpub (withImm (fields 1 4 0) 1)) (opened module g (.prpub (withImm (fields 1 4 0) 1))) = some (4, 2 ^ 57)) := by decide

/-- A group in a handler whose sr.epc is 0x2000 and whose bundle there has two words. -/
def handler : Group := { regs with hnd := true, epc := 0x2000, ecause := 0x1000 }
theorem test_trap_issues : ∀ i ∈ ([.trap (withImm (fields 0 0 0) 0x1234), .trap (fields 0 0 7), .brk (fields 0 0 5)] : List Instr), issues (at1 i) i [] := by decide
theorem test_return_issues : ∀ i ∈ ([.rte (fields 0 0 0), .rteSkip (fields 0 1 0)] : List Instr), ∀ g ∈ [regs, handler, { handler with epc := 0x2002 }, { handler with epc := 0x200000000000000 }],
    issues (opened module g i) i [.rte 0x2000 1 false] ∧ (opened module g i).path.window = none := by decide
/-- R391, R392. -/
theorem test_traps : trapped (.trap (withImm (fields 0 0 0) 0x1234)) (at1 (.trap (withImm (fields 0 0 0) 0x1234))) = some (14, 0x1234)
    ∧ trapped (.trap (fields 0 0 7)) (at1 (.trap (fields 0 0 7))) = some (7, 0) ∧ trapped (.brk (fields 0 0 5)) (at1 (.brk (fields 0 0 5))) = some (15, 5)
    ∧ trapped (.rte (fields 0 0 0)) (at1 (.rte (fields 0 0 0))) = some (2, 0)
    ∧ effects (.rteSkip (fields 0 1 0)) (opened module handler (.rteSkip (fields 0 1 0))) = some ([.rte 0x2000 1 true], 0) := by decide

/-! ## Commits, landings and the events of memory -/

/-- The state that an event leads to, under its arguments. -/
def event (i : Instr) (s : State) (n m : Nat) (v : DWord) : Option State :=
  match exec i { s with args := { n := n, m := m, v := v } } with
  | .next t => some t
  | _ => none

/-- A module whose group at place 0 is given. -/
def withGroup (g : Group) : State := putGroup module 0 g

/-- R389: a trap of a path outside a handler; one inside it, and one of a context with TP = 0, begin a stop. -/
def faultingIssue : Issue := { loc := 0, path := 0, baddr := 0x1000, words := [], idx := 2, len := 3, above := 0, effs := [], flags := 0, uses := [] }
theorem test_trap_entry : let t := raiseTrap (withGroup regs) faultingIssue 2 ⟨6, 0x40, 3, 0⟩
    (getGroup t 0).map (fun g => (g.epc, g.efault, g.ecause, g.hnd, g.p0.pc)) = some (0x1000, 0x40, 0x32A06, true, 0x8000) := by decide
/-- R383, R384: a soft error in lanes 0 and 1 of what the first slot reads; an odd register pair would come after it. -/
def softAdd (i : Instr) : Taken := let q := at1 i
  let is := { q.is with soft := some (0, 3) }
  { q with s := { q.s with cur := some is }, is := is }
theorem test_soft_trap : trapped (.uadd (fields 1 2 3)) (softAdd (.uadd (fields 1 2 3))) = some (13, 0)
    ∧ (let i := Instr.fmulF64 .va (fields 1 2 4); (trapped i (softAdd i), trapped i (at1 i)) = (some (13, 0), some (2, 0))) := by decide
theorem test_trap_again : (getCtx (raiseTrap (withGroup { regs with hnd := true }) faultingIssue 2 ⟨6, 0x40, 3, 0⟩) 1).faulting = true
    ∧ (getCtx (raiseTrap { withGroup regs with ctxs := [(1, { getCtx module 1 with tp := 0 })] } faultingIssue 2 ⟨6, 0x40, 3, 0⟩) 1).faulting = true := by decide
/-- R392: RTE.skip past a bundle of two words at 0x2000. -/
theorem test_trap_return : let is := { faultingIssue with effs := [(0, .rte 0x2000 1 true)] }
    let t := commit (withGroup { regs with hnd := true, asideWin := some { left := 2, taken := true, target := 0x3000 } }) is
    (getGroup t 0).map (fun g => (g.hnd, g.p0.pc, g.p0.window.map (·.left))) = some (false, 0x2008, some 1) := by decide
/-- R66: a commit of one result leaves the registers, moves the pc by the bundle's three words, and has the result in flight. -/
theorem test_result_commit : let is := { faultingIssue with effs := [(0, .result 2 [.s 1 ⟨4, false⟩])], flags := 5 }
    (getGroup (commit (withGroup regs) is) 0).map (fun g => (g.s == regs.s, g.p0.pc, g.fflags, g.inflight)) = some (true, 0x100C, 5, [⟨3, 0, 2, [.s 1 ⟨4, false⟩]⟩]) := by decide
/-- A translation of a page that core 0 has not walked to sets A in its leaf. -/
def paged : State :=
  { module with tlb := [], ctxs := [(1, { getCtx module 1 with root := 0x100000 })]
                mem := writeN (writeN (writeN [] 0x100000 8 0x200001) 0x200000 8 0x300001) 0x300008 8 0x4000001F }
theorem test_translation : let t := translate paged (.core 0) 1 0x40000010 { r := true }
    t.2 = .ok 0x40000010 ∧ mget t.1.mem 0x300008 = 0x3F ∧ Memory.wf t.1.mem = true ∧ Memory.wf paged.mem = true := by decide
/-- A store sets D as well; a fetch from the same page passes. -/
theorem test_translation_writes : mget (translate paged (.core 0) 1 0x40000010 { w := true }).1.mem 0x300008 = 0x7F
    ∧ (translate paged (.core 0) 1 0x40000010 { x := true }).2 = .ok 0x40000010 ∧ (translate paged (.core 0) 1 0 { r := true }).2 = .fault 1 2 := by decide

def landing (w : RegWrite) : Group := { regs with inflight := [⟨3, 0, 0, [w]⟩] }
theorem test_results_land : ∀ w ∈ ([.v 2 1 ⟨9, true⟩, .s 2 ⟨0, false⟩, .sp 0 ⟨false, false⟩, .p 1 0 ⟨false, false⟩, .x 3 9] : List RegWrite),
    getGroup (withGroup (landing w)) 0 = some (landing w) ∧ CanonicalFiles (landing w)
    ∧ ((event .resultLand (withGroup (landing w)) 0 0 0).bind fun t => getGroup t 0).isSome = true := by decide
theorem test_result_lands : ((event .resultLand (withGroup (landing (.v 2 1 ⟨9, true⟩))) 0 0 0).bind fun t => getGroup t 0).map
    (fun g => (vreg g 2 1, vreg g 2 0, g.inflight)) = some (⟨9, true⟩, ⟨6, false⟩, []) := by decide

/-- A group with one entry of memory access of two lanes at 0x1000 and 0x1008. -/
def entry (k : EntryKind) (pond : Bool) (size : Nat) (data : List Byte) : MemEntry :=
  { kind := k, mask := 3, pond := pond, size := size, baddr := 0x1000, word := 0, modw := 0, scope := 4, cached := false
    lanes := [⟨0, 0x1000, 0x1000, data, 0xFF, 0, true⟩, ⟨1, 0x1008, 0x1008, data, 0xFF, 0, true⟩] }
def accessing (e : MemEntry) : State := { withGroup { regs with macc := [e] } with mem := writeN [] 0x1000 8 0x80F2, pond := writeN [] 0x1000 8 7 }
theorem test_access_premises : ∀ e ∈ [entry (.load 16 true 2) false 2 [], entry (.load 64 false 2) false 8 [], entry .write false 2 [1, 2], entry .write true 2 [1, 2], entry .fence false 0 [],
      { entry (.atomic .add 2) false 4 [1, 0, 0, 0] with lanes := [⟨0, 0x1000, 0x1000, [1, 0, 0, 0], 0xFF, 0, true⟩] }],
    let g := { regs with macc := [e] }
    getGroup (accessing e) 0 = some g ∧ CanonicalFiles g ∧ entryReady g 0 = true ∧ entryReach (accessing e) 0 e = true ∧ Memory.wf (accessing e).mem = true ∧ Memory.wf (accessing e).pond = true
    ∧ (e.lanes.map (·.lane)).Nodup := by decide
/-- R203: a halfword 0x80F2 sign-extended in lane 0, and 0 in lane 1. -/
theorem test_load_binds : ((event .memoryResultLand (accessing (entry (.load 16 true 2) false 2 [])) 0 0 0).bind fun t => getGroup t 0).map
    (fun g => (vreg g 2 0, vreg g 2 1, vreg g 3 0, g.macc)) = some (⟨0xFFFF80F2, false⟩, ⟨0, false⟩, ⟨3, false⟩, []) := by decide
theorem test_pair_binds : ((event .memoryResultLand (accessing (entry (.load 64 false 2) false 8 [])) 0 0 0).bind fun t => getGroup t 0).map
    (fun g => (vreg g 2 0, vreg g 3 0)) = some (⟨0x80F2, false⟩, ⟨0, false⟩) := by decide
theorem test_store_performs : (event .storePerform (accessing (entry .write false 2 [1, 2])) 0 0 0).map
    (fun t => (mread t.mem 0x1000 2, mread t.mem 0x1008 2, mget t.mem 0x1002, t.pond == writeN [] 0x1000 8 7)) = some ([1, 2], [1, 2], 0, true)
    ∧ (event .storePerform (accessing (entry .write true 2 [1, 2])) 0 0 0).map (fun t => (mread t.pond 0x1000 3, mread t.mem 0x1000 2)) = some ([1, 2, 0], [0xF2, 0x80]) := by decide
/-- R225: 0x80F2 + 1 at 0x1000; v2 takes the old value; a compare with 1 fails and leaves it. -/
def atomic (op : AtomOp) (data : List Byte) : State := accessing { entry (.atomic op 2) false 4 [] with lanes := [⟨0, 0x1000, 0x1000, data, 0xFF, 0, true⟩] }
theorem test_atomic_performs : (event .storePerform (atomic .add [1, 0, 0, 0]) 0 0 0).map (fun t => (mread t.mem 0x1000 4, (getGroup t 0).map fun g => vreg g 2 0)) = some ([0xF3, 0x80, 0, 0], some ⟨0x80F2, false⟩)
    ∧ (event .storePerform (atomic .cas [1, 0, 0, 0, 9, 0, 0, 0]) 0 0 0).map (fun t => (mread t.mem 0x1000 4, (getGroup t 0).map fun g => vreg g 2 0)) = some ([0xF2, 0x80, 0, 0], some ⟨0x80F2, false⟩)
    ∧ (event .storePerform (atomic .minS [0xFF, 0xFF, 0xFF, 0xFF]) 0 0 0).map (fun t => mread t.mem 0x1000 4) = some [0xFF, 0xFF, 0xFF, 0xFF] := by decide

/-- R11, R408: the way from die 0 to memory of die 1 crosses die link 0, which has failed: the access stays. -/
def closedWay : State :=
  let e := { entry .write false 2 [1, 2] with lanes := [⟨0, 0x1000000000, 0x1000000000, [1, 2], 0xFF, 0, true⟩] }
  { accessing e with links := [(0, { st := .error })] }
theorem test_closed_way : (getGroup closedWay 0).map (fun g => (entryReady g 0, g.macc.map (entryReach closedWay 0), g.macc.map (entryReach module 0))) = some (true, [false], [true])
    ∧ event .storePerform closedWay 0 0 0 = some { closedWay with args := { n := 0, m := 0, v := 0 } } := by decide

/-! ## Between bundles -/

/-- R72: a taken window that has counted down, one not taken, and none. -/
def windowed (w : Option Window) : State := withGroup { regs with p0 := { regs.p0 with window := w } }
theorem test_window_close : ((event .delayWindowClose (windowed (some { left := 0, taken := true, target := 0x3000 })) 0 0 0).bind fun t => getGroup t 0).map (fun g => (g.p0.pc, g.p0.window)) = some (0x3000, none)
    ∧ ((event .delayWindowClose (windowed (some { left := 0, taken := false, target := 0 })) 0 0 0).bind fun t => getGroup t 0).map (fun g => (g.p0.pc, g.p0.window)) = some (0x1000, none)
    ∧ event .delayWindowClose (windowed none) 0 0 0 = some (windowed none) := by decide
theorem test_latch_effect : ((event .scaleLatchEffect (withGroup { regs with kpend := [⟨2, 9, 0, false⟩, ⟨2, 8, 1, false⟩] }) 0 0 0).bind fun t => getGroup t 0).map
    (fun g => (tget 0 g.k 2, g.kpend)) = some (9, [⟨2, 8, 1, false⟩]) := by decide
theorem test_wellspring_full : event .wellspringFill (withGroup { regs with ws := [(1, { queue := List.replicate 13 5 })] }) 0 1 0 = some { withGroup { regs with ws := [(1, { queue := List.replicate 13 5 })] } with args := { n := 0, m := 1, v := 0 } }
    ∧ (streamOf { regs with ws := [] } 1).queue.length ≤ 12 := by decide
/-- R142: the oldest claim, of two blocks, is granted. -/
theorem test_claim_grant : let s := { withGroup { regs with blocks := 3 } with seqs := [(0, { claims := [⟨0, 0, 2, 1, 3⟩] })] }
    ((event .claimGrant s 0 0 0).map fun t => ((getGroup t 0).map (·.p0.granted), (getSeq t 0).claims)) = some (some 2, []) := by decide
theorem test_congestion : (event .congestionSet module 3 0 0).map (·.congested) = some 8 ∧ (event .congestionClear { module with congested := 12 } 3 0 0).map (·.congested) = some 4
    ∧ (event .issueHold module 3 0 0).isSome = true ∧ (event .clusterCopyExpire { module with copies := [⟨0, 4, [], [0, 0, 0, 0], []⟩, ⟨0, 5, [], [2 ^ 64 - 16384, 0, 0, 0], []⟩] } 0 0 0).map (·.copies.length) = some 1 := by decide
/-- R366: a WAITEVT (the word at 0x1000 equal to 7) that does not hold, that holds, and whose limit is reached. -/
def awaiting (limit : Nat) (m : Memory) : State :=
  { withGroup { regs with p0 := { regs.p0 with waits := [.waitevt ⟨some 0x1000, 0x1000, 0x1000, 0, 0, 7, limit, false, 0⟩] } } with mem := m }
theorem test_waitevt_events : evtReady ((getGroup (awaiting 5 []) 0).getD {}) 3 0x1000 = true
    ∧ ((event .waitevtWake (awaiting 5 []) 0 0 0).bind fun t => getGroup t 0) = getGroup (awaiting 5 []) 0
    ∧ ((event .waitevtWake (awaiting 5 (writeN [] 0x1000 4 7)) 0 0 0).bind fun t => getGroup t 0).map (fun g => (g.p0.waits, g.inflight.length)) = some ([], 1)
    ∧ ((event .waitevtLimit (awaiting 5 []) 0 0 0).bind fun t => getGroup t 0).map (fun g => (g.p0.waits, g.inflight.length)) = some ([], 1)
    ∧ event .waitevtLimit (awaiting 0 []) 0 0 0 = some { awaiting 0 [] with args := { n := 0, m := 0, v := 0 } } := by decide
theorem test_watchdog : ((event .watchdog (withGroup { regs with p0 := { regs.p0 with waits := [.bar 0] } }) 0 0 0).bind fun t => getGroup t 0).map (fun g => (g.p0.waits, g.p0.doomed)) = some ([], some 12) := by decide
theorem test_bank_fence : let s := { withGroup { regs with p0 := { regs.p0 with waits := [.fence [1]] } } with banks := [(0, { mode := 1 }), (1, { mode := 2, pending := some 2, fencing := some 1, fifo := [[1]] })] }
    bankBusy s 1 = false ∧ tblWf {} s.banks = true ∧ (event .bankModeFenceComplete s 0 0 0).map (fun t => (getBank t 1, (getGroup t 0).map (·.p0.waits))) = some ({ mode := 1, pending := some 2 }, some []) := by decide

/-- Kernel 7 of context 1 with two live groups. -/
def kernel : Kernel :=
  { ctx := 1, launch := 7, queue := 0, pkt := 0, tag := 0, desc := 0, entry := 0, groups := 2, pondb := 0, blocks := 1, orph := 0, cores := false, setsize := 1, circ := [], key := 0, diemask := 0
    done := 0, arg := 0, list := none, st := .running, nextSet := 2, live := 2, prio := 0, capture := none, rqBatch := none, reserved := [] }
def retiring : State := { module with groups := [(0, some { regs with p0 := {} })], kernels := [kernel] }
theorem test_group_retire : mayRetire retiring { regs with p0 := {} } = true ∧ tblWf none retiring.groups = true ∧ getKernel retiring 1 7 = some kernel
    ∧ (event .groupRetire retiring 0 0 0).map (fun t => (getGroup t 0, (getKernel t 1 7).map (·.live))) = some (none, some 1)
    ∧ mayRetire (withGroup regs) regs = false ∧ event .groupRetire (withGroup regs) 0 0 0 = some (withGroup regs) := by decide

/-! ## Scanline slots -/

/-- A head with one slice of 16 pixels in the frame it shows, whose colour is tensor 1: 2 by 2 texels of binary16 at 0x7000; Tarn has
translated its context's first 2^30 bytes. -/
def shown : Head :=
  { st := .active, desc := [0x0000100000000000, 0x0010002000400040, 0, 0, 0, 0xFF, 0, 0]
    slices := [(0, { st := .running 5 1, frame := some ⟨1, 1, 2, 3, 0x44, 0x55, 0, [7]⟩, pose := [0x0000000900000008] })] }
def tarn : State :=
  { module with
    tlb := ⟨.engine 1, 5, 0, 30, 0x7F, 0⟩ :: module.tlb
    ctxs := [(1, { getCtx module 1 with ttbase := 0x6000 })]
    heads := [(2, shown)]
    mem := writeN (writeN (writeN (writeN (writeN (writeN [] 0x6040 8 0x7000) 0x6048 8 0x200000004) 0x6050 8 2) 0x6058 8 0x010000C300000000) 0x6060 8 8) 0x6068 8 16 }

/-- A word of one slot: its position, opcode and fields; on core 5 in context 1, whose registers 1 and 2 of every file hold 6 and 3, and whose
registers 4 and 5 of file 5 hold 0x00010001 and 0x00020000. -/
def scan (pos : Nat) (p : SlPos) (op d x y : Nat) : SlTaken :=
  let word : BitVec 128 := BitVec.ofNat 128 (2 ^ pos + (encodeSl op ⟨BitVec.ofNat 5 d, BitVec.ofNat 5 x, BitVec.ofNat 5 y⟩).toNat * 2 ^ slShift p)
  let w : SlIssue := ⟨5, 1, 0x100, word, pos, 0x110, []⟩
  let k : SlContext := { st := .current, head := 2, slice := 0, pc := 0x100, pushed := 15, regs := (List.range 6).flatMap fun f => [(32 * f + 1, 6), (32 * f + 2, 3)] ++ (if f = 5 then [(164, 0x00010001), (165, 0x00020000)] else []) }
  ⟨{ tarn with slw := some w, slcores := [(5, { ctxs := [(1, k)] })] }, w⟩
/-- What it leaves in flight. -/
def inFlight (q : SlTaken) (i : Instr) : Option (List SlResult) :=
  match exec i q.s with
  | .next t => some (getSlc t 5 1).inflight
  | _ => none

theorem test_scan_a_ready : ∀ e ∈ ([(.slAdd, 0), (.slSub, 1), (.slAnd, 2), (.slOr, 3), (.slXor, 4), (.slShl, 5), (.slShr, 6), (.slSar, 7), (.slMin, 8), (.slMax, 9), (.slSlt, 10), (.slSeq, 11),
    (.slAddi, 12), (.slMovi, 13), (.slMovl, 14), (.slFadd, 15), (.slFsub, 16), (.slFmin, 17), (.slFmax, 18), (.slFslt, 19), (.slF2h, 22)] : List (Instr × Nat)), (scan 0 .a e.2 3 1 2).ready e.1 ∧ (scan 1 .b e.2 3 1 2).ready e.1 := by decide
theorem test_scan_unary_ready : ∀ e ∈ ([(.slF2i, 20), (.slI2f, 21), (.slH2fl, 23), (.slH2fh, 24)] : List (Instr × Nat)), (scan 0 .a e.2 3 1 0).ready e.1 := by decide
theorem test_scan_m_ready : ∀ e ∈ ([(.slFmul, 0), (.slFfma, 1), (.slFdiv, 2), (.slMFadd, 5), (.slMFsub, 6), (.slImul, 7), (.slMMovi, 8), (.slMMovl, 9)] : List (Instr × Nat)), (scan 2 .m e.2 3 1 2).ready e.1 := by decide
theorem test_scan_m_unary_ready : ∀ e ∈ ([(.slFrcp, 3), (.slFsqrt, 4)] : List (Instr × Nat)), (scan 2 .m e.2 3 1 0).ready e.1 := by decide
theorem test_scan_l_ready : ∀ e ∈ ([(.slLdw, 0), (.slStw, 1), (.slLAdd, 3), (.slLAddi, 4), (.slLMovi, 5), (.slLMovl, 6)] : List (Instr × Nat)), (scan 3 .l e.2 3 1 2).ready e.1 := by decide
theorem test_scan_c_ready : ∀ e ∈ ([(.slXferA, 0, 2, 1, 4), (.slXferB, 1, 2, 1, 4), (.slXferM, 2, 2, 1, 4), (.slXferL, 3, 2, 1, 4), (.slXferW, 4, 2, 1, 4), (.slXferC, 5, 2, 1, 4), (.slBr, 6, 31, 31, 30),
    (.slBrnz, 7, 1, 31, 30), (.slBrz, 8, 1, 31, 30), (.slWait, 9, 0, 0, 0), (.slWaitMb, 9, 3, 0, 1), (.slWaitFr, 9, 0, 0, 2), (.slWaitFifo, 9, 0, 0, 3), (.slFetch, 10, 0, 4, 0),
    (.slOxcall, 11, 3, 6, 0), (.slPose, 12, 3, 0, 1), (.slSys, 13, 3, 0, 5), (.slCMovi, 14, 3, 1, 2), (.slCMovl, 15, 3, 1, 2), (.slCAddi, 16, 3, 1, 2), (.slDone, 17, 0, 0, 0)]
    : List (Instr × Nat × Nat × Nat × Nat)), (scan 5 .c e.2.1 e.2.2.1 e.2.2.2.1 e.2.2.2.2).ready e.1 := by decide
theorem test_scan_samp_ready : (scan 4 .w 0 6 8 0).ready .slSampBl ∧ (scan 4 .w 1 6 8 0).ready .slSampPt ∧ (scan 3 .l 2 3 1 0).ready .slOut := by decide

/-- R447, R454: 6 + 3, 6 − 3, 6 << 3 and 6 < 3 in file a, two words on. -/
theorem test_scan_alu : inFlight (scan 0 .a 0 3 1 2) .slAdd = some [⟨0, 3, 2, 0, 9⟩] ∧ inFlight (scan 0 .a 1 3 1 2) .slSub = some [⟨0, 3, 2, 0, 3⟩]
    ∧ inFlight (scan 0 .a 5 3 1 2) .slShl = some [⟨0, 3, 2, 0, 48⟩] ∧ inFlight (scan 1 .b 10 3 1 2) .slSlt = some [⟨1, 3, 2, 1, 0⟩] := by decide
/-- R455: IMUL takes four words; MOVL shifts by 10 and adds X : Y. -/
theorem test_scan_mul : inFlight (scan 2 .m 7 3 1 2) .slImul = some [⟨2, 3, 4, 2, 18⟩] ∧ inFlight (scan 2 .m 9 1 1 2) .slMMovl = some [⟨2, 1, 4, 2, 6 * 1024 + 34⟩] := by decide
/-- R459: XFER of w1 to c2; R463: SYS 5 is EXT1 and POSE 1 the high word of the slice's pose. -/
theorem test_scan_control : inFlight (scan 5 .c 5 2 1 4) .slXferC = some [⟨5, 2, 2, 5, 6⟩] ∧ inFlight (scan 5 .c 13 3 0 5) .slSys = some [⟨5, 3, 2, 5, 0x44⟩]
    ∧ inFlight (scan 5 .c 12 3 0 1) .slPose = some [⟨5, 3, 2, 5, 9⟩] := by decide
/-- R456: STW of l3 at 6 + 4·2, which is misaligned, faults; at 0 + 4·2 it stores. -/
theorem test_scan_store : (match exec .slStw (scan 3 .l 1 1 3 2).s with
      | .next t => some (leNat (mread t.lineStore (lsKey 5 1 8) 4), (getSlc t 5 1).pc)
      | _ => none) = some (6, 0x110)
    ∧ (match exec .slStw (scan 3 .l 1 1 1 2).s with
      | .next t => some (getSlc t 5 1).st
      | _ => none) = some .free := by decide
/-- R457: the sixteenth pixel of a line of 16 by 16 is pushed. -/
theorem test_scan_out : (match exec .slOut (scan 3 .l 2 1 2 0).s with
      | .next t => some ((getSlc t 5 1).pushed, (getSlc t 5 1).fifo)
      | _ => none) = some (16, [⟨6, 0, 3, 0⟩]) := by decide
/-- R460: a branch of −34 words from 0x100, taken on c1, which is 6. -/
theorem test_scan_branch : (match exec .slBrnz (scan 5 .c 7 1 31 30).s with
      | .next t => some (getSlc t 5 1).pc
      | _ => none) = some 0xE0
    ∧ (match exec .slBrz (scan 5 .c 8 1 31 30).s with
      | .next t => some (getSlc t 5 1).pc
      | _ => none) = some 0x110 := by decide
/-- R458: the colour is a plane of four channels of binary16, and the sample at its corner is in reach. -/
theorem test_scan_sample : (match (slTensor (scan 4 .w 1 6 8 0).c 0).2 with
      | .use t => some (t.base, t.ext)
      | _ => none) = some (0x7000, [4, 2, 2, 0, 0])
    ∧ (inFlight (scan 4 .w 1 6 8 0) .slSampPt).map (fun l => l.map (·.reg)) = some [6, 7] := by decide
/-- R462: FETCH of two elements of tensor 1 from column 0 of row 1; R465: OXCALL of a block at 0 takes entry 0. -/
theorem test_scan_calls : (match exec .slFetch (scan 5 .c 10 0 4 0).s with
      | .next t => some ((getSlc t 5 1).fetches.map fun f => (f.off, f.data.length))
      | _ => none) = some [(0, 16)]
    ∧ inFlight (scan 5 .c 11 3 6 0) .slOxcall = some [⟨5, 3, 2, 5, 5 * 2 ^ 26 + 2 ^ 24 + 1⟩] ∧ freeEntry (scan 5 .c 11 3 6 0).c.x = some 0 := by decide
/-- R461: WAIT.fr with a fetch under way waits; without one it goes on. R464: DONE of a slice without all its pixels faults. -/
theorem test_scan_waits : (match exec .slWaitFr (scan 5 .c 9 0 0 2).s with
      | .next t => some ((getSlc t 5 1).st, (getSlc t 5 1).pc)
      | _ => none) = some (.current, 0x110)
    ∧ (match exec .slDone (scan 5 .c 17 0 0 0).s with
      | .next t => some (getSlc t 5 1).st
      | _ => none) = some .free := by decide

/-! ## Children, steps and bundles -/

/-- The state that a move with a payload leads to. -/
def arriving (i : Instr) (s : State) (n : Nat) (v : DWord) (d : Payload) : Option State :=
  match exec i { s with args := { n := n, v := v, data := d } } with
  | .next t => some t
  | _ => none

/-- A copy of 8 bytes from 0x10000 to 0x20000, as the child of entry 3 of core 0. -/
def copying (st : ChildSt) : Child :=
  { copyChild st with req := ⟨1, 0, false, false, 4, 0, [0x10000, 0x20000, 8, 0, 0, 0, 0, 0], [], 0, 0⟩, cause := 0, begun := decide (st = .running) }
def holding (h : Child) : State := { module with kernels := [kernel], children := [(3, some h)], tlb := ⟨.copy 0, 5, 0, 30, 0x7F, 0⟩ :: module.tlb, mem := [⟨0x10000, 9⟩] }
/-- R261: the copy is the one that the Millpond of cluster 0 starts, and that of cluster 1 starts none. -/
theorem test_child_start : nextStart (holding (copying .issued)) (.millpond 0) = some (3, copying .issued) ∧ nextStart (holding (copying .issued)) (.millpond 1) = none
    ∧ ((arriving .childStart (holding (copying .issued)) 3 0 (.engine (.millpond 0))).bind fun t => getChild t 3).map (·.st) = some .running := by decide
/-- R275: a chunk copies the descriptor's next bytes, at most 4096; without a circuit no beat counts; a copy whose cursor has passed its total completes. -/
theorem test_copy_chunk : mayMove (copying .running) = true ∧ copyOver (copying .running) = false ∧ (copyDesc (copying .running).req.desc).circ = 0
    ∧ (event .copyChunkComplete (holding (copying .running)) 3 0 0).map (fun t => (mget t.mem 0x20000, (getChild t 3).map (·.cursor))) = some (9, some 8) := by decide
theorem test_child_complete : let h := { copying .running with cursor := 8 }
    mayMove h = true ∧ copyOver h = true ∧ ((event .childComplete (holding h) 3 0 0).bind fun t => getChild t 3).map (·.st) = some .complete
    ∧ mayMove (copying .waiting) = false ∧ event .childComplete (holding (copying .waiting)) 3 0 0 = some { holding (copying .waiting) with args := { n := 3, m := 0, v := 0 } } := by decide
/-- R277: of a copy of 4160 bytes on the first circuit, 64 beats are under way. -/
def beating (n : Nat) : Child := { copying .running with req := ⟨1, 0, false, false, 4, 0, [0x10000, 0x20000, 4160, 0, 0, 8, 0, 1], [], 0, 0⟩, beats := n }
theorem test_circuit_beat : mayMove (beating 3) = true ∧ copyOver (beating 3) = false ∧ (copyDesc (beating 3).req.desc).circ = 1 ∧ chunkBeats (beating 3) = 64
    ∧ ((event .circuitBeatArrive (holding (beating 3)) 3 0 0).bind fun t => getChild t 3).map (·.beats) = some 4 := by decide
/-- R269: a stop, and a cancellation, at a pause point. -/
theorem test_child_pause : ((event .childPause (holding { copying .issued with stop := true }) 3 0 0).bind fun t => getChild t 3).map (·.st) = some (.paused 1)
    ∧ ((event .childPause (holding { copying .waiting with stop := true }) 3 0 0).bind fun t => getChild t 3).map (·.st) = some (.paused 2)
    ∧ ((event .childPause (holding { copying .running with cancel := some 9 }) 3 0 0).bind fun t => getChild t 3).map (fun h => (h.st, h.cause)) = some (.cancelled, 9) := by decide
/-- A matrix child that runs. -/
def computing : Child := { copyChild .running with cls := 0, begun := true, req := ⟨0, 0, false, false, 4, 0, routine, [0, 0, 0, 0, 0], 0, 0⟩ }
theorem test_child_ends_early : ((event .childComplete (holding (copying .running)) 3 11 0).bind fun t => getChild t 3).map (fun h => (h.st, h.cause)) = some (.faulted, 11)
    ∧ chunkGoes { copying .running with sent := true, stop := true } = true
    ∧ ((event .childPause (holding { copying .running with sent := true, stop := true }) 3 0 0).bind fun t => getChild t 3).map (·.st) = some .running := by decide
theorem test_child_begins : let h := { copying .running with begun := false }
    mayMove h = true ∧ ((event .childComplete (holding h) 3 0 0).bind fun t => getChild t 3).map (fun c => (c.st, c.begun)) = some (.running, true) := by decide
theorem test_matrix_child : computing.cls = 0 ∧ mayMove computing = true := by decide

/-- The state that a step leads to. -/
def after (o : Host.Outcome State Fault Refusal) : Option State :=
  match o with
  | .next t => some t
  | _ => none

/-- Open words: TRACEMARK 5 with STOP, then a word of a reserved operation. -/
def wordsOpen (ws : List Word) : State := { withGroup regs with cur := some { faultingIssue with words := ws, idx := 0, len := ws.length } }
theorem test_step_slot : (match decodeSlot [0xD7240005] with
      | .ok (i, rest) => some (i, rest)
      | .error _ => none) = some (.tracemark ⟨true, 7, 0, 0, 5, none, none⟩, [])
    ∧ after (step (wordsOpen [0xD7240005])) = after (exec (.tracemark ⟨true, 7, 0, 0, 5, none, none⟩) (wordsOpen [0xD7240005])) := by decide
theorem test_step_slot_result : (after (step (wordsOpen [0xD7240005]))).map (fun t => (t.cur, (getGroup t 0).map (·.p0.pc))) = some (none, some 0x1004) := by decide
/-- R53: a word that decodes to nothing. -/
theorem test_step_reserved : (match decodeSlot [0xD7FC0000] with
      | .error _ => true
      | .ok _ => false) = true
    ∧ (after (step (wordsOpen [0xD7FC0000]))).map (fun t => (getGroup t 0).map (fun g => (g.hnd, g.ecause.toNat % 256))) = some (some (true, 1)) := by decide
theorem test_step_scan : (scan 0 .a 0 3 1 2).s.cur = none ∧ slInstr (scan 0 .a 0 3 1 2).w = some .slAdd
    ∧ after (step (scan 0 .a 0 3 1 2).s) = after (exec .slAdd (scan 0 .a 0 3 1 2).s) := by decide
/-- A module in operation with one move on its agenda. -/
def moving : State := { module with boot := { mode := 3 }, agenda := [⟨.congestionSet, { n := 3 }⟩] }
theorem test_step_agenda : moving.cur = none ∧ moving.slw = none ∧ moving.boot.mode ≠ 0 ∧ (after (step moving)).map (fun t => (t.congested, t.agenda, t.epoch)) = some (8, [], 1) := by decide
theorem test_step_boot : State.reset.cur = none ∧ State.reset.slw = none ∧ State.reset.boot.mode = 0 := by decide
theorem test_step_idle : nextAct { module with boot := { mode := 2 }, groups := [], ctxs := [] } = none := by decide
/-- R133: the group at place 0, ready, at 0x1000, where GBOX with STOP stands. -/
def readyGroup : State := { withGroup regs with boot := { mode := 3 }, mem := writeN [] 0x1000 4 0xA7050008 }
theorem test_bundle_opening : pickGroup readyGroup 0 = some (0, regs) ∧ pickPath readyGroup 0 regs = 0 ∧ (getCore readyGroup 0).turn = 0 ∧ regs.p0.pc = 0x1000 ∧ (match fetchWords readyGroup 0 1 0x1000 8 with
      | (t, .ok ws) => t == readyGroup && ws == [0xA7050008]
      | _ => false) = true
    ∧ (regs.skip && regs.hndPath == 0) = false ∧ regs.p0.rejected = none ∧ regs.p0.doomed = none := by decide
theorem test_soft_strike : ((event .bundleIssue readyGroup 0 1 0x8001).bind (·.cur)).map (·.soft) = some (some (0, 0x8001)) := by decide
theorem test_bundle_issue : ((event .bundleIssue readyGroup 0 0 0).bind (·.cur)).map (fun is => (is.loc, is.baddr, is.words, is.len)) = some (0, 0x1000, [0xA7050008], 1) := by decide
/-- R14: the turn of sequencer 0 has gone, and no group of sequencer 1 is ready. -/
theorem test_bundle_turns : (seqGroups readyGroup 0).any (fun e => groupReady readyGroup e.1 e.2) = true ∧ (seqGroups readyGroup 1).any (fun e => groupReady readyGroup e.1 e.2) = false
    ∧ (event .bundleIssue { readyGroup with cores := [(0, { turn := 1 })] } 0 0 0).map (fun t => (t.cur.isSome, (getCore t 0).ck, (getCore t 0).turn)) = some (false, 1, 0)
    ∧ event .bundleIssue readyGroup 1 0 0 = some { readyGroup with args := { n := 1, m := 0, v := 0 } } := by decide
theorem test_step_issue : (after (step { readyGroup with agenda := [⟨.bundleIssue, {}⟩] })).map (fun t => (t.cur.isSome, t.agenda, t.epoch)) = some (true, [], 0) := by decide
/-- CanonicalMemory. -/
theorem test_memory_canonical : Memory.wf module.mem = true ∧ Memory.wf module.pond = true := by decide

/-! ## Contexts, queues, kernels, the module's edges and the heads -/

/-- A descriptor of a context at 0x8000: tables at 0x100000, a fault queue of 16 records, 64 orphans, one resident group, a save area of 25 pages. -/
def descriptors : Memory :=
  writeN (writeN (writeN (writeN (writeN [] 0x8000 8 0x100000) 0x8020 8 0x200004) 0x8028 8 0x300000) 0x8030 8 0x400000) 0x8038 8 0x1900000001
/-- A module in operation with context 1 in a state. -/
def context (st : CtxSt) : State :=
  { module with boot := { mode := 3 }, sets := [], mem := descriptors, tlb := ⟨.engine 0, 5, 0, 30, 0x7F, 0⟩ :: module.tlb
                ctxs := [(1, { getCtx module 1 with st := st, sabase := 0x400000, sasize := 25, maxres := 1, fqlog := 4, fqbase := 0x200000, olbase := 0x300000, ollog := 6, pgva := 0x30000, pgcnt := 2 })] }
def ctxAfter (i : Instr) (st : CtxSt) (v : DWord := 0) : Option (CtxSt × Nat) := (event i (context st) 1 0 v).map fun t => ((getCtx t 1).st, (getCtx t 1).err)
theorem test_ctx_create : inGddr 0x8000 128 = true ∧ ctxDescBad (bytesDw (readHome (context .free) 0x8000 128)) = false ∧ ctxPlaced (ctxOf (bytesDw (readHome (context .free) 0x8000 128))) = true
    ∧ (ctxOf (bytesDw (readHome (context .free) 0x8000 128))).maxres = 1
    ∧ (ctxOf (bytesDw (readHome (context .free) 0x8000 128))).sasize = 25 ∧ ∀ e ∈ (context .free).ctxs, e.2.st = .free := by decide
/-- R89: in the states that admit them, and in those that do not. -/
theorem test_ctx_commands : ctxAfter .ctxCreate .saved 0x8001 = some (.saved, 2) ∧ ctxAfter .ctxPreempt .runnable = some (.saved, 0) ∧ ctxAfter .ctxPreempt .resident = some (.preempting, 0)
    ∧ ctxAfter .ctxPreempt .saved = some (.saved, 2) ∧ ctxAfter .ctxResume .saved = some (.runnable, 0) ∧ ctxAfter .ctxResume .runnable = some (.runnable, 2)
    ∧ ctxAfter .ctxDestroy .created = some (.destroyed, 0) ∧ ctxAfter .ctxDestroy .resident = some (.preempting, 0) ∧ ctxAfter .ctxDestroy .free = some (.free, 2) := by decide
theorem test_ctx_saves : saveSize (context .resident) 1 ≤ 25 * 4096 ∧ (getCtx (context .resident) 1).sasize = 25 ∧ allPaused (context .preempting) 1 = true
    ∧ ctxAfter .contextSaveComplete .preempting = some (.saved, 0) ∧ ctxAfter .energyWrite .saved 77 = some (.saved, 0) ∧ ctxAfter .energyWrite .resident 77 = some (.resident, 2) := by decide
/-- R92: a swept context's slot is free. -/
theorem test_ctx_sweep : let s := { context .destroyed with invals := [⟨1, 5, none, [], [], true⟩] }
    sweepDone s 1 = true ∧ (event .asnSweepComplete s 1 0 0).map (fun t => ((getCtx t 1).st, t.invals)) = some (.free, []) := by decide
/-- R492: the context's group on core 0 is at its cycle. -/
def stepping : State := putGroup { context .resident with ctxs := [(1, { getCtx (context .resident) 1 with dbgctl := 2, sasize := 100 })] } 0 regs
theorem test_debug_stop : dbgDue stepping 1 = true ∧ saveSize stepping 1 ≤ 100 * 4096
    ∧ (event .debugCycleStop stepping 1 0 0).map (fun t => ((getCtx t 1).st, (getCtx t 1).dbghit, (getCtx t 1).dbgctl)) = some (.preempting, true, 0) := by decide
/-- R373: two pages from 0x30000, by number. -/
theorem test_pages : (getCtx (context .resident) 1).pgva.toNat / 65536 % 2 ^ 41 * 65536 = 0x30000
    ∧ (event .pgInvalidate (context .resident) 1 0 0).map (fun t => (t.invals.map (·.range), (getCtx t 1).pgbusy)) = some ([some (0x30000, 2)], true)
    ∧ (event .pgInvalidateAll (context .resident) 1 0 0).map (fun t => t.invals.map (·.range)) = some [none]
    ∧ (event .pgReject (context .resident) 1 0 0).map (fun t => (getCtx t 1).pgerr) = some 0 ∧ (event .pgResolve (context .resident) 1 0 0).map (fun t => (getCtx t 1).resolves) = some 1
    ∧ (event .pgResolve (context .free) 1 0 0).map (fun t => (getCtx t 1).pgerr) = some 2 := by decide
theorem test_unit_invalidates : let s := { context .resident with invals := [⟨1, 5, none, [.core 0, .engine 0], [], false⟩] }
    (s.invals.find? fun i => i.ctx == 1 && i.units.contains (.core 0)).isSome = true ∧ quiescent s 1 (.core 0) = true
    ∧ (arriving .unitQuiesceInvalidate s 1 0 (.tunit (.core 0))).map (fun t => (t.tlb.map (·.tunit), t.invals.map (·.units))) = some ([.engine 0], [[.engine 0]])
    ∧ (arriving .invalidationLimit s 1 0 (.tunit (.core 0))).map (fun t => t.invals.map (·.blockedUnits)) = some [[.core 0]] := by decide

/-- Queue 2 of context 1, of 16 packets at 0x9000, in a state. -/
def queue (st : QueueSt) : Queue := { qbase := 0x9004, base := 0x9000, log := 4, ctx := 1, st := st, tail := 2, qctl := 0x100000 }
def queued (st : QueueSt) : State := { context .resident with queues := [(2, queue st)] }
def queueAfter (i : Instr) (st : QueueSt) : Option (QueueSt × Nat) := (event i (queued st) 2 0 0x100000).map fun t => ((getQueue t 2).st, (getQueue t 2).err)
/-- R96, R99. -/
theorem test_queue_commands : queueAfter .queueBind .unbound = some (.idle, 0) ∧ queueAfter .queueUnbind .idle = some (.unbound, 0) ∧ queueAfter .queueSuspend .runnable = some (.suspended, 0)
    ∧ queueAfter .queueResume .suspended = some (.idle, 0) ∧ queueAfter .queueReset .idle = some (.idle, 1) ∧ queueAfter .queueBind .runnable = some (.runnable, 1) := by decide
theorem test_queue_reset : (event .queueReset { queued .faulted with queues := [(2, { queue .faulted with faultAtHead := true })] } 2 0 0x100000).map
    (fun t => ((getQueue t 2).st, (getQueue t 2).head)) = some (.runnable, 1) := by decide
/-- R97: TAIL 5, and TAIL 40, which overruns the ring. -/
theorem test_doorbell : (event .qdoorWrite (queued .idle) 2 0 5).map (fun t => ((getQueue t 2).st, (getQueue t 2).tail)) = some (.runnable, 5)
    ∧ (event .qdoorWrite (queued .idle) 2 0 40).map (fun t => ((getQueue t 2).st, (getQueue t 2).faultCode)) = some (.faulted, 4)
    ∧ event .qdoorWrite (queued .unbound) 2 0 40 = some { queued .unbound with args := { n := 2, m := 0, v := 40 } } := by decide
/-- R130: of a kernel that runs, and of none. -/
theorem test_kernel_cancel : let s := { queued .idle with kernels := [{ kernel with queue := 2, live := 0 }] }
    getKernel s 1 7 = some { kernel with queue := 2, live := 0 } ∧ (event .kernelCancel s 1 0 7).isSome = true ∧ (event .kernelCancel s 1 0 8).map (fun t => (getCtx t 1).kerr) = some 1 := by decide

/-- A packet of version 1 with these doublewords. -/
def pkt (op : BitVec 64) (a b c d : DWord) : Packet := ⟨0x100 ||| op, a, b, c, d, 0, 0, 0⟩
/-- Dispatch of a packet from queue 2, whose doubleword 0x9100 holds 6. -/
def dispatching : State := { queued .runnable with mem := writeN descriptors 0x9100 8 6 }
def dispatched (i : Instr) (k : Packet) : Option State := arriving i dispatching 2 0 (.packet k)
/-- HEAD and TAIL, and the queue's state, after it. -/
def passedOn (i : Instr) (k : Packet) : Option (Word × QueueSt × Nat) := (dispatched i k).map fun t => ((getQueue t 2).head, (getQueue t 2).st, (getQueue t 2).faultCode)
theorem test_turn : (getQueue dispatching 2).st = .runnable ∧ (getQueue dispatching 2).out = 0 ∧ ctxServed dispatching (getQueue dispatching 2).ctx = true
    ∧ (pkt 0 0 0 0 0).hdr.toNat / 256 % 256 = 1 ∧ reservedBad (pkt 0 0 0 0 0) [] = false ∧ reservedBad (pkt 0 4 0 0 0) [] = true := by decide
/-- R102: NOP; with VER 2; with a reserved bit. -/
theorem test_nop : passedOn .nop (pkt 0 0 0 0 0) = some (1, .runnable, 0) ∧ passedOn .nop { pkt 0 0 0 0 0 with hdr := 0x200 } = some (0, .faulted, 2) ∧ passedOn .nop (pkt 0 4 0 0 0) = some (0, .faulted, 3) := by decide
/-- R104: a WAITMEM for 6 passes, one for 7 blocks. -/
theorem test_waitmem : passedOn .waitmem (pkt 3 0x9100 6 0xFF 0) = some (1, .runnable, 0) ∧ passedOn .waitmem (pkt 3 0x9100 7 0xFF 0) = some (0, .blocked, 0) := by decide
/-- SIGNAL: stores 5, adds 5, decrements, and asks for an interrupt. -/
theorem test_signal : (dispatched .signal (pkt 4 0x9100 5 0 0)).map (fun t => mread t.mem 0x9100 1) = some [5] ∧ (dispatched .signal (pkt 4 0x9100 5 1 0)).map (fun t => mread t.mem 0x9100 1) = some [11]
    ∧ (dispatched .signal (pkt 4 0x9100 5 0x100 0)).map (fun t => t.boot.irqs) = some 1 ∧ passedOn .signal (pkt 4 0x9100 0 2 0) = some (1, .runnable, 0) := by decide
/-- DEPEND of a block at 0x9200 whose two successors at 0x9300 go to device queue 3; INDIRECT; PRESENT to head 2, which is the context's. -/
def linked : State :=
  { dispatching with queues := [(2, queue .runnable), (3, { queue .idle with dev := true, base := 0xB000, head := 2 })]
                     heads := [(2, { shown with slices := [] })] }
def linkedOn (i : Instr) (k : Packet) : Option State := arriving i linked 2 0 (.packet k)
theorem test_depend : deviceQueue linked 1 3 = true ∧ deviceQueue linked 1 2 = false ∧ reservedBad (pkt 5 0x9200 1 0x9300 0x20003) [(1, vaBits), (2, 2 ^ 63 - 1), (3, vaBits), (4, 0x0FFFFFFF)] = false
    ∧ (linkedOn .depend (pkt 5 0x9200 1 0x9300 0x20003)).map (fun t => (mread t.mem 0x9200 1, mread t.mem 0x9208 2, (getQueue t 2).head)) = some ([1], [0, 0x93], 1)
    ∧ (linkedOn .depend (pkt 5 0x9200 1 0x9300 0x20002)).map (fun t => (getQueue t 2).faultCode) = some 6 := by decide
theorem test_indirect : (linkedOn .indirect (pkt 6 0x9200 3 0 0)).map (fun t => ((getQueue t 2).ind, (getQueue t 2).head)) = some (some (0x9200, 3), 0) := by decide
theorem test_present : (∀ h ∈ headsOf 4, headOwned (getHead linked h) 1 = true) ∧ (∃ h ∈ headsOf 3, headOwned (getHead linked h) 1 = false)
    ∧ (linkedOn .present (pkt 7 0x9200 4 0 0)).map (fun t => (getHead t 2).pubIn) = some [(1, 0x9200)] ∧ (linkedOn .present (pkt 7 0x9200 3 0 0)).map (fun t => (getQueue t 2).faultCode) = some 6 := by decide
/-- Record queue 9: POOL 0x5000 of 1024 bytes, records of 64, a batch of 1, its consumers on queue 3. -/
def configure : Packet := ⟨0x10A, 9, 0x5000, 1024, 0x100000040, 0x5080, 3, 0⟩
theorem test_rqconf : reservedBad configure [(1, 0x303FF), (2, vaBits), (3, anyBits), (4, 0xFFFF0000FFFF), (5, vaBits), (6, 0xFFFF)] = false
    ∧ (linkedOn .rqconfConfigure configure).map (fun t => (tget none (getCtx t 1).rqs 9).map fun r => (r.rsize, r.batch, r.tq)) = some (some (64, 1, 3)) := by decide
def configured : State := { linked with ctxs := [(1, { getCtx linked 1 with rqs := [(9, some records)] })] }
theorem test_rqconf_ends : rqBusy configured 1 records = false ∧ tget none (getCtx configured 1).rqs 9 = some records ∧ reservedBad (pkt 10 0x20009 0 0 0) [(1, 0x303FF)] = false
    ∧ (arriving .rqconfTearDown configured 2 0 (.packet (pkt 10 0x20009 0 0 0))).map (fun t => tget none (getCtx t 1).rqs 9) = some none
    ∧ (arriving .rqconfFlush configured 2 0 (.packet (pkt 10 0x10009 0 0 0))).map (fun t => (getQueue t 2).head) = some 1 := by decide
/-- R486: a window of descriptor 0x9400, whose buffers are at the start of the carve-out. -/
def capturing : State := { linked with mem := writeN (writeN (writeN [] 0x9400 8 0x0100000000000000) 0x9408 8 0xF00000008) 0x9410 8 0xF01000004 }
theorem test_capstart : (match readVirt (putQueue capturing 2 { queue .runnable with st := .dispatching }) queueUnit 1 0x9400 64 with
      | (_, .ok b) => !capDescBad (bytesDw b)
      | _ => false) = true
    ∧ (arriving .capstart capturing 2 0 (.packet (pkt 8 0x9400 0 0 0))).map (fun t => ((getQueue t 2).capture, t.captures.map (·.capd))) = some (some 0x9400, [0x9400]) := by decide
theorem test_capstop : let s := { linked with queues := [(2, { queue .runnable with capture := some 0x9400 })], captures := [⟨1, 0x9400, 0, 0xF00000000, 8, 0xF01000000, 4, 0, 0, 0, 0⟩] }
    (arriving .capstop s 2 0 (.packet (pkt 9 0x9400 0 0 0))).map (fun t => ((getQueue t 2).capture, (getQueue t 2).head)) = some (none, 1) := by decide
/-- R117: two groups in sets of one, of one block, from 0x1000. -/
def launching : State := { linked with mem := writeN (writeN (writeN (writeN [] 0xA000 8 0x1000) 0xA008 8 2) 0xA010 8 0x1001) 0xA078 8 1 }
theorem test_launch_checks : (match readVirt (putQueue launching 2 { queue .runnable with st := .dispatching }) queueUnit 1 0xA000 128 with
      | (_, .ok b) => dwAt (bytesDw b) 15 % 256 == 1 && dwAt (bytesDw b) 1 % 2 ^ 33 == 2 && !descBad (bytesDw b) 2 && !descBad (bytesDw b) 5
      | _ => false) = true := by decide
theorem test_launch : (arriving .launch launching 2 0 (.packet (pkt 1 0xA000 0 0 0))).map (fun t => ((getQueue t 2).launch.map fun k => (k.groups, k.entry, k.blocks), (getQueue t 2).st)) = some (some (2, 0x1000, 1), .dispatching)
    ∧ (arriving .blocklaunch launching 2 0 (.packet ⟨0x102, 0xA000, 0, 0, 0x9500, 5, 0, 0⟩)).map (fun t => (getQueue t 2).launch.map fun k => (k.groups, k.list)) = some (some (5, some 0x9500)) := by decide
/-- R117: the draft of a launch whose circuit table is still to be read, which has none. -/
theorem test_launch_draft : (arriving .launch { launching with queues := [(2, { queue .blocked with draft := some (kernel, 0) })] } 2 0 (.packet (pkt 1 0xA000 0 0 0))).map (fun t => (getQueue t 2).launch.map (·.groups)) = some (some 2) := by decide
/-- A launch that has been checked, and the kernel that it becomes. -/
def born : Kernel := { kernel with launch := 0, st := .admitted, nextSet := 0, live := 0, queue := 2, entry := 0x1000 }
def admitting : State := { linked with queues := [(2, { queue .dispatching with launch := some born })], ctxs := [(1, { getCtx linked 1 with maxres := 8 })] }
theorem test_admit : launchTooLarge admitting born = false ∧ planSets admitting born (fun c => lessReserved admitting c (roomNow admitting c)) [] (clusterOrder admitting born) 0 1 = some [(0, [0])]
    ∧ residentCount admitting 1 + setGroupCount born 0 ≤ 8 ∧ heldByCores admitting 2 born = false := by decide
theorem test_kernel_admit : (event .kernelAdmit admitting 2 0 0).map (fun t => (t.kernels.map (·.launch), (getQueue t 2).launch)) = some ([0], none) := by decide
theorem test_birth : let s := { admitting with kernels := [born], queues := [(2, queue .runnable)] }
    getKernel s 1 0 = some born ∧ birthDue s born = true ∧ birthPlace s born = some (0, [0], []) ∧ (match (birthMasks s born [0]).2 with
        | .ok l => l.length == 1
        | .error _ => false) = true
    ∧ (event .setBirth s 1 0 0).map (fun t => (t.groups.map (·.1), t.kernels.map (·.nextSet), t.lastCluster)) = some ([0], [1], 0) := by decide
/-- R99: a WAITMEM for 6 that waits. -/
theorem test_waitmem_satisfied : let s := { dispatching with queues := [(2, { queue .blocked with on := some (.waitmem (some 0x9100) 0x9100 0 6 0xFF false) })] }
    (event .waitmemSatisfied s 2 0 0).map (fun t => ((getQueue t 2).head, (getQueue t 2).st)) = some (1, .runnable) := by decide
/-- R107: a successor of one packet, for queue 3: it is read, and then appended. -/
def owing (o : Owed) : State := { linked with owed := [⟨o, none⟩] }
theorem test_successor : deviceQueue linked 1 3 = true ∧ (event .successorEnqueue (owing (.successor 1 0x9200 0x9300 3 1)) 0 0 0).map (fun t => t.owed.map fun o => match o.what with
        | .packets c ctr q b begun => (c, ctr, q, b.length, begun)
        | _ => (0, 0, 0, 0, true)) = some [(1, 0x9200, 3, 64, false)] := by decide
theorem test_packets_append : let s := owing (.packets 1 0x9200 3 (List.replicate 64 0) false)
    1 ≤ ringRoom (getQueue s 3) ∧ (event .successorEnqueue s 0 0 0).map (fun t => (t.owed, (getQueue t 3).tail)) = some ([], 3)
    ∧ ((event .successorEnqueue (owing (.batch 1 0x5080 { tq := 3, rq := 9, gen := 0, first := 4, addrs := [] })) 0 0 0).map fun t => ((getQueue t 3).tail, (getCtx t 1).batches.map fun b => (b.first, b.pkt))) = some (3, [(4, 2)])
    ∧ event .successorEnqueue linked 0 0 0 = some { linked with args := { n := 0, m := 0, v := 0 } } := by decide
/-- R380: a marked row of bank 0 of cluster 0, which no set holds. -/
def bank0 : Sram := .pond 0 0
def worn : State := { module with repair := { marked := [(bank0, 4)] } }
theorem test_soft_error : (arriving .correctedSoftError worn 0 0 (.sram bank0)).map (fun t => t.repair.marked) = some [(bank0, 4), (bank0, 0)]
    ∧ sramHidden worn bank0 = true ∧ sramWithdrawn worn bank0 = false ∧ sramUnheld worn bank0 = true ∧ (bank0, 4) ∈ worn.repair.marked ∧ (worn.repair.mapped.filter fun p => decide (p.1 = bank0)).length = 0 := by decide
/-- R402, R403: link 17 in a state. -/
def port (l : Link) : State := { module with links := [(17, l)] }
def portAfter (i : Instr) (l : Link) (o : Payload := .none) : Option (LinkSt × Nat × Bool) := (arriving i (port l) 17 0 o).map fun t => ((getLink t 17).st, (getLink t 17).err, (getLink t 17).busy)
theorem test_link_commands : portAfter .linkTrain {} = some (.training, 0, true) ∧ portAfter .linkTrain { st := .up } = some (.up, 2, false) ∧ portAfter .linkDrain { st := .up } = some (.stopped, 0, false)
    ∧ portAfter .linkDrain { st := .up, sent := [⟨0, none, [], 0⟩] } = some (.draining, 0, true) ∧ portAfter .linkDown { st := .up } = some (.down, 0, false)
    ∧ (event .linkTrain module 3 0 0).map (fun t => (getLink t 3).err) = some 5 := by decide
theorem test_link_events : portAfter .linkPhyTrained { st := .training, busy := true } = some (.negotiating, 0, true) ∧ (portAfter .linkPhyTrainFail { st := .training, busy := true }).map (·.1) = some .error
    ∧ portAfter .linkNegotiated { st := .negotiating, busy := true } (.peer ⟨9, 2, 2, 2, 2⟩) = some (.up, 0, false)
    ∧ (portAfter .linkNegotiated { st := .negotiating, busy := true } (.peer ⟨9, 4, 2, 2, 2⟩)).map (·.2.1) = some 4 ∧ (portAfter .linkLaneLoss { st := .up }).map (·.1) = some .error := by decide
theorem test_link_counts : (event .lnkcntRead (port { crcerr := 3, replayCnt := 1 }) 17 0 0).map (fun t => (t.hostData, (getLink t 17).crcerr)) = some (0x100000003, 0) := by decide
/-- R406: bytes that fail the hop check. -/
theorem test_bad_flit : lcrcOk [1, 2, 3] = false ∧ (arriving .slpFlitReceive (port { st := .up }) 17 0 (.bytes [1, 2, 3])).map (fun t => (getLink t 17).crcerr) = some 1 := by decide
/-- R411: module 9 may read and write 64 KiB at 0x20000; it may not write at 0. -/
def exporting : State := { module with expBase := [(0, 0x20000)], expCtl := [(0, 0x10FFF0007)] }
theorem test_requests : exported exporting 9 0x20008 2 false true = true ∧ exported exporting 9 0x20008 2 true false = true ∧ exported exporting 9 0x20008 4 true true = true ∧ exported exporting 9 0 2 true false = false
    ∧ exported exporting 9 0 2 false true = false ∧ inGddr 0x20008 4 = true
    ∧ (arriving .remoteMemoryRequest exporting 0 0 (.request ⟨9, 7, 0x20008, .write [5, 6]⟩)).map (fun t => mread t.mem 0x20008 2) = some [5, 6]
    ∧ (arriving .remoteMemoryRequest exporting 0 0 (.request ⟨9, 7, 0, .write [5, 6]⟩)).map (fun t => t.mem) = some module.mem := by decide
/-- An answer to a read of child 3. -/
def asked3 : RemotePending := ⟨7, .child 3, 9, 0, 4, false, true, false, none⟩
def asking : State := { holding { copying .running with asked := true } with remotes := [asked3] }
theorem test_response : (asking.remotes.find? fun q => q.tag == 7 && q.data.isNone) = some asked3 ∧ remotesOf asking 3 = [asked3]
    ∧ (arriving .remoteMemoryResponse asking 0 0 (.response ⟨7, true, [1, 2]⟩)).map (fun t => (t.remotes, (getChild t 3).map (·.got))) = some ([], some [1, 2, 0, 0])
    ∧ ((arriving .remoteMemoryResponse asking 0 0 (.response ⟨7, false, []⟩)).bind fun t => getChild t 3).map (fun h => (h.st, h.cause)) = some (.faulted, 2) := by decide
/-- An answer to a load of host core 2, and one to its store. -/
def hostAsks (wr : Bool) : State := { module with remotes := [⟨7, .host 2, 9, 0, 4, wr, !wr, false, none⟩] }
theorem test_host_response : (arriving .remoteMemoryResponse (hostAsks false) 0 0 (.response ⟨7, true, [1, 2]⟩)).map (fun t => (t.remotes, t.hostData, t.boot.hostFaults)) = some ([], 0x201, [])
    ∧ (arriving .remoteMemoryResponse (hostAsks true) 0 0 (.response ⟨7, false, []⟩)).map (fun t => (t.remotes, t.boot.hostFaults)) = some ([], [(2, .store)]) := by decide
/-- R417: a flit for a collective that no child runs yet. -/
def collFlit : CollFlit := { dstCtx := 1, inst := 4, chunk := 0, src := 2, kind := 0, op := 1, fmt := 7, count := 8, root := 0, down := false, data := [] }
theorem test_collective_flit : ctxCreated module 1 = true ∧ collChild module collFlit = none ∧ collStale module collFlit none = false ∧ collChild { module with collIn := [collFlit] } collFlit = none
    ∧ (arriving .collectiveFlitReceive module 0 0 (.coll collFlit)).map (·.collIn) = some [collFlit] := by decide
/-- R420: the first flit of slice 6 of head 2. -/
theorem test_stream : (arriving .streamFlitReceive module 0 0 (.stream ⟨9, 2, false, 1, 6, 0, [4, 5], true⟩)).map (fun t => (tget {} t.streams 2).next) = some 2
    ∧ (arriving .streamFlitReceive { module with streams := [(2, { frame := 1, slice := 6, next := 2, data := [4, 5] })] } 0 0 (.stream ⟨9, 2, true, 1, 6, 2, [7], true⟩)).map (fun t => (tget {} t.streams 2).shown) = some [4, 5, 7] := by decide
theorem test_route : (event .routeWrite module 0 0 0x00090004).map (·.routes) = some [(9, 4)] := by decide
/-- R22: no table lists 0x10002000000. -/
theorem test_reserved : hostReserved module 0x10002000000 = true ∧ regAt 0x10002000000 = none ∧ (arriving .hostReservedAccess module 0 0x10002000000 (.kind .load)).map (·.boot.hostFaults) = some [(0, .load)]
    ∧ regAt 0x10000000048 = some (.ctx, 1, 8) ∧ (event .registerWrite module 0x10002000000 0 0).map (·.boot.hostFaults) = some [(0, .store)] := by decide
theorem test_ageing : (event .ageingUpdate { module with boot := { ages := [(3, 50)] } } 3 0 20).map (fun t => tget 0xFFFFFFFF t.boot.ages 3) = some 20 := by decide
/-- R499: without a root key, and with one but nothing in the flash. -/
theorem test_boot : (event .powerOnReset { module with boot := { rootKey := none } } 0 0 0).map (fun t => (t.boot.mode, t.boot.bootErr, t.mem.length)) = some (2, 4, 0)
    ∧ firmwareOk (1, 2) 0 none = false := by decide
theorem test_boot_recovers : (event .resetRequest { module with boot := { rootKey := some (1, 2) } } 0 0 0).map (fun t => (t.boot.mode, t.boot.bootErr)) = some (2, 2) := by decide
theorem test_attestation : inCarveRange (0xF00000000 / 256 % 2 ^ 44 * 256) 288 = true ∧ inCarveRange 0 288 = false ∧ (event .attestationReport module 0 0 0).map (fun t => t.boot.attErr) = some 2 := by decide
/-- R252: 4 bytes at 0x100000004, which hold 6. -/
def hostState : State := { module with boot := { mode := 3 }, mem := writeN [] 0x10004 4 6 }
def hostDoes (op : HostOp) : Option (DWord × List Byte) := (arriving .hostMemoryAccess hostState 0 0 (.access ⟨2, 0x10004, 4, op, 0xFFFFFFFF, false, false⟩)).map fun t => (t.hostData, mread t.mem 0x10004 4)
theorem test_host_access : hostCoreRuns hostState 2 = true ∧ hostCoreRuns module 2 = false ∧ dieReach hostState 8 (homeDie 0x10004) = true ∧ hostDoes .fence = some (0, [6, 0, 0, 0]) ∧ inGddr 0x10004 4 = true ∧ Memory.wf hostState.mem = true ∧ hostDoes .load = some (6, [6, 0, 0, 0]) ∧ hostDoes .store = some (0, [0xFF, 0xFF, 0xFF, 0xFF])
    ∧ hostDoes .amoAdd = some (6, [5, 0, 0, 0]) ∧ hostDoes .amoAnd = some (6, [6, 0, 0, 0]) ∧ hostDoes .amoOr = some (6, [0xFF, 0xFF, 0xFF, 0xFF]) ∧ hostDoes .amoSwap = some (6, [0xFF, 0xFF, 0xFF, 0xFF])
    ∧ inGddr 0x10002000000 4 = false ∧ remoteOk module 0x10002000000 4 = false := by decide

/-- R427: a head of context 1 with 16 by 32 pixels in 32 by 64, 16 lines of lead, on its own output. -/
def headDesc : List DWord := [0x0100100000000010, 0x0010002000200040, 0x000003E800000000, 0, 0x0000000000100060, 1, 0, 0, 0, 0, 0, 0, 0, 0, 0, 0]
def lit : State := { tarn with mem := writeN (writeN (writeN (writeN (writeN tarn.mem 0xC000 8 0x0100100000000010) 0xC008 8 0x0010002000200040) 0xC010 8 0x000003E800000000) 0xC020 8 0x100060) 0xC028 8 1 }
def lamp (h : Head) : State := { lit with heads := [(2, { h with desc := headDesc })] }
def headAfter (i : Instr) (st : HeadSt) (v : DWord := 0) : Option (HeadSt × Nat) := (event i (lamp { st := st }) 2 0 v).map fun t => ((getHead t 2).st, (getHead t 2).err)
theorem test_head_start : inGddr 0xC000 128 = true ∧ bytesDw (readHome lit 0xC000 128) = headDesc ∧ startErr lit 2 { st := .starting, desc := headDesc } = 0
    ∧ (event .headStart { lit with heads := [] } 2 0 0xC001).map (fun t => (getHead t 2).st) = some .starting := by decide
theorem test_head_commands : headAfter .headStop .error = some (.idle, 0) ∧ headAfter .headStop .starting = some (.starting, 2) ∧ (headAfter .headStop .active).isSome = true
    ∧ startErr lit 2 { st := .starting, desc := List.replicate 16 0 } = 3 := by decide
theorem test_head_events : headAfter .headOutputTrained .starting = some (.active, 0) ∧ (headAfter .headOutputTrainFail .starting).map (·.1) = some .error ∧ (headAfter .headOutputLost .active).map (·.1) = some .error := by decide
theorem test_head_reads : (event .hmissRead (lamp { miss := 4 }) 2 0 0).map (fun t => (t.hostData, (getHead t 2).miss)) = some (4, 0)
    ∧ (event .hevtailRead (lamp { evlost := 1, evtail := 2 }) 2 0 0).map (fun t => (t.hostData, (getHead t 2).evlost)) = some (0x100000002, 0) := by decide
/-- R432: a pose staged, written and put in the mailbox. -/
theorem test_poses : (event .poseCommit (lamp { staged := [(7, 9)] }) 2 0 1).map (fun t => (getHead t 2).poseIn) = some [[0, 0, 0, 0, 0, 0, 0, 9]]
    ∧ (event .mailboxWrite (lamp { st := .active, poseIn := [[5]] }) 2 0 0).map (fun t => ((getHead t 2).mailbox, (getHead t 2).fresh)) = some ([[5]], true)
    ∧ (event .mailboxWrite (lamp { st := .idle, poseIn := [[5]] }) 2 0 0).map (fun t => ((getHead t 2).mailbox, (getHead t 2).poseIn)) = some ([], []) := by decide
/-- R423: a frame of tensors 1, 2 and 3 at 0xC100; and a descriptor of version 0 at 0xC200. -/
def publishingTo (st : HeadSt) (va : Nat) : State := { lamp { st := st, pubIn := [(1, va)] } with mem := writeN lit.mem 0xC100 8 0x0100000100020003 }
theorem test_publication_checks : headTakes (getHead (publishingTo .active 0xC100) 2) 1 = true ∧ headTakes (getHead (publishingTo .idle 0xC100) 2) 1 = false
    ∧ (match tarnRead (publishingTo .active 0xC100) 1 0xC200 128 with
      | (_, .ok b) => frameDescBad (bytesDw b)
      | _ => false) = true
    ∧ (match tarnRead (publishingTo .active 0xC100) 1 0xC100 128 with
      | (_, .ok b) => !frameDescBad (bytesDw b)
      | _ => false) = true := by decide
/-- Planes of 2 by 2: colour of 4 channels of binary16, depth of binary32, and motion of 2 channels of binary16. -/
def planes : List (Option (List DWord)) :=
  [some [0x7000, 0x200000004, 2, 0x010000C300000000, 8, 16, 0, 0], some [0x7100, 0x200000001, 2, 0x010000C200000000, 4, 8, 0, 0], some [0x7200, 0x200000002, 2, 0x010000C300000000, 4, 8, 0, 0]]
theorem test_frame : (frameOk 1 [0x0100000100020003, 0x44, 0, 0, 0, 0, 0, 0, 1, 2, 3, 4, 5, 6, 7, 8] planes).map (fun f => (f.tc, f.tz, f.tmv, f.ext1, f.ext2, f.frameid)) = some (1, 2, 3, 2, 2, 0x44) := by decide
theorem test_publication_discarded : (event .publicationTake (publishingTo .idle 0xC100) 2 0 0).map (fun t => (getHead t 2).pubIn) = some [] := by decide
/-- R433, R434: an active head's next events at its beginning (the latch of slice 1 stands before the start of slice 0), and at a slice's start and deadline. -/
def active (h : Head) : Head := { h with st := .active, desc := headDesc, mailbox := [[1, 2, 3, 4, 5, 6, 7, 8]], frame := 1 }
theorem test_pose_latch : let h := active { nextLatch := 1, nextStart := 1, nextDeadline := 1, nextOutput := 1, fresh := true }
    headDue h 0 = some 64 ∧ h.sliceOf 1 = 1 ∧ (event .poseLatch (lamp h) 2 0 0).map (fun t => ((getHead t 2).nextLatch, (getHead t 2).lastPose, (getHead t 2).beam)) = some (2, [1, 2, 3, 4, 5, 6, 7, 8], 64) ∧ tarnHeld (lamp h) h = false := by decide
def due (q : Slice) (a b c : Nat) : Head := active { nextLatch := 1, nextStart := a, nextDeadline := b, nextOutput := c, slices := [(0, q)] }
theorem test_slice_start : headDue (due {} 0 0 0) 1 = some 48 ∧ ((due {} 0 0 0).slice 0).bind (·.frame) = none
    ∧ ((event .sliceStart (lamp (due {} 0 0 0)) 2 0 0).bind fun t => (getHead t 2).slice 0).map (·.st) = some .fallback
    ∧ (((due { frame := some ⟨1, 1, 2, 3, 2, 2, 0, []⟩ } 0 0 0).slice 0).bind (·.frame)).isSome = true := by decide
theorem test_slice_deadline : headDue (due { st := .complete } 1 0 0) 2 = some 62 ∧ headDue (due {} 1 0 0) 2 = some 62 ∧ headDue (due { st := .running 5 1 } 1 0 0) 2 = some 62
    ∧ (event .sliceDeadline (lamp (due { st := .complete } 1 0 0)) 2 0 0).map (fun t => ((getHead t 2).nextDeadline, (getHead t 2).miss)) = some (1, 0) := by decide
theorem test_slice_output : headDue (active { nextLatch := 2, nextStart := 2, nextDeadline := 2, slices := [(0, { st := .complete })] }) 3 = some 80 ∧ headDue (active { nextLatch := 2, nextStart := 2, nextDeadline := 2 }) 3 = some 80
    ∧ (event .sliceOutput (lamp (active { nextLatch := 2, nextStart := 2, nextDeadline := 2 })) 2 0 0).map (fun t => (getHead t 2).nextOutput) = some 1 := by decide
/-- R449, R462, R465: context 1 of scanline core 5, with a fetch and a call. -/
def lineCore (x : SlContext) (c : SlCore) : State := { tarn with slcores := [(5, { c with ctxs := [(1, { x with head := 2, regs := [] })] })] }
theorem test_fetch_complete : (exec .fetchComplete { lineCore { st := .waiting, fetches := [⟨8, [7]⟩] } {} with args := { n := 5, m := 1 } } |> after).map
    (fun t => (mget t.lineStore (lsKey 5 1 8), (getSlc t 5 1).fetches.length)) = some (7, 0) := by decide
theorem test_fifo_drain : (event .outputFifoDrain (lineCore { st := .waiting, fifo := [⟨1, 2, 3, 4⟩] } {}) 5 1 0).map (fun t => ((getSlc t 5 1).fifo, ((getHead t 2).slice 0).map (·.pixels))) = some ([], some [⟨1, 2, 3, 4⟩]) := by decide
theorem test_samp_arrival : (event .sampTexelArrival (lineCore {} { sampHeld := true }) 5 0 0).map (fun t => (getSl t 5).sampHeld) = some false := by decide
theorem test_slcore_commands : (event .slcoreStop (lineCore {} {}) 5 0 1).map (fun t => (getSl t 5).stopped) = some true ∧ (event .slcoreRun (lineCore {} {}) 5 0 2).map (fun t => (getSl t 5).err) = some 2
    ∧ (event .slcoreRun (lineCore {} { stopped := true }) 5 0 2).map (fun t => (getSl t 5).stopped) = some false ∧ (event .slcoreStep (lineCore {} { stopped := true }) 5 0 3).isSome = true
    ∧ (event .slcoreStop (lineCore {} { stopped := true }) 5 0 1).map (fun t => (getSl t 5).err) = some 2 := by decide
theorem test_breakpoint : slAtBreak (lineCore { st := .current, pc := 0x100 } { brk := 0x101 }) 5 = true ∧ (event .slBreakpoint (lineCore { st := .current, pc := 0x100 } { brk := 0x101 }) 5 0 0).map (fun t => (getSl t 5).stopped) = some true
    ∧ slAtBreak (lineCore { st := .current, pc := 0x110 } { brk := 0x101 }) 5 = false := by decide
theorem test_no_call : nextCall module = none := by decide
/-- A call issued with its block at 0x5000: a product of 4 by 16 and 16 by 4 of binary16, both tensor 1, without a result tensor. -/
def calling (t : TarnCall) : State :=
  { lineCore { st := .current, calls := [(0, t)] } {} with mem := writeN (writeN (writeN tarn.mem 0x5000 8 0x0106600000000000) 0x5008 8 0x0002010040000000) 0x5020 8 0x0001000100000000 }
theorem test_call_block : nextCall (calling { st := 1, addr := 0x5000 }) = some ((5, 1, 0), { st := 1, addr := 0x5000 })
    ∧ tarnRoutineBad [0x0106600000000000, 0x0002010040000000, 0, 0, 0x0001000100000000, 0, 0, 0] = false := by decide
set_option maxRecDepth 8000 in
theorem test_call_start : (event .tarnCallStart (calling { st := 1, addr := 0x5000 }) 0 0 0).map (fun t => (t.tarnRun, (getCall t (5, 1, 0)).st, (getCall t (5, 1, 0)).block.length)) = some (some (5, 1, 0), 2, 68) := by decide
theorem test_call_complete : (event .tarnCallComplete { calling { st := 6 } with tarnRun := some (5, 1, 0) } 0 0 0).map (fun t => (t.tarnRun, (getCall t (5, 1, 0)).st)) = some (none, 0) := by decide

/-! ## More cases of the statements on commands, packets and the module's edges -/

/-- PREEMPT of a context whose save does not fit its one page, and commands while one is under way. -/
theorem test_ctx_small : let s := { context .resident with ctxs := [(1, { getCtx (context .resident) 1 with sasize := 0 })] }
    saveSize s 1 > 0 ∧ (event .ctxPreempt s 1 0 0).map (fun t => ((getCtx t 1).st, (getCtx t 1).err)) = some (.resident, 4)
    ∧ (event .ctxResume { context .saved with ctxs := [(1, { getCtx (context .saved) 1 with busy := true })] } 1 0 0).map (fun t => (getCtx t 1).err) = some 1
    ∧ ((event .ctxResume { context .saved with ctxs := [(1, { getCtx (context .saved) 1 with imaged := true })] } 1 0 0).map fun t => (getCtx t 1).err) = some 0 := by decide
theorem test_page_commands : (event .pgInvalidate { context .resident with ctxs := [(1, { getCtx (context .resident) 1 with pgcnt := 0 })] } 1 0 0).map (fun t => (getCtx t 1).pgerr) = some 4
    ∧ (event .pgInvalidateAll { context .resident with ctxs := [(1, { getCtx (context .resident) 1 with pgbusy := true })] } 1 0 0).map (fun t => (getCtx t 1).pgerr) = some 1
    ∧ quiescent { context .resident with remotes := [], groups := [(0, some { regs with macc := [entry (.load 16 true 2) false 2 []] })], invals := [⟨1, 5, none, [.core 0], [], false⟩] } 1 (.core 0) = false := by decide
/-- R96: BIND of a queue to a free context, with a priority above the context's, and with a ring of 8. -/
theorem test_bind_fails : (event .queueBind { queued .unbound with ctxs := [] } 2 0 0x100000).map (fun t => ((getQueue t 2).err, (getQueue t 2).qctl)) = some (3, 0x100000)
    ∧ (event .queueBind (queued .unbound) 2 0 0x101000).map (fun t => ((getQueue t 2).err, (getQueue t 2).qctl)) = some (2, 0x100000)
    ∧ (event .queueBind { queued .unbound with queues := [(2, { queue .unbound with qbase := 0x9003 })] } 2 0 0x100000).map (fun t => (getQueue t 2).err) = some 4 := by decide
/-- R104: a WAITMEM of a page that is not mapped. -/
theorem test_waitmem_page : (match translate (putQueue { dispatching with tlb := [] } 2 { queue .runnable with st := .dispatching }) queueUnit 1 0x9100 { r := true } with
      | (_, .fault 1 _) => true
      | _ => false) = true
    ∧ (arriving .waitmem { dispatching with tlb := [] } 2 0 (.packet (pkt 3 0x9100 6 0xFF 0))).map (fun t => ((getQueue t 2).st, (getQueue t 2).head)) = some (.blocked, 0) := by decide
/-- R103: ORD while an earlier packet is out. -/
theorem test_order : (arriving .nop { dispatching with queues := [(2, { queue .runnable with out := 1 })] } 2 0 (.packet (pkt 0x10000 0 0 0 0))).map (fun t => ((getQueue t 2).st, (getQueue t 2).head)) = some (.blocked, 0) := by decide
/-- R123: a co-resident launch of the same PRIO that has waited. -/
theorem test_held : let s := { admitting with queues := [(2, { queue .dispatching with launch := some born }), (5, { queue .blocked with launch := some { born with cores := true }, waited := some 0 })] }
    heldByCores s 2 born = true ∧ (event .kernelAdmit s 2 0 0).map (fun t => ((getQueue t 2).st, t.kernels.length)) = some (.blocked, 0) := by decide
/-- R107: a successor whose target is no device queue of the context, and one whose page is not there. -/
theorem test_successor_lost : deviceQueue linked 1 2 = false ∧ (event .successorEnqueue (owing (.packets 1 0x9200 2 [] false)) 0 0 0).map (fun t => t.owed) = some []
    ∧ event .successorEnqueue { linked with owed := [⟨.packets 1 0x9200 2 [] false, some 0⟩] } 0 0 0 = some { linked with owed := [⟨.packets 1 0x9200 2 [] false, some 0⟩], args := { n := 0, m := 0, v := 0 } } := by decide
/-- R411: a reduction adds its elements (binary32 has the code 2), a check writes nothing, and a merge replaces the bits of its mask. -/
def asked (op : RemoteOp) : Option (List Byte) := (arriving .remoteMemoryRequest { exporting with mem := writeN [] 0x20008 4 0x40000000 } 0 0 (.request ⟨9, 7, 0x20008, op⟩)).map fun t => mread t.mem 0x20008 4
theorem test_remote_operations : exported exporting 9 0x20008 4 true true = true ∧ asked (.reduce 1 2 [0, 0, 0x80, 0x3F]) = some [0, 0, 0x40, 0x40]
    ∧ asked (.check 4 false) = some [0, 0, 0, 0x40] ∧ asked (.merge 0 0xF0 0x70) = some [0x70, 0, 0, 0x40]
    ∧ asked (.amo .amoAdd 4 1) = some [1, 0, 0, 0x40] ∧ asked (.amo .amoSwap 4 5) = some [5, 0, 0, 0] ∧ asked (.amo .amoAnd 4 5) = some [0, 0, 0, 0] ∧ asked (.amo .amoOr 4 5) = some [5, 0, 0, 0x40] := by decide
/-- R20, R409: a host core's access of module 9's memory leaves by port 17. -/
def joined : State := { module with boot := { mode := 3 }, modid := 8, links := [(17, { st := .up, peer := 9 })], routes := [(9, 2)] }
set_option maxRecDepth 8000 in
theorem test_host_remote : inGddr 0x190000020008 4 = false ∧ remoteOk joined 0x190000020008 4 = true
    ∧ (askRemote joined (.host 2) false 0 0x190000020008 (.read 4)).map (fun t => t.remotes.map fun q => (q.modid, q.off, q.len, q.asker)) = some [(9, 0x20008, 4, .host 2)] := by decide
theorem test_host_closed : let s := { hostState with links := [(8, { st := .error })] }
    dieReach s 8 (homeDie 0x10004) = false
    ∧ (arriving .hostMemoryAccess s 0 0 (.access ⟨2, 0x10004, 4, .store, 7, false, false⟩)).map (fun t => (t.boot.hostFaults, mread t.mem 0x10004 1)) = some ([(2, .store)], [6]) := by decide

/-! ## Further cases of the statements -/

/-- The group at place 0 after the commit of a bundle of one effect at slot 2, of three words. -/
def committed (s : State) (e : Eff) : State := commit s { faultingIssue with effs := [(2, e)] }
def committedIn (g : Group) (e : Eff) : Group := (getGroup (committed (withGroup g) e) 0).getD {}
/-- R178: UWRS to the low half of sr.epc, to sr.efault's high half and to sr.fflags, whose bits above 5 do not exist. -/
theorem test_commit_special : (committedIn { regs with epc := 0x100000009 } (.special 0xD 6)).epc = 0x100000006 ∧ (committedIn regs (.special 0x11 6)).efault = 0x600000000
    ∧ (committedIn regs (.special 7 0x145)).fflags = 5 ∧ (committedIn regs (.special 0xD 6)).p0.pc = 0x100C := by decide
/-- R73, R72, R158, R163, R204, R228: a latch write waits two bundles, one already waiting has one less; a window opens; YIELD; EXIT ends the path; an access and a DRAIN join the accesses. -/
theorem test_commit_path : ((committedIn { regs with kpend := [⟨1, 5, 2, false⟩] } (.latch 2 7)).kpend).map (fun l => (l.latch, l.left)) = [(1, 1), (2, 2)]
    ∧ (committedIn regs (.window { left := 3, taken := true, target := 0x2000 })).p0.window = some { left := 3, taken := true, target := 0x2000 }
    ∧ (committedIn regs .yield).giveWay = true ∧ regs.stack = [] ∧ regs.hnd = false ∧ (committedIn regs .exitPath).p0.st = .empty
    ∧ (committedIn regs (.access (entry .write false 2 [1, 2]))).macc = [entry .write false 2 [1, 2]]
    ∧ ((committedIn regs (.fence 3 true)).macc).map (fun e => (e.kind, e.scope, e.mask)) = [(.drain, 3, 3)] := by decide
/-- R145: BRD of lanes 1 and 0 to 0x2000. -/
theorem test_commit_region : let t := commit (withGroup regs) { faultingIssue with effs := [(2, .result 2 [.s 1 ⟨0x10001, false⟩]), (2, .openRegion 0x10001 2 1 0x2000), (2, .window { left := 3, taken := true, target := 0x2000, fork := true })] }
    (getGroup t 0).map (fun g => (g.stack.map fun r => (r.token, r.mask0, r.mask1, r.pc1), g.p0.window.map (·.fork), g.inflight.length)) = some ([(0x10001, 2, 1, 0x2000)], some true, 1) := by decide
/-- R356: the set expects groups 0 and 1; the arrival of 0 alone, and after that of 1. -/
def arrived (a : LaneMask) : State := { withGroup regs with sets := [⟨1, 7, 0, 0, [0, 1], 0, true, 3, a, 0, 16⟩] }
theorem test_commit_arrival : getSet (arrived 0) 1 7 0 = some ⟨1, 7, 0, 0, [0, 1], 0, true, 3, 0, 0, 16⟩
    ∧ (getSet (committed (arrived 0) .barArrive) 1 7 0).map (fun r => (r.arrived, r.phase)) = some (1, 0)
    ∧ (getSet (committed (arrived 2) .barArrive) 1 7 0).map (fun r => (r.arrived, r.phase)) = some (0, 1)
    ∧ (getGroup (committed (arrived 2) .barArrive) 0).map (fun g => (g.arr, g.ph)) = some (true, 0) := by decide
/-- R141, R142: of three blocks, v8 stays and v16 goes; of one, v8 comes as 0. -/
theorem test_commit_blocks : let g := { regs with v := [(128, ⟨6, false⟩), (256, ⟨7, false⟩)], blocks := 3 }
    (let h := committedIn g (.blocksRel 1); (h.blocks, vreg h 8 0, vreg h 16 0)) = (2, ⟨6, false⟩, {})
    ∧ (let h := committedIn { g with blocks := 1, v := [(16, ⟨6, false⟩)] } (.blocksClaim 2); (h.blocks, vreg h 1 0, vreg h 8 0)) = (3, ⟨6, false⟩, {}) := by decide
/-- R258: the first entry of core 0 has generation 1; its token stands in the copy counter and goes to s8. -/
def request : ChildReq := ⟨1, 0, false, false, 4, 0, List.replicate 8 0, [], 0, 0⟩
theorem test_commit_child : (takeEntry (getCore (withGroup regs) 0)).map (fun p => (p.1, tget 1 p.2.gens p.1)) = some (0, 1)
    ∧ (let t := committed (withGroup regs) (.child 8 request)
       ((getChild t 0).map fun h => (h.st, h.ctx, h.slot, h.attached), (getGroup t 0).map fun g => (classCounter g 1, g.inflight.map (·.writes)))
         = (some (.issued, 1, 2, true), some ([1], [[.s 8 ⟨1, false⟩]]))) := by decide
/-- R313, R316, R317: an entry of the routine table; two tiles claimed and cleared; an element at row 1, column 2 written. -/
theorem test_commit_matrix : tblWf {} module.cores = true ∧ tblWf 0 module.acc = true ∧ routineEntry (committed (withGroup regs) (.routine 2 routine)) 0 2 = some ⟨0, routine⟩
    ∧ (let s := { withGroup regs with acc := [(accKey 0 3 1 2, 9)] }
       let t := committed s (.tilesZero 3 2)
       (tileHolder t 0 4, tileHolder t 0 5, accElem t 0 3 1 2) = (.group 0, .free, 0)
       ∧ accElem (committed s (.tileWrite 3 [(66, 5)])) 0 3 1 2 = 5)
    ∧ (getBank (committed (withGroup regs) (.bankMode 1 0)) 1).pending = some 0 := by decide

/-- R389, R493: a BREAKPOINT under BRKSTOP stops the context. -/
theorem test_brkstop : let s := { withGroup regs with ctxs := [(1, { getCtx module 1 with dbgctl := 1 })] }
    (getCtx (raiseTrap s faultingIssue 2 ⟨15, 5, 0, 0⟩) 1).faulting = true ∧ (getCtx (raiseTrap s faultingIssue 2 ⟨14, 5, 0, 0⟩) 1).faulting = false := by decide
/-- R65, R71: of a bundle that leaves a window open, one less of it remains; the other group's stays. -/
theorem test_result_commit_window : let w : Window := { left := 3, taken := true, target := 0x2000 }
    let s := putGroup (windowed (some w)) 70 { regs with p0 := { regs.p0 with window := some w } }
    let t := commit s { faultingIssue with effs := [(0, .result 2 [.s 1 ⟨4, false⟩])] }
    ([0, 70].map fun l => (getGroup t l).map fun g => g.p0.window.map (·.left)) = [some (some 2), some (some 3)] := by decide

/-- R149: a uniform result of a path at depth 1 lands in its shadow, the file keeping 6; a path that holds none of its lanes keeps its shadow. -/
def sided : Group :=
  { regs with p0 := { regs.p0 with depth := 1, mask := 1 }, p1 := { regs.p0 with depth := 1, mask := 2, shadow := [{ reg := 2, val := 4, poison := false, level := 1 }] }
              stack := [{ token := 0x10001, mask0 := 1, mask1 := 2, st0 := .live, st1 := .live, pc0 := 0, pc1 := 0, sh0 := [], sh1 := [] }] }
theorem test_shadow_landing : (∀ w ∈ ([.s 2 ⟨9, false⟩, .sp 0 ⟨false, false⟩] : List RegWrite), CanonicalFiles { sided with inflight := [⟨1, 1, 0, [w]⟩] })
    ∧ ((event .resultLand (withGroup { sided with inflight := [⟨1, 1, 0, [.s 2 ⟨9, false⟩]⟩] }) 0 0 0).bind fun t => getGroup t 0).map
      (fun g => (sreg g g.p0 2, sreg g g.p1 2, tget {} g.s 2)) = some (⟨9, false⟩, ⟨4, false⟩, ⟨6, false⟩) := by decide
/-- R144, R145: BRD's window closes with the other slot free, and with it taken. -/
def forking (other : PathSt) : Group :=
  { regs with p0 := { regs.p0 with window := some { left := 0, taken := true, target := 0x2000, fork := true } }, p1 := { st := other, mask := 4 }
              stack := [{ token := 0x10001, mask0 := 2, mask1 := 1, st0 := .opening, st1 := .opening, pc0 := 0, pc1 := 0x2000, sh0 := [], sh1 := [] }] }
def closed (g : Group) : Option Group := (event .delayWindowClose (withGroup g) 0 0 0).bind fun t => getGroup t 0
theorem test_fork : (closed (forking .empty)).map (fun g => [g.p0, g.p1].map fun p => (p.mask, p.pc, p.depth)) = some [(2, 0x1000, 1), (1, 0x2000, 1)]
    ∧ (closed (forking .join)).map (fun g => (g.p0.mask, g.p0.pc, g.p1.mask, g.stack.map (·.st1))) = some (2, 0x1000, 4, [.pending])
    ∧ (forking .join).stack.map regionDepth = [1] ∧ (forking .empty).p0.waits = [] := by decide
/-- R160: CALL's link to s8, s9. -/
theorem test_call_link : (closed { regs with p0 := { regs.p0 with pc := 0x200001000, window := some { left := 0, taken := true, target := 0x2000, link := some (8, 0) } } }).map
    (fun g => (sreg g g.p0 8, sreg g g.p0 9, g.p0.pc)) = some (⟨0x1000, false⟩, ⟨2, false⟩, 0x2000) := by decide
/-- R72: a window with a wait left stays. -/
theorem test_window_waits : closed { forking .empty with p0 := { (forking .empty).p0 with waits := [.bar 0] } } = some { forking .empty with p0 := { (forking .empty).p0 with waits := [.bar 0] } } := by decide
/-- R147: the pending side takes the free slot. -/
theorem test_fill_slot : let g := { regs with p1 := {}, p0 := { regs.p0 with mask := 2, depth := 1 }, stack := [{ token := 0x10001, mask0 := 2, mask1 := 1, st0 := .live, st1 := .pending, pc0 := 0, pc1 := 0x2000, sh0 := [], sh1 := [] }] }
    (let h := fillSlot g 1; (h.p1.st, h.p1.mask, h.p1.pc, h.p1.depth)) = (.live, 1, 0x2000, 1) := by decide
/-- R150: side 1 wrote s2, side 0 wrote s2 and s3; side 0's late write of s2 is dropped, that of s5 stays. -/
def meeting : Group :=
  { sided with p0 := { sided.p0 with st := .join, mask := 1, shadow := [{ reg := 2, val := 1, poison := false, level := 1 }, { reg := 3, val := 8, poison := false, level := 1 }] }
               stack := [{ token := 0x10001, mask0 := 1, mask1 := 2, st0 := .arrived, st1 := .live, pc0 := 0, pc1 := 0, sh0 := [], sh1 := [] }]
               inflight := [⟨1, 1, 4, [.s 2 ⟨7, false⟩]⟩, ⟨1, 1, 4, [.s 5 ⟨7, false⟩]⟩] }
theorem test_merge : CanonicalFiles meeting ∧ meeting.stack.map regionDepth = [1] ∧ meeting.p0.mask = 1 ∧ meeting.p1.mask = 2
    ∧ (let h := joinPath meeting 1
       ([2, 3, 4].map fun n => (tget ({} : PWord) h.s n).val, h.p1.mask, h.p1.depth, h.p0.st, h.inflight.map (·.writes)) = ([4, 8, 0x1000], 3, 0, .empty, [[], [.s 5 ⟨7, false⟩]])) := by decide
/-- R206, R223: the high nibble of 0xF2; R233: a load that takes its cluster's copy of line 4, in which 9 stands at 0x1000. -/
def nibble (k : EntryKind) (data : List Byte) : MemEntry := { entry k false 1 data with lanes := [⟨0, 0x1000, 0x1000, data, 0xF0, 0, true⟩] }
theorem test_nibbles : ((event .memoryResultLand (accessing (nibble (.load 4 false 2) [])) 0 0 0).bind fun t => getGroup t 0).map (fun g => vreg g 2 0) = some ⟨0xF, false⟩
    ∧ lowBit 0xF0 = 4 ∧ subMask 4 4 = 0xF0
    ∧ (event .storePerform (accessing (nibble .write [0x57])) 0 0 0).map (fun t => mread t.mem 0x1000 2) = some [0x52, 0x80] := by decide
theorem test_copy_binds : let s := { accessing { entry (.load 16 true 2) false 2 [] with cached := true } with copies := [⟨0, 4, [⟨0x1000, 9⟩], [0, 0, 0, 0], []⟩] }
    hasCache s (clusterOf (coreOf 0)) = true ∧ ((event .memoryResultLand s 0 0 1).bind fun t => getGroup t 0).map (fun g => vreg g 2 0) = some ⟨9, false⟩
    ∧ ((event .memoryResultLand s 0 0 0).bind fun t => getGroup t 0).map (fun g => vreg g 2 0) = some ⟨0xFFFF80F2, false⟩ := by decide
/-- R225: two lanes add 1 at one address; 8 bytes; a float sum 1 + 1, the memory holding 1. -/
theorem test_atomics : let two := { entry (.atomic .add 2) false 4 [] with lanes := [⟨0, 0x1000, 0x1000, [1, 0, 0, 0], 0xFF, 0, true⟩, ⟨1, 0x1000, 0x1000, [1, 0, 0, 0], 0xFF, 0, true⟩] }
    (event .storePerform (accessing two) 0 0 0).map (fun t => (mread t.mem 0x1000 1, (getGroup t 0).map fun g => (vreg g 2 0, vreg g 2 1))) = some ([0xF4], some (⟨0x80F2, false⟩, ⟨0x80F3, false⟩))
    ∧ (event .storePerform (accessing { entry (.atomic .exch 2) false 8 [] with lanes := [⟨0, 0x1000, 0x1000, [1, 0, 0, 0, 2, 0, 0, 0], 0xFF, 0, true⟩] }) 0 0 0).map
        (fun t => (mread t.mem 0x1004 1, (getGroup t 0).map fun g => (vreg g 2 0, vreg g 3 0))) = some ([2], some (⟨0x80F2, false⟩, ⟨0, false⟩))
    ∧ (event .storePerform { atomic .fadd [0, 0, 0x80, 0x3F] with mem := writeN [] 0x1000 4 0x3F800000 } 0 0 0).map (fun t => mread t.mem 0x1000 4) = some [0, 0, 0, 0x40] := by decide
/-- R353: the exchange of a word whose TYPE is 7, and of one whose TYPE is 2. -/
def publishes (old : Nat) : State :=
  { accessing { entry (.atomic .publish 3) false 8 [] with lanes := [⟨0, 0x1000, 0x1000, [1, 2, 0, 0, 0, 0, 0, 0], 0xFF, 0, true⟩] } with mem := writeN [] 0x1000 8 old }
theorem test_publish_performs : ∀ e ∈ ([(0x37, 0x0201, true), (0x12, 0x12, false)] : List (Nat × Nat × Bool)),
    (event .storePerform (publishes e.1) 0 0 0).map (fun t => (leNat (mread t.mem 0x1000 8), (getGroup t 0).map fun g => (preg g 3).val.getLsbD 0)) = some (e.2.1, some e.2.2) := by decide

/-- The kind of wait in which an instruction holds its bundle (R383), where it does. -/
def holds (i : Instr) (q : Taken) : Option Bool :=
  match exec i q.s with
  | .next t => if t = holdSlot q.s q.is true then some true else if t = holdSlot q.s q.is false then some false else none
  | _ => none
/-- R201, R211, R384: 0x1002 is misaligned to a store or an atomic of four bytes, 2^57 is no address, 0x40000000 has no page, which parks the path; in the pond 0x80000 is beyond the set's banks and bank 1 no scratchpad. -/
theorem test_failed_stores : ∀ i ∈ ([.stB32, .atomAdd, .atomcB32] : List (Slot → Instr)),
    let at_ (lo hi : Word) : Taken := opened module { regs with s := [(4, ⟨lo, false⟩), (5, ⟨hi, false⟩)] } (i (fields 8 4 9))
    trapped (i (fields 8 4 9)) (at_ 0x1002 0) = some (3, 0x1002) ∧ trapped (i (fields 8 4 9)) (at_ 0 0x2000000) = some (4, 2 ^ 57)
    ∧ (match exec (i (fields 8 4 9)) (at_ 0x40000000 0).s with
      | .next t => (getGroup t 0).map fun g => g.p0.parks.length
      | _ => none) = some 1 := by decide
theorem test_failed_pond : ∀ i ∈ ([.ldpB32, .stpB32] : List (Slot → Instr)), ∀ e ∈ ([(2, 3), (0x80000, 4), (0x40000, 6)] : List (Word × Nat)),
    let q := opened module { regs with s := [(4, ⟨e.1, false⟩)] } (i (fields 8 4 9))
    laneIssues q (i (fields 8 4 9)) [] ∧ (∀ l ∈ q.act, fencedAt q.s q.g (pondEa q.sc l).1 = false) ∧ (trapped (i (fields 8 4 9)) q).map (·.1) = some e.2 := by decide
/-- R208: with `.lanefault` lane 1, at 0x40004 beyond bank 0, is recorded and lane 0 loads; R215: bank 0 fenced. -/
theorem test_pond_lanefault : let i := Instr.ldpB32 (withMod (fields 8 4 9) faulting)
    let q := opened module { regs with s := [(4, ⟨0x3FFFC, false⟩)], v := [(145, ⟨8, false⟩)] } i
    (effects i q).map (fun r => r.1.filterMap fun e => match e with
      | .laneFault _ _ m _ _ => some (m.toNat, 0)
      | .access a => some (a.lanes.length, 1)
      | _ => none) = some [(2, 0), (1, 1)] := by decide
theorem test_pond_fenced : let s := { module with banks := [(0, { mode := 1, fencing := some 0 }), (1, { mode := 2 })] }
    ∀ i ∈ ([.ldpB32, .stpB32] : List (Slot → Instr)), let q := opened s { regs with s := [(4, ⟨0, false⟩)] } (i (fields 8 4 9))
    q.ready (i (fields 8 4 9)) ∧ (∃ l ∈ q.act, fencedAt q.s q.g (pondEa q.sc l).1 = true) ∧ holds (i (fields 8 4 9)) q = some false := by decide
/-- R220-R222: in lane 0 the first coordinate is −1: under BORDER 1 it reads 0, under 2 element 0, under 3 element 7, at 0x2000 + 28; under 0 it is out of range. -/
def bordered (i : Instr) (b : Nat) : Taken :=
  opened { module with ctxs := [(1, { getCtx module 1 with kept := [(1, [0x2000, 0x400000008, 0, BitVec.ofNat 64 (0x0100008200000000 + b * 2 ^ 43), 32, 0, 0, 0])] })] }
    { regs with s := [(10, ⟨1, false⟩)], v := [(256, ⟨0xFFFFFFFF, false⟩)] } i
def places (i : Instr) (q : Taken) : Option (List (List Nat)) :=
  (effects i q).map fun r => r.1.filterMap fun e => match e with
    | .access a => some (a.lanes.map (·.va))
    | .result 14 ws => some (ws.map fun _ => 0)
    | _ => none
theorem test_borders : let i := Instr.ldt (fields 8 10 16)
    places i (bordered i 1) = some [[0x2000], [0]] ∧ places i (bordered i 2) = some [[0x2000, 0x2000]] ∧ places i (bordered i 3) = some [[0x201C, 0x2000]]
    ∧ trapped i (bordered i 0) = some (4, 0) ∧ trapped i (bordered i 4) = some (2, 0)
    ∧ (let j := Instr.stt (fields 8 10 16); places j (bordered j 1) = some [[0x2000]])
    ∧ (let j := Instr.ldt (withMod (fields 8 10 16) faulting); places j (bordered j 0) = some [[0x2000]]) := by decide
set_option maxRecDepth 4000 in
/-- R220: the descriptor of tensor 1 read at 0x6000 + 64, and kept. -/
theorem test_fresh_descriptor : let i := Instr.ldt (fields 8 10 16)
    let q := opened { tarn with ctxs := [(1, { getCtx tarn 1 with kept := [] })] } { regs with s := [(10, ⟨1, false⟩)] } i
    (effects i q).map (fun r => r.1.filterMap fun e => match e with
      | .keep n d => some (n, d.length)
      | _ => none) = some [(1, 8)]
    ∧ (match translateNow q.s (coreUnit 0) 1 0x6040 { r := true } with
      | (_, .ok pa) => pa == 0x6040
      | _ => false) = true := by decide
theorem test_atomic_lanefault : ∀ i ∈ ([.atomAdd, .atomcB32] : List (Slot → Instr)), let w := withMod (fields 8 4 9) faulting
    let q := opened module { regs with s := [(4, ⟨0x1002, false⟩)], v := [(144, ⟨2, false⟩)] } (i w)
    laneIssues q (i w) [] ∧ (effects (i w) q).map (fun r => r.1.filterMap fun e => match e with
      | .laneFault _ _ m _ _ => some (m.toNat, 0)
      | .access a => some (a.lanes.length, 1)
      | _ => none) = some [(2, 0), (1, 1)] := by decide
/-- R330, R331: with no lane active (p5 is 0 everywhere) these forms do nothing; with an access of the path under way those that read records hold their bundle. -/
theorem test_no_lane : ∀ i ∈ ([.fence (withGuard (fields 0 0 0) 5), .drain (withGuard (fields 0 0 0) 5), .fifopush (withGuard (fields 0 11 2) 5), .fifopop (withGuard (fields 8 11 0) 5), .grstep (withGuard (fields 0 16 28) 5), .gpflat (withGuard (fields 3 16 5) 5),
      .gpsplit (withGuard (withImm (fields 16 16 0) 3) 5), .gbox (withGuard (fields 40 16 24) 5), .gtri2 (withGuard (fields 40 16 24) 5), .gcurve (withGuard (fields 40 16 24) 5), .gpublish (withGuard (fields 3 16 18) 5)] : List Instr),
    (at1 i).ready i ∧ actives (at1 i).sc = 0 ∧ (effects i (at1 i)).map (fun r => r.1.all fun e => match e with
      | .trace _ _ ls => ls.isEmpty
      | _ => false) = some true := by decide
theorem test_no_lane_texture : ∀ i ∈ ([.gtex (withGuard (fields 20 10 12) 5), .gtexl (withMod (withGuard (fields 20 10 12) 5) (reg4 9))] : List Instr),
    (textured i).ready i ∧ actives (textured i).sc = 0 ∧ effects i (textured i) = some ([], 0) := by decide
theorem test_records_wait : (∀ i ∈ ([.gbox (fields 40 16 24), .gtri2 (fields 40 16 24), .gcurve (fields 40 16 24)] : List Instr), let q := opened module { regs with macc := [entry .write false 2 [1, 2]] } i
      q.ready i ∧ actives q.sc ≠ 0 ∧ pathBusy q.sc = true ∧ holds i q = some false)
    ∧ (let i := Instr.gtex (fields 20 10 12)
       let q := opened (textured i).s { (textured i).g with macc := [entry .write false 2 [1, 2]] } i
       pathBusy q.sc = true ∧ holds i q = some false) := by decide
/-- R331: in lane 1 the guard p2 is poisoned, and its p0 to p3 are kept. -/
theorem test_grstep_guard : let i := Instr.grstep (withGuard (fields 0 16 28) 2)
    trapped (.grstep (fields 4 16 28)) (at1 (.grstep (fields 4 16 28))) = some (2, 0) ∧ (effects i (at1 i)).isSome = true := by decide
/-- R217: FIFOPOP of an empty FIFO, and FIFOPUSH of a full one. -/
def piped (n : Nat) (i : Instr) : Taken :=
  opened { module with banks := [(0, { mode := 1 }), (1, { mode := 2, fifo := List.replicate n [] })] } { regs with s := [(11, ⟨1, false⟩)] } i
theorem test_fifo_holds : holds (.fifopop (fields 8 11 0)) (piped 0 (.fifopop (fields 8 11 0))) = some true
    ∧ (getBank (piped 4096 (.fifopush (fields 0 11 2))).s 1).fifo.length ≥ 4096 :=
  ⟨by decide, (List.length_replicate (n := 4096) (a := ([] : List Word))).ge⟩
/-! ## Further cases of children, queues and the module's edges -/

/-- R279: a copy counter of 65,535; R282: CNTWAIT of a class with a child above its bound, and TWAIT of a running child, hold their bundle. -/
theorem test_full_counter : let q : Taken := opened (parent .running) { owner with cp := List.replicate 65535 0 } (.cpy (fields 1 32 63))
    (classCounter q.g 1).length ≥ 65535 := (List.length_replicate (n := 65535) (a := (0 : Word))).ge
theorem test_child_waits : (let i := Instr.cntwaitCp (withImm (fields 1 1 0) 0)
      let q := opened (parent .running) { owner with cp := [0x3001] } i
      q.ready i ∧ q.on ∧ (classCounter q.g 1).length > 0 ∧ holds i q = some true)
    ∧ holds (.twait (fields 1 20 0)) (owns .running (.twait (fields 1 20 0))) = some true := by decide
/-- R282: with CV = 1 the record of a faulted child goes to s24, s25 = 0x1000. -/
theorem test_child_record : ∀ i ∈ ([.twait, .ttest] : List (Slot → Instr)), let w := withMod (fields 1 20 0) (reg4 24)
    let q := opened (parent .faulted) { owner with s := tput {} owner.s 24 ⟨0x1000, false⟩ } (i w)
    q.ready (i w) ∧ q.sc.mod.cv = true ∧ spair q.g q.path 24 = (0x1000, false)
    ∧ checkGlobal q.s 0 1 { w := true } 64 0 0x1000 = (q.s, some ⟨0, 0x1000, 0, 0, 0x1000, true⟩)
    ∧ (effects (i w) q).map (fun r => r.1.filterMap fun e => match e with
      | .access a => some (a.lanes.map fun l => (l.pa, l.data.length))
      | _ => none) = some [[(0x1000, 64)]] := by decide
/-- R113, R247, R441: a release waits for the group's accesses. -/
theorem test_releases_wait : ∀ i ∈ ([.qput (fields 1 32 22), .rcommit (fields 0 21 22), .prpub (withImm (fields 1 4 0) 1), .posew (withImm (fields 1 32 0) 2), .barArrive (fields 0 1 0)] : List Instr),
    let q := opened (parent .running) { owner with macc := [entry .write false 2 [1, 2]] } i
    q.ready i ∧ q.on ∧ q.g.macc ≠ [] ∧ holds i q = some false := by decide
/-- R142: five blocks while another claim waits, and while this one does. -/
theorem test_claim_waits : let i := Instr.rbclaim (withImm (fields 0 0 0) 5)
    let s (c : Claim) : State := { module with seqs := [(0, { claims := [c] })] }
    (match exec i (opened (s ⟨3, 0, 2, 1, 1⟩) three i).s with
      | .next t => some (t.cur, (getSeq t 0).claims)
      | _ => none) = some (none, [⟨3, 0, 2, 1, 1⟩, ⟨0, 0, 5, 0, 3⟩])
    ∧ holds i (opened (s ⟨0, 0, 5, 0, 3⟩) three i) = some true := by decide
/-- R156: CHK under sp2, which is 0, and under sp1, which is poisoned; with D = 3 it looks at sp1, with D = 0 at v2. -/
theorem test_chk_guards : (let i := Instr.chk (withGuard (fields 1 7 4) 2)
      (at1 i).ready i ∧ effects i (at1 i) = some ([.window { left := 3, taken := false, target := 0 }], 0))
    ∧ (let i := Instr.chk (withGuard (fields 1 7 4) 1); (at1 i).ready i ∧ (scalarGuard (at1 i).sc).poison = true ∧ trapped i (at1 i) = some (7, 0))
    ∧ effects (.chk (fields 3 1 4)) (at1 (.chk (fields 3 1 4))) = some ([.window { left := 3, taken := true, target := 0x1000 }], 0)
    ∧ effects (.chk (fields 0 2 4)) (at1 (.chk (fields 0 2 4))) = some ([.window { left := 3, taken := false, target := 0 }], 0)
    ∧ trapped (.brcAll (fields 1 2 4)) (at1 (.brcAll (fields 1 2 4))) = some (7, 0) := by decide
/-- R75: VRED of a register poisoned in lane 1; R356: BAR while the set's phase has not passed the group's arrival. -/
theorem test_vred_poison : let i := Instr.vred .va (fields 3 2 0)
    let q := opened module { regs with v := [(32, ⟨6, false⟩), (33, ⟨7, true⟩)] } i
    guardPoison q.sc = 0 ∧ (∃ l ∈ q.act, (vreg q.g 2 l).poison = true) ∧ effects i q = some ([.result 10 [.s 3 ⟨13, true⟩]], 0) := by decide
theorem test_bar_waits : ∀ i ∈ ([.bar (fields 0 0 0), .barArrive (fields 0 1 0)] : List Instr), let q := opened module { regs with arr := true, ph := 0 } i
    q.ready i ∧ setPhase q.s q.g = 0 ∧ holds i q = some true := by decide
/-- R370: a cached leaf with D = 0 gains D where it stands; a walk from a cached table meets the leaf there. -/
theorem test_cached_translations : let e : TlbEntry := ⟨.core 0, 5, 0x40000000, 16, 0x4000003F, 0x300008⟩
    let s := { paged with tlb := [e], mem := writeN paged.mem 0x300008 8 0x4000003F }
    (let t := translate s (.core 0) 1 0x40000010 { w := true }; (t.2, mget t.1.mem 0x300008)) = (.ok 0x40000010, 0x7F)
    ∧ mget (translate s (.core 0) 1 0x40000010 { r := true }).1.mem 0x300008 = 0x3F := by decide

/-- R89: the save of a PREEMPT that has come not to fit ends it; DESTROY idles the context's head. -/
theorem test_ctx_unstop : let s := { context .preempting with ctxs := [(1, { getCtx (context .preempting) 1 with sasize := 0, stopFor := 2 })] }
    allPaused s 1 = true ∧ saveSize s 1 > 0 ∧ (event .contextSaveComplete s 1 0 0).map (fun t => ((getCtx t 1).st, (getCtx t 1).err)) = some (.resident, 4) := by decide
theorem test_destroy_heads : let s := { context .resident with heads := [(2, { shown with desc := [0x0000100000000000] })], slcores := [] }
    headCtx (getHead s 2) = 1 ∧ headHolds (getHead s 2) = true ∧ (event .ctxDestroy s 1 0 0).map (fun t => ((getCtx t 1).st, (getHead t 2).st)) = some (.preempting, .idle) := by decide
set_option maxRecDepth 8000 in
/-- R107: a successor of two packets for a ring with room for one is appended in parts. -/
theorem test_successor_parts : let s := { owing (.packets 1 0x9200 3 (List.replicate 128 0) false) with queues := [(2, queue .runnable), (3, { queue .idle with dev := true, base := 0xB000, head := 0, tail := 15 })] }
    ringRoom (getQueue s 3) = 1 ∧ (event .successorEnqueue s 0 0 0).map (fun t => ((getQueue t 3).tail, t.owed.map fun o => match o.what with
      | .packets _ _ _ b _ => b.length
      | _ => 0)) = some (16, [64]) := by decide
/-- R498, R499: step 5 comes when every die link is up or in error. -/
def booting (st : LinkSt) : State :=
  { module with boot := { coming := some 3, booted := some (⟨1, 1, 0, 0, 0, 0, 0, []⟩, none) }, links := (List.range 16).map fun n => (n, { st := if n = 0 then st else .up }) }
theorem test_boot_goes_on : dieLinksSettled (booting .error) = true ∧ (bootGoesOn (booting .error)).boot.mode = 3 ∧ dieLinksSettled (booting .training) = false
    ∧ (event .linkPhyTrained (booting .training) 0 0 0).map (fun t => (t.boot.mode, (getLink t 0).st)) = some (0, .negotiating) := by decide
theorem test_step_coming : let s := { booting .training with agenda := [⟨.linkPhyTrained, {}⟩] }
    s.cur = none ∧ s.slw = none ∧ s.boot.coming ≠ none ∧ (after (step s)).map (fun t => (t.agenda, (getLink t 0).st)) = some ([], .negotiating) := by decide
/-- R417, R418: notices that a member failed, that credits come back, and a flit for a context that is not created. -/
def member : Child := { copyChild .running with cls := 2, begun := true, inst := 4, owing := [2, 2, 1], req := ⟨2, 0, false, false, 5, 0, List.replicate 8 0, [], 0, 0⟩ }
theorem test_collective_notices : let s : State := { holding member with children := [(3, some member)] }
    ((collChild s collFlit).map (·.1) = some 3 ∧ ((arriving .collectiveFlitReceive s 0 0 (.coll { collFlit with credit := 2 })).bind fun t => getChild t 3).map (·.owing) = some [1])
    ∧ ctxCreated module 9 = false ∧ (arriving .collectiveFlitReceive module 0 0 (.coll { collFlit with dstCtx := 9, fail := true })).map (·.collIn) = some []
    ∧ ((arriving .collectiveFlitReceive s 0 0 (.coll { collFlit with norank := true })).bind fun t => getChild t 3).map (·.st) = some .faulted
    ∧ (sendFlit joined 9 0 4 2 0 none false 1 (collPayload { collFlit with norank := true })).isSome = true := by decide
/-- R497: while the module boots only host core 0 runs. -/
theorem test_host_cores : let s := { hostState with boot := {} }
    hostCoreRuns s 2 = false ∧ hostCoreRuns s 0 = true ∧ (arriving .hostMemoryAccess s 0 0 (.access ⟨2, 0x10004, 4, .store, 7, false, false⟩)).map (fun t => mread t.mem 0x10004 1) = some [6] := by decide
/-- R466, R467: a core with a STEP under way or a freeze asked for is busy. -/
theorem test_slcore_busy : ∀ c ∈ ([{ stepping := true }, { freezing := true }] : List SlCore), slBusy c = true
    ∧ (event .slcoreStop (lineCore {} c) 5 0 1).map (fun t => (getSl t 5).err) = some 1 ∧ slBusy {} = false := by decide
/-- R465: a call takes its k-blocks one by one; a soft error ends it. -/
theorem test_call_moves : let s := { calling { st := 2, block := [] } with tarnRun := some (5, 1, 0) }
    (event .tarnCallComplete s 0 11 0).map (fun t => ((getCall t (5, 1, 0)).st, t.tarnRun)) = some (4, none) := by decide
/-- R493: the stop at the context's cycle comes before the limit of a WAITEVT. -/
theorem test_waitevt_room : let s := { stepping with groups := [(0, some { regs with p0 := { regs.p0 with waits := [.waitevt ⟨some 0x1000, 0x1000, 0x1000, 0, 0, 7, 5, false, 0⟩] } })] }
    (event .waitevtLimit s 0 0 0).bind (fun t => (getGroup t 0).map fun g => g.p0.waits.length) = some 1 := by decide
/-- R465: the call's product over n elements, its operands n by n of binary16. A k-block has 16 (R285): a product over 16 is done with one, one over 32 has another. -/
def squareCall (n : Nat) : State :=
  let c := calling { st := 1, addr := 0x5000 }
  { c with mem := [(0x5008, 0x0002010000000000 + n * 2 ^ 26), (0x6048, n * (2 ^ 32 + 1)), (0x6050, 0), (0x6058, 0x0100008300000000), (0x6060, 2 * n), (0x6068, 0)].foldl (fun m e => writeN m e.1 8 e.2) c.mem }
def oneBlock (n : Nat) : Option (Nat × DWord) :=
  ((event .tarnCallStart (squareCall n) 0 0 0).bind fun t => event .tarnCallComplete t 0 0 0).map fun u => ((getCall u (5, 1, 0)).st, (getCall u (5, 1, 0)).cursor)
set_option maxRecDepth 32000 in
theorem test_call_blocks : oneBlock 16 = some (3, 0) ∧ oneBlock 32 = some (2, 16) := by decide

/-! ## Words and ill-formed terms -/

/-- What the decoder reads from words. -/
def reads (ws : List Word) : Option (Instr × List Word) :=
  match decodeSlot ws with
  | .ok (i, rest) => some (i, rest)
  | .error _ => none
/-- A slot that is its bundle's last. -/
def last (d a b : BitVec 6) : Slot := { fields d a b with stop := true }
/-- R52, R154, R391, R392: TRACEMARK 5; ENRD s12; TRAP s3; RTE; RTE.skip; BRK 5; TRAP with 0x1234. -/
theorem test_words_z : reads [0xD7240005] = some (.tracemark (last 0 0 5), []) ∧ reads [0xD730C000] = some (.enrd (last 12 0 0), []) ∧ reads [0xD7100003] = some (.trap (last 0 0 3), [])
    ∧ reads [0xD7140000] = some (.rte (last 0 0 0), []) ∧ reads [0xD7140040] = some (.rteSkip (last 0 1 0), []) ∧ reads [0xD7280005] = some (.brk (last 0 0 5), [])
    ∧ reads [0x57100000, 0xD8001234] = some (.trap (withImm (last 0 0 0) 0x1234), []) := by decide
/-- R331, R353, R279: GBOX, GPUBLISH, CPY. -/
theorem test_words_graphics : reads [0xA7050008] = some (.gbox (last 16 0 8), []) ∧ reads [0xA7201084] = some (.gpublish (last 1 2 4), []) ∧ reads [0xC700A43F] = some (.cpy (last 10 16 63), []) := by decide
/-- R60: UADD s4, s4, s6 with SAT, and s5 = s5 + s7 + sp4 with CV. -/
theorem test_words_modified : (reads [0x07004106, 0xDA820000]).map (fun r => match r.1 with
      | .uadd w => (w.stop, w.d, w.a, w.b, w.mod.isSome)
      | _ => (false, 0, 0, 0, false)) = some (true, 4, 4, 6, true) := by decide
/-- R52: a row of Z that the table does not have, E slots with no base slot, and no word at all. -/
theorem test_reserved_words : reads [0xD7FC0000] = none ∧ reads [0xD8000000] = none ∧ reads [0xF8000000] = none ∧ reads [] = none := by decide

/-- One ill-formed term for each check: p7 as a comparison's destination, and condition 6; p9; an immediate on ENRD; B beside an immediate; a payload of VSHUF above 31; UMOVW's bit 14, and its unused field; carry-in beside SAT; a
fourth register, a rounding mode, a SCOPE, a CACHE code, a FMT, an LF, a SAT and a DET where the form has none; any modifier on BAR; RM on VRED of B = 0; p9 named by CHK; CPY's immediate beside
A; SAT of a CVT to a wider format; SAT on FDIV of FMT 0; MXDEF of the release form; UMOV.imm without its immediate. -/
def illFormed : List Instr :=
  [.vcmpS .va (fields 7 2 3), .vcmpS .va (fields 48 2 3), .pand .va (fields 1 9 0), .enrd (withImm (fields 12 0 0) 1), .uadd (withImm (fields 1 2 3) 5), .vshuf .va (withImm (fields 1 2 0) 32),
    .umovw (withImm (fields 3 0 0) 0x4000), .umovw (withImm (fields 3 2 0) 1), .uadd (withMod (fields 1 2 3) { reg4 2 with sat := true }), .uand (withMod (fields 1 2 3) (reg4 2)), .uand (withMod (fields 1 2 3) { plain with rm := 1 }),
    .uadd (withMod (fields 1 2 3) { plain with scope := 1 }), .uadd (withMod (fields 1 2 3) { plain with cache := 1 }), .uadd (withMod (fields 1 2 3) { plain with fmt := 3 }),
    .uadd (withMod (fields 1 2 3) faulting), .uand (withMod (fields 1 2 3) saturating), .uadd (withMod (fields 1 2 3) { plain with det := true }), .bar (withMod (fields 0 0 0) plain),
    .vred .va (withMod (fields 1 2 0) { plain with rm := 1 }), .chk (fields 2 9 4), .cpy (withImm (fields 1 32 63) 5), .cvtI32 (withMod (fields 1 2 0) { saturating with fmt := 8 }),
    .fdivF32 .va (withMod (fields 1 2 3) saturating), .mxdef (fields 0 63 1), .umovImm (fields 1 0 0)]
theorem test_ill_formed : illFormed.all (fun i => !i.wf) = true := by decide
/-- The same without the fault of each. -/
theorem test_well_formed : ([.vcmpS .va (fields 6 2 3), .vcmpS .va (fields 40 2 3), .enrd (fields 12 0 0), .uadd (withImm (fields 1 2 0) 5), .vshuf .va (withImm (fields 1 2 0) 31), .umovw (withImm (fields 3 0 0) 1),
    .uadd (withMod (fields 1 2 3) saturating), .uadd (withMod (fields 1 2 3) (reg4 2)), .bar (fields 0 0 0), .vred .va (withMod (fields 1 2 1) { plain with rm := 1 }), .chk (fields 2 7 4), .cpy (withImm (fields 1 63 63) 5),
    .cvtI8 (withMod (fields 1 2 0) { saturating with fmt := 7 }), .fdivF32 .va (withMod (fields 1 2 3) { saturating with fmt := 7 }), .mxdef (fields 0 4 1), .umovImm (withImm (fields 1 0 0) 5)] : List Instr).all (·.wf) = true := by decide
/-- R62: an H slot with STOP, GAP 5 and GW; one with a reserved bit. -/
theorem test_words_h : reads [0xE1600000] = some (.hSlot true 5 true false, []) ∧ reads [0x60100000, 5] = some (.hSlot false 0 false true, [5]) ∧ reads [0xE1600001] = none := by decide

/-- R52-R62: a word for every row of a slot, by class, with STOP, guard 5 and the fields D = 37, A = 22, B = 11 where the row leaves
them free, written out from the encodings of spec/opcode_table.json; UMOV.imm and UMOV.hi have an E slot of 0x56. -/
def reading (l : List (List Word × Instr)) : Bool := l.all fun e => reads e.1 == some (e.2, [])
theorem test_words_of_uniform_1 : reading
  [([0x8502558B], .uadd ⟨true, 5, 37, 22, 11, none, none⟩), ([0x8506558B], .usub ⟨true, 5, 37, 22, 11, none, none⟩), ([0x850A558B], .umul ⟨true, 5, 37, 22, 11, none, none⟩),
   ([0x850E558B], .umulhS ⟨true, 5, 37, 22, 11, none, none⟩), ([0x8512558B], .umulhU ⟨true, 5, 37, 22, 11, none, none⟩), ([0x8516558B], .uand ⟨true, 5, 37, 22, 11, none, none⟩),
   ([0x851A558B], .uor ⟨true, 5, 37, 22, 11, none, none⟩), ([0x851E558B], .uxor ⟨true, 5, 37, 22, 11, none, none⟩), ([0x8522558B], .ushl ⟨true, 5, 37, 22, 11, none, none⟩),
   ([0x8526558B], .ushr ⟨true, 5, 37, 22, 11, none, none⟩), ([0x852A558B], .usar ⟨true, 5, 37, 22, 11, none, none⟩), ([0x852E558B], .uminS ⟨true, 5, 37, 22, 11, none, none⟩),
   ([0x8532558B], .uminU ⟨true, 5, 37, 22, 11, none, none⟩), ([0x8536558B], .umaxS ⟨true, 5, 37, 22, 11, none, none⟩), ([0x853A558B], .umaxU ⟨true, 5, 37, 22, 11, none, none⟩),
   ([0x853E558B], .ucmpS ⟨true, 5, 37, 22, 11, none, none⟩), ([0x8542558B], .ucmpU ⟨true, 5, 37, 22, 11, none, none⟩), ([0x8546558B], .usel ⟨true, 5, 37, 22, 11, none, none⟩),
   ([0x854A5580], .umov ⟨true, 5, 37, 22, 0, none, none⟩), ([0x054A5000, 0xD8000056], .umovImm ⟨true, 5, 37, 0, 0, some 0x56, none⟩)] = true := by decide
theorem test_words_of_uniform_2 : reading
  [([0x054A5040, 0xD8000056], .umovHi ⟨true, 5, 37, 1, 0, some 0x56, none⟩), ([0x854E5580], .umovw ⟨true, 5, 37, 22, 0, none, none⟩),
   ([0x8552558B], .uldx ⟨true, 5, 37, 22, 11, none, none⟩), ([0x8556558B], .ustx ⟨true, 5, 37, 22, 11, none, none⟩), ([0x855A5580], .upopc ⟨true, 5, 37, 22, 0, none, none⟩),
   ([0x855E5580], .uclz ⟨true, 5, 37, 22, 0, none, none⟩), ([0x8562558B], .ubfx ⟨true, 5, 37, 22, 11, none, none⟩), ([0x8566558B], .ubfi ⟨true, 5, 37, 22, 11, none, none⟩),
   ([0x856A5580], .urds ⟨true, 5, 37, 22, 0, none, none⟩), ([0x856E5580], .uwrs ⟨true, 5, 37, 22, 0, none, none⟩)] = true := by decide
theorem test_words_of_vector_1 : reading
  [([0x8D02558B], .vadd .va ⟨true, 5, 37, 22, 11, none, none⟩), ([0x9506558B], .vsub .vb ⟨true, 5, 37, 22, 11, none, none⟩),
   ([0x8D0A558B], .vmul .va ⟨true, 5, 37, 22, 11, none, none⟩), ([0x950E558B], .vmulhS .vb ⟨true, 5, 37, 22, 11, none, none⟩),
   ([0x8D12558B], .vmulhU .va ⟨true, 5, 37, 22, 11, none, none⟩), ([0x9516558B], .vand .vb ⟨true, 5, 37, 22, 11, none, none⟩),
   ([0x8D1A558B], .vor .va ⟨true, 5, 37, 22, 11, none, none⟩), ([0x951E558B], .vxor .vb ⟨true, 5, 37, 22, 11, none, none⟩), ([0x8D22558B], .vshl .va ⟨true, 5, 37, 22, 11, none, none⟩),
   ([0x9526558B], .vshr .vb ⟨true, 5, 37, 22, 11, none, none⟩), ([0x8D2A558B], .vsar .va ⟨true, 5, 37, 22, 11, none, none⟩),
   ([0x952E558B], .vminS .vb ⟨true, 5, 37, 22, 11, none, none⟩), ([0x8D32558B], .vminU .va ⟨true, 5, 37, 22, 11, none, none⟩),
   ([0x9536558B], .vmaxS .vb ⟨true, 5, 37, 22, 11, none, none⟩), ([0x8D3A558B], .vmaxU .va ⟨true, 5, 37, 22, 11, none, none⟩),
   ([0x953E5580], .vclz .vb ⟨true, 5, 37, 22, 0, none, none⟩), ([0x8D425580], .vpopc .va ⟨true, 5, 37, 22, 0, none, none⟩), ([0x9546558B], .vbfx .vb ⟨true, 5, 37, 22, 11, none, none⟩),
   ([0x8D4A558B], .vbfi .va ⟨true, 5, 37, 22, 11, none, none⟩), ([0x954E558B], .vsel .vb ⟨true, 5, 37, 22, 11, none, none⟩)] = true := by decide
theorem test_words_of_vector_2 : reading
  [([0x8D52558B], .vcmpS .va ⟨true, 5, 37, 22, 11, none, none⟩), ([0x9556558B], .vcmpU .vb ⟨true, 5, 37, 22, 11, none, none⟩),
   ([0x8D5A558B], .fcmpF32 .va ⟨true, 5, 37, 22, 11, none, none⟩), ([0x955E558B], .fcmpF64 .vb ⟨true, 5, 37, 22, 11, none, none⟩),
   ([0x8D62558B], .faddF32 .va ⟨true, 5, 37, 22, 11, none, none⟩), ([0x9566558B], .fsubF32 .vb ⟨true, 5, 37, 22, 11, none, none⟩),
   ([0x8D6A558B], .fmulF32 .va ⟨true, 5, 37, 22, 11, none, none⟩), ([0x956E558B], .ffmaF32 .vb ⟨true, 5, 37, 22, 11, none, none⟩),
   ([0x8D72558B], .fminF32 .va ⟨true, 5, 37, 22, 11, none, none⟩), ([0x9576558B], .fmaxF32 .vb ⟨true, 5, 37, 22, 11, none, none⟩),
   ([0x8D7A558B], .fdivF32 .va ⟨true, 5, 37, 22, 11, none, none⟩), ([0x957E5580], .fsqrtF32 .vb ⟨true, 5, 37, 22, 0, none, none⟩),
   ([0x8D825580], .frcpF32 .va ⟨true, 5, 37, 22, 0, none, none⟩), ([0x95865580], .frsqF32 .vb ⟨true, 5, 37, 22, 0, none, none⟩),
   ([0x8D8A5580], .fexp2F32 .va ⟨true, 5, 37, 22, 0, none, none⟩), ([0x958E5580], .flog2F32 .vb ⟨true, 5, 37, 22, 0, none, none⟩),
   ([0x8D925580], .fsinF32 .va ⟨true, 5, 37, 22, 0, none, none⟩), ([0x95965580], .fcosF32 .vb ⟨true, 5, 37, 22, 0, none, none⟩),
   ([0x8D9A558B], .faddF16 .va ⟨true, 5, 37, 22, 11, none, none⟩), ([0x959E558B], .fsubF16 .vb ⟨true, 5, 37, 22, 11, none, none⟩)] = true := by decide
theorem test_words_of_vector_3 : reading
  [([0x8DA2558B], .fmulF16 .va ⟨true, 5, 37, 22, 11, none, none⟩), ([0x95A6558B], .ffmaF16 .vb ⟨true, 5, 37, 22, 11, none, none⟩),
   ([0x8DAA558B], .faddF64 .va ⟨true, 5, 37, 22, 11, none, none⟩), ([0x95AE558B], .fsubF64 .vb ⟨true, 5, 37, 22, 11, none, none⟩),
   ([0x8DB2558B], .fmulF64 .va ⟨true, 5, 37, 22, 11, none, none⟩), ([0x95B6558B], .ffmaF64 .vb ⟨true, 5, 37, 22, 11, none, none⟩),
   ([0x8DBA558B], .fminF64 .va ⟨true, 5, 37, 22, 11, none, none⟩), ([0x95BE558B], .fmaxF64 .vb ⟨true, 5, 37, 22, 11, none, none⟩),
   ([0x8DC2558B], .fdivF64 .va ⟨true, 5, 37, 22, 11, none, none⟩), ([0x95C65580], .fsqrtF64 .vb ⟨true, 5, 37, 22, 0, none, none⟩),
   ([0x8DCA5580], .frcpF64 .va ⟨true, 5, 37, 22, 0, none, none⟩), ([0x95CE5580], .frsqF64 .vb ⟨true, 5, 37, 22, 0, none, none⟩),
   ([0x8DD05183], .pand .va ⟨true, 5, 5, 6, 3, none, none⟩), ([0x95D45183], .por .vb ⟨true, 5, 5, 6, 3, none, none⟩), ([0x8DD85183], .pxor .va ⟨true, 5, 5, 6, 3, none, none⟩),
   ([0x95DC5180], .pnot .vb ⟨true, 5, 5, 6, 0, none, none⟩), ([0x8DE2558B], .vshuf .va ⟨true, 5, 37, 22, 11, none, none⟩), ([0x95E65580], .vbcast .vb ⟨true, 5, 37, 22, 0, none, none⟩),
   ([0x8DE65001], .vbcastLane .va ⟨true, 5, 37, 0, 1, none, none⟩), ([0x95EA558A], .vred .vb ⟨true, 5, 37, 22, 10, none, none⟩)] = true := by decide
theorem test_words_of_vector_4 : reading
  [([0x8DEE5180], .vvote .va ⟨true, 5, 37, 6, 0, none, none⟩), ([0x95F25581], .vqdx .vb ⟨true, 5, 37, 22, 1, none, none⟩), ([0x8DF65581], .vqdy .va ⟨true, 5, 37, 22, 1, none, none⟩)] = true := by decide
theorem test_words_of_convert_1 : reading
  [([0x9D02558B], .ldB8 ⟨true, 5, 37, 22, 11, none, none⟩), ([0x9D06558B], .ldS8 ⟨true, 5, 37, 22, 11, none, none⟩), ([0x9D0A558B], .ldB16 ⟨true, 5, 37, 22, 11, none, none⟩),
   ([0x9D0E558B], .ldS16 ⟨true, 5, 37, 22, 11, none, none⟩), ([0x9D12558B], .ldB32 ⟨true, 5, 37, 22, 11, none, none⟩), ([0x9D16558B], .ldB64 ⟨true, 5, 37, 22, 11, none, none⟩),
   ([0x9D1A558B], .stB8 ⟨true, 5, 37, 22, 11, none, none⟩), ([0x9D1E558B], .stB16 ⟨true, 5, 37, 22, 11, none, none⟩), ([0x9D22558B], .stB32 ⟨true, 5, 37, 22, 11, none, none⟩),
   ([0x9D26558B], .stB64 ⟨true, 5, 37, 22, 11, none, none⟩), ([0x9D2A558B], .ldsB8 ⟨true, 5, 37, 22, 11, none, none⟩), ([0x9D2E558B], .ldsS8 ⟨true, 5, 37, 22, 11, none, none⟩),
   ([0x9D32558B], .ldsB16 ⟨true, 5, 37, 22, 11, none, none⟩), ([0x9D36558B], .ldsS16 ⟨true, 5, 37, 22, 11, none, none⟩), ([0x9D3A558B], .ldsB32 ⟨true, 5, 37, 22, 11, none, none⟩),
   ([0x9D3E558B], .ldsB64 ⟨true, 5, 37, 22, 11, none, none⟩), ([0x9D42558B], .ldpB8 ⟨true, 5, 37, 22, 11, none, none⟩), ([0x9D46558B], .ldpS8 ⟨true, 5, 37, 22, 11, none, none⟩),
   ([0x9D4A558B], .ldpB16 ⟨true, 5, 37, 22, 11, none, none⟩), ([0x9D4E558B], .ldpS16 ⟨true, 5, 37, 22, 11, none, none⟩)] = true := by decide
theorem test_words_of_convert_2 : reading
  [([0x9D52558B], .ldpB32 ⟨true, 5, 37, 22, 11, none, none⟩), ([0x9D56558B], .ldpB64 ⟨true, 5, 37, 22, 11, none, none⟩), ([0x9D5A558B], .stpB8 ⟨true, 5, 37, 22, 11, none, none⟩),
   ([0x9D5E558B], .stpB16 ⟨true, 5, 37, 22, 11, none, none⟩), ([0x9D62558B], .stpB32 ⟨true, 5, 37, 22, 11, none, none⟩), ([0x9D66558B], .stpB64 ⟨true, 5, 37, 22, 11, none, none⟩),
   ([0x9D6A558B], .ldt ⟨true, 5, 37, 22, 11, none, none⟩), ([0x9D6E558B], .stt ⟨true, 5, 37, 22, 11, none, none⟩), ([0x9D700000], .fence ⟨true, 5, 0, 0, 0, none, none⟩),
   ([0x9D740000], .drain ⟨true, 5, 0, 0, 0, none, none⟩), ([0x9D78058B], .pref ⟨true, 5, 0, 22, 11, none, none⟩), ([0x9D82558B], .atomAdd ⟨true, 5, 37, 22, 11, none, none⟩),
   ([0x9D86558B], .atomMinS ⟨true, 5, 37, 22, 11, none, none⟩), ([0x9D8A558B], .atomMinU ⟨true, 5, 37, 22, 11, none, none⟩),
   ([0x9D8E558B], .atomMaxS ⟨true, 5, 37, 22, 11, none, none⟩), ([0x9D92558B], .atomMaxU ⟨true, 5, 37, 22, 11, none, none⟩), ([0x9D96558B], .atomAnd ⟨true, 5, 37, 22, 11, none, none⟩),
   ([0x9D9A558B], .atomOr ⟨true, 5, 37, 22, 11, none, none⟩), ([0x9D9E558B], .atomXor ⟨true, 5, 37, 22, 11, none, none⟩), ([0x9DA2558B], .atomExch ⟨true, 5, 37, 22, 11, none, none⟩)] = true := by decide
theorem test_words_of_convert_3 : reading
  [([0x9DA6558B], .atomAddB64 ⟨true, 5, 37, 22, 11, none, none⟩), ([0x9DAA558B], .atomExchB64 ⟨true, 5, 37, 22, 11, none, none⟩),
   ([0x9DAE558B], .atomFaddF32 ⟨true, 5, 37, 22, 11, none, none⟩), ([0x9DB2558B], .atomFminF32 ⟨true, 5, 37, 22, 11, none, none⟩),
   ([0x9DB6558B], .atomFmaxF32 ⟨true, 5, 37, 22, 11, none, none⟩), ([0x9DBA558B], .atomcB32 ⟨true, 5, 37, 22, 11, none, none⟩),
   ([0x9DBE558B], .atomcB64 ⟨true, 5, 37, 22, 11, none, none⟩), ([0x9DC0058B], .fifopush ⟨true, 5, 0, 22, 11, none, none⟩), ([0x9DC65580], .fifopop ⟨true, 5, 37, 22, 0, none, none⟩)] = true := by decide
theorem test_words_of_graphics : reading
  [([0xA500558B], .grstep ⟨true, 5, 5, 22, 11, none, none⟩), ([0xA506558B], .gbox ⟨true, 5, 37, 22, 11, none, none⟩), ([0xA50A558B], .gtri2 ⟨true, 5, 37, 22, 11, none, none⟩),
   ([0xA50E558B], .gcurve ⟨true, 5, 37, 22, 11, none, none⟩), ([0xA512558B], .gpsplit ⟨true, 5, 37, 22, 11, none, none⟩), ([0xA514558B], .gpflat ⟨true, 5, 5, 22, 11, none, none⟩),
   ([0xA51A558B], .gtex ⟨true, 5, 37, 22, 11, none, none⟩), ([0xA51E558B], .gtexl ⟨true, 5, 37, 22, 11, none, none⟩), ([0xA520558B], .gpublish ⟨true, 5, 5, 22, 11, none, none⟩)] = true := by decide
theorem test_words_of_matrix : reading
  [([0xAD00058B], .mxdef ⟨true, 5, 0, 22, 11, none, none⟩), ([0xAD000FCB], .mxdefRel ⟨true, 5, 0, 63, 11, none, none⟩), ([0xAD06558B], .mxcall ⟨true, 5, 37, 22, 11, none, none⟩),
   ([0xAD085580], .mxparm ⟨true, 5, 5, 22, 0, none, none⟩), ([0xAD0E558B], .mxacc ⟨true, 5, 37, 22, 11, none, none⟩), ([0xAD10058B], .mxzero ⟨true, 5, 0, 22, 11, none, none⟩)] = true := by decide
theorem test_words_of_latch : reading
  [([0xB500500B], .kset ⟨true, 5, 5, 0, 11, none, none⟩), ([0xB504558B], .kld ⟨true, 5, 5, 22, 11, none, none⟩)] = true := by decide
theorem test_words_of_memory : reading
  [([0xBD025580], .cvtF64 ⟨true, 5, 37, 22, 0, none, none⟩), ([0xBD065580], .cvtF32 ⟨true, 5, 37, 22, 0, none, none⟩), ([0xBD0A5580], .cvtF16 ⟨true, 5, 37, 22, 0, none, none⟩),
   ([0xBD0E5580], .cvtBf16 ⟨true, 5, 37, 22, 0, none, none⟩), ([0xBD125580], .cvtE4m3 ⟨true, 5, 37, 22, 0, none, none⟩), ([0xBD165580], .cvtE5m2 ⟨true, 5, 37, 22, 0, none, none⟩),
   ([0xBD1A5580], .cvtI32 ⟨true, 5, 37, 22, 0, none, none⟩), ([0xBD1E5580], .cvtI16 ⟨true, 5, 37, 22, 0, none, none⟩), ([0xBD225580], .cvtI8 ⟨true, 5, 37, 22, 0, none, none⟩),
   ([0xBD265580], .cvtI4 ⟨true, 5, 37, 22, 0, none, none⟩), ([0xBD2A5580], .cvtUn8 ⟨true, 5, 37, 22, 0, none, none⟩), ([0xBD2E5580], .cvtSrgb8 ⟨true, 5, 37, 22, 0, none, none⟩),
   ([0xBD325580], .cvtB1 ⟨true, 5, 37, 22, 0, none, none⟩), ([0xBD365580], .cvtE8m0 ⟨true, 5, 37, 22, 0, none, none⟩), ([0xBD425580], .cpack ⟨true, 5, 37, 22, 0, none, none⟩),
   ([0xBD46558B], .cunpack ⟨true, 5, 37, 22, 11, none, none⟩)] = true := by decide
theorem test_words_of_child : reading
  [([0xC502558B], .cpy ⟨true, 5, 37, 22, 11, none, none⟩), ([0xC506558B], .coll ⟨true, 5, 37, 22, 11, none, none⟩), ([0xC50A5580], .twait ⟨true, 5, 37, 22, 0, none, none⟩),
   ([0xC50E5580], .ttest ⟨true, 5, 37, 22, 0, none, none⟩), ([0xC5125580], .tcancel ⟨true, 5, 37, 22, 0, none, none⟩), ([0xC5140580], .tdet ⟨true, 5, 0, 22, 0, none, none⟩),
   ([0xC5180580], .trel ⟨true, 5, 0, 22, 0, none, none⟩), ([0xC51C058B], .tprio ⟨true, 5, 0, 22, 11, none, none⟩), ([0xC522500B], .cntwaitMx ⟨true, 5, 37, 0, 11, none, none⟩),
   ([0xC522504B], .cntwaitCp ⟨true, 5, 37, 1, 11, none, none⟩), ([0xC522508B], .cntwaitCo ⟨true, 5, 37, 2, 11, none, none⟩), ([0xC524558B], .qput ⟨true, 5, 5, 22, 11, none, none⟩),
   ([0xC52A5583], .rres ⟨true, 5, 37, 22, 3, none, none⟩), ([0xC52C058B], .rcommit ⟨true, 5, 0, 22, 11, none, none⟩), ([0xC530058B], .rngseed ⟨true, 5, 0, 22, 11, none, none⟩)] = true := by decide
theorem test_words_of_branch : reading
  [([0xCD00000B], .bra ⟨true, 5, 0, 0, 11, none, none⟩), ([0xCD04018B], .brcAny ⟨true, 5, 0, 6, 11, none, none⟩), ([0xCD04118B], .brcAll ⟨true, 5, 1, 6, 11, none, none⟩),
   ([0xCD04218B], .brcNone ⟨true, 5, 2, 6, 11, none, none⟩), ([0xCD04318B], .brcNall ⟨true, 5, 3, 6, 11, none, none⟩), ([0xCD0A518B], .brd ⟨true, 5, 37, 6, 11, none, none⟩),
   ([0xCD0C0580], .join ⟨true, 5, 0, 22, 0, none, none⟩), ([0xCD12500B], .call ⟨true, 5, 37, 0, 11, none, none⟩), ([0xCD140580], .ret ⟨true, 5, 0, 22, 0, none, none⟩),
   ([0xCD18058B], .chk ⟨true, 5, 0, 22, 11, none, none⟩), ([0xCD1C0000], .yield ⟨true, 5, 0, 0, 0, none, none⟩), ([0xCD200000], .exit ⟨true, 5, 0, 0, 0, none, none⟩),
   ([0xCD26518B], .lfill ⟨true, 5, 37, 6, 11, none, none⟩)] = true := by decide
theorem test_words_of_system : reading
  [([0xD5000000], .bar ⟨true, 5, 0, 0, 0, none, none⟩), ([0xD5000040], .barArrive ⟨true, 5, 0, 1, 0, none, none⟩), ([0xD5000080], .barWait ⟨true, 5, 0, 2, 0, none, none⟩),
   ([0xD504558B], .barbInit ⟨true, 5, 5, 22, 11, none, none⟩), ([0xD505558B], .barbExpect ⟨true, 5, 21, 22, 11, none, none⟩),
   ([0xD506558B], .barbArrive ⟨true, 5, 37, 22, 11, none, none⟩), ([0xD507558B], .barbWait ⟨true, 5, 53, 22, 11, none, none⟩), ([0xD508000B], .rbrel ⟨true, 5, 0, 0, 11, none, none⟩),
   ([0xD50C000B], .rbclaim ⟨true, 5, 0, 0, 11, none, none⟩), ([0xD510000B], .trap ⟨true, 5, 0, 0, 11, none, none⟩), ([0xD5140000], .rte ⟨true, 5, 0, 0, 0, none, none⟩),
   ([0xD5140040], .rteSkip ⟨true, 5, 0, 1, 0, none, none⟩), ([0xD518000B], .bankmode ⟨true, 5, 0, 0, 11, none, none⟩), ([0xD51C558B], .prpub ⟨true, 5, 5, 22, 11, none, none⟩),
   ([0xD520558B], .posew ⟨true, 5, 5, 22, 11, none, none⟩), ([0xD524000B], .tracemark ⟨true, 5, 0, 0, 11, none, none⟩), ([0xD528000B], .brk ⟨true, 5, 0, 0, 11, none, none⟩),
   ([0xD52CD58B], .waitevt ⟨true, 5, 13, 22, 11, none, none⟩), ([0xD5325000], .enrd ⟨true, 5, 37, 0, 0, none, none⟩)] = true := by decide

/-- R444, R445, R453: a word of one slot for every row of the scanline maps (A and B in turn; M; L and W; C): its present bit, and
OP, D, X and Y in the slot's 20 bits, with D = 18, X = 25, Y = 7 where the row takes them. -/
def scanning (l : List (BitVec 128 × Nat × Instr)) : Bool := l.all fun e => slInstr ⟨5, 1, 0x100, e.1, e.2.1, 0x110, []⟩ == some e.2.2
theorem test_scan_words_ab : scanning
  [(0x4B2701, 0, .slAdd), (0xCB270000002, 1, .slSub), (0x14B2701, 0, .slAnd), (0x1CB270000002, 1, .slOr), (0x24B2701, 0, .slXor), (0x2CB270000002, 1, .slShl), (0x34B2701, 0, .slShr),
   (0x3CB270000002, 1, .slSar), (0x44B2701, 0, .slMin), (0x4CB270000002, 1, .slMax), (0x54B2701, 0, .slSlt), (0x5CB270000002, 1, .slSeq), (0x64B2701, 0, .slAddi),
   (0x6CB270000002, 1, .slMovi), (0x74B2701, 0, .slMovl), (0x7CB270000002, 1, .slFadd), (0x84B2701, 0, .slFsub), (0x8CB270000002, 1, .slFmin), (0x94B2701, 0, .slFmax),
   (0x9CB270000002, 1, .slFslt), (0xA4B2001, 0, .slF2i), (0xACB200000002, 1, .slI2f), (0xB4B2701, 0, .slF2h), (0xBCB200000002, 1, .slH2fl), (0xC4B2001, 0, .slH2fh)] = true := by decide
theorem test_scan_words_m : scanning
  [(0x4B27000000000004, 2, .slFmul), (0xCB27000000000004, 2, .slFfma), (0x14B27000000000004, 2, .slFdiv), (0x1CB20000000000004, 2, .slFrcp), (0x24B20000000000004, 2, .slFsqrt),
   (0x2CB27000000000004, 2, .slMFadd), (0x34B27000000000004, 2, .slMFsub), (0x3CB27000000000004, 2, .slImul), (0x44B27000000000004, 2, .slMMovi), (0x4CB27000000000004, 2, .slMMovl)] = true := by decide
theorem test_scan_words_lw : scanning
  [(0x4B2700000000000000008, 3, .slLdw), (0xCB2700000000000000008, 3, .slStw), (0x14B2000000000000000008, 3, .slOut), (0x1CB2700000000000000008, 3, .slLAdd),
   (0x24B2700000000000000008, 3, .slLAddi), (0x2CB2700000000000000008, 3, .slLMovi), (0x34B2700000000000000008, 3, .slLMovl), (0x4B410000000000000000000010, 4, .slSampBl),
   (0xCB420000000000000000000010, 4, .slSampPt)] = true := by decide
theorem test_scan_words_c : scanning
  [(0x4B21000000000000000000000000020, 5, .slXferA), (0xCB22000000000000000000000000020, 5, .slXferB), (0x14B23000000000000000000000000020, 5, .slXferM),
   (0x1CB24000000000000000000000000020, 5, .slXferL), (0x24925000000000000000000000000020, 5, .slXferW), (0x2B320000000000000000000000000020, 5, .slXferC),
   (0x34B27000000000000000000000000020, 5, .slBr), (0x3B327000000000000000000000000020, 5, .slBrnz), (0x43327000000000000000000000000020, 5, .slBrz),
   (0x48000000000000000000000000000020, 5, .slWait), (0x4B001000000000000000000000000020, 5, .slWaitMb), (0x48002000000000000000000000000020, 5, .slWaitFr),
   (0x48003000000000000000000000000020, 5, .slWaitFifo), (0x53140000000000000000000000000020, 5, .slFetch), (0x5B140000000000000000000000000020, 5, .slOxcall),
   (0x63007000000000000000000000000020, 5, .slPose), (0x6B009000000000000000000000000020, 5, .slSys), (0x73327000000000000000000000000020, 5, .slCMovi),
   (0x7B327000000000000000000000000020, 5, .slCMovl), (0x83127000000000000000000000000020, 5, .slCAddi), (0x88000000000000000000000000000020, 5, .slDone)] = true := by decide
/-- R102, R109: the packets' types, and RQCONF's operation; 11 is not listed. -/
theorem test_packets : ([0, 1, 2, 3, 4, 5, 6, 7, 8, 9, 11] : List (BitVec 64)).map (fun n => decodePacket (pkt n 0 0 0 0))
    = [some .nop, some .launch, some .blocklaunch, some .waitmem, some .signal, some .depend, some .indirect, some .present, some .capstart, some .capstop, none]
    ∧ ([9, 0x10009, 0x20009] : List (BitVec 64)).map (fun x => decodePacket (pkt 10 x 0 0 0)) = [some .rqconfConfigure, some .rqconfFlush, some .rqconfTearDown] := by decide
end Sys2Proof.Tests
end

section
/-! SUPPORT. Repair, links, requests between modules, the host complex's accesses, boot and attestation: one equation for each case
of the model's functions, and the statement O59 that is assembled from them. -/

namespace Sys2Proof.Laws.ModuleEvents

open Sys2Proof.Machine Sys2Proof.Safety Sys2Proof.Laws

/-! ## What the events of the module run -/

section
variable (s : State)

theorem exec_correctedSoftError : exec .correctedSoftError s = .next (correctedSoftError s) := by rfl
theorem exec_rowRemap : exec .rowRemap s = .next (rowRemap s) := by rfl
theorem exec_linkTrain : exec .linkTrain s = .next (linkTrain s s.args.n) := by rfl
theorem exec_linkDrain : exec .linkDrain s = .next (afterLink s (linkDrain s s.args.n) s.args.n) := by rfl
theorem exec_linkDown : exec .linkDown s = .next (afterLink s (linkDown s s.args.n) s.args.n) := by rfl
theorem exec_lnkcntRead : exec .lnkcntRead s = .next (linkCount s (s.args.n % 32)) := by rfl
theorem exec_linkPhyTrained : exec .linkPhyTrained s = .next (phyTrained s (s.args.n % 32)) := by rfl
theorem exec_linkPhyTrainFail : exec .linkPhyTrainFail s =
    .next (bootGoesOn (afterLink s (phyFailed s (s.args.n % 32)) (s.args.n % 32))) := by rfl
theorem exec_linkNegotiated : exec .linkNegotiated s =
    .next (onPeer s fun o => bootGoesOn (negotiated s (s.args.n % 32) o)) := by rfl
theorem exec_linkLaneLoss : exec .linkLaneLoss s =
    .next (bootGoesOn (afterLink s (laneLoss s (s.args.n % 32)) (s.args.n % 32))) := by rfl
theorem exec_slpFlitReceive : exec .slpFlitReceive s = .next (onBytes s fun b =>
    afterFlit s (afterLink s (receiveFlit s (s.args.n % 32) b) (s.args.n % 32)) (s.args.n % 32) b) := by rfl
theorem exec_remoteMemoryRequest : exec .remoteMemoryRequest s = .next (onRequest s fun r => serveRemote s r) := by rfl
theorem exec_remoteMemoryResponse : exec .remoteMemoryResponse s = .next (onResponse s fun r => remoteAnswer s r) := by rfl
theorem exec_collectiveFlitReceive : exec .collectiveFlitReceive s = .next (onColl s fun f => collReceive s f) := by rfl
theorem exec_streamFlitReceive : exec .streamFlitReceive s = .next (onStream s fun f => streamReceive s f) := by rfl
theorem exec_routeWrite : exec .routeWrite s = .next (routeWrite s s.args.v) := by rfl
theorem exec_hostReservedAccess : exec .hostReservedAccess s = .next (hostReservedAccess s) := by rfl
theorem exec_registerWrite : exec .registerWrite s = .next (registerWrite s (s.args.m % 32) s.args.n s.args.v) := by rfl
theorem exec_powerOnReset : exec .powerOnReset s = .next (bootSteps (resetModule s)) := by rfl
theorem exec_resetRequest : exec .resetRequest s = .next (bootSteps (resetModule s)) := by rfl
theorem exec_imageUpload : exec .imageUpload s = .next (imageUpload s) := by rfl
theorem exec_ageingUpdate : exec .ageingUpdate s = .next (ageingUpdate s) := by rfl
theorem exec_attestationReport : exec .attestationReport s = .next (attestationReport s) := by rfl
theorem exec_hostMemoryAccess : exec .hostMemoryAccess s = .next (hostMemoryAccess s) := by rfl

end

/-! ## Numbers and bytes -/

/-- A field of a doubleword by division (R3). -/
theorem fld_eq_div (x hi lo : Nat) : fld x hi lo = x / 2 ^ lo % 2 ^ (hi + 1 - lo) := by
  rw [fld, Nat.shiftRight_eq_div_pow]

theorem length_natLe (x n : Nat) : (natLe x n).length = n := by
  induction n generalizing x with
  | zero => rfl
  | succ n ih => simp [natLe, ih]

/-- The bytes of a number, read back, give it cut to their width. -/
theorem leNat_natLe (x n : Nat) : leNat (natLe x n) = x % 256 ^ n := by
  induction n generalizing x with
  | zero => simp [natLe, leNat, Nat.mod_one]
  | succ n ih =>
    have hsplit : x % 256 ^ (n + 1) = x % 256 + 256 * (x / 256 % 256 ^ n) := by
      rw [Nat.pow_succ, Nat.mul_comm, Nat.mod_mul]
    simp [natLe, leNat, ih, hsplit]

/-- A load is the bytes at its addresses. -/
theorem mread_eq_of_mget (m : Memory) (bs : List Byte) (a : Nat) (h : ∀ i (hi : i < bs.length), mget m (a + i) = bs[i]) :
    mread m a bs.length = bs := by
  induction bs generalizing a with
  | nil => rfl
  | cons b bs ih =>
    have htail := ih (a + 1) fun i hi => by
      have := h (i + 1) (by simpa using hi)
      simpa [Nat.add_comm, Nat.add_left_comm] using this
    have hhead : mget m a = b := h 0 (Nat.succ_pos _)
    simp [mread, htail, hhead]

/-- A load of what has just been stored. -/
theorem mread_mwrite (m : Memory) (a : Nat) (bs : List Byte) (h : m.wf = true) : mread (mwrite m a bs) a bs.length = bs :=
  mread_eq_of_mget _ bs a fun i hi => mget_mwrite_in m a i bs h hi

/-- A stored number reads back cut to its bytes. -/
theorem leNat_mread_mwrite_natLe (m : Memory) (a x n : Nat) (h : m.wf = true) :
    leNat (mread (mwrite m a (natLe x n)) a n) = x % 256 ^ n := by
  have hread := mread_mwrite m a (natLe x n) h
  rw [length_natLe] at hread
  rw [hread, leNat_natLe]

/-! ## Repair in operation (R380-R382) -/

section
variable {s : State} {b : Sram}

/-- An unmarked and unmapped row is marked. -/
theorem correctedSoftError_marks (hb : s.args.data = .sram b) (hmark : (b, s.args.m) ∉ s.repair.marked)
    (hmap : (b, s.args.m) ∉ s.repair.mapped) :
    correctedSoftError s = { s with repair := { s.repair with marked := s.repair.marked ++ [(b, s.args.m)] } } := by
  simp [correctedSoftError, hb, hmark, hmap]

/-- A marked row of a hidden bank goes to a spare while the bank has one. -/
theorem rowRemap_spare (hb : s.args.data = .sram b) (hmark : (b, s.args.m) ∈ s.repair.marked) (hhid : sramHidden s b = true)
    (hin : sramWithdrawn s b = false) (hspare : (s.repair.mapped.filter fun p => decide (p.1 = b)).length < Config.spareRows) :
    rowRemap s = { s with repair := countRemaps { s.repair with
      marked := s.repair.marked.filter (· != (b, s.args.m)), mapped := s.repair.mapped ++ [(b, s.args.m)] } b 1 } := by
  simp only [rowRemap, hb]
  rw [if_neg (by simp [hmark, hhid, hin]), if_pos hspare]

/-- Without a spare, a bank that no set holds is withdrawn. -/
theorem rowRemap_withdraws (hb : s.args.data = .sram b) (hmark : (b, s.args.m) ∈ s.repair.marked) (hhid : sramHidden s b = true)
    (hin : sramWithdrawn s b = false) (hfull : Config.spareRows ≤ (s.repair.mapped.filter fun p => decide (p.1 = b)).length)
    (hfree : sramUnheld s b = true) : rowRemap s = { s with repair := withdraw s.repair b } := by
  simp only [rowRemap, hb]
  rw [if_neg (by simp [hmark, hhid, hin]), if_neg (by omega), if_pos hfree]

end

/-! ## Link commands and events (R402-R404) -/

section
variable {s : State} {n : Nat}

/-- A link from 16 on that is not busy takes the command. -/
theorem linkCommand_taken (f : State → Link → State) (hlo : 16 ≤ n) (hhi : n < 32) (hbusy : (getLink s n).busy = false) :
    linkCommand s n f = f s (getLink s n) := by
  simp [linkCommand, isDieLink, hbusy, show ¬32 ≤ n by omega, show ¬n < 16 by omega]

theorem linkTrain_dieLink (h : n < 16) : linkTrain s n = putLink s n { getLink s n with err := 5 } := by
  simp [linkTrain, linkCommand, isDieLink, h, show ¬32 ≤ n by omega]

theorem linkTrain_starts (hlo : 16 ≤ n) (hhi : n < 32) (hbusy : (getLink s n).busy = false)
    (hst : (getLink s n).st = .down ∨ (getLink s n).st = .stopped ∨ (getLink s n).st = .error) :
    linkTrain s n = putLink s n { startTraining (getLink s n) with err := 0, busy := true } := by
  rw [linkTrain, linkCommand_taken _ hlo hhi hbusy]
  rcases hst with h | h | h <;> simp only [h]

theorem linkTrain_badState (hlo : 16 ≤ n) (hhi : n < 32) (hbusy : (getLink s n).busy = false)
    (hst : (getLink s n).st = .up ∨ (getLink s n).st = .training ∨ (getLink s n).st = .negotiating ∨ (getLink s n).st = .draining) :
    linkTrain s n = putLink s n { getLink s n with err := 2 } := by
  rw [linkTrain, linkCommand_taken _ hlo hhi hbusy]
  rcases hst with h | h | h | h <;> simp only [h]

theorem linkDrain_stops (hlo : 16 ≤ n) (hhi : n < 32) (hbusy : (getLink s n).busy = false) (hup : (getLink s n).st = .up)
    (hsent : (getLink s n).sent = []) :
    linkDrain s n = putLink s n (unpaired { getLink s n with err := 0, st := .stopped }) := by
  rw [linkDrain, linkCommand_taken _ hlo hhi hbusy]
  simp only [hup, hsent, List.isEmpty_nil, if_true]

theorem linkDrain_drains (hlo : 16 ≤ n) (hhi : n < 32) (hbusy : (getLink s n).busy = false) (hup : (getLink s n).st = .up)
    (hsent : (getLink s n).sent ≠ []) :
    linkDrain s n = putLink s n { getLink s n with err := 0, st := .draining, busy := true } := by
  rw [linkDrain, linkCommand_taken _ hlo hhi hbusy]
  simp only [hup, List.isEmpty_iff, hsent, if_false]

theorem linkDown_goesDown (hlo : 16 ≤ n) (hhi : n < 32)
    (hst : (getLink s n).st = .up ∨ (getLink s n).st = .draining ∨ (getLink s n).st = .stopped ∨ (getLink s n).st = .error) :
    linkDown s n = putLink (dropSent s n) n (unpaired { getLink (dropSent s n) n with err := 0, busy := false, st := .down }) := by
  simp only [linkDown, isDieLink, decide_eq_true_eq]
  rw [if_neg (by omega), if_neg (by omega)]
  rcases hst with h | h | h | h <;> simp only [h]

theorem phyTrained_training (h : (getLink s n).st = .training) :
    phyTrained s n = putLink s n { getLink s n with st := .negotiating } := by
  simp only [phyTrained, h, if_true]

theorem phyFailed_training (h : (getLink s n).st = .training) : phyFailed s n = enterError s n 0 := by
  simp only [phyFailed, h, if_true]

theorem laneLoss_open (h : (getLink s n).st = .up ∨ (getLink s n).st = .draining) : laneLoss s n = enterError s n 0 := by
  rcases h with h | h <;> simp only [laneLoss, h]

/-- The device offers version 1 alone, so it is common exactly where the peer offers it. -/
theorem commonVersion_eq (peer : Half) : commonVersion peer = if peer.getLsbD 1 then some 1 else none := by
  have hown : ∀ v < 16, (ownVersions &&& peer).getLsbD v = (decide (v = 1) && peer.getLsbD 1) := by
    intro v hv
    have hbit : ownVersions.getLsbD v = decide (v = 1) := by
      revert v
      decide
    rw [BitVec.getLsbD_and, hbit]
    by_cases h : v = 1
    · rw [h]
    · simp [h]
  have hrange : (List.range 16).reverse.find? (fun v => (ownVersions &&& peer).getLsbD v)
      = (List.range 16).reverse.find? fun v => decide (v = 1) && peer.getLsbD 1 := by
    apply List.find?_congr
    intro v hv
    exact hown v (by simpa using hv)
  rw [commonVersion, hrange]
  cases peer.getLsbD 1
  · simp
  · decide

theorem negotiated_common {o : PeerOffer} (hst : (getLink s n).st = .negotiating) (hslp : o.slp.getLsbD 1 = true) :
    negotiated s n o = putLink s n { getLink s n with
      st := .up, slpver := 1, vers := [o.pkt, o.save, o.trc].map (fun m => if m.getLsbD 1 then 1 else 0)
      peer := if n < 16 then s.modid else o.peer.toNat, busy := false, retrains := 0
      err := if (getLink s n).busy then 0 else (getLink s n).err } := by
  have hver (m : Half) : (commonVersion m).getD 0 = if m.getLsbD 1 then 1 else 0 := by
    rw [commonVersion_eq]
    cases m.getLsbD 1 <;> rfl
  simp only [negotiated, hst, if_true, commonVersion_eq o.slp, hslp, hver, isDieLink, decide_eq_true_eq]

theorem negotiated_none {o : PeerOffer} (hst : (getLink s n).st = .negotiating) (hslp : o.slp.getLsbD 1 = false) :
    negotiated s n o = enterError s n 4 := by
  simp only [negotiated, hst, if_true, commonVersion_eq o.slp, hslp, Bool.false_eq_true, if_false]

end

/-- Step 5 of the boot: with the die links settled the mode is entered, and nothing but the boot's registers changes. -/
theorem bootGoesOn_settled {s : State} {m : Nat} {f : Image} {c : Option Image} (hm : s.boot.coming = some m)
    (hb : s.boot.booted = some (f, c)) (hset : dieLinksSettled s = true) :
    (bootGoesOn s).boot.mode = m ∧ (bootGoesOn s).boot.coming = none ∧ bootGoesOn s = { s with boot := (bootGoesOn s).boot } := by
  simp [bootGoesOn, hm, hb, hset]

theorem bootGoesOn_unsettled {s : State} {m : Nat} {f : Image} {c : Option Image} (hm : s.boot.coming = some m)
    (hb : s.boot.booted = some (f, c)) (hset : dieLinksSettled s = false) : bootGoesOn s = s := by
  simp [bootGoesOn, hm, hb, hset]

/-! ## Flits that arrive (R405-R407, R410) -/

section
variable {s : State} {n : Nat} {b : List Byte}

/-- The state in which a flit in order is taken: its number is counted, and what it acknowledges leaves the replay buffer. -/
def tookFlit (s : State) (n : Nat) (b : List Byte) : State :=
  takeAck (putLink s n { getLink s n with rxseq := (getLink s n).rxseq + 1 }) n (flitOf b).ack

/-- Whether a flit is a control flit that names a sequence number. -/
def isNak (f : Flit) : Bool := decide (f.typ = 1) && decide (f.payload.length = 2)

/-- Whether a flit came by a fabric link and is for another module than that of the state. -/
def passesOn (s : State) (n : Nat) (f : Flit) : Bool := !isDieLink n && !isNak f && f.dst != s.modid

/-- What a link does with a flit that it has taken: it passes it on, or checks it to its end and answers. -/
def deliverFlit (s : State) (n : Nat) (b : List Byte) : State :=
  if passesOn s n (flitOf b) then
    match portFor s (flitOf b).dst (flitLine (flitOf b)) with
    | some p => sendBytes s p none b
    | none => s
  else if !ecrcOk b then ecrcFails s n (flitOf b)
  else if isNak (flitOf b) then takeNak s n (leNat (flitOf b).payload)
  else s

theorem isNak_iff (f : Flit) : isNak f = true ↔ f.typ = 1 ∧ f.payload.length = 2 := by
  simp [isNak]

theorem passesOn_iff (f : Flit) :
    passesOn s n f = true ↔ 16 ≤ n ∧ ¬(f.typ = 1 ∧ f.payload.length = 2) ∧ f.dst ≠ s.modid := by
  simp only [passesOn, isDieLink, Bool.and_eq_true, Bool.not_eq_true', decide_eq_false_iff_not, not_lt, ← isNak_iff,
    Bool.not_eq_true, bne_iff_ne, and_assoc]

/-- A flit whose hop check fails, or of no known type, is answered with a NAK. -/
theorem receiveFlit_bad (hst : (getLink s n).st = .up ∨ (getLink s n).st = .draining)
    (hbad : lcrcOk b = false ∨ 6 ≤ (flitOf b).typ) : receiveFlit s n b = nakFlit s n := by
  have hbad' : (!lcrcOk b || decide ((flitOf b).typ ≥ 6)) = true := by simpa using hbad
  rcases hst with h | h <;> simp only [receiveFlit, h, hbad', Bool.not_true, Bool.false_eq_true, if_true, if_false]

/-- A sound flit of type 0 only acknowledges. -/
theorem receiveFlit_ack (hst : (getLink s n).st = .up ∨ (getLink s n).st = .draining) (hok : lcrcOk b = true)
    (htyp : (flitOf b).typ = 0) : receiveFlit s n b = takeAck s n (flitOf b).ack := by
  rcases hst with h | h <;> simp [receiveFlit, h, hok, htyp]

/-- A sound flit out of order is answered with a NAK. -/
theorem receiveFlit_outOfOrder (hst : (getLink s n).st = .up ∨ (getLink s n).st = .draining) (hok : lcrcOk b = true)
    (htyp : (flitOf b).typ < 6) (h0 : (flitOf b).typ ≠ 0) (hseq : (flitOf b).seq ≠ (getLink s n).rxseq.toNat) :
    receiveFlit s n b = nakFlit s n := by
  rcases hst with h | h <;> simp [receiveFlit, h, hok, show ¬6 ≤ (flitOf b).typ by omega, h0, hseq]

/-- A sound flit in order is taken and delivered. -/
theorem receiveFlit_inOrder (hst : (getLink s n).st = .up ∨ (getLink s n).st = .draining) (hok : lcrcOk b = true)
    (htyp : (flitOf b).typ < 6) (h0 : (flitOf b).typ ≠ 0) (hseq : (flitOf b).seq = (getLink s n).rxseq.toNat) :
    receiveFlit s n b = deliverFlit (tookFlit s n b) n b := by
  have hknown : (!lcrcOk b || decide ((flitOf b).typ ≥ 6)) = false := by simpa [hok] using htyp
  rcases hst with h | h <;>
    (simp only [receiveFlit, tookFlit, h, hknown, h0, hseq, Bool.not_true, Bool.false_eq_true, ne_eq, not_true_eq_false, if_false]
     rfl)

/-- A flit for another module leaves by the port of its route. -/
theorem deliverFlit_passes {o : Nat} (hpass : passesOn s n (flitOf b) = true)
    (hport : portFor s (flitOf b).dst (flitLine (flitOf b)) = some o) : deliverFlit s n b = sendBytes s o none b := by
  rw [deliverFlit, if_pos hpass, hport]

/-- A flit for this module whose end-to-end check fails ends its operation. -/
theorem deliverFlit_ecrcFails (hpass : ¬passesOn s n (flitOf b) = true) (hend : ecrcOk b = false) :
    deliverFlit s n b = ecrcFails s n (flitOf b) := by
  rw [deliverFlit, if_neg hpass, if_pos (by simp [hend])]

/-- A sound NAK has flits sent again. -/
theorem deliverFlit_nak (hend : ecrcOk b = true) (hnak : isNak (flitOf b) = true) :
    deliverFlit s n b = takeNak s n (leNat (flitOf b).payload) := by
  rw [deliverFlit, if_neg (by simp [passesOn, hnak]), if_neg (by simp [hend]), if_pos hnak]

/-- Any other sound flit for this module has been taken. -/
theorem deliverFlit_taken (hpass : ¬passesOn s n (flitOf b) = true) (hend : ecrcOk b = true)
    (hnak : ¬isNak (flitOf b) = true) : deliverFlit s n b = s := by
  rw [deliverFlit, if_neg hpass, if_neg (by simp [hend]), if_neg hnak]

end

/-! ## Requests and answers of other modules (R411) -/

/-- The response flits to a request: each with its number, whether it was permitted, and a part of the bytes. -/
def answerRequest (r : RemoteRequest) (s : State) (ok : Bool) (d : List Byte) : State :=
  (flitParts d (max 1 ((d.length + 207) / 208))).foldl (fun s b =>
    (sendFlit s r.src.toNat (remoteLine s.modid r.off.toNat) 3 1 0 none false 0
      (natLe r.tag.toNat 3 ++ [if ok then 1 else 0] ++ b)).getD s) s

section
variable {s : State} {r : RemoteRequest}

/-- A permitted request is done at its home slice and answered with its bytes. -/
theorem serveRemote_permitted {k : Nat} {wr rd : Bool} {t : State} {d : List Byte} (hneed : remoteNeed r.op = (k, wr, rd))
    (hexp : exported s r.src r.off.toNat k wr rd = true) (hmem : inGddr r.off.toNat k = true)
    (hdo : remoteDo s (.elsewhere r.src.toNat) r.off.toNat r.op = (t, d)) : serveRemote s r = answerRequest r t true d := by
  simp only [serveRemote, hneed, hexp, hmem, hdo, Bool.and_true, if_true]
  rfl

/-- A request that no window permits is answered and changes nothing. -/
theorem serveRemote_refused
    (hexp : exported s r.src r.off.toNat (remoteNeed r.op).1 (remoteNeed r.op).2.1 (remoteNeed r.op).2.2 = false) :
    serveRemote s r = answerRequest r s false [] := by
  simp only [serveRemote, hexp, Bool.false_and, Bool.false_eq_true, if_false]
  rfl

/-- A permitted AMO stores its value and answers what stood there. -/
theorem serveRemote_amo {op : HostOp} {k : Nat} {v : DWord} (hop : r.op = .amo op k v)
    (hexp : exported s r.src r.off.toNat k true true = true) (hmem : inGddr r.off.toNat k = true) :
    serveRemote s r = answerRequest r (writeBy (.elsewhere r.src.toNat) s r.off.toNat
      (natLe (amoValue op k (leNat (readHome s r.off.toNat k)) v.toNat) k)) true (readHome s r.off.toNat k) := by
  exact serveRemote_permitted (by rw [hop]; rfl) hexp hmem (by rw [hop]; rfl)

end

section
variable {s : State} {r : RemoteResponse} {q : RemotePending}

/-- The access of a host core that has been answered returns its datum, and acquires where it was marked. -/
theorem remoteAnswer_host_ok {core : Nat} (hq : (s.remotes.find? fun q => q.tag == r.tag && q.data.isNone) = some q)
    (hask : q.asker = .host core) (hok : r.ok = true) :
    remoteAnswer s r =
      let t := { s with remotes := s.remotes.erase q }
      let u := if q.rd then { t with hostData := BitVec.ofNat 64 (leNat r.data) } else t
      if q.acq then acquireBy (.host core) 5 u else u := by
  simp only [remoteAnswer, hq, hask, hok, Bool.not_true, Bool.false_eq_true, if_false]

/-- The access of a host core that has been refused raises its fault. -/
theorem remoteAnswer_host_refused {core : Nat} (hq : (s.remotes.find? fun q => q.tag == r.tag && q.data.isNone) = some q)
    (hask : q.asker = .host core) (hok : r.ok = false) :
    remoteAnswer s r = hostFault { s with remotes := s.remotes.erase q } core (if q.wr then .store else .load) := by
  simp only [remoteAnswer, hq, hask, hok, Bool.not_false, if_true]

/-- A pending request after the bytes `d` have come for `q`. -/
def answered (q : RemotePending) (d : List Byte) (r : RemotePending) : RemotePending :=
  if r = q then { r with data := some (if r.rd then padTo r.len d else []) } else r

theorem answered_asker (d : List Byte) (r : RemotePending) : (answered q d r).asker = r.asker := by
  unfold answered
  split <;> rfl

theorem answered_self (d : List Byte) : answered q d q = { q with data := some (if q.rd then padTo q.len d else []) } := if_pos rfl

/-- An answer keeps who asked, so filters by the asker pass through it. -/
theorem filter_map_answered (d : List Byte) (l : List RemotePending) (keep : Asker → Bool) :
    (l.map (answered q d)).filter (fun r => keep r.asker) = (l.filter fun r => keep r.asker).map (answered q d) := by
  rw [List.filter_map]
  congr 2
  funext r
  exact congrArg keep (answered_asker d r)

/-- An answer to a child leaves the requests of all others. -/
theorem filter_others_answered {key : Nat} (d : List Byte) (l : List RemotePending) (hask : q.asker = .child key) :
    (l.map (answered q d)).filter (fun r => !decide (r.asker = .child key)) = l.filter fun r => !decide (r.asker = .child key) := by
  rw [filter_map_answered d l fun k => !decide (k = .child key)]
  refine (List.map_congr_left fun r hr => ?_).trans (List.map_id _)
  have hne : r ≠ q := by
    rintro rfl
    simp [hask] at hr
  exact if_neg hne

/-- The answer to the only request of a child brings its chunk's bytes. -/
theorem childAnswer_only {key : Nat} {d : List Byte} (hask : q.asker = .child key) (honly : remotesOf s key = [q]) :
    childAnswer s key q d =
      modChild { s with remotes := s.remotes.filter fun o => !decide (o.asker = .child key) } key
        fun h => { h with got := if q.rd then padTo q.len d else [] } := by
  have hmine : (s.remotes.map (answered q d)).filter (fun r => decide (r.asker = .child key)) = [answered q d q] := by
    rw [filter_map_answered d _ fun k => decide (k = .child key)]
    exact congrArg (List.map (answered q d)) honly
  have hothers := filter_others_answered d s.remotes hask
  rw [answered_self] at hmine
  unfold answered at hmine hothers
  simp only [childAnswer, remotesOf, dropRemotes, hmine, hothers, List.all_cons, List.all_nil, Option.isSome_some, Bool.and_true,
    if_true, List.flatMap_cons, List.flatMap_nil, Option.getD_some, List.append_nil]

theorem remoteAnswer_child_ok {key : Nat} (hq : (s.remotes.find? fun q => q.tag == r.tag && q.data.isNone) = some q)
    (hask : q.asker = .child key) (hok : r.ok = true) (honly : remotesOf s key = [q]) :
    remoteAnswer s r = modChild { s with remotes := s.remotes.filter fun o => !decide (o.asker = .child key) } key
      fun h => { h with got := if q.rd then padTo q.len r.data else [] } := by
  simp only [remoteAnswer, hq, hask, hok, if_true]
  exact childAnswer_only hask honly

/-- A refused request of a child ends it. -/
theorem remoteAnswer_child_refused {key : Nat} (hq : (s.remotes.find? fun q => q.tag == r.tag && q.data.isNone) = some q)
    (hask : q.asker = .child key) (hok : r.ok = false) :
    remoteAnswer s r = finishChild (dropRemotes s key) key .faulted 2 0 0 := by
  simp only [remoteAnswer, hq, hask, hok, Bool.false_eq_true, if_false]

end

/-! ## Collective flits and streams (R417-R421) -/

section
variable {s : State} {f : CollFlit}

/-- A notice reaches the member that it is for. -/
theorem collReceive_notice {key : Nat} {h : Child} (hn : f.norank = true ∨ f.credit ≠ 0) (hc : collChild s f = some (key, h)) :
    collReceive s f = collNotice s f key h := by
  have hn' : (f.norank || f.credit != 0) = true := by simpa using hn
  simp only [collReceive, hn', if_true, hc]

theorem collReceive_norank {key : Nat} {h : Child} (hn : f.norank = true) (hc : collChild s f = some (key, h)) :
    collReceive s f = memberFails s key h 0x111 0 := by
  rw [collReceive_notice (.inl hn) hc, collNotice, if_pos hn]

theorem collReceive_credit {key : Nat} {h : Child} (hn : f.norank = false) (hcr : f.credit ≠ 0)
    (hc : collChild s f = some (key, h)) : collReceive s f =
      putChild s key { h with owing := (List.range f.credit).foldl (fun l _ => l.erase f.src) h.owing } := by
  rw [collReceive_notice (.inr hcr) hc, collNotice, if_neg (by simp [hn])]

/-- A chunk for a context that is not created goes back, unless it tells of a failure or comes from this module. -/
theorem collReceive_noContext (hn : f.norank = false) (hcr : f.credit = 0) (hctx : ctxCreated s f.dstCtx.val = false) :
    collReceive s f = if f.fail ∨ f.srcMod.toNat = s.modid then s
      else (sendFlit s f.srcMod.toNat 0 4 2 f.srcCtx.val none false f.dstCtx.val
        (collPayload { f with norank := true, data := [] })).getD s := by
  simp [collReceive, hn, hcr, hctx]

/-- A new chunk for a created context that no member takes is kept. -/
theorem collReceive_kept (hn : f.norank = false) (hcr : f.credit = 0) (hctx : ctxCreated s f.dstCtx.val = true)
    (hc : collChild s f = none) (hnew : collStale s f none = false)
    (hc' : collChild { s with collIn := s.collIn ++ [f] } f = none) :
    collReceive s f = { s with collIn := s.collIn ++ [f] } := by
  have htake : collTake s f = { s with collIn := s.collIn ++ [f] } := by
    simp only [collTake, hc, hnew, Bool.false_eq_true, if_false]
  simp only [collReceive, hn, hcr, hctx, htake, hc', bne_self_eq_false, Bool.or_self, Bool.not_true, Bool.false_eq_true, if_false]

/-- A chunk that has been taken already is discarded, and its member goes on if it may. -/
theorem collReceive_stale {key : Nat} {h : Child} (hn : f.norank = false) (hcr : f.credit = 0)
    (hctx : ctxCreated s f.dstCtx.val = true) (hc : collChild s f = some (key, h)) (hold : collStale s f (some h) = true) :
    collReceive s f = if mayMove h then collMove s key h else s := by
  have htake : collTake s f = s := by
    simp only [collTake, hc, hold, if_true]
  simp only [collReceive, hn, hcr, hctx, htake, hc, bne_self_eq_false, Bool.or_self, Bool.not_true, Bool.false_eq_true, if_false]

end

section
variable {s : State} {f : StreamFlit} {rx : StreamRx}

/-- The first flit of a slice begins it. -/
theorem streamReceive_first (hrx : tget {} s.streams f.head = rx) (hgood : f.good = true) (hnext : rx.next = 0) (hoff : f.off = 0) :
    streamReceive s f = { s with streams := tput {} s.streams f.head (if f.last then { frame := f.frame, slice := f.slice.toNat, shown := f.data }
        else { frame := f.frame, slice := f.slice.toNat, shown := rx.shown, next := f.data.length, data := f.data }) } := by
  simp only [streamReceive, hrx]
  cases hlast : f.last <;> simp [hgood, hnext, hoff]

/-- The next flit of a slice adds to it; the last one shows it. -/
theorem streamReceive_next (hrx : tget {} s.streams f.head = rx) (hgood : f.good = true) (hframe : rx.frame = f.frame)
    (hslice : rx.slice = f.slice.toNat) (hoff : f.off ≠ 0) (hnext : f.off.toNat = rx.next) (hlost : rx.lost = false) :
    streamReceive s f = { s with streams := tput {} s.streams f.head (if f.last then { rx with next := 0, data := [], shown := rx.data ++ f.data }
        else { rx with next := rx.next + f.data.length, data := rx.data ++ f.data }) } := by
  have hagain : (rx.frame == f.frame && rx.slice == f.slice.toNat && f.off != 0) = true := by
    rw [hframe, hslice, bne_iff_ne.mpr hoff, beq_self_eq_true, beq_self_eq_true, Bool.and_self, Bool.and_self]
  have hok : (f.good && f.off.toNat == rx.next && !rx.lost) = true := by simp [hgood, hnext, hlost]
  simp only [streamReceive, hrx, hagain, hok, if_true, Bool.not_true, Bool.false_and, Bool.false_eq_true, if_false]
  cases hlast : f.last <;> simp [hlost]

end

/-! ## Registers and reserved addresses (R6, R7, R22) -/

section
variable {s : State}

/-- A write of ROUTE sets the entry of the module that it names. -/
theorem routeWrite_eq (v : DWord) :
    routeWrite s v = { s with routes := tput 0 s.routes (v.toNat / 65536 % 4096) (BitVec.ofNat 16 v.toNat) } := by
  rw [routeWrite, fld_eq_div]
  rfl

theorem hostReservedAccess_faults {k : HostKind} (hk : s.args.data = .kind k) (hrun : hostCoreRuns s (s.args.n % 32) = true)
    (hres : hostReserved s s.args.v.toNat = true) : hostReservedAccess s = hostFault s (s.args.n % 32) k := by
  simp only [hostReservedAccess, hk, hrun, hres, Bool.and_self, if_true]

theorem registerWrite_idle {core pa : Nat} {v : DWord} (hrun : hostCoreRuns s core = false) : registerWrite s core pa v = s := by
  simp only [registerWrite, hrun, Bool.not_false, if_true]

theorem registerWrite_none {core pa : Nat} {v : DWord} (hrun : hostCoreRuns s core = true) (hreg : regAt pa = none) :
    registerWrite s core pa v = hostFault s core .store := by
  simp only [registerWrite, hrun, hreg, Bool.not_true, Bool.false_eq_true, if_false]

theorem registerWrite_some {core pa k off : Nat} {v : DWord} {b : RegBlock} (hrun : hostCoreRuns s core = true)
    (hreg : regAt pa = some (b, k, off)) : registerWrite s core pa v = regWrite s b k off v := by
  simp only [registerWrite, hrun, hreg, Bool.not_true, Bool.false_eq_true, if_false]

/-- The registers of repair and the energy weights are read-only. -/
theorem regWrite_readOnly {k off : Nat} {v : DWord} {b : RegBlock} (hb : b = .repair ∨ b = .energy) : regWrite s b k off v = s := by
  rcases hb with rfl | rfl <;> rfl

end

/-! ## Accesses of the host complex (R252) -/

section
variable {s : State} {a : HostAccess}

theorem hostMemoryAccess_idle (ha : s.args.data = .access a) (hrun : hostCoreRuns s a.core.val = false) : hostMemoryAccess s = s := by
  simp only [hostMemoryAccess, ha, hrun, Bool.not_false, if_true]

theorem hostMemoryAccess_fence (ha : s.args.data = .access a) (hrun : hostCoreRuns s a.core.val = true) (hop : a.op = .fence) :
    hostMemoryAccess s = acquireBy (hostAgent a) 5 s := by
  simp only [hostMemoryAccess, ha, hrun, hop, Bool.not_true, Bool.false_eq_true, if_false, if_true]

section
variable (ha : s.args.data = .access a) (hrun : hostCoreRuns s a.core.val = true) (hop : a.op ≠ .fence) (hsize : a.size ≠ 0)
  (hfit : a.pa.toNat % 8 + a.size ≤ 8)
include ha hrun hop hsize hfit

theorem hostMemoryAccess_local (hmem : inGddr a.pa.toNat a.size = true) : hostMemoryAccess s = hostLocal s a := by
  have hbad : ¬(a.size = 0 ∨ 8 < a.pa.toNat % 8 + a.size) := by omega
  simp only [hostMemoryAccess, ha, hrun, hop, hbad, hmem, Bool.not_true, Bool.false_eq_true, if_false, if_true]

theorem hostMemoryAccess_remote (hmem : inGddr a.pa.toNat a.size = false) (hrem : remoteOk s a.pa.toNat a.size = true) :
    hostMemoryAccess s = hostRemote s a := by
  have hbad : ¬(a.size = 0 ∨ 8 < a.pa.toNat % 8 + a.size) := by omega
  simp only [hostMemoryAccess, ha, hrun, hop, hbad, hmem, hrem, Bool.not_true, Bool.false_eq_true, if_false, if_true]

/-- An access that nothing backs raises its fault. -/
theorem hostMemoryAccess_unbacked (hmem : inGddr a.pa.toNat a.size = false) (hrem : remoteOk s a.pa.toNat a.size = false)
    (hreg : regAt a.pa.toNat = none) : hostMemoryAccess s = accessFault s a := by
  have hbad : ¬(a.size = 0 ∨ 8 < a.pa.toNat % 8 + a.size) := by omega
  simp only [hostMemoryAccess, ha, hrun, hop, hbad, hmem, hrem, hreg, ite_self, Bool.not_true, Bool.false_eq_true, if_false]

end

theorem accessFault_eq : accessFault s a = { s with boot := { s.boot with
    hostFaults := s.boot.hostFaults ++ [(a.core.val, if a.op = .load then .load else .store)] } } := by
  simp only [accessFault, hostFault, hostLoads, decide_eq_true_eq]

/-- What a load of local memory leaves: the line's writes taken in, and the datum returned. -/
def hostGot (s : State) (a : HostAccess) : State :=
  { takeIn (hostAgent a) [lineOf a.pa.toNat] s with hostData := BitVec.ofNat 64 (leNat (readHome s a.pa.toNat a.size)) }

/-- What an AMO that stores `x` in local memory leaves. -/
def hostAmo (s : State) (a : HostAccess) (x : Nat) : State :=
  let t := writeBy (hostAgent a) (hostGot s a) a.pa.toNat (natLe x a.size)
  if a.acq then acquireBy (hostAgent a) 5 t else t

theorem hostLocal_unreachable (hdie : dieReach s 8 (homeDie a.pa.toNat) = false) : hostLocal s a = accessFault s a := by
  simp only [hostLocal, hdie, Bool.not_false, if_true]

theorem hostLocal_load (hdie : dieReach s 8 (homeDie a.pa.toNat) = true) (hop : a.op = .load) : hostLocal s a = hostGot s a := by
  simp only [hostLocal, hdie, hop, Bool.not_true, Bool.false_eq_true, if_false]
  rfl

theorem hostLocal_store (hdie : dieReach s 8 (homeDie a.pa.toNat) = true) (hop : a.op = .store) :
    hostLocal s a = writeBy (hostAgent a) s a.pa.toNat (natLe a.value.toNat a.size) := by
  simp only [hostLocal, hdie, hop, Bool.not_true, Bool.false_eq_true, if_false]

/-- The operations that read and write at once. -/
def isAmo (op : HostOp) : Prop := op = .amoSwap ∨ op = .amoAdd ∨ op = .amoAnd ∨ op = .amoOr

theorem isAmo.ne_fence {op : HostOp} (h : isAmo op) : op ≠ .fence := by
  rcases h with rfl | rfl | rfl | rfl <;> decide

theorem hostLocal_amo (hdie : dieReach s 8 (homeDie a.pa.toNat) = true) (hop : isAmo a.op) :
    hostLocal s a = hostAmo s a (amoValue a.op a.size (leNat (readHome s a.pa.toNat a.size)) a.value.toNat) := by
  rcases hop with h | h | h | h <;>
    (simp only [hostLocal, hdie, h, Bool.not_true, Bool.false_eq_true, if_false]
     rfl)

/-- A store of local memory: what it writes reads back, every other byte stands, and memory keeps its canonical form. -/
theorem hostStore_mem (hwf : Memory.wf s.mem = true) :
    let t := writeBy (hostAgent a) s a.pa.toNat (natLe a.value.toNat a.size)
    leNat (mread t.mem a.pa.toNat a.size) = a.value.toNat % 256 ^ a.size
    ∧ (∀ b, Outside b a.pa.toNat a.size → mget t.mem b = mget s.mem b) ∧ Memory.wf t.mem = true := by
  refine ⟨leNat_mread_mwrite_natLe s.mem _ _ _ hwf, fun b hb => ?_, mwrite_wf s.mem _ _ hwf⟩
  exact mget_mwrite_out s.mem _ b _ hwf (by rwa [length_natLe])

/-- An access of another module's memory is a request to it, which acquires for an AMO alone. -/
theorem hostRemote_asks {t : State}
    (hask : askRemote s (.host a.core.val) (a.acq && !hostLoads a && decide (a.op ≠ .store)) 0 a.pa.toNat (hostOp a) = some t) :
    hostRemote s a = t := by
  simp only [hostRemote, hask, Option.getD_some]

theorem hostRemote_load {t : State} (hop : a.op = .load)
    (hask : askRemote s (.host a.core.val) false 0 a.pa.toNat (.read a.size) = some t) : hostRemote s a = t :=
  hostRemote_asks (by simpa [hostLoads, hostOp, hop] using hask)

theorem hostRemote_store {t : State} (hop : a.op = .store)
    (hask : askRemote s (.host a.core.val) false 0 a.pa.toNat (.write (natLe a.value.toNat a.size)) = some t) : hostRemote s a = t :=
  hostRemote_asks (by simpa [hostLoads, hostOp, hop] using hask)

theorem hostRemote_amo {t : State} (hop : isAmo a.op)
    (hask : askRemote s (.host a.core.val) a.acq 0 a.pa.toNat (.amo a.op a.size a.value) = some t) : hostRemote s a = t := by
  apply hostRemote_asks
  rcases hop with h | h | h | h <;> simpa [hostLoads, hostOp, h] using hask

end

/-! ## Reset and boot (R496-R499) -/

/-- Begins the training of links in turn. -/
def trainLinks (s : State) (l : List Nat) : State := l.foldl (fun s n => putLink s n (startTraining (getLink s n))) s

/-- Training writes the links alone. -/
theorem trainLinks_frame (s : State) (l : List Nat) : trainLinks s l = { s with links := (trainLinks s l).links } := by
  induction l generalizing s with
  | nil => rfl
  | cons n l ih => exact ih (putLink s n (startTraining (getLink s n)))

/-- A link in training stays so, and each link of the list enters it. -/
theorem trainLinks_st {s : State} {l : List Nat} {n : Nat} (hwf : tblWf ({} : Link) s.links = true)
    (h : n ∈ l ∨ (getLink s n).st = .training) : (getLink (trainLinks s l) n).st = .training := by
  induction l generalizing s with
  | nil => simpa [trainLinks] using h
  | cons k l ih =>
    refine ih (s := putLink s k (startTraining (getLink s k))) (tput_wf _ _ _ _ hwf) ?_
    by_cases hk : n = k
    · right
      rw [hk, getLink_putLink _ _ _ hwf]
      rfl
    · rw [getLink_putLink_ne _ _ _ _ hwf hk]
      simpa [hk] using h

/-- What the boot ROM leaves alone: all but the configuration fields, the links, the repair and its own registers; of those it
keeps the images. -/
structure BootKeeps (s t : State) : Prop where
  frame : t = { s with modid := t.modid, energyWeights := t.energyWeights, links := t.links, repair := t.repair, boot := t.boot }
  fwA : t.boot.fwA = s.boot.fwA
  cfgA : t.boot.cfgA = s.boot.cfgA
  fwB : t.boot.fwB = s.boot.fwB
  cfgB : t.boot.cfgB = s.boot.cfgB

/-- The state in which the boot ROM has chosen a slot's firmware. -/
def bootChose (s : State) (slot : Bool) (f : Image) : State := { s with boot := { s.boot with slot := slot, booted := some (f, none) } }

section
variable {s : State} {key : Nat × Nat} {slot : Bool} {err : Nat}

theorem bootSlot_noConfig {fw : Option Image} : bootSlot s key slot err fw none =
    bootFails { s with boot := { s.boot with slot := slot, booted := fw.map fun f => (f, none) } } 3 := by
  cases fw <;> rfl

theorem bootSlot_badConfig {f c : Image} (hcfg : configOk key s.boot.minSvn f c = false) :
    bootSlot s key slot err (some f) (some c) = bootFails (bootChose s slot f) 3 := by
  simp only [bootSlot, hcfg, Bool.not_false, if_true]
  rfl

theorem bootSlot_badMode {f c : Image} (hcfg : configOk key s.boot.minSvn f c = true)
    (hmode : ¬(Config.imageMode (imageBody c) = 1 ∨ Config.imageMode (imageBody c) = 3)) :
    bootSlot s key slot err (some f) (some c) = bootFails (bootChose s slot f) 3 := by
  simp only [bootSlot, hcfg, Bool.not_true, Bool.false_eq_true, if_false]
  rw [if_pos (by tauto)]
  rfl

/-- The state that an accepted pair leaves, with what has become of the links and the rows: its configuration fields, and the mode to
come. -/
def bootAccepted (s : State) (slot : Bool) (err : Nat) (f c : Image) (links : Tbl Link) (rows : Repair) : State :=
  let u := loadConfig (bootChose s slot f) (imageBody c)
  { u with links := links, repair := rows, boot := { u.boot with bootErr := err, booted := some (f, some c), coming := some (Config.imageMode (imageBody c)) } }

/-- An accepted pair: the die links train, and rows go to spares. -/
theorem bootSlot_accepts {f c : Image} (hcfg : configOk key s.boot.minSvn f c = true)
    (hmode : Config.imageMode (imageBody c) = 1 ∨ Config.imageMode (imageBody c) = 3) :
    bootSlot s key slot err (some f) (some c) = bootAccepted s slot err f c
      (trainLinks (loadConfig (bootChose s slot f) (imageBody c)) (List.range 16)).links (repairPass s.repair) := by
  have htrain (u : State) : trainDieLinks u = { u with links := (trainLinks u (List.range 16)).links } :=
    trainLinks_frame u (List.range 16)
  simp only [bootSlot, hcfg, Bool.not_true, Bool.false_eq_true, if_false]
  rw [if_neg (by tauto), htrain]
  rfl

end
section
variable {s : State} {key : Nat × Nat} {slot : Bool} {err : Nat}

theorem bootFails_keeps (s : State) (err : Nat) : BootKeeps s (bootFails s err) := ⟨rfl, rfl, rfl, rfl, rfl⟩

theorem bootAccepted_keeps (f c : Image) (links : Tbl Link) (rows : Repair) :
    BootKeeps s (bootAccepted s slot err f c links rows) := ⟨rfl, rfl, rfl, rfl, rfl⟩

theorem bootSlot_keeps (fw cfg : Option Image) : BootKeeps s (bootSlot s key slot err fw cfg) := by
  match fw, cfg with
  | fw, none =>
    rw [bootSlot_noConfig]
    exact ⟨rfl, rfl, rfl, rfl, rfl⟩
  | none, some _ => exact ⟨rfl, rfl, rfl, rfl, rfl⟩
  | some f, some c =>
    cases hcfg : configOk key s.boot.minSvn f c with
    | false =>
      rw [bootSlot_badConfig hcfg]
      exact ⟨rfl, rfl, rfl, rfl, rfl⟩
    | true =>
      by_cases hmode : Config.imageMode (imageBody c) = 1 ∨ Config.imageMode (imageBody c) = 3
      · rw [bootSlot_accepts hcfg hmode]
        exact bootAccepted_keeps f c _ _
      · rw [bootSlot_badMode hcfg hmode]
        exact ⟨rfl, rfl, rfl, rfl, rfl⟩

/-- Whatever becomes of a slot's pair, the slot is named. -/
theorem bootSlot_slot (f c : Image) : (bootSlot s key slot err (some f) (some c)).boot.slot = slot := by
  cases hcfg : configOk key s.boot.minSvn f c with
  | false => rw [bootSlot_badConfig hcfg]; rfl
  | true =>
    by_cases hmode : Config.imageMode (imageBody c) = 1 ∨ Config.imageMode (imageBody c) = 3
    · rw [bootSlot_accepts hcfg hmode]; rfl
    · rw [bootSlot_badMode hcfg hmode]; rfl

theorem getLink_bootAccepted (f c : Image) (t : State) (rows : Repair) (n : Nat) :
    getLink (bootAccepted s slot err f c t.links rows) n = getLink t n := rfl

/-- After an accepted pair the boot waits for the die links, which train. -/
theorem bootSlot_enters {f c : Image} (hcfg : configOk key s.boot.minSvn f c = true)
    (hmode : Config.imageMode (imageBody c) = 1 ∨ Config.imageMode (imageBody c) = 3) (hwf : tblWf ({} : Link) s.links = true) :
    let t := bootSlot s key slot err (some f) (some c)
    t.boot.mode = s.boot.mode ∧ t.boot.coming = some (Config.imageMode (imageBody c)) ∧ t.boot.bootErr = err
    ∧ t.boot.booted = some (f, some c) ∧ ∀ n < 16, (getLink t n).st = .training := by
  rw [bootSlot_accepts hcfg hmode]
  refine ⟨rfl, rfl, rfl, rfl, fun n hn => ?_⟩
  rw [getLink_bootAccepted]
  exact trainLinks_st hwf (.inl (List.mem_range.mpr hn))

theorem bootSteps_noKey (hkey : s.boot.rootKey = none) : bootSteps s = bootFails s 4 := by
  simp only [bootSteps, hkey]

theorem bootSteps_neither (hkey : s.boot.rootKey = some key) (hA : firmwareOk key s.boot.minSvn s.boot.fwA = false)
    (hB : firmwareOk key s.boot.minSvn s.boot.fwB = false) : bootSteps s = bootFails s 2 := by
  simp only [bootSteps, hkey, hA, hB, Bool.false_eq_true, if_false]

theorem bootSteps_slotA (hkey : s.boot.rootKey = some key) (hA : firmwareOk key s.boot.minSvn s.boot.fwA = true) :
    bootSteps s = bootSlot s key false 0 s.boot.fwA s.boot.cfgA := by
  simp only [bootSteps, hkey, hA, if_true]

theorem bootSteps_slotB (hkey : s.boot.rootKey = some key) (hA : firmwareOk key s.boot.minSvn s.boot.fwA = false)
    (hB : firmwareOk key s.boot.minSvn s.boot.fwB = true) : bootSteps s = bootSlot s key true 1 s.boot.fwB s.boot.cfgB := by
  simp only [bootSteps, hkey, hA, hB, Bool.false_eq_true, if_false, if_true]

theorem bootSteps_keeps (s : State) : BootKeeps s (bootSteps s) := by
  cases hkey : s.boot.rootKey with
  | none => rw [bootSteps_noKey hkey]; exact bootFails_keeps s 4
  | some key =>
    cases hA : firmwareOk key s.boot.minSvn s.boot.fwA with
    | true => rw [bootSteps_slotA hkey hA]; exact bootSlot_keeps _ _
    | false =>
      cases hB : firmwareOk key s.boot.minSvn s.boot.fwB with
      | true => rw [bootSteps_slotB hkey hA hB]; exact bootSlot_keeps _ _
      | false => rw [bootSteps_neither hkey hA hB]; exact bootFails_keeps s 2

end

section
variable {s : State} {key : Nat × Nat}

/-- The state after a reset and the steps of the boot ROM. -/
def rebooted (s : State) : State := bootSteps (resetModule s)

/-- A reset clears what programs and memory held, and keeps the flash (notes/assumptions/1.md, 7.md). -/
theorem rebooted_clears (s : State) :
    let t := rebooted s
    t.cur = none ∧ t.slw = none ∧ t.groups = [] ∧ t.kernels = [] ∧ t.children = [] ∧ t.mem = [] ∧ t.pond = [] ∧ t.lineStore = []
    ∧ t.tlb = [] ∧ (∀ c, (getCtx t c).st = .free) ∧ (∀ q, (getQueue t q).st = .unbound)
    ∧ t.boot.fwA = s.boot.fwA ∧ t.boot.cfgA = s.boot.cfgA ∧ t.boot.fwB = s.boot.fwB ∧ t.boot.cfgB = s.boot.cfgB := by
  obtain ⟨hframe, hfwA, hcfgA, hfwB, hcfgB⟩ := bootSteps_keeps (resetModule s)
  have hctxs : (rebooted s).ctxs = [] := congrArg State.ctxs hframe
  have hqueues : (rebooted s).queues = [] := congrArg State.queues hframe
  have hctx (c : Nat) : (getCtx (rebooted s) c).st = .free := by
    rw [getCtx, hctxs]
    rfl
  have hqueue (q : Nat) : (getQueue (rebooted s) q).st = .unbound := by
    rw [getQueue, hqueues]
    rfl
  exact ⟨congrArg State.cur hframe, congrArg State.slw hframe, congrArg State.groups hframe, congrArg State.kernels hframe,
    congrArg State.children hframe, congrArg State.mem hframe, congrArg State.pond hframe, congrArg State.lineStore hframe,
    congrArg State.tlb hframe, hctx, hqueue, hfwA, hcfgA, hfwB, hcfgB⟩

theorem rebooted_noKey (hkey : s.boot.rootKey = none) : (rebooted s).boot.mode = 2 ∧ (rebooted s).boot.bootErr = 4 := by
  rw [rebooted, bootSteps_noKey (s := resetModule s) hkey]
  exact ⟨rfl, rfl⟩

theorem rebooted_neither (hkey : s.boot.rootKey = some key) (hA : firmwareOk key s.boot.minSvn s.boot.fwA = false)
    (hB : firmwareOk key s.boot.minSvn s.boot.fwB = false) : (rebooted s).boot.mode = 2 ∧ (rebooted s).boot.bootErr = 2 := by
  rw [rebooted, bootSteps_neither (s := resetModule s) hkey hA hB]
  exact ⟨rfl, rfl⟩

theorem rebooted_slotA {f : Image} {cfg : Option Image} (hkey : s.boot.rootKey = some key)
    (hA : firmwareOk key s.boot.minSvn s.boot.fwA = true) (hf : s.boot.fwA = some f) (hc : s.boot.cfgA = cfg) :
    rebooted s = bootSlot (resetModule s) key false 0 (some f) cfg := by
  rw [rebooted, bootSteps_slotA (s := resetModule s) hkey hA, ← hf, ← hc]
  rfl

theorem rebooted_slotB {f : Image} {cfg : Option Image} (hkey : s.boot.rootKey = some key)
    (hA : firmwareOk key s.boot.minSvn s.boot.fwA = false) (hB : firmwareOk key s.boot.minSvn s.boot.fwB = true)
    (hf : s.boot.fwB = some f) (hc : s.boot.cfgB = cfg) :
    rebooted s = bootSlot (resetModule s) key true 1 (some f) cfg := by
  rw [rebooted, bootSteps_slotB (s := resetModule s) hkey hA hB, ← hf, ← hc]
  rfl

/-- The module with a pair of images in slot A. -/
def flashed (s : State) (fw cfg : Image) : State := { s with boot := { s.boot with fwA := some fw, cfgA := some cfg } }

/-- An accepted pair goes to slot A, and the module starts again. -/
theorem imageUpload_accepts {fw cfg : Image} (hdata : s.args.data = .images fw cfg) (hkey : s.boot.rootKey = some key)
    (hmode : s.boot.mode = 2) (herr : s.boot.bootErr ≠ 4) (hfw : imageOk key s.boot.minSvn 1 fw = true)
    (hcfg : configOk key s.boot.minSvn fw cfg = true) :
    imageUpload s = rebooted (flashed s fw cfg) := by
  simp only [imageUpload, hdata, flashed, hkey]
  rw [if_pos ⟨hmode, herr, hfw, hcfg⟩]
  rfl

end

/-! ## Wear and attestation (R500, R501) -/

section
variable {s : State}

theorem ageingUpdate_lowers (h : s.args.n < 9) : ageingUpdate s = { s with boot := { s.boot with
    ages := tput 0xFFFFFFFF s.boot.ages s.args.n (BitVec.ofNat 64 (min (tget 0xFFFFFFFF s.boot.ages s.args.n).toNat s.args.v.toNat)) } } := by
  simp only [ageingUpdate, h, if_true]
  rfl

/-- The buffer that a value of ATTCMD names. -/
def attestBuffer (v : DWord) : Nat := v.toNat / 256 % 2 ^ 44 * 256

theorem attestStart_accepts {v : DWord} (hidle : s.boot.attBusy = false) (hbuf : inCarveRange (attestBuffer v) 288 = true) :
    attestStart s v = { s with boot := { s.boot with attBuf := attestBuffer v, attBusy := true, attErr := 0 } } := by
  have hfld : fld v.toNat 51 8 * 256 = attestBuffer v := congrArg (· * 256) (fld_eq_div _ _ _)
  simp only [attestStart, hfld, hidle, hbuf, Bool.not_true, Bool.false_eq_true, if_false]

theorem attestStart_refuses {v : DWord} (hidle : s.boot.attBusy = false) (hbuf : inCarveRange (attestBuffer v) 288 = false) :
    attestStart s v = { s with boot := { s.boot with attErr := 2 } } := by
  have hfld : fld v.toNat 51 8 * 256 = attestBuffer v := congrArg (· * 256) (fld_eq_div _ _ _)
  simp only [attestStart, hfld, hidle, hbuf, Bool.not_false, Bool.false_eq_true, if_false, if_true]

theorem attestFinish_idle (h : s.boot.attBusy = false) : attestFinish s = s := by
  simp only [attestFinish, h, Bool.false_eq_true, if_false]

/-- The report's end clears BUSY and ERR and leaves the other registers of the boot. -/
theorem attestFinish_boot (h : s.boot.attBusy = true) :
    (attestFinish s).boot = { s.boot with attBusy := false, attErr := 0 } := by
  simp only [attestFinish, h, if_true]
  rfl

theorem attestationReport_reports (hidle : s.boot.attBusy = false) (hbuf : inCarveRange (attestBuffer s.args.v) 288 = true) :
    (attestationReport s).boot.attBusy = false ∧ (attestationReport s).boot.attErr = 0
    ∧ (attestationReport s).boot.attBuf = attestBuffer s.args.v := by
  have hboot : (attestationReport s).boot = { s.boot with attBuf := attestBuffer s.args.v, attBusy := false, attErr := 0 } := by
    rw [attestationReport, if_neg (by simp [hidle]), attestStart_accepts hidle hbuf, attestFinish_boot rfl]
  rw [hboot]
  exact ⟨rfl, rfl, rfl⟩

theorem attestationReport_refuses (hidle : s.boot.attBusy = false) (hbuf : inCarveRange (attestBuffer s.args.v) 288 = false) :
    attestationReport s = { s with boot := { s.boot with attErr := 2 } } := by
  rw [attestationReport, if_neg (by simp [hidle]), attestStart_refuses hidle hbuf]
  exact attestFinish_idle hidle

end

/-! ## What a move of the fabric carries, and the effect of an event -/

section
variable {s : State}

theorem onPeer_peer {o : PeerOffer} (h : s.args.data = .peer o) (f : PeerOffer → State) : onPeer s f = f o := by
  simp only [onPeer, h]

theorem onBytes_bytes {b : List Byte} (h : s.args.data = .bytes b) (f : List Byte → State) : onBytes s f = f b := by
  simp only [onBytes, h]

theorem onRequest_request {r : RemoteRequest} (h : s.args.data = .request r) (f : RemoteRequest → State) : onRequest s f = f r := by
  simp only [onRequest, h]

theorem onResponse_response {r : RemoteResponse} (h : s.args.data = .response r) (f : RemoteResponse → State) : onResponse s f = f r := by
  simp only [onResponse, h]

theorem onColl_coll {c : CollFlit} (h : s.args.data = .coll c) (f : CollFlit → State) : onColl s f = f c := by
  simp only [onColl, h]

theorem onStream_stream {x : StreamFlit} (h : s.args.data = .stream x) (f : StreamFlit → State) : onStream s f = f x := by
  simp only [onStream, h]

/-- An event whose function's result is known. -/
theorem exec_next {i : Instr} {t u : State} (hexec : exec i s = .next t) (h : t = u) : exec i s = .next u := by
  rw [hexec, h]

/-- A flit that arrives, by what the link does with it. -/
theorem exec_slpFlitReceive_eq {b : List Byte} {r : State} (hb : s.args.data = .bytes b) (h : receiveFlit s (s.args.n % 32) b = r) :
    exec .slpFlitReceive s = .next (afterFlit s (afterLink s r (s.args.n % 32)) (s.args.n % 32) b) := by
  rw [exec_slpFlitReceive, onBytes_bytes hb, h]

theorem exec_remoteMemoryRequest_eq {r : RemoteRequest} {t : State} (hr : s.args.data = .request r) (h : serveRemote s r = t) :
    exec .remoteMemoryRequest s = .next t := by
  rw [exec_remoteMemoryRequest, onRequest_request hr, h]

theorem exec_remoteMemoryResponse_eq {r : RemoteResponse} {t : State} (hr : s.args.data = .response r) (h : remoteAnswer s r = t) :
    exec .remoteMemoryResponse s = .next t := by
  rw [exec_remoteMemoryResponse, onResponse_response hr, h]

theorem exec_collectiveFlitReceive_eq {f : CollFlit} {t : State} (hf : s.args.data = .coll f) (h : collReceive s f = t) :
    exec .collectiveFlitReceive s = .next t := by
  rw [exec_collectiveFlitReceive, onColl_coll hf, h]

theorem exec_streamFlitReceive_eq {f : StreamFlit} {t : State} (hf : s.args.data = .stream f) (h : streamReceive s f = t) :
    exec .streamFlitReceive s = .next t := by
  rw [exec_streamFlitReceive, onStream_stream hf, h]

theorem exec_linkNegotiated_eq {o : PeerOffer} {t : State} (ho : s.args.data = .peer o) (h : negotiated s (s.args.n % 32) o = t) :
    exec .linkNegotiated s = .next (bootGoesOn t) := by
  rw [exec_linkNegotiated, onPeer_peer ho, h]

end

/-- Settles O59: each clause is the equation of its event's function in the case that the clause names. -/
theorem moduleEvents : Obligations.ModuleEvents := by
  intro s n p l lp
  refine ⟨?repair, ?trainDie, ?commands, ?count, ?trained, ?negotiated, ?lost, ?bootGoes, ?flit, ?request, ?response, ?coll, ?stream,
    ?route, ?reserved, ?regIdle, ?register, ?reset, ?upload, ?ageing, ?attest, ?hostIdle, ?host⟩
  case repair =>
    intro b hb
    refine ⟨fun hmark hmap => ?_, fun hmark hhid hin hspare => ?_, fun hmark hhid hin hfull hfree => ?_⟩
    · exact exec_next (exec_correctedSoftError s) (correctedSoftError_marks hb hmark hmap)
    · exact exec_next (exec_rowRemap s) (rowRemap_spare hb hmark hhid hin hspare)
    · exact exec_next (exec_rowRemap s) (rowRemap_withdraws hb hmark hhid hin hfull hfree)
  case trainDie => exact fun h => exec_next (exec_linkTrain s) (linkTrain_dieLink h)
  case commands =>
    intro hlo hhi hbusy
    refine ⟨fun hst => ?_, fun hst => ?_, fun hup hsent => ?_, fun hup hsent => ?_, fun hst => ?_⟩
    · exact exec_next (exec_linkTrain s) (linkTrain_starts hlo hhi hbusy hst)
    · exact exec_next (exec_linkTrain s) (linkTrain_badState hlo hhi hbusy hst)
    · exact exec_next (exec_linkDrain s) (congrArg (afterLink s · s.args.n) (linkDrain_stops hlo hhi hbusy hup hsent))
    · exact exec_next (exec_linkDrain s) (congrArg (afterLink s · s.args.n) (linkDrain_drains hlo hhi hbusy hup hsent))
    · exact exec_next (exec_linkDown s) (congrArg (afterLink s · s.args.n) (linkDown_goesDown hlo hhi hst))
  case count => exact exec_lnkcntRead s
  case trained =>
    intro hst
    refine ⟨exec_next (exec_linkPhyTrained s) (phyTrained_training hst), ?_⟩
    exact exec_next (exec_linkPhyTrainFail s) (congrArg (fun r => bootGoesOn (afterLink s r p)) (phyFailed_training hst))
  case negotiated =>
    intro o ho hst
    exact ⟨fun hslp => exec_linkNegotiated_eq ho (negotiated_common hst hslp),
      fun hslp => exec_linkNegotiated_eq ho (negotiated_none hst hslp)⟩
  case lost =>
    exact fun hst => exec_next (exec_linkLaneLoss s) (congrArg (fun r => bootGoesOn (afterLink s r p)) (laneLoss_open hst))
  case bootGoes => exact fun m f c hm hb => ⟨bootGoesOn_settled hm hb, bootGoesOn_unsettled hm hb⟩
  case flit =>
    intro b hb hst
    refine ⟨fun hbad => ?_, fun hok h0 => ?_, fun hok htyp h0 => ⟨fun hseq => ?_, ?_, ?_, ?_, ?_⟩⟩
    · exact exec_slpFlitReceive_eq hb (receiveFlit_bad hst hbad)
    · exact exec_slpFlitReceive_eq hb (receiveFlit_ack hst hok h0)
    · exact exec_slpFlitReceive_eq hb (receiveFlit_outOfOrder hst hok htyp h0 hseq)
    · intro hseq hpass o hport
      exact exec_slpFlitReceive_eq hb ((receiveFlit_inOrder hst hok htyp h0 hseq).trans
        (deliverFlit_passes ((passesOn_iff _).mpr hpass) hport))
    · intro hseq hpass hend
      exact exec_slpFlitReceive_eq hb ((receiveFlit_inOrder hst hok htyp h0 hseq).trans
        (deliverFlit_ecrcFails (mt (passesOn_iff _).mp hpass) hend))
    · intro hseq hend hnak
      exact exec_slpFlitReceive_eq hb ((receiveFlit_inOrder hst hok htyp h0 hseq).trans
        (deliverFlit_nak hend ((isNak_iff _).mpr hnak)))
    · intro hseq hpass hend hnak
      exact exec_slpFlitReceive_eq hb ((receiveFlit_inOrder hst hok htyp h0 hseq).trans
        (deliverFlit_taken (mt (passesOn_iff _).mp hpass) hend (mt (isNak_iff _).mp hnak)))
  case request =>
    intro r hr
    refine ⟨fun k hop hexp hmem => ?_, fun hexp => ?_, fun d hop hexp hmem => ?_, fun red fmt d hop hexp hmem => ?_,
      fun k rd hop hexp hmem => ?_, fun red mask v hop hexp hmem => ?_, fun k v hexp hmem => ⟨?_, ?_, ?_, ?_⟩⟩
    · exact exec_remoteMemoryRequest_eq hr (serveRemote_permitted (by rw [hop]; rfl) hexp hmem (by rw [hop]; rfl))
    · exact exec_remoteMemoryRequest_eq hr (serveRemote_refused hexp)
    · exact exec_remoteMemoryRequest_eq hr (serveRemote_permitted (by rw [hop]; rfl) hexp hmem (by rw [hop]; rfl))
    · exact exec_remoteMemoryRequest_eq hr (serveRemote_permitted (by rw [hop]; rfl) hexp hmem (by rw [hop]; rfl))
    · exact exec_remoteMemoryRequest_eq hr (serveRemote_permitted (by rw [hop]; rfl) hexp hmem (by rw [hop]; rfl))
    · exact exec_remoteMemoryRequest_eq hr (serveRemote_permitted (by rw [hop]; rfl) hexp hmem (by rw [hop]; rfl))
    all_goals exact fun hop => exec_remoteMemoryRequest_eq hr (serveRemote_amo hop hexp hmem)
  case response =>
    intro r q hr hq
    refine ⟨fun core hask => ⟨fun hok => ?_, fun hok => ?_⟩, fun key hask => ⟨fun hok honly => ?_, fun hok => ?_⟩⟩
    · exact exec_remoteMemoryResponse_eq hr (remoteAnswer_host_ok hq hask hok)
    · exact exec_remoteMemoryResponse_eq hr (remoteAnswer_host_refused hq hask hok)
    · exact exec_remoteMemoryResponse_eq hr (remoteAnswer_child_ok hq hask hok honly)
    · exact exec_remoteMemoryResponse_eq hr (remoteAnswer_child_refused hq hask hok)
  case coll =>
    intro f hf
    refine ⟨fun key h hc => ⟨fun hn => ?_, fun hn hcr => ?_⟩, fun hn hcr hctx => ⟨fun hback => ?_, fun t hfail hsrc hsend => ?_⟩,
      fun hn hcr hctx => ⟨fun hc hnew hc' => ?_, fun key h hc hold => ?_⟩⟩
    · exact exec_collectiveFlitReceive_eq hf (collReceive_norank hn hc)
    · exact exec_collectiveFlitReceive_eq hf (collReceive_credit hn hcr hc)
    · exact exec_collectiveFlitReceive_eq hf ((collReceive_noContext hn hcr hctx).trans (if_pos hback))
    · have hgo : ¬(f.fail = true ∨ f.srcMod.toNat = s.modid) := by simp [hfail, hsrc]
      refine exec_collectiveFlitReceive_eq hf ((collReceive_noContext hn hcr hctx).trans ((if_neg hgo).trans ?_))
      rw [hsend, Option.getD_some]
    · exact exec_collectiveFlitReceive_eq hf (collReceive_kept hn hcr hctx hc hnew hc')
    · exact exec_collectiveFlitReceive_eq hf (collReceive_stale hn hcr hctx hc hold)
  case stream =>
    intro f hf hgood
    refine ⟨fun hnext hoff => ?_, fun hframe hslice hoff hnext hlost => ?_⟩
    · exact exec_streamFlitReceive_eq hf (streamReceive_first (rx := tget {} s.streams f.head) rfl hgood hnext hoff)
    · exact exec_streamFlitReceive_eq hf (streamReceive_next (rx := tget {} s.streams f.head) rfl hgood hframe hslice hoff hnext hlost)
  case route => exact exec_next (exec_routeWrite s) (routeWrite_eq _)
  case reserved => exact fun k hk hrun hres => exec_next (exec_hostReservedAccess s) (hostReservedAccess_faults hk hrun hres)
  case regIdle => exact fun hrun => exec_next (exec_registerWrite s) (registerWrite_idle hrun)
  case register =>
    intro hrun
    refine ⟨fun hreg => ?_, fun b k off hreg => ?_, fun b k off hreg hb => ?_⟩
    · exact exec_next (exec_registerWrite s) (registerWrite_none hrun hreg)
    · exact exec_next (exec_registerWrite s) (registerWrite_some hrun hreg)
    · exact exec_next (exec_registerWrite s) ((registerWrite_some hrun hreg).trans (regWrite_readOnly hb))
  case reset =>
    intro i hi
    have hexec : exec i s = .next (rebooted s) := by
      rcases List.mem_pair.mp hi with rfl | rfl
      · exact exec_powerOnReset s
      · exact exec_resetRequest s
    obtain ⟨hcur, hslw, hgroups, hkernels, hchildren, hmem, hpond, hls, htlb, hctx, hqueue, hfwA, hcfgA, hfwB, hcfgB⟩ := rebooted_clears s
    refine ⟨rebooted s, hexec, hcur, hslw, hgroups, hkernels, hchildren, hmem, hpond, hls, htlb, hctx, hqueue, hfwA, hcfgA, hfwB, hcfgB,
      rebooted_noKey, fun key hkey => ⟨rebooted_neither hkey, fun f c hA hf hc => ?_, fun f c hA hB hf hc => ?_⟩⟩
    · rw [rebooted_slotA hkey hA hf hc]
      refine ⟨bootSlot_slot f c, fun hcfg => ?_, fun hcfg hmode => bootSlot_enters (s := resetModule s) hcfg hmode rfl⟩
      rw [bootSlot_badConfig (s := resetModule s) hcfg]
      exact ⟨rfl, rfl⟩
    · rw [rebooted_slotB hkey hA hB hf hc]
      refine ⟨bootSlot_slot f c, fun hcfg hmode => ?_⟩
      obtain ⟨hm, hcoming, herr, hbooted, -⟩ := bootSlot_enters (s := resetModule s) (slot := true) (err := 1) hcfg hmode rfl
      exact ⟨hm, hcoming, herr, hbooted⟩
  case upload =>
    intro fw cfg key hdata hkey hmode herr hfw hcfg
    refine ⟨_, exec_next (exec_imageUpload s) (imageUpload_accepts hdata hkey hmode herr hfw hcfg), ?_⟩
    obtain ⟨-, -, -, -, -, -, -, -, -, -, -, hfwA, hcfgA, hfwB, -⟩ :=
      rebooted_clears (flashed s fw cfg)
    refine ⟨hfwA, hcfgA, hfwB, ?_⟩
    rw [rebooted_slotA (s := flashed s fw cfg) hkey hfw rfl rfl]
    exact bootSlot_slot fw cfg
  case ageing => exact fun h => exec_next (exec_ageingUpdate s) (ageingUpdate_lowers h)
  case attest =>
    intro hidle
    exact ⟨fun hbuf => ⟨_, exec_attestationReport s, attestationReport_reports hidle hbuf⟩,
      fun hbuf => exec_next (exec_attestationReport s) (attestationReport_refuses hidle hbuf)⟩
  case hostIdle => exact fun a ha hrun => exec_next (exec_hostMemoryAccess s) (hostMemoryAccess_idle ha hrun)
  case host =>
    intro a ha hrun
    have hlocal (hop : a.op ≠ .fence) (hsize) (hfit) (hmem) {t : State} (h : hostLocal s a = t) : exec .hostMemoryAccess s = .next t :=
      exec_next (exec_hostMemoryAccess s) ((hostMemoryAccess_local ha hrun hop hsize hfit hmem).trans h)
    have hamo (hsize) (hfit) (hmem) (hdie) (hop : isAmo a.op) {x : Nat}
        (hx : amoValue a.op a.size (leNat (readHome s a.pa.toNat a.size)) a.value.toNat = x) :
        exec .hostMemoryAccess s = .next (hostAmo s a x) :=
      hlocal hop.ne_fence hsize hfit hmem (hx ▸ hostLocal_amo hdie hop)
    have hremote (hop : a.op ≠ .fence) (hsize) (hfit) (hmem) (hrem) {t : State} (h : hostRemote s a = t) :
        exec .hostMemoryAccess s = .next t :=
      exec_next (exec_hostMemoryAccess s) ((hostMemoryAccess_remote ha hrun hop hsize hfit hmem hrem).trans h)
    refine ⟨fun hop => ?fence, fun hop hsize hfit hmem hdie => ?unreachable,
      fun hsize hfit hmem hdie => ⟨fun hop => ?load, fun hop hwf => ?store, fun hop => ?swap, fun hop => ?add, fun hop => ?and, fun hop => ?or⟩,
      fun hsize hfit hmem hrem t => ⟨fun hop hask => ?remoteLoad, fun hop hask => ?remoteStore, fun hop hask => ?remoteAmo⟩,
      fun hop hsize hfit hmem hrem hreg => ?unbacked⟩
    case fence => exact exec_next (exec_hostMemoryAccess s) (hostMemoryAccess_fence ha hrun hop)
    case unreachable => exact hlocal hop hsize hfit hmem ((hostLocal_unreachable hdie).trans accessFault_eq)
    case load => exact hlocal (by simp [hop]) hsize hfit hmem (hostLocal_load hdie hop)
    case store => exact ⟨_, hlocal (by simp [hop]) hsize hfit hmem (hostLocal_store hdie hop), hostStore_mem hwf⟩
    case swap => exact hamo hsize hfit hmem hdie (.inl hop) (by rw [hop]; rfl)
    case add => exact hamo hsize hfit hmem hdie (.inr (.inl hop)) (by rw [hop]; rfl)
    case and => exact hamo hsize hfit hmem hdie (.inr (.inr (.inl hop))) (by rw [hop]; rfl)
    case or => exact hamo hsize hfit hmem hdie (.inr (.inr (.inr hop))) (by rw [hop]; rfl)
    case remoteLoad => exact hremote (by simp [hop]) hsize hfit hmem hrem (hostRemote_load hop hask)
    case remoteStore => exact hremote (by simp [hop]) hsize hfit hmem hrem (hostRemote_store hop hask)
    case remoteAmo => exact hremote (isAmo.ne_fence hop) hsize hfit hmem hrem (hostRemote_amo hop hask)
    case unbacked =>
      exact exec_next (exec_hostMemoryAccess s)
        ((hostMemoryAccess_unbacked ha hrun hop hsize hfit hmem hrem hreg).trans accessFault_eq)

end Sys2Proof.Laws.ModuleEvents
end

section
/-! SUPPORT. BUNDLE_ISSUE: what the picker's step does in each of its cases, and the statement O49 that is assembled from them. -/

namespace Sys2Proof.Laws.BundleOpening

open Sys2Proof.Machine Sys2Proof.Safety Sys2Proof.Laws

/-- BUNDLE_ISSUE of a module that computes is the picker's step of the sequencer that it names. -/
theorem exec_bundleIssue {s : State} (hmode : s.boot.mode = 1 ∨ s.boot.mode = 3) :
    exec .bundleIssue s = .next (issueFrom s (s.args.n % 1024)) := by
  have hcomputes : computes s = true := by simpa [computes] using hmode
  exact congrArg Host.Outcome.next (if_pos hcomputes)

/-- Whether a sequencer holds a group that is ready (R133). -/
def anyReady (s : State) (seq : Nat) : Bool := (seqGroups s seq).any fun e => groupReady s e.1 e.2

theorem anyReady_iff {s : State} {seq : Nat} :
    anyReady s seq = true ↔ ∃ e ∈ seqGroups s seq, groupReady s e.1 e.2 = true := List.any_eq_true

section
variable {s : State} {seq : Nat} (hcur : s.cur = none)
include hcur

/-- With no group ready the picker does nothing. -/
theorem issueFrom_noneReady (hready : anyReady s seq = false) : issueFrom s seq = s := by
  unfold anyReady at hready
  simp only [issueFrom, hcur, hready, Bool.not_false, if_true]

/-- A sequencer whose turn is gone lets a ck pass (R14, R134). -/
theorem issueFrom_turnGone (hready : anyReady s seq = true) (hgone : seq % 4 < (getCore s (seq / 4)).turn) :
    issueFrom s seq = advanceCk s (seq / 4) (min (ckRoom s (seq / 4) 2) 1) := by
  unfold anyReady at hready
  simp only [issueFrom, hcur, hready, Bool.not_true, Bool.false_eq_true, if_false, hgone, if_true]

/-- The group that is picked opens its next bundle, if it is active or there is room for the ck that wakes it (R133, R493). -/
theorem issueFrom_picks {loc : Nat} {g : Group} (hready : anyReady s seq = true)
    (hturn : ¬seq % 4 < (getCore s (seq / 4)).turn) (hpick : pickGroup s seq = some (loc, g))
    (hroom : 2 ≤ ckRoom s (seq / 4) 2 ∨ loc % 64 ∈ (getSeq s seq).active) :
    issueFrom s seq = openBundle s loc (pickPath s loc g) := by
  unfold anyReady at hready
  have hwakes : (decide (ckRoom s (seq / 4) 2 < 2) && !(getSeq s seq).active.contains (loc % 64)) = false := by
    rcases hroom with hck | hactive
    · rw [decide_eq_false (by omega), Bool.false_and]
    · simp [hactive]
  simp only [issueFrom, hcur, hready, Bool.not_true, Bool.false_eq_true, if_false, hturn, hpick, hwakes]

end

/-- A path that is neither to trap nor to be passed over opens at its pc the words that it fetches (R53). -/
theorem openBundle_fetched {s s' : State} {loc p : Nat} {g : Group} {ws : List Word} (hg : getGroup s loc = some g)
    (hfetch : fetchWords s loc g.ctx (pathAt g p).pc 8 = (s', .ok ws)) (hrej : (pathAt g p).rejected = none)
    (hdoom : (pathAt g p).doomed = none) (hskip : (g.skip && g.hndPath == p) = false) :
    openBundle s loc p =
      { s' with cur := some { openIssue loc p (pathAt g p).pc ws with soft := softStrike s.args } } := by
  simp only [openBundle, hg, hfetch, hrej, hdoom, hskip]

/-- Settles O49: the three cases of the picker's step. -/
theorem bundleOpening : Obligations.BundleOpening := by
  intro s s' loc g ws hmode hcur seq room gone ready p pt
  rw [exec_bundleIssue hmode]
  refine ⟨fun hnone => ?_, fun hready hgone => ?_, fun hready hturn hpick hg hroom hfetch hrej hdoom hskip => ?_⟩
  · rw [issueFrom_noneReady hcur (Bool.eq_false_iff.mpr (mt anyReady_iff.mp hnone))]
  · rw [issueFrom_turnGone hcur (anyReady_iff.mpr hready) hgone]
  · rw [issueFrom_picks hcur (anyReady_iff.mpr hready) hturn hpick hroom, openBundle_fetched hg hfetch hrej hdoom hskip]
    rfl

end Sys2Proof.Laws.BundleOpening
end

section
/-! SUPPORT. Groups and their paths: what a change of one group leaves of the others, what a path's slot holds after the
operations on it, and how its waits stand after ck have passed (R133, R146, R358, R366). -/

namespace Sys2Proof.Laws

open Sys2Proof.Machine

/-! ## Other entries of a table -/

/-- Replacing an entry that is listed leaves every other key as it was, whatever the table. -/
theorem tget_tput_ne_some {α : Type} [DecidableEq α] {d : α} {t : Tbl α} {k j : Nat} {v : α} (hk : tget d t k ≠ d) (hv : v ≠ d)
    (hj : j ≠ k) : tget d (tput d t k v) j = tget d t j := by
  induction t with
  | nil => exact absurd rfl hk
  | cons e t ih =>
    obtain ⟨k', w⟩ := e
    by_cases heq : k' = k
    · simp [tput, heq, hv, tget, hj.symm]
    · by_cases hlt : k < k'
      · exact absurd (by simp [tget, heq, hlt]) hk
      · simp only [tget, heq, hlt, if_false] at hk
        simp only [tput, heq, hlt, if_false, tget, ih hk]

theorem getGroup_modGroup (s : State) (n : Nat) (f : Group → Group) : getGroup (modGroup s n f) n = (getGroup s n).map f := by
  cases h : getGroup s n with
  | none => rw [modGroup_none f h, h, Option.map_none]
  | some g => rw [modGroup_some f h, getGroup_putGroup, Option.map_some]

theorem getGroup_modGroup_ne (s : State) (n m : Nat) (f : Group → Group) (hm : m ≠ n) :
    getGroup (modGroup s n f) m = getGroup s m := by
  cases h : getGroup s n with
  | none => rw [modGroup_none f h]
  | some g =>
    rw [modGroup_some f h]
    exact tget_tput_ne_some (by rw [show tget none s.groups n = some g from h]; simp) (by simp) hm

/-- A group after the groups that a test picks have been rewritten. -/
theorem getGroup_mapGroups (s : State) (on : Nat → Bool) (f : Nat → Group → Group) (n : Nat) :
    getGroup (mapGroups s on f) n = (getGroup s n).map fun g => if on n then f n g else g := by
  simp only [getGroup, mapGroups]
  generalize s.groups = t
  induction t with
  | nil => rfl
  | cons e t ih =>
    obtain ⟨k, o⟩ := e
    by_cases hk : k = n
    · cases o with
      | none => simp [tget, hk]
      | some g => cases hon : on n <;> simp [tget, hk, hon]
    · by_cases hlt : n < k
      · cases o with
        | none => simp [tget, hk, hlt]
        | some g => cases hon : on k <;> simp [tget, hk, hlt, hon]
      · cases o with
        | none => simpa [tget, hk, hlt] using ih
        | some g => cases hon : on k <;> simpa [tget, hk, hlt, hon] using ih

/-- A part of a state that no step of a fold changes. -/
theorem foldl_unchanged {σ α β : Type} {read : σ → β} {f : σ → α → σ} (h : ∀ s a, read (f s a) = read s) (l : List α)
    (s : σ) : read (l.foldl f s) = read s := by
  induction l generalizing s with
  | nil => rfl
  | cons a l ih => exact (ih _).trans (h s a)

/-! ## The two path slots -/

@[simp] theorem pathAt_putPath (g : Group) (p : Nat) (x : Path) : pathAt (putPath g p x) p = x := by
  unfold pathAt putPath
  split <;> rfl

/-- What a slot holds after a slot has been written: the new path or what it held. -/
theorem pathAt_putPath_or (g : Group) (p i : Nat) (x : Path) :
    pathAt (putPath g p x) i = x ∨ pathAt (putPath g p x) i = pathAt g i := by
  unfold pathAt putPath
  split <;> split <;> simp

/-- What a slot holds after a path has been changed: its own path, changed or not. -/
theorem pathAt_modPath_or (g : Group) (p i : Nat) (f : Path → Path) :
    pathAt (modPath g p f) i = f (pathAt g i) ∨ pathAt (modPath g p f) i = pathAt g i := by
  unfold modPath pathAt putPath
  split <;> split <;> simp

/-- Two different paths are all that a group holds. -/
theorem pathAt_cover {g : Group} {p q : Nat} (h : pathAt g p ≠ pathAt g q) (i : Nat) :
    pathAt g i = pathAt g p ∨ pathAt g i = pathAt g q := by
  unfold pathAt at h ⊢
  split_ifs at h ⊢ <;> simp_all

@[simp] theorem pathAt_modPath (g : Group) (p : Nat) (f : Path → Path) : pathAt (modPath g p f) p = f (pathAt g p) :=
  pathAt_putPath g p _

/-- Writing what a slot holds changes nothing. -/
theorem modPath_id {g : Group} {p : Nat} {f : Path → Path} (h : f (pathAt g p) = pathAt g p) : modPath g p f = g := by
  rw [modPath, h]
  unfold putPath pathAt
  split <;> rfl

@[simp] theorem modPath_inflight (g : Group) (p : Nat) (f : Path → Path) : (modPath g p f).inflight = g.inflight := by
  unfold modPath putPath
  split <;> rfl

@[simp] theorem pathAt_tickGroup (n : Nat) (g : Group) (p : Nat) : pathAt (tickGroup n g) p = tickPath n (pathAt g p) := by
  unfold pathAt tickGroup
  split <;> rfl

/-! ## Waits that end -/

/-- A path that does not stand at JOIN has no region to close (R148). -/
theorem settleJoin_of_ne_join {g : Group} {p : Nat} (h : (pathAt g p).st ≠ .join) : settleJoin g p = g := by
  unfold settleJoin
  cases hr : innermost g (pathAt g p) with
  | none => simp only [hr]
  | some r =>
    simp only [hr]
    exact if_pos (by simp [h])

/-- The waits of a path that does not stand at JOIN end, and nothing else of its group changes. -/
theorem endWaits_of_ne_join {g : Group} {p : Nat} (f : Wait → Bool) (h : (pathAt g p).st ≠ .join) :
    endWaits g p f = modPath g p fun pt => { pt with waits := pt.waits.filter fun w => !f w, heldAt := none, held := 0 } :=
  settleJoin_of_ne_join (by rwa [pathAt_modPath])

/-! ## Ck that pass (R358, R366) -/

/-- The waits run down over two spans of ck as over their sum. -/
theorem tickWait_tickWait (a b : Nat) (w : Wait) : tickWait a (tickWait b w) = tickWait (b + a) w := by
  cases w with
  | waitevt e =>
    simp only [tickWait, Wait.waitevt.injEq, EvtWait.mk.injEq, true_and, and_true]
    split
    · simp
    · rw [if_neg (by omega)]
      omega
  | _ => rfl

@[simp] theorem tickWait_zero (w : Wait) : tickWait 0 w = w := by
  cases w with
  | waitevt e =>
    have hlimit : (if e.limit = 0 then 0 else max 1 (e.limit - 0)) = e.limit := by
      split <;> omega
    simp only [tickWait, hlimit]
  | _ => rfl

/-- A path after `n` ck in which nothing but time has acted on it. -/
structure Ticked (n : Nat) (x y : Path) : Prop where
  st : y.st = x.st
  depth : y.depth = x.depth
  mask : y.mask = x.mask
  waits : y.waits = x.waits.map (tickWait n)

theorem Ticked.zero (x : Path) : Ticked 0 x x := ⟨rfl, rfl, rfl, by simp [show tickWait 0 = id from funext tickWait_zero]⟩

theorem Ticked.trans {a b : Nat} {x y z : Path} (h : Ticked a x y) (k : Ticked b y z) : Ticked (a + b) x z :=
  ⟨k.st.trans h.st, k.depth.trans h.depth, k.mask.trans h.mask, by
    rw [k.waits, h.waits, List.map_map]
    exact List.map_congr_left fun w _ => tickWait_tickWait b a w⟩

theorem chargeStatic_groups (s : State) (core n : Nat) : (chargeStatic s core n).groups = s.groups := by
  apply foldl_unchanged (read := State.groups)
  exact fun _ _ => rfl

/-- A group with the ck counted in which it could issue and did not (R134). -/
def passedOver (s : State) (core n l : Nat) (g : Group) : Group :=
  if groupReady s l g then { g with passed := g.passed + passedIn n (decide (seqOf l % 4 < (getCore s core).turn)) g } else g

@[simp] theorem pathAt_passedOver (s : State) (core n l : Nat) (g : Group) (p : Nat) :
    pathAt (passedOver s core n l g) p = pathAt g p := by
  unfold passedOver
  split <;> rfl

/-- The ck that pass on a core act on the groups of that core. -/
theorem passCk_groups (s : State) (core n : Nat) : (passCk s core n).groups =
    (mapGroups s (fun l => coreOf l == core) fun l g => tickGroup n (passedOver s core n l g)).groups := by
  exact chargeStatic_groups _ core n

/-- A resident group on a core of which `n` ck pass. -/
theorem passCk_group {s : State} {loc : Nat} {g : Group} (hg : getGroup s loc = some g) (n : Nat) :
    ∃ h, getGroup (passCk s (coreOf loc) n) loc = some h ∧ ∀ p, Ticked n (pathAt g p) (pathAt h p) := by
  refine ⟨tickGroup n (passedOver s (coreOf loc) n loc g), ?_, fun p => ?_⟩
  · rw [getGroup, passCk_groups]
    refine (getGroup_mapGroups s _ _ loc).trans ?_
    rw [hg, Option.map_some, if_pos (beq_self_eq_true _)]
  · rw [pathAt_tickGroup, pathAt_passedOver]
    exact ⟨rfl, rfl, rfl, rfl⟩

theorem advanceCk_group {s : State} {loc : Nat} {g : Group} (hg : getGroup s loc = some g) (n : Nat) :
    ∃ h, getGroup (advanceCk s (coreOf loc) n) loc = some h ∧ ∀ p, Ticked n (pathAt g p) (pathAt h p) := by
  unfold advanceCk
  split
  · exact passCk_group hg n
  · obtain ⟨k, hk, hgk⟩ := passCk_group hg (n - 64)
    obtain ⟨h, hh, hkh⟩ := passCk_group hk 64
    refine ⟨h, hh, fun p => ?_⟩
    have hsum := (hgk p).trans (hkh p)
    rwa [Nat.sub_add_cancel (by omega)] at hsum

/-- A context's stop cuts short the ck that pass (R493). -/
theorem afterCk_cut {s : State} {core n : Nat} (f : State → State) (h : ckRoom s core n < n) :
    afterCk s core n f = advanceCk s core (ckRoom s core n) := if_pos h

/-- With room for the ck, they pass and what was to follow does. -/
theorem afterCk_passes {s : State} {core n : Nat} (f : State → State) (h : n ≤ ckRoom s core n) :
    afterCk s core n f = f (if n = 0 then s else advanceCk s core n) := if_neg (by omega)

end Sys2Proof.Laws
end

section
/-! SUPPORT. The end of a bank-mode fence: the banks that it drains, and why the barrier waits that a drain ends leave the fenced path
to its fence (R148, R150, R215). -/

namespace Sys2Proof.Laws

open Sys2Proof.Machine

/-! ## What the closing of a region leaves in the path slots -/

/-- Each slot of `h` holds what it holds in `g`, or a path that does not stand at JOIN and has waits of `g`'s two paths only. -/
def PathsFrom (g h : Group) : Prop :=
  ∀ i, pathAt h i = pathAt g i ∨ ((pathAt h i).st ≠ .join ∧ ∀ w ∈ (pathAt h i).waits, ∃ j, w ∈ (pathAt g j).waits)

theorem PathsFrom.of_eq {g h : Group} (e : ∀ i, pathAt h i = pathAt g i) : PathsFrom g h := fun i => .inl (e i)

theorem PathsFrom.trans {g h k : Group} (a : PathsFrom g h) (b : PathsFrom h k) : PathsFrom g k := by
  have hwaits (j : Nat) (w : Wait) (hw : w ∈ (pathAt h j).waits) : ∃ j, w ∈ (pathAt g j).waits := by
    rcases a j with e | ⟨-, hj⟩
    · exact ⟨j, e ▸ hw⟩
    · exact hj w hw
  intro i
  rcases b i with e | ⟨hst, hfrom⟩
  · rw [e]
    exact a i
  · refine .inr ⟨hst, fun w hw => ?_⟩
    obtain ⟨j, hj⟩ := hfrom w hw
    exact hwaits j w hj

/-- A slot takes a path that does not stand at JOIN, with waits of the group's paths. -/
theorem PathsFrom.put {g h : Group} (a : PathsFrom g h) (p : Nat) {x : Path} (hst : x.st ≠ .join)
    (hw : ∀ w ∈ x.waits, ∃ j, w ∈ (pathAt g j).waits) : PathsFrom g (putPath h p x) := by
  intro i
  rcases pathAt_putPath_or h p i x with e | e
  · rw [e]
    exact .inr ⟨hst, hw⟩
  · rw [e]
    exact a i

theorem PathsFrom.clear {g h : Group} (a : PathsFrom g h) (p : Nat) : PathsFrom g (putPath h p {}) :=
  a.put p (by decide) (by simp)

theorem pathAt_modRegion (g : Group) (tok : Word) (m : LaneMask) (f : Region → Region) (i : Nat) :
    pathAt (modRegion g tok m f) i = pathAt g i := rfl

theorem pathAt_filePut (g : Group) (key : Nat) (v : Word) (b : Bool) (i : Nat) : pathAt (filePut g key v b) i = pathAt g i := by
  unfold filePut
  split <;> rfl

theorem fillSlot_pathsFrom (g : Group) (p : Nat) : PathsFrom g (fillSlot g p) := by
  unfold fillSlot
  split
  · exact .of_eq fun _ => rfl
  · split
    · exact .of_eq fun _ => rfl
    · refine PathsFrom.put (.of_eq fun i => pathAt_modRegion _ _ _ _ i) p ?_ ?_ <;>
        (split <;> simp [sidePath])

theorem fillSlots_pathsFrom (g : Group) : PathsFrom g (fillSlots g) :=
  (fillSlot_pathsFrom g 0).trans (fillSlot_pathsFrom _ 1)

theorem storeArrived_pathsFrom (g : Group) (p : Nat) (r : Region) : PathsFrom g (storeArrived g p r) :=
  (PathsFrom.clear (.of_eq fun i => pathAt_modRegion _ _ _ _ i) p).trans (fillSlots_pathsFrom _)

theorem closeRegion_pathsFrom (g : Group) (tok : Word) (m : LaneMask) (spare : Nat) :
    PathsFrom g (closeRegion g tok m spare) := by
  unfold closeRegion
  split
  · exact .of_eq fun _ => rfl
  · next r _ =>
    extract_lets d e0 e1 pc sh p waits ws merged clear freed unstacked filed inHandler handled
    have hclear (k : Group) (o : Option Nat) (hk : PathsFrom g k) : PathsFrom g (clear k o) := by
      cases o with
      | none => exact hk
      | some q => exact hk.clear q
    have hunstacked : PathsFrom g unstacked :=
      hclear _ _ (hclear _ _ (.of_eq fun _ => rfl))
    have hfiled : PathsFrom g filed := by
      refine hunstacked.trans (.of_eq fun i => ?_)
      simp only [filed]
      split
      · exact foldl_unchanged (read := fun g => pathAt g i) (fun k e => pathAt_filePut k _ _ _ i) sh unstacked
      · rfl
    have hhandled : PathsFrom g handled := by
      refine hfiled.trans (.of_eq fun i => ?_)
      simp only [handled]
      split <;> rfl
    have hwaits (o : Option Nat) : ∀ w ∈ waits o, ∃ j, w ∈ (pathAt g j).waits := by
      cases o with
      | none => exact fun w hw => absurd hw List.not_mem_nil
      | some q => exact fun w hw => ⟨q, hw⟩
    refine hhandled.put p (by simp) fun w hw => ?_
    rcases List.mem_append.mp hw with hw | hw
    · exact hwaits _ w hw
    · exact hwaits _ w hw

/-! ## JOIN that goes on (R148) -/

/-- Lanes of one side of a region are lanes of the region. -/
theorem meets_or {m m0 m1 : LaneMask} (h : meets m0 m = true ∨ meets m1 m = true) : meets m (m0 ||| m1) = true := by
  simp only [meets, bne_iff_ne, ne_eq] at h ⊢
  intro hnone
  have hside (x : LaneMask) (hx : x &&& (m0 ||| m1) = x) : x &&& m = 0 := by
    rw [← hx, BitVec.and_assoc, BitVec.and_comm _ m, hnone]
    exact BitVec.and_zero
  rcases h with h | h
  · exact h (hside m0 (by ext; simp; tauto))
  · exact h (hside m1 (by ext; simp; tauto))

/-- A path's innermost region is as deep as the path and holds lanes of it (R144). -/
theorem innermost_some {g : Group} {pt : Path} {r : Region} (h : innermost g pt = some r) :
    pt.depth = regionDepth r ∧ meets pt.mask (r.mask0 ||| r.mask1) = true := by
  unfold innermost at h
  split at h
  · exact absurd h (by simp)
  · have hfound := List.find?_some h
    simp only [Bool.and_eq_true, beq_iff_eq, Bool.or_eq_true] at hfound
    exact ⟨hfound.1.symm, meets_or hfound.2⟩

/-- A path that stands at JOIN with a wait keeps its region open. -/
theorem sideWaits_of_wait {g : Group} {p : Nat} {r : Region} (hst : (pathAt g p).st = .join) (hd : (pathAt g p).depth = regionDepth r)
    (hm : meets (pathAt g p).mask (r.mask0 ||| r.mask1) = true) (hw : (pathAt g p).waits ≠ []) : sideWaits g r = true := by
  unfold pathAt at hst hd hm hw
  split at hst <;> simp_all [sideWaits]

theorem settleJoin_pathsFrom (g : Group) (p : Nat) : PathsFrom g (settleJoin g p) := by
  unfold settleJoin
  dsimp only
  split
  · exact .of_eq fun _ => rfl
  · split
    · exact .of_eq fun _ => rfl
    · split
      · exact (closeRegion_pathsFrom _ _ _ _).trans (fillSlots_pathsFrom _)
      · split
        · exact storeArrived_pathsFrom _ _ _
        · exact .of_eq fun _ => rfl

/-- A path that goes on from JOIN has no wait. -/
theorem settleJoin_cases (g : Group) (p : Nat) :
    settleJoin g p = g ∨ ((pathAt g p).st = .join ∧ (pathAt g p).waits = [] ∧ PathsFrom g (settleJoin g p)) := by
  by_cases hst : (pathAt g p).st = .join
  · by_cases hw : (pathAt g p).waits = []
    · exact .inr ⟨hst, hw, settleJoin_pathsFrom g p⟩
    · left
      unfold settleJoin
      cases hr : innermost g (pathAt g p) with
      | none => simp only [hr]
      | some r =>
        obtain ⟨hd, hm⟩ := innermost_some hr
        simp only [hr, sideWaits_of_wait hst hd hm hw, Bool.or_true, if_true]
  · exact .inl (settleJoin_of_ne_join hst)

/-! ## The path that waits for a fence -/

/-- A path whose waits are bank-mode fences, and that does not stand at JOIN. -/
def Fenced (g : Group) (p : Nat) : Prop := (pathAt g p).st ≠ .join ∧ ∀ w ∈ (pathAt g p).waits, ∃ ks, w = .fence ks

/-- A path whose status stands and that takes on no wait stays fenced. -/
theorem Fenced.of_modPath {g : Group} {p : Nat} (h : Fenced g p) (q : Nat) {f : Path → Path} (hst : ∀ x, (f x).st = x.st)
    (hw : ∀ x, ∀ w ∈ (f x).waits, w ∈ x.waits) : Fenced (modPath g q f) p := by
  rcases pathAt_modPath_or g q p f with e | e
  · exact ⟨by rw [e, hst]; exact h.1, fun w hmem => h.2 w (hw _ w (e ▸ hmem))⟩
  · rwa [Fenced, e]

/-- The other path has no wait when it goes on from JOIN, so no wait of it comes to a fenced path. -/
theorem Fenced.of_settleJoin {g : Group} {p : Nat} (h : Fenced g p) (q : Nat) : Fenced (settleJoin g q) p := by
  rcases settleJoin_cases g q with e | ⟨hst, hnone, hfrom⟩
  · rwa [e]
  · have hother : pathAt g p ≠ pathAt g q := fun e => h.1 (e ▸ hst)
    rcases hfrom p with e | ⟨hst', hw⟩
    · rwa [Fenced, e]
    · refine ⟨hst', fun w hmem => ?_⟩
      obtain ⟨j, hj⟩ := hw w hmem
      rcases pathAt_cover hother j with e | e
      · exact h.2 w (e ▸ hj)
      · rw [e, hnone] at hj
        exact absurd hj List.not_mem_nil

theorem Fenced.of_endWaits {g : Group} {p : Nat} (h : Fenced g p) (q : Nat) (f : Wait → Bool) : Fenced (endWaits g q f) p := by
  unfold endWaits
  apply Fenced.of_settleJoin
  apply h.of_modPath q
  · exact fun _ => rfl
  · exact fun x w hw => (List.mem_filter.mp hw).1

/-- The group at a place is resident and a path of it is fenced. -/
def FencedAt (s : State) (loc p : Nat) : Prop := ∃ g, getGroup s loc = some g ∧ Fenced g p

/-- A barrier wait on a drained bank ends with a trap to come (R215); without such a wait nothing changes. -/
theorem breakBarb_cases (s : State) (keys : List Nat) (loc p : Nat) :
    breakBarb s keys loc p = s ∨ ∃ hit, breakBarb s keys loc p =
      modGroup s loc fun g => modPath (endWaits g p hit) p fun pt => { pt with doomed := some 2 } := by
  unfold breakBarb
  split
  · exact .inl rfl
  · dsimp only
    split
    · exact .inr ⟨_, rfl⟩
    · exact .inl rfl

theorem FencedAt.of_breakBarb {s : State} {loc p : Nat} (h : FencedAt s loc p) (keys : List Nat) (l q : Nat) :
    FencedAt (breakBarb s keys l q) loc p := by
  obtain ⟨g, hg, hp⟩ := h
  rcases breakBarb_cases s keys l q with e | ⟨hit, e⟩
  · rw [e]
    exact ⟨g, hg, hp⟩
  · rw [e]
    by_cases hl : loc = l
    · subst hl
      refine ⟨_, by rw [getGroup_modGroup, hg, Option.map_some], ?_⟩
      exact (hp.of_endWaits q hit).of_modPath q (fun _ => rfl) fun _ _ hw => hw
    · exact ⟨g, by rw [getGroup_modGroup_ne _ _ _ _ hl, hg], hp⟩

theorem breakBarb_banks (s : State) (keys : List Nat) (loc p : Nat) : (breakBarb s keys loc p).banks = s.banks := by
  rcases breakBarb_cases s keys loc p with e | ⟨hit, e⟩
  · rw [e]
  · rw [e, modGroup_banks]

/-- Ends the barrier waits on drained banks of all groups. -/
def breakBarbs (s : State) (keys : List Nat) (l : Tbl (Option Group)) : State :=
  l.foldl (fun s e => breakBarb (breakBarb s keys e.1 0) keys e.1 1) s

theorem FencedAt.of_breakBarbs {s : State} {loc p : Nat} (h : FencedAt s loc p) (keys : List Nat) (l : Tbl (Option Group)) :
    FencedAt (breakBarbs s keys l) loc p := by
  induction l generalizing s with
  | nil => exact h
  | cons e l ih => exact ih ((h.of_breakBarb keys e.1 0).of_breakBarb keys e.1 1)

theorem breakBarbs_banks (s : State) (keys : List Nat) (l : Tbl (Option Group)) : (breakBarbs s keys l).banks = s.banks :=
  foldl_unchanged (read := State.banks) (fun s e => by rw [breakBarb_banks, breakBarb_banks]) l s

/-! ## The banks that a fence drains (R215) -/

/-- Drains a bank that a fence holds. -/
def drainFenced (s : State) (k : Nat) : State := if (getBank s k).fencing.isSome then drainBank s k else s

/-- A bank after its fence. -/
def drained (b : Bank) : Bank := { b with mode := b.fencing.getD b.mode, fencing := none, fifo := [] }

theorem drainFenced_groups (s : State) (k : Nat) : (drainFenced s k).groups = s.groups := by
  unfold drainFenced
  split <;> rfl

theorem drainFenced_banks (s : State) (k : Nat) : (drainFenced s k).banks =
    if (getBank s k).fencing.isSome then tput {} s.banks k (drained (getBank s k)) else s.banks := by
  unfold drainFenced
  split <;> rfl

theorem drainFenced_wf {s : State} (k : Nat) (h : tblWf {} s.banks = true) : tblWf {} (drainFenced s k).banks = true := by
  rw [drainFenced_banks]
  split
  · exact tput_wf _ _ _ _ h
  · exact h

theorem getBank_drainFenced {s : State} {k : Nat} (h : tblWf {} s.banks = true) (hk : (getBank s k).fencing.isSome = true) :
    getBank (drainFenced s k) k = drained (getBank s k) := by
  rw [getBank, drainFenced_banks, if_pos hk]
  exact tget_tput _ _ _ _ h

/-- A bank that no fence holds, and every other one, stays as it is. -/
theorem getBank_drainFenced_other {s : State} {k j : Nat} (h : tblWf {} s.banks = true)
    (hj : j ≠ k ∨ (getBank s j).fencing = none) : getBank (drainFenced s k) j = getBank s j := by
  rw [getBank, drainFenced_banks]
  split
  · next hk =>
    have hne : j ≠ k := by
      rcases hj with hne | hnone
      · exact hne
      · rintro rfl
        simp [hnone] at hk
    exact tget_tput_ne _ _ _ _ _ h hne
  · rfl

theorem getBank_drainAll_other {s : State} {j : Nat} (l : List Nat) (h : tblWf {} s.banks = true)
    (hj : (getBank s j).fencing = none) : getBank (l.foldl drainFenced s) j = getBank s j := by
  induction l generalizing s with
  | nil => rfl
  | cons k l ih =>
    have hsame := getBank_drainFenced_other (k := k) h (.inr hj)
    exact (ih (drainFenced_wf k h) (by rw [hsame, hj])).trans hsame

/-- A fence drains each of its banks once. -/
theorem getBank_drainAll {s : State} {j : Nat} {l : List Nat} (h : tblWf {} s.banks = true)
    (hj : (getBank s j).fencing.isSome = true) (hmem : j ∈ l) : getBank (l.foldl drainFenced s) j = drained (getBank s j) := by
  induction l generalizing s with
  | nil => exact absurd hmem List.not_mem_nil
  | cons k l ih =>
    by_cases hk : j = k
    · subst hk
      have hdrained := getBank_drainFenced h hj
      exact (getBank_drainAll_other l (drainFenced_wf j h) (by rw [hdrained, drained])).trans hdrained
    · have hsame := getBank_drainFenced_other (k := k) h (.inl hk)
      refine (ih (drainFenced_wf k h) (by rw [hsame, hj]) ((List.mem_cons.mp hmem).resolve_left hk)).trans ?_
      rw [hsame]

theorem drainAll_groups (s : State) (l : List Nat) : (l.foldl drainFenced s).groups = s.groups :=
  foldl_unchanged (read := State.groups) drainFenced_groups l s

end Sys2Proof.Laws
end

section
/-! SUPPORT. The retirement of a group: its steps leave the kernels as they are until the kernel's count of live groups falls, and the
group's place is free at the end (R129, R133). -/

namespace Sys2Proof.Laws

open Sys2Proof.Machine

/-- What the steps of a retirement keep: the kernels, and the canonical form of the table of groups. -/
structure KeepsKernels (s t : State) : Prop where
  kernels : t.kernels = s.kernels
  groups : tblWf none s.groups = true → tblWf none t.groups = true

namespace KeepsKernels

theorem refl (s : State) : KeepsKernels s s := ⟨rfl, id⟩

theorem trans {s t u : State} (a : KeepsKernels s t) (b : KeepsKernels t u) : KeepsKernels s u :=
  ⟨b.kernels.trans a.kernels, b.groups ∘ a.groups⟩

theorem of_eq {s t : State} (hk : t.kernels = s.kernels) (hg : t.groups = s.groups) : KeepsKernels s t :=
  ⟨hk, fun h => hg ▸ h⟩

theorem foldl {α : Type} {f : State → α → State} (h : ∀ s a, KeepsKernels s (f s a)) (l : List α) (s : State) :
    KeepsKernels s (l.foldl f s) := by
  induction l generalizing s with
  | nil => exact refl s
  | cons a l ih => exact (h s a).trans (ih _)

end KeepsKernels

theorem putGroup_keepsKernels (s : State) (loc : Nat) (g : Group) : KeepsKernels s (putGroup s loc g) :=
  ⟨rfl, tput_wf none s.groups loc (some g)⟩

theorem putCtx_keepsKernels (s : State) (c : Nat) (x : Context) : KeepsKernels s (putCtx s c x) := .of_eq rfl rfl

theorem putChild_keepsKernels (s : State) (key : Nat) (h : Child) : KeepsKernels s (putChild s key h) := .of_eq rfl rfl

theorem modSet_keepsKernels (s : State) (c : Nat) (launch set : Word) (f : SetRec → SetRec) :
    KeepsKernels s (modSet s c launch set f) := .of_eq rfl rfl

theorem modCore_keepsKernels (s : State) (n : Nat) (f : Core → Core) : KeepsKernels s (modCore s n f) := .of_eq rfl rfl

/-! ## Writes at the home and records -/

/-- Rewriting the groups of a table in place keeps its canonical form. -/
theorem tblWf_map_groups (f : Group → Group) (t : Tbl (Option Group)) (h : tblWf none t = true) :
    tblWf none (t.map fun e => (e.1, e.2.map f)) = true := by
  have habove (n : Nat) (t : Tbl (Option Group)) (h : Above n t) : Above n (t.map fun e => (e.1, e.2.map f)) := by
    cases t with
    | nil => trivial
    | cons e t => exact h
  induction t with
  | nil => rfl
  | cons e t ih =>
    obtain ⟨hne, hlow, htail⟩ := (tblWf_cons none e.1 e.2 t).mp h
    exact (tblWf_cons none e.1 _ _).mpr ⟨by simpa using hne, habove _ t hlow, ih htail⟩

theorem writeBy_keepsKernels (a : Agent) (s : State) (pa : Nat) (bs : List Byte) : KeepsKernels s (writeBy a s pa bs) :=
  ⟨rfl, tblWf_map_groups _ s.groups⟩

theorem postRecord_keepsKernels (s : State) (c : Nat) (bytes : List Byte) : KeepsKernels s (postRecord s c bytes) := by
  unfold postRecord
  dsimp only
  split
  · exact putCtx_keepsKernels _ _ _
  · exact (writeBy_keepsKernels .queue s _ bytes).trans (putCtx_keepsKernels _ _ _)

theorem modChild_keepsKernels (s : State) (key : Nat) (f : Child → Child) : KeepsKernels s (modChild s key f) := by
  unfold modChild
  split <;> exact .of_eq rfl rfl

/-! ## The group's children -/

theorem freeChild_keepsKernels (s : State) (key : Nat) : KeepsKernels s (freeChild s key) := by
  unfold freeChild
  split <;> exact .of_eq rfl rfl

theorem adoptChild_keepsKernels (s : State) (orph key : Nat) : KeepsKernels s (adoptChild s orph key) := by
  unfold adoptChild
  split
  · exact .refl s
  · next h _ =>
    have hput := putChild_keepsKernels s key { h with adopted := true }
    extract_lets adopted x
    split
    · exact hput
    · split
      · exact hput.trans (postRecord_keepsKernels _ _ _)
      · exact (hput.trans ((writeBy_keepsKernels .queue _ _ _).trans (putCtx_keepsKernels _ _ _))).trans
          (modChild_keepsKernels _ _ _)

/-! ## The group's records -/

theorem wakeCtx_keepsKernels (s : State) (c : Nat) (f : Park → Bool) : KeepsKernels s (wakeCtx s c f) := by
  apply KeepsKernels.foldl
  exact fun s e => putGroup_keepsKernels s e.1 _

theorem putRq_keepsKernels (s : State) (c rq : Nat) (old r : RecQueue) : KeepsKernels s (putRq s c rq old r) := by
  unfold putRq
  dsimp only
  split
  · exact (putCtx_keepsKernels _ _ _).trans (wakeCtx_keepsKernels _ _ _)
  · exact putCtx_keepsKernels _ _ _

theorem modRq_keepsKernels (s : State) (c rq : Nat) (f : RecQueue → RecQueue) : KeepsKernels s (modRq s c rq f) := by
  unfold modRq
  split
  · exact .refl s
  · exact putRq_keepsKernels _ _ _ _ _

theorem sendBatch_keepsKernels (s : State) (c rq : Nat) (r : RecQueue) (n : Nat) : KeepsKernels s (sendBatch s c rq r n) := by
  unfold sendBatch
  dsimp only
  split
  · exact putRq_keepsKernels _ _ _ _ _
  · exact (putRq_keepsKernels _ _ _ _ _).trans (.of_eq rfl rfl)

theorem deliverBatches_keepsKernels (s : State) (c rq fuel : Nat) : KeepsKernels s (deliverBatches s c rq fuel) := by
  induction fuel generalizing s with
  | zero => exact .refl s
  | succ fuel ih =>
    unfold deliverBatches
    split
    · exact .refl s
    · dsimp only
      split
      · exact (sendBatch_keepsKernels _ _ _ _ _).trans (ih _)
      · split
        · exact sendBatch_keepsKernels _ _ _ _ _
        · exact .refl s

theorem deliver_keepsKernels (s : State) (c rq : Nat) : KeepsKernels s (deliver s c rq) := by
  unfold deliver
  split
  · exact .refl s
  · split
    · exact putRq_keepsKernels _ _ _ _ _
    · exact deliverBatches_keepsKernels _ _ _ _

theorem voidReservations_keepsKernels (s : State) (c : Nat) (launch gidx : Word) :
    KeepsKernels s (voidReservations s c launch gidx) := by
  refine .foldl (fun s e => ?_) _ s
  split
  · exact .refl s
  · dsimp only
    split
    · exact .refl s
    · exact (modRq_keepsKernels _ _ _ _).trans (deliver_keepsKernels _ _ _)

theorem leaveRecords_keepsKernels (s : State) (g : Group) : KeepsKernels s (leaveRecords s g) :=
  (voidReservations_keepsKernels s _ _ _).trans (.foldl (fun s _ => modRq_keepsKernels s _ _ _) g.held _)

/-! ## The group's place -/

theorem releaseBar_keepsKernels (s : State) (r : SetRec) (phase : Nat) : KeepsKernels s (releaseBar s r phase) := by
  refine .foldl (fun s e => ?_) _ s
  dsimp only
  split
  · exact (putGroup_keepsKernels s e.1 _).trans (.of_eq rfl rfl)
  · exact .refl s

theorem completePhase_keepsKernels (s : State) (r : SetRec) : KeepsKernels s (completePhase s r) := by
  unfold completePhase
  split
  · exact (modSet_keepsKernels _ _ _ _ _).trans (releaseBar_keepsKernels _ _ _)
  · exact .refl s

theorem leaveBar_keepsKernels (s : State) (g : Group) : KeepsKernels s (leaveBar s g) := by
  unfold leaveBar
  split
  · exact .refl s
  · dsimp only
    split
    · exact (modSet_keepsKernels _ _ _ _ _).trans (completePhase_keepsKernels _ _)
    · exact modSet_keepsKernels _ _ _ _ _

theorem passTiles_keepsKernels (s : State) (core : Nat) (from_ : TileHolder) (on : Nat → Child → Bool) :
    KeepsKernels s (passTiles s core from_ on) := by
  unfold passTiles
  exact modCore_keepsKernels s core _

/-- Two states with the same groups and kernels. -/
structure SameTables (s t : State) : Prop where
  groups : t.groups = s.groups
  kernels : t.kernels = s.kernels

theorem SameTables.trans {s t u : State} (a : SameTables s t) (b : SameTables t u) : SameTables s u :=
  ⟨b.groups.trans a.groups, b.kernels.trans a.kernels⟩

/-- A group that leaves its core is gone from the table of groups, whatever its barrier's other groups do. -/
theorem leaveCore_drops (s : State) (loc : Nat) (g : Group) :
    ∃ u, KeepsKernels s u ∧ SameTables (dropGroup u loc) (leaveCore s loc g) := by
  unfold leaveCore
  extract_lets core passed freed left dropped inactive
  have hfreed : KeepsKernels s freed := (passTiles_keepsKernels s _ _ _).trans (modCore_keepsKernels passed _ _)
  have hinactive : SameTables (dropGroup left loc) inactive := ⟨rfl, rfl⟩
  refine ⟨left, hfreed.trans (leaveBar_keepsKernels freed g), hinactive.trans ?_⟩
  split
  · exact ⟨rfl, rfl⟩
  · split
    · exact ⟨rfl, rfl⟩
    · extract_lets cleared
      have hcleared : SameTables inactive cleared := by
        constructor
        · apply foldl_unchanged (read := State.groups)
          exact fun _ _ => rfl
        · apply foldl_unchanged (read := State.kernels)
          exact fun _ _ => rfl
      exact hcleared.trans ⟨rfl, rfl⟩

/-! ## The kernel -/

/-- The kernel that a launch names, after its entry has been changed within its context and launch. -/
theorem getKernel_modKernel {s : State} {c : Nat} {launch : Word} {k : Kernel} {f : Kernel → Kernel}
    (h : getKernel s c launch = some k) (hf : ∀ k, (f k).ctx = k.ctx ∧ (f k).launch = k.launch) :
    getKernel (modKernel s c launch f) c launch = some (f k) := by
  unfold getKernel modKernel at *
  have hk := List.find?_some h
  have hsame (x : Kernel) : ((fun k : Kernel => k.ctx == c && k.launch == launch) ∘ fun k =>
      if (k.ctx == c && k.launch == launch) = true then f k else k) x = (x.ctx == c && x.launch == launch) := by
    simp only [Function.comp]
    split
    · rw [(hf x).1, (hf x).2]
    · rfl
  rw [List.find?_map, funext hsame, h, Option.map_some, if_pos hk]

/-- A running kernel with live groups stays as it is (R128). -/
theorem kernelCheck_live {s : State} {c : Nat} {launch : Word} {k : Kernel} (h : getKernel s c launch = some k)
    (hrun : k.st = .running) (hlive : k.live ≠ 0) : kernelCheck s c launch = s := by
  simp only [kernelCheck, h, hrun, hlive, ne_eq, not_false_eq_true, if_true]

theorem residentCheck_sameTables (s : State) (c : Nat) : SameTables s (residentCheck s c) := by
  unfold residentCheck
  split <;> exact ⟨rfl, rfl⟩

/-! ## The retirement -/

theorem retireGroup_stays {s : State} {loc : Nat} {g : Group} (hg : getGroup s loc = some g) (hmay : mayRetire s g = false) :
    retireGroup s loc = s := by
  simp only [retireGroup, hg, hmay, Bool.not_false, if_true]

/-- The state in which a retiring group's children are freed or adopted (R129, R262). -/
def leaveChildren (s : State) (g : Group) : State :=
  ((ctxChildren s g.ctx).filter fun e => ownedBy g e.2).foldl (fun t e => if childEnded e.2 then freeChild t e.1
    else adoptChild t (((getKernel s g.ctx g.launch).map (·.orph)).getD 0) e.1) s

/-- The state in which a retiring group has left its core and its kernel counts it no more. -/
def leftKernel (s : State) (loc : Nat) (g : Group) : State :=
  modKernel (leaveCore (leaveRecords (leaveChildren s g) g) loc g) g.ctx g.launch fun k => { k with live := k.live - 1 }

theorem retireGroup_goes {s : State} {loc : Nat} {g : Group} (hg : getGroup s loc = some g) (hmay : mayRetire s g = true) :
    retireGroup s loc = residentCheck (kernelCheck (leftKernel s loc g) g.ctx g.launch) g.ctx := by
  simp only [retireGroup, hg, hmay, Bool.not_true, Bool.false_eq_true, if_false]
  rfl

theorem leaveChildren_keepsKernels (s : State) (g : Group) : KeepsKernels s (leaveChildren s g) := by
  apply KeepsKernels.foldl
  intro t e
  split
  · exact freeChild_keepsKernels t e.1
  · exact adoptChild_keepsKernels t _ e.1

section
variable {s : State} {loc : Nat} {g : Group} {k : Kernel}

theorem leftKernel_getGroup (hwf : tblWf none s.groups = true) : getGroup (leftKernel s loc g) loc = none := by
  obtain ⟨u, hu, hsame⟩ := leaveCore_drops (leaveRecords (leaveChildren s g) g) loc g
  have hkeeps := ((leaveChildren_keepsKernels s g).trans (leaveRecords_keepsKernels _ g)).trans hu
  exact (congrArg (tget none · loc) hsame.groups).trans (tget_tput none u.groups loc none (hkeeps.groups hwf))

theorem leftKernel_getKernel (hk : getKernel s g.ctx g.launch = some k) :
    getKernel (leftKernel s loc g) g.ctx g.launch = some { k with live := k.live - 1 } := by
  obtain ⟨u, hu, hsame⟩ := leaveCore_drops (leaveRecords (leaveChildren s g) g) loc g
  have hkeeps := ((leaveChildren_keepsKernels s g).trans (leaveRecords_keepsKernels _ g)).trans hu
  have hkernels := hsame.kernels.trans hkeeps.kernels
  refine getKernel_modKernel ?_ fun _ => ⟨rfl, rfl⟩
  rw [getKernel, hkernels]
  exact hk

/-- A group that may retire leaves its place, and its running kernel counts one live group less (R129, R133). -/
theorem retireGroup_leaves (hg : getGroup s loc = some g) (hmay : mayRetire s g = true) (hwf : tblWf none s.groups = true)
    (hk : getKernel s g.ctx g.launch = some k) (hrun : k.st = .running) (hlive : 2 ≤ k.live) :
    getGroup (retireGroup s loc) loc = none
    ∧ getKernel (retireGroup s loc) g.ctx g.launch = some { k with live := k.live - 1 } := by
  have hleft : getKernel (leftKernel s loc g) g.ctx g.launch = some { k with live := k.live - 1 } := leftKernel_getKernel hk
  have hlive' : k.live - 1 ≠ 0 := by omega
  have hend := residentCheck_sameTables (leftKernel s loc g) g.ctx
  rw [retireGroup_goes hg hmay, kernelCheck_live hleft hrun hlive', getGroup, getKernel, hend.groups, hend.kernels]
  exact ⟨leftKernel_getGroup hwf, hleft⟩

end

end Sys2Proof.Laws
end

section
/-! SUPPORT. The events of sequencers, clusters and waits: what each does in the cases that its rule names, and the statement O46 that is
assembled from them. -/

namespace Sys2Proof.Laws.SequencerEvents

open Sys2Proof.Machine Sys2Proof.Safety Sys2Proof.Laws

/-! ## What the events run -/

section
variable (s : State)

theorem exec_claimGrant : exec .claimGrant s = .next (grantClaim s (s.args.n % 1024)) := by rfl
theorem exec_congestionSet : exec .congestionSet s = .next (congestionSet s s.args.n) := by rfl
theorem exec_congestionClear : exec .congestionClear s = .next (congestionClear s s.args.n) := by rfl
theorem exec_issueHold : exec .issueHold s = .next (holdIssue s (s.args.n % 8)) := by rfl
theorem exec_clusterCopyExpire : exec .clusterCopyExpire s = .next (expireCopies s) := by rfl
theorem exec_waitevtWake : exec .waitevtWake s = .next (evtTry s s.args.n s.args.m) := by rfl
theorem exec_waitevtLimit : exec .waitevtLimit s = .next (evtLimit s s.args.n s.args.m) := by rfl
theorem exec_watchdog : exec .watchdog s = .next (watchdogPath s s.args.n s.args.m) := by rfl
theorem exec_bankModeFenceComplete : exec .bankModeFenceComplete s = .next (fenceComplete s s.args.n s.args.m) := by rfl
theorem exec_groupRetire : exec .groupRetire s = .next (retireGroup s s.args.n) := by rfl

end

/-! ## Claims, congestion, held issue, copies (R17, R138, R142, R233) -/

/-- The oldest claim is granted when the free count is at least its blocks (R142). -/
theorem grantClaim_grants {s : State} {seq : Nat} {o : Claim} {rest : List Claim} (hc : (getSeq s seq).claims = o :: rest)
    (hfree : o.n ≤ freeBlocks s seq) : grantClaim s seq =
      modPathAt (putSeq s seq { getSeq s seq with claims := rest }) o.loc o.path fun pt => { pt with granted := o.n, heldAt := none } := by
  simp only [grantClaim, hc, hfree, if_true]

/-- One bit of a byte. -/
theorem getLsbD_oneBit {d : Nat} (hd : d < 8) (i : Nat) : (BitVec.ofNat 8 (2 ^ d)).getLsbD i = decide (i = d) := by
  rw [BitVec.getLsbD_ofNat, Nat.testBit_two_pow]
  by_cases h : i = d
  · subst h
    simp [hd]
  · simp [h, Ne.symm h]

theorem congestionSet_bits (s : State) (n i : Nat) :
    (congestionSet s n).congested.getLsbD i = (s.congested.getLsbD i || decide (i = n % 8)) := by
  rw [congestionSet, BitVec.getLsbD_or, getLsbD_oneBit (Nat.mod_lt _ (by decide))]

theorem congestionClear_bits (s : State) (n i : Nat) :
    (congestionClear s n).congested.getLsbD i = (s.congested.getLsbD i && decide (i ≠ n % 8)) := by
  simp only [congestionClear, BitVec.getLsbD_and, BitVec.getLsbD_not, getLsbD_oneBit (Nat.mod_lt n (show 0 < 8 by decide))]
  by_cases h : i < 8
  · simp [h]
  · simp [BitVec.getLsbD_of_ge s.congested i (by omega)]

/-- Changes of cores change nothing else. -/
theorem foldl_modCore_frame (place : Nat → Nat) (f : Core → Core) (l : List Nat) (s : State) :
    l.foldl (fun s j => modCore s (place j) f) s = { s with cores := (l.foldl (fun s j => modCore s (place j) f) s).cores } := by
  induction l generalizing s with
  | nil => rfl
  | cons j l ih => exact ih (modCore s (place j) f)

/-- A held ck acts on the cores alone (R17). -/
theorem holdIssue_frame (s : State) (die : Nat) : holdIssue s die = { s with cores := (holdIssue s die).cores } := by
  unfold holdIssue
  exact foldl_modCore_frame _ _ _ s

/-- A test of all pairs of two lists, place by place. -/
theorem all_zipWith_iff {α β : Type} (f : α → β → Bool) (l : List α) (m : List β) :
    (List.zipWith f l m).all id = true ↔ ∀ (i : Nat) a b, l[i]? = some a → m[i]? = some b → f a b = true := by
  simp only [List.all_eq_true, List.mem_iff_getElem?, List.getElem?_zipWith_eq_some]
  constructor
  · exact fun h i a b ha hb => h (f a b) ⟨i, a, b, ha, hb, rfl⟩
  · rintro h x ⟨i, a, b, ha, hb, rfl⟩
    exact h i a b ha hb

theorem getElem?_clusterCks (s : State) (cl i : Nat) :
    (clusterCks s cl)[i]? = if i < 4 then some (getCore s (4 * cl + i)).ck else none := by
  split <;> simp_all [clusterCks]

/-- A copy is alive while on no core of its cluster 16,384 ck have passed since it was filled (R233). -/
theorem copyAlive_iff (s : State) (c : LineCopy) : copyAlive s c = true ↔
    ∀ i < 4, ∀ f, c.filled[i]? = some f → ((getCore s (4 * c.cluster + i)).ck + 2 ^ 64 - f) % 2 ^ 64 < 16384 := by
  rw [copyAlive, all_zipWith_iff]
  constructor
  · intro h i hi f hf
    exact decide_eq_true_iff.mp (h i _ f (by rw [getElem?_clusterCks, if_pos hi]) hf)
  · intro h i ck f hck hf
    rw [getElem?_clusterCks] at hck
    split at hck
    · next hi =>
      rw [← Option.some.inj hck]
      exact decide_eq_true_iff.mpr (h i hi f hf)
    · exact absurd hck (by simp)

theorem mem_expireCopies (s : State) (c : LineCopy) : c ∈ (expireCopies s).copies ↔ c ∈ s.copies ∧ copyAlive s c = true :=
  List.mem_filter

/-! ## WAITEVT (R366) -/

/-- The group of a path whose WAITEVT has ended with a result. -/
def evtEnded (g : Group) (p : Nat) (e : EvtWait) (held : Bool) : Group :=
  endWaits (resultNow g p [.sp (evtDest e) ⟨held, false⟩]) p fun x => decide (x = .waitevt e)

theorem pathAt_resultNow (g : Group) (p i : Nat) (ws : List RegWrite) : pathAt (resultNow g p ws) i = pathAt g i := rfl

/-- The wait of a live path is over and its result in flight. -/
theorem evtEnded_spec {g : Group} {p : Nat} {e : EvtWait} (held : Bool) (hw : (pathAt g p).waits = [.waitevt e])
    (hlive : (pathAt g p).st = .live) : (pathAt (evtEnded g p e held) p).waits = []
      ∧ ⟨(pathAt g p).mask, (pathAt g p).depth, 0, [.sp (evtDest e) ⟨held, false⟩]⟩ ∈ (evtEnded g p e held).inflight := by
  have hne : (pathAt (resultNow g p [.sp (evtDest e) ⟨held, false⟩]) p).st ≠ .join := by
    rw [pathAt_resultNow, hlive]
    decide
  rw [evtEnded, endWaits_of_ne_join _ hne]
  refine ⟨?_, ?_⟩
  · rw [pathAt_modPath, pathAt_resultNow]
    simp [hw]
  · rw [modPath_inflight, resultNow]
    simp

theorem evtOf_waitevt {pt : Path} {e : EvtWait} (hw : pt.waits = [.waitevt e]) : evtOf pt = some (.waitevt e) := by
  simp [evtOf, hw]

/-- A WAITEVT that knows its place keeps it. -/
theorem setPlace_same {g : Group} {p a : Nat} {e : EvtWait} (hw : (pathAt g p).waits = [.waitevt e]) (hpa : e.pa = some a) :
    setPlace g p e a = g := by
  refine modPath_id ?_
  have hsame : { e with pa := some a } = e := by rw [← hpa]
  have hwaits : (pathAt g p).waits.map (fun w => if w = .waitevt e then .waitevt { e with pa := some a } else w) = (pathAt g p).waits := by
    simp only [hw, hsame, List.map_cons, List.map_nil, if_true]
  simp only [hwaits]

/-- Whether a WAITEVT's word may be read at its home, and what is read there ends the wait. -/
def EvtReads (s : State) (loc p : Nat) (g : Group) (e : EvtWait) (a : Nat) : Prop :=
  evtReady g (pathAt g p).mask a = true ∧ dieReach s (dieOf (coreOf loc)) (accessDie a) = true
    ∧ evtHolds (evtCond e) (mem32 s.mem a) e.comparand = true

section
variable {s : State} {loc p : Nat} {g : Group} {e : EvtWait} (hg : getGroup s loc = some g)
include hg

theorem evtEnd_false : evtEnd s loc p e false = putGroup s loc (evtEnded g p e false) := by
  simp only [evtEnd, modGroup_some _ hg, Bool.false_eq_true, if_false]
  rfl

/-- An acquire changes no more than copies of lines. -/
theorem evtEnd_true : ∃ l, evtEnd s loc p e true = { putGroup s loc (evtEnded g p e true) with copies := l } := by
  simp only [evtEnd, modGroup_some _ hg, if_true]
  cases e.pa <;> exact ⟨_, rfl⟩

variable (hw : (pathAt g p).waits = [.waitevt e])
include hw

theorem evtTry_met (hmet : e.met = true) : evtTry s loc p = evtEnd s loc p e true := by
  simp only [evtTry, hg, evtOf_waitevt hw, hmet, if_true]

section
variable {a : Nat} (hpa : e.pa = some a) (hmet : e.met = false)
include hpa hmet

/-- The word's value ends the wait with an acquire. -/
theorem evtTry_reads (hreads : EvtReads s loc p g e a) :
    ∃ u, evtTry s loc p = evtEnd u loc p e true ∧ getGroup u loc = some g ∧ u = { s with groups := u.groups, copies := u.copies } := by
  obtain ⟨hready, hreach, hholds⟩ := hreads
  have hsame : { e with pa := some a, met := false } = e := by rw [← hpa, ← hmet]
  refine ⟨readAtHome (putGroup s loc g) loc p a, ?_, getGroup_putGroup s loc g, rfl⟩
  have hreach' : dieReach (putGroup s loc g) (dieOf (coreOf loc)) (accessDie a) = true := hreach
  have hholds' : evtHolds (evtCond e) (mem32 (readAtHome (putGroup s loc g) loc p a).mem a) e.comparand = true := hholds
  simp only [evtTry, hg, evtOf_waitevt hw, hmet, evtPlace, hpa, modGroup_some _ hg, setPlace_same hw hpa, hready, hreach', hholds', hsame,
    Bool.not_true, Bool.or_self, Bool.false_eq_true, if_false, if_true]

/-- Otherwise the wait stands. -/
theorem evtTry_waits (hreads : ¬EvtReads s loc p g e a) :
    ∃ t, evtTry s loc p = t ∧ getGroup t loc = some g ∧ t = { s with groups := t.groups, copies := t.copies } := by
  by_cases hopen : evtReady g (pathAt g p).mask a = true ∧ dieReach s (dieOf (coreOf loc)) (accessDie a) = true
  · obtain ⟨hready, hreach⟩ := hopen
    have hholds : ¬evtHolds (evtCond e) (mem32 (readAtHome (putGroup s loc g) loc p a).mem a) e.comparand = true :=
      fun h => hreads ⟨hready, hreach, h⟩
    have hreach' : dieReach (putGroup s loc g) (dieOf (coreOf loc)) (accessDie a) = true := hreach
    refine ⟨readAtHome (putGroup s loc g) loc p a, ?_, getGroup_putGroup s loc g, rfl⟩
    simp only [evtTry, hg, evtOf_waitevt hw, hmet, evtPlace, hpa, modGroup_some _ hg, setPlace_same hw hpa, hready, hreach', hholds,
      Bool.not_true, Bool.or_self, Bool.false_eq_true, if_false]
  · have hshut : (!evtReady g (pathAt g p).mask a || !dieReach (putGroup s loc g) (dieOf (coreOf loc)) (accessDie a)) = true := by
      rw [← Bool.not_and, Bool.not_eq_true', ← Bool.not_eq_true, Bool.and_eq_true]
      exact hopen
    refine ⟨putGroup s loc g, ?_, getGroup_putGroup s loc g, rfl⟩
    simp only [evtTry, hg, evtOf_waitevt hw, hmet, evtPlace, hpa, modGroup_some _ hg, setPlace_same hw hpa, hshut, Bool.false_eq_true,
      if_false, if_true]

end

/-- A WAITEVT whose condition held at a write that was seen, or holds in its word now, ends with the result 1. -/
theorem evtTry_ends {a : Nat} (hlive : (pathAt g p).st = .live) (hpa : e.pa = some a) (h : e.met = true ∨ EvtReads s loc p g e a) :
    ∃ t h, evtTry s loc p = t ∧ getGroup t loc = some h ∧ t = { s with groups := t.groups, copies := t.copies }
      ∧ (pathAt h p).waits = [] ∧ ⟨(pathAt g p).mask, (pathAt g p).depth, 0, [.sp (evtDest e) ⟨true, false⟩]⟩ ∈ h.inflight := by
  obtain ⟨u, hu, hgu, hframe⟩ :
      ∃ u, evtTry s loc p = evtEnd u loc p e true ∧ getGroup u loc = some g ∧ u = { s with groups := u.groups, copies := u.copies } := by
    by_cases hmet : e.met = true
    · exact ⟨s, evtTry_met hg hw hmet, hg, rfl⟩
    · exact evtTry_reads hg hw hpa (Bool.eq_false_iff.mpr hmet) (h.resolve_left hmet)
  obtain ⟨l, hl⟩ := evtEnd_true (p := p) (e := e) hgu
  refine ⟨_, _, hu.trans hl, getGroup_putGroup u loc (evtEnded g p e true), ?_, evtEnded_spec true hw hlive⟩
  rw [hframe]
  rfl

theorem evtLimit_none (hlimit : e.limit = 0) : evtLimit s loc p = s := by
  simp only [evtLimit, hg, evtOf_waitevt hw, hlimit, if_true]

theorem evtLimit_counts (hlimit : e.limit ≠ 0) :
    evtLimit s loc p = afterCk s (coreOf loc) e.limit fun s => evtEnd s loc p { e with limit := 1 } e.met := by
  simp only [evtLimit, hg, evtOf_waitevt hw, hlimit, if_false]

/-- A stop of a context cuts short the ck of a limit (R493). -/
theorem evtLimit_cut (hlimit : e.limit ≠ 0) (hroom : ckRoom s (coreOf loc) e.limit < e.limit) :
    evtLimit s loc p = advanceCk s (coreOf loc) (ckRoom s (coreOf loc) e.limit) := by
  rw [evtLimit_counts hg hw hlimit, afterCk_cut _ hroom]

/-- At the limit a wait whose condition has not held ends with the result 0 and without an acquire. -/
theorem evtLimit_ends (hlive : (pathAt g p).st = .live) (hlimit : e.limit ≠ 0) (hmet : e.met = false)
    (hroom : e.limit ≤ ckRoom s (coreOf loc) e.limit) :
    ∃ t h, evtLimit s loc p = t ∧ getGroup t loc = some h ∧ t = { advanceCk s (coreOf loc) e.limit with groups := t.groups }
      ∧ (pathAt h p).waits = [] ∧ ⟨(pathAt g p).mask, (pathAt g p).depth, 0, [.sp (evtDest e) ⟨false, false⟩]⟩ ∈ h.inflight := by
  obtain ⟨k, hk, htick⟩ := advanceCk_group hg e.limit
  obtain ⟨hst, hdepth, hmask, hwaits⟩ := htick p
  have hlast : (pathAt k p).waits = [.waitevt { e with limit := 1 }] := by
    simp [hwaits, hw, tickWait, hlimit]
  obtain ⟨hover, hresult⟩ := evtEnded_spec false hlast (hst.trans hlive)
  rw [hmask, hdepth] at hresult
  refine ⟨_, _, ?_, getGroup_putGroup _ _ _, rfl, hover, hresult⟩
  rw [evtLimit_counts hg hw hlimit, afterCk_passes _ hroom, if_neg hlimit, hmet]
  exact evtEnd_false hk

end

/-! ## WATCHDOG (R358, R383) -/

section
variable {s : State} {loc p : Nat} {g : Group} (hg : getGroup s loc = some g)
include hg

theorem watchdogPath_idle (hw : watched (pathAt g p) = false) : watchdogPath s loc p = s := by
  simp only [watchdogPath, hg, hw, Bool.false_eq_true, if_false]

/-- A live path that has stood in a barrier's wait for 2^32 ck leaves it, and is to trap. -/
theorem watchdogPath_fires {ph : Nat} (hw : (pathAt g p).waits = [.bar ph]) (hlive : (pathAt g p).st = .live)
    (hroom : 2 ^ 32 - (pathAt g p).held ≤ ckRoom s (coreOf loc) (2 ^ 32 - (pathAt g p).held)) :
    ∃ h, getGroup (watchdogPath s loc p) loc = some h ∧ (pathAt h p).waits = [] ∧ (pathAt h p).doomed = some 12 := by
  have hwatched : watched (pathAt g p) = true := by simp [watched, hw, hlive, abandoned]
  simp only [watchdogPath, hg, hwatched, if_true]
  rw [afterCk_passes _ hroom]
  generalize 2 ^ 32 - (pathAt g p).held = left
  obtain ⟨k, hk, htick⟩ : ∃ k, getGroup (if left = 0 then s else advanceCk s (coreOf loc) left) loc = some k
      ∧ Ticked left (pathAt g p) (pathAt k p) := by
    split
    · next h0 => exact ⟨g, hg, h0 ▸ .zero _⟩
    · obtain ⟨k, hk, htick⟩ := advanceCk_group hg left
      exact ⟨k, hk, htick p⟩
  have hne : (pathAt (modPath k p fun pt => { pt with doomed := some 12 }) p).st ≠ .join := by
    rw [pathAt_modPath]
    simp [htick.st, hlive]
  refine ⟨_, by rw [getGroup_modGroup, hk, Option.map_some], ?_⟩
  rw [endWaits_of_ne_join _ hne, pathAt_modPath, pathAt_modPath]
  simp [htick.waits, hw, tickWait, abandoned]

end

/-! ## The end of a bank-mode fence (R215) -/

/-- Whether a wait is that of a bank-mode fence. -/
def isFence : Wait → Bool
  | .fence _ => true
  | _ => false

/-- The fence of a path whose banks are idle: they are drained, barrier waits on them end, and so does the fence. -/
theorem fenceComplete_eq {s : State} {loc p : Nat} {g : Group} {ks : List Nat} (hg : getGroup s loc = some g)
    (hw : (pathAt g p).waits = [.fence ks]) (hf : g.fences = []) (hks : ks ≠ []) (hidle : ∀ k ∈ ks, bankBusy s k = false) :
    fenceComplete s loc p =
      modGroup (breakBarbs (ks.foldl drainFenced s) ks s.groups) loc fun g => endWaits { g with fences := [] } p isFence := by
  have hbusy : (ks.isEmpty || ks.any (bankBusy s)) = false := by
    simpa [hks] using hidle
  simp only [fenceComplete, hg, hw, hf, List.flatMap_cons, List.flatMap_nil, List.append_nil, hbusy, Bool.false_eq_true, if_false]
  rw [← drainAll_groups s ks]
  rfl

/-- When the fence has completed, its path waits no more and its banks have the modes that the fence took. -/
theorem fenceComplete_spec {s : State} {loc p : Nat} {g : Group} {ks : List Nat} (hg : getGroup s loc = some g)
    (hlive : (pathAt g p).st = .live) (hw : (pathAt g p).waits = [.fence ks]) (hf : g.fences = []) (hks : ks ≠ [])
    (hidle : ∀ k ∈ ks, bankBusy s k = false) (hwf : tblWf {} s.banks = true) :
    ∃ t h, fenceComplete s loc p = t ∧ getGroup t loc = some h ∧ (pathAt h p).waits = []
      ∧ ∀ k ∈ ks, (getBank s k).fencing.isSome = true → getBank t k = drained (getBank s k) := by
  have hfenced : FencedAt (ks.foldl drainFenced s) loc p :=
    ⟨g, by rw [getGroup, drainAll_groups]; exact hg, by simp [hlive], by simp [hw]⟩
  obtain ⟨k, hk, hne, hall⟩ := hfenced.of_breakBarbs ks s.groups
  refine ⟨_, endWaits { k with fences := [] } p isFence, fenceComplete_eq hg hw hf hks hidle, ?_, ?_, fun b hb hsome => ?_⟩
  · rw [getGroup_modGroup, hk, Option.map_some]
  · rw [endWaits_of_ne_join _ (by exact hne), pathAt_modPath]
    refine List.filter_eq_nil_iff.mpr fun w hmem => ?_
    obtain ⟨l, rfl⟩ := hall w hmem
    simp [isFence]
  · rw [getBank, modGroup_banks, breakBarbs_banks]
    exact getBank_drainAll hwf hsome hb

/-! ## The statement -/

/-- Settles O46: each clause is what its event's function does in the case that the clause names. -/
theorem sequencerEvents : Obligations.SequencerEvents := by
  intro s n
  refine ⟨?claim, ?congested, ?clear, ?hold, ?expire, ?waitevt, ?watchdog, ?unwatched, ?fence, ?retire, ?stays⟩
  case claim =>
    intro o rest hc hfree
    rw [exec_claimGrant, grantClaim_grants hc hfree]
  case congested =>
    exact ⟨_, exec_congestionSet s, rfl, by simp [congestionSet_bits, n], fun i hi => by simp [congestionSet_bits, hi, n]⟩
  case clear =>
    exact ⟨_, exec_congestionClear s, rfl, by simp [congestionClear_bits, n], fun i hi => by simp [congestionClear_bits, hi, n]⟩
  case hold => exact ⟨_, exec_issueHold s, holdIssue_frame s _⟩
  case expire =>
    exact ⟨_, exec_clusterCopyExpire s, rfl, fun c => (mem_expireCopies s c).trans (and_congr_right fun _ => copyAlive_iff s c)⟩
  case waitevt =>
    intro g e a hg hw hlive hpa reads
    refine ⟨fun hmet hnot => ?waits, fun hends => ?ends, fun hlimit hroom => ?cut, fun hlimit hmet hroom => ?limit, fun hlimit => ?none⟩
    case waits =>
      obtain ⟨t, ht, hgt, hframe⟩ := evtTry_waits hg hw hpa hmet hnot
      exact ⟨t, (exec_waitevtWake s).trans (congrArg _ ht), hgt, hframe⟩
    case ends =>
      obtain ⟨t, h, ht, hh, hframe, hover⟩ := evtTry_ends hg hw hlive hpa hends
      exact ⟨t, h, (exec_waitevtWake s).trans (congrArg _ ht), hh, hframe, hover⟩
    case cut => exact (exec_waitevtLimit s).trans (congrArg _ (evtLimit_cut hg hw hlimit hroom))
    case limit =>
      obtain ⟨t, h, ht, hh, hframe, hover⟩ := evtLimit_ends hg hw hlive hlimit hmet hroom
      exact ⟨t, h, (exec_waitevtLimit s).trans (congrArg _ ht), hh, hframe, hover⟩
    case none => exact (exec_waitevtLimit s).trans (congrArg _ (evtLimit_none hg hw hlimit))
  case watchdog =>
    intro g ph hg hw hlive left hroom
    obtain ⟨h, hh, hwaits, hdoom⟩ := watchdogPath_fires hg hw hlive hroom
    exact ⟨_, h, exec_watchdog s, hh, hwaits, hdoom⟩
  case unwatched => exact fun g hg hw => (exec_watchdog s).trans (congrArg _ (watchdogPath_idle hg hw))
  case fence =>
    intro g ks hg hlive hw hf hks hidle hwf
    obtain ⟨t, h, rfl, hh, hwaits, hbanks⟩ := fenceComplete_spec hg hlive hw hf hks hidle hwf
    refine ⟨_, h, exec_bankModeFenceComplete s, hh, hwaits, fun k hk m hm => ?_⟩
    rw [hbanks k hk (by simp [hm])]
    simp [drained, hm]
  case retire =>
    intro g k hg hmay hwf hk hrun hlive
    exact ⟨_, exec_groupRetire s, retireGroup_leaves hg hmay hwf hk hrun hlive⟩
  case stays => exact fun g hg hmay => (exec_groupRetire s).trans (congrArg _ (retireGroup_stays hg hmay))

end Sys2Proof.Laws.SequencerEvents
end

section
/-! SUPPORT. Delay windows that close and regions that fork: what a write of one path slot or of a region leaves, and the
group after each kind of window (R72, R144-R147, R160). -/

namespace Sys2Proof.Laws

open Sys2Proof.Machine Sys2Proof.Safety

/-! ## Writes of a path slot -/

theorem putPath_putPath (g : Group) (p : Nat) (x y : Path) : putPath (putPath g p x) p y = putPath g p y := by
  unfold putPath
  split <;> rfl

theorem modPath_modPath (g : Group) (p : Nat) (f k : Path → Path) :
    modPath (modPath g p f) p k = modPath g p fun pt => k (f pt) := by
  rw [modPath, pathAt_modPath]
  exact putPath_putPath g p _ _

/-- A write of one slot leaves the other. -/
theorem pathAt_putPath_other {p : Nat} (hp : p < 2) (g : Group) (x : Path) : pathAt (putPath g p x) (1 - p) = pathAt g (1 - p) := by
  obtain rfl | rfl : p = 0 ∨ p = 1 := by omega
  · rfl
  · rfl

@[simp] theorem putPath_stack (g : Group) (p : Nat) (x : Path) : (putPath g p x).stack = g.stack := by
  unfold putPath
  split <;> rfl

/-! ## Changes of paths and regions only -/

/-- Two groups that differ in their paths and regions only. -/
def PathsOnly (g h : Group) : Prop := ∃ x y l, h = { g with p0 := x, p1 := y, stack := l }

theorem PathsOnly.trans {g h k : Group} (a : PathsOnly g h) (b : PathsOnly h k) : PathsOnly g k := by
  obtain ⟨x, y, l, rfl⟩ := a
  obtain ⟨x', y', l', rfl⟩ := b
  exact ⟨x', y', l', rfl⟩

theorem PathsOnly.sameFiles {g h : Group} (a : PathsOnly g h) : SameFiles g h := by
  obtain ⟨x, y, l, rfl⟩ := a
  exact ⟨rfl, rfl, rfl, rfl, rfl, rfl, rfl⟩

theorem PathsOnly.sameSpecials {g h : Group} (a : PathsOnly g h) : SameSpecials g h := by
  obtain ⟨x, y, l, rfl⟩ := a
  exact ⟨rfl, rfl, rfl, rfl, rfl, rfl, rfl, rfl, rfl, rfl, rfl, rfl⟩

theorem PathsOnly.pending {g h : Group} (a : PathsOnly g h) : h.macc = g.macc ∧ h.inflight = g.inflight := by
  obtain ⟨x, y, l, rfl⟩ := a
  exact ⟨rfl, rfl⟩

theorem putPath_pathsOnly (g : Group) (p : Nat) (x : Path) : PathsOnly g (putPath g p x) := by
  unfold putPath
  split
  · exact ⟨x, g.p1, g.stack, rfl⟩
  · exact ⟨g.p0, x, g.stack, rfl⟩

theorem modRegion_pathsOnly (g : Group) (tok : Word) (m : LaneMask) (f : Region → Region) : PathsOnly g (modRegion g tok m f) :=
  ⟨g.p0, g.p1, _, rfl⟩

/-! ## Regions that fork and sides that take a slot (R144-R147) -/

theorem meets_self {m : LaneMask} (h : m ≠ 0) : meets m m = true := by simpa [meets] using h

/-- Lanes that make up two sides are not all outside both. -/
theorem meets_side {m m0 m1 : LaneMask} (hor : m0 ||| m1 = m) (hm : m ≠ 0) : meets m0 m = true ∨ meets m1 m = true := by
  have hside (a b : LaneMask) : a &&& (a ||| b) = a := by ext; simp; tauto
  by_contra hnone
  simp only [meets, bne_iff_ne, not_or, not_not] at hnone
  obtain ⟨h0, h1⟩ := hnone
  rw [← hor] at h0 h1
  rw [hside] at h0
  rw [BitVec.or_comm, hside] at h1
  rw [← hor, h0, h1] at hm
  exact hm rfl

/-- The region opened last is rewritten where a side of it holds a lane of the mask. -/
theorem modRegion_head {g : Group} {r : Region} {rest : List Region} {m : LaneMask} (f : Region → Region)
    (hstack : g.stack = r :: rest) (hm : meets r.mask0 m = true ∨ meets r.mask1 m = true) :
    (modRegion g r.token m f).stack.head? = some (f r) := by
  simp [modRegion, hstack, hm]

/-- BRD's region stands open at the fork of the path in slot `p`. -/
structure Opening (g : Group) (p : Nat) (r : Region) (rest : List Region) : Prop where
  stack : g.stack = r :: rest
  st0 : r.st0 = .opening
  depth : regionDepth r = (pathAt g p).depth + 1
  lanes : r.mask0 ||| r.mask1 = (pathAt g p).mask

/-- The paths of the two sides at the fork (R145). -/
def forkSide0 (pt : Path) (r : Region) (next : Nat) : Path :=
  { sidePath (pt.depth + 1) r.mask0 next pt.shadow 0 with doomed := pt.doomed }
def forkSide1 (pt : Path) (r : Region) : Path := sidePath (pt.depth + 1) r.mask1 r.pc1 pt.shadow 0

section
variable {g : Group} {p : Nat} {r : Region} {rest : List Region} (o : Opening g p r rest)
include o

theorem Opening.found : (g.stack.find? fun r => decide (r.st0 = .opening) && regionDepth r == (pathAt g p).depth + 1
    && (r.mask0 ||| r.mask1) == (pathAt g p).mask) = some r := by
  simp [o.stack, o.st0, o.depth, o.lanes]

/-- With the other slot free both sides take a slot. -/
theorem forkRegion_free (next : Nat) (hfree : (pathAt g (1 - p)).st = .empty) : forkRegion g p next =
    { modRegion g r.token (pathAt g p).mask (fun r => { r with st0 := .live, st1 := .live, pc1 := 0 }) with
      p0 := forkSide0 (pathAt g p) r next, p1 := forkSide1 (pathAt g p) r } := by
  simp only [forkRegion, o.found, hfree, if_true, forkSide0, forkSide1]

/-- With the other slot taken side 1 is pending. -/
theorem forkRegion_taken (next : Nat) (htaken : (pathAt g (1 - p)).st ≠ .empty) : forkRegion g p next =
    putPath (modRegion g r.token (pathAt g p).mask fun r => { r with st0 := .live, st1 := .pending, sh1 := (pathAt g p).shadow }) p
      (forkSide0 (pathAt g p) r next) := by
  simp only [forkRegion, o.found, htaken, if_false, forkSide0]

theorem forkRegion_pathsOnly (next : Nat) : PathsOnly g (forkRegion g p next) := by
  by_cases h : (pathAt g (1 - p)).st = .empty
  · rw [forkRegion_free o next h]
    exact ⟨_, _, _, rfl⟩
  · rw [forkRegion_taken o next h]
    exact (modRegion_pathsOnly _ _ _ _).trans (putPath_pathsOnly _ _ _)

end

/-- The path that a pending side 1 becomes (R146). -/
def pendingSide1 (r : Region) : Path := { sidePath (regionDepth r) r.mask1 r.pc1 r.sh1 r.last1 with doomed := r.doom1 }

theorem fillSlot_pending {g : Group} {p : Nat} {r : Region} {rest : List Region} (hfree : (pathAt g p).st = .empty)
    (hstack : g.stack = r :: rest) (hst : r.st1 = .pending) : fillSlot g p =
      putPath (modRegion g r.token r.mask1 fun r => { r with st1 := .live, pc1 := 0, sh1 := [], last1 := 0, doom1 := none }) p
        (pendingSide1 r) := by
  simp [fillSlot, hfree, hstack, hst, pendingSide1, sidePath]

/-- With no region open nothing is pending. -/
theorem fillSlot_of_stack_nil {g : Group} (p : Nat) (h : g.stack = []) : fillSlot g p = g := by
  simp [fillSlot, h]

theorem fillSlots_of_stack_nil {g : Group} (h : g.stack = []) : fillSlots g = g := by
  rw [fillSlots, fillSlot_of_stack_nil 0 h, fillSlot_of_stack_nil 1 h]

/-! ## Windows that close (R72, R145, R160) -/

/-- The group once a window has gone from its path and a CALL's link has landed. -/
def windowLinked (g : Group) (p : Nat) (w : Window) : Group := landLink (modPath g p fun pt => { pt with window := none }) p w.link

theorem windowLinked_none (g : Group) (p : Nat) {w : Window} (h : w.link = none) :
    windowLinked g p w = modPath g p fun pt => { pt with window := none } := by
  rw [windowLinked, h]
  rfl

/-- A link of which no later slot has written a register lands in both. -/
theorem windowLinked_pair (g : Group) (p : Nat) {w : Window} {d : Nat} (h : w.link = some (d, 0)) : windowLinked g p w =
    landWrites (modPath g p fun pt => { pt with window := none }) (pathAt g p).mask (pathAt g p).depth
      [.s d ⟨BitVec.ofNat 32 (pathAt g p).pc, false⟩, .s (d + 1) ⟨BitVec.ofNat 32 ((pathAt g p).pc / 2 ^ 32), false⟩] := by
  rw [windowLinked, h]
  simp [landLink, bitOf]

section
variable {s : State} {loc p : Nat} {g : Group} (hg : getGroup s loc = some g)
include hg

/-- Without a window, or with a wait left, nothing closes. -/
theorem closeWindow_stays (h : (pathAt g p).window = none ∨ (pathAt g p).waits ≠ []) : closeWindow s loc p = putGroup s loc g := by
  rw [closeWindow, modGroup_some _ hg]
  cases hw : (pathAt g p).window with
  | none => rfl
  | some w =>
    have hwaits : (pathAt g p).waits ≠ [] := h.resolve_left (by simp [hw])
    simp [hwaits]

section
variable {w : Window} (hw : (pathAt g p).window = some w) (hleft : w.left = 0) (hwaits : (pathAt g p).waits = [])
include hw hleft hwaits

/-- A window without a fork ends in its branch's target, or where the path stands. -/
theorem closeWindow_branches (hfork : w.fork = false) : closeWindow s loc p =
    putGroup s loc (modPath (windowLinked g p w) p fun pt => { pt with pc := if w.taken then w.target else pt.pc }) := by
  rw [closeWindow, modGroup_some _ hg]
  simp only [hw, hleft, hwaits, hfork]
  cases htaken : w.taken with
  | true => rfl
  | false => exact congrArg _ (modPath_id rfl).symm

/-- BRD's window ends in the fork. -/
theorem closeWindow_forks (hlink : w.link = none) (hfork : w.fork = true) : closeWindow s loc p =
    putGroup s loc (forkRegion (modPath g p fun pt => { pt with window := none }) p (pathAt g p).pc) := by
  rw [closeWindow, modGroup_some _ hg]
  simp only [hw, hleft, hwaits, hfork, hlink, landLink, pathAt_modPath]
  rfl

end
end

/-! ## Latches and streams (R45, R73) -/

theorem latchEffect_first {s : State} {loc : Nat} {g : Group} {k : Nat} {x : Word} {rest : List LatchWrite}
    (hg : getGroup s loc = some g) (hpend : g.kpend = ⟨k, x, 0, false⟩ :: rest)
    (hrest : ∀ q ∈ rest, q.aside = true ∨ q.left ≠ 0) :
    latchEffect s loc = putGroup s loc { g with k := tput 0 g.k k x, kpend := rest } := by
  have hwaits : ∀ q ∈ rest, (!q.aside && q.left == 0) = false := by
    intro q hq
    rcases hrest q hq with h | h <;> simp [h]
  have hnone : (rest.filter fun q => !q.aside && q.left == 0) = [] :=
    List.filter_eq_nil_iff.mpr fun q hq => Bool.eq_false_iff.mp (hwaits q hq)
  have hall : (rest.filter fun q => !(!q.aside && q.left == 0)) = rest :=
    List.filter_eq_self.mpr fun q hq => by rw [hwaits q hq, Bool.not_false]
  rw [latchEffect, modGroup_some _ hg, hpend]
  dsimp only
  rw [List.filter_cons_of_pos rfl, List.filter_cons_of_neg (by simp), hnone, hall]
  rfl

end Sys2Proof.Laws
end

section
/-! SUPPORT. The merge of a region's two sides: what its shadows leave in the file, and the group that the JOIN of the second side
leaves (R148-R150). -/

namespace Sys2Proof.Laws

open Sys2Proof.Machine Sys2Proof.Safety

/-! ## The file under the keys of shadows (R149, R400) -/

/-- The uniform and scalar-predicate files are in canonical form. -/
def FilesWf (g : Group) : Prop := tblWf {} g.s = true ∧ tblWf {} g.sp = true

theorem filePut_wf {g : Group} (h : FilesWf g) (key : Nat) (v : Word) (b : Bool) : FilesWf (filePut g key v b) := by
  unfold filePut
  split
  · exact ⟨tput_wf _ _ _ _ h.1, h.2⟩
  · exact ⟨h.1, tput_wf _ _ _ _ h.2⟩

/-- The files after a write come from the files before it. -/
theorem filePut_files {g k : Group} (key : Nat) (v : Word) (b : Bool) (hs : k.s = g.s) (hsp : k.sp = g.sp) :
    (filePut k key v b).s = (filePut g key v b).s ∧ (filePut k key v b).sp = (filePut g key v b).sp := by
  unfold filePut
  split <;> simp [hs, hsp]

/-- The file's value after a write; that of a scalar predicate is a bit. -/
theorem fileVal_filePut {g : Group} (h : FilesWf g) {key : Nat} {v : Word} (b : Bool) (hv : key < 0x8000 ∨ v.toNat ≤ 1) :
    fileVal (filePut g key v b) key = ⟨v, b⟩ := by
  by_cases hk : key < 0x8000
  · simp only [fileVal, filePut, if_pos hk, tget_tput _ _ _ _ h.1]
  · have hbit : (if (v != 0) = true then (1 : Word) else 0) = v := by
      have hle : v.toNat ≤ 1 := hv.resolve_left hk
      rcases Nat.le_one_iff_eq_zero_or_eq_one.mp hle with h0 | h1
      · rw [BitVec.eq_of_toNat_eq (x := v) (y := 0) h0]
        rfl
      · rw [BitVec.eq_of_toNat_eq (x := v) (y := 1) h1]
        rfl
    simp only [fileVal, filePut, if_neg hk, tget_tput _ _ _ _ h.2, hbit]

theorem fileVal_filePut_ne {g : Group} (h : FilesWf g) {key j : Nat} (v : Word) (b : Bool) (hj : j ≠ key) :
    fileVal (filePut g key v b) j = fileVal g j := by
  by_cases hk : key < 0x8000 <;> by_cases hjk : j < 0x8000
  · simp only [fileVal, filePut, if_pos hk, if_pos hjk, tget_tput_ne _ _ _ _ _ h.1 hj]
  · simp only [fileVal, filePut, if_pos hk, if_neg hjk]
  · simp only [fileVal, filePut, if_neg hk, if_pos hjk]
  · simp only [fileVal, filePut, if_neg hk, if_neg hjk,
      tget_tput_ne _ _ _ _ _ h.2 (show j - 0x8000 ≠ key - 0x8000 by omega)]

/-- A scalar predicate as its file value tells it. -/
theorem tget_sp_fileVal (g : Group) (n : Nat) :
    tget ({} : PBit) g.sp n = ⟨(fileVal g (0x8000 + n)).val != 0, (fileVal g (0x8000 + n)).poison⟩ := by
  simp only [fileVal, if_neg (show ¬0x8000 + n < 0x8000 by omega), Nat.add_sub_cancel_left]
  rcases tget ({} : PBit) g.sp n with ⟨_ | _, b⟩ <;> rfl

theorem tget_s_fileVal (g : Group) {n : Nat} (hn : n < 0x8000) : tget ({} : PWord) g.s n = fileVal g n := (if_pos hn).symm

/-! ## A shadow that goes into the file -/

/-- Every entry of a shadow goes into the file. -/
def landShadow (g : Group) (sh : List Shadow) : Group := sh.foldl (fun g e => filePut g e.reg e.val e.poison) g

/-- The entries of scalar predicates hold a bit. -/
def ShadowBits (sh : List Shadow) : Prop := ∀ e ∈ sh, e.reg < 0x8000 ∨ e.val.toNat ≤ 1

theorem shadowOf_cons (e : Shadow) (sh : List Shadow) (key : Nat) :
    shadowOf (e :: sh) key = if e.reg = key then some e else shadowOf sh key := by
  by_cases h : e.reg = key <;> simp [shadowOf, h]

theorem shadowOf_eq_none {sh : List Shadow} {key : Nat} : shadowOf sh key = none ↔ key ∉ sh.map (·.reg) := by
  simp only [shadowOf, List.find?_eq_none, List.mem_map, beq_iff_eq, not_exists, not_and]

theorem shadowOf_some {sh : List Shadow} {key : Nat} {e : Shadow} (h : shadowOf sh key = some e) : e ∈ sh ∧ e.reg = key :=
  ⟨List.mem_of_find?_eq_some h, by simpa using List.find?_some h⟩

/-- A register that the shadow holds takes its entry's value, every other one keeps its own. -/
theorem fileVal_landShadow {sh : List Shadow} (hnd : (sh.map (·.reg)).Nodup) (hbits : ShadowBits sh) {g : Group} (hwf : FilesWf g)
    (key : Nat) : fileVal (landShadow g sh) key = (shadowOf sh key).elim (fileVal g key) fun e => ⟨e.val, e.poison⟩ := by
  induction sh generalizing g with
  | nil => rfl
  | cons e sh ih =>
    rw [List.map_cons, List.nodup_cons] at hnd
    obtain ⟨hfresh, hnd⟩ := hnd
    have hrest := ih hnd (fun a ha => hbits a (List.mem_cons_of_mem _ ha)) (filePut_wf hwf e.reg e.val e.poison)
    rw [landShadow, List.foldl_cons]
    refine Eq.trans hrest ?_
    rw [shadowOf_cons]
    by_cases hk : e.reg = key
    · subst hk
      rw [shadowOf_eq_none.mpr hfresh, if_pos rfl]
      exact fileVal_filePut hwf e.poison (hbits e List.mem_cons_self)
    · rw [if_neg hk, fileVal_filePut_ne hwf _ _ (Ne.symm hk)]

/-- Only the two files change. -/
theorem landShadow_frame (sh : List Shadow) (g : Group) :
    landShadow g sh = { g with s := (landShadow g sh).s, sp := (landShadow g sh).sp } := by
  induction sh generalizing g with
  | nil => rfl
  | cons e sh ih =>
    rw [landShadow, List.foldl_cons]
    refine (ih _).trans ?_
    unfold filePut
    split <;> rfl

/-- The files after it come from the files before it. -/
theorem landShadow_files (sh : List Shadow) {g k : Group} (hs : k.s = g.s) (hsp : k.sp = g.sp) :
    (landShadow k sh).s = (landShadow g sh).s ∧ (landShadow k sh).sp = (landShadow g sh).sp := by
  induction sh generalizing g k with
  | nil => exact ⟨hs, hsp⟩
  | cons e sh ih =>
    obtain ⟨hs', hsp'⟩ := filePut_files e.reg e.val e.poison hs hsp
    exact ih hs' hsp'

/-! ## The merged shadow (R150) -/

/-- An entry of a region of depth 1 as the merge passes it on. -/
def loweredEntry (e : Shadow) : Shadow := { e with level := 0 }

/-- Every entry was written inside the region of depth 1. -/
def LevelOne (sh : List Shadow) : Prop := ∀ e ∈ sh, e.level = 1

/-- Side 0's entries that side 1 has not written over. -/
def unwritten (sh0 sh1 : List Shadow) : List Shadow := sh0.filter fun a => !(shadowOf sh1 a.reg).isSome

/-- A list built from the entries that fail a test. -/
theorem flatMap_else {α β : Type} (c : α → Bool) (f : α → β) (l : List α) :
    (l.flatMap fun a => if c a then [] else [f a]) = (l.filter fun a => !c a).map f := by
  induction l with
  | nil => rfl
  | cons a l ih => cases h : c a <;> simp [h, ih]

theorem mergeShadows_one {sh0 sh1 : List Shadow} (h0 : LevelOne sh0) (h1 : LevelOne sh1) :
    mergeShadows 1 sh0 sh1 = (sh1 ++ unwritten sh0 sh1).map loweredEntry := by
  rw [mergeShadows, List.map_append]
  congr 1
  · rw [List.map_eq_flatMap]
    refine List.flatMap_congr fun b hb => ?_
    cases shadowOf sh0 b.reg <;> simp [h1 b hb, loweredEntry]
  · rw [unwritten, ← flatMap_else]
    refine List.flatMap_congr fun a ha => ?_
    cases shadowOf sh1 a.reg <;> simp [h0 a ha, loweredEntry]

theorem shadowOf_append (a b : List Shadow) (key : Nat) : shadowOf (a ++ b) key = (shadowOf a key).or (shadowOf b key) :=
  List.find?_append

theorem shadowOf_loweredEntry (sh : List Shadow) (key : Nat) : shadowOf (sh.map loweredEntry) key = (shadowOf sh key).map loweredEntry := by
  simp [shadowOf, List.find?_map, Function.comp_def, loweredEntry]

theorem shadowOf_unwritten {sh0 sh1 : List Shadow} {key : Nat} (h : shadowOf sh1 key = none) :
    shadowOf (unwritten sh0 sh1) key = shadowOf sh0 key := by
  rw [shadowOf, unwritten, List.find?_filter]
  refine List.find?_congr fun a _ => ?_
  by_cases ha : a.reg = key <;> simp [ha, h]

/-- Of a register that both sides have written side 1's value is merged. -/
theorem shadowOf_merge {sh0 sh1 : List Shadow} (h0 : LevelOne sh0) (h1 : LevelOne sh1) (key : Nat) :
    shadowOf (mergeShadows 1 sh0 sh1) key = ((shadowOf sh1 key).or (shadowOf sh0 key)).map loweredEntry := by
  rw [mergeShadows_one h0 h1, shadowOf_loweredEntry, shadowOf_append]
  cases h : shadowOf sh1 key with
  | some e => rfl
  | none => rw [shadowOf_unwritten h]

theorem mergeShadows_nodup {sh0 sh1 : List Shadow} (h0 : LevelOne sh0) (h1 : LevelOne sh1) (n0 : (sh0.map (·.reg)).Nodup)
    (n1 : (sh1.map (·.reg)).Nodup) : ((mergeShadows 1 sh0 sh1).map (·.reg)).Nodup := by
  have hkeys : (mergeShadows 1 sh0 sh1).map (·.reg) = sh1.map (·.reg) ++ (unwritten sh0 sh1).map (·.reg) := by
    rw [mergeShadows_one h0 h1, List.map_map, ← List.map_append]
    rfl
  rw [hkeys]
  refine n1.append (n0.sublist (List.filter_sublist.map _)) fun key hk1 hk0 => ?_
  obtain ⟨a, ha, rfl⟩ := List.mem_map.mp hk0
  have hfree : (shadowOf sh1 a.reg).isSome = false := by simpa using (List.mem_filter.mp ha).2
  exact shadowOf_eq_none.mp (Option.isNone_iff_eq_none.mp (Option.isSome_eq_false_iff.mp hfree)) hk1

theorem mergeShadows_bits {sh0 sh1 : List Shadow} (h0 : LevelOne sh0) (h1 : LevelOne sh1) (b0 : ShadowBits sh0)
    (b1 : ShadowBits sh1) : ShadowBits (mergeShadows 1 sh0 sh1) := by
  rw [mergeShadows_one h0 h1]
  intro e he
  obtain ⟨a, ha, rfl⟩ := List.mem_map.mp he
  rcases List.mem_append.mp ha with ha | ha
  · exact b1 a ha
  · exact b0 a (List.mem_filter.mp ha).1

/-! ## The close of the only region (R148, R150) -/

/-- A path without waits that runs a side of the region of depth 1. -/
structure OnSide (pt : Path) (m : LaneMask) : Prop where
  depth : pt.depth = 1
  waits : pt.waits = []
  mask : pt.mask = m

/-- The sides of the group's only region are in its two slots, side 1 in slot `q`. -/
structure Meeting (g : Group) (r : Region) (q : Nat) : Prop where
  slot : q < 2
  stack : g.stack = [r]
  depth : regionDepth r = 1
  lanes0 : r.mask0 ≠ 0
  lanes1 : r.mask1 ≠ 0
  apart : r.mask0 &&& r.mask1 = 0
  side0 : OnSide (pathAt g (1 - q)) r.mask0
  side1 : OnSide (pathAt g q) r.mask1

/-- What the side in slot `i` leaves. -/
def slotEnd (g : Group) (i : Nat) : Option Nat × Nat × List Shadow × Nat × Option Nat :=
  (some i, (pathAt g i).pc, (pathAt g i).shadow, (pathAt g i).lastIssue, (pathAt g i).doomed)

theorem sideEnd_arrived {g : Group} {i : Nat} {m : LaneMask} (hi : i < 2) (hst : (pathAt g i).st ≠ .empty) (h : OnSide (pathAt g i) m)
    (hm : m ≠ 0) (hother : meets (pathAt g (1 - i)).mask m = false) (pc : Nat) (sh : List Shadow) (last : Nat) (doom : Option Nat) :
    sideEnd g 1 m .arrived pc sh last doom = slotEnd g i := by
  obtain rfl | rfl : i = 0 ∨ i = 1 := by omega
  · rw [show pathAt g 0 = g.p0 from rfl] at hst h
    simp [sideEnd, slotEnd, pathAt, hst, h.depth, h.mask, meets_self hm]
  · rw [show pathAt g 1 = g.p1 from rfl] at hst h
    have hother : meets g.p0.mask m = false := hother
    simp [sideEnd, slotEnd, pathAt, hst, h.depth, h.mask, meets_self hm, hother]

theorem meets_comm (a b : LaneMask) : meets a b = meets b a := by rw [meets, meets, BitVec.and_comm]

/-- The merged path, at the group's depth, with side 1's pc. -/
def mergedPath (g : Group) (r : Region) (q : Nat) : Path :=
  { st := .live, mask := r.mask0 ||| r.mask1, pc := (pathAt g q).pc
    lastIssue := max (pathAt g (1 - q)).lastIssue (pathAt g q).lastIssue
    doomed := (pathAt g q).doomed.orElse fun _ => (pathAt g (1 - q)).doomed }

/-- Both sides leave their slots, the merged shadow goes into the file and the merged path into side 1's slot. -/
theorem closeRegion_meeting {g : Group} {r : Region} {q : Nat} (m : Meeting g r q) (hst0 : r.st0 = .arrived) (hst1 : r.st1 = .arrived)
    (h0 : (pathAt g (1 - q)).st ≠ .empty) (h1 : (pathAt g q).st ≠ .empty) (spare : Nat) :
    ∃ u n, closeRegion g r.token (r.mask0 ||| r.mask1) spare =
        putPath { landShadow u (mergeShadows 1 (pathAt g (1 - q)).shadow (pathAt g q).shadow) with hndPath := n } q (mergedPath g r q)
      ∧ PathsOnly (mergeFlight g r (pathAt g q).shadow) u ∧ u.stack = [] ∧ pathAt u (1 - q) = {} := by
  have hslot := m.slot
  have hback : 1 - (1 - q) = q := by omega
  have hapart : meets r.mask0 r.mask1 = false := by simp [meets, m.apart]
  unfold closeRegion
  split
  · next hnone => simp [m.stack] at hnone
  · next r' hfound =>
    obtain rfl : r = r' := by simpa [m.stack] using hfound
    extract_lets d e0 e1 pc sh p waits ws merged clear freed unstacked filed inHandler handled
    have hd : d = 1 := m.depth
    have he0 : e0 = slotEnd g (1 - q) := by
      simp only [e0, hst0, hd]
      refine sideEnd_arrived (by omega) h0 m.side0 m.lanes0 ?_ _ _ _ _
      rw [hback, m.side1.mask, meets_comm, hapart]
    have he1 : e1 = slotEnd g q := by
      simp only [e1, hst1, hd]
      refine sideEnd_arrived hslot h1 m.side1 m.lanes1 ?_ _ _ _ _
      rw [m.side0.mask, hapart]
    have hp : p = q := by simp only [p, he0, he1]; rfl
    have hpc : pc = (pathAt g q).pc := by simp only [pc, hst1, he1]; rfl
    have hfreed : freed = putPath (putPath merged (1 - q) {}) q {} := by simp only [freed, he0, he1]; rfl
    have hunder : PathsOnly merged unstacked := by
      have hfree : PathsOnly merged freed := hfreed ▸ (putPath_pathsOnly _ _ _).trans (putPath_pathsOnly _ _ _)
      exact hfree.trans ⟨freed.p0, freed.p1, _, rfl⟩
    have hfiled : filed = landShadow unstacked sh := by simp only [filed, hd]; rfl
    obtain ⟨n, hhandled⟩ : ∃ n, handled = { landShadow unstacked sh with hndPath := n } := by
      simp only [handled, hfiled]
      split
      · exact ⟨p, rfl⟩
      · exact ⟨_, rfl⟩
    have hsh : sh = mergeShadows 1 (pathAt g (1 - q)).shadow (pathAt g q).shadow := by simp only [sh, hd, he0, he1]; rfl
    have hmerged : merged = mergeFlight g r (pathAt g q).shadow := by simp only [merged, he1]; rfl
    have hempty : unstacked.stack = [] := by
      have hfrom : freed.stack = [r] := by rw [hfreed, putPath_stack, putPath_stack]; exact m.stack
      simp [unstacked, hfrom]
    have hvacant : pathAt unstacked (1 - q) = {} := by
      refine (congrArg (pathAt · (1 - q)) hfreed).trans ?_
      rw [pathAt_putPath_other hslot, pathAt_putPath]
    have hws : ws = [] := by
      simp only [ws, waits, he0, he1, slotEnd, m.side0.waits, m.side1.waits, List.append_nil]
    refine ⟨unstacked, n, ?_, hmerged ▸ hunder, hempty, hvacant⟩
    rw [hhandled, hsh, hp, hpc, hws, if_pos hd, hd, he0, he1]
    rfl

/-- The group after the merge: what of it R150 fixes. -/
structure Merged (g : Group) (r : Region) (q : Nat) (h : Group) : Prop where
  stack : h.stack = []
  freed : (pathAt h (1 - q)).st = .empty
  path : pathAt h q = mergedPath g r q
  kept : h.v = g.v ∧ h.p = g.p ∧ h.x = g.x ∧ h.macc = g.macc
  file : ∀ key, fileVal h key = fileVal (landShadow g (mergeShadows 1 (pathAt g (1 - q)).shadow (pathAt g q).shadow)) key
  inflight : h.inflight = (mergeFlight g r (pathAt g q).shadow).inflight

theorem fileVal_congr {g h : Group} (hs : h.s = g.s) (hsp : h.sp = g.sp) (key : Nat) : fileVal h key = fileVal g key := by
  simp only [fileVal, hs, hsp]

theorem closeRegion_merged {g : Group} {r : Region} {q : Nat} (m : Meeting g r q) (hst0 : r.st0 = .arrived) (hst1 : r.st1 = .arrived)
    (h0 : (pathAt g (1 - q)).st ≠ .empty) (h1 : (pathAt g q).st ≠ .empty) (spare : Nat) :
    Merged g r q (closeRegion g r.token (r.mask0 ||| r.mask1) spare) := by
  obtain ⟨u, n, hclose, ⟨a, b, l, hu⟩, hempty, hvacant⟩ := closeRegion_meeting m hst0 hst1 h0 h1 spare
  rw [hclose]
  generalize hsh : mergeShadows 1 (pathAt g (1 - q)).shadow (pathAt g q).shadow = sh
  have hin := landShadow_frame sh u
  have hout := putPath_pathsOnly { landShadow u sh with hndPath := n } q (mergedPath g r q)
  obtain ⟨hs, hsp⟩ := landShadow_files sh (show u.s = g.s by rw [hu]; rfl) (show u.sp = g.sp by rw [hu]; rfl)
  obtain ⟨hv', hs', hsp', hp', hx', -⟩ := hout.sameFiles
  obtain ⟨hmacc, hflight⟩ := hout.pending
  refine ⟨?_, ?_, ?_, ?_, ?_, ?_⟩
  · rw [putPath_stack, hin]
    exact hempty
  · rw [pathAt_putPath_other m.slot, hin]
    exact congrArg Path.st hvacant
  · rw [pathAt_putPath]
  · rw [hv', hp', hx', hmacc, hin, hu]
    exact ⟨rfl, rfl, rfl, rfl⟩
  · exact fun key => hsh ▸ fileVal_congr (hs'.trans hs) (hsp'.trans hsp) key
  · rw [hflight, hin, hu]

/-! ## JOIN of the second side (R148, R150) -/

theorem Meeting.slot_cases {g : Group} {r : Region} {q i : Nat} (m : Meeting g r q) (hi : i < 2) : i = q ∨ i = 1 - q := by
  have := m.slot
  omega

theorem Meeting.meets_either {g : Group} {r : Region} {q i : Nat} (m : Meeting g r q) (hi : i < 2) :
    meets r.mask0 (pathAt g i).mask = true ∨ meets r.mask1 (pathAt g i).mask = true := by
  rcases m.slot_cases hi with rfl | rfl
  · exact .inr (by rw [m.side1.mask, meets_self m.lanes1])
  · exact .inl (by rw [m.side0.mask, meets_self m.lanes0])

theorem Meeting.path_depth {g : Group} {r : Region} {q i : Nat} (m : Meeting g r q) (hi : i < 2) : (pathAt g i).depth = 1 := by
  rcases m.slot_cases hi with rfl | rfl
  · exact m.side1.depth
  · exact m.side0.depth

/-- A side's path finds the region. -/
theorem Meeting.innermost_eq {g : Group} {r : Region} {q i : Nat} (m : Meeting g r q) (hi : i < 2) :
    innermost g (pathAt g i) = some r := by
  simp [innermost, m.stack, m.depth, m.path_depth hi, m.meets_either hi]

theorem Meeting.waits {g : Group} {r : Region} {q i : Nat} (m : Meeting g r q) (hi : i < 2) : (pathAt g i).waits = [] := by
  rcases m.slot_cases hi with rfl | rfl
  · exact m.side1.waits
  · exact m.side0.waits

/-- With both sides arrived the region closes. -/
theorem settleJoin_meeting {g : Group} {r : Region} {q p : Nat} (m : Meeting g r q) (hp : p < 2) (hst0 : r.st0 = .arrived)
    (hst1 : r.st1 = .arrived) (hjoin : (pathAt g p).st = .join) :
    settleJoin g p = fillSlots (closeRegion g r.token (r.mask0 ||| r.mask1) p) := by
  have hfree : sideWaits g r = false := by
    have h0 : g.p0.waits = [] := m.waits (i := 0) (by decide)
    have h1 : g.p1.waits = [] := m.waits (i := 1) (by decide)
    simp [sideWaits, h0, h1]
  have hother : sideOver (otherSide r (pathAt g p)) = true := by
    simp [otherSide, hst0, hst1, sideOver]
  simp [settleJoin, m.innermost_eq hp, hjoin, hfree, hother]

/-- A path that stands at JOIN, and a region both of whose sides have arrived. -/
def atJoin (pt : Path) : Path := { pt with st := .join }
def arrivedBoth (r : Region) : Region := { r with st0 := .arrived, st1 := .arrived }

/-- What a merge gives does not depend on which path had come to JOIN. -/
theorem Merged.of_atJoin {g k h : Group} {r : Region} {q : Nat} (hc : Merged k (arrivedBoth r) q h) (hfrom : PathsOnly g k)
    (h0 : pathAt k (1 - q) = atJoin (pathAt g (1 - q))) (h1 : pathAt k q = atJoin (pathAt g q)) : Merged g r q h := by
  obtain ⟨hstack, hfreed, hpath, hkept, hfile, hflight⟩ := hc
  rw [mergedPath, h0, h1] at hpath
  rw [h0, h1] at hfile
  rw [h1] at hflight
  obtain ⟨a, b, l, rfl⟩ := hfrom
  refine ⟨hstack, hfreed, hpath, hkept, fun key => (hfile key).trans ?_, hflight⟩
  obtain ⟨hs, hsp⟩ := landShadow_files (mergeShadows 1 (pathAt g (1 - q)).shadow (pathAt g q).shadow)
    (show { g with p0 := a, p1 := b, stack := l }.s = g.s from rfl) (show { g with p0 := a, p1 := b, stack := l }.sp = g.sp from rfl)
  exact fileVal_congr hs hsp key

/-- The group when the side in slot `p` arrives at JOIN, `one` telling whether it is side 1. -/
def arrivingAtJoin (g : Group) (p : Nat) (r : Region) (one : Bool) : Group :=
  putPath (modRegion g r.token (pathAt g p).mask fun r => if one then { r with st1 := .arrived } else { r with st0 := .arrived }) p
    (atJoin (pathAt g p))

section
variable {g : Group} {r : Region} {q p : Nat} (m : Meeting g r q) {one : Bool} (hp : p = if one then q else 1 - q)
include m hp

theorem arrivingAtJoin_slot : p < 2 := by
  have := m.slot
  rw [hp]
  split <;> omega

/-- Only side 1's path meets side 1's lanes. -/
theorem arrivingAtJoin_side : meets r.mask1 (pathAt g p).mask = one := by
  cases one with
  | true => rw [hp, if_pos rfl, m.side1.mask, meets_self m.lanes1]
  | false =>
    rw [hp, if_neg Bool.false_ne_true, m.side0.mask, meets_comm]
    simp [meets, m.apart]

theorem joinPath_settles : joinPath g p = settleJoin (arrivingAtJoin g p r one) p := by
  simp only [joinPath, m.innermost_eq (arrivingAtJoin_slot m hp), arrivingAtJoin_side m hp]
  rfl

variable (hother : (pathAt g (1 - p)).st = .join) (hst : (if one then r.st0 else r.st1) = .arrived)

include hother in
/-- Both paths stand at JOIN then. -/
theorem pathAt_arrivingAtJoin {i : Nat} (hi : i < 2) : pathAt (arrivingAtJoin g p r one) i = atJoin (pathAt g i) := by
  have hslot := arrivingAtJoin_slot m hp
  obtain rfl | rfl : i = p ∨ i = 1 - p := by omega
  · rw [arrivingAtJoin, pathAt_putPath]
  · rw [arrivingAtJoin, pathAt_putPath_other hslot, pathAt_modRegion, atJoin, ← hother]

include hst in
theorem arrivingAtJoin_stack : (arrivingAtJoin g p r one).stack = [arrivedBoth r] := by
  have hregion : (if one then { r with st1 := .arrived } else { r with st0 := .arrived } : Region) = arrivedBoth r := by
    cases one with
    | true => rw [arrivedBoth, ← show r.st0 = .arrived from hst]; rfl
    | false => rw [arrivedBoth, ← show r.st1 = .arrived from hst]; rfl
  rw [arrivingAtJoin, putPath_stack, ← hregion]
  simp [modRegion, m.stack, m.meets_either (arrivingAtJoin_slot m hp)]

include hother hst

theorem arrivingAtJoin_meeting : Meeting (arrivingAtJoin g p r one) (arrivedBoth r) q := by
  have hslot := m.slot
  refine ⟨hslot, arrivingAtJoin_stack m hp hst, m.depth, m.lanes0, m.lanes1, m.apart, ?_, ?_⟩
  · rw [pathAt_arrivingAtJoin m hp hother (by omega)]
    exact ⟨m.side0.depth, m.side0.waits, m.side0.mask⟩
  · rw [pathAt_arrivingAtJoin m hp hother hslot]
    exact ⟨m.side1.depth, m.side1.waits, m.side1.mask⟩

/-- JOIN of a side whose other side stands at JOIN merges the two. -/
theorem joinPath_merged : Merged g r q (joinPath g p) := by
  have hp2 := arrivingAtJoin_slot m hp
  have hm := arrivingAtJoin_meeting m hp hother hst
  have h0 := pathAt_arrivingAtJoin m hp hother (i := 1 - q) (by omega)
  have h1 := pathAt_arrivingAtJoin m hp hother m.slot
  have hjoin : (pathAt (arrivingAtJoin g p r one) p).st = .join := by rw [pathAt_arrivingAtJoin m hp hother hp2]; rfl
  have hc := closeRegion_merged hm rfl rfl (by rw [h0]; exact PathSt.noConfusion) (by rw [h1]; exact PathSt.noConfusion) p
  rw [joinPath_settles m hp, settleJoin_meeting hm hp2 rfl rfl hjoin, fillSlots_of_stack_nil hc.stack]
  exact hc.of_atJoin ((modRegion_pathsOnly _ _ _ _).trans (putPath_pathsOnly _ _ _)) h0 h1

end

/-- What the shadow of a side may hold (R149, R400). -/
structure SideShadow (sh : List Shadow) : Prop where
  nodup : (sh.map (·.reg)).Nodup
  level : LevelOne sh
  bits : ShadowBits sh

/-- A register takes side 1's value where side 1 wrote it, else side 0's where side 0 did. -/
theorem Merged.fileVal_eq {g h : Group} {r : Region} {q : Nat} (m : Merged g r q h) (hwf : FilesWf g)
    (h0 : SideShadow (pathAt g (1 - q)).shadow) (h1 : SideShadow (pathAt g q).shadow) (key : Nat) : fileVal h key =
      ((shadowOf (pathAt g q).shadow key).or (shadowOf (pathAt g (1 - q)).shadow key)).elim (fileVal g key)
        fun e => ⟨e.val, e.poison⟩ := by
  rw [m.file, fileVal_landShadow (mergeShadows_nodup h0.level h1.level h0.nodup h1.nodup)
    (mergeShadows_bits h0.level h1.level h0.bits h1.bits) hwf, shadowOf_merge h0.level h1.level]
  cases (shadowOf (pathAt g q).shadow key).or (shadowOf (pathAt g (1 - q)).shadow key) <;> rfl

/-- A result in flight of side 0 for a uniform lands at the group's depth, or is dropped where side 1 has written the register. -/
theorem mergeFlight_side0 {g : Group} {r : Region} {sh1 : List Shadow} (hd : regionDepth r = 1) (h0 : r.mask0 ≠ 0)
    (hapart : r.mask0 &&& r.mask1 = 0) (hl1 : LevelOne sh1) {left n : Nat} {x : PWord}
    (hin : (⟨r.mask0, 1, left, [.s n x]⟩ : Result) ∈ g.inflight) :
    (⟨r.mask0, 0, left, if (shadowOf sh1 n).isSome then [] else [.s n x]⟩ : Result) ∈ (mergeFlight g r sh1).inflight := by
  refine List.mem_map.mpr ⟨_, hin, ?_⟩
  have hor : meets r.mask0 (r.mask0 ||| r.mask1) = true := meets_or (.inl (meets_self h0))
  have hout : meets r.mask0 r.mask1 = false := by simp [meets, hapart]
  cases hsh : shadowOf sh1 n with
  | none => simp [hd, meets_self h0, hor, hout, hsh]
  | some e => simp [hd, meets_self h0, hor, hout, hsh, hl1 e (shadowOf_some hsh).1]

end Sys2Proof.Laws
end

section
/-! SUPPORT. The events of windows, latches and streams, and the statement O45 that is assembled from the rules above (R45, R72, R73,
R144-R150, R160). -/

namespace Sys2Proof.Laws.WindowsLatchesAndStreams

open Sys2Proof.Machine Sys2Proof.Safety Sys2Proof.Laws

section
variable (s : State)

theorem exec_delayWindowClose : exec .delayWindowClose s = .next (closeWindow s s.args.n s.args.m) := by rfl
theorem exec_scaleLatchEffect : exec .scaleLatchEffect s = .next (latchEffect s s.args.n) := by rfl
theorem exec_wellspringFill : exec .wellspringFill s = .next (fillLane s s.args.n s.args.m) := by rfl

end

/-- The path with its window gone has its region still to open. -/
theorem opening_of_closed {g : Group} {p : Nat} {r : Region} {rest : List Region} (o : Opening g p r rest) :
    Opening (modPath g p fun pt => { pt with window := none }) p r rest :=
  ⟨(putPath_stack _ _ _).trans o.stack, o.st0, o.depth.trans (by rw [pathAt_modPath]), o.lanes.trans (by rw [pathAt_modPath])⟩

/-- The shadow of a side in a region of depth 1, its entries being for uniforms or scalar predicates. -/
theorem sideShadow_of_entries {sh : List Shadow} (hnd : (sh.map (·.reg)).Nodup)
    (h : ∀ e ∈ sh, e.level = 1 ∧ (e.reg < 1024 ∨ (0x8000 ≤ e.reg ∧ e.val.toNat ≤ 1))) : SideShadow sh :=
  ⟨hnd, fun e he => (h e he).1, fun e he => (h e he).2.imp (fun hlt => by omega) And.right⟩

/-- The slots of the two sides, the joining path in slot `p` being side 1 or not. -/
theorem sideSlots {p : Nat} (hp : p < 2) (one : Bool) : let q := if one then p else 1 - p
    q < 2 ∧ p = (if one then q else 1 - q) ∧ (if one = decide (0 = 1) then p else 1 - p) = 1 - q
      ∧ (if one = decide (1 = 1) then p else 1 - p) = q := by
  cases one <;> simp <;> omega

/-- Settles O45, clause by clause. -/
theorem windowsLatchesAndStreams : Obligations.WindowsLatchesAndStreams := by
  unfold Obligations.WindowsLatchesAndStreams
  refine ⟨fun s g hg => ?events, fun g p r rest hp hfree hstack hst => ?fill, ?merge⟩
  case events =>
    intro pt
    refine ⟨?branch, ?link, ?fork, ?stays, ?latch, ?fills, ?full⟩
    case branch =>
      intro w hw hleft hwaits hlink hfork
      rw [exec_delayWindowClose, closeWindow_branches hg hw hleft hwaits hfork, windowLinked_none g _ hlink, modPath_modPath]
    case link =>
      intro w d hw hleft hwaits hlink hfork
      rw [exec_delayWindowClose, closeWindow_branches hg hw hleft hwaits hfork, windowLinked_pair g _ hlink]
    case fork =>
      intro w r rest hp hw hleft hwaits hlink hfork hstack hst hd hlanes hm
      have o := opening_of_closed (g := g) (p := s.args.m) ⟨hstack, hst, hd, hlanes⟩
      have hother : pathAt (modPath g s.args.m fun pt => { pt with window := none }) (1 - s.args.m) = pathAt g (1 - s.args.m) :=
        pathAt_putPath_other hp _ _
      have hsides := meets_side hlanes hm
      have honly := (putPath_pathsOnly g s.args.m _).trans (forkRegion_pathsOnly o pt.pc)
      refine ⟨_, (exec_delayWindowClose s).trans (congrArg _ (closeWindow_forks hg hw hleft hwaits hlink hfork)),
        honly.sameFiles, honly.sameSpecials, honly.pending.1, honly.pending.2, fun hfree => ?_, fun htaken => ?_⟩
      · rw [forkRegion_free o _ (hother ▸ hfree), pathAt_modPath]
        exact ⟨⟨rfl, rfl, rfl, rfl, rfl, rfl⟩, ⟨rfl, rfl, rfl, rfl, rfl, rfl⟩, _, modRegion_head _ o.stack hsides, rfl, rfl, rfl⟩
      · rw [forkRegion_taken o _ (hother ▸ htaken), pathAt_modPath]
        refine ⟨?_, ?_, _, (congrArg List.head? (putPath_stack _ _ _)).trans (modRegion_head _ o.stack hsides), rfl, rfl, rfl, rfl, rfl⟩
        · rw [pathAt_putPath]
          exact ⟨rfl, rfl, rfl, rfl, rfl, rfl⟩
        · rw [pathAt_putPath_other hp, pathAt_modRegion, hother]
    case stays => exact fun h => (exec_delayWindowClose s).trans (congrArg _ (closeWindow_stays hg h))
    case latch =>
      exact fun k x rest hpend hrest => (exec_scaleLatchEffect s).trans (congrArg _ (latchEffect_first hg hpend hrest))
    case fills =>
      intro hroom
      rw [exec_wellspringFill, fillLane, modGroup_some _ hg, fillStream, if_neg (by omega)]
    case full =>
      intro hfull
      rw [exec_wellspringFill, fillLane, modGroup_some _ hg, fillStream, if_pos hfull]
  case fill =>
    intro h
    have heq : h = _ := fillSlot_pending hfree hstack hst
    have honly : PathsOnly g h := heq ▸ (modRegion_pathsOnly _ _ _ _).trans (putPath_pathsOnly _ _ _)
    have hpath : pathAt h p = pendingSide1 r := by rw [heq, pathAt_putPath]
    rw [hpath]
    exact ⟨rfl, rfl, rfl, rfl, rfl, by rw [heq, pathAt_putPath_other hp, pathAt_modRegion], honly.sameFiles⟩
  case merge =>
    intro g p r hp ⟨_, hwfs, hwfsp, _⟩ hstack hd h0 h1 hapart one side hsides _ hjoin hst _ h q
    obtain ⟨hslot, hp', hslot0, hslot1⟩ := sideSlots hp one
    have hside0 : side 0 = pathAt g (1 - q) := congrArg (pathAt g) hslot0
    have hside1 : side 1 = pathAt g q := congrArg (pathAt g) hslot1
    obtain ⟨hd0, hw0, hm0, hn0, he0⟩ := hsides 0 (by decide)
    obtain ⟨hd1, hw1, hm1, hn1, he1⟩ := hsides 1 (by decide)
    rw [hside0] at hd0 hw0 hm0 hn0 he0
    rw [hside1] at hd1 hw1 hm1 hn1 he1
    have s0 := sideShadow_of_entries hn0 he0
    have s1 := sideShadow_of_entries hn1 he1
    have hmeeting : Meeting g r q := ⟨hslot, hstack, hd, h0, h1, hapart, ⟨hd0, hw0, hm0⟩, ⟨hd1, hw1, hm1⟩⟩
    have hmerged : Merged g r q h := joinPath_merged hmeeting hp' hjoin hst
    have hfile := hmerged.fileVal_eq ⟨hwfs, hwfsp⟩ s0 s1
    obtain ⟨hv, hpred, hx, hmacc⟩ := hmerged.kept
    rw [hside0, hside1]
    refine ⟨hmerged.stack, hmerged.freed, ?_, hv, hpred, hx, hmacc, fun n hn => ?_, fun n hn => ?_, fun left n x hin => ?_⟩
    · rw [show pathAt h q = mergedPath g r q from hmerged.path]
      exact ⟨rfl, rfl, rfl, rfl, rfl⟩
    · rw [tget_s_fileVal _ (by omega), hfile, tget_s_fileVal g (by omega)]
      cases shadowOf (pathAt g q).shadow n <;> cases shadowOf (pathAt g (1 - q)).shadow n <;> rfl
    · rw [tget_sp_fileVal h, hfile, tget_sp_fileVal g]
      cases shadowOf (pathAt g q).shadow (0x8000 + n) <;> cases shadowOf (pathAt g (1 - q)).shadow (0x8000 + n) <;> rfl
    · have hlate := mergeFlight_side0 hd h0 hapart s1.level hin
      rw [← hmerged.inflight] at hlate
      exact ⟨fun hsome => by rwa [if_pos hsome] at hlate, fun hnone => by rwa [hnone] at hlate⟩

end Sys2Proof.Laws.WindowsLatchesAndStreams
end

section
/-! SUPPORT. The round trip of encoding and decoding: the fields of each kind of word, the E slots after a base word, and the statement
O51 that is assembled from them (R52-R62, R80). -/

namespace Sys2Proof.Laws.EncodingRoundTrip

open Sys2Proof.Machine

/-- Every instruction's row is the one that its fields select. -/
theorem statement (i : Instr) : Statement i :=
  i.casesOn
    uadd usub umul umulhS umulhU uand uor uxor ushl ushr usar uminS uminU umaxS umaxU ucmpS ucmpU usel umov umovImm
    umovHi umovw uldx ustx upopc uclz ubfx ubfi urds uwrs vadd vsub vmul vmulhS vmulhU vand vor vxor vshl vshr vsar
    vminS vminU vmaxS vmaxU vclz vpopc vbfx vbfi vsel vcmpS vcmpU fcmpF32 fcmpF64 faddF32 fsubF32 fmulF32 ffmaF32
    fminF32 fmaxF32 fdivF32 fsqrtF32 frcpF32 frsqF32 fexp2F32 flog2F32 fsinF32 fcosF32 faddF16 fsubF16 fmulF16
    ffmaF16 faddF64 fsubF64 fmulF64 ffmaF64 fminF64 fmaxF64 fdivF64 fsqrtF64 frcpF64 frsqF64 pand por pxor pnot
    vshuf vbcast vbcastLane vred vvote vqdx vqdy ldB8 ldS8 ldB16 ldS16 ldB32 ldB64 stB8 stB16 stB32 stB64 ldsB8
    ldsS8 ldsB16 ldsS16 ldsB32 ldsB64 ldpB8 ldpS8 ldpB16 ldpS16 ldpB32 ldpB64 stpB8 stpB16 stpB32 stpB64 ldt stt
    fence drain pref atomAdd atomMinS atomMinU atomMaxS atomMaxU atomAnd atomOr atomXor atomExch atomAddB64
    atomExchB64 atomFaddF32 atomFminF32 atomFmaxF32 atomcB32 atomcB64 fifopush fifopop grstep gbox gtri2 gcurve
    gpsplit gpflat gtex gtexl gpublish mxdef mxdefRel mxcall mxparm mxacc mxzero kset kld cvtF64 cvtF32 cvtF16
    cvtBf16 cvtE4m3 cvtE5m2 cvtI32 cvtI16 cvtI8 cvtI4 cvtUn8 cvtSrgb8 cvtB1 cvtE8m0 cpack cunpack cpy coll twait
    ttest tcancel tdet trel tprio cntwaitMx cntwaitCp cntwaitCo qput rres rcommit rngseed bra brcAny brcAll brcNone
    brcNall brd join call ret chk yield exit lfill bar barArrive barWait barbInit barbExpect barbArrive barbWait
    rbrel rbclaim trap rte rteSkip bankmode prpub posew tracemark brk waitevt enrd hSlot slAdd slSub slAnd slOr
    slXor slShl slShr slSar slMin slMax slSlt slSeq slAddi slMovi slMovl slFadd slFsub slFmin slFmax slFslt slF2i
    slI2f slF2h slH2fl slH2fh slFmul slFfma slFdiv slFrcp slFsqrt slMFadd slMFsub slImul slMMovi slMMovl slLdw
    slStw slOut slLAdd slLAddi slLMovi slLMovl slSampBl slSampPt slXferA slXferB slXferM slXferL slXferW slXferC
    slBr slBrnz slBrz slWait slWaitMb slWaitFr slWaitFifo slFetch slOxcall slPose slSys slCMovi slCMovl slCAddi
    slDone ctxCreate ctxPreempt ctxResume ctxDestroy energyWrite fqlostRead contextSaveComplete asnSweepComplete
    queueBind queueUnbind queueSuspend queueResume queueReset qdoorWrite qfaultRead nop launch blocklaunch waitmem
    waitmemSatisfied signal depend indirect present capstart capstop rqconfConfigure rqconfFlush rqconfTearDown
    successorEnqueue kernelAdmit setBirth kernelCancel bundleIssue resultLand delayWindowClose scaleLatchEffect
    groupRetire claimGrant watchdog wellspringFill memoryResultLand storePerform clusterCopyExpire congestionSet
    congestionClear bankModeFenceComplete waitevtWake waitevtLimit childStart copyChunkComplete circuitBeatArrive
    childComplete childPause pgInvalidate pgInvalidateAll pgResolve pgReject unitQuiesceInvalidate
    invalidationLimit correctedSoftError rowRemap linkTrain linkDrain linkDown lnkcntRead linkPhyTrained
    linkPhyTrainFail linkNegotiated slpFlitReceive linkLaneLoss remoteMemoryRequest remoteMemoryResponse
    collectiveFlitReceive streamFlitReceive routeWrite headStart headStop hmissRead hevtailRead poseCommit
    mailboxWrite publicationTake headOutputTrained headOutputTrainFail headOutputLost poseLatch sliceStart
    sliceDeadline sliceOutput fetchComplete tarnCallStart tarnCallComplete slcoreStop slcoreRun slcoreStep
    slBreakpoint debugCycleStop dbgstatRead issueHold hostReservedAccess registerWrite powerOnReset resetRequest
    imageUpload ageingUpdate attestationReport outputFifoDrain sampTexelArrival hostMemoryAccess

/-! ## Fields of a word (R52, R58) -/

/-- A field of a word that is given as a number. -/
theorem toNat_extract_ofNat (n lo len : Nat) (h : n < 2 ^ 32) :
    ((BitVec.ofNat 32 n).extractLsb' lo len).toNat = n / 2 ^ lo % 2 ^ len := by
  rw [BitVec.extractLsb'_toNat, BitVec.toNat_ofNat, Nat.mod_eq_of_lt h, Nat.shiftRight_eq_div_pow]

/-- A bit of a word that is given as a number. -/
theorem getLsbD_ofNat_eq (w n i : Nat) (h : n < 2 ^ w) : (BitVec.ofNat w n).getLsbD i = decide (n / 2 ^ i % 2 = 1) := by
  rw [BitVec.getLsbD, BitVec.toNat_ofNat, Nat.mod_eq_of_lt h, Nat.testBit_eq_decide_div_mod_eq]

theorem b01_lt (b : Bool) : b01 b < 2 := by cases b <;> decide

theorem decide_b01 (b : Bool) : decide (b01 b = 1) = b := by cases b <;> rfl

/-- The base word of a slot. -/
def baseWord (stop : Bool) (cls op : Nat) (s : Slot) : Word :=
  BitVec.ofNat 32 (fieldAt (b01 stop) 31 + fieldAt cls 27 + fieldAt s.p.toNat 24 + fieldAt op 18
    + fieldAt s.d.toNat 12 + fieldAt s.a.toNat 6 + s.b.toNat)

/-- The words of a slot, by the E slots that stand. -/
theorem encodeFields_eq (cls op : Nat) (s : Slot) : encodeFields cls op s = match s.imm, s.mod with
    | none, none => [baseWord s.stop cls op s]
    | some x, none => [baseWord false cls op s, eWord s.stop 0 x]
    | none, some m => [baseWord false cls op s, eWord s.stop 1 (payloadOfMod m)]
    | some x, some m => [baseWord false cls op s, eWord false 0 x, eWord s.stop 1 (payloadOfMod m)] := by
  unfold encodeFields baseWord
  cases s.imm <;> cases s.mod <;> rfl

section
variable {cls op : Nat} (stop : Bool) (s : Slot) (hcls : cls < 16) (hop : op < 64)
include hcls hop

/-- Every field of a base word reads back. -/
theorem baseWord_fields : wordClass (baseWord stop cls op s) = cls ∧ wordStop (baseWord stop cls op s) = stop
    ∧ (baseWord stop cls op s).extractLsb' 24 3 = s.p ∧ ((baseWord stop cls op s).extractLsb' 18 6).toNat = op
    ∧ (baseWord stop cls op s).extractLsb' 12 6 = s.d ∧ (baseWord stop cls op s).extractLsb' 6 6 = s.a
    ∧ (baseWord stop cls op s).extractLsb' 0 6 = s.b := by
  have hstop := b01_lt stop
  have hp := s.p.isLt
  have hd := s.d.isLt
  have ha := s.a.isLt
  have hb := s.b.isLt
  unfold baseWord wordClass wordStop
  generalize hn : fieldAt (b01 stop) 31 + fieldAt cls 27 + fieldAt s.p.toNat 24 + fieldAt op 18
    + fieldAt s.d.toNat 12 + fieldAt s.a.toNat 6 + s.b.toNat = n
  simp only [fieldAt] at hn
  have hlt : n < 2 ^ 32 := by omega
  refine ⟨?_, ?_, BitVec.eq_of_toNat_eq ?_, ?_, BitVec.eq_of_toNat_eq ?_, BitVec.eq_of_toNat_eq ?_, BitVec.eq_of_toNat_eq ?_⟩
  case refine_2 =>
    rw [getLsbD_ofNat_eq 32 n 31 hlt, show n / 2 ^ 31 % 2 = b01 stop by omega, decide_b01]
  all_goals
    rw [toNat_extract_ofNat n _ _ hlt]
    omega

end

/-- Every field of an E slot reads back. -/
theorem eWord_fields (stop : Bool) {kind : Nat} (hk : kind < 4) (x : BitVec 24) : wordClass (eWord stop kind x) = 11
    ∧ wordStop (eWord stop kind x) = stop ∧ ((eWord stop kind x).extractLsb' 25 2).toNat = kind
    ∧ (eWord stop kind x).extractLsb' 0 24 = x ∧ (eWord stop kind x).getLsbD 24 = false := by
  have hstop := b01_lt stop
  have hx := x.isLt
  unfold eWord wordClass wordStop
  generalize hn : fieldAt (b01 stop) 31 + fieldAt 11 27 + fieldAt kind 25 + x.toNat = n
  simp only [fieldAt] at hn
  have hlt : n < 2 ^ 32 := by omega
  refine ⟨?_, ?_, ?_, BitVec.eq_of_toNat_eq ?_, ?_⟩
  case refine_2 =>
    rw [getLsbD_ofNat_eq 32 n 31 hlt, show n / 2 ^ 31 % 2 = b01 stop by omega, decide_b01]
  case refine_5 =>
    rw [getLsbD_ofNat_eq 32 n 24 hlt, show n / 2 ^ 24 % 2 = 0 by omega]
    rfl
  all_goals
    rw [toNat_extract_ofNat n _ _ hlt]
    omega

/-- Every field of a modifier's payload reads back, and its reserved bit is 0 (R60). -/
theorem modOfPayload_payloadOfMod (m : EMod) : modOfPayload (payloadOfMod m) = m ∧ (payloadOfMod m).getLsbD 0 = false := by
  obtain ⟨cv, creg, rm, scope, cache, fmt, lf, sat, det⟩ := m
  have hcv := b01_lt cv
  have hcreg := creg.isLt
  have hrm := rm.isLt
  have hscope := scope.isLt
  have hcache := cache.isLt
  have hfmt := fmt.isLt
  have hlf := b01_lt lf
  have hsat := b01_lt sat
  have hdet := b01_lt det
  unfold modOfPayload payloadOfMod
  dsimp only
  generalize hn : fieldAt (b01 cv) 23 + fieldAt creg.toNat 17 + fieldAt rm.toNat 14 + fieldAt scope.toNat 11
    + fieldAt cache.toNat 8 + fieldAt fmt.toNat 4 + fieldAt (b01 lf) 3 + fieldAt (b01 sat) 2 + fieldAt (b01 det) 1 = n
  simp only [fieldAt] at hn
  have hlt : n < 2 ^ 24 := by omega
  have hfield {len : Nat} (x : BitVec len) (lo : Nat) (h : n / 2 ^ lo % 2 ^ len = x.toNat) :
      (BitVec.ofNat 24 n).extractLsb' lo len = x := BitVec.eq_of_toNat_eq (by
    rw [BitVec.extractLsb'_toNat, BitVec.toNat_ofNat, Nat.mod_eq_of_lt hlt, Nat.shiftRight_eq_div_pow, h])
  have hbit (b : Bool) (i : Nat) (h : n / 2 ^ i % 2 = b01 b) : (BitVec.ofNat 24 n).getLsbD i = b := by
    rw [getLsbD_ofNat_eq 24 n i hlt, h, decide_b01]
  rw [hbit cv 23 (by omega), hbit lf 3 (by omega), hbit sat 2 (by omega), hbit det 1 (by omega), hfield creg 17 (by omega),
    hfield rm 14 (by omega), hfield scope 11 (by omega), hfield cache 8 (by omega), hfield fmt 4 (by omega)]
  exact ⟨rfl, hbit false 0 (show n / 2 ^ 0 % 2 = 0 by omega)⟩

/-! ## E slots after a base word (R56, R80) -/

/-- No E slot of the bundle follows. -/
def Ends (stop : Bool) (rest : List Word) : Prop := stop = true ∨ ∀ x ∈ rest.head?, wordClass x ≠ 11

theorem takeE_ends {e : ESlots} {rest : List Word} (h : Ends e.stop rest) (off : Nat) : takeE e off rest = { e with rest := rest } := by
  cases rest with
  | nil => rfl
  | cons w ws =>
    have hleft : (e.stop || wordClass w != 11) = true := by
      rcases h with h | h
      · rw [h, Bool.true_or]
      · simp [h w (by simp)]
    simp [takeE, hleft]

/-- An immediate E slot where one may stand is taken. -/
theorem takeE_imm {e : ESlots} {off : Nat} (stop : Bool) (x : BitVec 24) (rest : List Word) (hstop : e.stop = false) (hoff : off ≤ 2)
    (himm : e.imm = none) : takeE e off (eWord stop 0 x :: rest) = takeE { e with imm := some x, stop := stop } (off + 1) rest := by
  obtain ⟨hclass, hst, hkind, hpayload, hres⟩ := eWord_fields stop (show 0 < 4 by decide) x
  simp [-BitVec.getLsbD_eq_getElem, takeE, hclass, hst, hkind, hpayload, hres, hstop, himm, show ¬2 < off by omega]

/-- A modifier E slot where one may stand is taken. -/
theorem takeE_mod {e : ESlots} {off : Nat} (stop : Bool) (m : EMod) (rest : List Word) (hstop : e.stop = false) (hoff : off ≤ 2)
    (hmod : e.mod = none) : takeE e off (eWord stop 1 (payloadOfMod m) :: rest) =
      takeE { e with mod := some (payloadOfMod m), stop := stop } (off + 1) rest := by
  obtain ⟨hclass, hst, hkind, hpayload, hres⟩ := eWord_fields stop (show 1 < 4 by decide) (payloadOfMod m)
  simp [-BitVec.getLsbD_eq_getElem, takeE, hclass, hst, hkind, hpayload, hres, hstop, hmod, (modOfPayload_payloadOfMod m).2, show ¬2 < off by omega]

/-- A slot's words are its base word and E slots that give back its immediate, its modifier and its stop bit. -/
theorem encodeFields_takeE (cls op : Nat) (s : Slot) {rest : List Word} (h : Ends s.stop rest) : ∃ stop ws,
    encodeFields cls op s ++ rest = baseWord stop cls op s :: ws
    ∧ takeE { stop := stop } 1 ws = ⟨s.imm, s.mod.map payloadOfMod, false, s.stop, rest⟩ := by
  rw [encodeFields_eq]
  cases himm : s.imm with
  | none =>
    cases hmod : s.mod with
    | none => exact ⟨_, _, rfl, takeE_ends h 1⟩
    | some m => exact ⟨_, _, rfl, (takeE_mod s.stop m rest rfl (by decide) rfl).trans (takeE_ends h 2)⟩
  | some x =>
    cases hmod : s.mod with
    | none => exact ⟨_, _, rfl, (takeE_imm s.stop x rest rfl (by decide) rfl).trans (takeE_ends h 2)⟩
    | some m =>
      have himm := takeE_imm (e := { stop := false }) (off := 1) false x (eWord s.stop 1 (payloadOfMod m) :: rest) rfl (by decide) rfl
      exact ⟨_, _, rfl, himm.trans ((takeE_mod s.stop m rest rfl (by decide) rfl).trans (takeE_ends h 3))⟩

/-! ## Slots -/

/-- A row stands at a class below 11 and an opcode below 64 (R52, R77). -/
theorem rowAt_bounds {cls op : Nat} {q : Pick} {r : Row} (h : rowAt cls op q = some r) : cls < 11 ∧ op < 64 := by
  have hlength : ∀ c < 11, (rowsOf c).length ≤ 64 := by decide
  have hcls : cls < 11 := by
    by_contra hge
    obtain ⟨k, rfl⟩ : ∃ k, cls = k + 11 := ⟨cls - 11, by omega⟩
    exact nomatch h
  have hop : op < (rowsOf cls).length := by
    by_contra hge
    simp [rowAt, List.getElem?_eq_none (Nat.le_of_not_lt hge)] at h
  exact ⟨hcls, hop.trans_le (hlength cls hcls)⟩

/-- The words of a slot that its row allows decode to it. -/
theorem decodeSlot_encodeFields {cls op : Nat} {s : Slot} {r : Row} {rest : List Word} (h : Ends s.stop rest)
    (hr : rowAt cls op ⟨s.d, s.a, s.b, s.imm.isSome⟩ = some r) (hok : slotOk r.form s = true) :
    decodeSlot (encodeFields cls op s ++ rest) = .ok (r.make s, rest) := by
  obtain ⟨hcls, hop⟩ := rowAt_bounds hr
  obtain ⟨stop, ws, hws, htake⟩ := encodeFields_takeE cls op s h
  obtain ⟨hclass, hstop, hp, hopc, hd, ha, hb⟩ := baseWord_fields stop s (show cls < 16 by omega) hop
  have hmod : (s.mod.map payloadOfMod).map modOfPayload = s.mod := by
    cases s.mod with
    | none => rfl
    | some m => exact congrArg some (modOfPayload_payloadOfMod m).1
  simp only [hws, decodeSlot, hclass, hstop, hp, hopc, hd, ha, hb, htake, hmod, hr, hok, show cls ≠ 11 by omega,
    show ¬cls ≥ 13 by omega, show cls ≠ 12 by omega, if_false, Bool.false_eq_true, Bool.not_true]

/-- The word of an H slot. -/
def hWord (stop gw mb : Bool) (gap : BitVec 5) : Word :=
  BitVec.ofNat 32 (fieldAt (b01 stop) 31 + fieldAt 12 27 + fieldAt gap.toNat 22 + fieldAt (b01 gw) 21 + fieldAt (b01 mb) 20)

theorem encode_hSlot (stop gw mb : Bool) (gap : BitVec 5) : encode (.hSlot stop gap gw mb) = [hWord stop gw mb gap] := by rfl

/-- Every field of an H slot reads back, and its low bits are 0. -/
theorem hWord_fields (stop gw mb : Bool) (gap : BitVec 5) : wordClass (hWord stop gw mb gap) = 12
    ∧ wordStop (hWord stop gw mb gap) = stop ∧ (hWord stop gw mb gap).extractLsb' 22 5 = gap
    ∧ (hWord stop gw mb gap).getLsbD 21 = gw ∧ (hWord stop gw mb gap).getLsbD 20 = mb
    ∧ (hWord stop gw mb gap).extractLsb' 0 20 = 0#20 := by
  have hstop := b01_lt stop
  have hgw := b01_lt gw
  have hmb := b01_lt mb
  have hgap := gap.isLt
  unfold hWord wordClass wordStop
  generalize hn : fieldAt (b01 stop) 31 + fieldAt 12 27 + fieldAt gap.toNat 22 + fieldAt (b01 gw) 21 + fieldAt (b01 mb) 20 = n
  simp only [fieldAt] at hn
  have hlt : n < 2 ^ 32 := by omega
  have hbit (b : Bool) (i : Nat) (h : n / 2 ^ i % 2 = b01 b) : (BitVec.ofNat 32 n).getLsbD i = b := by
    rw [getLsbD_ofNat_eq 32 n i hlt, h, decide_b01]
  have hfield {lo len x : Nat} (h : n / 2 ^ lo % 2 ^ len = x) : ((BitVec.ofNat 32 n).extractLsb' lo len).toNat = x :=
    (toNat_extract_ofNat n lo len hlt).trans h
  exact ⟨hfield (by omega), hbit stop 31 (by omega), BitVec.eq_of_toNat_eq (hfield (by omega)), hbit gw 21 (by omega),
    hbit mb 20 (by omega), BitVec.eq_of_toNat_eq (hfield (x := 0) (by omega))⟩

/-- A word of class 12 whose low bits are 0 decodes to the H slot of its fields. -/
theorem decodeSlot_of_class12 {w : Word} (hclass : wordClass w = 12) (hzero : w.extractLsb' 0 20 = 0#20) (rest : List Word) :
    decodeSlot (w :: rest) = .ok (.hSlot (wordStop w) (w.extractLsb' 22 5) (w.getLsbD 21) (w.getLsbD 20), rest) := by
  simp [-BitVec.getLsbD_eq_getElem, decodeSlot, hclass, hzero]

/-- An H slot's word decodes to it. -/
theorem decodeSlot_hSlot (stop gw mb : Bool) (gap : BitVec 5) (rest : List Word) :
    decodeSlot (encode (.hSlot stop gap gw mb) ++ rest) = .ok (.hSlot stop gap gw mb, rest) := by
  obtain ⟨hclass, hstop, hgap, hgw, hmb, hzero⟩ := hWord_fields stop gw mb gap
  have hdec := decodeSlot_of_class12 hclass hzero rest
  rw [hstop, hgap, hgw, hmb] at hdec
  exact hdec

/-- Settles O51: a slot's row is the one that its fields select, and its words give its fields back. -/
theorem encodingRoundTrip : Obligations.EncodingRoundTrip := by
  refine ⟨fun i f cls w rest hslot hwf hrest => ?_, fun stop gw mb gap => decodeSlot_hSlot stop gw mb gap⟩
  obtain ⟨r, hrow, hform, hmake⟩ := statement i f cls w hslot hwf
  have hok : slotOk r.form w = true := by
    rw [hform]
    simp only [Instr.wf, hslot, Bool.and_eq_true] at hwf
    exact hwf.2
  have hwords : encode i = encodeFields cls f.op w := by simp only [encode, hslot]
  rw [hwords]
  exact (decodeSlot_encodeFields hrest hrow hok).trans (by rw [hmake])

end Sys2Proof.Laws.EncodingRoundTrip
end

section
/-! SUPPORT. The step's three kinds and words that decode: the statements O48 and O50. -/

namespace Sys2Proof.Laws.StepRunsDecoded

open Sys2Proof.Machine

/-! ## The next act (R53, R133, R447) -/

theorem step_slot {s : State} {is : Issue} (h : s.cur = some is) : step s = stepSlot s is := by simp only [step, h]

theorem step_word {s : State} {w : SlIssue} (hcur : s.cur = none) (h : s.slw = some w) : step s = stepWord s w := by
  simp only [step, hcur, h]

section
variable {s : State} (hcur : s.cur = none) (hslw : s.slw = none)
include hcur hslw

/-- A module that has not begun its boot begins it. -/
theorem step_startUp (hmode : s.boot.mode = 0) (hcoming : s.boot.coming = none) : step s = stepMove s startUp := by
  simp [step, hcur, hslw, hmode, hcoming]

variable (hbegun : s.boot.mode ≠ 0 ∨ s.boot.coming ≠ none)
include hbegun

omit hcur hslw in
theorem boot_begun : (s.boot.mode = 0 && s.boot.coming.isNone) = false := by
  rcases hbegun with h | h
  · simp [h]
  · rw [Option.isNone_eq_false_iff.mpr (Option.isSome_iff_ne_none.mpr h), Bool.and_false]

/-- The agenda's first move comes next. -/
theorem step_agenda {m : Move} {rest : List Move} (h : s.agenda = m :: rest) : step s = stepMove { s with agenda := rest } m := by
  simp only [step, hcur, hslw, boot_begun hbegun, h, Bool.false_eq_true, if_false]

/-- With nothing to do the module rests. -/
theorem step_rests (h : s.agenda = []) (hact : nextAct s = none) : step s = .next s := by
  simp only [step, hcur, hslw, boot_begun hbegun, h, hact, Bool.false_eq_true, if_false]

end

/-! ## What a move is -/

theorem moveCounts_eq (i : Instr) : moveCounts i = !decide (i = .bundleIssue) := by
  cases i <;> rfl

/-- A move runs its instruction, and counts unless it is BUNDLE_ISSUE. -/
theorem stepMove_next {s t : State} {m : Move} (h : exec m.op { settleHeld s m with args := m.args } = .next t) :
    stepMove s m = .next (if m.op = .bundleIssue then t else { t with epoch := t.epoch + 1 }) := by
  simp only [stepMove, h, moveCounts_eq]
  by_cases hm : m.op = .bundleIssue <;> simp [hm]

/-- Only four moves let ck pass. -/
theorem settleHeld_eq_self (s : State) {m : Move} (hb : m.op ≠ .bundleIssue) (hr : m.op ≠ .resultLand) (hw : m.op ≠ .waitevtLimit)
    (hd : m.op ≠ .watchdog) : settleHeld s m = s := by
  have hnone : movedCore m = none := by
    unfold movedCore
    split
    case h_1 h => exact absurd h hb
    case h_2 h => exact absurd h hr
    case h_3 h => exact absurd h hw
    case h_4 h => exact absurd h hd
    case h_5 => rfl
  rw [settleHeld, hnone]

/-- Settles O48: `step`'s cases, one after another. -/
theorem stepRunsDecoded : Obligations.StepRunsDecoded := by
  refine ⟨fun s is i rest hcur hdec => ?_, fun s is e hcur hdec => ?_, fun s w i hcur hslw hi => ?_,
    fun s t m rest hcur hslw hbegun hagenda hexec => ?_, fun s m => settleHeld_eq_self s,
    fun s t hcur hslw hmode hcoming hexec => ?_, fun s hcur hslw hbegun hagenda hact => step_rests hcur hslw hbegun hagenda hact⟩
  · rw [step_slot hcur, stepSlot, hdec]
  · rw [step_slot hcur, stepSlot, hdec]
  · rw [step_word hcur hslw, stepWord, hi]
  · rw [step_agenda hcur hslw hbegun hagenda]
    exact stepMove_next hexec
  · rw [step_startUp hcur hslw hmode hcoming]
    exact stepMove_next (m := startUp) hexec

/-- Settles O50: each word is decoded as it stands. -/
theorem decodedWords : Obligations.DecodedWords := by
  refine ⟨by decide, by decide, by decide, by decide, .cpy ⟨true, 7, 10, 16, 63, none, none⟩, _, by decide, rfl, rfl, rfl, rfl, rfl⟩

end Sys2Proof.Laws.StepRunsDecoded
end

section
/-! SUPPORT. Uniform slots under a guard that is 0 or poisoned, and the statement O6 (R75, R167). -/

namespace Sys2Proof.Laws.UniformGuard

open Sys2Proof.Machine Sys2Proof.Safety Sys2Proof.Laws

/-- What a uniform form answers to its operands: a value for each of its registers, and s(d) alone where it names no fourth register. -/
structure Answers (f : SC → Except TrapInfo (List RegWrite × BitVec 6)) (c : SC) : Prop where
  ok : ∃ ws fl, f c = .ok (ws, fl)
  one : c.mod.cv = false → ∃ x fl, f c = .ok ([.s c.d x], fl)

/-- A form that writes s(d) in every case. -/
theorem Answers.of_one {f : SC → Except TrapInfo (List RegWrite × BitVec 6)} {c : SC} {x : PWord} {fl : BitVec 6}
    (h : f c = .ok ([.s c.d x], fl)) : Answers f c := ⟨⟨_, _, h⟩, fun _ => ⟨_, _, h⟩⟩

section
variable {q : Taken} {f : SC → Except TrapInfo (List RegWrite × BitVec 6)} {ws : List RegWrite} {fl : BitVec 6}

/-- With its guard 0 a uniform form does nothing. -/
theorem uSlot_off (hg : scalarGuard q.sc = ⟨false, false⟩) (hf : f q.sc = .ok (ws, fl)) :
    uSlot f q.sc = (q.s, .ok [] 0 []) := by
  simp only [uSlot, pureM, hf, hg, Bool.false_eq_true, if_false]
  rfl

/-- With its guard poisoned its destinations keep their values with poison set, whatever the guard's value. -/
theorem uSlot_dim (hg : (scalarGuard q.sc).poison = true) (hf : f q.sc = .ok (ws, fl)) :
    uSlot f q.sc = (q.s, .ok [.result 2 (ws.map (poisonOld q.sc))] 0 []) := by
  simp only [uSlot, pureM, hf, hg, if_true]
  rfl

/-- A uniform form under a guard that is 0 or poisoned. -/
theorem guarded {i : Instr} {g : Form} {cls : Nat} {m : Meaning} (h : q.ready i) (hi : slotOf i = some (g, cls, q.w))
    (hx : exec i q.s = runSlot g cls q.w m q.s) (hm : ∃ f, m = uSlot f ∧ Answers f q.sc) :
    (scalarGuard q.sc = ⟨false, false⟩ → q.yields i [] 0)
    ∧ ((scalarGuard q.sc).poison = true → q.sc.mod.cv = false → q.yields i [.result 2 [.s q.d ⟨(q.s32 q.d).val, true⟩]] 0) := by
  obtain ⟨f, rfl, ha⟩ := hm
  refine ⟨fun hoff => ?_, fun hdim hcv => ?_⟩
  · obtain ⟨ws, fl, hf⟩ := ha.ok
    exact gives_of_ok h hi hx (uSlot_off hoff hf)
  · obtain ⟨x, fl, hf⟩ := ha.one hcv
    exact gives_of_ok h hi hx (uSlot_dim hdim hf)

end

/-- UADD and USUB name a predicate only with CV. -/
theorem uAddSub_answers (wrap : Word → Word → Bool → Word × Bool) (sat : Word → Word → Word × Bool) (c : SC) :
    ∃ f, uAddSub wrap sat = uSlot f ∧ Answers f c := by
  refine ⟨_, rfl, ?_⟩
  cases hsat : c.mod.sat with
  | true => exact .of_one (by simp only [hsat, if_true]; rfl)
  | false =>
    refine ⟨?_, fun hcv => ⟨_, _, by simp only [hsat, hcv, Bool.false_eq_true, if_false]; rfl⟩⟩
    cases hcv : c.mod.cv with
    | true => exact ⟨_, _, by simp only [hsat, hcv, Bool.false_eq_true, if_false, if_true]; rfl⟩
    | false => exact ⟨_, _, by simp only [hsat, hcv, Bool.false_eq_true, if_false]; rfl⟩

theorem uMul_answers (c : SC) : ∃ f, uMul = uSlot f ∧ Answers f c := by
  refine ⟨_, rfl, ?_⟩
  cases hsat : c.mod.sat with
  | true => exact .of_one (by simp only [hsat, if_true]; rfl)
  | false => exact .of_one (by simp only [hsat, Bool.false_eq_true, if_false]; rfl)

theorem uBinary_answers (zext : Bool) (f : Word → Word → Word) (c : SC) : ∃ k, uBinary zext f = uSlot k ∧ Answers k c := by
  refine ⟨_, rfl, ?_⟩
  exact .of_one rfl

theorem uUnary_answers (f : Word → Word) (c : SC) : ∃ k, uUnary f = uSlot k ∧ Answers k c := by
  refine ⟨_, rfl, ?_⟩
  exact .of_one rfl

theorem uBfi_answers (c : SC) : ∃ k, uBfi = uSlot k ∧ Answers k c := by
  refine ⟨_, rfl, ?_⟩
  exact .of_one rfl

/-- Settles O6: each form writes s(d), and a guard that is 0 or poisoned acts on that write alone. -/
theorem uniformGuard : Obligations.UniformGuard := by
  intro i hi q h
  simp only [List.mem_cons, List.not_mem_nil, or_false] at hi
  rcases hi with rfl | rfl | rfl | rfl | rfl | rfl | rfl | rfl | rfl | rfl | rfl | rfl | rfl | rfl | rfl | rfl | rfl | rfl | rfl | rfl
  · exact guarded h rfl (exec_uadd q.w q.s) (uAddSub_answers addCarry addSat q.sc)
  · exact guarded h rfl (exec_usub q.w q.s) (uAddSub_answers subBorrow subSat q.sc)
  · exact guarded h rfl (exec_umul q.w q.s) (uMul_answers q.sc)
  · exact guarded h rfl (exec_umulhS q.w q.s) (uBinary_answers _ _ q.sc)
  · exact guarded h rfl (exec_umulhU q.w q.s) (uBinary_answers _ _ q.sc)
  · exact guarded h rfl (exec_uand q.w q.s) (uBinary_answers _ _ q.sc)
  · exact guarded h rfl (exec_uor q.w q.s) (uBinary_answers _ _ q.sc)
  · exact guarded h rfl (exec_uxor q.w q.s) (uBinary_answers _ _ q.sc)
  · exact guarded h rfl (exec_ushl q.w q.s) (uBinary_answers _ _ q.sc)
  · exact guarded h rfl (exec_ushr q.w q.s) (uBinary_answers _ _ q.sc)
  · exact guarded h rfl (exec_usar q.w q.s) (uBinary_answers _ _ q.sc)
  · exact guarded h rfl (exec_uminS q.w q.s) (uBinary_answers _ _ q.sc)
  · exact guarded h rfl (exec_uminU q.w q.s) (uBinary_answers _ _ q.sc)
  · exact guarded h rfl (exec_umaxS q.w q.s) (uBinary_answers _ _ q.sc)
  · exact guarded h rfl (exec_umaxU q.w q.s) (uBinary_answers _ _ q.sc)
  · exact guarded h rfl (exec_ubfx q.w q.s) (uBinary_answers _ _ q.sc)
  · exact guarded h rfl (exec_ubfi q.w q.s) (uBfi_answers q.sc)
  · exact guarded h rfl (exec_umov q.w q.s) (uUnary_answers _ q.sc)
  · exact guarded h rfl (exec_upopc q.w q.s) (uUnary_answers _ q.sc)
  · exact guarded h rfl (exec_uclz q.w q.s) (uUnary_answers _ q.sc)

end Sys2Proof.Laws.UniformGuard
end

section
/-! SUPPORT. The binary32 lane forms: what each answers of its operands, and the statement O11 (R75, R182, R187, R188). -/

namespace Sys2Proof.Laws.LaneBinary32

open Sys2Proof.Machine Sys2Proof.Safety Sys2Proof.Laws

/-- Operand B under the float rule for binary32 is `vyF32`. -/
theorem vBf32_sc (q : Taken) (l : Nat) : vBf32 q.sc l = q.vyF32 l := by
  cases himm : q.w.imm with
  | none => simp only [vBf32, Taken.vyF32, Taken.sc, SC.b, himm]; rfl
  | some x =>
    simp only [vBf32, Taken.vyF32, Taken.sc, himm, immZ]
    congr 1
    apply BitVec.eq_of_toNat_eq
    have hx := x.isLt
    simp only [BitVec.toNat_shiftLeft, BitVec.toNat_setWidth, BitVec.toNat_ofNat, Nat.shiftLeft_eq]
    omega

section
variable (q : Taken)

theorem f32Binary_sc (lat : Nat) (f : Nat → FVal → FVal → Nat × BitVec 6) :
    let r (l : Nat) := f q.sc.mod.rm.toNat (f32 (vreg q.g q.a l).val) (f32 (q.vyF32 l).val)
    let po (l : Nat) := (vreg q.g q.a l).poison || (q.vyF32 l).poison
    f32Binary lat f q.sc = (q.s, .ok [q.toLanes lat q.d fun l => ⟨BitVec.ofNat 32 (r l).1, po l⟩]
      (flagUnion (q.act.map fun l => unlessPoison (po l) (r l).2)) []) :=
  laneSlot_v fun l => by rw [vBf32_sc]; rfl

theorem f32Unary_sc (f : Nat → FVal → Nat × BitVec 6) :
    let r (l : Nat) := f q.sc.mod.rm.toNat (f32 (vreg q.g q.a l).val)
    f32Unary f q.sc = (q.s, .ok [q.toLanes 24 q.d fun l => ⟨BitVec.ofNat 32 (r l).1, (vreg q.g q.a l).poison⟩]
      (flagUnion (q.act.map fun l => unlessPoison (vreg q.g q.a l).poison (r l).2)) []) :=
  laneSlot_v fun _ => rfl

theorem f32Div_sc (hfmt : q.sc.mod.fmt ≠ 7) : f32Div q.sc = f32Binary 24 (fdiv binary32) q.sc := if_neg hfmt

theorem f32Fma_sc :
    let z (l : Nat) := vreg q.g (if q.sc.mod.cv then q.sc.mod.creg.toNat else q.d) l
    let r (l : Nat) := ffma binary32 q.sc.mod.rm.toNat (f32 (vreg q.g q.a l).val) (f32 (q.vyF32 l).val) (f32 (z l).val)
    let po (l : Nat) := (vreg q.g q.a l).poison || (q.vyF32 l).poison || (z l).poison
    f32Fma q.sc = (q.s, .ok [q.toLanes 6 q.d fun l => ⟨BitVec.ofNat 32 (r l).1, po l⟩]
      (flagUnion (q.act.map fun l => unlessPoison (po l) (r l).2)) []) :=
  laneSlot_v fun l => by rw [vBf32_sc]; rfl

theorem f32Cmp_sc :
    let x (l : Nat) := f32 (vreg q.g q.a l).val
    let y (l : Nat) := f32 (q.vyF32 l).val
    let po (l : Nat) := (vreg q.g q.a l).poison || (q.vyF32 l).poison
    f32Cmp q.sc = (q.s, .ok [q.toPred 4 (q.d % 8) fun l => ⟨fcmpCond (q.d / 8) (x l) (y l), po l⟩]
      (flagUnion (q.act.map fun l => unlessPoison (po l) (sigFlag [x l, y l]))) []) :=
  laneSlot_p fun l => by rw [vBf32_sc]; rfl

/-- VRED of lanes one of which is poisoned (R75, R182). -/
theorem vRed_poison (hguard : guardPoison q.sc = 0) (hpo : ∃ l ∈ q.act, (vreg q.g q.a l).poison = true) :
    let op := redOp q.b q.sc.mod.rm.toNat
    let r := redTree op.1 ((List.range 16).map fun l => if (actives q.sc).getLsbD l then some (vreg q.g q.a l).val else none)
    vRed q.sc = (q.s, .ok [.result 10 [.s q.d ⟨r.1.getD op.2, true⟩]] 0 []) := by
  have hany : ((lanesOf (actives q.sc)).any fun l => (vreg q.sc.g q.sc.a l).poison) = true := List.any_eq_true.mpr hpo
  simp only [vRed, laneToUniform, pureM, hguard, hany, bne_self_eq_false, Bool.false_eq_true, if_false, laneFlag, if_true]
  rfl

end

/-- Settles O11: each row is one of the five shapes above. -/
theorem laneBinary32 : Obligations.LaneBinary32 := by
  intro u q rm x y
  refine ⟨fun e he h => ?_, fun h hfmt => ?_, fun e he h => ?_, fun h => ?_, fun h => ?_, fun h _ hguard hpo => ?_⟩
  · simp only [List.mem_cons, List.not_mem_nil, or_false] at he
    rcases he with rfl | rfl | rfl | rfl | rfl
    · exact gives_of_ok h rfl (exec_faddF32 u q.w q.s) (f32Binary_sc q 6 (fadd binary32))
    · exact gives_of_ok h rfl (exec_fsubF32 u q.w q.s) (f32Binary_sc q 6 (fsub binary32))
    · exact gives_of_ok h rfl (exec_fmulF32 u q.w q.s) (f32Binary_sc q 6 (fmul binary32))
    · exact gives_of_ok h rfl (exec_fminF32 u q.w q.s) (f32Binary_sc q 6 fun _ => fminmax false binary32)
    · exact gives_of_ok h rfl (exec_fmaxF32 u q.w q.s) (f32Binary_sc q 6 fun _ => fminmax true binary32)
  · exact gives_of_ok h rfl (exec_fdivF32 u q.w q.s) ((f32Div_sc q hfmt).trans (f32Binary_sc q 24 (fdiv binary32)))
  · simp only [List.mem_cons, List.not_mem_nil, or_false] at he
    rcases he with rfl | rfl | rfl | rfl | rfl | rfl | rfl
    · exact gives_of_ok h rfl (exec_fsqrtF32 u q.w q.s) (f32Unary_sc q (fsqrt binary32))
    · exact gives_of_ok h rfl (exec_frcpF32 u q.w q.s) (f32Unary_sc q (frcp binary32))
    · exact gives_of_ok h rfl (exec_frsqF32 u q.w q.s) (f32Unary_sc q (frsq binary32))
    · exact gives_of_ok h rfl (exec_fexp2F32 u q.w q.s) (f32Unary_sc q fexp2)
    · exact gives_of_ok h rfl (exec_flog2F32 u q.w q.s) (f32Unary_sc q flog2)
    · exact gives_of_ok h rfl (exec_fsinF32 u q.w q.s) (f32Unary_sc q (fsincos 0))
    · exact gives_of_ok h rfl (exec_fcosF32 u q.w q.s) (f32Unary_sc q (fsincos 1))
  · exact gives_of_ok h rfl (exec_ffmaF32 u q.w q.s) (f32Fma_sc q)
  · exact gives_of_ok h rfl (exec_fcmpF32 u q.w q.s) (f32Cmp_sc q)
  · exact gives_of_ok h rfl (exec_vred u q.w q.s) (vRed_poison q hguard hpo)

end Sys2Proof.Laws.LaneBinary32
end

section
/-! SUPPORT. What the forms of the graphics unit share: masks made from a test, the lanes that trap, and the registers that lanes with a
poisoned guard keep (R75, R331). -/

namespace Sys2Proof.Laws

open Sys2Proof.Machine Sys2Proof.Safety

/-! ## Masks of lanes -/

theorem mem_lanesOf {m : LaneMask} {l : Nat} : l ∈ lanesOf m ↔ m.getLsbD l = true := by
  simp only [lanesOf, List.mem_filter, List.mem_range, and_iff_right_iff_imp]
  exact BitVec.lt_of_getLsbD

theorem lanesOf_zero : lanesOf 0 = [] := by decide

theorem laneBit_getLsbD (k : Nat) {l : Nat} (hl : l < 16) : (BitVec.ofNat 16 (2 ^ k)).getLsbD l = decide (l = k) := by
  rw [BitVec.getLsbD_ofNat, Nat.testBit_two_pow, decide_eq_true hl, Bool.true_and]
  exact decide_eq_decide.mpr eq_comm

/-- The mask of a test holds the lanes that meet it. -/
theorem maskOf_getLsbD (f : Nat → Bool) {l : Nat} (hl : l < 16) : (maskOf f).getLsbD l = f l := by
  have hfold (ls : List Nat) (m : LaneMask) : (ls.foldl (fun m l => if f l then m ||| BitVec.ofNat 16 (2 ^ l) else m) m).getLsbD l =
      (m.getLsbD l || (decide (l ∈ ls) && f l)) := by
    induction ls generalizing m with
    | nil => rw [List.foldl_nil, decide_eq_false List.not_mem_nil, Bool.false_and, Bool.or_false]
    | cons k ls ih =>
      rw [List.foldl_cons, ih]
      by_cases hk : l = k
      · subst hk
        cases hf : f l with
        | false => simp
        | true => rw [if_pos rfl, BitVec.getLsbD_or, laneBit_getLsbD l hl]; simp
      · cases hf : f k with
        | false => simp [hk]
        | true => rw [if_pos rfl, BitVec.getLsbD_or, laneBit_getLsbD k hl]; simp [hk]
  refine (hfold _ 0).trans ?_
  rw [decide_eq_true (List.mem_range.mpr hl), Bool.true_and, show BitVec.getLsbD 0 l = false from BitVec.getLsbD_zero,
    Bool.false_or]

/-- A test that no lane meets gives the empty mask. -/
theorem maskOf_eq_zero {f : Nat → Bool} (h : ∀ l < 16, f l = false) : maskOf f = 0#16 :=
  BitVec.eq_of_getLsbD_eq fun l hl => by rw [maskOf_getLsbD f hl, h l hl, BitVec.getLsbD_zero]

theorem maskOf_ne_zero {f : Nat → Bool} {l : Nat} (hl : l < 16) (h : f l = true) : maskOf f ≠ 0#16 := by
  intro hzero
  have hlane := maskOf_getLsbD f hl
  rw [hzero, h, BitVec.getLsbD_zero] at hlane
  exact Bool.false_ne_true hlane

/-! ## Lanes that trap (R331, R384) -/

section
variable {q : Taken}

/-- No active lane meets the test. -/
theorem laneTrap_eq_none {f : Nat → Bool} (cause : Nat) (h : ∀ l ∈ q.act, f l = false) : laneTrap cause q.sc f = none := by
  refine if_pos (maskOf_eq_zero fun l _ => ?_)
  cases hl : (actives q.sc).getLsbD l with
  | false => rfl
  | true => rw [h l (mem_lanesOf.mpr hl), Bool.and_false]

/-- An active lane meets it. -/
theorem laneTrap_eq_some {f : Nat → Bool} (cause : Nat) {l : Nat} (hl : l ∈ q.act) (h : f l = true) :
    laneTrap cause q.sc f = some (trapOf cause 0 (maskOf fun l => (actives q.sc).getLsbD l && f l)) := by
  have hbit := mem_lanesOf.mp hl
  exact if_neg (maskOf_ne_zero (BitVec.lt_of_getLsbD hbit) (by rw [hbit, h]; rfl))

/-- Registers none of which holds poison. -/
theorem runPoison_eq_false {r n l : Nat} (h : ∀ j < n, (vreg q.g (r + j) l).poison = false) : runPoison q.sc r n l = false := by
  rw [runPoison, List.any_eq_false]
  intro j hj
  simpa [Taken.sc] using h j (List.mem_range.mp hj)

theorem runPoison_pair {r l : Nat} (h : (vpair q.g r l).2 = false) : runPoison q.sc r 2 l = false := by
  obtain ⟨hlo, hhi⟩ := Bool.or_eq_false_iff.mp h
  refine runPoison_eq_false fun j hj => ?_
  obtain rfl | rfl : j = 0 ∨ j = 1 := by omega
  · exact hlo
  · exact hhi

end

/-- What the lanes with a poisoned guard keep is `keepV` and `keepP`. -/
theorem gKept_sc (q : Taken) (n : Nat) : gKept q.sc n = q.keepV n := by rfl
theorem gKeptP_sc (q : Taken) (n : Nat) : gKeptP q.sc n = q.keepP n := by rfl

end Sys2Proof.Laws
end

section
/-! SUPPORT. GRSTEP: the tie rule of edges, a pixel's centre and a 64-bit edge constant, and the statement O22 (R331, R333, R334). -/

namespace Sys2Proof.Laws.EdgeTestsOfBlock

open Sys2Proof.Machine Sys2Proof.Safety Sys2Proof.Laws

/-- The tie rule: a centre on the edge passes by the edge's direction (R334). -/
abbrev EdgePass (E A B : Int) : Prop := E > 0 ∨ (E = 0 ∧ (A > 0 ∨ (A = 0 ∧ B > 0)))

/-- Of two opposite edges at most one passes, and of two that are an edge at all, one does. -/
theorem edgePass_opposite (E A B : Int) :
    (EdgePass E A B → ¬EdgePass (-E) (-A) (-B)) ∧ (A ≠ 0 ∨ B ≠ 0 → EdgePass E A B ∨ EdgePass (-E) (-A) (-B)) := by
  unfold EdgePass
  omega

/-- Two uniforms as one two's-complement number. -/
theorem toSigned_pair (hi lo : Word) : toSigned 64 (lo.toNat + 2 ^ 32 * hi.toNat) = (hi ++ lo : BitVec 64).toInt := by
  have hlo := lo.isLt
  have hhi := hi.isLt
  have hnat : (hi ++ lo : BitVec 64).toNat = lo.toNat + 2 ^ 32 * hi.toNat := by
    rw [BitVec.toNat_append, ← Nat.shiftLeft_add_eq_or_of_lt hlo, Nat.shiftLeft_eq]
    omega
  rw [BitVec.toInt_eq_toNat_cond, hnat, toSigned]
  split <;> split <;> omega

section
variable {q : Taken}

/-- The test of the destination and of the run of uniforms (R333). -/
theorem grstep_test : (decide (q.sc.d > 3) || decide (q.sc.a > 52)) = decide (q.d > 3 ∨ q.a > 52) := by
  rw [← Bool.decide_or]
  rfl

/-- A block or a run of uniforms that does not fit traps. -/
theorem gGrstep_illegal (h : q.d > 3 ∨ q.a > 52) : gGrstep q.sc = (q.s, trapOf 2) := by
  simp only [gGrstep, pureM, grstep_test, decide_eq_true h, if_true]
  rfl

/-- Whether the centre of the pixel of lane `l` and quarter `j` passes edge `e`, as the model tests it. -/
def centrePasses (q : Taken) (l j e : Nat) : Bool :=
  let u (i : Nat) : PWord := q.s32 (q.a + i)
  let pos := (q.s32 q.b).val.toNat
  let X : Int := (256 * (8 * (pos % 65536) + (4 * (j % 2) + 2 * (l / 4 % 2) + l % 2)) + 128 : Nat)
  let Y : Int := (256 * (8 * (pos / 65536) + (4 * (j / 2) + 2 * (l / 8) + l / 2 % 2)) + 128 : Nat)
  let a := (u (4 * e)).val.toInt
  let b := (u (4 * e + 1)).val.toInt
  let v := a * X + b * Y + toSigned 64 ((u (4 * e + 2)).val.toNat + 2 ^ 32 * (u (4 * e + 3)).val.toNat)
  decide (v > 0) || (decide (v = 0) && (decide (a > 0) || (decide (a = 0) && decide (b > 0))))

/-- The value of edge `e` at that centre, its constant one number of 64 bits (R333). -/
def edgeValue (q : Taken) (l j e : Nat) : Int :=
  let BX : Int := ((q.s32 q.b).val.toNat % 65536 : Nat)
  let BY : Int := ((q.s32 q.b).val.toNat / 65536 : Nat)
  let X : Int := 256 * (8 * BX + (4 * (j % 2) + 2 * (l / 4 % 2) + l % 2 : Nat)) + 128
  let Y : Int := 256 * (8 * BY + (4 * (j / 2) + 2 * (l / 8) + l / 2 % 2 : Nat)) + 128
  (q.s32 (q.a + 4 * e)).val.toInt * X + (q.s32 (q.a + 4 * e + 1)).val.toInt * Y
    + (((q.s32 (q.a + 4 * e + 3)).val ++ (q.s32 (q.a + 4 * e + 2)).val : BitVec 64)).toInt

/-- The test is the tie rule on that value (R334). -/
theorem centrePasses_eq (q : Taken) (l j e : Nat) : centrePasses q l j e =
    decide (EdgePass (edgeValue q l j e) (q.s32 (q.a + 4 * e)).val.toInt (q.s32 (q.a + 4 * e + 1)).val.toInt) := by
  simp only [centrePasses, edgeValue, toSigned_pair, Nat.cast_add, Nat.cast_mul, Nat.cast_ofNat, Bool.decide_or, Bool.decide_and]
  rfl

section
variable (hfit : ¬(q.d > 3 ∨ q.a > 52))
include hfit

theorem gGrstep_idle (h : actives q.sc = 0) : gGrstep q.sc = (q.s, .ok [] 0 []) := by
  simp only [gGrstep, pureM, grstep_test, decide_eq_false hfit, h, Bool.false_eq_true, if_false, if_true]
  rfl

/-- With clean uniforms each lane takes four tests of three edges (R333). -/
theorem gGrstep_tests (hact : actives q.sc ≠ 0) (hpos : (q.s32 q.b).poison = false)
    (hrun : ∀ i < 12, (q.s32 (q.a + i)).poison = false) : gGrstep q.sc =
      (q.s, .ok [.result 6 ((q.act.flatMap fun l => (List.range 4).map fun j =>
        .p (q.d + j) l ⟨centrePasses q l j 0 && centrePasses q l j 1 && centrePasses q l j 2, false⟩) ++ q.keepP 4)] 0 []) := by
  have hclean : ((List.range 12).any fun i => (sreg q.sc.g q.sc.pt (q.sc.a + i)).poison) = false := by
    rw [List.any_eq_false]
    intro i hi
    exact Bool.eq_false_iff.mp (hrun i (List.mem_range.mp hi))
  have hpos' : (sreg q.sc.g q.sc.pt q.sc.b).poison = false := hpos
  have hthree (f : Nat → Bool) : (List.range 3).all f = (f 0 && f 1 && f 2) := by
    simp [List.range_succ, Bool.and_assoc]
  simp only [gGrstep, pureM, grstep_test, decide_eq_false hfit, hact, hclean, hpos', Bool.false_eq_true, if_false, Bool.or_self,
    hthree, gKeptP_sc]
  rfl

end

end

/-- Settles O22: the tie rule, the two idle cases, and the tests of the block. -/
theorem edgeTestsOfBlock : Obligations.EdgeTestsOfBlock := by
  refine ⟨edgePass_opposite, fun q h => ⟨fun hd ha hact => ?_, fun hbad => ?_⟩, fun q h hd ha hact hpos hrun => ?_⟩
  · exact gives_of_ok h rfl (exec_grstep q.w q.s) (gGrstep_idle (by omega) hact)
  · exact traps_of_trap h rfl (exec_grstep q.w q.s) (gGrstep_illegal hbad)
  · refine gives_of_ok h rfl (exec_grstep q.w q.s) ((gGrstep_tests (by omega) hact hpos hrun).trans ?_)
    simp only [centrePasses_eq]
    rfl

end Sys2Proof.Laws.EdgeTestsOfBlock
end

section
/-! SUPPORT. GPFLAT and GPSPLIT: flatness over the rationals, the weights of a half, and the statement O23 (R331, R345, R346). -/

namespace Sys2Proof.Laws.PatchForms

open Sys2Proof.Machine Sys2Proof.Safety Sys2Proof.Laws

/-! ## Finite values in units of a power of two -/

/-- Sign, magnitude and exponent of a finite value. -/
def parts : FVal → Bool × Nat × Int
  | .fin n m e => (n, m, e)
  | _ => (false, 0, 0)

/-- Those of a value, if it is finite. -/
def finParts : FVal → Option (Bool × Nat × Int)
  | .fin n m e => some (n, m, e)
  | _ => none

theorem finParts_of_finite {x : FVal} (h : finite x = true) : finParts x = some (parts x) := by
  cases x with
  | fin n m e => rfl
  | nan b => exact absurd h Bool.false_ne_true
  | inf b => exact absurd h Bool.false_ne_true

theorem finParts_eq_none {x : FVal} (h : finite x = false) : finParts x = none := by
  cases x with
  | fin n m e => exact absurd h.symm Bool.false_ne_true
  | nan b => rfl
  | inf b => rfl

/-- The integer of a value's parts in units of `2^q`. -/
def unitsOf (x : Bool × Nat × Int) (q : Int) : Int := inUnits x.1 x.2.1 x.2.2 q

/-- A finite value is its units, whatever the unit below its exponent. -/
theorem realOf_eq_units {x : FVal} (h : finite x = true) {q : Int} (hq : q ≤ (parts x).2.2) :
    realOf x = (unitsOf (parts x) q : ℚ) * 2 ^ q := by
  cases x with
  | nan b => exact absurd h Bool.false_ne_true
  | inf b => exact absurd h Bool.false_ne_true
  | fin n m e =>
    have hle : 0 ≤ e - q := sub_nonneg.mpr hq
    have hexp : (2 : ℚ) ^ e = 2 ^ (e - q).toNat * 2 ^ q := by
      rw [← zpow_natCast, ← zpow_add₀ two_ne_zero, Int.toNat_of_nonneg hle, sub_add_cancel]
    cases n <;> simp [realOf, unitsOf, parts, inUnits, Nat.shiftLeft_eq, hexp, mul_assoc]

/-- The least exponent of a list and a bound lies below each of them. -/
theorem foldl_min_le (l : List (Bool × Nat × Int)) (e : Int) :
    l.foldl (fun q x => min q x.2.2) e ≤ e ∧ ∀ x ∈ l, l.foldl (fun q x => min q x.2.2) e ≤ x.2.2 := by
  induction l generalizing e with
  | nil => exact ⟨le_rfl, fun x hx => absurd hx List.not_mem_nil⟩
  | cons y l ih =>
    obtain ⟨hle, hall⟩ := ih (min e y.2.2)
    refine ⟨hle.trans (min_le_left _ _), fun x hx => ?_⟩
    rcases List.mem_cons.mp hx with rfl | hx
    · exact hle.trans (min_le_right _ _)
    · exact hall x hx

/-! ## Flatness (R346) -/

/-- Nine times the bilinear interpolant of the corners at place `i` of the sixteen, over a ring. -/
def bilinear9 {R : Type} [Ring R] (f : Nat → R) (r c : R) : R :=
  (3 - c) * (3 - r) * f 0 + c * (3 - r) * f 3 + (3 - c) * r * f 12 + c * r * f 15

section
variable (v : List FVal)

/-- With a value that is not finite a patch is not flat. -/
theorem isFlat_of_short {v : List FVal} (h : (v.filterMap finParts).length < 16) (tol : FVal) : isFlat v tol = false := if_pos h

theorem isFlat_nan (b : Bool) : isFlat v (.nan b) = false := ite_self _

variable {v} (h : ¬(v.filterMap finParts).length < 16)
include h

theorem isFlat_inf (n : Bool) : isFlat v (.inf n) = !n := if_neg h

/-- Against a finite tolerance the places are compared in units of the least exponent. -/
theorem isFlat_fin (tn : Bool) (tm : Nat) (te : Int) : isFlat v (.fin tn tm te) =
    let q := (v.filterMap finParts).foldl (fun q x => min q x.2.2) te
    let u (i : Nat) : Int := match (v.filterMap finParts)[i]? with
      | some x => unitsOf x q
      | none => 0
    (List.range 16).all fun i =>
      decide (((9 * u i - bilinear9 u (i / 4 : Nat) (i % 4 : Nat)).natAbs : Int) ≤ 9 * unitsOf (tn, tm, te) q) := if_neg h

end

section
variable {g : Nat → FVal}

theorem filterMap_finParts (h : ∀ i < 16, finite (g i) = true) :
    ((List.range 16).map g).filterMap finParts = (List.range 16).map fun i => parts (g i) := by
  rw [List.filterMap_map]
  refine List.filterMap_eq_map_iff_forall_eq_some.mpr fun i hi => ?_
  exact finParts_of_finite (h i (List.mem_range.mp hi))

theorem not_short (h : ∀ i < 16, finite (g i) = true) : ¬(((List.range 16).map g).filterMap finParts).length < 16 := by
  rw [filterMap_finParts h, List.length_map, List.length_range]
  exact lt_irrefl 16

theorem short_of_not_finite {i : Nat} (hi : i < 16) (h : finite (g i) = false) :
    (((List.range 16).map g).filterMap finParts).length < 16 := by
  rw [List.length_filterMap_eq_countP]
  refine (List.countP_lt_length_iff.mpr ⟨g i, List.mem_map.mpr ⟨i, List.mem_range.mpr hi, rfl⟩, ?_⟩).trans_eq (by simp)
  rw [finParts_eq_none h, Option.isSome_none]

/-- A comparison in units is one of the values, divided by nine. -/
theorem abs_units_le_iff (u b t : Int) {s : ℚ} (hs : 0 < s) :
    ((9 * u - b).natAbs : Int) ≤ 9 * t ↔ |(u : ℚ) * s - b * s / 9| ≤ t * s := by
  have hleft : (u : ℚ) * s - b * s / 9 = (9 * u - b) * (s / 9) := by ring
  have hright : (t : ℚ) * s = 9 * t * (s / 9) := by ring
  have hcast : ((9 * u - b).natAbs : Int) ≤ 9 * t ↔ |(9 * u - b : ℚ)| ≤ 9 * t := by
    rw [Int.natCast_natAbs]
    exact_mod_cast Iff.rfl
  rw [hcast, hleft, hright, abs_mul, abs_of_pos (div_pos hs (by norm_num : (0 : ℚ) < 9)),
    mul_le_mul_iff_left₀ (div_pos hs (by norm_num : (0 : ℚ) < 9))]

/-- Flatness against a finite tolerance, as real numbers. -/
theorem isFlat_iff (h : ∀ i < 16, finite (g i) = true) {tol : FVal} (htol : finite tol = true) :
    isFlat ((List.range 16).map g) tol = true ↔
      ∀ i < 16, |realOf (g i) - bilinear9 (fun i => realOf (g i)) (i / 4 : Nat) (i % 4 : Nat) / 9| ≤ realOf tol := by
  cases tol with
  | nan b => exact absurd htol Bool.false_ne_true
  | inf b => exact absurd htol Bool.false_ne_true
  | fin tn tm te =>
    rw [isFlat_fin (not_short h), filterMap_finParts h]
    extract_lets q u
    obtain ⟨hte, hall⟩ := foldl_min_le ((List.range 16).map fun i => parts (g i)) te
    have hvalue {i : Nat} (hi : i < 16) : realOf (g i) = (u i : ℚ) * 2 ^ q := by
      have hplace : ((List.range 16).map fun i => parts (g i))[i]? = some (parts (g i)) := by simp [hi]
      have hmem : parts (g i) ∈ (List.range 16).map fun i => parts (g i) := List.mem_map.mpr ⟨i, List.mem_range.mpr hi, rfl⟩
      simp only [u, hplace]
      exact realOf_eq_units (h i hi) (hall _ hmem)
    have htolerance : realOf (.fin tn tm te) = (unitsOf (tn, tm, te) q : ℚ) * 2 ^ q := realOf_eq_units rfl hte
    have hcorners (r c : Int) : bilinear9 (fun i => realOf (g i)) (r : ℚ) c = (bilinear9 u r c : Int) * 2 ^ q := by
      simp only [bilinear9, hvalue (show 0 < 16 by decide), hvalue (show 3 < 16 by decide), hvalue (show 12 < 16 by decide),
        hvalue (show 15 < 16 by decide)]
      push_cast
      ring
    simp only [List.all_eq_true, List.mem_range, decide_eq_true_iff]
    refine forall₂_congr fun i hi => ?_
    rw [abs_units_le_iff _ _ _ (zpow_pos two_pos q : (0 : ℚ) < 2 ^ q), hvalue hi, htolerance, ← hcorners]
    rfl

end

/-- The sixteen places by rows and columns. -/
theorem forall_place_iff {p : Nat → Nat → Prop} : (∀ r < 4, ∀ c < 4, p r c) ↔ ∀ i < 16, p (i / 4) (i % 4) := by
  refine ⟨fun h i hi => h _ (by omega) _ (by omega), fun h r hr c hc => ?_⟩
  have hplace := h (4 * r + c) (by omega)
  rwa [show (4 * r + c) / 4 = r by omega, show (4 * r + c) % 4 = c by omega] at hplace

/-- What the flatness of a patch means, by the kinds of its values and of the tolerance (R346). -/
theorem isFlat_patch (P : Nat → Nat → FVal) (tol : FVal) :
    let B (r c : Nat) : ℚ := ((3 - c) * (3 - r) * realOf (P 0 0) + c * (3 - r) * realOf (P 0 3)
      + (3 - c) * r * realOf (P 3 0) + c * r * realOf (P 3 3)) / 9
    let flat := isFlat ((List.range 16).map fun i => P (i / 4) (i % 4)) tol
    ((∀ r < 4, ∀ c < 4, finite (P r c) = true) → finite tol = true →
      (flat = true ↔ ∀ r < 4, ∀ c < 4, |realOf (P r c) - B r c| ≤ realOf tol))
    ∧ ((∃ r < 4, ∃ c < 4, finite (P r c) = false) → flat = false)
    ∧ ((∃ b, tol = .nan b) → flat = false)
    ∧ (tol = .inf false → (flat = true ↔ ∀ r < 4, ∀ c < 4, finite (P r c) = true))
    ∧ (tol = .inf true → flat = false) := by
  intro B flat
  have hshort : (∃ r < 4, ∃ c < 4, finite (P r c) = false) → flat = false := by
    rintro ⟨r, hr, c, hc, hfin⟩
    refine isFlat_of_short (short_of_not_finite (i := 4 * r + c) (by omega) ?_) tol
    rwa [show (4 * r + c) / 4 = r by omega, show (4 * r + c) % 4 = c by omega]
  have hcases : (∀ r < 4, ∀ c < 4, finite (P r c) = true) ∨ ∃ r < 4, ∃ c < 4, finite (P r c) = false := by
    by_contra hnone
    push Not at hnone
    obtain ⟨⟨r, hr, c, hc, hne⟩, hall⟩ := hnone
    exact hall r hr c hc (Bool.eq_false_iff.mpr hne)
  refine ⟨fun hfin htol => ?_, hshort, ?_, ?_, ?_⟩
  · rw [forall_place_iff (p := fun r c => |realOf (P r c) - B r c| ≤ realOf tol)]
    exact isFlat_iff (forall_place_iff.mp hfin) htol
  · rintro ⟨b, rfl⟩
    exact isFlat_nan _ b
  · rintro rfl
    refine ⟨fun hflat => hcases.resolve_right fun hbad => ?_, fun hfin => isFlat_inf (not_short (forall_place_iff.mp hfin)) false⟩
    exact Bool.false_ne_true ((hshort hbad).symm.trans hflat)
  · rintro rfl
    rcases hcases with hfin | hbad
    · exact isFlat_inf (not_short (forall_place_iff.mp hfin)) true
    · exact hshort hbad

/-! ## GPFLAT (R346) -/

/-- The tolerance of GPFLAT: the immediate under the float rule, or s(b). -/
def flatTolerance (q : Taken) : FVal :=
  match q.w.imm with
  | some x => f32 (BitVec.ofNat 32 (x.toNat * 256))
  | none => f32 (q.s32 q.b).val

section
variable {q : Taken}

theorem gGpflat_idle (h : actives q.sc = 0) : gGpflat q.sc = (q.s, .ok [] 0 []) := by
  simp only [gGpflat, pureM, h, if_true]
  rfl

theorem immZ_shift (x : BitVec 24) : immZ x <<< 8 = BitVec.ofNat 32 (x.toNat * 256) := by
  apply BitVec.eq_of_toNat_eq
  have hx := x.isLt
  simp only [immZ, BitVec.toNat_shiftLeft, BitVec.toNat_setWidth, BitVec.toNat_ofNat, Nat.shiftLeft_eq]
  omega

/-- The tolerance's operand (R166). -/
def flatOperand (q : Taken) : PWord :=
  match q.w.imm with
  | some x => ⟨immZ x <<< 8, false⟩
  | none => q.s32 q.b

theorem flatOperand_val (q : Taken) : f32 (flatOperand q).val = flatTolerance q := by
  cases himm : q.w.imm with
  | none => simp only [flatOperand, flatTolerance, himm]
  | some x => simp only [flatOperand, flatTolerance, himm, immZ_shift]

theorem flatOperand_clean (h : q.w.imm = none → (q.s32 q.b).poison = false) : (flatOperand q).poison = false := by
  cases himm : q.w.imm with
  | none => simpa only [flatOperand, himm] using h himm
  | some x => simp only [flatOperand, himm]

/-- With clean operands each lane's predicate tells whether its patch is flat. -/
theorem gGpflat_flat (hact : actives q.sc ≠ 0) (htol : q.w.imm = none → (q.s32 q.b).poison = false)
    (hrun : ∀ l ∈ q.act, ∀ i < 16, (vreg q.g (q.a + i) l).poison = false) : gGpflat q.sc =
      (q.s, .ok [.result 12 (q.act.map (fun l => .p q.d l
        ⟨isFlat ((List.range 16).map fun i => f32 (vreg q.g (q.a + i) l).val) (flatTolerance q), false⟩) ++ q.keepP 1)] 0 []) := by
  have htrap : laneTrap 7 q.sc (fun l => (flatOperand q).poison || runPoison q.sc q.sc.a 16 l) = none :=
    laneTrap_eq_none 7 fun l hl => by rw [flatOperand_clean htol, Bool.false_or]; exact runPoison_eq_false (hrun l hl)
  refine (congrArg (Prod.mk q.s) (if_neg hact)).trans ?_
  change (q.s, match laneTrap 7 q.sc (fun l => (flatOperand q).poison || runPoison q.sc q.sc.a 16 l) with
    | some t => t
    | none => _) = _
  rw [htrap, ← flatOperand_val]
  rfl

end

/-! ## GPSPLIT (R345) -/

section
variable {q : Taken}

/-- One of the quadrant's control values: the exact sum under the weights of its halves, rounded once. -/
def splitValue (q : Taken) (l r c : Nat) : Nat :=
  (sumOnce binary32 q.sc.mod.rm.toNat ((List.range 16).map fun i =>
    prodExact (.fin false (halfWeights ((q.uy true).val.getLsbD 1) r (i / 4) * halfWeights ((q.uy true).val.getLsbD 0) c (i % 4)) (-6))
      (f32 (vreg q.g (q.a + i) l).val))).1

/-- A quadrant above 3, or ranges that overlap in part, as the model tests them. -/
def splitIllegal (q : Taken) : Bool :=
  decide ((q.uy true).val.toNat ≥ 4) || (decide (q.a ≠ q.d) && decide (q.a < q.d + 16) && decide (q.d < q.a + 16))

theorem splitIllegal_iff : splitIllegal q = true ↔
    (q.uy true).val.toNat ≥ 4 ∨ ¬(q.a = q.d ∨ q.d + 16 ≤ q.a ∨ q.a + 16 ≤ q.d) := by
  simp only [splitIllegal, Bool.or_eq_true, Bool.and_eq_true, decide_eq_true_eq]
  omega

theorem gGpsplit_illegal (h : splitIllegal q = true) : gGpsplit q.sc = (q.s, trapOf 2) := by
  unfold splitIllegal at h
  simp only [gGpsplit, pureM, uB_sc]
  exact congrArg _ (if_pos h)

variable (h : splitIllegal q = false)
include h

theorem gGpsplit_idle (hact : actives q.sc = 0) : gGpsplit q.sc = (q.s, .ok [] 0 []) := by
  simp only [gGpsplit, pureM, uB_sc, hact, if_true]
  exact congrArg _ (if_neg (Bool.eq_false_iff.mp h))

/-- With clean operands each lane takes the quadrant's sixteen control values. -/
theorem gGpsplit_splits (hact : actives q.sc ≠ 0) (hquad : (q.uy true).poison = false)
    (hrun : ∀ l ∈ q.act, ∀ i < 16, (vreg q.g (q.a + i) l).poison = false) : gGpsplit q.sc =
      (q.s, .ok [.result 16 ((q.act.flatMap fun l => (List.range 16).map fun i =>
        .v (q.d + i) l ⟨BitVec.ofNat 32 (splitValue q l (i / 4) (i % 4)), false⟩) ++ q.keepV 16)] 0 []) := by
  have htrap : laneTrap 7 q.sc (fun l => (q.uy true).poison || runPoison q.sc q.sc.a 16 l) = none :=
    laneTrap_eq_none 7 fun l hl => by rw [hquad, Bool.false_or]; exact runPoison_eq_false (hrun l hl)
  simp only [gGpsplit, pureM, uB_sc, hact, if_false, htrap, gKept_sc]
  exact congrArg (Prod.mk q.s) (if_neg (Bool.eq_false_iff.mp h))

end

/-- The weights of a half are those of R345. -/
theorem halfWeights_getLsbD (x : Word) (k r i : Nat) : halfWeights (x.getLsbD k) r i =
    ((if x.toNat / 2 ^ k % 2 = 1 then [[1, 6, 1, 0], [0, 4, 4, 0], [0, 1, 6, 1], [0, 0, 4, 4]]
      else [[4, 4, 0, 0], [1, 6, 1, 0], [0, 4, 4, 0], [0, 1, 6, 1]] : List (List Nat)).getD r []).getD i 0 := by
  rw [BitVec.getLsbD, Nat.testBit_eq_decide_div_mod_eq]
  by_cases h : x.toNat / 2 ^ k % 2 = 1 <;> simp only [h, halfWeights, decide_true, decide_false, if_true, if_false, Bool.false_eq_true]

/-- Settles O23: GPFLAT's answer is `isFlat`, which is flatness as real numbers; GPSPLIT's answers are the sums under the weights. -/
theorem patchForms : Obligations.PatchForms := by
  refine ⟨fun q h hact => ?_, fun q h hact => ?_, fun q h => ?_⟩
  · exact gives_of_ok h rfl (exec_gpflat q.w q.s) (gGpflat_idle hact)
  · intro P tol B htol hrun
    refine ⟨_, gives_of_ok h rfl (exec_gpflat q.w q.s) (gGpflat_flat hact htol hrun), fun l _ => ?_⟩
    have hplace (i : Nat) : f32 (vreg q.g (q.a + i) l).val = P l (i / 4) (i % 4) := by
      simp only [P, Nat.add_assoc, Nat.div_add_mod]
    simp only [hplace]
    exact isFlat_patch (P l) tol
  · intro quad apart lower upper wt value
    have hlegal (hquad : quad.val.toNat < 4) (hapart : apart) : splitIllegal q = false := by
      refine Bool.eq_false_iff.mpr fun hbad => ?_
      rcases splitIllegal_iff.mp hbad with hq | ha
      · exact absurd hquad (Nat.not_lt.mpr hq)
      · exact ha hapart
    refine ⟨fun hquad hapart hact => ?_, fun hquad hapart hact hclean hrun => ?_, fun hbad => ?_⟩
    · exact gives_of_ok h rfl (exec_gpsplit q.w q.s) (gGpsplit_idle (hlegal hquad hapart) hact)
    · have hvalue (l r c : Nat) : splitValue q l r c = value l r c := by
        simp only [splitValue, halfWeights_getLsbD]
        rfl
      simp only [← hvalue]
      exact gives_of_ok h rfl (exec_gpsplit q.w q.s) (gGpsplit_splits (hlegal hquad hapart) hact hclean hrun)
    · exact traps_of_trap h rfl (exec_gpsplit q.w q.s) (gGpsplit_illegal (splitIllegal_iff.mpr hbad))

end Sys2Proof.Laws.PatchForms
end

section
/-! SUPPORT. The forms of the graphics unit that read records, and GPUBLISH: a slot that waits, checks that pass, what `gRecord` hands on,
and the statements O24 and O26 (R331, R336-R343, R353). -/

namespace Sys2Proof.Laws

open Sys2Proof.Machine Sys2Proof.Safety

/-- A ready slot whose meaning may not issue yet holds its bundle. -/
theorem holds_of_hold {q : Taken} {i : Instr} {f : Form} {cls : Nat} {w : Slot} {m : Meaning} (h : q.ready i)
    (hi : slotOf i = some (f, cls, w)) (hx : exec i q.s = runSlot f cls w m q.s) (hm : m q.sc = (q.s, .hold)) :
    exec i q.s = .next (holdSlot q.s q.is false) := by
  obtain ⟨rfl, rfl, rfl⟩ : f = q.f ∧ cls = q.cls ∧ w = q.w := by simpa [hi] using h.1
  obtain ⟨-, hcur, hg, -⟩ := id h
  rw [hx]
  simp only [runSlot, hcur, hg]
  rw [slotStep_ready q i m h, hm]
  rfl

/-! ## Checks that pass (R201, R384) -/

section
variable {l : List LaneCheck} (h : ∀ x ∈ l, x.cause = 0)
include h

theorem filter_passed : l.filter (fun x => x.cause == 0) = l :=
  List.filter_eq_self.mpr fun x hx => by rw [h x hx]; rfl

theorem lanesWith_passed {cause : Nat} (hc : cause ≠ 0) : lanesWith cause l = 0#16 := by
  refine maskOf_eq_zero fun i _ => List.any_eq_false.mpr fun x hx => ?_
  rw [h x hx, beq_false_of_ne hc.symm, Bool.and_false]
  exact Bool.false_ne_true

/-- Lanes that all passed bring about no event. -/
theorem checkEvent_passed (slot access : Nat) : checkEvent slot access l = none := by
  simp only [checkEvent, lanesWith_passed h (show 4 ≠ 0 by decide), lanesWith_passed h (show 3 ≠ 0 by decide),
    lanesWith_passed h (show 1 ≠ 0 by decide), lanesWith_passed h (show 2 ≠ 0 by decide)]
  rfl

end

end Sys2Proof.Laws

namespace Sys2Proof.Laws.RayRecordForms

open Sys2Proof.Machine Sys2Proof.Safety Sys2Proof.Laws

/-! ## Reading a record in each lane (R331) -/

section
variable {q : Taken} {size : Nat} {poison : SC → Nat → Bool} {bad : List Byte → Bool}
  {k : SC → List (Nat × Nat × List Byte) → State × SlotRes}

theorem gRecord_idle (h : actives q.sc = 0) : gRecord size poison bad k q.sc = (q.s, .ok [] 0 []) := if_pos h

/-- It reads once the path's earlier accesses have performed. -/
theorem gRecord_busy (h : actives q.sc ≠ 0) (hbusy : pathBusy q.sc = true) : gRecord size poison bad k q.sc = (q.s, .hold) := by
  simp only [gRecord, h, hbusy, if_false, if_true]
  rfl

/-- With clean operands, addresses that pass, no failed die link on a read's way and legal records, the form takes each lane's record. -/
theorem gRecord_reads {s' : State} {l : List LaneCheck} (hact : actives q.sc ≠ 0) (hbusy : pathBusy q.sc = false)
    (hclean : ∀ i ∈ q.act, poison q.sc i = false)
    (hchk : q.checks { r := true } size (fun i => (vpair q.g q.b i).1) = (s', some l)) (hok : ∀ x ∈ l, x.cause = 0)
    (hreach : fetchReach q.sc s' (l.map (·.pa)) = true)
    (hlegal : ∀ x ∈ l, bad (fetchBytes q.sc (fetchLines q.sc s' (l.map (·.pa))) x.pa size) = false) :
    gRecord size poison bad k q.sc = k { q.sc with s := fetchLines q.sc s' (l.map (·.pa)) }
      (l.map fun x => (x.lane, x.ea, fetchBytes q.sc (fetchLines q.sc s' (l.map (·.pa))) x.pa size)) := by
  have hlanes : ((lanesOf (actives q.sc)).filter fun i => !poison q.sc i) = lanesOf (actives q.sc) :=
    List.filter_eq_self.mpr fun i hi => by rw [hclean i hi]; rfl
  have hchk' : checkLanes q.sc.s q.sc.is.loc q.sc.g.ctx { r := true } size
      ((lanesOf (actives q.sc)).map fun i => (i, (vpair q.sc.g q.sc.b i).1)) = (s', some l) := hchk
  have hbad : laneTrap 2 q.sc (fun i => (l.map fun x =>
      (x.lane, x.ea, fetchBytes q.sc (fetchLines q.sc s' (l.map (·.pa))) x.pa size)).any fun r => r.1 == i && bad r.2.2) = none := by
    refine laneTrap_eq_none 2 fun i _ => List.any_eq_false.mpr fun r hr => ?_
    obtain ⟨x, hx, rfl⟩ := List.mem_map.mp hr
    rw [hlegal x hx, Bool.and_false]
    exact Bool.false_ne_true
  simp only [gRecord, hact, hbusy, hlanes, hchk', filter_passed hok, hreach, hbad, laneTrap_eq_none 7 hclean,
    checkEvent_passed hok, Bool.not_true, Bool.false_eq_true, if_false]

end

/-! ## GBOX (R338-R340, R351) -/

/-- The nine results of a lane, by the number of its hits. -/
theorem boxWrites_eq (c : SC) (l : Nat) (hs : List (Nat × FVal)) : boxWrites c l hs =
    .v c.d l ⟨BitVec.ofNat 32 (((List.range hs.length).map fun j => (8 + (hs.getD j (0, fZero)).1) * 16 ^ j).sum), false⟩
    :: (List.range 8).map fun j => .v (c.d + 1 + j) l
        ⟨BitVec.ofNat 32 (if j < hs.length then encodeF binary32 (hs.getD j (0, fZero)).2 else 0x7F800000), false⟩ := by
  unfold boxWrites
  congr 1
  refine List.map_congr_left fun j _ => ?_
  by_cases hj : j < hs.length
  · simp only [List.getElem?_eq_getElem hj, List.getD_eq_getElem _ _ hj, if_pos hj]
    rfl
  · simp only [List.getElem?_eq_none (Nat.le_of_not_lt hj), if_neg hj]
    rfl

/-- No child that is hit is unbuilt. -/
theorem noneUnbuilt {hs : List (Nat × FVal)} {n : List Byte} (h : ∀ x ∈ hs, childWord n x.1 % 16 < 6) :
    (((List.range 8).filter fun i => hs.any (·.1 == i)).filter fun i => decide (childWord n i % 16 ≥ 6)) = [] := by
  refine List.filter_eq_nil_iff.mpr fun i hi => ?_
  obtain ⟨x, hx, hxi⟩ := List.any_eq_true.mp (List.mem_filter.mp hi).2
  have hlt := h x hx
  rw [beq_iff_eq.mp hxi] at hlt
  simpa using hlt

/-! ## The three forms -/

section
variable {q : Taken} {s' : State} {l : List LaneCheck} (hact : actives q.sc ≠ 0) (hbusy : pathBusy q.sc = false)
  (hclean : ∀ i ∈ q.act, (∀ j < 8, (vreg q.g (q.a + j) i).poison = false) ∧ (vpair q.g q.b i).2 = false)

include hclean in
theorem rayPoison {i : Nat} (hi : i ∈ q.act) : (runPoison q.sc q.sc.a 8 i || runPoison q.sc q.sc.b 2 i) = false := by
  obtain ⟨hray, hptr⟩ := hclean i hi
  exact Bool.or_eq_false_iff.mpr ⟨runPoison_eq_false hray, runPoison_pair hptr⟩

include hact hbusy hclean

theorem gGbox_boxes (hchk : q.checks { r := true } 128 (fun i => (vpair q.g q.b i).1) = (s', some l)) (hok : ∀ x ∈ l, x.cause = 0)
    (hreach : fetchReach q.sc s' (l.map (·.pa)) = true) {t : State} (ht : t = fetchLines q.sc s' (l.map (·.pa)))
    (hlegal : ∀ x ∈ l, nodeBad (fetchBytes q.sc t x.pa 128) = false)
    (hbuilt : ∀ x ∈ l, ∀ h ∈ boxHits { q.sc with s := t } x.lane (fetchBytes q.sc t x.pa 128),
      childWord (fetchBytes q.sc t x.pa 128) h.1 % 16 < 6) :
    gGbox q.sc = (t, .ok [.result 20 ((l.flatMap fun x =>
      boxWrites { q.sc with s := t } x.lane (boxHits { q.sc with s := t } x.lane (fetchBytes q.sc t x.pa 128))) ++ q.keepV 9)] 0 []) := by
  subst ht
  refine (gRecord_reads hact hbusy (fun i hi => rayPoison hclean hi) hchk hok hreach hlegal).trans ?_
  dsimp only
  rw [if_pos]
  · simp only [List.map_map, List.flatMap_map]
    rfl
  · refine List.isEmpty_iff.mpr (List.flatMap_eq_nil_iff.mpr fun h hh => List.map_eq_nil_iff.mpr ?_)
    obtain ⟨r, hr, rfl⟩ := List.mem_map.mp hh
    obtain ⟨x, hx, rfl⟩ := List.mem_map.mp hr
    exact noneUnbuilt (hbuilt x hx)

theorem gGtri2_tests (hchk : q.checks { r := true } 64 (fun i => (vpair q.g q.b i).1) = (s', some l)) (hok : ∀ x ∈ l, x.cause = 0)
    (hreach : fetchReach q.sc s' (l.map (·.pa)) = true) {t : State} (ht : t = fetchLines q.sc s' (l.map (·.pa)))
    (hlegal : ∀ x ∈ l, triBad (fetchBytes q.sc t x.pa 64) = false) :
    gGtri2 q.sc = (t, .ok [.result 36 ((l.flatMap fun x =>
      triLane { q.sc with s := t } x.lane (fetchBytes q.sc t x.pa 64)) ++ q.keepV 4)] 0 []) := by
  subst ht
  refine (gRecord_reads hact hbusy (fun i hi => rayPoison hclean hi) hchk hok hreach hlegal).trans ?_
  simp only [List.flatMap_map]
  rfl

theorem gGcurve_tests (hchk : q.checks { r := true } 64 (fun i => (vpair q.g q.b i).1) = (s', some l)) (hok : ∀ x ∈ l, x.cause = 0)
    (hreach : fetchReach q.sc s' (l.map (·.pa)) = true) {t : State} (ht : t = fetchLines q.sc s' (l.map (·.pa)))
    (hlegal : ∀ x ∈ l, recWord (fetchBytes q.sc t x.pa 64) 0x3C = 0) :
    gGcurve q.sc = (t, .ok [.result 108 ((l.flatMap fun x =>
      curveLane { q.sc with s := t } x.lane (fetchBytes q.sc t x.pa 64)) ++ q.keepV 4)] 0 []) := by
  subst ht
  refine (gRecord_reads hact hbusy (fun i hi => rayPoison hclean hi) hchk hok hreach fun x hx => by rw [hlegal x hx]; rfl).trans ?_
  simp only [List.flatMap_map]
  rfl

end

/-- Settles O24: the idle and held cases of `gRecord`, and each form's answer to the records that it hands on. -/
theorem rayRecordForms : Obligations.RayRecordForms := by
  refine ⟨fun i hi q h => ?_, fun q hact hbusy => ?_⟩
  · simp only [List.mem_cons, List.not_mem_nil, or_false] at hi
    rcases hi with rfl | rfl | rfl
    · exact ⟨fun hact => gives_of_ok h rfl (exec_gbox q.w q.s) (gRecord_idle hact),
        fun hact hbusy => holds_of_hold h rfl (exec_gbox q.w q.s) (gRecord_busy hact hbusy)⟩
    · exact ⟨fun hact => gives_of_ok h rfl (exec_gtri2 q.w q.s) (gRecord_idle hact),
        fun hact hbusy => holds_of_hold h rfl (exec_gtri2 q.w q.s) (gRecord_busy hact hbusy)⟩
    · exact ⟨fun hact => gives_of_ok h rfl (exec_gcurve q.w q.s) (gRecord_idle hact),
        fun hact hbusy => holds_of_hold h rfl (exec_gcurve q.w q.s) (gRecord_busy hact hbusy)⟩
  · intro ea hclean s' l t record
    refine ⟨fun h hchk hok hreach => ?_, fun h hchk hok hreach hlegal => ?_, fun h hchk hok hreach hlegal => ?_⟩
    · intro node hits hlegal hbuilt
      have hbox := gGbox_boxes hact hbusy hclean hchk hok hreach rfl hlegal hbuilt
      simp only [boxWrites_eq] at hbox
      exact gives_of_ok h rfl (exec_gbox q.w q.s) hbox
    · exact gives_of_ok h rfl (exec_gtri2 q.w q.s) (gGtri2_tests hact hbusy hclean hchk hok hreach rfl hlegal)
    · exact gives_of_ok h rfl (exec_gcurve q.w q.s) (gGcurve_tests hact hbusy hclean hchk hok hreach rfl hlegal)

end Sys2Proof.Laws.RayRecordForms

namespace Sys2Proof.Laws.SubtreePublication

open Sys2Proof.Machine Sys2Proof.Safety Sys2Proof.Laws

/-- A new child word that GPUBLISH refuses: TYPE 7 or more, or a reserved bit (R337, R353). -/
def wordRefused (w : Nat) : Bool := decide (w % 16 ≥ 7) || decide (w / 16 % 4 ≠ 0) || decide (w / 2 ^ 57 % 8 ≠ 0)

/-- The test of the model, which names TYPE 8 and more a second time. -/
theorem refused_eq (w : Nat) : (decide (w % 16 ≥ 7) || childWordBad w) = wordRefused w := by
  have hhigh : fld w 59 57 = w / 2 ^ 57 % 8 := ModuleEvents.fld_eq_div w 59 57
  have hlow : fld w 5 4 = w / 16 % 4 := ModuleEvents.fld_eq_div w 5 4
  rw [Bool.eq_iff_iff, childWordBad, wordRefused, hhigh, hlow]
  simp only [Bool.or_eq_true, decide_eq_true_eq, bne_iff_ne]
  omega

section
variable {q : Taken}

theorem gGpublish_idle (h : actives q.sc = 0) : gGpublish q.sc = (q.s, .ok [] 0 []) := if_pos h

theorem gGpublish_refuses (hact : actives q.sc ≠ 0) {l : Nat} (hl : l ∈ q.act) (hbad : wordRefused (vpair q.g q.b l).1 = true) :
    gGpublish q.sc = (q.s, trapOf 2 0 (maskOf fun l => (actives q.sc).getLsbD l && wordRefused (vpair q.g q.b l).1)) := by
  have htrap := laneTrap_eq_some (q := q) (f := fun l => wordRefused (vpair q.sc.g q.sc.b l).1) 2 hl hbad
  simp only [gGpublish, hact, if_false, refused_eq, htrap]
  rfl

theorem gGpublish_exchanges {s' : State} {l : List LaneCheck} (hact : actives q.sc ≠ 0)
    (hlegal : ∀ i ∈ q.act, wordRefused (vpair q.g q.b i).1 = false ∧ (vpair q.g q.a i).2 = false ∧ (vpair q.g q.b i).2 = false)
    (hchk : q.checks { r := true, w := true } 8 (fun i => (vpair q.g q.a i).1) = (s', some l)) (hok : ∀ x ∈ l, x.cause = 0) :
    gGpublish q.sc = (s', .ok
      (.access { entryOf q.sc (.atomic .publish q.d) false 8
            (l.map fun x => { readAccess x with data := natLe (vpair q.g q.b x.lane).1 8 })
          with scope := if q.sc.mod.scope = 0 then 4 else q.sc.mod.scope.toNat, cached := false }
        :: (if q.keepP 1 = [] then [] else [.result 20 (q.keepP 1)])) 0 []) := by
  have hclean {i : Nat} (hi : i ∈ q.act) : (runPoison q.sc q.sc.a 2 i || runPoison q.sc q.sc.b 2 i) = false := by
    obtain ⟨-, hptr, hnew⟩ := hlegal i hi
    exact Bool.or_eq_false_iff.mpr ⟨runPoison_pair hptr, runPoison_pair hnew⟩
  have hlanes : ((lanesOf (actives q.sc)).filter fun i => !(runPoison q.sc q.sc.a 2 i || runPoison q.sc q.sc.b 2 i)) =
      lanesOf (actives q.sc) := List.filter_eq_self.mpr fun i hi => by rw [hclean hi]; rfl
  have hwords : laneTrap 2 q.sc (fun i => wordRefused (vpair q.sc.g q.sc.b i).1) = none :=
    laneTrap_eq_none 2 fun i hi => (hlegal i hi).1
  have hchk' : checkLanes q.sc.s q.sc.is.loc q.sc.g.ctx { r := true, w := true } 8
      ((lanesOf (actives q.sc)).map fun i => (i, (vpair q.sc.g q.sc.a i).1)) = (s', some l) := hchk
  simp only [gGpublish, hact, if_false, refused_eq, hwords, laneTrap_eq_none 7 fun i hi => hclean hi, hlanes, hchk',
    checkEvent_passed hok, gKeptP_sc, List.isEmpty_iff]
  rfl

end

/-- Settles O26: the three answers of GPUBLISH. -/
theorem subtreePublication : Obligations.SubtreePublication := by
  refine ⟨fun q h hact => gives_of_ok h rfl (exec_gpublish q.w q.s) (gGpublish_idle hact), fun q h hact => ⟨?_, ?_⟩⟩
  · rintro ⟨l, hl, hbad⟩
    exact traps_of_trap h rfl (exec_gpublish q.w q.s) (gGpublish_refuses hact hl hbad)
  · intro hlegal s' l hchk hok
    exact gives_of_ok h rfl (exec_gpublish q.w q.s) (gGpublish_exchanges hact hlegal hchk hok)

end Sys2Proof.Laws.SubtreePublication
end

section
/-! SUPPORT. GTEX and GTEXL: the lanes' lookups, the texels that they need and read, and the statement O25 (R331, R347-R349). -/

namespace Sys2Proof.Laws.TextureLookup

open Sys2Proof.Machine Sys2Proof.Safety Sys2Proof.Laws

/-- A binary32 code has 32 bits. -/
theorem decodeF_binary32_mod (x : Nat) : decodeF binary32 (x % 2 ^ 32) = decodeF binary32 x := by
  have hsign : bitOf (x % 2 ^ 32) (binary32.eb + binary32.fb) = bitOf x (binary32.eb + binary32.fb) := by
    rw [bitOf, bitOf, Nat.testBit_mod_two_pow]
    rfl
  have hexp : fld (x % 2 ^ 32) (binary32.eb + binary32.fb - 1) binary32.fb = fld x (binary32.eb + binary32.fb - 1) binary32.fb := by
    rw [ModuleEvents.fld_eq_div, ModuleEvents.fld_eq_div]
    simp only [binary32]
    omega
  have hfrac : x % 2 ^ 32 % 2 ^ binary32.fb = x % 2 ^ binary32.fb := Nat.mod_mod_of_dvd x (pow_dvd_pow 2 (by decide))
  simp only [decodeF, hsign, hexp, hfrac]

section
variable (c : SC) (explicit : Bool) (k : TexCtl) (ds : List (List DWord))

/-- What a lane looks up (R348, R349). -/
def lookups (l : Nat) : List (List Sample × Nat) :=
  let u := laneF c c.a l
  let v := laneF c (c.a + 1) l
  if explicit then texLookups k (ds.map tensorOf) (clampLod k.nlev (laneF c c.creg l)) 1 u v fZero fZero
  else
    let d := texLod c k ((ds.map tensorOf).getD 0 (tensorOf [])) l
    texLookups k (ds.map tensorOf) d.1 d.2.1 u v d.2.2.1 d.2.2.2

/-- The bytes of a texel's channel. -/
def texelSize : Nat := elemWidth ((ds.map tensorOf).getD 0 (tensorOf [])).fmt / 8

/-- The addresses that the active lanes read; 2^64 where BORDER faults. -/
def texelNeeds : List (Nat × Nat) :=
  (lanesOf (actives c)).flatMap fun l => ((lookups c explicit k ds l).flatMap (·.1)).flatMap fun p =>
    (List.range 4).flatMap fun ch => corners.filterMap fun ij => match texelAt (ds.map tensorOf) p ch ij.1 ij.2 with
      | some (.ok ea) => some (l, ea)
      | some (.error _) => none
      | none => some (l, 2 ^ 64)

/-- The value of a texel's channel that has been read. -/
def texelValue (t : State) (qs : List LaneCheck) (ea : Nat) : FVal :=
  match qs.find? fun x => x.ea == ea with
  | some x => f32 (BitVec.ofNat 32
      (cvtValue 2 ((ds.map tensorOf).getD 0 (tensorOf [])).fmt (leNat (fetchBytes c t x.pa (texelSize ds))) ⟨0, 0⟩ false none).1)
  | none => fZero

/-- It is the code that the conversion gives. -/
theorem texelValue_eq (t : State) (qs : List LaneCheck) : texelValue c ds t qs = fun ea => match qs.find? fun x => x.ea == ea with
    | some x => decodeF binary32
        (cvtValue 2 ((ds.map tensorOf).getD 0 (tensorOf [])).fmt (leNat (fetchBytes c t x.pa (texelSize ds))) ⟨0, 0⟩ false none).1
    | none => fZero := by
  funext ea
  unfold texelValue
  split
  · rw [f32, BitVec.toNat_ofNat, decodeF_binary32_mod]
  · rfl

/-- Once every texel is in reach the body filters four channels in each lane. -/
theorem texBody_filters {s' : State} {qs : List LaneCheck} (keep : List Eff)
    (hchk : checkLanes c.s c.is.loc c.g.ctx { r := true } (texelSize ds) (texelNeeds c explicit k ds).eraseDups = (s', some qs))
    (hok : ∀ x ∈ qs, x.cause = 0) (hreach : fetchReach c s' (qs.map (·.pa)) = true) :
    texBody explicit k ds keep c = (fetchLines c s' (qs.map (·.pa)),
      .ok (keep ++ [.result 40 (((lanesOf (actives c)).flatMap fun l => (List.range 4).map fun ch => gWrite (c.d + ch) l
        (filtered (texelValue c ds (fetchLines c s' (qs.map (·.pa))) qs) (ds.map tensorOf) (lookups c explicit k ds l) ch))
        ++ gKept c 4)]) 0 []) := by
  rw [texelValue_eq]
  unfold texBody
  extract_lets act ts t0 w look lks need
  have hneed : checkLanes c.s c.is.loc c.g.ctx { r := true } w need.eraseDups = (s', some qs) := by
    simp only [need, lks, List.flatMap_map]
    exact hchk
  simp only [hneed, checkEvent_passed hok, hreach, Bool.not_true, Bool.false_eq_true, if_false, lks, List.flatMap_map]
  rfl

end

section
variable {q : Taken} {explicit : Bool}

/-- The control word's test (R347). -/
theorem texControl_eq (w : Word) : (decide ((texCtl w).filt = 3) || decide (w.toNat / 2 ^ 26 ≠ 0)) =
    decide ((texCtl w).filt = 3 ∨ w.toNat / 2 ^ 26 ≠ 0) := (Bool.decide_or _ _).symm

theorem gGtex_illegal (h : (texCtl (q.s32 q.b).val).filt = 3 ∨ (q.s32 q.b).val.toNat / 2 ^ 26 ≠ 0) :
    gGtex explicit q.sc = (q.s, trapOf 2) :=
  if_pos ((texControl_eq _).trans (decide_eq_true h))

variable (h : ¬((texCtl (q.s32 q.b).val).filt = 3 ∨ (q.s32 q.b).val.toNat / 2 ^ 26 ≠ 0))
include h

theorem gGtex_idle (hact : actives q.sc = 0) : gGtex explicit q.sc = (q.s, .ok [] 0 []) :=
  (if_neg (Bool.eq_false_iff.mp ((texControl_eq _).trans (decide_eq_false h)))).trans (if_pos hact)

theorem gGtex_busy (hact : actives q.sc ≠ 0) (hbusy : pathBusy q.sc = true) : gGtex explicit q.sc = (q.s, .hold) :=
  (if_neg (Bool.eq_false_iff.mp ((texControl_eq _).trans (decide_eq_false h)))).trans ((if_neg hact).trans (if_pos hbusy))

/-- With its levels read and legal and its operands clean the form runs its body. -/
theorem gGtex_body (hact : actives q.sc ≠ 0) (hbusy : pathBusy q.sc = false) (hword : (q.s32 q.b).poison = false)
    (hcoord : ∀ l ∈ q.act, ∀ i ∈ texLanes l, ∀ j < 2, (vreg q.g (q.a + j) i).poison = false)
    (hlod : explicit = true → ∀ l ∈ q.act, (vreg q.g q.sc.mod.creg.toNat l).poison = false)
    {s1 : State} {ds : List (List DWord)} {keep : List Eff}
    (hlevels : texLevels q.sc 16 ((List.range (texCtl (q.s32 q.b).val).nlev).map ((texCtl (q.s32 q.b).val).tex + ·)) = (s1, .ok (ds, keep)))
    (hlegal : texBad ds = false) :
    gGtex explicit q.sc = texBody explicit (texCtl (q.s32 q.b).val) ds keep { q.sc with s := s1 } := by
  have hclean : laneTrap 7 q.sc (fun l => (q.s32 q.b).poison || ((texLanes l).any fun i => runPoison q.sc q.sc.a 2 i)
      || (explicit && (vreg q.sc.g q.sc.creg l).poison)) = none := by
    refine laneTrap_eq_none 7 fun l hl => ?_
    have hrun : ((texLanes l).any fun i => runPoison q.sc q.sc.a 2 i) = false :=
      List.any_eq_false.mpr fun i hi => Bool.eq_false_iff.mp (runPoison_eq_false (hcoord l hl i hi))
    rw [hword, hrun, Bool.false_or, Bool.false_or]
    cases explicit with
    | false => rfl
    | true => exact hlod rfl l hl
  refine (if_neg (Bool.eq_false_iff.mp ((texControl_eq _).trans (decide_eq_false h)))).trans ((if_neg hact).trans ?_)
  refine (if_neg (Bool.eq_false_iff.mp hbusy)).trans ?_
  have hlevels' : texLevels q.sc 16 ((List.range (texCtl (sreg q.sc.g q.sc.pt q.sc.b).val).nlev).map
      ((texCtl (sreg q.sc.g q.sc.pt q.sc.b).val).tex + ·)) = (s1, .ok (ds, keep)) := hlevels
  simp only [hlevels', hlegal, Bool.false_eq_true, if_false]
  exact congrArg (fun o : Option SlotRes => match o with
    | some t => (s1, t)
    | none => texBody explicit (texCtl (q.s32 q.b).val) ds keep { q.sc with s := s1 }) hclean

end

/-- Settles O25: the cases of `gGtex` in their order, and its body's four channels. -/
theorem textureLookup : Obligations.TextureLookup := by
  intro e he q h _
  have hrow : ∃ f, slotOf (e.1 q.w) = some (f, 4, q.w) ∧ exec (e.1 q.w) q.s = runSlot f 4 q.w (gGtex e.2) q.s := by
    simp only [List.mem_cons, List.not_mem_nil, or_false] at he
    rcases he with rfl | rfl
    · exact ⟨_, rfl, exec_gtex q.w q.s⟩
    · exact ⟨_, rfl, exec_gtexl q.w q.s⟩
  obtain ⟨f, hi, hx⟩ := hrow
  intro w k bad
  refine ⟨fun hbad => traps_of_trap h hi hx (gGtex_illegal hbad), fun hbad hact => gives_of_ok h hi hx (gGtex_idle hbad hact),
    fun hbad hact hbusy => holds_of_hold h hi hx (gGtex_busy hbad hact hbusy), fun hbad hact hbusy hword hcoord hlod => ?_⟩
  intro s1 ds keep hlevels hlegal ts size look need s' qs hchk hok hreach
  have hbody := texBody_filters { q.sc with s := s1 } e.2 k ds keep hchk hok hreach
  exact gives_of_ok h hi hx ((gGtex_body hbad hact hbusy hword hcoord hlod hlevels hlegal).trans hbody)

end Sys2Proof.Laws.TextureLookup
end

section
/-! SUPPORT. Results that land: what a write of a register leaves in the files and in the shadows of the paths (R65, R71, R145, R149). -/

namespace Sys2Proof.Laws.ResultLanding

open Sys2Proof.Machine Sys2Proof.Safety Sys2Proof.Laws

/-! ## Shadows -/

/-- A shadow after a write holds the written register's entry and every other one as before. -/
theorem shadowOf_shadowPut (sh : List Shadow) (key level : Nat) (v : Word) (b : Bool) (k : Nat) :
    shadowOf (shadowPut sh key level v b) k = if key = k then some ⟨key, level, v, b⟩ else shadowOf sh k := by
  induction sh with
  | nil => rw [shadowPut, shadowOf_cons]
  | cons e sh ih =>
    rw [shadowPut]
    by_cases he : e.reg = key
    · rw [if_pos he, shadowOf_cons, shadowOf_cons, he]
      by_cases hk : key = k <;> simp [hk]
    · rw [if_neg he, shadowOf_cons, shadowOf_cons, ih]
      by_cases hk : key = k
      · simp [hk, hk ▸ he]
      · simp [hk]

/-! ## A uniform result inside a region (R145, R149) -/

/-- A path in a slot holds a lane of a result's mask. -/
def Holds (g : Group) (mask : LaneMask) (p : Nat) : Prop := (pathAt g p).st ≠ .empty ∧ meets (pathAt g p).mask mask = true

section
variable (g : Group) (mask : LaneMask) {depth : Nat} (hdepth : depth ≠ 0) (key : Nat) (v : Word) (b : Bool)
include hdepth

/-- The path of a slot, once a result of a region has landed. -/
theorem pathAt_landUniform (p : Nat) : pathAt (landUniform g mask depth key v b) p =
    if (pathAt g p).st != .empty && meets (pathAt g p).mask mask && (pathAt g p).depth != 0 then
      { pathAt g p with shadow := shadowPut (pathAt g p).shadow key (min depth (pathAt g p).depth) v b }
    else pathAt g p := by
  simp only [landUniform, if_neg hdepth, apply_ite (pathAt · p), pathAt_filePut, ite_self]
  by_cases hp : p = 0
  · subst hp
    rfl
  · simp only [pathAt, if_neg hp]

/-- A path inside a region that holds a lane takes the value in its shadow. -/
theorem pathAt_landUniform_holds {p : Nat} (h : Holds g mask p) (hp : (pathAt g p).depth ≠ 0) :
    pathAt (landUniform g mask depth key v b) p =
      { pathAt g p with shadow := shadowPut (pathAt g p).shadow key (min depth (pathAt g p).depth) v b } := by
  obtain ⟨hst, hmask⟩ := h
  rw [pathAt_landUniform g mask hdepth, if_pos (by simp [hst, hmask, hp])]

/-- A path with none of the lanes stays. -/
theorem pathAt_landUniform_not_holds {p : Nat} (h : ¬Holds g mask p) : pathAt (landUniform g mask depth key v b) p = pathAt g p := by
  rw [pathAt_landUniform g mask hdepth, if_neg]
  simp only [Bool.and_eq_true, bne_iff_ne]
  exact fun ⟨hh, _⟩ => h hh

/-- The file takes the value or keeps its own, and the rest of the group but its paths and regions stays. -/
theorem landUniform_cases : ∃ k, PathsOnly g k ∧ (landUniform g mask depth key v b = filePut k key v b ∨ landUniform g mask depth key v b = k) := by
  unfold landUniform
  rw [if_neg hdepth]
  extract_lets onPath onRegion k
  refine ⟨k, ⟨_, _, _, rfl⟩, ?_⟩
  split
  · exact .inl rfl
  · exact .inr rfl

/-- The file keeps its values where no path of depth 0 holds a lane. -/
theorem landUniform_pathsOnly (hin : ∀ p < 2, Holds g mask p → (pathAt g p).depth ≠ 0) :
    PathsOnly g (landUniform g mask depth key v b) := by
  unfold landUniform
  rw [if_neg hdepth]
  extract_lets onPath onRegion k
  have hno (p : Nat) (hp : p < 2) : ((onPath (pathAt g p)).st != .empty && meets (onPath (pathAt g p)).mask mask
      && (onPath (pathAt g p)).depth == 0) = false := by
    have h := hin p hp
    simp only [onPath, Holds] at h ⊢
    split <;> simp_all
  rw [if_neg]
  · exact ⟨_, _, _, rfl⟩
  · rw [Bool.or_eq_true, not_or, Bool.not_eq_true, Bool.not_eq_true]
    exact ⟨hno 0 (by omega), hno 1 (by omega)⟩

end

/-! ## Registers as a path reads them -/

/-- The written uniform reads the value where the path's shadow took it. -/
theorem sreg_shadowPut (h : Group) (pt : Path) (key level : Nat) (v : Word) (b : Bool) :
    sreg h { pt with shadow := shadowPut pt.shadow key level v b } key = ⟨v, b⟩ := by
  simp [sreg, shadowOf_shadowPut]

/-- A uniform that the shadow's write does not name reads as before. -/
theorem sreg_shadowPut_ne {g h : Group} (hs : h.s = g.s) (pt : Path) {key n : Nat} (hn : key ≠ n) (level : Nat) (v : Word) (b : Bool) :
    sreg h { pt with shadow := shadowPut pt.shadow key level v b } n = sreg g pt n := by
  simp [sreg, shadowOf_shadowPut, hn, hs]

/-- The written scalar predicate reads the value where the path's shadow took it. -/
theorem spreg_shadowPut (h : Group) (pt : Path) {key : Nat} (hkey : key < 7) (level : Nat) (x : PBit) :
    spreg h { pt with shadow := shadowPut pt.shadow (spKey key) level (if x.val then 1 else 0) x.poison } key = x := by
  obtain ⟨_ | _, b⟩ := x <;> simp [spreg, shadowOf_shadowPut, hkey.ne]

/-! ## Canonical files (log 1) -/

theorem filePut_canonical {g : Group} (h : CanonicalFiles g) (key : Nat) (v : Word) (b : Bool) : CanonicalFiles (filePut g key v b) := by
  obtain ⟨hv, hs, hsp, hp, hx⟩ := h
  unfold filePut
  split
  · exact ⟨hv, tput_wf _ _ _ _ hs, hsp, hp, hx⟩
  · exact ⟨hv, hs, tput_wf _ _ _ _ hsp, hp, hx⟩

theorem canonical_of_pathsOnly {g k : Group} (a : PathsOnly g k) (h : CanonicalFiles g) : CanonicalFiles k := by
  obtain ⟨x, y, l, rfl⟩ := a
  exact h

theorem landUniform_canonical {g : Group} (h : CanonicalFiles g) (mask : LaneMask) (depth key : Nat) (v : Word) (b : Bool) :
    CanonicalFiles (landUniform g mask depth key v b) := by
  by_cases hdepth : depth = 0
  · rw [landUniform, if_pos hdepth]
    exact filePut_canonical h key v b
  · obtain ⟨k, hk, he | he⟩ := landUniform_cases g mask hdepth key v b <;> rw [he]
    · exact filePut_canonical (canonical_of_pathsOnly hk h) key v b
    · exact canonical_of_pathsOnly hk h

theorem landWrite_canonical {g : Group} (h : CanonicalFiles g) (mask : LaneMask) (depth : Nat) (w : RegWrite) :
    CanonicalFiles (landWrite g mask depth w) := by
  obtain ⟨hv, hs, hsp, hp, hx⟩ := id h
  cases w with
  | v r l x => exact ⟨tput_wf _ _ _ _ hv, hs, hsp, hp, hx⟩
  | s r x => exact landUniform_canonical h _ _ _ _ _
  | sp r x => exact landUniform_canonical h _ _ _ _ _
  | p r l x => exact ⟨hv, hs, hsp, tput_wf _ _ _ _ hp, hx⟩
  | x r d => exact ⟨hv, hs, hsp, hp, tput_wf _ _ _ _ hx⟩

theorem landWrites_canonical (mask : LaneMask) (depth : Nat) (ws : List RegWrite) {g : Group} (h : CanonicalFiles g) :
    CanonicalFiles (landWrites g mask depth ws) := by
  induction ws generalizing g with
  | nil => exact h
  | cons w ws ih => exact ih (landWrite_canonical h mask depth w)

/-! ## The event -/

/-- A group without a result that has landed. -/
def landed (g : Group) (i : Nat) : Group := { g with inflight := g.inflight.eraseIdx i }

/-- A result whose time has come lands. -/
theorem exec_resultLand {s : State} {g : Group} {r : Result} (hg : getGroup s s.args.n = some g) (hr : g.inflight[s.args.m]? = some r)
    (hleft : r.left = 0) : exec .resultLand s =
      .next (putGroup s s.args.n (landWrites (landed g s.args.m) r.mask r.depth r.writes)) := by
  have hland : exec .resultLand s = .next (landResult s s.args.n s.args.m) := rfl
  rw [hland, landResult, hg]
  simp only [hr, afterCk, hleft, Nat.not_lt_zero, if_false, if_true]
  rw [modGroup_some _ hg]
  rfl

/-! ## One register write -/

/-- A lane's bit of a mask, set or cleared. -/
def setLane (on : Bool) (m : LaneMask) (l : Nat) : LaneMask :=
  if on then m ||| BitVec.ofNat 16 (2 ^ l) else m &&& ~~~BitVec.ofNat 16 (2 ^ l)

theorem getLsbD_setLane (on : Bool) (m : LaneMask) {l : Nat} (hl : l < 16) (j : Nat) :
    (setLane on m l).getLsbD j = if j = l then on else m.getLsbD j := by
  have hbit : (BitVec.ofNat 16 (2 ^ l)).getLsbD j = decide (j = l) := by
    rw [BitVec.getLsbD_ofNat, Nat.testBit_two_pow]
    by_cases hj : l = j
    · simp [← hj, hl]
    · simp [hj, Ne.symm hj]
  have hout (h : ¬j < 16) : m.getLsbD j = false := BitVec.getLsbD_of_ge _ _ (by omega)
  rw [setLane, apply_ite (BitVec.getLsbD · j), BitVec.getLsbD_or, BitVec.getLsbD_and, BitVec.getLsbD_not, hbit]
  by_cases hjl : j = l
  · cases on <;> simp [hjl]
  · by_cases hj : j < 16
    · cases on <;> simp [hjl, hj, -BitVec.getLsbD_eq_getElem]
    · simp [hjl, hout hj]

/-- One lane of a predicate is written. -/
theorem landWrite_p (g : Group) (mask : LaneMask) (depth d l : Nat) (x : PBit) : landWrite g mask depth (.p d l x) =
    { g with p := tput {} g.p d ⟨setLane x.val (tget ({} : PMask) g.p d).val l, setLane x.poison (tget ({} : PMask) g.p d).poison l⟩ } :=
  rfl

/-- A scalar predicate's place in the file. -/
theorem filePut_spKey (g : Group) (d : Nat) (x : PBit) :
    filePut g (spKey d) (if x.val then 1 else 0) x.poison = { g with sp := tput {} g.sp d x } := by
  have hkey : ¬spKey d < 0x8000 := by simp [spKey]
  rw [filePut, if_neg hkey, spKey, Nat.add_sub_cancel_left]
  obtain ⟨_ | _, b⟩ := x <;> rfl

/-- A uniform's place in the file. -/
theorem filePut_uniform (g : Group) {d : Nat} (hd : d < 0x8000) (x : PWord) :
    filePut g d x.val x.poison = { g with s := tput {} g.s d x } := by
  rw [filePut, if_pos hd]

/-- A write of the file changes the file only. -/
theorem filePut_frame (g : Group) (key : Nat) (v : Word) (b : Bool) :
    filePut g key v b = { g with s := (filePut g key v b).s, sp := (filePut g key v b).sp } := by
  unfold filePut
  split <;> rfl

/-- What a result of a region leaves of the group beside its paths, and what each path then holds. -/
theorem landUniform_spec (g : Group) (mask : LaneMask) {depth : Nat} (hdepth : depth ≠ 0) (key : Nat) (v : Word) (b : Bool) :
    let h := landUniform g mask depth key v b
    h.v = g.v ∧ h.p = g.p ∧ h.x = g.x ∧ h.inflight = g.inflight
      ∧ ((∀ p < 2, Holds g mask p → (pathAt g p).depth ≠ 0) → h.s = g.s ∧ h.sp = g.sp) := by
  refine ⟨?_, ?_, ?_, ?_, fun hin => ?_⟩
  case refine_5 =>
    obtain ⟨x, y, l, he⟩ := landUniform_pathsOnly g mask hdepth key v b hin
    rw [he]
    exact ⟨rfl, rfl⟩
  all_goals
    obtain ⟨k, ⟨x, y, l, rfl⟩, he | he⟩ := landUniform_cases g mask hdepth key v b <;> rw [he]
    rw [filePut_frame]

/-! ## The statement -/

/-- A result of one register that a path inside a region issued, landed: the clauses of the statement. -/
theorem lands_uniform (g : Group) (i : Nat) {r : Result} (hdepth : r.depth ≠ 0) {key : Nat} (hkey : key < 1024) (x : PWord) (b : PBit)
    (hw : r.writes = [.s key x] ∨ (key < 7 ∧ r.writes = [.sp key b])) :
    let h := landWrites (landed g i) r.mask r.depth r.writes
    let holds (p : Nat) : Prop := (pathAt g p).st ≠ .empty ∧ meets (pathAt g p).mask r.mask = true
    h.v = g.v ∧ h.p = g.p ∧ h.x = g.x ∧ h.inflight = g.inflight.eraseIdx i
        ∧ ((∀ p < 2, holds p → (pathAt g p).depth ≠ 0) → h.s = g.s ∧ h.sp = g.sp)
        ∧ ∀ p < 2,
          (holds p → (pathAt g p).depth ≠ 0 →
            (r.writes = [.s key x] → sreg h (pathAt h p) key = x) ∧ (r.writes = [.sp key b] → spreg h (pathAt h p) key = b))
          ∧ (holds p → ∀ n < 1024, n ≠ key ∨ r.writes ≠ [.s key x] → (∀ q < 2, holds q → (pathAt g q).depth ≠ 0) →
              sreg h (pathAt h p) n = sreg g (pathAt g p) n)
          ∧ (¬holds p → pathAt h p = pathAt g p) := by
  intro h holds
  have hput : ∃ k v po, h = landUniform (landed g i) r.mask r.depth k v po
      ∧ (∀ (pt : Path) (lv : Nat), r.writes = [.s key x] → sreg h { pt with shadow := shadowPut pt.shadow k lv v po } key = x)
      ∧ (∀ (pt : Path) (lv : Nat), r.writes = [.sp key b] → spreg h { pt with shadow := shadowPut pt.shadow k lv v po } key = b)
      ∧ ∀ n < 1024, n ≠ key ∨ r.writes ≠ [.s key x] → k ≠ n := by
    obtain hs | ⟨hlt, hsp⟩ := hw
    · refine ⟨key, x.val, x.poison, by simp only [h, hs]; rfl, fun _ _ _ => sreg_shadowPut _ _ _ _ _ _, fun _ _ hc => ?_, fun n _ hn => ?_⟩
      · simp [hs] at hc
      · exact (hn.resolve_right (by simp [hs])).symm
    · refine ⟨spKey key, _, b.poison, by simp only [h, hsp]; rfl, fun _ _ hc => ?_, fun _ _ _ => spreg_shadowPut _ _ hlt _ _, fun n hn _ => ?_⟩
      · simp [hsp] at hc
      · rw [spKey]
        omega
  obtain ⟨k, v, po, hh, hsreg, hspreg, hne⟩ := hput
  obtain ⟨hv, hp, hx, hin, hfile⟩ := landUniform_spec (landed g i) r.mask hdepth k v po
  have htakes {p : Nat} := pathAt_landUniform_holds (landed g i) r.mask hdepth k v po (p := p)
  have hstays {p : Nat} := pathAt_landUniform_not_holds (landed g i) r.mask hdepth k v po (p := p)
  rw [← hh] at hv hp hx hin hfile htakes hstays
  refine ⟨hv, hp, hx, hin, hfile, fun p hp2 => ⟨fun hold hd => ⟨fun hs => ?_, fun hsp => ?_⟩, fun hold n hn hnk hall => ?_, hstays⟩⟩
  · exact (congrArg (sreg h · key) (htakes hold hd)).trans (hsreg _ _ hs)
  · exact (congrArg (spreg h · key) (htakes hold hd)).trans (hspreg _ _ hsp)
  · exact (congrArg (sreg h · n) (htakes hold (hall p hp2 hold))).trans
      (sreg_shadowPut_ne (hfile hall).1 _ (hne n hn hnk) _ _ _)

/-- Settles O41: inside a region the result goes to the shadows of the paths that hold its lanes, at depth 0 to the file. -/
theorem resultLanding : Obligations.ResultLanding := by
  refine ⟨?region, ?file⟩
  case region =>
    intro s g r key x b hg hc hr hleft hdepth hkey
    refine ⟨_, _, exec_resultLand hg hr hleft, rfl, getGroup_putGroup _ _ _, landWrites_canonical _ _ _ hc, fun hw => ?_⟩
    exact lands_uniform g _ hdepth hkey x b hw
  case file =>
    intro s g r wr hg hc hr hleft hdepth hw
    refine ⟨_, _, exec_resultLand hg hr hleft, rfl, getGroup_putGroup _ _ _, landWrites_canonical _ _ _ hc, ?_⟩
    obtain ⟨hv, hs, hsp, hp, hx⟩ := hc
    rw [hw, hdepth]
    cases wr with
    | v d l x => exact ⟨rfl, tget_tput _ _ _ _ hv, fun k hk => tget_tput_ne _ _ _ _ _ hv hk, rfl, rfl, rfl, rfl⟩
    | s d x =>
      have hland : landWrites (landed g s.args.m) r.mask 0 [.s d x] = filePut (landed g s.args.m) d x.val x.poison := rfl
      rw [hland]
      refine ⟨?_, fun hd => ?_⟩
      · rw [filePut_frame]
        rfl
      · rw [filePut_uniform _ hd]
        exact ⟨tget_tput _ _ _ _ hs, fun k hk => tget_tput_ne _ _ _ _ _ hs hk, rfl, rfl, rfl, rfl⟩
    | sp d x =>
      have hland : landWrites (landed g s.args.m) r.mask 0 [.sp d x] = _ := filePut_spKey _ d x
      rw [hland]
      exact ⟨rfl, tget_tput _ _ _ _ hsp, fun k hk => tget_tput_ne _ _ _ _ _ hsp hk, rfl, rfl, rfl, rfl⟩
    | p d l x =>
      have hland : landWrites (landed g s.args.m) r.mask 0 [.p d l x] = _ := landWrite_p _ r.mask 0 d l x
      rw [hland]
      refine ⟨rfl, fun hl => ⟨?_, ?_, fun j hj => ?_, fun k hk => tget_tput_ne _ _ _ _ _ hp hk, rfl, rfl, rfl, rfl⟩⟩
      · exact (congrArg (PMask.val · |>.getLsbD l) (tget_tput _ _ _ _ hp)).trans ((getLsbD_setLane _ _ hl l).trans (if_pos rfl))
      · exact (congrArg (PMask.poison · |>.getLsbD l) (tget_tput _ _ _ _ hp)).trans ((getLsbD_setLane _ _ hl l).trans (if_pos rfl))
      · exact (congrArg (PMask.val · |>.getLsbD j) (tget_tput _ _ _ _ hp)).trans ((getLsbD_setLane _ _ hl j).trans (if_neg hj))
    | x d y => exact ⟨rfl, tget_tput _ _ _ _ hx, fun k hk => tget_tput_ne _ _ _ _ _ hx hk, rfl, rfl, rfl, rfl⟩

end Sys2Proof.Laws.ResultLanding
end

section
/-! SUPPORT. Two statements about commits that fail, each on a state that it admits and no run reaches: a delay window with more bundles left
than a branch opens, and a group table that lists one place twice (R65, R72, R160, R356). -/

namespace Sys2Proof.Laws.CommitRefutations

open Sys2Proof.Machine Sys2Proof.Safety Sys2Proof.Laws

/-! ## A CALL's window with four bundles left -/

/-- A CALL's window whose link to s8 and s9 is still whole, with four bundles left; `bits` tells the registers that it no longer writes. -/
def longWindow (left bits : Nat) : Window := { left := left, taken := true, target := 0x2000, link := some (8, bits) }

/-- A group whose path stands in that window. -/
def callingGroup : Group := { p0 := { st := .live, mask := 1, window := some (longWindow 4 0) } }

/-- The reset state with that group at place 0. -/
def callingState : State := { State.reset with groups := [(0, some callingGroup)] }

/-- A bundle of one word at place 0 with one effect. -/
def issueOf (e : Eff) : Issue :=
  { loc := 0, path := 0, baddr := 0, words := [], idx := 0, len := 1, above := 0, effs := [(0, e)], flags := 0, uses := [] }

/-- After the count the window looks like one that this bundle has opened, so the result of s8 takes s8 from its link. -/
theorem commit_cuts_link : (getGroup (commit callingState (issueOf (.result 2 [.s 8 {}]))) 0).map (fun h => h.p0.window)
    = some (some (longWindow 3 1)) := by decide

/-- Refutes O40: it says that an open window is counted and otherwise kept, and admits a window with four bundles left. Counted to three, it is
taken for the bundle's own, and a result that writes a register of its link marks the link (R65, R160). Windows open with three left, so a premise
`w.left ≤ 3` is missing. -/
theorem not_resultCommitFrame : ¬ Obligations.ResultCommitFrame := by
  intro hall
  obtain ⟨-, ⟨h, hget, -, -, -, -, -, -, hwindow, -⟩, -⟩ :=
    hall callingState (issueOf (.result 2 [.s 8 {}])) callingGroup (by decide) (by decide) (by simp [issueOf])
  have hkept : h.p0.window = some (longWindow 3 0) := hwindow
  have hcut := commit_cuts_link
  rw [show getGroup (commit callingState (issueOf (.result 2 [.s 8 {}]))) 0 = some h from hget, Option.map_some, hkept] at hcut
  exact absurd hcut (by decide)

/-! ## A place that the group table lists twice -/

/-- The only live group of a set, which has not arrived at its barrier. -/
def arrivingGroup : Group := { p0 := { st := .live, mask := 1 } }

/-- A second entry of the same place and set, which waits on the barrier's phase. -/
def hiddenGroup : Group := { p0 := { st := .live, mask := 1, waits := [.bar 0] } }

/-- The set's record: a barrier in phase 0 that only position 0 has to reach. -/
def lonelySet : SetRec := ⟨0, 0, 0, 0, [], 0, true, 1, 0, 0, 16⟩

/-- The reset state with both entries under place 0. -/
def twiceListed : State := { State.reset with groups := [(0, some arrivingGroup), (0, some hiddenGroup)], sets := [lonelySet] }

/-- The arrival completes the phase, whose release goes by the table's entries and writes the hidden one over the arriving group. -/
theorem commit_overwrites_arrival : (getGroup (commit twiceListed (issueOf .barArrive)) 0).map (·.arr) = some false := by decide

/-- Refutes O38: its clause on BAR gives the arriving group `arr`, and admits a group table that lists the group's place twice. The release of the
completed phase then takes the second entry, which waits, for the group of that place and puts it there with `arr` clear (R356). A premise
`tblWf none s.groups` is missing. -/
theorem not_trapReturn : ¬ Obligations.TrapReturn := by
  intro hall
  obtain ⟨-, -, -, -, -, -, -, -, -, hbar, -⟩ :=
    hall twiceListed (issueOf .barArrive) arrivingGroup 0 (by decide) (by decide) (by decide)
  obtain ⟨h, hget, -, harr, -⟩ := hbar rfl rfl rfl lonelySet (by decide) rfl (by decide)
  have hclear := commit_overwrites_arrival
  rw [show getGroup (commit twiceListed (issueOf .barArrive)) 0 = some h from hget, Option.map_some, harr] at hclear
  exact absurd hclear (by decide)

end Sys2Proof.Laws.CommitRefutations
end

section
/-! SUPPORT. What reset leaves: no object, and memory whose every byte reads 0 (R85, R95, R496, R499). -/

namespace Sys2Proof.Laws.Reset

open Sys2Proof.Machine Sys2Proof.Laws

/-- The empty memory reads as zeros. -/
theorem mread_nil (a n : Nat) : mread [] a n = List.replicate n 0 := by
  induction n generalizing a with
  | zero => rfl
  | succ n ih => rw [mread, ih, List.replicate_succ]; rfl

/-- No context is listed, so each reads as the default, which is free. -/
theorem getCtx_reset (c : Nat) : getCtx State.reset c = {} := rfl

/-- No queue is listed, so each reads as the default, which is unbound. -/
theorem getQueue_reset (q : Nat) : getQueue State.reset q = {} := rfl

/-- Settles O52: every table of the reset state is empty, and an unlisted entry reads as its default. -/
theorem resetState : Obligations.ResetState := by
  unfold Obligations.ResetState
  refine ⟨rfl, rfl, rfl, rfl, rfl, rfl, rfl, rfl, rfl, rfl, rfl, rfl, wf_nil, wf_nil, wf_nil, fun c => ?_, fun q => ?_, fun a n => mread_nil a n⟩
  · rw [getCtx_reset]; exact ⟨rfl, rfl⟩
  · rw [getQueue_reset]; exact ⟨rfl, rfl⟩

end Sys2Proof.Laws.Reset
end

section
/-! SUPPORT. The statement on the commands of contexts fails on a state that it admits and no run reaches: a table of heads that lists one number
twice, so that DESTROY of one context stops the head of another (R429, R439). -/

namespace Sys2Proof.Laws.ContextRefutation

open Sys2Proof.Machine Sys2Proof.Laws

/-- An active head of context 0, with a head-event queue at address 0. -/
def activeHead : Head := { st := .active }

/-- An idle head of context 1. -/
def idleHead : Head := { desc := [1 <<< 44] }

/-- The reset state with context 1 resident and both heads listed under number 0; the move names context 1. -/
def headTwiceListed : State :=
  { State.reset with args := { n := 1 }, ctxs := [(1, { st := .resident })], heads := [(0, activeHead), (0, idleHead)] }

/-- No listed head of context 1 holds its output. -/
theorem context_heads_idle : ∀ e ∈ headTwiceListed.heads, headCtx e.2 = 1 → headHolds e.2 = false := by decide

/-- DESTROY of context 1 looks up head 0, finds the active one and posts its STOPPED event, whose first byte is 6. -/
theorem ctxDestroy_posts_event : mget (ctxDestroy headTwiceListed 1).mem 0 = 6 := by decide

/-- Refutes O56: its clause on DESTROY of a resident context none of whose heads holds its output keeps memory as it is, and admits a head table
that lists one number twice. The entry of the context is then hidden by an active head of another one, which DESTROY stops, with an event in
memory (R429, R439). A premise `tblWf {} s.heads` is missing. -/
theorem not_contextCommands : ¬ Obligations.ContextCommands := by
  intro hall
  obtain ⟨-, hidle, -⟩ := hall headTwiceListed
  obtain ⟨-, -, -, -, -, -, -, hdestroy, -⟩ := hidle rfl
  obtain ⟨t, hnext, -, -, hmem⟩ := hdestroy rfl context_heads_idle
  have ht : t = ctxDestroy headTwiceListed 1 := (Host.Outcome.next.inj hnext).symm
  have hevent := ctxDestroy_posts_event
  rw [← ht, hmem] at hevent
  exact absurd hevent (by decide)

end Sys2Proof.Laws.ContextRefutation
end

section
/-! SUPPORT. QPUT, RRES, RCOMMIT, LFILL and RNGSEED: what each answers where its guard is 1, and the statement O31 (R114-R116, R164, R197). -/

namespace Sys2Proof.Laws.QueueAndRecordSlots

open Sys2Proof.Machine Sys2Proof.Safety Sys2Proof.Laws

/-! ## The operand of RRES and RCOMMIT (R115, R116) -/

section
variable {q : Taken}

/-- The operand of RRES and RCOMMIT: a record queue, ten bits; six bits that are 0; a count of 1 to 4,096. -/
theorem rqOperand_eq (x : Word) : rqOperand q.sc x =
    if x.toNat / 1024 % 64 ≠ 0 ∨ x.toNat / 65536 = 0 ∨ x.toNat / 65536 > 4096 then none
    else (tget none (getCtx q.s q.g.ctx).rqs (x.toNat % 1024)).map fun _ => (x.toNat % 1024, x.toNat / 65536) := by
  have hrq : fld x.toNat 9 0 = x.toNat % 1024 := rfl
  have hmid : fld x.toNat 15 10 = x.toNat / 1024 % 64 := ModuleEvents.fld_eq_div x.toNat 15 10
  have hn : fld x.toNat 31 16 = x.toNat / 65536 :=
    (ModuleEvents.fld_eq_div x.toNat 31 16).trans (Nat.mod_eq_of_lt (Nat.div_lt_of_lt_mul x.isLt))
  simp only [rqOperand, hrq, hmid, hn, Bool.or_eq_true, bne_iff_ne, beq_iff_eq, decide_eq_true_eq, or_assoc]
  refine if_congr Iff.rfl rfl ?_
  generalize hr : tget none (getCtx q.sc.s q.sc.g.ctx).rqs (x.toNat % 1024) = r
  rw [show tget none (getCtx q.s q.g.ctx).rqs (x.toNat % 1024) = r from hr]
  cases r <;> rfl

theorem rqOperand_illegal (x : Word) (h : x.toNat / 1024 % 64 ≠ 0 ∨ x.toNat / 65536 = 0 ∨ x.toNat / 65536 > 4096
    ∨ tget none (getCtx q.s q.g.ctx).rqs (x.toNat % 1024) = none) : rqOperand q.sc x = none := by
  rw [rqOperand_eq]
  split
  · rfl
  · next hlegal =>
    have hnone : tget none (getCtx q.s q.g.ctx).rqs (x.toNat % 1024) = none := by tauto
    rw [hnone, Option.map_none]

theorem rqOperand_legal (x : Word) (hz : x.toNat / 1024 % 64 = 0) (hlo : 1 ≤ x.toNat / 65536) (hhi : x.toNat / 65536 ≤ 4096)
    (hrq : tget none (getCtx q.s q.g.ctx).rqs (x.toNat % 1024) ≠ none) :
    rqOperand q.sc x = some (x.toNat % 1024, x.toNat / 65536) := by
  obtain ⟨r, hr⟩ := Option.ne_none_iff_exists'.mp hrq
  rw [rqOperand_eq, if_neg (by omega), hr, Option.map_some]

end

/-- The lanes that the slot's modifier selects: those of its predicate register, or all (R197). -/
def selected (q : Taken) : PMask := if q.sc.mod.cv then preg q.g q.sc.mod.creg.toNat else ⟨0xFFFF, 0⟩

section
variable {q : Taken} (ho : q.on)
include ho

/-- Where the guard is 1, a slot that consumes a poisoned guard answers what its meaning does (R76). -/
theorem consuming_on (m : Meaning) : consuming m q.sc = m q.sc := by
  have hg : scalarGuard q.sc = ⟨true, false⟩ := ho
  simp only [consuming, hg, Bool.false_eq_true, if_false, if_true]

/-! ## QPUT (R114) -/

theorem yQput_illegal (h : q.a > 48 ∨ (q.s32 q.b).val.toNat ≥ 65536) : yQput q.sc = (q.s, trapOf 2) := by
  have hbad : (decide ((q.s32 q.b).val.toNat ≥ 65536) || decide (q.a > 48)) = true := by simpa using h.symm
  rw [yQput, consuming_on ho]
  exact congrArg (q.s, ·) (if_pos hbad)

/-- A QPUT with a legal register run and queue number and no poison waits while accesses of its group are pending (log 33). -/
theorem yQput_legal (ha : q.a ≤ 48) (hq : (q.s32 q.b).val.toNat < 65536) (hqp : (q.s32 q.b).poison = false)
    (hwords : ∀ j < 16, (q.s32 (q.a + j)).poison = false) :
    yQput q.sc = (q.s, if groupBusy q.g then .hold
      else .ok [.qput q.d (q.s32 q.b).val.toNat ((List.range 16).map fun j => (q.s32 (q.a + j)).val)] 0 []) := by
  have hok : ¬(decide ((q.s32 q.b).val.toNat ≥ 65536) || decide (q.a > 48)) = true := by simp; omega
  have hclean : ¬((q.s32 q.b).poison || (uWords q.sc 16).any (·.poison)) = true := by
    simp only [hqp, Bool.false_or, Bool.not_eq_true, List.any_eq_false, uWords, List.mem_map, List.mem_range]
    rintro _ ⟨j, hj, rfl⟩
    exact hwords j hj
  have hvals : (uWords q.sc 16).map (·.val) = (List.range 16).map fun j => (q.s32 (q.a + j)).val := List.map_map
  rw [yQput, consuming_on ho, ← hvals]
  exact congrArg (q.s, ·) ((if_neg hok).trans (if_neg hclean))

/-! ## RRES and RCOMMIT (R115, R116) -/

theorem yRres_illegal (h : rqOperand q.sc (q.s32 q.a).val = none) : yRres q.sc = (q.s, trapOf 2) := by
  have h' : rqOperand q.sc (sreg q.sc.g q.sc.pt q.sc.a).val = none := h
  rw [yRres, consuming_on ho]
  simp only [pureM, h']
  rfl

theorem yRres_legal {rq n : Nat} (h : rqOperand q.sc (q.s32 q.a).val = some (rq, n)) (hp : (q.s32 q.a).poison = false) :
    yRres q.sc = (q.s, .ok [.rres q.d q.b rq n] 0 []) := by
  have h' : rqOperand q.sc (sreg q.sc.g q.sc.pt q.sc.a).val = some (rq, n) := h
  have hp' : (sreg q.sc.g q.sc.pt q.sc.a).poison = false := hp
  rw [yRres, consuming_on ho]
  simp only [pureM, h', hp']
  rfl

theorem yRcommit_illegal (h : rqOperand q.sc (q.s32 q.a).val = none) : yRcommit q.sc = (q.s, trapOf 2) := by
  have h' : rqOperand q.sc (sreg q.sc.g q.sc.pt q.sc.a).val = none := h
  rw [yRcommit, consuming_on ho]
  simp only [pureM, h']
  rfl

/-- A legal RCOMMIT of clean operands waits while accesses of its group are pending (log 33). -/
theorem yRcommit_legal {rq n : Nat} (h : rqOperand q.sc (q.s32 q.a).val = some (rq, n)) (hap : (q.s32 q.a).poison = false)
    (hbp : (q.s32 q.b).poison = false) :
    yRcommit q.sc = (q.s, if groupBusy q.g then .hold else .ok [.rcommit rq n (q.s32 q.b).val] 0 []) := by
  have h' : rqOperand q.sc (sreg q.sc.g q.sc.pt q.sc.a).val = some (rq, n) := h
  have hap' : (sreg q.sc.g q.sc.pt q.sc.a).poison = false := hap
  have hbp' : (sreg q.sc.g q.sc.pt q.sc.b).poison = false := hbp
  rw [yRcommit, consuming_on ho]
  simp only [pureM, h', hap', hbp']
  rfl

/-! ## LFILL (R164) and RNGSEED (R197) -/

theorem bLfill_legal {r : RecQueue} (hr : tget none (getCtx q.s q.g.ctx).rqs (q.s32 q.b).val.toNat = some r)
    (hrq : (q.s32 q.b).val.toNat < 1024) (hcons : r.cons = 0) (hbp : (q.s32 q.b).poison = false)
    (hpp : q.path.mask &&& (preg q.g q.a).poison = 0) :
    bLfill q.sc = (q.s, .ok [.lfill q.d q.a (q.s32 q.b).val.toNat] 0 []) := by
  have hr' : tget none (getCtx q.sc.s q.sc.g.ctx).rqs (sreg q.sc.g q.sc.pt q.sc.b).val.toNat = some r := hr
  have hrq' : ¬(sreg q.sc.g q.sc.pt q.sc.b).val.toNat ≥ 1024 := Nat.not_le.mpr hrq
  have hbp' : (sreg q.sc.g q.sc.pt q.sc.b).poison = false := hbp
  have hpp' : predPoison q.sc q.sc.a = 0 := hpp
  rw [bLfill, consuming_on ho]
  simp only [pureM, hrq', hr', hcons, hbp', hpp']
  rfl

theorem yRngseed_seeds (hbp : (q.s32 q.b).poison = false) (hsel : q.path.mask &&& (selected q).poison = 0)
    (hids : ∀ l ∈ lanesOf (q.path.mask &&& (selected q).val), (vpair q.g q.a l).2 = false) :
    yRngseed q.sc = (q.s, .ok [.seed (q.path.mask &&& (selected q).val) (q.s32 q.b).val
      ((lanesOf (q.path.mask &&& (selected q).val)).map fun l => BitVec.ofNat 64 (vpair q.g q.a l).1)] 0 []) := by
  have hclean : ¬((q.s32 q.b).poison || q.path.mask &&& (selected q).poison != 0
      || (lanesOf (q.path.mask &&& (selected q).val)).any fun l => (vpair q.g q.a l).2) = true := by
    simpa [hbp, hsel] using hids
  rw [yRngseed, consuming_on ho]
  exact congrArg (q.s, ·) (if_neg hclean)

end

/-- Settles O31: the answers of the five forms, each legal, illegal or waiting. -/
theorem queueAndRecordSlots : Obligations.QueueAndRecordSlots := by
  intro q ho a rq n
  have idle (h : q.g.macc = []) : groupBusy q.g = false := by simp [groupBusy, h]
  have busy (h : q.g.macc ≠ []) : groupBusy q.g = true := by simpa [groupBusy] using h
  refine ⟨fun h hb hw => ⟨fun ha hq hm => ?_, fun ha hq hm => ?_, fun hbad => ?_⟩, fun ha hz hlo hhi hrq => ?_, fun hbad => ?_,
    fun h r hr hrq hcons hbp hpp => ?_, fun h => ?_⟩
  · exact gives_of_ok h rfl (exec_qput q.w q.s) (by rw [yQput_legal ho ha hq hb hw, idle hm]; rfl)
  · exact holds_of_hold h rfl (exec_qput q.w q.s) (by rw [yQput_legal ho ha hq hb hw, busy hm]; rfl)
  · exact traps_of_trap h rfl (exec_qput q.w q.s) (yQput_illegal ho hbad)
  · have hop := rqOperand_legal (q.s32 q.a).val hz hlo hhi hrq
    refine ⟨fun h => gives_of_ok h rfl (exec_rres q.w q.s) (yRres_legal ho hop ha), fun h hb => ⟨fun hm => ?_, fun hm => ?_⟩⟩
    · exact gives_of_ok h rfl (exec_rcommit q.w q.s) (by rw [yRcommit_legal ho hop ha hb, idle hm]; rfl)
    · exact holds_of_hold h rfl (exec_rcommit q.w q.s) (by rw [yRcommit_legal ho hop ha hb, busy hm]; rfl)
  · have hop := rqOperand_illegal (q.s32 q.a).val hbad
    exact ⟨fun h => traps_of_trap h rfl (exec_rres q.w q.s) (yRres_illegal ho hop),
      fun h => traps_of_trap h rfl (exec_rcommit q.w q.s) (yRcommit_illegal ho hop)⟩
  · exact gives_of_ok h rfl (exec_lfill q.w q.s) (bLfill_legal ho hr hrq hcons hbp hpp)
  · intro _ _ hbp hsel hids
    exact gives_of_ok h rfl (exec_rngseed q.w q.s) (yRngseed_seeds ho hbp hsel hids)

end Sys2Proof.Laws.QueueAndRecordSlots
end

section
/-! SUPPORT. What a translation changes: page-table entries in memory and cached entries, and nothing else (R370-R373). -/

namespace Sys2Proof.Laws

open Sys2Proof.Machine

/-- The states that a translation may lead to: memory, for the bits of a leaf, and the cached entries are what it writes (R370, R371). -/
def Translated (s t : State) : Prop := ∃ mem tlb, t = { s with mem := mem, tlb := tlb }

namespace Translated

theorem refl (s : State) : Translated s s := ⟨_, _, rfl⟩

theorem trans {s t u : State} (a : Translated s t) (b : Translated t u) : Translated s u := by
  obtain ⟨_, _, rfl⟩ := a
  obtain ⟨_, _, rfl⟩ := b
  exact ⟨_, _, rfl⟩

theorem queues {s t : State} (h : Translated s t) : t.queues = s.queues := by
  obtain ⟨_, _, rfl⟩ := h
  rfl

end Translated

theorem dropTables_translated (s : State) (u : TUnit) (asn va : Nat) : Translated s (dropTables s u asn va) := by
  unfold dropTables
  split
  · exact .refl s
  · exact ⟨_, _, rfl⟩

theorem keepTables_translated (s : State) (u : TUnit) (asn va : Nat) (l : List (Nat × Nat × Nat)) :
    Translated s (keepTables s u asn va l) := by
  unfold keepTables
  split
  · exact .refl s
  · exact ⟨_, _, rfl⟩

theorem cacheLeaf_translated (s : State) (u : TUnit) (asn va : Nat) (leaf : Leaf) (n : Need) :
    Translated s (cacheLeaf s u asn va leaf n) := by
  unfold cacheLeaf
  dsimp only
  split <;> exact ⟨_, _, rfl⟩

theorem walkFrom_translated (s : State) (u : TUnit) (asn fuel table va : Nat) (n : Need) :
    Translated s (walkFrom s u asn fuel table va n).1 := by
  fun_cases walkFrom s u asn fuel table va n
  case case5 => exact (keepTables_translated _ _ _ _ _).trans (cacheLeaf_translated _ _ _ _ _ _)
  all_goals exact .refl s

theorem walkAnew_translated (s : State) (u : TUnit) (asn root va : Nat) (n : Need) :
    Translated s (walkAnew s u asn root va n).1 :=
  have hdropped : Translated s (tlbDrop s u asn va) := ⟨_, _, rfl⟩
  (hdropped.trans (dropTables_translated _ _ _ _)).trans (walkFrom_translated _ _ _ _ _ _ _)

theorem walkFresh_translated (s : State) (u : TUnit) (asn root va : Nat) (n : Need) :
    Translated s (walkFresh s u asn root va n).1 := by
  have hwalk (fuel table : Nat) {t : State} {r : XRes} (h : walkFrom s u asn fuel table va n = (t, r)) : Translated s t := by
    have hfrom := walkFrom_translated s u asn fuel table va n
    rwa [h] at hfrom
  fun_cases walkFresh s u asn root va n
  case case1 => exact walkFrom_translated _ _ _ _ _ _ _
  case case2 fuel table _ _ _ h => exact hwalk fuel table h
  case case3 fuel table _ _ h => exact hwalk fuel table h
  case case4 fuel table _ _ _ _ h => exact (hwalk fuel table h).trans (walkAnew_translated _ _ _ _ _ _)

theorem reReadLeaf_translated (s : State) (u : TUnit) (asn root va : Nat) (n : Need) (c : TlbEntry) :
    Translated s (reReadLeaf s u asn root va n c).1 := by
  fun_cases reReadLeaf s u asn root va n c
  · exact .refl s
  · exact cacheLeaf_translated _ _ _ _ _ _
  · exact walkAnew_translated _ _ _ _ _ _

theorem translate_translated (s : State) (u : TUnit) (c va : Nat) (n : Need) :
    Translated s (Machine.translate s u c va n).1 := by
  fun_cases Machine.translate s u c va n
  · exact .refl s
  · exact walkFresh_translated _ _ _ _ _ _
  · exact walkAnew_translated _ _ _ _ _ _
  · exact reReadLeaf_translated _ _ _ _ _ _ _
  · exact .refl s

theorem translateNow_translated (s : State) (u : TUnit) (c va : Nat) (n : Need) : Translated s (translateNow s u c va n).1 := by
  have h := translate_translated s u c va n
  unfold translateNow
  split
  · next hres => rwa [hres] at h
  · exact h

end Sys2Proof.Laws
end

section
/-! SUPPORT. The commands of queues, the doorbell and CANCEL: one equation for each function of the model and each case of it, and the
statement O57 that is assembled from them (R95-R99, R130). -/

namespace Sys2Proof.Laws

open Sys2Proof.Machine

/-! ## The table of queues -/

/-- A queue that is not unbound differs from what an unlisted one reads as (R95). -/
theorem queue_ne_default {x : Queue} (h : x.st ≠ .unbound) : x ≠ {} := fun hx => h (congrArg Queue.st hx)

/-- A queue that differs from an unlisted one reads as it was put, whatever the table. -/
theorem getQueue_putQueue_some (s : State) (q : Nat) {x : Queue} (h : x ≠ {}) : getQueue (putQueue s q x) q = x :=
  tget_tput_some ({} : Queue) s.queues q x h

/-- A queue that is left bound reads as it was changed, whatever the table. -/
theorem getQueue_modQueue_bound {s : State} {q : Nat} {f : Queue → Queue} (h : (f (getQueue s q)).st ≠ .unbound) :
    getQueue (modQueue s q f) q = f (getQueue s q) :=
  getQueue_putQueue_some s q (queue_ne_default h)

end Sys2Proof.Laws

namespace Sys2Proof.Laws.QueueCommands

open Sys2Proof.Machine Sys2Proof.Laws

/-! ## What the commands run -/

section
variable (s : State)

theorem exec_queueBind : exec .queueBind s = .next (qctlCommand s (argQueue s) s.args.v queueBind) := by rfl
theorem exec_queueUnbind : exec .queueUnbind s = .next (qctlCommand s (argQueue s) s.args.v queueUnbind) := by rfl
theorem exec_queueSuspend : exec .queueSuspend s = .next (qctlCommand s (argQueue s) s.args.v queueSuspend) := by rfl
theorem exec_queueResume : exec .queueResume s = .next (qctlCommand s (argQueue s) s.args.v queueResume) := by rfl
theorem exec_queueReset : exec .queueReset s = .next (qctlCommand s (argQueue s) s.args.v queueReset) := by rfl
theorem exec_qdoorWrite : exec .qdoorWrite s = .next (doorbell s (argQueue s) (argLaunch s)) := by rfl
theorem exec_qfaultRead : exec .qfaultRead s = .next (qfaultRead s (argQueue s)) := by rfl
theorem exec_kernelCancel : exec .kernelCancel s = .next (cancelKernel s (argCtx s) (argLaunch s)) := by rfl

end

/-! ## The frame of a command (R96) -/

section
variable {s : State} {q : Nat} {v : DWord} {f : State → Nat → State}

/-- A command that leaves the queue without an error stands as it acted. -/
theorem qctlCommand_acts {t : State} (hf : f (qctlWrite s q v) q = t) (herr : (getQueue t q).err = 0) : qctlCommand s q v f = t := by
  simp only [qctlCommand, hf, herr, if_true]

/-- A command that fails changes nothing but ERR. -/
theorem qctlCommand_fails {n : Nat} (hf : f (qctlWrite s q v) q = queueErr (qctlWrite s q v) q n) (hn : n ≠ 0) :
    qctlCommand s q v f = putQueue s q { getQueue s q with err := n } := by
  have hread : (getQueue (queueErr (qctlWrite s q v) q n) q).err = n :=
    congrArg Queue.err (getQueue_putQueue_some _ q fun h => hn (congrArg Queue.err h))
  simp only [qctlCommand, hf, hread, hn, if_false]
  rfl

end

theorem noteRunnable_queues (s : State) (q : Nat) : (noteRunnable s q).queues = s.queues := by
  unfold noteRunnable
  dsimp only
  split <;> rfl

/-- What makes a created context runnable leaves the queue as it was put. -/
theorem getQueue_noteRunnable_putQueue (s : State) (q : Nat) {x : Queue} (h : x.st ≠ .unbound) :
    getQueue (noteRunnable (putQueue s q x) q) q = x := by
  rw [getQueue, noteRunnable_queues]
  exact getQueue_putQueue_some s q (queue_ne_default h)

/-! ## The commands (R96, R99) -/

section
variable {s : State} {q : Nat}

/-- The queue that BIND leaves: idle and empty, with the fields of its registers (R96). -/
def boundQueue (x : Queue) : Queue :=
  { noWork x with
    st := .idle, err := 0, head := 0, tail := 0, base := x.qbase.toNat / 4096 % 2 ^ 40 * 4096, log := x.qbase.toNat % 32
    ctx := x.qctl.toNat / 2 ^ 20 % 4096, dev := x.qctl.getLsbD 19, prio := x.qctl.toNat / 4096 % 8, ind := none
    birthing := none, capture := none, faultAtHead := false }

/-- BIND and the order of its checks (notes/assumptions/18.md). -/
theorem queueBind_eq (s : State) (q : Nat) : queueBind s q =
    let x := getQueue s q
    let y := getCtx s (x.qctl.toNat / 2 ^ 20 % 4096)
    if x.st ≠ .unbound ∧ x.st ≠ .drained then queueErr s q 1
    else if y.st = .free ∨ y.st = .destroyed then queueErr s q 3
    else if x.qctl.toNat / 4096 % 8 > y.priomax then queueErr s q 2
    else if x.qbase.toNat % 32 < 4 ∨ x.qbase.toNat % 32 > 20 then queueErr s q 4
    else putQueue (dropBatches s x.ctx q fun _ => true) q (boundQueue x) := by
  have hctx (x : Nat) : fld x 31 20 = x / 2 ^ 20 % 4096 := ModuleEvents.fld_eq_div x 31 20
  have hprio (x : Nat) : fld x 14 12 = x / 4096 % 8 := ModuleEvents.fld_eq_div x 14 12
  have hbase (x : Nat) : fld x 51 12 = x / 4096 % 2 ^ 40 := ModuleEvents.fld_eq_div x 51 12
  have hlog (x : Nat) : fld x 4 0 = x % 32 := rfl
  simp only [queueBind, hctx, hprio, hbase, hlog, Bool.and_eq_true, bne_iff_ne, Bool.or_eq_true, decide_eq_true_eq]
  rfl

theorem queueUnbind_unbinds (h : (getQueue s q).st = .idle ∨ (getQueue s q).st = .runnable ∨ (getQueue s q).st = .blocked) :
    queueUnbind s q = putQueue s q { noWork (getQueue s q) with
      st := if (getQueue s q).out = 0 then .unbound else .drained, err := 0 } := by
  rcases h with h | h | h <;> simp only [queueUnbind, h]

theorem queueSuspend_suspends (h : (getQueue s q).st = .idle ∨ (getQueue s q).st = .runnable ∨ (getQueue s q).st = .blocked) :
    queueSuspend s q = putQueue s q { getQueue s q with
      st := .suspended, left := (getQueue s q).st, bySoftware := true, err := 0 } := by
  rcases h with h | h | h <;> simp only [queueSuspend, h]

theorem queueResume_badState (h : (getQueue s q).st ≠ .suspended) : queueResume s q = queueErr s q 1 := by
  simp [queueResume, h]

theorem queueResume_resumes (h : (getQueue s q).st = .suspended) (hserved : ctxServed s (getQueue s q).ctx = true) :
    queueResume s q = noteRunnable (putQueue s q { getQueue s q with st := (getQueue s q).left, bySoftware := false, err := 0 }) q := by
  simp [queueResume, h, hserved]

theorem queueReset_badState (h : (getQueue s q).st ≠ .faulted) : queueReset s q = queueErr s q 1 := by
  simp [queueReset, h]

/-- RESET of a queue that faulted at its packet in HEAD passes over the packet (R99). -/
theorem queueReset_skips (h : (getQueue s q).st = .faulted) (hbirth : (getQueue s q).birthing = none)
    (hhead : (getQueue s q).faultAtHead = true) :
    queueReset s q = noteRunnable (putQueue (dropBatches s (getQueue s q).ctx q fun i => i == (getQueue s q).head.toNat) q
      { getQueue s q with
        head := (getQueue s q).head + 1, ind := none
        st := if (getQueue s q).head + 1 = (getQueue s q).tail then .idle else .runnable, err := 0, faultAtHead := false }) q := by
  simp [queueReset, h, hbirth, hhead, ringState]

end

/-! ## The doorbell (R97) -/

section
variable {s : State} {q : Nat} {tail : Word}

theorem doorbell_ignored (h : (getQueue s q).dev = true ∨ (getQueue s q).st = .unbound ∨ (getQueue s q).st = .drained) :
    doorbell s q tail = s := by
  have hskip : ((getQueue s q).dev || decide ((getQueue s q).st = .unbound) || decide ((getQueue s q).st = .drained)
      || decide (tail = (getQueue s q).tail)) = true := by
    rcases h with h | h | h <;> simp [h]
  exact if_pos hskip

section
variable (hdev : (getQueue s q).dev = false) (hbound : (getQueue s q).st ≠ .unbound) (hdrained : (getQueue s q).st ≠ .drained)
  (hmoves : tail ≠ (getQueue s q).tail)
include hdev hbound hdrained hmoves

/-- A new tail is taken where it passes neither the ring's size nor its room, and faults the queue elsewhere. -/
theorem doorbell_eq : doorbell s q tail =
    if (tail - (getQueue s q).tail).toNat ≤ 2 ^ (getQueue s q).log ∧ (tail - (getQueue s q).head).toNat ≤ 2 ^ (getQueue s q).log then
      advanceTail s q (tail - (getQueue s q).tail).toNat
    else queueFault s q 4 tail.toNat 0 0 := by
  simp [doorbell, hdev, hbound, hdrained, hmoves, -BitVec.toNat_sub]

end
end

/-! ## CANCEL (R130) -/

section
variable {s : State} {c : Nat} {launch : Word}

theorem cancelKernel_busy (h : (getCtx s c).kbusy = true) : cancelKernel s c launch = putCtx s c { getCtx s c with kerr := 2 } :=
  if_pos h

theorem cancelKernel_noKernel (h : (getCtx s c).kbusy = false) (hk : getKernel s c launch = none) :
    cancelKernel s c launch = putCtx s c { getCtx s c with kerr := 1 } := by
  simp [cancelKernel, h, hk]

/-- CANCEL of a live kernel of which no queue is still to give birth. -/
theorem cancelKernel_cancels {k : Kernel} (h : (getCtx s c).kbusy = false) (hk : getKernel s c launch = some k)
    (hlive : k.st = .admitted ∨ k.st = .dispatching ∨ k.st = .running ∨ k.st = .draining)
    (hbirth : (getQueue s k.queue).birthing ≠ some launch) :
    cancelKernel s c launch = residentCheck (kernelCheck (discardKernel
      (modKernel (putCtx s c { getCtx s c with kerr := 0, kbusy := true, kcancel := launch }) c launch
        fun y => { y with st := .cancelling, reserved := [], live := residentOf s c launch }) c launch 9) c launch) c := by
  have hk' (x : Context) : getKernel (putCtx s c x) c launch = some k := hk
  have hbirth' (x : Context) (f : Kernel → Kernel) :
      (getQueue (modKernel (putCtx s c x) c launch f) k.queue).birthing ≠ some launch := hbirth
  rcases hlive with hst | hst | hst | hst <;>
    simp only [cancelKernel, h, hk, hst, hk', hbirth', Bool.false_eq_true, Bool.not_true, if_false, Option.map_some,
      Option.getD_some] <;> rfl

end

/-- Settles O57: each command in the states that admit it, the doorbell, QFAULT, and CANCEL. -/
theorem queueCommands : Obligations.QueueCommands := by
  intro s q s1 z old tail base log c prio failed
  have fails {i : Instr} {f : State → Nat → State} {n : Nat} (hi : exec i s = .next (qctlCommand s (argQueue s) s.args.v f))
      (hf : f s1 q = queueErr s1 q n) (hn : n ≠ 0) : failed i n :=
    hi.trans (congrArg Host.Outcome.next (qctlCommand_fails hf hn))
  have acts {i : Instr} {f : State → Nat → State} {t : State} (hi : exec i s = .next (qctlCommand s (argQueue s) s.args.v f))
      (hf : f s1 q = t) (herr : (getQueue t q).err = 0) : exec i s = .next t :=
    hi.trans (congrArg Host.Outcome.next (qctlCommand_acts hf herr))
  refine ⟨fun hst => ?_, fun hst => ?_, fun hst hleft hserved => ?_, fun hst hbirth hhead => ?_,
    fun hdev hbound hdrained hmoves => ⟨fun hpast hroom => ?_, fun hover => ?_⟩, fun hno => ?_, exec_qfaultRead s,
    fun hbusy => ?_, fun hbusy hk => ?_, fun kn hbusy hk hlive hbirth => ?_⟩
  · have hopen : ¬(z.st ≠ .unbound ∧ z.st ≠ .drained) := by tauto
    have checked : queueBind s1 q = _ := (queueBind_eq s1 q).trans (if_neg hopen)
    refine ⟨fun hfree hdest hprio hlo hhi => acts (exec_queueBind s) (checked.trans ?_) ?_,
      fun hctx => fails (exec_queueBind s) (checked.trans (if_pos hctx)) (by decide),
      fun hfree hdest => ⟨fun hprio hlo hhi => fails (exec_queueBind s) (checked.trans ?_) (by decide),
        fun hprio hlog => fails (exec_queueBind s) (checked.trans ?_) (by decide)⟩⟩
    · exact (if_neg (not_or.mpr ⟨hfree, hdest⟩)).trans ((if_neg (Nat.not_lt.mpr hprio)).trans
        (if_neg (not_or.mpr ⟨Nat.not_lt.mpr hlo, Nat.not_lt.mpr hhi⟩)))
    · exact congrArg Queue.err (getQueue_putQueue_some _ q (queue_ne_default (x := boundQueue z) (by simp [boundQueue])))
    · exact (if_neg (not_or.mpr ⟨hfree, hdest⟩)).trans (if_pos hprio)
    · exact (if_neg (not_or.mpr ⟨hfree, hdest⟩)).trans ((if_neg (Nat.not_lt.mpr hprio)).trans (if_pos hlog))
  · have hbusy : z.st ≠ .suspended ∧ z.st ≠ .faulted ∧ z.st ≠ .unbound ∧ z.st ≠ .drained := by
      rcases hst with h | h | h <;> simp [h]
    obtain ⟨hsusp, hfault, hunbound, hdrained⟩ := hbusy
    refine ⟨fun hlog => acts (exec_queueUnbind s) (queueUnbind_unbinds hst) ?_,
      acts (exec_queueSuspend s) (queueSuspend_suspends hst) ?_, ?_⟩
    · exact congrArg Queue.err (getQueue_putQueue_some s1 q
        (x := { noWork z with st := if z.out = 0 then .unbound else .drained, err := 0 }) fun h => hlog (congrArg Queue.log h))
    · exact congrArg Queue.err (getQueue_putQueue_some _ q (queue_ne_default (by simp)))
    · simp only [List.forall_mem_cons]
      exact ⟨fails (exec_queueBind s) ((queueBind_eq s1 q).trans (if_pos ⟨hunbound, hdrained⟩)) (by decide),
        fails (exec_queueResume s) (queueResume_badState hsusp) (by decide),
        fails (exec_queueReset s) (queueReset_badState hfault) (by decide), by simp⟩
  · exact acts (exec_queueResume s) (queueResume_resumes hst hserved)
      (congrArg Queue.err (getQueue_noteRunnable_putQueue s1 q (x := { z with st := z.left, bySoftware := false, err := 0 }) hleft))
  · refine acts (exec_queueReset s) (queueReset_skips hst hbirth hhead)
      (congrArg Queue.err (getQueue_noteRunnable_putQueue _ q ?_))
    dsimp only
    split <;> simp
  · exact (exec_qdoorWrite s).trans (congrArg _ ((doorbell_eq hdev hbound hdrained hmoves).trans (if_pos ⟨hpast, hroom⟩)))
  · exact (exec_qdoorWrite s).trans (congrArg _ ((doorbell_eq hdev hbound hdrained hmoves).trans
      (if_neg (not_and_or.mpr (hover.imp Nat.not_le.mpr Nat.not_le.mpr)))))
  · exact (exec_qdoorWrite s).trans (congrArg _ (doorbell_ignored hno))
  · exact (exec_kernelCancel s).trans (congrArg _ (cancelKernel_busy hbusy))
  · exact (exec_kernelCancel s).trans (congrArg _ (cancelKernel_noKernel hbusy hk))
  · exact (exec_kernelCancel s).trans (congrArg _ (cancelKernel_cancels hbusy hk hlive hbirth))

end Sys2Proof.Laws.QueueCommands
end

section
/-! SUPPORT. A packet in dispatch: what each does once its frame has let it start (R99-R106, R109-R111, R442, R486, R487). -/

namespace Sys2Proof.Laws.PacketsAndKernels

open Sys2Proof.Machine Sys2Proof.Laws

/-! ## The frame of a packet (R99, R102, R103) -/

/-- The queue that a move names has its turn (R99). -/
def HasTurn (s : State) : Prop :=
  ((getQueue s s.args.n).st = .runnable ∨ (getQueue s s.args.n).st = .blocked
    ∨ ((getQueue s s.args.n).st = .dispatching ∧ (getQueue s s.args.n).birthing = none))
  ∧ ctxServed s (getQueue s s.args.n).ctx = true

/-- A queue that has taken a packet into dispatch. -/
def inDispatch (x : Queue) (k : Packet) : Queue := { x with st := .dispatching, on := none, pkt := some k }

/-- The state in which the queue has taken its packet into dispatch. -/
def taken (s : State) (k : Packet) : State := putQueue s s.args.n (inDispatch (getQueue s s.args.n) k)

/-- The state in which a packet under ORD starts: with an acquire at system scope (R103). -/
def acquired (s : State) (k : Packet) : State := acquireBy .queue 5 (taken s k)

/-- The state in which a packet starts that waits under ORD alone. -/
def started (s : State) (k : Packet) : State := if k.hdr.getLsbD 16 then acquired s k else taken s k

/-- A packet that waits under ORD alone may start. -/
def Unheld (s : State) (k : Packet) : Prop := false = true ∨ k.hdr.getLsbD 16 = true → (getQueue s s.args.n).out = 0

section
variable (s : State) (k : Packet)

theorem getQueue_taken : getQueue (taken s k) s.args.n = inDispatch (getQueue s s.args.n) k :=
  getQueue_putQueue_some s _ (queue_ne_default (by simp [inDispatch]))

theorem getQueue_acquired : getQueue (acquired s k) s.args.n = inDispatch (getQueue s s.args.n) k :=
  getQueue_taken s k

theorem getQueue_started : getQueue (started s k) s.args.n = inDispatch (getQueue s s.args.n) k := by
  unfold started
  split
  · exact getQueue_acquired s k
  · exact getQueue_taken s k

theorem acquired_ctx : (getQueue (acquired s k) s.args.n).ctx = (getQueue s s.args.n).ctx := by
  rw [getQueue_acquired]
  rfl

theorem started_ctx : (getQueue (started s k) s.args.n).ctx = (getQueue s s.args.n).ctx := by
  rw [getQueue_started]
  rfl

theorem started_ctxs : (started s k).ctxs = s.ctxs := by
  unfold started
  split <;> rfl

theorem started_owed : (started s k).owed = s.owed := by
  unfold started
  split <;> rfl

theorem getCtx_started (c : Nat) : getCtx (started s k) c = getCtx s c := by rw [getCtx, getCtx, started_ctxs]

end

section
variable {s : State} {k : Packet} (hd : s.args.data = .packet k) (hturn : HasTurn s)
include hd hturn

/-- What a packet in dispatch comes to: its version, then its own fields, then what it waits for. -/
theorem onPacket_eq (always : Bool) (bad : Packet → Bool) (f : State → Nat → Packet → State) : onPacket s always bad f =
    if k.hdr.toNat / 256 % 256 ≠ 1 then packetFault (taken s k) s.args.n 2 (packetAddr (getQueue s s.args.n)) k.tag
    else if bad k then packetFault (taken s k) s.args.n 3 (packetAddr (getQueue s s.args.n)) k.tag
    else if (always || k.hdr.getLsbD 16) && (getQueue s s.args.n).out != 0 then blockQueue (taken s k) s.args.n .order
    else f (if always || k.hdr.getLsbD 16 then acquired s k else taken s k) s.args.n k := by
  obtain ⟨hst, hserved⟩ := hturn
  have hver : fld k.hdr.toNat 15 8 = k.hdr.toNat / 256 % 256 := ModuleEvents.fld_eq_div k.hdr.toNat 15 8
  have hready : (getQueue s s.args.n).st = .runnable ∨ (getQueue s s.args.n).st = .blocked
      ∨ ((getQueue s s.args.n).st = .dispatching ∧ (getQueue s s.args.n).birthing.isNone = true) :=
    hst.imp_right (·.imp_right fun h => ⟨h.1, by rw [h.2]; rfl⟩)
  rcases hready with hst | hst | ⟨hst, hbirth⟩ <;>
    simp only [onPacket, Bool.not_true, Bool.or_self, Bool.false_eq_true, if_false, *] <;> rfl

section
variable {always : Bool} {bad : Packet → Bool} {f : State → Nat → Packet → State}

theorem onPacket_version (hver : k.hdr.toNat / 256 % 256 ≠ 1) :
    onPacket s always bad f = packetFault (taken s k) s.args.n 2 (packetAddr (getQueue s s.args.n)) k.tag :=
  (onPacket_eq hd hturn always bad f).trans (if_pos hver)

variable (hver : k.hdr.toNat / 256 % 256 = 1)
include hver

theorem onPacket_format (hbad : bad k = true) :
    onPacket s always bad f = packetFault (taken s k) s.args.n 3 (packetAddr (getQueue s s.args.n)) k.tag :=
  (onPacket_eq hd hturn always bad f).trans ((if_neg (not_not.mpr hver)).trans (if_pos hbad))

theorem onPacket_waits (hok : bad k = false) (hord : k.hdr.getLsbD 16 = true) (hout : (getQueue s s.args.n).out ≠ 0) :
    onPacket s false bad f = blockQueue (taken s k) s.args.n .order := by
  rw [onPacket_eq hd hturn, if_neg (not_not.mpr hver), hok, if_neg Bool.false_ne_true, if_pos (by simp [hord, hout])]

theorem onPacket_starts (hok : bad k = false) (hun : Unheld s k) :
    onPacket s false bad f = f (started s k) s.args.n k := by
  have hfree : ¬((false || k.hdr.getLsbD 16) && (getQueue s s.args.n).out != 0) = true := by
    simpa [Unheld] using hun
  rw [onPacket_eq hd hturn, if_neg (not_not.mpr hver), hok, if_neg Bool.false_ne_true, if_neg hfree]
  rfl

/-- A packet that waits in any case starts when every earlier one has completed. -/
theorem onPacket_startsAlone (hok : bad k = false) (hout : (getQueue s s.args.n).out = 0) :
    onPacket s true bad f = f (acquired s k) s.args.n k := by
  rw [onPacket_eq hd hturn, if_neg (not_not.mpr hver), hok, if_neg Bool.false_ne_true, if_neg (by simp [hout])]
  rfl

end

end

/-! ## Packets that fault (R102) -/

/-- Every packet runs in the frame (R102). -/
theorem exec_packet {s : State} {i : Instr} (hi : i ∈ ([.nop, .launch, .blocklaunch, .waitmem, .signal, .depend, .indirect, .present, .capstart,
    .capstop, .rqconfConfigure, .rqconfFlush, .rqconfTearDown] : List Instr)) :
    ∃ always bad f, exec i s = .next (onPacket s always bad f) := by
  simp only [List.mem_cons, List.not_mem_nil, or_false] at hi
  rcases hi with rfl | rfl | rfl | rfl | rfl | rfl | rfl | rfl | rfl | rfl | rfl | rfl | rfl <;> exact ⟨_, _, _, rfl⟩

/-- The packets whose reserved fields are stated alone fault by their frame when one is set. -/
theorem exec_packet_reserved {s : State} {k : Packet} {e : Instr × List (Nat × Nat)}
    (he : e ∈ ([(.nop, []), (.waitmem, [(1, vaBits), (2, anyBits), (3, anyBits), (4, 7)]), (.signal, [(1, vaBits), (2, anyBits), (3, 0x103)]),
      (.present, [(1, vaBits), (2, 0xFFFF)]), (.capstart, [(1, vaBits)]), (.capstop, [(1, vaBits)]), (.rqconfFlush, [(1, 0x303FF)])]
      : List (Instr × List (Nat × Nat)))) (hres : reservedBad k e.2 = true) :
    ∃ always bad f, exec e.1 s = .next (onPacket s always bad f) ∧ bad k = true := by
  simp only [List.mem_cons, List.not_mem_nil, or_false] at he
  rcases he with rfl | rfl | rfl | rfl | rfl | rfl | rfl <;> exact ⟨_, _, _, rfl, by simp only [hres, Bool.true_or]⟩

/-! ## What the engine reads and where it writes (R102, R104, R376) -/

section
variable {s t : State} {q va n : Nat} {k : Packet}

theorem engineWalk_ok {c pa : Nat} {need : Need} {f : State → Nat → State} (hc : (getQueue s q).ctx = c) (hin : va + n ≤ 2 ^ 57)
    (hwalk : translateNow s queueUnit c va need = (t, .ok pa)) : engineWalk s q k va n need f = f t pa := by
  simp only [engineWalk, inVirt, hin, decide_true, Bool.not_true, Bool.false_eq_true, if_false, hc, hwalk]

/-- A page fault blocks the queue. -/
theorem engineWalk_page {c level : Nat} {need : Need} {f : State → Nat → State} (hc : (getQueue s q).ctx = c) (hin : va + n ≤ 2 ^ 57)
    (hwalk : translateNow s queueUnit c va need = (t, .fault 1 level)) :
    engineWalk s q k va n need f = blockOnPage t q va level (accessCode need) := by
  simp only [engineWalk, inVirt, hin, decide_true, Bool.not_true, Bool.false_eq_true, if_false, hc, hwalk]

theorem engineRead_ok {c : Nat} {b : List Byte} {f : State → List Byte → State} (hc : (getQueue s q).ctx = c) (hin : va + n ≤ 2 ^ 57)
    (hread : readVirt s queueUnit c va n = (t, .ok b)) : engineRead s q k va n f = f t b := by
  simp only [engineRead, inVirt, hin, decide_true, Bool.not_true, Bool.false_eq_true, if_false, hc, hread]

end

/-! ## NOP, WAITMEM and SIGNAL (R102, R104) -/

section
variable {s : State} {k : Packet} (hd : s.args.data = .packet k) (hturn : HasTurn s) (hver : k.hdr.toNat / 256 % 256 = 1)
include hd hturn hver

theorem packetNop_starts (hres : reservedBad k [] = false) (hun : Unheld s k) :
    packetNop s = packetStarted (started s k) s.args.n false :=
  onPacket_starts hd hturn hver hres hun

theorem packetNop_waits (hres : reservedBad k [] = false) (hheld : ¬Unheld s k) :
    packetNop s = blockQueue (taken s k) s.args.n .order := by
  obtain ⟨hord, hout⟩ := Classical.not_imp.mp hheld
  exact onPacket_waits hd hturn hver hres (hord.resolve_left Bool.false_ne_true) hout

section
variable (hres : reservedBad k [(1, vaBits), (2, anyBits), (3, anyBits), (4, 7)] = false) (halign : k.dw 1 % 8 = 0)
  (hin : k.dw 1 + 8 ≤ 2 ^ 57) (hcond : k.dw 4 < 4) (hun : Unheld s k)
include hres halign hin hcond hun

theorem packetWaitmem_tests {t : State} {pa : Nat}
    (hwalk : translateNow (started s k) queueUnit (getQueue s s.args.n).ctx (k.dw 1) { r := true } = (t, .ok pa)) :
    packetWaitmem s =
      if memCond (k.dw 4) (readN t.mem pa 8 &&& k.dw 3) (k.dw 2) then packetStarted (acquireBy .queue 5 t) s.args.n false
      else blockQueue t s.args.n (.waitmem (some pa) (k.dw 1) (k.dw 4) (k.dw 2) (k.dw 3) false) :=
  (onPacket_starts hd hturn hver (by simp [hres, halign, hcond]) hun).trans (engineWalk_ok (started_ctx s k) hin hwalk)

theorem packetWaitmem_page {t : State} {level : Nat}
    (hwalk : translateNow (started s k) queueUnit (getQueue s s.args.n).ctx (k.dw 1) { r := true } = (t, .fault 1 level)) :
    packetWaitmem s = blockOnPage t s.args.n (k.dw 1) level 1 :=
  (onPacket_starts hd hturn hver (by simp [hres, halign, hcond]) hun).trans (engineWalk_page (started_ctx s k) hin hwalk)

end

/-- The doubleword that SIGNAL writes: set, added to, or decremented as a dependence counter (R104, R107). -/
def signalled (s : State) (q : Nat) (k : Packet) (pa : Nat) : State :=
  match k.dw 3 % 4 with
  | 0 => writeHome s pa (natLe (k.dw 2) 8)
  | 1 => writeHome s pa (natLe ((readN s.mem pa 8 + k.dw 2) % 2 ^ 64) 8)
  | _ => decrementAt s (getQueue s q).ctx (k.dw 1) pa q (getQueue s q).head (BitVec.ofNat 32 k.tag)

/-- One more interrupt to the host complex, where the packet asks for one. -/
def interrupted (s : State) (k : Packet) : State :=
  if bitOf (k.dw 3) 8 then { s with boot := { s.boot with irqs := s.boot.irqs + 1 } } else s

theorem packetSignal_performs {t : State} {pa : Nat} (hres : reservedBad k [(1, vaBits), (2, anyBits), (3, 0x103)] = false)
    (halign : k.dw 1 % (if k.dw 3 % 4 = 2 then 32 else 8) = 0) (hin : k.dw 1 + 8 ≤ 2 ^ 57) (hop : k.dw 3 % 4 < 3)
    (hout : (getQueue s s.args.n).out = 0)
    (hwalk : translateNow (acquired s k) queueUnit (getQueue s s.args.n).ctx (k.dw 1)
      (if k.dw 3 % 4 = 0 then { w := true } else { r := true, w := true }) = (t, .ok pa)) :
    packetSignal s = packetStarted (interrupted (signalled t s.args.n k pa) k) s.args.n false := by
  have hfld : fld (k.dw 3) 1 0 = k.dw 3 % 4 := rfl
  refine (onPacket_startsAlone hd hturn hver ?_ hout).trans (engineWalk_ok (acquired_ctx s k) hin hwalk)
  simp [hres, hfld, halign, Nat.ne_of_lt hop]

end

/-! ## The interrupt bit of SIGNAL -/

theorem dw_lt (k : Packet) (i : Nat) : k.dw i < 2 ^ 64 := by
  unfold Packet.dw
  split <;> exact BitVec.isLt _

/-- A doubleword without a reserved bit has none of the bits that may not be set (R102). -/
theorem dw_and_of_reservedBad {k : Packet} {l : List (Nat × Nat)} (h : reservedBad k l = false) {i : Nat} (hi : i < 7) :
    k.dw (i + 1) &&& (2 ^ 64 - 1 - ((l.find? fun e => e.1 == i + 1).map (·.2)).getD 0) = 0 := by
  have hall := List.any_eq_false.mp (Bool.or_eq_false_iff.mp h).2 i (List.mem_range.mpr hi)
  simpa using hall

/-- Of the bits 0, 1 and 8 alone, a number of 256 or more has bit 8. -/
theorem testBit_eight {x : Nat} (hx : x < 2 ^ 64) (hand : x &&& (2 ^ 64 - 1 - 0x103) = 0) (hbig : 256 ≤ x) : x.testBit 8 = true := by
  by_contra hclear
  have hmask : ∀ i < 64, 8 < i → Nat.testBit (2 ^ 64 - 1 - 0x103) i = true := by decide
  refine absurd (Nat.lt_pow_two_of_testBit (n := 8) x fun i hi => ?_) (by omega)
  rcases Nat.lt_trichotomy i 8 with hlt | rfl | hgt
  · omega
  · exact Bool.eq_false_iff.mpr hclear
  · rcases Nat.lt_or_ge i 64 with hlow | hhigh
    · have hbit : (x &&& (2 ^ 64 - 1 - 0x103)).testBit i = Nat.testBit 0 i := congrArg (Nat.testBit · i) hand
      rw [Nat.testBit_and, hmask i hlow hgt, Bool.and_true, Nat.zero_testBit] at hbit
      exact hbit
    · exact Nat.testBit_lt_two_pow (hx.trans_le (Nat.pow_le_pow_right (by decide) hhigh))

/-! ## The four answers of SIGNAL (R104) -/

theorem postRecord_boot (s : State) (c : Nat) (bytes : List Byte) : (postRecord s c bytes).boot = s.boot := by
  unfold postRecord
  dsimp only
  split <;> rfl

theorem decrementAt_boot (s : State) (c ctr pa q : Nat) (pkt tag : Word) : (decrementAt s c ctr pa q pkt tag).boot = s.boot := by
  fun_cases decrementAt s c ctr pa q pkt tag
  · exact postRecord_boot _ _ _
  · rfl
  · rfl

theorem signalled_boot (s : State) (q : Nat) (k : Packet) (pa : Nat) : (signalled s q k pa).boot = s.boot := by
  unfold signalled
  split
  · rfl
  · rfl
  · exact decrementAt_boot _ _ _ _ _ _ _

section
variable {t : State} {q pa : Nat} {k : Packet}

theorem interrupted_clear (h : bitOf (k.dw 3) 8 = false) : interrupted t k = t := if_neg (Bool.eq_false_iff.mp h)

theorem interrupted_signalled_set (h : k.dw 3 = 0) : interrupted (signalled t q k pa) k = writeHome t pa (natLe (k.dw 2) 8) := by
  rw [interrupted_clear (by rw [h]; rfl), signalled, h]
  rfl

theorem interrupted_signalled_add (h : k.dw 3 = 1) :
    interrupted (signalled t q k pa) k = writeHome t pa (natLe ((readN t.mem pa 8 + k.dw 2) % 2 ^ 64) 8) := by
  rw [interrupted_clear (by rw [h]; rfl), signalled, h]
  rfl

theorem interrupted_signalled_decrement (h : k.dw 3 = 2) : interrupted (signalled t q k pa) k =
    decrementAt t (getQueue t q).ctx (k.dw 1) pa q (getQueue t q).head (BitVec.ofNat 32 k.tag) := by
  rw [interrupted_clear (by rw [h]; rfl), signalled, h]
  rfl

/-- SIGNAL with bit 8 counts one more interrupt (notes/assumptions/38.md). -/
theorem interrupted_signalled_irqs (hres : reservedBad k [(1, vaBits), (2, anyBits), (3, 0x103)] = false) (h : k.dw 3 ≥ 256) :
    (interrupted (signalled t q k pa) k).boot.irqs = t.boot.irqs + 1 := by
  have hbit : bitOf (k.dw 3) 8 = true := testBit_eight (dw_lt k 3) (dw_and_of_reservedBad hres (show 2 < 7 by decide)) h
  rw [interrupted, if_pos hbit]
  exact congrArg (fun b => b.irqs + 1) (signalled_boot t q k pa)

end

/-! ## A packet that has started -/

theorem ringState_ne_unbound (x : Queue) : ringState x ≠ .unbound := by
  unfold ringState
  split <;> simp

/-- The queue past its packet: the ring or the INDIRECT array has moved on (R99, R105). -/
def passed (x : Queue) : Queue :=
  match x.ind with
  | some (a, left) => if left ≤ 1 then { x with ind := none, head := x.head + 1 } else { x with ind := some (a + 64, left - 1) }
  | none => { x with head := x.head + 1 }

theorem passed_capture (x : Queue) : (passed x).capture = x.capture := by
  unfold passed
  split
  · split <;> rfl
  · rfl

/-- The queue whose packet has started, with one more that is not complete if `pend`. -/
def movedOn (x : Queue) (pend : Bool) : Queue :=
  { noWork (passed x) with
    out := (passed x).out + b01 pend
    st := if (passed x).birthing.isSome then .dispatching else ringState { noWork (passed x) with out := (passed x).out + b01 pend } }

theorem packetStarted_eq (s : State) (q : Nat) (pend : Bool) : packetStarted s q pend = putQueue s q (movedOn (getQueue s q) pend) := by
  rfl

theorem movedOn_bound (x : Queue) (pend : Bool) : (movedOn x pend).st ≠ .unbound := by
  unfold movedOn
  dsimp only
  split
  · simp
  · exact ringState_ne_unbound _

theorem packetStarted_capture (s : State) (q : Nat) (pend : Bool) :
    (getQueue (packetStarted s q pend) q).capture = (getQueue s q).capture := by
  rw [packetStarted_eq, getQueue_putQueue_some s q (queue_ne_default (movedOn_bound _ pend))]
  exact passed_capture _

/-- A write at the home leaves a queue in its state (R104). -/
theorem getQueue_writeHome_st (s : State) (pa : Nat) (bs : List Byte) (q : Nat) :
    (getQueue (writeHome s pa bs) q).st = (getQueue s q).st := by
  simp only [getQueue, writeHome, writeBy]
  generalize s.queues = l
  have hsee (x : Queue) : (seeQueue (mwrite s.mem pa bs) pa bs.length x).st = x.st := by
    unfold seeQueue
    split <;> rfl
  induction l with
  | nil => rfl
  | cons e l ih =>
    obtain ⟨k, x⟩ := e
    simp only [List.map_cons, tget]
    split
    · exact hsee x
    · split
      · rfl
      · exact ih

/-! ## DEPEND, INDIRECT and PRESENT (R105, R106, R442) -/

section
variable {s : State} {k : Packet} (hd : s.args.data = .packet k) (hturn : HasTurn s) (hver : k.hdr.toNat / 256 % 256 = 1)
include hd hturn hver

section
variable (hres : reservedBad k [(1, vaBits), (2, 2 ^ 63 - 1), (3, vaBits), (4, 0x0FFFFFFF)] = false) (halign : k.dw 1 % 32 = 0)
  (hcount : k.dw 2 ≠ 0) (hsucc : k.dw 3 % 64 = 0) (hpackets : k.dw 4 / 65536 % 4096 ≠ 0) (hun : Unheld s k)
include hres halign hcount hsucc hpackets hun

/-- DEPEND asks for a device-fed queue of its context (R106, R108). -/
theorem packetDepend_eq : packetDepend s =
    if deviceQueue (started s k) (getQueue s s.args.n).ctx (k.dw 4 % 65536) then
      engineWalk (started s k) s.args.n k (k.dw 1) 32 { w := true } fun s' pa =>
        packetStarted (writeHome s' pa (packFields [(8, k.dw 2), (8, k.dw 3), (8, k.dw 4), (8, 0)])) s.args.n false
    else packetFault (started s k) s.args.n 6 (k.dw 1) k.tag := by
  have hfld : fld (k.dw 4) 27 16 = k.dw 4 / 65536 % 4096 := ModuleEvents.fld_eq_div (k.dw 4) 27 16
  have htq : fld (k.dw 4) 15 0 = k.dw 4 % 65536 := rfl
  refine (onPacket_starts hd hturn hver (by simpa [halign, hcount, hsucc, hfld, hpackets] using hres) hun).trans ?_
  simp only [started_ctx, htq]
  cases deviceQueue (started s k) (getQueue s s.args.n).ctx (k.dw 4 % 65536) <;> rfl

end

theorem packetIndirect_goesIn (hres : reservedBad k [(1, vaBits), (2, 0xFFFFFFFF)] = false) (halign : k.dw 1 % 64 = 0) (hlo : 0 < k.dw 2)
    (hhi : k.dw 2 ≤ 65536) (hun : Unheld s k) (hind : (getQueue s s.args.n).ind = none) :
    packetIndirect s = modQueue (started s k) s.args.n fun y => { noWork y with ind := some (k.dw 1, k.dw 2), st := .runnable } := by
  have hind' : (getQueue (started s k) s.args.n).ind = none := by rw [getQueue_started]; exact hind
  refine (onPacket_starts hd hturn hver (by simp [hres, halign, hhi, Nat.ne_of_gt hlo]) hun).trans ?_
  simp only [hind', Option.isSome_none, Bool.false_eq_true, if_false]

theorem packetPresent_eq (hres : reservedBad k [(1, vaBits), (2, 0xFFFF)] = false) (halign : k.dw 1 % 128 = 0) (hheads : k.dw 2 ≠ 0)
    (hout : (getQueue s s.args.n).out = 0) : packetPresent s =
    if (headsOf (k.dw 2)).all fun h => headOwned (getHead s h) (getQueue s s.args.n).ctx then
      packetStarted (publishTo (acquired s k) (getQueue s s.args.n).ctx (k.dw 1) (headsOf (k.dw 2))) s.args.n false
    else packetFault (acquired s k) s.args.n 6 (packetAddr (getQueue s s.args.n)) k.tag := by
  have haddr : packetAddr (getQueue (acquired s k) s.args.n) = packetAddr (getQueue s s.args.n) := by rw [getQueue_acquired]; rfl
  refine (onPacket_startsAlone hd hturn hver (by simp [hres, halign, hheads]) hout).trans ?_
  simp only [acquired_ctx, haddr]
  rfl

end

/-! ## CAPSTART and CAPSTOP (R486, R487) -/

/-- The state with a queue's window open on a descriptor, its counts and its histogram table zeroed. -/
def windowOpened (s : State) (q : Nat) (cp : Capture) : State :=
  modQueue { s with captures := otherCaptures s cp.ctx cp.capd ++ [cp], mem := mzero s.mem cp.hbuf (64 * 2 ^ cp.hlog) } q
    fun x => { x with capture := some cp.capd }

theorem windowOpened_spec (s : State) (q : Nat) (cp : Capture) :
    (getQueue (packetStarted (windowOpened s q cp) q false) q).capture = some cp.capd
    ∧ cp ∈ (packetStarted (windowOpened s q cp) q false).captures := by
  have hopen : getQueue (windowOpened s q cp) q = { getQueue s q with capture := some cp.capd } :=
    getQueue_putQueue_some _ q fun h => Option.some_ne_none _ (congrArg Queue.capture h)
  exact ⟨by rw [packetStarted_capture, hopen], List.mem_append_right _ (List.mem_singleton_self cp)⟩

/-- The counts of a queue's window written to dw3 and dw4 of its descriptor (R487). -/
def countsWritten (t : State) (c capd pa : Nat) : State :=
  match t.captures.find? fun e => e.ctx == c && e.capd == capd with
  | some e => writeHome t (pa + 24) (natLe e.tnext.toNat 4 ++ natLe e.tlost.toNat 4 ++ natLe e.hused.toNat 4 ++ natLe e.hlost.toNat 4)
  | none => t

/-- The state with a queue's window closed: another queue's window on the descriptor stays (R487). -/
def windowClosed (t : State) (q c capd pa : Nat) : State :=
  let u := countsWritten t c capd pa
  modQueue (if captureShared u c capd q then u else { u with captures := otherCaptures u c capd }) q fun x => { x with capture := none }

theorem windowClosed_capture {t : State} {q : Nat} (c capd pa : Nat) (hbound : (getQueue t q).st ≠ .unbound) :
    (getQueue (packetStarted (windowClosed t q c capd pa) q false) q).capture = none := by
  have hcounts : (getQueue (countsWritten t c capd pa) q).st ≠ .unbound := by
    unfold countsWritten
    split
    · rwa [getQueue_writeHome_st]
    · exact hbound
  rw [packetStarted_capture]
  unfold windowClosed
  dsimp only
  split <;> exact congrArg Queue.capture (getQueue_modQueue_bound (f := fun x => { x with capture := none }) hcounts)

/-- The translation of CAPSTOP's descriptor leaves the queue in dispatch. -/
theorem windowClosed_translated {s t : State} {k : Packet} {r : XRes} {n : Need} {c' va : Nat} (c capd pa : Nat)
    (hwalk : translateNow (acquired s k) queueUnit c' va n = (t, r)) :
    (getQueue (packetStarted (windowClosed t s.args.n c capd pa) s.args.n false) s.args.n).capture = none := by
  have htrans := translateNow_translated (acquired s k) queueUnit c' va n
  rw [hwalk] at htrans
  have hsame : getQueue t s.args.n = getQueue (acquired s k) s.args.n := congrArg (tget ({} : Queue) · s.args.n) htrans.queues
  apply windowClosed_capture
  rw [hsame, getQueue_acquired]
  simp [inDispatch]

section
variable {s : State} {k : Packet} (hd : s.args.data = .packet k) (hturn : HasTurn s) (hver : k.hdr.toNat / 256 % 256 = 1)
include hd hturn hver

theorem packetCapstart_opens {t : State} {b : List Byte} (hres : reservedBad k [(1, vaBits)] = false) (halign : k.dw 1 % 64 = 0)
    (hun : Unheld s k) (hclosed : (getQueue s s.args.n).capture = none) (hin : k.dw 1 + 64 ≤ 2 ^ 57)
    (hread : readVirt (started s k) queueUnit (getQueue s s.args.n).ctx (k.dw 1) 64 = (t, .ok b)) (hok : capDescBad (bytesDw b) = false) :
    packetCapstart s =
      packetStarted (windowOpened t s.args.n (captureFrom (getQueue s s.args.n).ctx (k.dw 1) (bytesDw b))) s.args.n false := by
  have hclosed' : (getQueue (started s k) s.args.n).capture = none := by rw [getQueue_started]; exact hclosed
  refine (onPacket_starts hd hturn hver (by simpa [halign] using hres) hun).trans ?_
  simp only [hclosed', Option.isSome_none, Bool.false_eq_true, if_false, engineRead_ok (started_ctx s k) hin hread, hok, started_ctx]
  rfl

section
variable (hres : reservedBad k [(1, vaBits)] = false) (halign : k.dw 1 % 64 = 0) (hout : (getQueue s s.args.n).out = 0)
  (hopen : (getQueue s s.args.n).capture = some (k.dw 1))
include hres halign hout hopen

/-- CAPSTOP waits for the children that its window captures (R487). -/
theorem packetCapstop_waits (hlive : capturedLive (acquired s k) (getQueue s s.args.n).ctx (k.dw 1) s.args.n = true) :
    packetCapstop s = blockQueue (acquired s k) s.args.n .order := by
  have hopen' : (getQueue (acquired s k) s.args.n).capture = some (k.dw 1) := by rw [getQueue_acquired]; exact hopen
  refine (onPacket_startsAlone hd hturn hver (by simpa [halign] using hres) hout).trans ?_
  simp only [hopen', acquired_ctx, hlive, ne_eq, not_true_eq_false, if_false, if_true]

theorem packetCapstop_closes {t : State} {pa : Nat} (hin : k.dw 1 + 64 ≤ 2 ^ 57)
    (hlive : capturedLive (acquired s k) (getQueue s s.args.n).ctx (k.dw 1) s.args.n = false)
    (hwalk : translateNow (acquired s k) queueUnit (getQueue s s.args.n).ctx (k.dw 1) { w := true } = (t, .ok pa)) :
    packetCapstop s = packetStarted (windowClosed t s.args.n (getQueue s s.args.n).ctx (k.dw 1) pa) s.args.n false := by
  have hopen' : (getQueue (acquired s k) s.args.n).capture = some (k.dw 1) := by rw [getQueue_acquired]; exact hopen
  refine (onPacket_startsAlone hd hturn hver (by simpa [halign] using hres) hout).trans ?_
  simp only [hopen', acquired_ctx, hlive, ne_eq, not_true_eq_false, if_false, Bool.false_eq_true,
    engineWalk_ok (acquired_ctx s k) hin hwalk]
  rfl

end

end

/-! ## RQCONF (R109, R111) -/

theorem rqBusy_started (s : State) (k : Packet) (c : Nat) (r : RecQueue) : rqBusy (started s k) c r = rqBusy s c r := by
  rw [rqBusy, rqBusy, started_owed]

/-- A record queue as a packet configures it: empty, and of a generation of its own (R109). -/
def configured (k : Packet) (gen : Nat) : RecQueue :=
  { gen := gen, pool := k.dw 2, psize := k.dw 3, rsize := k.dw 4 % 65536, batch := k.dw 4 / 2 ^ 32 % 65536, cons := k.dw 5
    tq := k.dw 6 % 65536, next := 0, deliver := 0, oldest := 0, res := [], committed := [], void := [], out := [], freedRecs := []
    flushing := false }

theorem packetRqConfigure_go (s : State) (q c rq : Nat) (k : Packet) : packetRqConfigure.go s q c rq k =
    packetStarted (modCtx s c fun y => { y with
      rqs := tput none y.rqs rq (some (configured k (getCtx s c).rqConfs)), rqConfs := y.rqConfs + 1 }) q false := by
  have hbatch : fld (k.dw 4) 47 32 = k.dw 4 / 2 ^ 32 % 65536 := ModuleEvents.fld_eq_div (k.dw 4) 47 32
  simp only [packetRqConfigure.go, hbatch]
  rfl

section
variable {s : State} {k : Packet} (hd : s.args.data = .packet k) (hturn : HasTurn s) (hver : k.hdr.toNat / 256 % 256 = 1)
include hd hturn hver

section
variable (hidle : ∀ r, tget none (getCtx s (getQueue s s.args.n).ctx).rqs (k.dw 1 % 1024) = some r →
  rqBusy s (getQueue s s.args.n).ctx r = false) (hun : Unheld s k)
include hidle hun

theorem packetRqConfigure_configures
    (hres : reservedBad k [(1, 0x303FF), (2, vaBits), (3, anyBits), (4, 0xFFFF0000FFFF), (5, vaBits), (6, 0xFFFF)] = false)
    (hsub : k.dw 1 / 65536 % 4 = 0) (hpool : k.dw 2 % 64 = 0) (hlo : 16 ≤ k.dw 4 % 65536) (hhi : k.dw 4 % 65536 ≤ 4096)
    (hsize : k.dw 4 % 16 = 0) (hbatch : 0 < k.dw 4 / 2 ^ 32 % 65536) (hcons : k.dw 5 % 128 = 0)
    (hcap : 0 < k.dw 3 / (k.dw 4 % 65536)) (hmax : k.dw 3 / (k.dw 4 % 65536) ≤ 2 ^ 20) :
    packetRqConfigure s = packetStarted (modCtx (started s k) (getQueue s s.args.n).ctx fun y => { y with
      rqs := tput none y.rqs (k.dw 1 % 1024) (some (configured k (getCtx s (getQueue s s.args.n).ctx).rqConfs)),
      rqConfs := y.rqConfs + 1 }) s.args.n false := by
  have hfld : fld (k.dw 1) 17 16 = k.dw 1 / 65536 % 4 := ModuleEvents.fld_eq_div (k.dw 1) 17 16
  have hbfld : fld (k.dw 4) 47 32 = k.dw 4 / 2 ^ 32 % 65536 := ModuleEvents.fld_eq_div (k.dw 4) 47 32
  have hrq : fld (k.dw 1) 9 0 = k.dw 1 % 1024 := rfl
  have hsfld : fld (k.dw 4) 15 0 = k.dw 4 % 65536 := rfl
  have hsize' : k.dw 4 % 65536 % 16 = 0 := by omega
  have hsize0 : k.dw 4 % 65536 ≠ 0 := by omega
  have hbatch0 : k.dw 4 / 2 ^ 32 % 65536 ≠ 0 := by omega
  have hcap0 : k.dw 3 / (k.dw 4 % 65536) ≠ 0 := by omega
  refine (onPacket_starts hd hturn hver ?_ hun).trans ?_
  · simp only [hfld, hbfld, hsfld, hsize0, if_false]
    simpa [hsub, hpool, hlo, hhi, hsize', hcons, hcap0] using And.intro (And.intro hres hbatch0) hmax
  · simp only [hrq, started_ctx, getCtx_started]
    cases hr : tget none (getCtx s (getQueue s s.args.n).ctx).rqs (k.dw 1 % 1024) with
    | none => exact (packetRqConfigure_go _ _ _ _ _).trans (by rw [getCtx_started])
    | some r =>
      simp only [rqBusy_started, hidle r hr, Bool.false_eq_true, if_false]
      exact (packetRqConfigure_go _ _ _ _ _).trans (by rw [getCtx_started])

theorem packetRqTearDown_tears (hres : reservedBad k [(1, 0x303FF)] = false) (hsub : k.dw 1 / 65536 % 4 = 2)
    (hthere : tget none (getCtx s (getQueue s s.args.n).ctx).rqs (k.dw 1 % 1024) ≠ none) :
    packetRqTearDown s = packetStarted (modCtx (started s k) (getQueue s s.args.n).ctx fun y => { y with
      rqs := tput none y.rqs (k.dw 1 % 1024) none }) s.args.n false := by
  obtain ⟨r, hr⟩ := Option.ne_none_iff_exists'.mp hthere
  have hfld : fld (k.dw 1) 17 16 = k.dw 1 / 65536 % 4 := ModuleEvents.fld_eq_div (k.dw 1) 17 16
  have hrq : fld (k.dw 1) 9 0 = k.dw 1 % 1024 := rfl
  refine (onPacket_starts hd hturn hver (by simpa [hfld, hsub] using hres) hun).trans ?_
  simp only [hrq, started_ctx, getCtx_started, hr, rqBusy_started, hidle r hr, Bool.false_eq_true, if_false]

end

theorem packetRqFlush_flushes (hres : reservedBad k [(1, 0x303FF)] = false) (hsub : k.dw 1 / 65536 % 4 = 1) (hun : Unheld s k) :
    packetRqFlush s = packetStarted (deliver (modRq (started s k) (getQueue s s.args.n).ctx (k.dw 1 % 1024)
      fun r => { r with flushing := true }) (getQueue s s.args.n).ctx (k.dw 1 % 1024)) s.args.n false := by
  have hfld : fld (k.dw 1) 17 16 = k.dw 1 / 65536 % 4 := ModuleEvents.fld_eq_div (k.dw 1) 17 16
  refine (onPacket_starts hd hturn hver (by simpa [hfld, hsub] using hres) hun).trans ?_
  simp only [started_ctx]
  rfl

end

end Sys2Proof.Laws.PacketsAndKernels
end

section
/-! SUPPORT. Launches from their packet to the birth of their sets, what the queue engine owes, and the statement O58 (R104, R107, R108,
R111, R117-R124, R127, R335). -/

namespace Sys2Proof.Laws.PacketsAndKernels

open Sys2Proof.Machine Sys2Proof.Laws

/-! ## LAUNCH and BLOCKLAUNCH (R117, R118, R335) -/

/-- The record-queue batch that a launch consumes: that of its packet in the ring (R111). -/
def launchBatch (s : State) (q : Nat) : Option RecBatch :=
  if (getQueue s q).ind = none then batchAt s (getQueue s q).ctx q (getQueue s q).head.toNat else none

/-- How many groups a launch has: the block list's count, or one for sixteen records of its batch, or the descriptor's (R111, R117). -/
def launchGroups (s : State) (q : Nat) (d : List DWord) (list : Option (Nat × Nat)) : Nat :=
  match list, launchBatch s q with
  | some (_, n), _ => n
  | none, some b => (b.addrs.length + 15) / 16
  | none, none => dwAt d 1 % 2 ^ 33

theorem launchGroups_none (s : State) (q : Nat) (d : List DWord) : launchGroups s q d none =
    match launchBatch s q with
    | some b => (b.addrs.length + 15) / 16
    | none => dwAt d 1 % 2 ^ 33 := by
  unfold launchGroups
  cases launchBatch s q <;> rfl

/-- The kernel that a launch's descriptor describes. -/
def launchKernel (s : State) (q : Nat) (k : Packet) (d : List DWord) (groups : Nat) (list : Option Nat) : Kernel :=
  { kernelOf d (getQueue s q).ctx q (getQueue s q).head (BitVec.ofNat 32 k.tag) (k.dw 1) groups (k.dw 2) (BitVec.ofNat 64 (k.dw 3)) list with
    rqBatch := launchBatch s q }

/-- The state in which the engine keeps what it has read of a launch. -/
def drafted (s : State) (q : Nat) (kn : Kernel) (circ : Nat) : State := modQueue s q fun y => { y with draft := some (kn, circ) }

/-- What the check of a descriptor leads to: its version, then its fields, then its circuit table. -/
def launchChecked (s : State) (q : Nat) (k : Packet) (d : List DWord) (groups : Nat) (list : Option Nat) : State :=
  if dwAt d 15 % 256 ≠ 1 then packetFault s q 2 (k.dw 1) k.tag
  else if descBad d groups then packetFault s q 3 (k.dw 1) k.tag
  else launchCircuits (drafted s q (launchKernel s q k d groups list) (dwAt d 3 % 2 ^ 57)) q k (launchKernel s q k d groups list)
    (dwAt d 3 % 2 ^ 57)

section
variable {s t : State} {q : Nat} {k : Packet} {list : Option (Nat × Nat)} (hlaunch : (getQueue s q).launch = none)
include hlaunch

/-- A packet that is taken up again goes on from what has been read. -/
theorem launchDesc_goesOn {kn : Kernel} {circ : Nat} (hdraft : (getQueue s q).draft = some (kn, circ)) :
    launchDesc s q k list = launchCircuits s q k kn circ := by
  simp only [launchDesc, hlaunch, hdraft, Option.isSome_none, Bool.false_eq_true, if_false]

/-- A descriptor that has been read goes to its check. -/
theorem launchDesc_reads {c : Nat} {b : List Byte} (hc : (getQueue s q).ctx = c) (hdraft : (getQueue s q).draft = none)
    (hin : k.dw 1 + 128 ≤ 2 ^ 57) (hread : readVirt s queueUnit c (k.dw 1) 128 = (t, .ok b)) :
    launchDesc s q k list = launchChecked t q k (bytesDw b) (launchGroups t q (bytesDw b) list) (list.map (·.1)) := by
  simp only [launchDesc, hlaunch, hdraft, Option.isSome_none, Bool.false_eq_true, if_false, engineRead_ok hc hin hread]
  have hbatch : launchBatch t q = match (getQueue t q).ind with
      | some _ => none
      | none => batchAt t (getQueue t q).ctx q (getQueue t q).head.toNat := by
    unfold launchBatch
    cases (getQueue t q).ind <;> rfl
  simp only [launchChecked, launchGroups, launchKernel, hbatch]
  rfl

end

theorem started_launch {s : State} (k : Packet) (hlaunch : (getQueue s s.args.n).launch = none) :
    (getQueue (started s k) s.args.n).launch = none := by
  rw [getQueue_started]
  exact hlaunch

theorem started_draft {s : State} (k : Packet) {draft : Option (Kernel × Nat)} (hdraft : (getQueue s s.args.n).draft = draft) :
    (getQueue (started s k) s.args.n).draft = draft := by
  rw [getQueue_started]
  exact hdraft

section
variable {s : State} {k : Packet} (hd : s.args.data = .packet k) (hturn : HasTurn s) (hver : k.hdr.toNat / 256 % 256 = 1)
  (hlaunch : (getQueue s s.args.n).launch = none) (hdesc : k.dw 1 % 128 = 0) (hdone : k.dw 2 % 32 = 0) (hun : Unheld s k)
include hd hturn hver hlaunch hdesc hdone hun

theorem packetLaunch_goesOn {kn : Kernel} {circ : Nat} (hres : reservedBad k [(1, vaBits), (2, vaBits), (3, anyBits)] = false)
    (hdraft : (getQueue s s.args.n).draft = some (kn, circ)) :
    packetLaunch s = launchCircuits (started s k) s.args.n k kn circ := by
  exact (onPacket_starts hd hturn hver (by simpa [hdesc, hdone] using hres) hun).trans
    (launchDesc_goesOn (started_launch k hlaunch) (started_draft k hdraft))

section
variable {t : State} {b : List Byte} (hdraft : (getQueue s s.args.n).draft = none) (hin : k.dw 1 + 128 ≤ 2 ^ 57)
  (hread : readVirt (started s k) queueUnit (getQueue s s.args.n).ctx (k.dw 1) 128 = (t, .ok b))
include hdraft hin hread

theorem packetLaunch_checks (hres : reservedBad k [(1, vaBits), (2, vaBits), (3, anyBits)] = false) :
    packetLaunch s = launchChecked t s.args.n k (bytesDw b) (launchGroups t s.args.n (bytesDw b) none) none :=
  (onPacket_starts hd hturn hver (by simpa [hdesc, hdone] using hres) hun).trans
    (launchDesc_reads (started_launch k hlaunch) (started_ctx s k) (started_draft k hdraft) hin hread)

theorem packetBlocklaunch_checks
    (hres : reservedBad k [(1, vaBits), (2, vaBits), (3, anyBits), (4, vaBits), (5, 0xFFFFFFFF)] = false)
    (hlist : k.dw 4 % 8 = 0) (hcount : k.dw 5 ≠ 0) :
    packetBlocklaunch s = launchChecked t s.args.n k (bytesDw b) (k.dw 5) (some (k.dw 4)) :=
  (onPacket_starts hd hturn hver (by simpa [hdesc, hdone, hlist, hcount] using hres) hun).trans
    (launchDesc_reads (started_launch k hlaunch) (started_ctx s k) (started_draft k hdraft) hin hread)

end

end

section
variable {t : State} {q : Nat} {k : Packet} {d : List DWord} {groups : Nat} {list : Option Nat}

theorem launchChecked_version (hver : dwAt d 15 % 256 ≠ 1) : launchChecked t q k d groups list = packetFault t q 2 (k.dw 1) k.tag :=
  if_pos hver

theorem launchChecked_format (hver : dwAt d 15 % 256 = 1) (hbad : descBad d groups = true) :
    launchChecked t q k d groups list = packetFault t q 3 (k.dw 1) k.tag :=
  (if_neg (not_not.mpr hver)).trans (if_pos hbad)

theorem launchChecked_ok (hver : dwAt d 15 % 256 = 1) (hok : descBad d groups = false) :
    launchChecked t q k d groups list = launchCircuits (drafted t q (launchKernel t q k d groups list) (dwAt d 3 % 2 ^ 57)) q k
      (launchKernel t q k d groups list) (dwAt d 3 % 2 ^ 57) :=
  (if_neg (not_not.mpr hver)).trans (if_neg (Bool.eq_false_iff.mp hok))

end

/-! ## A blocked WAITMEM (R104) -/

theorem waitmemAgain_tests {s : State} {q a va cond value mask : Nat} {met : Bool} (hst : (getQueue s q).st = .blocked)
    (hon : (getQueue s q).on = some (.waitmem (some a) va cond value mask met)) :
    waitmemAgain s q = if met || memCond cond (readN s.mem a 8 &&& mask) value then packetStarted (acquireBy .queue 5 s) q false
      else putQueue s q (getQueue s q) := by
  have hsame : modQueue s q (fun x => { x with on := some (.waitmem (some a) va cond value mask met) }) = putQueue s q (getQueue s q) := by
    rw [modQueue_eq, ← hon]
  cases met
  · simp only [waitmemAgain, hst, hon, Bool.false_or, Bool.false_eq_true, if_false, hsame]
  · simp only [waitmemAgain, hst, hon, Bool.true_or, if_true]

/-! ## Admission (R122, R123, R127) -/

/-- The places of the sets for which a launch reserves capacity: every set of a co-resident one, else the first (R122, R123). -/
def launchPlan (s : State) (k : Kernel) : Option (List (Nat × List Nat)) :=
  planSets s k (fun c => lessReserved s c (roomNow s c)) [] (clusterOrder s k) 0 (if k.cores then setCount k else 1)

/-- A checked launch admitted with the places of its sets reserved: its kernel, and its queue, which gives birth. -/
def admitted (s : State) (q : Nat) (k : Kernel) : State :=
  let y := getCtx s k.ctx
  let t := putCtx s k.ctx { y with nextLaunch := y.nextLaunch + 1, kept := [] }
  packetStarted (modQueue (takeBatch { t with kernels := t.kernels ++ [k] } k) q fun x => { x with birthing := some k.launch }) q true

section
variable {s : State} {q : Nat} {k : Kernel} (hlaunch : (getQueue s q).launch = some k)
  (hst : (getQueue s q).st = .dispatching ∨ (getQueue s q).st = .blocked) (hserved : ctxServed s (getQueue s q).ctx = true)
  (hfits : launchTooLarge s k = false)
include hlaunch hst hserved hfits

theorem admitKernel_admits {res : List (Nat × List Nat)} (hplan : launchPlan s k = some res)
    (hroom : residentCount s k.ctx + (if k.cores then k.groups else setGroupCount k 0) ≤ (getCtx s k.ctx).maxres)
    (hheld : heldByCores s q k = false) :
    admitKernel s q = admitted s q { k with launch := (getCtx s k.ctx).nextLaunch, reserved := res } := by
  have hplan' : planSets s k (fun c => lessReserved s c (roomNow s c)) [] (clusterOrder s k) 0
      (if k.cores then setCount k else 1) = some res :=
    hplan
  rcases hst with hst | hst <;>
    simp only [admitKernel, hst, hserved, hlaunch, hfits, hplan', hroom, hheld, decide_true, Bool.not_true, Bool.not_false, Bool.and_self,
      Bool.false_eq_true, if_false] <;> rfl

/-- A launch that a co-resident one holds waits for capacity (R123). -/
theorem admitKernel_waits (hheld : heldByCores s q k = true) : admitKernel s q =
    modQueue (blockQueue s q .capacity) q fun z => { z with waited := some (z.waited.getD s.epoch) } := by
  rcases hst with hst | hst
  all_goals
    simp only [admitKernel, hst, hserved, hlaunch, hfits, hheld, Bool.not_true, Bool.and_false, Bool.false_eq_true, if_false]
    cases planSets s k (fun c => lessReserved s c (roomNow s c)) [] (clusterOrder s k) 0 (if k.cores then setCount k else 1) <;> rfl

end

/-- A batch that is taken leaves the kernels and memory as they are. -/
theorem takeBatch_frame (s : State) (k : Kernel) : (takeBatch s k).kernels = s.kernels ∧ (takeBatch s k).mem = s.mem := by
  unfold takeBatch
  split <;> exact ⟨rfl, rfl⟩

theorem admitted_frame (s : State) (q : Nat) (k : Kernel) :
    (admitted s q k).kernels = s.kernels ++ [k] ∧ (admitted s q k).mem = s.mem :=
  takeBatch_frame _ k

/-! ## Births (R121, R335) -/

theorem setBirth_births {s t : State} {c cl : Nat} {launch : Word} {k : Kernel} {seqs : List Nat} {later : List (Nat × List Nat)}
    {masks : List (LaneMask × Tbl PWord)} (hk : getKernel s c launch = some k) (hdue : birthDue s k = true)
    (hplace : birthPlace s k = some (cl, seqs, later))
    (hmasks : birthMasks s k ((List.range seqs.length).map fun j => k.nextSet * k.setsize + j) = (t, .ok masks)) :
    setBirth s c launch = birthSet t k cl seqs later masks := by
  simp only [setBirth, hk, hdue, hplace, hmasks, Bool.not_true, Bool.false_eq_true, if_false]

/-! ## What the queue engine owes (R107, R108, R111) -/

section
variable {s : State}

theorem serveOwed_none (h : ∀ o ∈ s.owed, o.page ≠ none) : serveOwed s = s := by
  have hnone : (s.owed.filter fun o => o.page.isNone) = [] := List.filter_eq_nil_iff.mpr fun o ho => by simpa using h o ho
  rw [serveOwed, hnone]
  rfl

/-- What is owed first is served where it waits for nothing. -/
theorem serveOwed_first {o : Owing} {rest : List Owing} {t : State} (ho : s.owed = o :: rest) (hpage : o.page = none)
    (htry : tryOwed { s with owed := rest } o.what = some t) : serveOwed s = t := by
  have hfilter : s.owed.filter (fun o => o.page.isNone) = o :: rest.filter fun o => o.page.isNone := by
    rw [ho, List.filter_cons_of_pos (by rw [hpage]; rfl)]
  have herase : s.owed.erase o = rest := by rw [ho, List.erase_cons_head]
  rw [serveOwed, hfilter, List.findSome?_cons, herase, htry]
  rfl

theorem tryOwed_successor {c ctr succ tq n : Nat} {t : State} {b : List Byte} (hq : deviceQueue s c tq = true)
    (hin : succ + 64 * n ≤ 2 ^ 57) (hread : readVirt s queueUnit c succ (64 * n) = (t, .ok b)) :
    tryOwed s (.successor c ctr succ tq n) = some (owe t (.packets c ctr tq b false) none) := by
  simp only [tryOwed, hq, inVirt, hin, hread, decide_true, Bool.not_true, Bool.or_self, Bool.false_eq_true, if_false]

/-- The room for a successor's packets: the ring's while it is being appended, none while another one is (R107). -/
def successorRoom (s : State) (tq : Nat) (begun : Bool) : Nat := if begun then ringRoom (getQueue s tq) else ringSpace s tq

theorem tryOwed_packets {c ctr tq : Nat} {b : List Byte} {begun : Bool} (hq : deviceQueue s c tq = true)
    (hroom : b.length / 64 ≤ successorRoom s tq begun) :
    tryOwed s (.packets c ctr tq b begun) = some (appendPackets s tq b) := by
  simp only [tryOwed, hq, Bool.not_true, Bool.false_eq_true, if_false]
  exact if_pos hroom

theorem tryOwed_packets_part {c ctr tq : Nat} {b : List Byte} {begun : Bool} (hq : deviceQueue s c tq = true)
    (hsome : 0 < successorRoom s tq begun) (hfew : successorRoom s tq begun < b.length / 64) :
    tryOwed s (.packets c ctr tq b begun) = some (owe (appendPackets s tq (b.take (64 * successorRoom s tq begun)))
      (.packets c ctr tq (b.drop (64 * successorRoom s tq begun)) true) none) := by
  simp only [tryOwed, hq, Bool.not_true, Bool.false_eq_true, if_false]
  exact (if_neg (Nat.not_le.mpr hfew)).trans (if_neg (Nat.ne_of_gt hsome))

theorem tryOwed_packets_lost {c ctr tq : Nat} {b : List Byte} {begun : Bool} (hq : deviceQueue s c tq = false) :
    tryOwed s (.packets c ctr tq b begun) = some (successorLost s c ctr tq) := by
  simp only [tryOwed, hq, Bool.not_false, if_true]

theorem tryOwed_batch {c cons : Nat} {b : RecBatch} (hq : deviceQueue s c b.tq = true) (hroom : 1 ≤ ringSpace s b.tq) :
    tryOwed s (.batch c cons b) =
      some (modCtx (appendPackets s b.tq (packFields [(8, 0x0101), (8, cons), (48, 0)])) c fun y =>
        { y with batches := y.batches ++ [{ b with pkt := (getQueue s b.tq).tail.toNat }] }) := by
  simp only [tryOwed, hq, Bool.not_true, Bool.false_eq_true, if_false]
  exact if_neg (Nat.not_lt.mpr hroom)

end

/-! ## What the packets and the events of kernels run -/

section
variable (s : State)

theorem exec_nop : exec .nop s = .next (packetNop s) := by rfl
theorem exec_waitmem : exec .waitmem s = .next (packetWaitmem s) := by rfl
theorem exec_signal : exec .signal s = .next (packetSignal s) := by rfl
theorem exec_depend : exec .depend s = .next (packetDepend s) := by rfl
theorem exec_indirect : exec .indirect s = .next (packetIndirect s) := by rfl
theorem exec_present : exec .present s = .next (packetPresent s) := by rfl
theorem exec_capstart : exec .capstart s = .next (packetCapstart s) := by rfl
theorem exec_capstop : exec .capstop s = .next (packetCapstop s) := by rfl
theorem exec_rqconfConfigure : exec .rqconfConfigure s = .next (packetRqConfigure s) := by rfl
theorem exec_rqconfFlush : exec .rqconfFlush s = .next (packetRqFlush s) := by rfl
theorem exec_rqconfTearDown : exec .rqconfTearDown s = .next (packetRqTearDown s) := by rfl
theorem exec_launch : exec .launch s = .next (packetLaunch s) := by rfl
theorem exec_blocklaunch : exec .blocklaunch s = .next (packetBlocklaunch s) := by rfl
theorem exec_waitmemSatisfied : exec .waitmemSatisfied s = .next (waitmemAgain s (argQueue s)) := by rfl
theorem exec_kernelAdmit : exec .kernelAdmit s = .next (admitKernel s (argQueue s)) := by rfl
theorem exec_successorEnqueue : exec .successorEnqueue s = .next (serveOwed s) := by rfl
theorem exec_setBirth (hm : s.args.m ≠ 1) : exec .setBirth s = .next (setBirth s (argCtx s) (argLaunch s)) :=
  congrArg Host.Outcome.next (if_neg hm)

end

/-- An event whose function answers a state leads to it. -/
theorem next_of_eq {i : Instr} {s t u : State} (hi : exec i s = .next t) (ht : t = u) : exec i s = .next u := ht ▸ hi

/-- Settles O58: the frame's faults, each packet that starts, admission, births, and what the engine owes. -/
theorem packetsAndKernels : Obligations.PacketsAndKernels := by
  intro s q x turn unordered
  refine ⟨fun k hd hturn => ?_, ?_, fun k cl seqs later s1 masks hm hk hdue hplace hmasks => ?_, fun h => ?_, fun o rest ho hpage => ?_⟩
  · intro s0 after start
    refine ⟨fun i hi hver => ?_, fun hver => ⟨fun e he hres => ?_, fun hres => ⟨fun hun => ?_, fun hheld => ?_⟩, ?_, ?_, ?_, ?_, ?_, ?_, ?_, ?_,
      ?_, ?_, ?_⟩⟩
    · obtain ⟨always, bad, f, hexec⟩ := exec_packet (s := s) hi
      exact next_of_eq hexec (onPacket_version hd hturn hver)
    · obtain ⟨always, bad, f, hexec, hbad⟩ := exec_packet_reserved (s := s) he hres
      exact next_of_eq hexec (onPacket_format hd hturn hver hbad)
    · exact next_of_eq (exec_nop s) (packetNop_starts hd hturn hver hres hun)
    · exact next_of_eq (exec_nop s) (packetNop_waits hd hturn hver hres hheld)
    · intro s1 pa hres halign hin hcond hun
      exact ⟨fun hwalk => next_of_eq (exec_waitmem s) (packetWaitmem_tests hd hturn hver hres halign hin hcond hun hwalk),
        fun l hwalk => next_of_eq (exec_waitmem s) (packetWaitmem_page hd hturn hver hres halign hin hcond hun hwalk)⟩
    · intro s1 pa hres halign hin hop hout hwalk
      have hsignal := packetSignal_performs hd hturn hver hres halign hin hop hout hwalk
      have answers {u : State} (hu : interrupted (signalled s1 q k pa) k = u) : exec .signal s = .next (packetStarted u q false) :=
        next_of_eq (exec_signal s) (hsignal.trans (congrArg (packetStarted · q false) hu))
      exact ⟨fun h => answers (interrupted_signalled_set h), fun h => answers (interrupted_signalled_add h),
        fun h => answers (interrupted_signalled_decrement h), fun h => ⟨_, answers rfl, interrupted_signalled_irqs hres h⟩⟩
    · intro s1 pa hres halign hin hcount hsucc hpackets hun
      have hdepend := next_of_eq (exec_depend s) (packetDepend_eq hd hturn hver hres halign hcount hsucc hpackets hun)
      exact ⟨fun hq hwalk => next_of_eq hdepend ((if_pos hq).trans (engineWalk_ok (started_ctx s k) hin hwalk)),
        fun hq => next_of_eq hdepend (if_neg (Bool.eq_false_iff.mp hq))⟩
    · intro hres halign hlo hhi hun hind
      exact next_of_eq (exec_indirect s) (packetIndirect_goesIn hd hturn hver hres halign hlo hhi hun hind)
    · intro hres halign hheads hout
      have hpresent := next_of_eq (exec_present s) (packetPresent_eq hd hturn hver hres halign hheads hout)
      refine ⟨fun hown => next_of_eq hpresent (if_pos (List.all_eq_true.mpr hown)),
        fun ⟨h, hh, hnot⟩ => next_of_eq hpresent (if_neg fun hall => ?_)⟩
      exact absurd (List.all_eq_true.mp hall h hh) (Bool.eq_false_iff.mp hnot)
    · intro s1 b hres halign hun hclosed hin hread hok
      exact ⟨_, next_of_eq (exec_capstart s) (packetCapstart_opens hd hturn hver hres halign hun hclosed hin hread hok),
        windowOpened_spec s1 q (captureFrom x.ctx (k.dw 1) (bytesDw b))⟩
    · intro s1 pa hres halign hout hopen hin hlive hwalk
      exact ⟨_, next_of_eq (exec_capstop s) (packetCapstop_closes hd hturn hver hres halign hout hopen hin hlive hwalk),
        windowClosed_translated _ _ _ hwalk⟩
    · intro hres halign hout hopen hlive
      exact next_of_eq (exec_capstop s) (packetCapstop_waits hd hturn hver hres halign hout hopen hlive)
    · intro rq cap idle new
      refine ⟨fun hres hsub hpool hlo hhi hsize hbatch hcons hcap hmax hun hidle => ?_, fun hres hsub hun => ?_,
        fun hres hsub hun hidle hthere => ?_⟩
      · exact next_of_eq (exec_rqconfConfigure s)
          (packetRqConfigure_configures hd hturn hver hidle hun hres hsub hpool hlo hhi hsize hbatch hcons hcap hmax)
      · exact next_of_eq (exec_rqconfFlush s) (packetRqFlush_flushes hd hturn hver hres hsub hun)
      · exact next_of_eq (exec_rqconfTearDown s) (packetRqTearDown_tears hd hturn hver hidle hun hres hsub hthere)
    · intro kn circ hlaunch hdraft hdesc hdone hun hres
      exact next_of_eq (exec_launch s) (packetLaunch_goesOn hd hturn hver hlaunch hdesc hdone hun hres hdraft)
    · intro s1 b hlaunch hdraft hdesc hdone hin hun hread d y bat circ kernel draft
      refine ⟨fun hres => ?_, fun hres hlist hcount hdver hok => ?_⟩
      · intro groups
        have hgroups : launchGroups s1 q d none = groups := launchGroups_none s1 q d
        have hchecks := next_of_eq (exec_launch s) (packetLaunch_checks hd hturn hver hlaunch hdesc hdone hun hdraft hin hread hres)
        rw [hgroups] at hchecks
        exact ⟨fun hdver hok => next_of_eq hchecks (launchChecked_ok hdver hok),
          fun hdver hbad => next_of_eq hchecks (launchChecked_format hdver hbad),
          fun hdver => next_of_eq hchecks (launchChecked_version hdver)⟩
      · have hchecks := next_of_eq (exec_blocklaunch s)
          (packetBlocklaunch_checks hd hturn hver hlaunch hdesc hdone hun hdraft hin hread hres hlist hcount)
        exact next_of_eq hchecks (launchChecked_ok hdver hok)
  · intro j y
    refine ⟨fun a va cond value mask met hst hon => next_of_eq (exec_waitmemSatisfied s) (waitmemAgain_tests hst hon),
      fun k hlaunch hst hserved hfits => ?_⟩
    intro rooms
    refine ⟨fun res hplan hroom hheld => ⟨_, next_of_eq (exec_kernelAdmit s) ?_, admitted_frame s j _⟩, fun hheld => ?_⟩
    · exact admitKernel_admits hlaunch hst hserved hfits hplan hroom hheld
    · exact next_of_eq (exec_kernelAdmit s) (admitKernel_waits hlaunch hst hserved hfits hheld)
  · exact next_of_eq (exec_setBirth s hm) (setBirth_births hk hdue hplace hmasks)
  · exact next_of_eq (exec_successorEnqueue s) (serveOwed_none h)
  · intro u
    have serves {w : Owed} {t : State} (hw : o.what = w) (htry : tryOwed u w = some t) : exec .successorEnqueue s = .next t :=
      next_of_eq (exec_successorEnqueue s) (serveOwed_first ho hpage (hw ▸ htry))
    refine ⟨fun c ctr succ tq n s1 b hw hq hin hread => serves hw (tryOwed_successor hq hin hread), fun c ctr tq b begun hw => ?_,
      fun c cons b hw hq hroom => serves hw (tryOwed_batch hq hroom)⟩
    exact ⟨fun hq hroom => serves hw (tryOwed_packets hq hroom), fun hq hsome hfew => serves hw (tryOwed_packets_part hq hsome hfew),
      fun hq => serves hw (tryOwed_packets_lost hq)⟩

end Sys2Proof.Laws.PacketsAndKernels
end

section
/-! SUPPORT. URDS and UWRS: what each special register reads as, which of them may be written, and the statement O5 (R132, R178). -/

namespace Sys2Proof.Laws.SpecialRegisters

open Sys2Proof.Machine Sys2Proof.Safety Sys2Proof.Laws

/-- A word of a wider register, by division. -/
theorem extractWord {n : Nat} (x : BitVec n) (k : Nat) : x.extractLsb' k 32 = BitVec.ofNat 32 (x.toNat / 2 ^ k) :=
  congrArg (BitVec.ofNat 32) (Nat.shiftRight_eq_div_pow x.toNat k)

/-- The numbers that name no special register of a group: sr.lane and those above sr.loc. -/
theorem specialRead_unlisted {c : SC} {n : Nat} (h : n = 0 ∨ n > 0x15) : specialRead c n = none := by
  unfold specialRead
  split
  case h_22 => rfl
  all_goals omega

theorem specialWritable_iff {n : Nat} : specialWritable n = true ↔ n ∈ [0x07, 0x08, 0x0D, 0x0E, 0x0F, 0x10, 0x11] := by
  simp [specialWritable, or_assoc]

section
variable {q : Taken} (ho : q.on)
include ho

/-- URDS of a listed number; that of sr.cycle latches the upper half of the count. -/
theorem uRds_listed {v : Word} (h : specialRead q.sc q.a = some v) : uRds q.sc = (q.s, .ok ([.result 2 [.s q.d ⟨v, false⟩]]
    ++ if q.a = 5 then [.latchCycle (BitVec.ofNat 32 ((getCore q.s (coreOf q.is.loc)).ck / 2 ^ 32))] else []) 0 []) := by
  have hg : scalarGuard q.sc = ⟨true, false⟩ := ho
  have h' : specialRead q.sc q.sc.a = some v := h
  have hw : uSlot (fun c => .ok ([.s c.d ⟨v, false⟩], 0)) q.sc = (q.s, .ok [.result 2 [.s q.d ⟨v, false⟩]] 0 []) := uSlot_on ho rfl
  simp only [uRds, h', hw, hg, Bool.and_true, Bool.not_false, decide_eq_true_eq]
  rfl

theorem uRds_unlisted (h : q.a = 0 ∨ q.a > 0x15) : uRds q.sc = (q.s, trapOf 2) := by
  have hg : scalarGuard q.sc = ⟨true, false⟩ := ho
  simp only [uRds, specialRead_unlisted (show q.sc.a = 0 ∨ q.sc.a > 0x15 from h), hg]
  rfl

/-- UWRS tests its register before its operand. -/
theorem uWrs_eq : uWrs q.sc = (q.s, if q.d ∉ [0x07, 0x08, 0x0D, 0x0E, 0x0F, 0x10, 0x11] then trapOf 2
    else if (q.s32 q.a).poison then trapOf 7 else .ok [.special q.d (q.s32 q.a).val] 0 []) := by
  rw [uWrs, QueueAndRecordSlots.consuming_on ho]
  refine congrArg (q.s, ·) (if_congr ?_ rfl rfl)
  rw [← specialWritable_iff, Bool.not_eq_true', Bool.not_eq_true]
  rfl

end

/-- Settles O5: each special register's reading, the latch of sr.cyclehi, and the writes. -/
theorem specialRegisterAccess : Obligations.SpecialRegisterAccess := by
  refine ⟨fun q h ho => ?_, fun q h ho => ⟨fun hd hp => ?_, fun hd hp => ?_, fun hd => ?_⟩⟩
  · intro g ck reads
    have hne : ∀ r ∈ reads, r.1 ≠ 5 := by simp [reads]
    have hread : ∀ r ∈ reads, specialRead q.sc r.1 = some r.2 := by
      simp only [reads, List.forall_mem_cons, List.not_mem_nil, false_imp_iff, implies_true, and_true, ← extractWord]
      exact ⟨rfl, rfl, rfl, rfl, rfl, rfl, rfl, rfl, rfl, rfl, rfl, rfl, rfl, rfl, rfl, rfl,
        congrArg some (BitVec.ofNat_toNat ..).symm, rfl, rfl, rfl⟩
    refine ⟨fun r hr ha => ?_, fun ha => ?_, fun ha => ?_⟩
    · have hrds := uRds_listed ho (ha ▸ hread r hr)
      rw [if_neg (ha ▸ hne r hr), List.append_nil] at hrds
      exact gives_of_ok h rfl (exec_urds q.w q.s) hrds
    · have hrds := uRds_listed ho (show specialRead q.sc q.a = some (BitVec.ofNat 32 ck) by rw [ha]; rfl)
      rw [if_pos ha] at hrds
      exact gives_of_ok h rfl (exec_urds q.w q.s) hrds
    · exact traps_of_trap h rfl (exec_urds q.w q.s) (uRds_unlisted ho ha)
  · exact gives_of_ok h rfl (exec_uwrs q.w q.s) (by rw [uWrs_eq ho, if_neg (not_not_intro hd), hp]; rfl)
  · exact traps_of_trap h rfl (exec_uwrs q.w q.s) (by rw [uWrs_eq ho, if_neg (not_not_intro hd), hp]; rfl)
  · exact traps_of_trap h rfl (exec_uwrs q.w q.s) (by rw [uWrs_eq ho, if_pos hd]; rfl)

end Sys2Proof.Laws.SpecialRegisters
end

section
/-! SUPPORT. Branches: their targets, what each answers under its guard and condition, the register that CHK tests, and the statement O32
(R155-R161). -/

namespace Sys2Proof.Laws.Branches

open Sys2Proof.Machine Sys2Proof.Safety Sys2Proof.Laws

/-! ## Targets (R155) -/

/-- A branch whose register operand is s(r) reaches `t`: its immediate leads there, or the pair is a clean legal address. -/
def Reaches (c : SC) (r t : Nat) : Prop :=
  match c.w.imm with
  | some x => (t : Int) = (c.is.baddr + 4 * x.toInt) % 2 ^ 57
  | none => spair c.g c.pt r = (t, false) ∧ t < 2 ^ 57 ∧ t % 4 = 0

theorem branchTarget_eq {c : SC} {t : Nat} (h : Reaches c c.b t) : branchTarget c = .ok t := by
  unfold Reaches at h
  cases himm : c.w.imm with
  | some x =>
    rw [himm] at h
    have ht : (((c.is.baddr : Int) + 4 * x.toInt) % ((2 ^ 57 : Nat) : Int)).toNat = t :=
      (congrArg Int.toNat h.symm).trans (Int.toNat_natCast t)
    simp only [branchTarget, himm, ofSigned, ht]
  | none =>
    rw [himm] at h
    obtain ⟨hpair, hlt, halign⟩ := h
    simp only [branchTarget, himm, hpair, if_neg (Nat.not_le.mpr hlt), halign, Bool.false_eq_true, ne_eq, not_true_eq_false, if_false]

/-! ## The guard and the condition (R156) -/

section
variable {c : SC} {off : SC → List Eff} {cond : SC → LaneMask} {f : SC → Nat → SlotRes}

theorem bBranch_poisoned (hg : (scalarGuard c).poison = true) : bBranch off cond f c = (c.s, trapOf 7) := by
  simp only [bBranch, pureM, hg, if_true]

theorem bBranch_off (hg : scalarGuard c = ⟨false, false⟩) : bBranch off cond f c = (c.s, .ok (off c ++ [windowNot]) 0 []) := by
  simp only [bBranch, pureM, hg, Bool.not_false, Bool.false_eq_true, if_false, if_true]

theorem bBranch_condPoisoned (hg : scalarGuard c = ⟨true, false⟩) (hc : cond c ≠ 0) :
    bBranch off cond f c = (c.s, trapOf 7 0 (cond c)) := by
  simp only [bBranch, pureM, hg, Bool.not_true, Bool.false_eq_true, if_false, bne_iff_ne, ne_eq, hc, not_false_eq_true, if_true]

theorem bBranch_on {t : Nat} (hg : scalarGuard c = ⟨true, false⟩) (hc : cond c = 0) (ht : branchTarget c = .ok t) :
    bBranch off cond f c = (c.s, f c t) := by
  simp only [bBranch, pureM, hg, hc, ht, Bool.not_true, Bool.false_eq_true, if_false, bne_self_eq_false]

end

/-! ## Windows and lanes (R157, R158) -/

/-- The window of a branch, taken or not. -/
theorem windowTo_eq (taken : Bool) (t : Nat) :
    windowTo taken t = .window { left := 3, taken := taken, target := if taken then t else 0 } := by
  cases taken <;> rfl

/-- What RET's meaning reads: its target stands in s(a), and it has no immediate (R160). -/
def retOperands (c : SC) : SC := { c with w := { c.w with b := c.w.a, imm := none } }

/-- The lanes of the path whose bit in p(a) is 1, and the others. -/
def side1 (q : Taken) : LaneMask := q.path.mask &&& (preg q.g q.a).val
def side0 (q : Taken) : LaneMask := q.path.mask &&& ~~~side1 q

/-- The token of the region that a BRD opens (R144). -/
def regionToken (q : Taken) : Word := BitVec.ofNat 32 (q.is.baddr / 4 % 2 ^ 26 * 64 + q.path.depth + 1)

theorem brcAny_holds (q : Taken) (m : Nat) : brcHolds 0 (lanesOf (side1 q)).length m = decide (lanesOf (side1 q) ≠ []) :=
  decide_eq_decide.mpr List.length_pos_iff

theorem brcAll_holds (q : Taken) (m : Nat) : brcHolds 1 (lanesOf (side1 q)).length m = decide ((lanesOf (side1 q)).length = m) :=
  beq_eq_decide _ _

theorem brcNone_holds (q : Taken) (m : Nat) : brcHolds 2 (lanesOf (side1 q)).length m = decide (lanesOf (side1 q) = []) :=
  (beq_eq_decide _ _).trans (decide_eq_decide.mpr List.length_eq_zero_iff)

section
variable {q : Taken} {t : Nat} (ho : q.on) (hpred : q.path.mask &&& (preg q.g q.a).poison = 0) (ht : Reaches q.sc q.b t)
include ho hpred ht

/-- BRC with a clean predicate opens the window that its mode tells. -/
theorem bBrc_window (mode : Nat) {taken : Bool} (hmode : brcHolds mode (lanesOf (side1 q)).length (lanesOf q.path.mask).length = taken) :
    bBrc mode q.sc = (q.s, .ok [.window { left := 3, taken := taken, target := if taken then t else 0 }] 0 []) := by
  subst hmode
  rw [← windowTo_eq]
  exact bBranch_on ho hpred (branchTarget_eq ht)

/-- BRD with a clean predicate opens a region where it has lanes on both sides and the depth allows it. -/
theorem bBrd_eq : bBrd q.sc = (q.s,
    if side0 q = 0 ∨ side1 q = 0 then .ok [.result 2 [.s q.d ⟨0, false⟩], windowTo (decide (side1 q ≠ 0)) t] 0 []
    else if q.path.depth = 32 then trapOf 9
    else .ok [.result 2 [.s q.d ⟨regionToken q, false⟩], .openRegion (regionToken q) (side0 q) (side1 q) t,
      .window { left := 3, taken := true, target := t, fork := true }] 0 []) := by
  have htoken : brdToken q.sc = regionToken q := by simp only [brdToken, ModuleEvents.fld_eq_div]; rfl
  have hsides : (decide (side0 q = 0) || decide (side1 q = 0)) = true ↔ side0 q = 0 ∨ side1 q = 0 := by
    rw [Bool.or_eq_true, decide_eq_true_eq, decide_eq_true_eq]
  have htaken : (side1 q != 0) = decide (side1 q ≠ 0) := Bool.eq_iff_iff.mpr (by rw [bne_iff_ne, decide_eq_true_eq])
  rw [← htoken, ← htaken]
  exact (bBranch_on ho hpred (branchTarget_eq ht)).trans (congrArg (q.s, ·) (if_congr hsides rfl rfl))

end

/-! ## CHK (R161) -/

/-- A lane predicate is poisoned for the path where one of the path's lanes is. -/
theorem predPoison_any (c : SC) (p : Nat) :
    (predPoison c p != 0) = (lanesOf c.pt.mask).any fun l => (preg c.g p).poison.getLsbD l := by
  have hbit (l : Nat) : (predPoison c p).getLsbD l = (c.pt.mask.getLsbD l && (preg c.g p).poison.getLsbD l) := BitVec.getLsbD_and
  rw [Bool.eq_iff_iff, bne_iff_ne, List.any_eq_true]
  constructor
  · intro hne
    by_contra hnone
    refine hne (BitVec.eq_of_getLsbD_eq fun l _ => ?_)
    rw [hbit, show BitVec.getLsbD 0 l = false from BitVec.getLsbD_zero]
    refine Bool.eq_false_iff.mpr fun hl => hnone ?_
    obtain ⟨hm, hp⟩ := Bool.and_eq_true_iff.mp hl
    exact ⟨l, mem_lanesOf.mpr hm, hp⟩
  · rintro ⟨l, hl, hp⟩ hzero
    have hl' := hbit l
    rw [hzero, mem_lanesOf.mp hl, hp, show BitVec.getLsbD 0 l = false from BitVec.getLsbD_zero] at hl'
    exact Bool.false_ne_true hl'

/-- Whether the register that CHK tests is poisoned. -/
def chkTest (c : SC) : Bool :=
  match c.d % 4 with
  | 0 => (lanesOf c.pt.mask).any fun l => (vreg c.g c.a l).poison
  | 1 => (sreg c.g c.pt c.a).poison
  | 2 => predPoison c c.a != 0
  | _ => (spreg c.g c.pt c.a).poison

theorem bChk_on {c : SC} {t : Nat} (hg : scalarGuard c = ⟨true, false⟩) (ht : Reaches c c.b t) :
    bChk c = (c.s, .ok [windowTo (chkTest c) t] 0 []) := bBranch_on hg rfl (branchTarget_eq ht)

section
variable {c : SC} {live : SC → Bool} {us : SC → List RegUse} {m : Meaning}
  (hv : live c = true → ∀ u ∈ us c, u.kind = .v → u.first + u.cnt ≤ 8 * c.g.blocks) (hp : ∀ u ∈ us c, pendingUse c.g c.pt u = false)
include hv hp

/-- Registers beyond the form's fields that are legal and not pending leave the slot to its meaning. -/
theorem withUsesIf_checks : (live c && (us c).any fun u => decide (u.kind = .v) && decide (u.first + u.cnt > 8 * c.g.blocks)) = false
    ∧ (us c).any (pendingUse c.g c.pt) = false := by
  refine ⟨Bool.eq_false_iff.mpr ?_, List.any_eq_false.mpr fun u hu => Bool.eq_false_iff.mp (hp u hu)⟩
  simpa using hv

theorem withUsesIf_ok {s : State} {effs : List Eff} {flags : BitVec 6} (h : m c = (s, .ok effs flags [])) :
    withUsesIf live us m c = (s, .ok effs flags (us c)) := by
  obtain ⟨hlegal, hidle⟩ := withUsesIf_checks hv hp
  simp only [withUsesIf, hlegal, hidle, h, Bool.false_eq_true, if_false, List.append_nil]

theorem withUsesIf_trap {s : State} {i : TrapInfo} (h : m c = (s, .trap i)) : withUsesIf live us m c = (s, .trap i) := by
  obtain ⟨hlegal, hidle⟩ := withUsesIf_checks hv hp
  simp only [withUsesIf, hlegal, hidle, h, Bool.false_eq_true, if_false]

end

/-- D of a CHK names one of four kinds. -/
theorem chk_kind {q : Taken} (h : q.ready (.chk q.w)) : q.d = 0 ∨ q.d = 1 ∨ q.d = 2 ∨ q.d = 3 := by
  obtain ⟨hslot, -, -, hok, -⟩ := h
  have hform : formChk = q.f := congrArg Prod.fst (Option.some.inj hslot)
  simp only [← hform, slotOk, Bool.and_eq_true] at hok
  obtain ⟨⟨⟨⟨hd, -⟩, -⟩, -⟩, -⟩ := hok
  have hlt : q.d < 4 := of_decide_eq_true hd
  omega

/-- Its register is one that the group holds. -/
theorem chkUses_held {q : Taken} (h : q.ready (.chk q.w)) (ha : q.d = 0 → q.a < 8 * q.g.blocks) :
    ∀ u ∈ chkUses q.sc, u.kind = .v → u.first + u.cnt ≤ 8 * q.g.blocks := by
  have hd : q.sc.d = q.d := rfl
  intro u hu hk
  rcases chk_kind h with h0 | h1 | h2 | h3
  · simp only [chkUses, hd, h0, List.mem_singleton] at hu
    subst hu
    exact ha h0
  · simp only [chkUses, hd, h1, List.mem_singleton] at hu
    simp [hu] at hk
  · simp only [chkUses, hd, h2] at hu
    split at hu <;> simp_all
  · simp only [chkUses, hd, h3] at hu
    split at hu <;> simp_all

/-- Settles O32: each branch is `bBranch` with its condition and its windows, and CHK one more use. -/
theorem branchWindows : Obligations.BranchWindows := by
  refine ⟨fun q => ?_, fun q h t => ?_⟩
  · intro m reaches window yes all forms
    refine ⟨fun i hi h hg => ?_, fun hg => ⟨fun i hi h => ?_, fun h => ?_⟩, fun ho t => ⟨fun h ht => ?_, fun h ht => ?_,
      fun h hpair hlt halign => ?_, fun hpred ht => ?_, fun hpred i hi h => ?_⟩⟩
    · simp only [forms, List.mem_cons, List.not_mem_nil, or_false] at hi
      rcases hi with rfl | rfl | rfl | rfl | rfl | rfl | rfl | rfl
      · exact traps_of_trap h rfl (exec_bra q.w q.s) (bBranch_poisoned hg)
      · exact traps_of_trap h rfl (exec_brcAny q.w q.s) (bBranch_poisoned hg)
      · exact traps_of_trap h rfl (exec_brcAll q.w q.s) (bBranch_poisoned hg)
      · exact traps_of_trap h rfl (exec_brcNone q.w q.s) (bBranch_poisoned hg)
      · exact traps_of_trap h rfl (exec_brcNall q.w q.s) (bBranch_poisoned hg)
      · exact traps_of_trap h rfl (exec_brd q.w q.s) (bBranch_poisoned hg)
      · exact traps_of_trap h rfl (exec_call q.w q.s) (bBranch_poisoned hg)
      · exact traps_of_trap h rfl (exec_ret q.w q.s) (bBranch_poisoned (c := retOperands q.sc) hg)
    · simp only [List.mem_cons, List.not_mem_nil, or_false] at hi
      rcases hi with rfl | rfl | rfl | rfl | rfl | rfl | rfl
      · exact gives_of_ok h rfl (exec_bra q.w q.s) (bBranch_off hg)
      · exact gives_of_ok h rfl (exec_brcAny q.w q.s) (bBranch_off hg)
      · exact gives_of_ok h rfl (exec_brcAll q.w q.s) (bBranch_off hg)
      · exact gives_of_ok h rfl (exec_brcNone q.w q.s) (bBranch_off hg)
      · exact gives_of_ok h rfl (exec_brcNall q.w q.s) (bBranch_off hg)
      · exact gives_of_ok h rfl (exec_call q.w q.s) (bBranch_off hg)
      · exact gives_of_ok h rfl (exec_ret q.w q.s) (bBranch_off (c := retOperands q.sc) hg)
    · exact gives_of_ok h rfl (exec_brd q.w q.s) (bBranch_off hg)
    · exact gives_of_ok h rfl (exec_bra q.w q.s) (bBranch_on ho rfl (branchTarget_eq ht))
    · exact gives_of_ok h rfl (exec_call q.w q.s) (bBranch_on ho rfl (branchTarget_eq ht))
    · exact gives_of_ok h rfl (exec_ret q.w q.s)
        (bBranch_on (c := retOperands q.sc) ho rfl (branchTarget_eq ⟨hpair, hlt, halign⟩))
    · refine ⟨fun h => ?_, fun h => ?_, fun h => ?_, fun h => ?_, fun h => ?_⟩
      · exact gives_of_ok h rfl (exec_brcAny q.w q.s) (bBrc_window ho hpred ht 0 (brcAny_holds q _))
      · exact gives_of_ok h rfl (exec_brcAll q.w q.s) (bBrc_window ho hpred ht 1 (brcAll_holds q _))
      · exact gives_of_ok h rfl (exec_brcNone q.w q.s) (bBrc_window ho hpred ht 2 (brcNone_holds q _))
      · exact gives_of_ok h rfl (exec_brcNall q.w q.s) (bBrc_window ho hpred ht 3 rfl)
      · intro m1 m0 tok
        have hbrd := bBrd_eq ho hpred ht
        refine ⟨fun hside => ?_, fun h0 h1 hdepth => ?_, fun h0 h1 hdepth => ?_⟩
        · rw [if_pos (show side0 q = 0 ∨ side1 q = 0 from hside), windowTo_eq] at hbrd
          exact gives_of_ok h rfl (exec_brd q.w q.s) hbrd
        · rw [if_neg (show ¬(side0 q = 0 ∨ side1 q = 0) from not_or.mpr ⟨h0, h1⟩), if_neg hdepth.ne] at hbrd
          exact gives_of_ok h rfl (exec_brd q.w q.s) hbrd
        · rw [if_neg (show ¬(side0 q = 0 ∨ side1 q = 0) from not_or.mpr ⟨h0, h1⟩), if_pos hdepth] at hbrd
          exact traps_of_trap h rfl (exec_brd q.w q.s) hbrd
    · simp only [List.mem_cons, List.not_mem_nil, or_false] at hi
      rcases hi with rfl | rfl | rfl | rfl | rfl
      · exact traps_of_trap h rfl (exec_brcAny q.w q.s) (bBranch_condPoisoned ho hpred)
      · exact traps_of_trap h rfl (exec_brcAll q.w q.s) (bBranch_condPoisoned ho hpred)
      · exact traps_of_trap h rfl (exec_brcNone q.w q.s) (bBranch_condPoisoned ho hpred)
      · exact traps_of_trap h rfl (exec_brcNall q.w q.s) (bBranch_condPoisoned ho hpred)
      · exact traps_of_trap h rfl (exec_brd q.w q.s) (bBranch_condPoisoned ho hpred)
  · intro reaches kind us poisoned ha hpend
    have hd : q.sc.d = q.d := rfl
    have huses : chkUses q.sc = us := by
      rcases chk_kind h with h0 | h0 | h0 | h0 <;> simp [chkUses, us, kind, hd, h0] <;> rfl
    have htest : chkTest q.sc = poisoned := by
      rcases chk_kind h with h0 | h0 | h0 | h0 <;> simp only [chkTest, poisoned, hd, h0, predPoison_any] <;> rfl
    rw [← huses] at hpend ⊢
    refine ⟨fun hg => ?_, fun hheld => ⟨fun hg => ?_, fun ho ht => ?_⟩⟩
    · have hdead : ¬(scalarGuard q.sc).val = true := by simp [hg]
      exact gives_of_ok h rfl (exec_chk q.w q.s) (withUsesIf_ok (absurd · hdead) hpend (bBranch_off hg))
    · exact traps_of_trap h rfl (exec_chk q.w q.s) (withUsesIf_trap (fun _ => chkUses_held h hheld) hpend (bBranch_poisoned hg))
    · rw [← htest, ← windowTo_eq]
      exact gives_of_ok h rfl (exec_chk q.w q.s) (withUsesIf_ok (fun _ => chkUses_held h hheld) hpend (bChk_on ho ht))

end Sys2Proof.Laws.Branches
end

section
/-! SUPPORT. An H slot that ends a bundle which its group's image could not hold, and the statement O33, which fails on it (R62, R396). -/

namespace Sys2Proof.Laws.PathControl

open Sys2Proof.Machine Sys2Proof.Safety Sys2Proof.Laws

/-- An H slot that ends a bundle whose effects would take its group above the limits of a group image holds the bundle (R396). -/
theorem exec_hSlot_full {s : State} {is : Issue} {g : Group} (gap : BitVec 5) (gw mb : Bool) (hcur : s.cur = some is)
    (hg : getGroup s is.loc = some g) (habove : is.above ≤ 12)
    (hfull : dumpFull g ((is.effs ++ [(is.idx, Eff.hint gap.toNat gw)]).map (·.2)) = true) :
    exec (.hSlot true gap gw mb) s = .next (holdSlot s is false) := by
  have hrun : exec (.hSlot true gap gw mb) s = runHint true gap gw s := rfl
  simp only [hrun, runHint, hcur, hg, closeSlot, hfull, if_neg (Nat.not_lt.mpr habove), if_true]

/-- A store that has not performed. -/
def pendingStore : MemEntry :=
  { kind := .write, mask := 1, pond := false, size := 4, lanes := [], baddr := 0, word := 0, modw := 0, scope := 1, cached := false }

/-- A group with as many of them as its image holds (R396). -/
def storingGroup : Group := { p0 := { st := .live, mask := 1 }, macc := List.replicate 64 pendingStore }

/-- A bundle of a FENCE, which has been taken, and an H slot. -/
def fencedBundle : Issue :=
  { loc := 0, path := 0, baddr := 0, words := [0xE0000000], idx := 1, len := 2, above := 4, effs := [(0, .fence 4 false)], flags := 0, uses := [] }

/-- The reset state with that bundle open in that group. -/
def fencedState : State := { State.reset with groups := [(0, some storingGroup)], cur := some fencedBundle }

/-- The bundle after an H slot with no hint. -/
def hintedBundle : Issue := { fencedBundle with words := [], idx := 2, above := 13, effs := [(0, .fence 4 false), (1, .hint 0 false)] }

/-- The FENCE would be the group's 65th access. -/
theorem fence_exceeds_image : dumpFull storingGroup (hintedBundle.effs.map (·.2)) = true := by decide

/-- Held, the bundle stays where it is. -/
theorem pc_of_hold : (getGroup (holdSlot fencedState fencedBundle false) 0).map (fun g => g.p0.pc) = some 0 := by decide

/-- Committed, the path would go past it. -/
theorem pc_of_commit : (getGroup (commit fencedState hintedBundle) 0).map (fun g => g.p0.pc) = some 8 := by decide

/-- Refutes O33: it says that an H slot with the stop bit commits its bundle, whatever the bundle has done before. A FENCE and such an H slot in a
group with 64 unperformed accesses are held instead, since the group's image could not hold the FENCE (R396). A premise
`dumpFull g (next.effs.map (·.2)) = false` is missing. -/
theorem not_pathControl : ¬ Obligations.PathControl := by
  intro hall
  obtain ⟨-, -, hhint⟩ := hall
  obtain ⟨hcommits, -⟩ := hhint fencedState fencedBundle storingGroup true 0 false false rfl rfl (by decide)
  have hheld := exec_hSlot_full (s := fencedState) 0 false false rfl rfl (by decide) fence_exceeds_image
  have hsame : commit fencedState hintedBundle = holdSlot fencedState fencedBundle false :=
    Host.Outcome.next.inj ((hcommits rfl).symm.trans hheld)
  have hpc := pc_of_commit
  rw [hsame, pc_of_hold] at hpc
  exact absurd hpc (by decide)

end Sys2Proof.Laws.PathControl
end

section
/-! SUPPORT. RBREL, RBCLAIM, BANKMODE, PRPUB, POSEW, TRACEMARK and ENRD: what each answers where its guard is 1, and the statement O35
(R141, R142, R214, R215, R441-R443, R490, R495). -/

namespace Sys2Proof.Laws

open Sys2Proof.Machine Sys2Proof.Safety

/-- A ready slot that must wait for a counter, token, barrier, FIFO or claim holds its bundle as waiting. -/
theorem holds_of_wait {q : Taken} {i : Instr} {f : Form} {cls : Nat} {w : Slot} {m : Meaning} {s' : State} (h : q.ready i)
    (hi : slotOf i = some (f, cls, w)) (hx : exec i q.s = runSlot f cls w m q.s) (hm : m q.sc = (s', .wait)) :
    exec i q.s = .next (holdSlot s' q.is true) := by
  obtain ⟨rfl, rfl, rfl⟩ : f = q.f ∧ cls = q.cls ∧ w = q.w := by simpa [hi] using h.1
  obtain ⟨-, hcur, hg, -⟩ := id h
  rw [hx]
  simp only [runSlot, hcur, hg]
  rw [slotStep_ready q i m h, hm]
  rfl

end Sys2Proof.Laws

namespace Sys2Proof.Laws.BlocksBanksAndTraces

open Sys2Proof.Machine Sys2Proof.Safety Sys2Proof.Laws

/-- The slot's group has one path, at depth 0 (R141). -/
abbrev Alone (q : Taken) : Prop := q.path.depth = 0 ∧ (pathAt q.g (1 - q.is.path)).st = .empty

/-- The slot's operand as a number. -/
abbrev count (q : Taken) : Nat := (q.uy true).val.toNat

/-- RBREL and RBCLAIM refuse a group with more than one path, no block, and a number out of bounds (R141, R142). -/
theorem refused_iff {q : Taken} {n : Nat} {P : Prop} [Decidable P] :
    (!onePath q.sc || decide (n = 0) || decide P) = true ↔ ¬Alone q ∨ n = 0 ∨ P := by
  have hone : onePath q.sc = true ↔ Alone q := by
    rw [onePath, Bool.and_eq_true, beq_iff_eq, beq_iff_eq]
    rfl
  rw [Bool.or_eq_true, Bool.or_eq_true, decide_eq_true_eq, decide_eq_true_eq, or_assoc, Bool.not_eq_true', ← Bool.not_eq_true, hone]

theorem not_refused {q : Taken} {n : Nat} {P : Prop} (hone : Alone q) (hlo : 0 < n) (hP : ¬P) : ¬(¬Alone q ∨ n = 0 ∨ P) :=
  not_or.mpr ⟨not_not_intro hone, not_or.mpr ⟨hlo.ne', hP⟩⟩

/-- The registers of the group's highest `n` blocks. -/
abbrev topBlocks (g : Group) (n : Nat) : List RegUse := [⟨.v, 8 * (g.blocks - n), 8 * n, true⟩]

/-- The claims that wait at the slot's sequencer. -/
abbrev claims (q : Taken) : List Claim := (getSeq q.s (seqOf q.is.loc)).claims

/-- The blocks that a claim of the slot's path may take at once (R142). -/
abbrev available (q : Taken) : Nat := freeBlocks q.s (seqOf q.is.loc) + q.path.granted

/-- A claim of the slot's path waits. -/
abbrev Claimed (q : Taken) : Prop := ∃ k ∈ claims q, k.loc = q.is.loc ∧ k.path = q.is.path

theorem claimed_iff {q : Taken} : ((claims q).any fun k => k.loc == q.is.loc && k.path == q.is.path) = true ↔ Claimed q := by
  simp only [List.any_eq_true, Bool.and_eq_true, beq_iff_eq]

/-- The state in which the slot's claim waits behind those before it (R142). -/
def claiming (q : Taken) : State :=
  putSeq q.s (seqOf q.is.loc) { getSeq q.s (seqOf q.is.loc) with
    claims := claims q ++ [⟨q.is.loc, q.is.path, count q, q.is.idx, q.is.len⟩] }

section
variable {q : Taken} (ho : q.on)
include ho

/-! ## Blocks (R141, R142) -/

theorem zRbrel_eq : zRbrel q.sc = (q.s,
    if ¬Alone q ∨ count q = 0 ∨ count q ≥ q.g.blocks then trapOf 2
    else if (q.is.uses ++ usesOf q.f q.w).any fun u => (topBlocks q.g (count q)).any (usesMeet u) then trapOf 2
    else if (q.uy true).poison then trapOf 7
    else if (topBlocks q.g (count q)).any (pendingUse q.g q.path) then .hold
    else .ok [.blocksRel (count q)] 0 (topBlocks q.g (count q))) := by
  rw [zRbrel, QueueAndRecordSlots.consuming_on ho]
  simp only [pureM, uB_sc]
  exact congrArg (q.s, ·) (if_congr refused_iff rfl rfl)

theorem zRbclaim_eq : zRbclaim q.sc =
    if ¬Alone q ∨ count q = 0 ∨ q.g.blocks + count q > 8 then (q.s, trapOf 2)
    else if (q.uy true).poison then (q.s, trapOf 7)
    else if q.path.granted = count q then (q.s, .ok [.blocksClaim (count q)] 0 [])
    else if Claimed q then (q.s, .wait)
    else if claims q = [] ∧ count q ≤ available q then (q.s, .ok [.blocksClaim (count q)] 0 [])
    else (claiming q, .wait) := by
  have hfree : ((claims q).isEmpty && decide (count q ≤ available q)) = true ↔ claims q = [] ∧ count q ≤ available q := by
    rw [Bool.and_eq_true, List.isEmpty_iff, decide_eq_true_eq]
  rw [zRbclaim, QueueAndRecordSlots.consuming_on ho]
  simp only [uB_sc]
  exact if_congr refused_iff rfl (if_congr Iff.rfl rfl (if_congr Iff.rfl rfl (if_congr claimed_iff rfl (if_congr hfree rfl rfl))))

/-- A claim that its path was granted before, or that finds no claim before it and enough free blocks, is taken. -/
theorem zRbclaim_granted (hone : Alone q) (hlo : 0 < count q) (hhi : q.g.blocks + count q ≤ 8) (hp : (q.uy true).poison = false)
    (h : q.path.granted = count q ∨ claims q = [] ∧ count q ≤ available q) : zRbclaim q.sc = (q.s, .ok [.blocksClaim (count q)] 0 []) := by
  rw [zRbclaim_eq ho, if_neg (not_refused hone hlo (Nat.not_lt.mpr hhi)), if_neg (Bool.eq_false_iff.mp hp)]
  rcases h with h | ⟨hnone, hfree⟩
  · rw [if_pos h]
  · have hunclaimed : ¬Claimed q := by simp [hnone]
    rw [if_neg hunclaimed, if_pos (show claims q = [] ∧ count q ≤ available q from ⟨hnone, hfree⟩), ite_self]

/-- A claim without a grant waits in its place, which it takes the first time. -/
theorem zRbclaim_waits (hone : Alone q) (hlo : 0 < count q) (hhi : q.g.blocks + count q ≤ 8) (hp : (q.uy true).poison = false)
    (hungranted : q.path.granted ≠ count q) (h : Claimed q ∨ claims q ≠ [] ∨ count q > available q) :
    zRbclaim q.sc = (if Claimed q then q.s else claiming q, .wait) := by
  rw [zRbclaim_eq ho, if_neg (not_refused hone hlo (Nat.not_lt.mpr hhi)), if_neg (Bool.eq_false_iff.mp hp), if_neg hungranted]
  by_cases hmine : Claimed q
  · rw [if_pos hmine, if_pos hmine]
  · have hlate : ¬(claims q = [] ∧ count q ≤ available q) := by
      rw [not_and_or, Nat.not_le]
      exact h.resolve_left hmine
    rw [if_neg hmine, if_neg hlate, if_neg hmine]

/-! ## Bank modes (R214, R215) -/

theorem zBankmode_eq (hlt : count q < 1024) (hz : count q / 32 % 8 = 0) (h3 : count q / 256 = 3 → count q % 32 = 0)
    (hp : (q.uy true).poison = false) : zBankmode q.sc = (q.s,
    if count q / 256 = 3 then (if fenceBehind q.s q.g then .hold else .ok [.bankFence] 0 [])
    else if count q % 32 ≥ (pondOf q.s q.g).2.length then trapOf 4
    else .ok [.bankMode (count q % 32) (count q / 256)] 0 []) := by
  have hmode : fld (count q) 9 8 = count q / 256 := (ModuleEvents.fld_eq_div (count q) 9 8).trans (Nat.mod_eq_of_lt (by omega))
  have hmid : fld (count q) 7 5 = 0 := (ModuleEvents.fld_eq_div (count q) 7 5).trans hz
  have hbank : fld (count q) 4 0 = count q % 32 := rfl
  have hlegal : ¬(decide (count q ≥ 1024) || fld (count q) 7 5 != 0 || (fld (count q) 9 8 == 3 && fld (count q) 4 0 != 0)) = true := by
    simpa [hmid, hmode, hbank, hlt] using h3
  rw [zBankmode, QueueAndRecordSlots.consuming_on ho, ← hmode, ← hbank]
  simp only [pureM, zB, uB_sc]
  exact congrArg (q.s, ·) ((if_neg hlegal).trans (if_neg (Bool.eq_false_iff.mp hp)))

/-! ## Publications, poses and trace slots (R441-R443, R490, R495) -/

theorem zPrpub_eq {va : Nat} (hva : spair q.g q.path q.a = (va, false)) (hp : (q.uy true).poison = false) (hlo : 0 < count q)
    (hhi : count q < 65536) : zPrpub q.sc = (q.s,
    if va ≥ 2 ^ 57 then trapOf 4 va else if va % 128 ≠ 0 then trapOf 3 va
    else if groupBusy q.g then .hold else .ok [.publish (count q) va q.d] 0 []) := by
  have hn : ¬(decide (count q = 0) || decide (count q ≥ 65536)) = true := by simp; omega
  have hva' : spair q.sc.g q.sc.pt q.sc.a = (va, false) := hva
  rw [zPrpub, QueueAndRecordSlots.consuming_on ho]
  simp only [pureM, uB_sc, hva', hp, if_neg hn, Bool.or_self, Bool.false_eq_true, if_false]
  rfl

theorem zPosew_eq (ha : q.a ≤ 48) (hhead : count q ≤ 15) (hp : (q.uy true).poison = false)
    (hwords : ∀ j < 16, (q.s32 (q.a + j)).poison = false) : zPosew q.sc = (q.s,
    if groupBusy q.g then .hold else .ok [.poseWrite (count q) ((List.range 16).map fun j => (q.s32 (q.a + j)).val) q.d] 0 []) := by
  have hlegal : ¬(decide (q.a > 48) || decide (count q > 15)) = true := by simp; omega
  have hclean : ¬((q.uy true).poison || ((List.range 16).map fun j => q.s32 (q.a + j)).any (·.poison)) = true := by
    simpa [hp] using hwords
  have hvals : ((List.range 16).map fun j => q.s32 (q.a + j)).map (·.val) = (List.range 16).map fun j => (q.s32 (q.a + j)).val :=
    List.map_map
  rw [zPosew, QueueAndRecordSlots.consuming_on ho, ← hvals]
  simp only [pureM, uB_sc]
  exact congrArg (q.s, ·) ((if_neg hlegal).trans (if_neg hclean))

theorem zTracemark_eq (hp : (q.uy true).poison = false) : zTracemark q.sc = (q.s, .ok [.mark (q.uy true).val] 0 []) := by
  rw [zTracemark, QueueAndRecordSlots.consuming_on ho]
  simp only [pureM, zB, uB_sc]
  exact congrArg (q.s, ·) (if_neg (Bool.eq_false_iff.mp hp))

theorem zEnrd_eq : zEnrd q.sc = (q.s, .ok [.enrd q.d] 0 []) := QueueAndRecordSlots.consuming_on ho _

end

/-- Settles O35: the cases of each form's answer. -/
theorem blocksBanksAndTraces : Obligations.BlocksBanksAndTraces := by
  intro q ho one y n seq
  have idle (h : q.g.macc = []) : groupBusy q.g = false := by simp [groupBusy, h]
  have busy (h : q.g.macc ≠ []) : groupBusy q.g = true := by simpa [groupBusy] using h
  refine ⟨fun h => ?_,
    fun h => ⟨fun hone hlo hhi hp hgrant => ?_, fun hone hlo hhi hp hungranted => ⟨fun hmine => ?_, fun hmine hlate => ?_⟩, fun hbad => ?_⟩,
    fun h hlt hz hp => ?_, fun h va hva hp hlo hhi => ?_, fun h ha hhead hp hwords => ?_, fun h hp => ?_, fun h => ?_⟩
  · intro us
    refine ⟨fun hone hlo hhi hp huses hpend => gives_of_ok h rfl (exec_rbrel q.w q.s) ?_, fun hbad => ?_⟩
    · rw [zRbrel_eq ho, if_neg (not_refused hone hlo (Nat.not_le.mpr hhi)), if_neg (Bool.eq_false_iff.mp huses),
        if_neg (Bool.eq_false_iff.mp hp), if_neg (Bool.eq_false_iff.mp hpend)]
    · exact traps_of_trap h rfl (exec_rbrel q.w q.s) (by rw [zRbrel_eq ho, if_pos hbad]; rfl)
  · exact gives_of_ok h rfl (exec_rbclaim q.w q.s) (zRbclaim_granted ho hone hlo hhi hp hgrant)
  · exact holds_of_wait h rfl (exec_rbclaim q.w q.s)
      (by rw [zRbclaim_waits ho hone hlo hhi hp hungranted (.inl hmine), if_pos hmine])
  · exact holds_of_wait h rfl (exec_rbclaim q.w q.s)
      (by rw [zRbclaim_waits ho hone hlo hhi hp hungranted (.inr hlate), if_neg hmine]; rfl)
  · exact traps_of_trap h rfl (exec_rbclaim q.w q.s) (by rw [zRbclaim_eq ho, if_pos hbad]; rfl)
  · refine ⟨fun hn hfence => ?_, fun hmode hbank => ?_, fun hmode hbank => ?_⟩
    · have hmode : count q / 256 = 3 := by rw [show count q = 768 from hn]
      have hbank : count q % 32 = 0 := by rw [show count q = 768 from hn]
      exact gives_of_ok h rfl (exec_bankmode q.w q.s)
        (by rw [zBankmode_eq ho hlt hz (fun _ => hbank) hp, if_pos hmode, hfence]; rfl)
    · exact gives_of_ok h rfl (exec_bankmode q.w q.s)
        (by rw [zBankmode_eq ho hlt hz (absurd · hmode.ne) hp, if_neg hmode.ne, if_neg (Nat.not_le.mpr hbank)])
    · exact traps_of_trap h rfl (exec_bankmode q.w q.s)
        (by rw [zBankmode_eq ho hlt hz (absurd · hmode.ne) hp, if_neg hmode.ne, if_pos hbank]; rfl)
  · have hpub := zPrpub_eq ho hva hp hlo hhi
    refine ⟨fun hlt halign hm => ?_, fun hlt halign hm => ?_, fun hlt => ?_, fun hlt halign => ?_⟩
    · exact gives_of_ok h rfl (exec_prpub q.w q.s)
        (by rw [hpub, if_neg (Nat.not_le.mpr hlt), if_neg (not_not_intro halign), idle hm]; rfl)
    · exact holds_of_hold h rfl (exec_prpub q.w q.s)
        (by rw [hpub, if_neg (Nat.not_le.mpr hlt), if_neg (not_not_intro halign), busy hm]; rfl)
    · exact traps_of_trap h rfl (exec_prpub q.w q.s) (by rw [hpub, if_pos hlt]; rfl)
    · exact traps_of_trap h rfl (exec_prpub q.w q.s) (by rw [hpub, if_neg (Nat.not_le.mpr hlt), if_pos halign]; rfl)
  · have hpose := zPosew_eq ho ha hhead hp hwords
    exact ⟨fun hm => gives_of_ok h rfl (exec_posew q.w q.s) (by rw [hpose, idle hm]; rfl),
      fun hm => holds_of_hold h rfl (exec_posew q.w q.s) (by rw [hpose, busy hm]; rfl)⟩
  · exact gives_of_ok h rfl (exec_tracemark q.w q.s) (zTracemark_eq ho hp)
  · exact gives_of_ok h rfl (exec_enrd q.w q.s) (zEnrd_eq ho)

end Sys2Proof.Laws.BlocksBanksAndTraces
end

section
/-! SUPPORT. The integer operations of the machine as the arithmetic that R171 to R174 write out: shifts, minima, bit fields, counts,
comparisons, carries and clamping. -/

namespace Sys2Proof.Laws.IntegerArithmetic

open Sys2Proof.Machine Sys2Proof.Safety

/-! ## Shifts (R171) -/

theorem shl_eq_shiftLeft (x y : Word) : shl x y = shiftLeft x y := by
  refine if_congr Iff.rfl rfl (BitVec.eq_of_toNat_eq ?_)
  rw [BitVec.toNat_shiftLeft, Nat.shiftLeft_eq, BitVec.toNat_ofNat]

theorem shr_eq_shiftRight (x y : Word) : shr x y = shiftRight x y := by
  refine if_congr Iff.rfl rfl (BitVec.eq_of_toNat_eq ?_)
  have hle := Nat.div_le_self x.toNat (2 ^ (y.toNat % 256))
  rw [BitVec.toNat_ushiftRight, Nat.shiftRight_eq_div_pow, BitVec.toNat_ofNat, Nat.mod_eq_of_lt (hle.trans_lt x.isLt)]

/-- An arithmetic shift is a division that rounds down. -/
theorem sshiftRight_eq_ofInt (x : Word) (n : Nat) : x.sshiftRight n = BitVec.ofInt 32 (x.toInt / 2 ^ n) := by
  rw [BitVec.sshiftRight, Int.shiftRight_eq_div_pow]
  rfl

/-- A shift by 31 leaves the sign alone. -/
theorem sshiftRight_31 (x : Word) : x.sshiftRight 31 = if x.msb then 0xFFFFFFFF else 0 := by
  have hlo := BitVec.le_toInt x
  have hhi := BitVec.toInt_lt (x := x)
  rw [sshiftRight_eq_ofInt, BitVec.msb_eq_toInt, ← Bool.cond_eq_ite]
  by_cases hneg : x.toInt < 0
  · rw [decide_eq_true hneg, show x.toInt / 2 ^ 31 = -1 by omega]
    rfl
  · rw [decide_eq_false hneg, show x.toInt / 2 ^ 31 = 0 by omega]
    rfl

theorem sar_eq_shiftArith (x y : Word) : sar x y = shiftArith x y := by
  have hsar : sar x y = x.sshiftRight (min (y.toNat % 256) 31) := rfl
  rw [hsar, shiftArith]
  split
  next hbig => rw [Nat.min_eq_right (by omega), sshiftRight_31]
  next hsmall => rw [Nat.min_eq_left (by omega), sshiftRight_eq_ofInt]

/-! ## Minima and maxima (R171) -/

/-- Of two words with one key each is the lesser and each the greater. -/
theorem ite_lt_eq_ite_le {α β : Type} [LinearOrder β] {key : α → β} (hinj : Function.Injective key) (x y : α) :
    (if key x < key y then x else y) = if key x ≤ key y then x else y := by
  rcases lt_trichotomy (key x) (key y) with h | h | h
  · rw [if_pos h, if_pos h.le]
  · rw [hinj h, if_pos le_rfl, ite_self]
  · rw [if_neg h.asymm, if_neg h.not_ge]

theorem ite_lt_swap {α β : Type} [LinearOrder β] (key : α → β) (x y : α) :
    (if key x < key y then y else x) = if key y ≤ key x then x else y := by
  rw [← ite_not]
  exact if_congr not_lt rfl rfl

theorem toInt_injective : Function.Injective (BitVec.toInt : Word → Int) := fun _ _ => BitVec.eq_of_toInt_eq
theorem toNat_injective : Function.Injective (BitVec.toNat : Word → Nat) := fun _ _ => BitVec.eq_of_toNat_eq

theorem minS_eq (x y : Word) : minS x y = if x.toInt ≤ y.toInt then x else y :=
  (if_congr decide_eq_true_iff rfl rfl).trans (ite_lt_eq_ite_le toInt_injective x y)
theorem minU_eq (x y : Word) : minU x y = if x.toNat ≤ y.toNat then x else y :=
  (if_congr decide_eq_true_iff rfl rfl).trans (ite_lt_eq_ite_le toNat_injective x y)
theorem maxS_eq (x y : Word) : maxS x y = if y.toInt ≤ x.toInt then x else y :=
  (if_congr decide_eq_true_iff rfl rfl).trans (ite_lt_swap BitVec.toInt x y)
theorem maxU_eq (x y : Word) : maxU x y = if y.toNat ≤ x.toNat then x else y :=
  (if_congr decide_eq_true_iff rfl rfl).trans (ite_lt_swap BitVec.toNat x y)

/-! ## Bit fields (R171) -/

theorem bfWidth_eq_fieldWidth (y : Word) : bfWidth y = fieldWidth y := by
  rw [bfWidth, ModuleEvents.fld_eq_div]
  rfl

/-- A number of w bits in two's complement, its sign told by the highest bit. -/
theorem toSigned_of_lt {w f : Nat} (h : f < 2 ^ w) : toSigned w f = if 2 ^ (w - 1) ≤ f then (f : Int) - 2 ^ w else f := by
  rw [toSigned, Nat.mod_eq_of_lt h, ← ite_not]
  exact if_congr Nat.not_lt (congrArg (_ - ·) (Nat.cast_pow 2 w)) rfl

theorem bfx_eq_bitField (x y : Word) : bfx x y = bitField x y := by
  simp only [bfx, bitField, bfWidth_eq_fieldWidth]
  refine if_congr Iff.rfl rfl ?_
  rw [toSigned_of_lt (Nat.mod_lt _ (Nat.two_pow_pos _))]
  cases y.getLsbD 16 with
  | false => rfl
  | true =>
    rw [Bool.true_and, if_pos rfl, apply_ite (BitVec.ofInt 32)]
    exact if_congr decide_eq_true_iff.symm rfl (BitVec.ofInt_natCast ..)

theorem fieldWidth_fits (y : Word) : fieldWidth y + y.toNat % 32 ≤ 32 := by
  have hle : fieldWidth y ≤ 32 - y.toNat % 32 := Nat.min_le_right ..
  omega

/-- The mask of w bits at position n. -/
theorem fieldMask_testBit (w n i : Nat) : ((2 ^ w - 1) * 2 ^ n).testBit i = (decide (n ≤ i) && decide (i < n + w)) := by
  rw [Nat.testBit_mul_two_pow, Nat.testBit_two_pow_sub_one]
  by_cases h : n ≤ i
  · simp [h]; omega
  · simp [h]

/-- The bits of a number with w of them at position n replaced. -/
theorem insert_testBit (d x w n i : Nat) : (d / (2 ^ w * 2 ^ n) * (2 ^ w * 2 ^ n) + x % 2 ^ w * 2 ^ n + d % 2 ^ n).testBit i =
    if n ≤ i ∧ i < n + w then x.testBit (i - n) else d.testBit i := by
  have hd : d % 2 ^ n < 2 ^ n := Nat.mod_lt _ (Nat.two_pow_pos n)
  have hx : x % 2 ^ w < 2 ^ w := Nat.mod_lt _ (Nat.two_pow_pos w)
  rw [show d / (2 ^ w * 2 ^ n) * (2 ^ w * 2 ^ n) + x % 2 ^ w * 2 ^ n + d % 2 ^ n =
      2 ^ n * (2 ^ w * (d / 2 ^ (w + n)) + x % 2 ^ w) + d % 2 ^ n by rw [Nat.pow_add]; ring,
    Nat.testBit_two_pow_mul_add _ hd, Nat.testBit_two_pow_mul_add _ hx, Nat.testBit_mod_two_pow, Nat.testBit_mod_two_pow,
    Nat.testBit_div_two_pow]
  by_cases hlow : i < n
  · simp [hlow, Nat.not_le.mpr hlow]
  · by_cases hmid : i < n + w
    · simp [hlow, hmid, Nat.le_of_not_lt hlow, show i - n < w by omega]
    · simp [hlow, hmid, show ¬i - n < w by omega, show i - n - w + (w + n) = i by omega]

theorem bfi_eq_insertField (d x y : Word) : bfi d x y = insertField d x y := by
  have hfits := fieldWidth_fits y
  refine BitVec.eq_of_getLsbD_eq fun i hi => ?_
  simp only [bfi, insertField, bfWidth_eq_fieldWidth, BitVec.getLsbD_or, BitVec.getLsbD_and, BitVec.getLsbD_not,
    BitVec.getLsbD_shiftLeft, BitVec.getLsbD_ofNat, fieldMask_testBit, insert_testBit, hi, decide_true, Bool.true_and]
  by_cases hin : y.toNat % 32 ≤ i ∧ i < y.toNat % 32 + fieldWidth y
  · simp [hin, Nat.not_lt.mpr hin.1]
    rfl
  · rw [if_neg hin, ← Bool.decide_and, decide_eq_false hin]
    simp
    rfl

/-- The high byte of a word replaced (R175). -/
theorem replaceHigh_eq (old : Word) (x : BitVec 24) : (old &&& 0x00FFFFFF) ||| (immZ x <<< 24) =
    BitVec.ofNat 32 (old.toNat % 2 ^ 24 + x.toNat % 256 * 2 ^ 24) := by
  have hlow : old.toNat % 2 ^ 24 < 2 ^ 24 := Nat.mod_lt _ (Nat.two_pow_pos 24)
  have hhigh : x.toNat * 2 ^ 24 % 2 ^ 32 = 2 ^ 24 * (x.toNat % 256) := by omega
  have hmask : ((0x00FFFFFF : Nat) : Word).toNat = 2 ^ 24 - 1 := rfl
  refine BitVec.eq_of_toNat_eq ?_
  rw [BitVec.toNat_or, BitVec.toNat_and, hmask, Nat.and_two_pow_sub_one_eq_mod, BitVec.toNat_shiftLeft, immZ,
    BitVec.toNat_setWidth_of_le (by decide), Nat.shiftLeft_eq, hhigh, Nat.or_comm, ← Nat.two_pow_add_eq_or_of_lt hlow, BitVec.toNat_ofNat]
  omega

/-! ## Counts (R171) -/

theorem clz_eq_leadingZeros (x : Word) : clz x = leadingZeros x := by
  unfold clz bitLen leadingZeros
  split
  · rfl
  · rw [Nat.add_comm, Nat.sub_add_eq]

theorem popGo_eq_countP (x : Word) (n : Nat) : popGo x.toNat n = (List.range n).countP x.getLsbD := by
  induction n with
  | zero => rfl
  | succ n ih =>
    rw [popGo, ih, List.range_succ, List.countP_append, List.countP_singleton]
    rfl

theorem popc_eq_countP (x : Word) : popc x = BitVec.ofNat 32 ((List.range 32).countP x.getLsbD) := by
  rw [popc, popGo_eq_countP]

/-! ## Comparisons (R174) -/

/-- The integer that a comparison takes a word for. -/
abbrev comparisonKey (signed : Bool) (x : Word) : Int := if signed then x.toInt else x.toNat

theorem comparisonKey_inj (signed : Bool) {x y : Word} : x = y ↔ comparisonKey signed x = comparisonKey signed y := by
  cases signed with
  | true => exact BitVec.toInt_inj.symm
  | false => exact BitVec.toNat_inj.symm.trans Int.ofNat_inj.symm

theorem comparisonKey_lt (signed : Bool) (x y : Word) :
    (if signed then x.slt y else x.ult y) = decide (comparisonKey signed x < comparisonKey signed y) := by
  cases signed with
  | true => rfl
  | false => exact decide_eq_decide.mpr Int.ofNat_lt.symm

theorem comparisonKey_beq (signed : Bool) (x y : Word) : (x == y) = decide (comparisonKey signed x = comparisonKey signed y) := by
  rw [Bool.eq_iff_iff, beq_iff_eq, comparisonKey_inj signed, decide_eq_true_iff]

theorem comparisonKey_le (signed : Bool) (x y : Word) :
    ((if signed then x.slt y else x.ult y) || x == y) = decide (comparisonKey signed x ≤ comparisonKey signed y) := by
  rw [comparisonKey_lt, comparisonKey_beq signed, ← Bool.decide_or, decide_eq_decide, le_iff_lt_or_eq]

theorem not_eq_decide {b : Bool} {p r : Prop} [Decidable p] [Decidable r] (hb : b = decide p) (hr : ¬p ↔ r) : (!b) = decide r := by
  rw [hb, ← decide_not, decide_eq_decide, hr]

/-- Each of the six conditions is one of the keys' order. -/
theorem intCond_eq_comparison (signed : Bool) : ∀ (cc : Nat) (x y : Word), intCond signed cc x y = comparison signed cc x y
  | 0, x, y => comparisonKey_beq signed x y
  | 1, x, y => not_eq_decide (comparisonKey_beq signed x y) Iff.rfl
  | 2, x, y => comparisonKey_lt signed x y
  | 3, x, y => comparisonKey_le signed x y
  | 4, x, y => not_eq_decide (comparisonKey_le signed x y) not_le
  | _ + 5, x, y => not_eq_decide (comparisonKey_lt signed x y) not_lt

/-! ## Carries and clamping (R171-R173) -/

theorem subBorrow_eq (x y : Word) (c : Bool) : subBorrow x y c =
    (BitVec.ofInt 32 ((x.toNat : Int) - y.toNat - (b01 c : Nat)), decide (x.toNat < y.toNat + b01 c)) := by
  refine Prod.ext (BitVec.eq_of_toNat_eq ?_) rfl
  simp only [subBorrow, BitVec.toNat_sub, BitVec.toNat_ofInt, BitVec.toNat_ofNat]
  omega

theorem clamp32_eq_clampInt32 (t : Int) : clamp32 t = clampInt32 t := by
  have hclamp {c : Int} (hc : max (-2 ^ 31) (min t (2 ^ 31 - 1)) = c) : clampInt32 t = (BitVec.ofInt 32 c, decide (c ≠ t)) := by
    rw [clampInt32, hc]
  unfold clamp32
  split
  next hlo => rw [hclamp (c := -2 ^ 31) (by omega), decide_eq_true (by omega)]; rfl
  next hlo =>
    split
    next hhi => rw [hclamp (c := 2 ^ 31 - 1) (by omega), decide_eq_true (by omega)]; rfl
    next hhi => rw [hclamp (c := t) (by omega), decide_eq_false (not_not_intro rfl)]

end Sys2Proof.Laws.IntegerArithmetic
end

section
/-! SUPPORT. What the uniform forms answer where their guard is 1, and the statements O1, O2, O3 and O4 (R171-R177). -/

namespace Sys2Proof.Laws.UniformForms

open Sys2Proof.Machine Sys2Proof.Safety Sys2Proof.Laws Sys2Proof.Laws.IntegerArithmetic

/-! ## Computed indices (R177) -/

/-- The index of ULDX and USTX. -/
abbrev index (q : Taken) : Nat := ((q.s32 q.a).val + (q.uy false).val).toNat

/-- Whether it is poisoned. -/
abbrev indexPoison (q : Taken) : Bool := (q.s32 q.a).poison || (q.uy false).poison

section
variable {q : Taken}

theorem uIndex_sc : uIndex q.sc = (index q, indexPoison q) := by
  simp only [uIndex, uB_sc]
  rfl

/-- An index that is clean and in the file names its uniform. -/
theorem indexUse_named {wr : Bool} (hp : indexPoison q = false) (hi : index q ≤ 1023) :
    indexUse wr q.sc = [⟨.s, index q, 1, wr⟩] := by
  have hin : ¬index q > 1023 := Nat.not_lt.mpr hi
  simp only [indexUse, uIndex_sc, hp, hin, decide_false, Bool.or_self, Bool.false_eq_true, if_false]

/-- One that is poisoned or past the file names none. -/
theorem indexUse_none {wr : Bool} (h : indexPoison q = true ∨ index q > 1023) : indexUse wr q.sc = [] := by
  simp only [indexUse, uIndex_sc]
  exact if_pos (by simpa using h)

/-- A form that names one uniform, which is not pending, or none, is its meaning. -/
theorem indexed_ok {wr : Bool} {m : Meaning} {effs : List Eff} {us : List RegUse} (hus : indexUse wr q.sc = us)
    (huniform : ∀ u ∈ us, u.kind = .s ∧ pendingUse q.g q.path u = false) (hm : m q.sc = (q.s, .ok effs 0 [])) :
    withUses (indexUse wr) m q.sc = (q.s, .ok effs 0 us) := by
  subst hus
  refine Branches.withUsesIf_ok (live := fun _ => true) (fun _ u hu hv => ?_) (fun u hu => (huniform u hu).2) hm
  rw [(huniform u hu).1] at hv
  cases hv

theorem indexed_trap {wr : Bool} {m : Meaning} {i : TrapInfo} (hus : indexUse wr q.sc = []) (hm : m q.sc = (q.s, .trap i)) :
    withUses (indexUse wr) m q.sc = (q.s, .trap i) :=
  Branches.withUsesIf_trap (live := fun _ => true) (by simp [hus]) (by simp [hus]) hm

end

section
variable {q : Taken} (ho : q.on)
include ho

/-! ## Forms that write s(d) -/

theorem uBinary_on (zext : Bool) {f g : Word → Word → Word} (hfg : ∀ x y, f x y = g x y) : uBinary zext f q.sc =
    (q.s, .ok [.result 2 [.s q.d ⟨g (q.s32 q.a).val (q.uy zext).val, (q.s32 q.a).poison || (q.uy zext).poison⟩]] 0 []) :=
  uSlot_on ho (by simp only [uB_sc, hfg]; rfl)

theorem uUnary_on {f g : Word → Word} (hfg : ∀ x, f x = g x) : uUnary f q.sc =
    (q.s, .ok [.result 2 [.s q.d ⟨g (q.s32 q.a).val, (q.s32 q.a).poison⟩]] 0 []) :=
  uSlot_on ho (by simp only [hfg]; rfl)

theorem uBfi_on : uBfi q.sc = (q.s, .ok [.result 2 [.s q.d ⟨insertField (q.s32 q.d).val (q.s32 q.a).val (q.uy true).val,
    (q.s32 q.a).poison || (q.uy true).poison || (q.s32 q.d).poison⟩]] 0 []) :=
  uSlot_on ho (by simp only [uB_sc, bfi_eq_insertField]; rfl)

theorem uSel_on :
    let c := spreg q.g q.path q.sc.mod.creg.toNat
    uSel q.sc = (q.s, .ok [.result 2 [.s q.d ⟨(if c.val then q.s32 q.a else q.uy false).val,
      (q.s32 q.a).poison || (q.uy false).poison || c.poison⟩]] 0 []) :=
  uSlot_on ho (by rw [uB_sc]; rfl)

theorem uCmp_on (signed : Bool) : uCmp signed q.sc = (q.s, .ok [.result 2 [.sp (q.d % 8)
    ⟨comparison signed (q.d / 8) (q.s32 q.a).val (q.uy false).val, (q.s32 q.a).poison || (q.uy false).poison⟩]] 0 []) :=
  uSlot_on ho (by simp only [uB_sc, intCond_eq_comparison]; rfl)

/-! ## Moves of an immediate (R175) -/

section
variable {x : BitVec 24} (himm : q.w.imm = some x)
include himm

theorem uMovImm_on : uMovImm q.sc = (q.s, .ok [.result 2 [.s q.d ⟨x.signExtend 32, false⟩]] 0 []) := by
  have himm' : q.sc.w.imm = some x := himm
  simp only [uMovImm, himm']
  exact uSlot_on ho rfl

theorem uMovHi_on : uMovHi q.sc = (q.s, .ok [.result 2 [.s q.d
    ⟨BitVec.ofNat 32 ((q.s32 q.d).val.toNat % 2 ^ 24 + x.toNat % 256 * 2 ^ 24), (q.s32 q.d).poison⟩]] 0 []) := by
  have himm' : q.sc.w.imm = some x := himm
  simp only [uMovHi, himm']
  exact uSlot_on ho (by rw [replaceHigh_eq]; rfl)

end

/-! ## Carries and saturation (R171-R173) -/

section
variable {wrap : Word → Word → Bool → Word × Bool} {sat : Word → Word → Word × Bool}

theorem uAddSub_plain (hsat : q.sc.mod.sat = false) (hcv : q.sc.mod.cv = false) : uAddSub wrap sat q.sc =
    (q.s, .ok [.result 2 [.s q.d ⟨(wrap (q.s32 q.a).val (q.uy false).val false).1, (q.s32 q.a).poison || (q.uy false).poison⟩]] 0 []) :=
  uSlot_on ho (by simp only [uB_sc, hsat, hcv, Bool.false_eq_true, if_false]; rfl)

/-- With CV the carry predicate goes in where its code says so, and comes out. -/
theorem uAddSub_carry (hsat : q.sc.mod.sat = false) (hcv : q.sc.mod.cv = true) :
    let n := q.sc.mod.creg.toNat % 8
    let cin : PBit := if q.sc.mod.creg.getLsbD 3 then spreg q.g q.path n else ⟨false, false⟩
    let r := wrap (q.s32 q.a).val (q.uy false).val cin.val
    let po := (q.s32 q.a).poison || (q.uy false).poison || cin.poison
    uAddSub wrap sat q.sc = (q.s, .ok [.result 2 [.s q.d ⟨r.1, po⟩, .sp n ⟨r.2, po⟩]] 0 []) :=
  uSlot_on ho (by simp only [uB_sc, hsat, hcv, Bool.false_eq_true, if_false, if_true]; rfl)

theorem uAddSub_sat {t : Word → Word → Int} (ht : ∀ x y, sat x y = clamp32 (t x y)) (hsat : q.sc.mod.sat = true) :
    let r := clampInt32 (t (q.s32 q.a).val (q.uy false).val)
    let po := (q.s32 q.a).poison || (q.uy false).poison
    uAddSub wrap sat q.sc = (q.s, .ok [.result 2 [.s q.d ⟨r.1, po⟩]] (unlessPoison po (if r.2 then fSAT else 0)) []) :=
  uSlot_on ho (by simp only [uB_sc, hsat, if_true, ht, clamp32_eq_clampInt32]; rfl)

end

theorem uMul_plain (hsat : q.sc.mod.sat = false) : uMul q.sc = (q.s, .ok [.result 2 [.s q.d
    ⟨BitVec.ofNat 32 ((q.s32 q.a).val.toNat * (q.uy false).val.toNat), (q.s32 q.a).poison || (q.uy false).poison⟩]] 0 []) :=
  uSlot_on ho (by simp only [uB_sc, hsat, Bool.false_eq_true, if_false]; rfl)

theorem uMul_sat (hsat : q.sc.mod.sat = true) :
    let r := clampInt32 ((q.s32 q.a).val.toInt * (q.uy false).val.toInt)
    let po := (q.s32 q.a).poison || (q.uy false).poison
    uMul q.sc = (q.s, .ok [.result 2 [.s q.d ⟨r.1, po⟩]] (unlessPoison po (if r.2 then fSAT else 0)) []) :=
  uSlot_on ho (by simp only [uB_sc, hsat, if_true, mulSat, clamp32_eq_clampInt32]; rfl)

/-! ## The uniform file (R176, R177) -/

/-- UMOVW between `near`, where its window lies among the nameable registers, and the file. -/
theorem uMovw_on {x : BitVec 24} (himm : q.w.imm = some x) :
    let n := x.toNat / 2 ^ 11 % 8 + 1
    let w := x.toNat % 1024
    let near := if x.getLsbD 10 then q.a else q.d
    let src := if x.getLsbD 10 then near else w
    let dst := if x.getLsbD 10 then w else near
    near + n ≤ 64 → w + n ≤ 1024 → pendingUse q.g q.path ⟨.s, src, n, false⟩ = false →
    pendingUse q.g q.path ⟨.s, dst, n, true⟩ = false →
    uMovw q.sc = (q.s, .ok [.result 2 ((List.range n).map fun j => .s (dst + j) (q.s32 (src + j)))] 0
      [⟨.s, src, n, false⟩, ⟨.s, dst, n, true⟩]) := by
  intro n w near src dst hnear hw hsrc hdst
  have himm' : q.sc.w.imm = some x := himm
  have hn : fld x.toNat 13 11 + 1 = n := congrArg (· + 1) (ModuleEvents.fld_eq_div x.toNat 13 11)
  have hin : ¬(near + n > 64 ∨ w + n > 1024) := by omega
  simp only [uMovw, himm', hn]
  refine (if_neg ?_).trans (Branches.withUsesIf_ok (live := fun _ => true) (fun _ u hu hv => ?_) (fun u hu => ?_) (uSlot_on ho rfl))
  · rw [Bool.and_eq_true, decide_eq_true_iff]
    exact fun hbad => hin hbad.2
  · simp only [List.mem_cons, List.not_mem_nil, or_false] at hu
    rcases hu with rfl | rfl <;> cases hv
  · simp only [List.mem_cons, List.not_mem_nil, or_false] at hu
    rcases hu with rfl | rfl
    · exact hsrc
    · exact hdst

/-- A trap that a uniform form names is taken under a guard of 1. -/
theorem uSlot_error {f : SC → Except TrapInfo (List RegWrite × BitVec 6)} {i : TrapInfo} (hf : f q.sc = .error i) :
    uSlot f q.sc = (q.s, .trap i) := by
  have hg : scalarGuard q.sc = ⟨true, false⟩ := ho
  simp only [uSlot, pureM, hf, hg]
  rfl

theorem uLdx_reads (hp : indexPoison q = false) (hi : index q ≤ 1023) (hu : pendingUse q.g q.path ⟨.s, index q, 1, false⟩ = false) :
    uLdx q.sc = (q.s, .ok [.result 2 [.s q.d (q.s32 (index q))]] 0 [⟨.s, index q, 1, false⟩]) := by
  have hg : scalarGuard q.sc = ⟨true, false⟩ := ho
  refine indexed_ok (indexUse_named hp hi) (by simpa using hu) (uSlot_on ho ?_)
  simp only [uIndex_sc, hp, hg, Nat.not_lt.mpr hi, Bool.or_self, Bool.false_eq_true, if_false]
  rfl

theorem uLdx_outside (hp : indexPoison q = false) (hi : index q > 1023) : uLdx q.sc = (q.s, .trap ⟨4, 0, 0, 0⟩) := by
  have hg : scalarGuard q.sc = ⟨true, false⟩ := ho
  refine indexed_trap (indexUse_none (.inr hi)) (uSlot_error ho ?_)
  simp only [uIndex_sc, hp, hg, hi, Bool.or_self, Bool.false_eq_true, if_false, if_true]

theorem uLdx_poison (hp : indexPoison q = true) : uLdx q.sc = (q.s, .ok [.result 2 [.s q.d ⟨(q.s32 q.d).val, true⟩]] 0 []) := by
  refine indexed_ok (indexUse_none (.inl hp)) (by simp) (uSlot_on ho ?_)
  simp only [uIndex_sc, hp, Bool.true_or, if_true]
  rfl

theorem uStx_writes (hp : indexPoison q = false) (hi : index q ≤ 1023) (hu : pendingUse q.g q.path ⟨.s, index q, 1, true⟩ = false) :
    uStx q.sc = (q.s, .ok [.result 2 [.s (index q) (q.s32 q.d)]] 0 [⟨.s, index q, 1, true⟩]) := by
  refine indexed_ok (indexUse_named hp hi) (by simpa using hu) (uSlot_on ho ?_)
  simp only [uIndex_sc, hp, Nat.not_lt.mpr hi, Bool.false_eq_true, if_false]
  rfl

theorem uStx_outside (hp : indexPoison q = false) (hi : index q > 1023) : uStx q.sc = (q.s, .trap ⟨4, 0, 0, 0⟩) := by
  have hg : scalarGuard q.sc = ⟨true, false⟩ := ho
  refine indexed_trap (indexUse_none (.inr hi)) (uSlot_error ho ?_)
  simp only [uIndex_sc, hp, hg, hi, Bool.false_eq_true, if_false, if_true]

theorem uStx_poison (hp : indexPoison q = true) : uStx q.sc = (q.s, .trap ⟨7, 0, 0, 0⟩) := by
  refine indexed_trap (indexUse_none (.inl hp)) (uSlot_error ho ?_)
  simp only [uIndex_sc, hp, if_true]

end

/-- Settles O1: each form is a two-operand uniform slot whose operation is the rule's arithmetic. -/
theorem uniformIntegerResult : Obligations.UniformIntegerResult := by
  intro e he q h ho
  simp only [List.mem_cons, List.not_mem_nil, or_false] at he
  rcases he with rfl | rfl | rfl | rfl | rfl | rfl | rfl | rfl | rfl | rfl | rfl | rfl | rfl
  · exact gives_of_ok h rfl (exec_umulhS q.w q.s) (uBinary_on ho false fun _ _ => rfl)
  · exact gives_of_ok h rfl (exec_umulhU q.w q.s) (uBinary_on ho false fun _ _ => rfl)
  · exact gives_of_ok h rfl (exec_uand q.w q.s) (uBinary_on ho false fun _ _ => rfl)
  · exact gives_of_ok h rfl (exec_uor q.w q.s) (uBinary_on ho false fun _ _ => rfl)
  · exact gives_of_ok h rfl (exec_uxor q.w q.s) (uBinary_on ho false fun _ _ => rfl)
  · exact gives_of_ok h rfl (exec_ushl q.w q.s) (uBinary_on ho true shl_eq_shiftLeft)
  · exact gives_of_ok h rfl (exec_ushr q.w q.s) (uBinary_on ho true shr_eq_shiftRight)
  · exact gives_of_ok h rfl (exec_usar q.w q.s) (uBinary_on ho true sar_eq_shiftArith)
  · exact gives_of_ok h rfl (exec_uminS q.w q.s) (uBinary_on ho false minS_eq)
  · exact gives_of_ok h rfl (exec_uminU q.w q.s) (uBinary_on ho false minU_eq)
  · exact gives_of_ok h rfl (exec_umaxS q.w q.s) (uBinary_on ho false maxS_eq)
  · exact gives_of_ok h rfl (exec_umaxU q.w q.s) (uBinary_on ho false maxU_eq)
  · exact gives_of_ok h rfl (exec_ubfx q.w q.s) (uBinary_on ho true bfx_eq_bitField)

/-- Settles O2: the forms without and with the carry predicate, and the clamped ones. -/
theorem uniformCarryAndSaturation : Obligations.UniformCarryAndSaturation := by
  refine ⟨fun e he q h ho => ?_, fun q h ho => ⟨fun hsat => ?_, fun hsat => ?_⟩⟩
  · simp only [List.mem_cons, List.not_mem_nil, or_false] at he
    rcases he with rfl | rfl
    · exact ⟨fun hsat hcv => gives_of_ok h rfl (exec_uadd q.w q.s) (uAddSub_plain ho hsat hcv),
        fun hsat hcv => gives_of_ok h rfl (exec_uadd q.w q.s) (uAddSub_carry ho hsat hcv),
        fun hsat => gives_of_ok h rfl (exec_uadd q.w q.s) (uAddSub_sat ho (fun _ _ => rfl) hsat)⟩
    · refine ⟨fun hsat hcv => gives_of_ok h rfl (exec_usub q.w q.s) ?_, fun hsat hcv => gives_of_ok h rfl (exec_usub q.w q.s) ?_,
        fun hsat => gives_of_ok h rfl (exec_usub q.w q.s) (uAddSub_sat ho (fun _ _ => rfl) hsat)⟩
      · have hsub := uAddSub_plain (wrap := subBorrow) (sat := subSat) ho hsat hcv
        rwa [subBorrow_eq] at hsub
      · have hsub := uAddSub_carry (wrap := subBorrow) (sat := subSat) ho hsat hcv
        dsimp only at hsub
        rwa [subBorrow_eq] at hsub
  · exact gives_of_ok h rfl (exec_umul q.w q.s) (uMul_plain ho hsat)
  · exact gives_of_ok h rfl (exec_umul q.w q.s) (uMul_sat ho hsat)

/-- Settles O3: each form writes its one register. -/
theorem uniformMovesAndTests : Obligations.UniformMovesAndTests := by
  refine ⟨fun q h ho => ?_, fun q x h ho himm => ?_, fun q x h ho himm => ?_, fun q h ho => ?_, fun q h ho => ?_, fun q h ho => ?_,
    fun q h ho _ => ?_, fun e he q h ho => ?_⟩
  · exact gives_of_ok h rfl (exec_umov q.w q.s) (uUnary_on ho fun _ => rfl)
  · exact gives_of_ok h rfl (exec_umovImm q.w q.s) (uMovImm_on ho himm)
  · exact gives_of_ok h rfl (exec_umovHi q.w q.s) (uMovHi_on ho himm)
  · exact gives_of_ok h rfl (exec_upopc q.w q.s) (uUnary_on ho popc_eq_countP)
  · exact gives_of_ok h rfl (exec_uclz q.w q.s) (uUnary_on ho clz_eq_leadingZeros)
  · exact gives_of_ok h rfl (exec_ubfi q.w q.s) (uBfi_on ho)
  · exact gives_of_ok h rfl (exec_usel q.w q.s) (uSel_on ho)
  · simp only [List.mem_cons, List.not_mem_nil, or_false] at he
    rcases he with rfl | rfl
    · exact gives_of_ok h rfl (exec_ucmpS q.w q.s) (uCmp_on ho true)
    · exact gives_of_ok h rfl (exec_ucmpU q.w q.s) (uCmp_on ho false)

/-- Settles O4: UMOVW's window, and the three cases of a computed index. -/
theorem uniformFileMoves : Obligations.UniformFileMoves := by
  refine ⟨fun q x h ho himm => ?_, fun q h ho => ⟨fun hp hi hu => ?_, fun hp hi => ?_, fun hp => ?_⟩,
    fun q h ho => ⟨fun hp hi hu => ?_, fun hp hi => ?_, fun hp => ?_⟩⟩
  · intro n w out near src dst _ hnear hw hpend
    obtain ⟨hsrc, hdst⟩ := Bool.or_eq_false_iff.mp hpend
    exact gives_of_ok h rfl (exec_umovw q.w q.s) (uMovw_on ho himm hnear hw hsrc hdst)
  · exact gives_of_ok h rfl (exec_uldx q.w q.s) (uLdx_reads ho hp hi hu)
  · exact traps_of_trap h rfl (exec_uldx q.w q.s) (uLdx_outside ho hp hi)
  · exact gives_of_ok h rfl (exec_uldx q.w q.s) (uLdx_poison ho hp)
  · exact gives_of_ok h rfl (exec_ustx q.w q.s) (uStx_writes ho hp hi hu)
  · exact traps_of_trap h rfl (exec_ustx q.w q.s) (uStx_outside ho hp hi)
  · exact traps_of_trap h rfl (exec_ustx q.w q.s) (uStx_poison ho hp)

end Sys2Proof.Laws.UniformForms
end

section
/-! SUPPORT. What the integer, predicate and exchange forms of the lanes answer, and the statements O7, O8, O9 and O10 (R167, R171-R174,
R179-R184). -/

namespace Sys2Proof.Laws.LaneForms

open Sys2Proof.Machine Sys2Proof.Safety Sys2Proof.Laws Sys2Proof.Laws.IntegerArithmetic

section
variable {q : Taken}

/-! ## Forms that raise no flag -/

theorem laneSlot_v_quiet {lat r : Nat} {f : SC → Nat → List RegWrite × BitVec 6} {val : Nat → PWord}
    (h : ∀ l, f q.sc l = ([.v r l (val l)], 0)) : laneSlot lat f q.sc = (q.s, .ok [q.toLanes lat r val] 0 []) := by
  rw [laneSlot_v h, flagUnion_none]

theorem laneSlot_p_quiet {lat r : Nat} {f : SC → Nat → List RegWrite × BitVec 6} {val : Nat → PBit}
    (h : ∀ l, f q.sc l = ([.p r l (val l)], 0)) : laneSlot lat f q.sc = (q.s, .ok [q.toPred lat r val] 0 []) := by
  rw [laneSlot_p h, flagUnion_none]

theorem vBinary_sc (zext : Bool) {f g : Word → Word → Word} (hfg : ∀ x y, f x y = g x y) : vBinary zext f q.sc =
    (q.s, .ok [q.toLanes 4 q.d fun l =>
      ⟨g (vreg q.g q.a l).val (q.vy zext l).val, (vreg q.g q.a l).poison || (q.vy zext l).poison⟩] 0 []) :=
  laneSlot_v_quiet fun l => by simp only [vB_sc, hfg]; rfl

theorem vUnary_sc {f g : Word → Word} (hfg : ∀ x, f x = g x) : vUnary f q.sc =
    (q.s, .ok [q.toLanes 4 q.d fun l => ⟨g (vreg q.g q.a l).val, (vreg q.g q.a l).poison⟩] 0 []) :=
  laneSlot_v_quiet fun l => by simp only [hfg]; rfl

theorem vBfi_sc : vBfi q.sc = (q.s, .ok [q.toLanes 4 q.d fun l =>
    ⟨insertField (vreg q.g q.d l).val (vreg q.g q.a l).val (q.vy true l).val,
      (vreg q.g q.a l).poison || (q.vy true l).poison || (vreg q.g q.d l).poison⟩] 0 []) :=
  laneSlot_v_quiet fun l => by simp only [vB_sc, bfi_eq_insertField]; rfl

theorem vSel_sc :
    let c := preg q.g q.sc.mod.creg.toNat
    vSel q.sc = (q.s, .ok [q.toLanes 4 q.d fun l => ⟨(if c.val.getLsbD l then vreg q.g q.a l else q.vy false l).val,
      (vreg q.g q.a l).poison || (q.vy false l).poison || c.poison.getLsbD l⟩] 0 []) :=
  laneSlot_v_quiet fun l => by simp only [vB_sc]; rfl

theorem vCmp_sc (signed : Bool) : vCmp signed q.sc = (q.s, .ok [q.toPred 4 (q.d % 8) fun l =>
    ⟨comparison signed (q.d / 8) (vreg q.g q.a l).val (q.vy false l).val, (vreg q.g q.a l).poison || (q.vy false l).poison⟩] 0 []) :=
  laneSlot_p_quiet fun l => by simp only [vB_sc, intCond_eq_comparison]; rfl

theorem pBinary_sc (f : Bool → Bool → Bool) : pBinary f q.sc = (q.s, .ok [q.toPred 4 q.d fun l =>
    ⟨f ((preg q.g q.a).val.getLsbD l) ((preg q.g q.b).val.getLsbD l),
      (preg q.g q.a).poison.getLsbD l || (preg q.g q.b).poison.getLsbD l⟩] 0 []) :=
  laneSlot_p_quiet fun _ => rfl

theorem pNot_sc : pNot q.sc = (q.s, .ok [q.toPred 4 q.d fun l =>
    ⟨!(preg q.g q.a).val.getLsbD l, (preg q.g q.a).poison.getLsbD l⟩] 0 []) :=
  laneSlot_p_quiet fun _ => rfl

/-! ## Carries and saturation (R171-R173) -/

section
variable {wrap : Word → Word → Bool → Word × Bool} {sat : Word → Word → Word × Bool}

theorem vAddSub_plain (hsat : q.sc.mod.sat = false) (hcv : q.sc.mod.cv = false) : vAddSub wrap sat q.sc =
    (q.s, .ok [q.toLanes 4 q.d fun l => ⟨(wrap (vreg q.g q.a l).val (q.vy false l).val false).1,
      (vreg q.g q.a l).poison || (q.vy false l).poison⟩] 0 []) :=
  laneSlot_v_quiet fun l => by simp only [vB_sc, hsat, hcv, Bool.false_eq_true, if_false]; rfl

/-- With CV the carry predicate goes in where its code says so, and comes out. -/
theorem vAddSub_carry (hsat : q.sc.mod.sat = false) (hcv : q.sc.mod.cv = true) :
    let n := q.sc.mod.creg.toNat % 8
    let cin (l : Nat) : PBit :=
      if q.sc.mod.creg.getLsbD 3 then ⟨(preg q.g n).val.getLsbD l, (preg q.g n).poison.getLsbD l⟩ else ⟨false, false⟩
    let r (l : Nat) := wrap (vreg q.g q.a l).val (q.vy false l).val (cin l).val
    let po (l : Nat) := (vreg q.g q.a l).poison || (q.vy false l).poison || (cin l).poison
    vAddSub wrap sat q.sc = (q.s, .ok [.result 4 (q.act.flatMap (fun l => [.v q.d l ⟨(r l).1, po l⟩, .p n l ⟨(r l).2, po l⟩])
      ++ q.dim.flatMap fun l => [.v q.d l ⟨(vreg q.g q.d l).val, true⟩, .p n l ⟨(preg q.g n).val.getLsbD l, true⟩])] 0 []) := by
  intro n cin r po
  have hcin (l : Nat) : (cin l).val = (q.sc.mod.creg.getLsbD 3 && (preg q.g n).val.getLsbD l)
      ∧ (cin l).poison = (q.sc.mod.creg.getLsbD 3 && (preg q.g n).poison.getLsbD l) := by
    simp only [cin]
    cases q.sc.mod.creg.getLsbD 3 <;> exact ⟨rfl, rfl⟩
  rw [vAddSub, laneSlot_sc]
  simp only [hsat, hcv, vB_sc, Bool.false_eq_true, if_false, if_true, flagUnion_none, r, po, hcin]
  rfl

theorem vAddSub_sat {t : Word → Word → Int} (ht : ∀ x y, sat x y = clamp32 (t x y)) (hsat : q.sc.mod.sat = true) :
    let r (l : Nat) := clampInt32 (t (vreg q.g q.a l).val (q.vy false l).val)
    let po (l : Nat) := (vreg q.g q.a l).poison || (q.vy false l).poison
    vAddSub wrap sat q.sc = (q.s, .ok [q.toLanes 4 q.d fun l => ⟨(r l).1, po l⟩]
      (flagUnion (q.act.map fun l => unlessPoison (po l) (if (r l).2 then fSAT else 0))) []) :=
  laneSlot_v fun l => by simp only [vB_sc, hsat, if_true, ht, clamp32_eq_clampInt32]; rfl

end

theorem vMul_plain (hsat : q.sc.mod.sat = false) : vMul q.sc = (q.s, .ok [q.toLanes 4 q.d fun l =>
    ⟨BitVec.ofNat 32 ((vreg q.g q.a l).val.toNat * (q.vy false l).val.toNat), (vreg q.g q.a l).poison || (q.vy false l).poison⟩] 0 []) :=
  laneSlot_v_quiet fun l => by simp only [vB_sc, hsat, Bool.false_eq_true, if_false]; rfl

theorem vMul_sat (hsat : q.sc.mod.sat = true) :
    let r (l : Nat) := clampInt32 ((vreg q.g q.a l).val.toInt * (q.vy false l).val.toInt)
    let po (l : Nat) := (vreg q.g q.a l).poison || (q.vy false l).poison
    vMul q.sc = (q.s, .ok [q.toLanes 4 q.d fun l => ⟨(r l).1, po l⟩]
      (flagUnion (q.act.map fun l => unlessPoison (po l) (if (r l).2 then fSAT else 0))) []) :=
  laneSlot_v fun l => by simp only [vB_sc, hsat, if_true, mulSat, clamp32_eq_clampInt32]; rfl

/-! ## Exchanges between lanes (R180-R184) -/

theorem vShuf_sc :
    let src (l : Nat) : Nat × Bool := match q.w.imm with
      | none => ((vreg q.g q.b l).val.toNat % 16, (vreg q.g q.b l).poison)
      | some x => (if x.getLsbD 4 then (l + x.toNat % 16) % 16 else l ^^^ (x.toNat % 16), false)
    vShuf q.sc = (q.s, .ok [q.toLanes 6 q.d fun l =>
      ⟨(vreg q.g q.a (src l).1).val, (vreg q.g q.a (src l).1).poison || (src l).2⟩] 0 []) := by
  intro src
  have hsrc (l : Nat) : shufLane q.sc l = src l := by
    simp only [src, shufLane]
    cases himm : q.w.imm with
    | none =>
      have himm' : q.sc.w.imm = none := himm
      simp only [himm']
      rfl
    | some x =>
      have himm' : q.sc.w.imm = some x := himm
      have hbit : bitOf x.toNat 4 = x.getLsbD 4 := rfl
      simp only [himm', hbit]
      cases x.getLsbD 4 <;> rfl
  exact laneSlot_v_quiet fun l => by simp only [hsrc]; rfl

theorem vBcast_sc : vBcast q.sc = (q.s, .ok [q.toLanes 6 q.d fun _ => q.s32 q.a] 0 []) := laneSlot_v_quiet fun _ => rfl

theorem vBcastLane_sc : vBcastLane q.sc = (q.s, .ok [q.toLanes 6 q.d fun l => ⟨BitVec.ofNat 32 l, false⟩] 0 []) :=
  laneSlot_v_quiet fun _ => rfl

/-- A lane form with a uniform destination, where no lane's guard is poisoned. -/
theorem laneToUniform_clean {lat : Nat} {f : SC → PWord × BitVec 6} (hguard : guardPoison q.sc = 0) :
    laneToUniform lat f q.sc = (q.s, .ok [.result lat [.s q.d (f q.sc).1]] (unlessPoison (f q.sc).1.poison (f q.sc).2) []) := by
  simp only [laneToUniform, pureM, hguard, bne_self_eq_false, Bool.false_eq_true, if_false]
  rfl

/-- Where one is, s(d) keeps its value with poison set. -/
theorem laneToUniform_dim {lat : Nat} {f : SC → PWord × BitVec 6} (hguard : guardPoison q.sc ≠ 0) :
    laneToUniform lat f q.sc = (q.s, .ok [.result lat [.s q.d ⟨(q.s32 q.d).val, true⟩]] 0 []) := by
  simp only [laneToUniform, pureM, bne_iff_ne.mpr hguard, if_true]
  rfl

theorem vRed_clean (hguard : guardPoison q.sc = 0) (hpo : (q.act.any fun l => (vreg q.g q.a l).poison) = false) :
    let op := redOp q.b q.sc.mod.rm.toNat
    let r := redTree op.1 ((List.range 16).map fun l => if (actives q.sc).getLsbD l then some (vreg q.g q.a l).val else none)
    vRed q.sc = (q.s, .ok [.result 10 [.s q.d ⟨r.1.getD op.2, false⟩]] r.2 []) := by
  have hpo' : ((lanesOf (actives q.sc)).any fun l => (vreg q.sc.g q.sc.a l).poison) = false := hpo
  rw [vRed, laneToUniform_clean hguard]
  simp only [hpo']
  rfl

theorem vVote_clean (hguard : guardPoison q.sc = 0) : vVote q.sc = (q.s, .ok [.result 6 [.s q.d
    ⟨BitVec.ofNat 32 (actives q.sc &&& (preg q.g q.a).val).toNat, decide (actives q.sc &&& (preg q.g q.a).poison ≠ 0)⟩]] 0 []) := by
  have hval : (actives q.sc &&& (preg q.g q.a).val).setWidth 32 = BitVec.ofNat 32 (actives q.sc &&& (preg q.g q.a).val).toNat :=
    BitVec.eq_of_toNat_eq (by rw [BitVec.toNat_setWidth, BitVec.toNat_ofNat])
  have hpo : (actives q.sc &&& (preg q.g q.a).poison != 0) = decide (actives q.sc &&& (preg q.g q.a).poison ≠ 0) := by
    rw [Bool.eq_iff_iff, bne_iff_ne, decide_eq_true_iff]
  rw [vVote, laneToUniform_clean hguard, unlessPoison, ite_self, ← hval, ← hpo]
  rfl

theorem vQuad_sc (step : Nat) :
    let lo (l : Nat) := if q.b ≠ 0 then l / 4 * 4 else if step = 1 then l / 2 * 2 else l / 4 * 4 + l % 2
    let r (l : Nat) := fsub binary32 q.sc.mod.rm.toNat (f32 (vreg q.g q.a (lo l + step)).val) (f32 (vreg q.g q.a (lo l)).val)
    let po (l : Nat) := (vreg q.g q.a (lo l + step)).poison || (vreg q.g q.a (lo l)).poison
    vQuad step q.sc = (q.s, .ok [q.toLanes 6 q.d fun l => ⟨BitVec.ofNat 32 (r l).1, po l⟩]
      (flagUnion (q.act.map fun l => unlessPoison (po l) (r l).2)) []) := by
  intro lo r po
  have hlo (l : Nat) : (if q.sc.b = 0 then (if step = 1 then l / 4 * 4 + l % 4 / 2 * 2 else l / 4 * 4 + l % 4 % 2)
      else l / 4 * 4) = lo l := by
    have hrow : l / 4 * 4 + l % 4 / 2 * 2 = l / 2 * 2 := by omega
    have hcol : l % 4 % 2 = l % 2 := by omega
    rw [hrow, hcol, ← ite_not]
    rfl
  exact laneSlot_v fun l => by simp only [hlo]; rfl

end

/-- Settles O7: each form is a two-operand lane slot whose operation is the rule's arithmetic. -/
theorem laneIntegerResult : Obligations.LaneIntegerResult := by
  intro u e he q h
  simp only [List.mem_cons, List.not_mem_nil, or_false] at he
  rcases he with rfl | rfl | rfl | rfl | rfl | rfl | rfl | rfl | rfl | rfl | rfl | rfl | rfl
  · exact gives_of_ok h rfl (exec_vmulhS u q.w q.s) (vBinary_sc false fun _ _ => rfl)
  · exact gives_of_ok h rfl (exec_vmulhU u q.w q.s) (vBinary_sc false fun _ _ => rfl)
  · exact gives_of_ok h rfl (exec_vand u q.w q.s) (vBinary_sc false fun _ _ => rfl)
  · exact gives_of_ok h rfl (exec_vor u q.w q.s) (vBinary_sc false fun _ _ => rfl)
  · exact gives_of_ok h rfl (exec_vxor u q.w q.s) (vBinary_sc false fun _ _ => rfl)
  · exact gives_of_ok h rfl (exec_vshl u q.w q.s) (vBinary_sc true shl_eq_shiftLeft)
  · exact gives_of_ok h rfl (exec_vshr u q.w q.s) (vBinary_sc true shr_eq_shiftRight)
  · exact gives_of_ok h rfl (exec_vsar u q.w q.s) (vBinary_sc true sar_eq_shiftArith)
  · exact gives_of_ok h rfl (exec_vminS u q.w q.s) (vBinary_sc false minS_eq)
  · exact gives_of_ok h rfl (exec_vminU u q.w q.s) (vBinary_sc false minU_eq)
  · exact gives_of_ok h rfl (exec_vmaxS u q.w q.s) (vBinary_sc false maxS_eq)
  · exact gives_of_ok h rfl (exec_vmaxU u q.w q.s) (vBinary_sc false maxU_eq)
  · exact gives_of_ok h rfl (exec_vbfx u q.w q.s) (vBinary_sc true bfx_eq_bitField)

/-- Settles O8: the forms without and with the carry predicate, and the clamped ones. -/
theorem laneCarryAndSaturation : Obligations.LaneCarryAndSaturation := by
  refine ⟨fun u e he q h => ?_, fun u q h => ⟨fun hsat => ?_, fun hsat => ?_⟩⟩
  · simp only [List.mem_cons, List.not_mem_nil, or_false] at he
    rcases he with rfl | rfl
    · exact ⟨fun hsat hcv => gives_of_ok h rfl (exec_vadd u q.w q.s) (vAddSub_plain hsat hcv),
        fun hsat hcv => gives_of_ok h rfl (exec_vadd u q.w q.s) (vAddSub_carry hsat hcv),
        fun hsat => gives_of_ok h rfl (exec_vadd u q.w q.s) (vAddSub_sat (fun _ _ => rfl) hsat)⟩
    · refine ⟨fun hsat hcv => gives_of_ok h rfl (exec_vsub u q.w q.s) ?_, fun hsat hcv => gives_of_ok h rfl (exec_vsub u q.w q.s) ?_,
        fun hsat => gives_of_ok h rfl (exec_vsub u q.w q.s) (vAddSub_sat (fun _ _ => rfl) hsat)⟩
      · have hsub := vAddSub_plain (wrap := subBorrow) (sat := subSat) hsat hcv
        simp only [subBorrow_eq] at hsub
        exact hsub
      · have hsub := vAddSub_carry (wrap := subBorrow) (sat := subSat) hsat hcv
        simp only [subBorrow_eq] at hsub
        exact hsub
  · exact gives_of_ok h rfl (exec_vmul u q.w q.s) (vMul_plain hsat)
  · exact gives_of_ok h rfl (exec_vmul u q.w q.s) (vMul_sat hsat)

/-- Settles O9: each form writes its one register. -/
theorem laneTestsAndPredicates : Obligations.LaneTestsAndPredicates := by
  intro u q x pa pb ppo
  refine ⟨fun h => ?_, fun h => ?_, fun h => ?_, fun h _ => ?_, fun e he h => ?_, fun e he h => ?_, fun h => ?_⟩
  · exact gives_of_ok h rfl (exec_vclz u q.w q.s) (vUnary_sc clz_eq_leadingZeros)
  · exact gives_of_ok h rfl (exec_vpopc u q.w q.s) (vUnary_sc popc_eq_countP)
  · exact gives_of_ok h rfl (exec_vbfi u q.w q.s) vBfi_sc
  · exact gives_of_ok h rfl (exec_vsel u q.w q.s) vSel_sc
  · simp only [List.mem_cons, List.not_mem_nil, or_false] at he
    rcases he with rfl | rfl
    · exact gives_of_ok h rfl (exec_vcmpS u q.w q.s) (vCmp_sc true)
    · exact gives_of_ok h rfl (exec_vcmpU u q.w q.s) (vCmp_sc false)
  · simp only [List.mem_cons, List.not_mem_nil, or_false] at he
    rcases he with rfl | rfl | rfl
    · exact gives_of_ok h rfl (exec_pand u q.w q.s) (pBinary_sc _)
    · exact gives_of_ok h rfl (exec_por u q.w q.s) (pBinary_sc _)
    · exact gives_of_ok h rfl (exec_pxor u q.w q.s) (pBinary_sc _)
  · exact gives_of_ok h rfl (exec_pnot u q.w q.s) pNot_sc

/-- Settles O10: what each form takes from other lanes, and the two cases of a uniform destination. -/
theorem laneExchange : Obligations.LaneExchange := by
  intro u q
  refine ⟨fun h => ?_, fun h => ?_, fun h => ?_, fun h _ => ⟨fun hguard hpo => ?_, fun hguard => ?_⟩,
    fun h => ⟨fun hguard => ?_, fun hguard => ?_⟩, fun e he h => ?_⟩
  · exact gives_of_ok h rfl (exec_vshuf u q.w q.s) vShuf_sc
  · exact gives_of_ok h rfl (exec_vbcast u q.w q.s) vBcast_sc
  · exact gives_of_ok h rfl (exec_vbcastLane u q.w q.s) vBcastLane_sc
  · exact gives_of_ok h rfl (exec_vred u q.w q.s) (vRed_clean hguard hpo)
  · exact gives_of_ok h rfl (exec_vred u q.w q.s) (laneToUniform_dim hguard)
  · exact gives_of_ok h rfl (exec_vvote u q.w q.s) (vVote_clean hguard)
  · exact gives_of_ok h rfl (exec_vvote u q.w q.s) (laneToUniform_dim hguard)
  · simp only [List.mem_cons, List.not_mem_nil, or_false] at he
    rcases he with rfl | rfl
    · exact gives_of_ok h rfl (exec_vqdx u q.w q.s) (vQuad_sc 1)
    · exact gives_of_ok h rfl (exec_vqdy u q.w q.s) (vQuad_sc 2)

end Sys2Proof.Laws.LaneForms
end

section
/-! SUPPORT. Integer division in the lanes, the binary16 and binary64 forms, and the statements O12 and O13 (R187-R189). -/

namespace Sys2Proof.Laws.LaneArithmetic

open Sys2Proof.Machine Sys2Proof.Safety Sys2Proof.Laws Sys2Proof.Laws.IntegerArithmetic

/-! ## Integer division (R189) -/

section
variable {q : Taken}

/-- A lane result counts in the active lanes only. -/
theorem toLanes_congr {lat r : Nat} {val val' : Nat → PWord} (h : ∀ l ∈ q.act, val l = val' l) :
    q.toLanes lat r val = q.toLanes lat r val' := by
  rw [Taken.toLanes, Taken.toLanes, List.map_congr_left fun l hl => congrArg (RegWrite.v r l) (h l hl)]

/-- Whether an operand of a lane's division is poisoned. -/
abbrev operandPoison (q : Taken) (l : Nat) : Bool := (vreg q.g q.a l).poison || (q.vy false l).poison

/-- The rounded quotient of a lane's operands. -/
abbrev quotient (q : Taken) (l : Nat) : Int :=
  (roundInt q.sc.mod.rm.toNat
    { neg := decide ((vreg q.g q.a l).val.toInt < 0) != decide ((q.vy false l).val.toInt < 0)
      num := (vreg q.g q.a l).val.toInt.natAbs
      den := (q.vy false l).val.toInt.natAbs
      e := 0 }).1

/-- The active lanes that divide by 0, and do so by no poisoned operand. -/
abbrev zeroDivisors (q : Taken) : LaneMask :=
  maskOf fun l => (actives q.sc).getLsbD l && !operandPoison q l && (q.vy false l).val == 0

/-- The answer of a lane whose divisor is not 0. -/
theorem intQuotient_eq (l : Nat) : intQuotient q.sc.mod.rm.toNat q.sc.mod.sat (vreg q.g q.a l).val (q.vy false l).val =
    if q.sc.mod.sat then ((clampInt32 (quotient q l)).1, if (clampInt32 (quotient q l)).2 then fSAT else 0)
    else (BitVec.ofInt 32 (quotient q l), 0) := by
  rw [intQuotient, clamp32_eq_clampInt32]
  rfl

theorem i32Div_sc (hfmt : q.sc.mod.fmt = 7) : f32Div q.sc =
    if zeroDivisors q ≠ 0 then (q.s, .trap ⟨8, 0, zeroDivisors q, 0⟩)
    else
      let r (l : Nat) := if (q.vy false l).val = 0 then (Config.poisonedQuotient (vreg q.g q.a l).val, 0)
        else intQuotient q.sc.mod.rm.toNat q.sc.mod.sat (vreg q.g q.a l).val (q.vy false l).val
      (q.s, .ok [q.toLanes 24 q.d fun l => ⟨(r l).1, operandPoison q l⟩]
        (flagUnion (q.act.map fun l => unlessPoison (operandPoison q l) (r l).2)) []) := by
  have hbad : (maskOf fun l => (actives q.sc).getLsbD l && (vB false q.sc l).val == 0 && !(vA q.sc l).poison
      && !(vB false q.sc l).poison) = zeroDivisors q := by
    refine congrArg maskOf (funext fun l => ?_)
    rw [vB_sc, Bool.and_assoc, Bool.and_assoc, Bool.and_assoc, ← Bool.not_or, Bool.and_comm (_ == _)]
    rfl
  rw [f32Div, if_pos hfmt, i32Div]
  simp only [hbad]
  refine if_congr bne_iff_ne rfl (laneSlot_v fun l => ?_)
  rw [vB_sc]
  rfl

/-- A quotient with no divisor of 0 and no poison among the active lanes. -/
theorem i32Div_quotient (hfmt : q.sc.mod.fmt = 7) (hy : ∀ l ∈ q.act, (q.vy false l).val ≠ 0)
    (hpo : ∀ l ∈ q.act, operandPoison q l = false) {val : Nat → Word} {fl : Nat → BitVec 6}
    (hval : ∀ l, intQuotient q.sc.mod.rm.toNat q.sc.mod.sat (vreg q.g q.a l).val (q.vy false l).val = (val l, fl l)) :
    f32Div q.sc = (q.s, .ok [q.toLanes 24 q.d fun l => ⟨val l, operandPoison q l⟩] (flagUnion (q.act.map fl)) []) := by
  have hnone : zeroDivisors q = 0 := maskOf_eq_zero fun l _ => by
    by_cases hl : l ∈ q.act
    · rw [beq_false_of_ne (hy l hl), Bool.and_false]
    · rw [Bool.eq_false_iff.mpr (mt mem_lanesOf.mpr hl), Bool.false_and, Bool.false_and]
  rw [i32Div_sc hfmt, if_neg (not_not_intro hnone)]
  simp only [hval]
  rw [toLanes_congr fun l hl => by rw [if_neg (hy l hl)],
    List.map_congr_left fun l hl => by rw [if_neg (hy l hl), hpo l hl, unlessPoison, if_neg Bool.false_ne_true]]

theorem i32Div_traps (hfmt : q.sc.mod.fmt = 7) (h : ∃ l ∈ q.act, operandPoison q l = false ∧ (q.vy false l).val = 0) :
    f32Div q.sc = (q.s, .trap ⟨8, 0, zeroDivisors q, 0⟩) := by
  obtain ⟨l, hl, hpo, hy⟩ := h
  have hbit := mem_lanesOf.mp hl
  have hsome : zeroDivisors q ≠ 0 := maskOf_ne_zero (BitVec.lt_of_getLsbD hbit) (by rw [hbit, hpo, hy]; rfl)
  rw [i32Div_sc hfmt, if_pos hsome]

end

/-- Settles O12: the quotient where every active lane has one, clamped or not, and the trap. -/
theorem laneIntegerDivision : Obligations.LaneIntegerDivision := by
  intro u q h hfmt x y po neg r
  refine ⟨fun hy hpo => ⟨fun hsat => ?_, fun hsat => ?_⟩, fun hzero => ?_⟩
  · have hdiv := i32Div_quotient hfmt (fun l hl => hy l hl (hpo l hl)) hpo (fl := fun _ => 0) fun l =>
      (intQuotient_eq l).trans (if_neg (Bool.eq_false_iff.mp hsat))
    rw [flagUnion_none] at hdiv
    exact gives_of_ok h rfl (exec_fdivF32 u q.w q.s) hdiv
  · exact gives_of_ok h rfl (exec_fdivF32 u q.w q.s) (i32Div_quotient hfmt (fun l hl => hy l hl (hpo l hl)) hpo fun l =>
      (intQuotient_eq l).trans (if_pos hsat))
  · exact traps_of_trap h rfl (exec_fdivF32 u q.w q.s) (i32Div_traps hfmt hzero)

/-! ## Binary16 and binary64 (R187, R188) -/

/-- Operand B under the float rule for binary16 is `vyF16`. -/
theorem vBf16_sc (q : Taken) (l : Nat) : vBf16 q.sc l = q.vyF16 l := by rfl

/-- A half of a word as a binary16 value. -/
abbrev half (x : Word) (k : Nat) : FVal := decodeF binary16 (x.toNat / 2 ^ (16 * k) % 65536)

/-- A pair as a binary64 value. -/
abbrev double (v : Nat × Bool) : FVal := decodeF binary64 v.1

section
variable (q : Taken)

theorem f16Binary_sc (f : Nat → FVal → FVal → Nat × BitVec 6) :
    let r (l k : Nat) := f q.sc.mod.rm.toNat (half (vreg q.g q.a l).val k) (half (q.vyF16 l).val k)
    let po (l : Nat) := (vreg q.g q.a l).poison || (q.vyF16 l).poison
    f16Binary f q.sc = (q.s, .ok [q.toLanes 6 q.d fun l => ⟨BitVec.ofNat 32 ((r l 0).1 + 65536 * (r l 1).1), po l⟩]
      (flagUnion (q.act.map fun l => unlessPoison (po l) ((r l 0).2 ||| (r l 1).2))) []) :=
  laneSlot_v fun l => by rw [vBf16_sc]; rfl

theorem f16Fma_sc :
    let z (l : Nat) := vreg q.g (if q.sc.mod.cv then q.sc.mod.creg.toNat else q.d) l
    let r (l k : Nat) := ffma binary16 q.sc.mod.rm.toNat (half (vreg q.g q.a l).val k) (half (q.vyF16 l).val k) (half (z l).val k)
    let po (l : Nat) := (vreg q.g q.a l).poison || (q.vyF16 l).poison || (z l).poison
    f16Fma q.sc = (q.s, .ok [q.toLanes 6 q.d fun l => ⟨BitVec.ofNat 32 ((r l 0).1 + 65536 * (r l 1).1), po l⟩]
      (flagUnion (q.act.map fun l => unlessPoison (po l) ((r l 0).2 ||| (r l 1).2))) []) :=
  laneSlot_v fun l => by rw [vBf16_sc]; rfl

theorem f64Binary_sc (lat : Nat) (f : Nat → FVal → FVal → Nat × BitVec 6) :
    let r (l : Nat) := f q.sc.mod.rm.toNat (double (vpair q.g q.a l)) (double (vpair q.g q.b l))
    let po (l : Nat) := (vpair q.g q.a l).2 || (vpair q.g q.b l).2
    f64Binary lat f q.sc = (q.s, .ok [q.toPairs lat q.d fun l => ((r l).1, po l)]
      (flagUnion (q.act.map fun l => unlessPoison (po l) (r l).2)) []) :=
  laneSlot_pair fun _ => rfl

theorem f64Unary_sc (f : Nat → FVal → Nat × BitVec 6) :
    let r (l : Nat) := f q.sc.mod.rm.toNat (double (vpair q.g q.a l))
    f64Unary f q.sc = (q.s, .ok [q.toPairs 48 q.d fun l => ((r l).1, (vpair q.g q.a l).2)]
      (flagUnion (q.act.map fun l => unlessPoison (vpair q.g q.a l).2 (r l).2)) []) :=
  laneSlot_pair fun _ => rfl

theorem f64Fma_sc :
    let z (l : Nat) := vpair q.g (if q.sc.mod.cv then q.sc.mod.creg.toNat else q.d) l
    let r (l : Nat) := ffma binary64 q.sc.mod.rm.toNat (double (vpair q.g q.a l)) (double (vpair q.g q.b l)) (double (z l))
    let po (l : Nat) := (vpair q.g q.a l).2 || (vpair q.g q.b l).2 || (z l).2
    f64Fma q.sc = (q.s, .ok [q.toPairs 12 q.d fun l => ((r l).1, po l)]
      (flagUnion (q.act.map fun l => unlessPoison (po l) (r l).2)) []) :=
  laneSlot_pair fun _ => rfl

theorem f64Cmp_sc :
    let x (l : Nat) := double (vpair q.g q.a l)
    let y (l : Nat) := double (vpair q.g q.b l)
    let po (l : Nat) := (vpair q.g q.a l).2 || (vpair q.g q.b l).2
    f64Cmp q.sc = (q.s, .ok [q.toPred 4 (q.d % 8) fun l => ⟨fcmpCond (q.d / 8) (x l) (y l), po l⟩]
      (flagUnion (q.act.map fun l => unlessPoison (po l) (sigFlag [x l, y l]))) []) :=
  laneSlot_p fun _ => rfl

end

/-- Settles O13: each row is one of the shapes above. -/
theorem laneBinary16And64 : Obligations.LaneBinary16And64 := by
  intro u q rm hf x y X Y dbl
  refine ⟨fun e he h => ?_, fun h => ?_, fun e he h => ?_, fun e he h => ?_, fun h => ?_, fun h => ?_⟩
  · simp only [List.mem_cons, List.not_mem_nil, or_false] at he
    rcases he with rfl | rfl | rfl
    · exact gives_of_ok h rfl (exec_faddF16 u q.w q.s) (f16Binary_sc q (fadd binary16))
    · exact gives_of_ok h rfl (exec_fsubF16 u q.w q.s) (f16Binary_sc q (fsub binary16))
    · exact gives_of_ok h rfl (exec_fmulF16 u q.w q.s) (f16Binary_sc q (fmul binary16))
  · exact gives_of_ok h rfl (exec_ffmaF16 u q.w q.s) (f16Fma_sc q)
  · simp only [List.mem_cons, List.not_mem_nil, or_false] at he
    rcases he with rfl | rfl | rfl | rfl | rfl | rfl
    · exact gives_of_ok h rfl (exec_faddF64 u q.w q.s) (f64Binary_sc q 12 (fadd binary64))
    · exact gives_of_ok h rfl (exec_fsubF64 u q.w q.s) (f64Binary_sc q 12 (fsub binary64))
    · exact gives_of_ok h rfl (exec_fmulF64 u q.w q.s) (f64Binary_sc q 12 (fmul binary64))
    · exact gives_of_ok h rfl (exec_fminF64 u q.w q.s) (f64Binary_sc q 12 fun _ => fminmax false binary64)
    · exact gives_of_ok h rfl (exec_fmaxF64 u q.w q.s) (f64Binary_sc q 12 fun _ => fminmax true binary64)
    · exact gives_of_ok h rfl (exec_fdivF64 u q.w q.s) (f64Binary_sc q 48 (fdiv binary64))
  · simp only [List.mem_cons, List.not_mem_nil, or_false] at he
    rcases he with rfl | rfl | rfl
    · exact gives_of_ok h rfl (exec_fsqrtF64 u q.w q.s) (f64Unary_sc q (fsqrt binary64))
    · exact gives_of_ok h rfl (exec_frcpF64 u q.w q.s) (f64Unary_sc q (frcp binary64))
    · exact gives_of_ok h rfl (exec_frsqF64 u q.w q.s) (f64Unary_sc q (frsq binary64))
  · exact gives_of_ok h rfl (exec_ffmaF64 u q.w q.s) (f64Fma_sc q)
  · exact gives_of_ok h rfl (exec_fcmpF64 u q.w q.s) (f64Cmp_sc q)

end Sys2Proof.Laws.LaneArithmetic
end

section
/-! SUPPORT. CVT, CPACK and CUNPACK: what each answers of its operands, and the statement O14 (R190-R196). -/

namespace Sys2Proof.Laws.Conversions

open Sys2Proof.Machine Sys2Proof.Safety Sys2Proof.Laws

/-! ## CVT (R190-R194) -/

/-- Only binary64 elements take a pair. -/
theorem elemWidth_eq_64 {f : Nat} : elemWidth f = 64 ↔ f = 1 := by
  unfold elemWidth
  split <;> simp_all

section
variable (c : SC) (f l : Nat)

/-- The word or pair that a lane of CVT reads, and its poison. -/
abbrev cvtOperand : Nat × Bool :=
  if cvtSource c.w = 1 then vpair c.g c.a l else ((vreg c.g c.a l).val.toNat, (vreg c.g c.a l).poison)

/-- The source element of a lane. -/
abbrev cvtCode : Nat :=
  if cvtSource c.w = 1 then (cvtOperand c l).1
  else (cvtOperand c l).1 / 2 ^ (elemWidth (cvtSource c.w) * (c.b % 8)) % 2 ^ elemWidth (cvtSource c.w)

/-- The code and the flags that a lane's element is converted to. -/
abbrev cvtResult : Nat × BitVec 6 :=
  cvtValue f (cvtSource c.w) (cvtCode c l) ⟨c.rm, (streamOf c.g l).queue.headD 0⟩ c.mod.sat
    (if c.mod.cv then some ((tget 0 c.g.k c.creg).toNat % 256) else none)

/-- A destination narrower than a word keeps its other bits, and with them its poison. -/
abbrev cvtPoison : Bool := (cvtOperand c l).2 || (decide (elemWidth f < 32) && (vreg c.g c.d l).poison)

theorem elemAt_source : elemAt (elemWidth (cvtSource c.w)) (c.b % 8) (cvtOperand c l).1 = cvtCode c l :=
  if_congr elemWidth_eq_64 rfl rfl

end

section
variable {q : Taken} {f : Nat}

/-- The result of CVT: a pair, or a word with one element replaced. -/
abbrev cvtEff (q : Taken) (f : Nat) : Eff :=
  if f = 1 then q.toPairs 8 q.d fun l => ((cvtResult q.sc f l).1, cvtPoison q.sc f l)
  else q.toLanes 8 q.d fun l => ⟨putElem (elemWidth f) (q.b / 8) (vreg q.g q.d l).val (cvtResult q.sc f l).1, cvtPoison q.sc f l⟩

theorem laneSlot_cvt {lane : SC → Nat → List RegWrite × BitVec 6} {fl : Nat → BitVec 6}
    (hlane : ∀ l, lane q.sc l = (if f = 1 then pairWrites q.d l (cvtResult q.sc f l).1 (cvtPoison q.sc f l)
      else [.v q.d l ⟨putElem (elemWidth f) (q.b / 8) (vreg q.g q.d l).val (cvtResult q.sc f l).1, cvtPoison q.sc f l⟩], fl l)) :
    laneSlot 8 lane q.sc = (q.s, .ok [cvtEff q f] (flagUnion (q.act.map fl)) []) := by
  by_cases hf : f = 1
  · rw [cvtEff, if_pos hf]
    exact laneSlot_pair fun l => by rw [hlane, if_pos hf]
  · rw [cvtEff, if_neg hf]
    exact laneSlot_v fun l => by rw [hlane, if_neg hf]

/-- CVT with its pairs aligned, its registers held and not pending, and a word in each stream that it draws from. -/
theorem cvt_sc (hsrc : cvtSource q.w = 1 → q.a % 2 = 0) (hdst : f = 1 → q.d % 2 = 0)
    (huses : ∀ k ∈ cvtUses f q.sc, k.first + k.cnt ≤ 8 * q.g.blocks ∧ pendingUse q.g q.path k = false)
    (hrandom : q.sc.mod.rm = 5 → ∀ l ∈ q.act, (streamOf q.g l).queue ≠ []) :
    cvt f q.sc = (q.s, .ok (cvtEff q f :: if q.sc.mod.rm = 5 then [.popRandom (actives q.sc)] else [])
      (flagUnion (q.act.map fun l => unlessPoison (cvtPoison q.sc f l) (cvtResult q.sc f l).2)) (cvtUses f q.sc)) := by
  have haligned : ¬((cvtSource q.w = 1 ∧ q.a % 2 = 1) ∨ (f = 1 ∧ q.d % 2 = 1)) := by omega
  have hrm : q.sc.rm = 5 ↔ q.sc.mod.rm = 5 := BitVec.toNat_inj (y := 5#3)
  have hdrawn : ¬(decide (q.sc.rm = 5) && (lanesOf (actives q.sc)).any fun l => (streamOf q.g l).queue.isEmpty) = true := by
    simp only [hrm, Bool.and_eq_true, decide_eq_true_eq, List.any_eq_true, List.isEmpty_iff, not_and, not_exists]
    exact hrandom
  refine (if_neg haligned).trans (Branches.withUsesIf_ok (live := fun _ => true) (fun _ u hu _ => (huses u hu).1)
    (fun u hu => (huses u hu).2) ((if_neg hdrawn).trans ?_))
  dsimp only
  rw [laneSlot_cvt (f := f) fun l => by rw [elemAt_source]; rfl]
  by_cases h5 : q.sc.mod.rm = 5
  · simp only [if_pos h5, if_pos (hrm.mpr h5)]
    rfl
  · simp only [if_neg h5, if_neg (mt hrm.mp h5)]
    rfl

end

/-! ## Packed blocks (R195, R196) -/

theorem cPack_sc (q : Taken) :
    let blk := q4Pack ((List.range 32).map fun i =>
      if (actives q.sc).getLsbD (i / 2) then f32 (vreg q.g (q.a + i % 2) (i / 2)).val else .fin false 0 0)
    let po := q.act.any fun l => (vreg q.g q.a l).poison || (vreg q.g (q.a + 1) l).poison
    cPack q.sc = (q.s, .ok [q.toLanes 8 q.d fun l => ⟨BitVec.ofNat 32 (blk.2.1.getD l 0 + 256 * blk.1), po⟩]
      (if actives q.sc = 0 then 0 else unlessPoison po blk.2.2) []) := by
  rfl

/-- A pair of words as one number. -/
theorem pairWrites_words (r l x y : Nat) (po : Bool) : pairWrites r l (x % 2 ^ 32 + 2 ^ 32 * y) po =
    [.v r l ⟨BitVec.ofNat 32 x, po⟩, .v (r + 1) l ⟨BitVec.ofNat 32 y, po⟩] := by
  have hlo : BitVec.ofNat 32 (x % 2 ^ 32 + 2 ^ 32 * y) = BitVec.ofNat 32 x :=
    BitVec.eq_of_toNat_eq (by rw [BitVec.toNat_ofNat, BitVec.toNat_ofNat]; omega)
  have hhi : (x % 2 ^ 32 + 2 ^ 32 * y) / 2 ^ 32 = y := by omega
  rw [pairWrites, hlo, hhi]

theorem cUnpack_sc (q : Taken) :
    let x (l : Nat) := vreg q.g q.a l
    let e (l : Nat) := (x l).val.toNat / 256 % 256
    let n (l : Nat) := q4Decode ((x l).val.toNat % 256)
    let v (l : Nat) (i : Int) : Nat × BitVec 6 := if e l = 255 then (canonNaN binary32, fNV)
      else roundF binary32 q.sc.mod.rm.toNat { neg := decide (i < 0), num := i.natAbs, e := (e l : Int) - 127 }
    cUnpack q.sc = (q.s, .ok [q.toPairs 8 q.d fun l => ((v l (n l).1).1 % 2 ^ 32 + 2 ^ 32 * (v l (n l).2.1).1, (x l).poison)]
      (flagUnion (q.act.map fun l => unlessPoison (x l).poison
        ((v l (n l).1).2 ||| (v l (n l).2.1).2 ||| (if (n l).2.2 then fNV else 0)))) []) :=
  laneSlot_pair fun l => by
    simp only [pairWrites_words, ModuleEvents.fld_eq_div]
    rfl

/-- Settles O14: CVT to each of its formats, and the two block forms. -/
theorem convertAndPack : Obligations.ConvertAndPack := by
  refine ⟨fun e he q h => ?_, fun q h => ?_, fun q h => ?_⟩
  · intro m src w x code scale r po us hsrc hdst huses hrandom
    simp only [List.mem_cons, List.not_mem_nil, or_false] at he
    rcases he with rfl | rfl | rfl | rfl | rfl | rfl | rfl | rfl | rfl | rfl | rfl | rfl | rfl | rfl
    · exact gives_of_ok h rfl (exec_cvtF64 q.w q.s) (cvt_sc hsrc hdst huses hrandom)
    · exact gives_of_ok h rfl (exec_cvtF32 q.w q.s) (cvt_sc hsrc hdst huses hrandom)
    · exact gives_of_ok h rfl (exec_cvtF16 q.w q.s) (cvt_sc hsrc hdst huses hrandom)
    · exact gives_of_ok h rfl (exec_cvtBf16 q.w q.s) (cvt_sc hsrc hdst huses hrandom)
    · exact gives_of_ok h rfl (exec_cvtE4m3 q.w q.s) (cvt_sc hsrc hdst huses hrandom)
    · exact gives_of_ok h rfl (exec_cvtE5m2 q.w q.s) (cvt_sc hsrc hdst huses hrandom)
    · exact gives_of_ok h rfl (exec_cvtI32 q.w q.s) (cvt_sc hsrc hdst huses hrandom)
    · exact gives_of_ok h rfl (exec_cvtI16 q.w q.s) (cvt_sc hsrc hdst huses hrandom)
    · exact gives_of_ok h rfl (exec_cvtI8 q.w q.s) (cvt_sc hsrc hdst huses hrandom)
    · exact gives_of_ok h rfl (exec_cvtI4 q.w q.s) (cvt_sc hsrc hdst huses hrandom)
    · exact gives_of_ok h rfl (exec_cvtUn8 q.w q.s) (cvt_sc hsrc hdst huses hrandom)
    · exact gives_of_ok h rfl (exec_cvtSrgb8 q.w q.s) (cvt_sc hsrc hdst huses hrandom)
    · exact gives_of_ok h rfl (exec_cvtB1 q.w q.s) (cvt_sc hsrc hdst huses hrandom)
    · exact gives_of_ok h rfl (exec_cvtE8m0 q.w q.s) (cvt_sc hsrc hdst huses hrandom)
  · exact gives_of_ok h rfl (exec_cpack q.w q.s) (cPack_sc q)
  · exact gives_of_ok h rfl (exec_cunpack q.w q.s) (cUnpack_sc q)

end Sys2Proof.Laws.Conversions
end

section
/-! SUPPORT. What the slots that access memory share: the use of a poisoned operand, checks that pass, fail or must wait, and what a ready
slot leads to when its meaning has translated before it traps or parks (R76, R201, R208, R384). -/

namespace Sys2Proof.Laws

open Sys2Proof.Machine Sys2Proof.Safety

/-! ## Slots whose translations have changed the state -/

section
variable {q : Taken} {i : Instr} {f : Form} {cls : Nat} {w : Slot} {m : Meaning} {s' : State}

/-- A ready slot whose meaning answers a trap raises it, in the state with what its translations have changed. -/
theorem trapSlot_of_trap {t : TrapInfo} (h : q.ready i) (hi : slotOf i = some (f, cls, w)) (hx : exec i q.s = runSlot f cls w m q.s)
    (hm : m q.sc = (s', .trap t)) : exec i q.s = .next (trapSlot s' q.is q.is.idx t) := by
  obtain ⟨rfl, rfl, rfl⟩ : f = q.f ∧ cls = q.cls ∧ w = q.w := by simpa [hi] using h.1
  obtain ⟨-, hcur, hg, -⟩ := id h
  rw [hx]
  simp only [runSlot, hcur, hg]
  rw [slotStep_ready q i m h, hm]
  rfl

/-- A ready slot whose meaning parks its path posts the report, its bundle being charged. -/
theorem parkOnPage_of_park {r : Report} (h : q.ready i) (hi : slotOf i = some (f, cls, w)) (hx : exec i q.s = runSlot f cls w m q.s)
    (hm : m q.sc = (s', .park r)) : exec i q.s = .next (parkOnPage (chargeIssued s' q.is) q.is r) := by
  obtain ⟨rfl, rfl, rfl⟩ : f = q.f ∧ cls = q.cls ∧ w = q.w := by simpa [hi] using h.1
  obtain ⟨-, hcur, hg, -⟩ := id h
  rw [hx]
  simp only [runSlot, hcur, hg]
  rw [slotStep_ready q i m h, hm]
  rfl

end

/-! ## Operands that a checked access uses (R76) -/

/-- The lanes in which an access uses a poisoned address or datum. -/
abbrev dirtyLanes (c : SC) (dirty : Nat → Bool) : LaneMask := maskOf fun l => (actives c ||| guardPoison c).getLsbD l && dirty l

theorem dirtyLanes_clean {q : Taken} {dirty : Nat → Bool} (h : q.clean dirty) : dirtyLanes q.sc dirty = 0#16 :=
  maskOf_eq_zero fun l hl => by
    cases hlane : (actives q.sc ||| guardPoison q.sc).getLsbD l with
    | false => rfl
    | true => rw [h l hl hlane, Bool.and_false]

theorem dirtyLanes_not_clean {q : Taken} {dirty : Nat → Bool} (h : ¬q.clean dirty) : dirtyLanes q.sc dirty ≠ 0#16 := by
  simp only [Taken.clean, not_forall, Bool.not_eq_false] at h
  obtain ⟨l, hl, hlane, hdirty⟩ := h
  exact maskOf_ne_zero hl (by rw [hlane, hdirty]; rfl)

/-! ## The event of lanes that fail (R384) -/

/-- The report of lanes whose page is not present (R376). -/
abbrev absentReport (slot access : Nat) (l : List LaneCheck) : Report :=
  { source := 4, access := access, va := (firstWith 1 l).1, slot := slot, level := (firstWith 1 l).2, lanes := (lanesWith 1 l).toNat }

section
variable {slot access : Nat} {l : List LaneCheck}

theorem checkEvent_outOfRange (h4 : lanesWith 4 l ≠ 0) :
    checkEvent slot access l = some (trapOf 4 (firstWith 4 l).1 (lanesWith 4 l)) := by
  simp only [checkEvent, if_neg h4]
  rfl

theorem checkEvent_misaligned (h4 : lanesWith 4 l = 0) (h3 : lanesWith 3 l ≠ 0) :
    checkEvent slot access l = some (trapOf 3 (firstWith 3 l).1 (lanesWith 3 l)) := by
  simp only [checkEvent, if_pos h4, if_neg h3]
  rfl

theorem checkEvent_absent (h4 : lanesWith 4 l = 0) (h3 : lanesWith 3 l = 0) (h1 : lanesWith 1 l ≠ 0) :
    checkEvent slot access l = some (.park (absentReport slot access l)) := by
  simp only [checkEvent, if_pos h4, if_pos h3, if_neg h1]
  rfl

theorem checkEvent_protected (h4 : lanesWith 4 l = 0) (h3 : lanesWith 3 l = 0) (h1 : lanesWith 1 l = 0) (h2 : lanesWith 2 l ≠ 0) :
    checkEvent slot access l = some (trapOf 6 (firstWith 2 l).1 (lanesWith 2 l)) := by
  simp only [checkEvent, if_pos h4, if_pos h3, if_pos h1, if_neg h2]
  rfl

end

/-! ## A checked access (R76, R201, R208) -/

section
variable {c : SC} {op access : Nat} {dirty : Nat → Bool} {chk : State → List Nat → State × Option (List LaneCheck)}
  {k : List LaneCheck → List Eff} {s' : State} {l : List LaneCheck}

theorem checkedAccess_dirty (h : dirtyLanes c dirty ≠ 0#16) :
    checkedAccess c op access dirty chk k = (c.s, trapOf 7 0 (dirtyLanes c dirty)) := if_pos (bne_iff_ne.mpr h)

section
variable (hclean : dirtyLanes c dirty = 0#16)
include hclean

/-- It waits where its unit starts no translation, or its bank is fenced. -/
theorem checkedAccess_held (hchk : chk c.s (lanesOf (actives c)) = (s', none)) : checkedAccess c op access dirty chk k = (c.s, .hold) := by
  simp only [checkedAccess, hclean, hchk]
  rfl

variable (hchk : chk c.s (lanesOf (actives c)) = (s', some l))
include hchk

/-- Under `.lanefault` the lanes that fail are recorded, and the others access. -/
theorem checkedAccess_lanefault (hlf : c.mod.lf = true) : checkedAccess c op access dirty chk k =
    (s', .ok (laneFaultEff c op l ++ k (l.filter fun x => x.cause == 0) ++ traceEff c l) 0 []) := by
  simp only [checkedAccess, hclean, hchk, hlf, if_true]
  rfl

/-- Otherwise lanes that fail bring about their event. -/
theorem checkedAccess_fails (hlf : c.mod.lf = false) {ev : SlotRes} (hev : checkEvent c.is.idx access l = some ev) :
    checkedAccess c op access dirty chk k = (s', ev) := by
  simp only [checkedAccess, hclean, hchk, hlf, hev]
  rfl

theorem checkedAccess_passes (hlf : c.mod.lf = false) (hok : ∀ x ∈ l, x.cause = 0) :
    checkedAccess c op access dirty chk k = (s', .ok (k l ++ traceEff c l) 0 []) := by
  simp only [checkedAccess, hclean, hchk, hlf, checkEvent_passed hok, filter_passed hok]
  rfl

end

end

end Sys2Proof.Laws
end

section
/-! SUPPORT. The slots of global and pond memory: the rows of each form with its meaning, what each completes with, where it traps or parks,
and the statements O15 to O18, O20 and O21 (R199-R230). -/

namespace Sys2Proof.Laws.MemorySlots

open Sys2Proof.Machine Sys2Proof.Safety Sys2Proof.Laws

/-! ## Rows of the M class -/

/-- An instruction of the M class runs a meaning, which is told the opcode of its form. -/
def Runs (i : Slot → Instr) (m : Nat → Meaning) : Prop :=
  ∃ f, ∀ w, slotOf (i w) = some (f, 3, w) ∧ ∀ s, exec (i w) s = runSlot f 3 w (m f.op) s

theorem Runs.ready {q : Taken} {i : Slot → Instr} {m : Nat → Meaning} (hr : Runs i m) (h : q.ready (i q.w)) :
    slotOf (i q.w) = some (q.f, 3, q.w) ∧ exec (i q.w) q.s = runSlot q.f 3 q.w (m q.f.op) q.s := by
  obtain ⟨f, hf⟩ := hr
  obtain ⟨hi, hx⟩ := hf q.w
  obtain ⟨rfl, -⟩ : f = q.f ∧ 3 = q.cls := by simpa [hi] using h.1
  exact ⟨hi, hx q.s⟩

theorem Runs.congr {i : Slot → Instr} {m m' : Nat → Meaning} (hr : Runs i m) (hm : ∀ op c, m op c = m' op c) : Runs i m' :=
  (funext fun op => funext (hm op) : m = m') ▸ hr

/-- LD, LDS and LDP by size and extension, ST and STP by size, ATOM by operation and size, ATOMC by size. -/
abbrev ldRows : List ((Slot → Instr) × Nat × Bool) :=
  [(.ldB8, 1, false), (.ldS8, 1, true), (.ldB16, 2, false), (.ldS16, 2, true), (.ldB32, 4, false), (.ldB64, 8, false)]
abbrev ldsRows : List ((Slot → Instr) × Nat × Bool) :=
  [(.ldsB8, 1, false), (.ldsS8, 1, true), (.ldsB16, 2, false), (.ldsS16, 2, true), (.ldsB32, 4, false), (.ldsB64, 8, false)]
abbrev ldpRows : List ((Slot → Instr) × Nat × Bool) :=
  [(.ldpB8, 1, false), (.ldpS8, 1, true), (.ldpB16, 2, false), (.ldpS16, 2, true), (.ldpB32, 4, false), (.ldpB64, 8, false)]
abbrev stRows : List ((Slot → Instr) × Nat) := [(.stB8, 1), (.stB16, 2), (.stB32, 4), (.stB64, 8)]
abbrev stpRows : List ((Slot → Instr) × Nat) := [(.stpB8, 1), (.stpB16, 2), (.stpB32, 4), (.stpB64, 8)]
abbrev atomRows : List ((Slot → Instr) × AtomOp × Nat) :=
  [(.atomAdd, .add, 4), (.atomMinS, .minS, 4), (.atomMinU, .minU, 4), (.atomMaxS, .maxS, 4), (.atomMaxU, .maxU, 4), (.atomAnd, .and, 4),
    (.atomOr, .or, 4), (.atomXor, .xor, 4), (.atomExch, .exch, 4), (.atomAddB64, .add, 8), (.atomExchB64, .exch, 8),
    (.atomFaddF32, .fadd, 4), (.atomFminF32, .fmin, 4), (.atomFmaxF32, .fmax, 4)]
abbrev atomcRows : List ((Slot → Instr) × Nat) := [(.atomcB32, 4), (.atomcB64, 8)]

theorem ldRows_run : ∀ e ∈ ldRows, Runs e.1 fun op => mLoad op e.2.1 e.2.2 := by
  simp only [List.forall_mem_cons, List.not_mem_nil, IsEmpty.forall_iff, implies_true, and_true]
  exact ⟨⟨_, fun w => ⟨rfl, exec_ldB8 w⟩⟩, ⟨_, fun w => ⟨rfl, exec_ldS8 w⟩⟩, ⟨_, fun w => ⟨rfl, exec_ldB16 w⟩⟩,
    ⟨_, fun w => ⟨rfl, exec_ldS16 w⟩⟩, ⟨_, fun w => ⟨rfl, exec_ldB32 w⟩⟩, ⟨_, fun w => ⟨rfl, exec_ldB64 w⟩⟩⟩

theorem ldsRows_run : ∀ e ∈ ldsRows, Runs e.1 fun _ => mSpecLoad e.2.1 e.2.2 := by
  simp only [List.forall_mem_cons, List.not_mem_nil, IsEmpty.forall_iff, implies_true, and_true]
  exact ⟨⟨_, fun w => ⟨rfl, exec_ldsB8 w⟩⟩, ⟨_, fun w => ⟨rfl, exec_ldsS8 w⟩⟩, ⟨_, fun w => ⟨rfl, exec_ldsB16 w⟩⟩,
    ⟨_, fun w => ⟨rfl, exec_ldsS16 w⟩⟩, ⟨_, fun w => ⟨rfl, exec_ldsB32 w⟩⟩, ⟨_, fun w => ⟨rfl, exec_ldsB64 w⟩⟩⟩

theorem ldpRows_run : ∀ e ∈ ldpRows, Runs e.1 fun op => mPondLoad op e.2.1 e.2.2 := by
  simp only [List.forall_mem_cons, List.not_mem_nil, IsEmpty.forall_iff, implies_true, and_true]
  exact ⟨⟨_, fun w => ⟨rfl, exec_ldpB8 w⟩⟩, ⟨_, fun w => ⟨rfl, exec_ldpS8 w⟩⟩, ⟨_, fun w => ⟨rfl, exec_ldpB16 w⟩⟩,
    ⟨_, fun w => ⟨rfl, exec_ldpS16 w⟩⟩, ⟨_, fun w => ⟨rfl, exec_ldpB32 w⟩⟩, ⟨_, fun w => ⟨rfl, exec_ldpB64 w⟩⟩⟩

theorem stRows_run : ∀ e ∈ stRows, Runs e.1 fun op => mStore op e.2 := by
  simp only [List.forall_mem_cons, List.not_mem_nil, IsEmpty.forall_iff, implies_true, and_true]
  exact ⟨⟨_, fun w => ⟨rfl, exec_stB8 w⟩⟩, ⟨_, fun w => ⟨rfl, exec_stB16 w⟩⟩, ⟨_, fun w => ⟨rfl, exec_stB32 w⟩⟩,
    ⟨_, fun w => ⟨rfl, exec_stB64 w⟩⟩⟩

theorem stpRows_run : ∀ e ∈ stpRows, Runs e.1 fun op => mPondStore op e.2 := by
  simp only [List.forall_mem_cons, List.not_mem_nil, IsEmpty.forall_iff, implies_true, and_true]
  exact ⟨⟨_, fun w => ⟨rfl, exec_stpB8 w⟩⟩, ⟨_, fun w => ⟨rfl, exec_stpB16 w⟩⟩, ⟨_, fun w => ⟨rfl, exec_stpB32 w⟩⟩,
    ⟨_, fun w => ⟨rfl, exec_stpB64 w⟩⟩⟩

theorem atomRows_run : ∀ e ∈ atomRows, Runs e.1 fun op => mAtom op e.2.1 e.2.2 := by
  simp only [List.forall_mem_cons, List.not_mem_nil, IsEmpty.forall_iff, implies_true, and_true]
  exact ⟨⟨_, fun w => ⟨rfl, exec_atomAdd w⟩⟩, ⟨_, fun w => ⟨rfl, exec_atomMinS w⟩⟩, ⟨_, fun w => ⟨rfl, exec_atomMinU w⟩⟩,
    ⟨_, fun w => ⟨rfl, exec_atomMaxS w⟩⟩, ⟨_, fun w => ⟨rfl, exec_atomMaxU w⟩⟩, ⟨_, fun w => ⟨rfl, exec_atomAnd w⟩⟩,
    ⟨_, fun w => ⟨rfl, exec_atomOr w⟩⟩, ⟨_, fun w => ⟨rfl, exec_atomXor w⟩⟩, ⟨_, fun w => ⟨rfl, exec_atomExch w⟩⟩,
    ⟨_, fun w => ⟨rfl, exec_atomAddB64 w⟩⟩, ⟨_, fun w => ⟨rfl, exec_atomExchB64 w⟩⟩, ⟨_, fun w => ⟨rfl, exec_atomFaddF32 w⟩⟩,
    ⟨_, fun w => ⟨rfl, exec_atomFminF32 w⟩⟩, ⟨_, fun w => ⟨rfl, exec_atomFmaxF32 w⟩⟩⟩

theorem atomcRows_run : ∀ e ∈ atomcRows, Runs e.1 fun op => mAtomc op e.2 := by
  simp only [List.forall_mem_cons, List.not_mem_nil, IsEmpty.forall_iff, implies_true, and_true]
  exact ⟨⟨_, fun w => ⟨rfl, exec_atomcB32 w⟩⟩, ⟨_, fun w => ⟨rfl, exec_atomcB64 w⟩⟩⟩

/-! ## Slots that make a checked access -/

section
variable {q : Taken} {i : Slot → Instr} {m : Nat → Meaning} {access : Nat} {dirty : Nat → Bool}
  {chk : State → List Nat → State × Option (List LaneCheck)} {k : List LaneCheck → List Eff} {s' : State} {l : List LaneCheck}
  (hr : Runs i m) (h : q.ready (i q.w)) (hm : m q.f.op q.sc = checkedAccess q.sc q.f.op access dirty chk k)
include hr h hm

theorem traps_of_dirty (hdirty : ¬q.clean dirty) : q.traps (i q.w) 7 0 (dirtyLanes q.sc dirty) :=
  traps_of_trap h (hr.ready h).1 (hr.ready h).2 (hm.trans (checkedAccess_dirty (dirtyLanes_not_clean hdirty)))

variable (hclean : q.clean dirty)
include hclean

theorem holds_of_held (hchk : chk q.s q.act = (s', none)) : exec (i q.w) q.s = .next (holdSlot q.s q.is false) :=
  holds_of_hold h (hr.ready h).1 (hr.ready h).2 (hm.trans (checkedAccess_held (dirtyLanes_clean hclean) hchk))

variable (hchk : chk q.s q.act = (s', some l))
include hchk

/-- The access of all lanes where all pass; with `.lanefault`, of those that pass. -/
theorem gives_of_checked :
    ((∀ x ∈ l, x.cause = 0) → q.sc.mod.lf = false → q.gives (i q.w) s' (k l ++ traceEff q.sc l) 0 [])
    ∧ (q.sc.mod.lf = true → q.gives (i q.w) s'
        (laneFaultEff q.sc q.f.op l ++ k (l.filter fun x => x.cause == 0) ++ traceEff q.sc l) 0 []) := by
  obtain ⟨hi, hx⟩ := hr.ready h
  constructor
  · intro hok hlf
    exact gives_of_ok h hi hx (hm.trans (checkedAccess_passes (dirtyLanes_clean hclean) hchk hlf hok))
  · intro hlf
    exact gives_of_ok h hi hx (hm.trans (checkedAccess_lanefault (dirtyLanes_clean hclean) hchk hlf))

/-- Without `.lanefault`, the first cause in the order of R384 that a lane has traps, or parks the path. -/
theorem fails_in_order (hlf : q.sc.mod.lf = false) :
    (lanesWith 4 l ≠ 0 → exec (i q.w) q.s = .next (trapSlot s' q.is q.is.idx ⟨4, (firstWith 4 l).1, lanesWith 4 l, 0⟩))
    ∧ (lanesWith 4 l = 0 → lanesWith 3 l ≠ 0 →
        exec (i q.w) q.s = .next (trapSlot s' q.is q.is.idx ⟨3, (firstWith 3 l).1, lanesWith 3 l, 0⟩))
    ∧ (lanesWith 4 l = 0 → lanesWith 3 l = 0 → lanesWith 1 l ≠ 0 → 
        exec (i q.w) q.s = .next (parkOnPage (chargeIssued s' q.is) q.is (absentReport q.is.idx access l)))
    ∧ (lanesWith 4 l = 0 → lanesWith 3 l = 0 → lanesWith 1 l = 0 → lanesWith 2 l ≠ 0 →
        exec (i q.w) q.s = .next (trapSlot s' q.is q.is.idx ⟨6, (firstWith 2 l).1, lanesWith 2 l, 0⟩)) := by
  obtain ⟨hi, hx⟩ := hr.ready h
  have hev {ev : SlotRes} (hev : checkEvent q.sc.is.idx access l = some ev) : m q.f.op q.sc = (s', ev) :=
    hm.trans (checkedAccess_fails (dirtyLanes_clean hclean) hchk hlf hev)
  refine ⟨fun h4 => ?_, fun h4 h3 => ?_, fun h4 h3 h1 => ?_, fun h4 h3 h1 h2 => ?_⟩
  · exact trapSlot_of_trap h hi hx (hev (checkEvent_outOfRange h4))
  · exact trapSlot_of_trap h hi hx (hev (checkEvent_misaligned h4 h3))
  · exact parkOnPage_of_park h hi hx (hev (checkEvent_absent h4 h3 h1))
  · exact trapSlot_of_trap h hi hx (hev (checkEvent_protected h4 h3 h1 h2))

end

/-! ## The forms as checked accesses -/

section
variable (op size : Nat) (c : SC)

theorem mLoad_eq (signed : Bool) : mLoad op size signed c =
    checkedAccess c op 1 (fun l => (globalEa c l).2) (chkGlobal c { r := true } size) fun good =>
      accessEff c (.load (8 * size) signed c.d) false size (good.map readAccess) ++ poisonedDest c c.d (regsOf size) (guardPoison c) := rfl

theorem mPondLoad_eq (signed : Bool) : mPondLoad op size signed c =
    checkedAccess c op 1 (fun l => (pondEa c l).2) (chkPond c size) fun good =>
      accessEff c (.load (8 * size) signed c.d) true size (good.map readAccess) ++ poisonedDest c c.d (regsOf size) (guardPoison c) := rfl

theorem mStore_eq : mStore op size c =
    checkedAccess c op 2 (fun l => (globalEa c l).2 || datumPoison c c.d (regsOf size) l) (chkGlobal c { w := true } size) fun good =>
      accessEff c .write false size (good.map fun x => { readAccess x with data := datumBytes c c.d size x.lane }) := rfl

theorem mPondStore_eq : mPondStore op size c =
    checkedAccess c op 2 (fun l => (pondEa c l).2 || datumPoison c c.d (regsOf size) l) (chkPond c size) fun good =>
      accessEff c .write true size (good.map fun x => { readAccess x with data := datumBytes c c.d size x.lane }) := rfl

theorem mAtom_eq (k : AtomOp) : mAtom op k size c =
    checkedAccess c op 3 (fun l => (globalEa c l).2 || datumPoison c c.d (regsOf size) l)
      (chkGlobal c { r := true, w := true } size) fun good =>
        accessEff c (.atomic k c.d) false size (good.map fun x => { readAccess x with data := datumBytes c c.d size x.lane })
        ++ poisonedDest c c.d (regsOf size) (guardPoison c) := rfl

theorem mAtomc_eq : mAtomc op size c =
    checkedAccess c op 3 (fun l => (globalEa c l).2 || datumPoison c c.d (2 * regsOf size) l)
      (chkGlobal c { r := true, w := true } size) fun good =>
        accessEff c (.atomic .cas c.d) false size (good.map fun x =>
          { readAccess x with data := datumBytes c c.d size x.lane ++ datumBytes c (c.d + regsOf size) size x.lane })
        ++ poisonedDest c c.d (regsOf size) (guardPoison c) := rfl

end

/-! ## LD, LDS and ST (R203, R204, R207) -/

/-- LDS takes the lanes whose addresses are clean and pass, and keeps the others with poison set. -/
theorem mSpecLoad_sc {q : Taken} {size : Nat} {signed : Bool} {s' : State} {l : List LaneCheck}
    (hchk : checkLanes q.s q.is.loc q.g.ctx { r := true } size
      ((q.act.filter fun l => !(globalEa q.sc l).2).map fun l => (l, (globalEa q.sc l).1)) = (s', some l)) :
    mSpecLoad size signed q.sc = (s', .ok
      (accessEff q.sc (.load (8 * size) signed q.d) false size ((l.filter fun x => x.cause == 0).map readAccess)
        ++ poisonedDest q.sc q.d (regsOf size) (maskOf (fun i => (actives q.sc).getLsbD i
            && !((l.filter fun x => x.cause == 0).any fun x => x.lane == i)) ||| guardPoison q.sc)
        ++ traceEff q.sc l) 0 []) := by
  have hlanes : chkGlobal q.sc { r := true } size q.sc.s ((lanesOf (actives q.sc)).filter fun l => !(globalEa q.sc l).2) = (s', some l) :=
    hchk
  simp only [mSpecLoad, hlanes]
  rfl

/-- Settles O15: LD is a checked access, and LDS the access of the lanes that pass. -/
theorem globalLoadIssue : Obligations.GlobalLoadIssue := by
  refine ⟨?_, ?_⟩
  · intro e he q h ea entry kept
    have hr := ldRows_run e he
    exact ⟨fun s' l hclean hchk => (gives_of_checked hr h (mLoad_eq _ _ _ _) hclean hchk :), traps_of_dirty hr h (mLoad_eq _ _ _ _)⟩
  · intro e he q h lanes s' l hchk
    obtain ⟨hi, hx⟩ := (ldsRows_run e he).ready h
    exact gives_of_ok h hi hx (mSpecLoad_sc hchk)

/-- Settles O16: ST is a checked access of its datum's bytes. -/
theorem globalStoreIssue : Obligations.GlobalStoreIssue := by
  intro e he q h bytes entry dirty
  have hr := stRows_run e he
  exact ⟨fun s' l hclean hchk => gives_of_checked hr h (mStore_eq _ _ _) hclean hchk, traps_of_dirty hr h (mStore_eq _ _ _)⟩

/-! ## ATOM and ATOMC (R225, R226) -/

/-- Settles O20: both are checked accesses, with one datum or two. -/
theorem atomicIssue : Obligations.AtomicIssue := by
  intro q s' l kept dirty bytes done
  refine ⟨fun e he h hclean hchk => ?_, fun e he h hclean hchk => ?_⟩
  · exact (gives_of_checked (atomRows_run e he) h (mAtom_eq _ _ _ _) hclean hchk :)
  · exact (gives_of_checked (atomcRows_run e he) h (mAtomc_eq _ _ _) hclean hchk :)

/-! ## LDP and STP (R211, R215) -/

section
variable {q : Taken} {size : Nat}

/-- The checks of pond addresses on the active lanes. -/
abbrev pondChecks (q : Taken) (size : Nat) : List LaneCheck := q.act.map fun l => checkPond q.s q.g size l (pondEa q.sc l).1

theorem chkPond_free (h : ∀ l ∈ q.act, fencedAt q.s q.g (pondEa q.sc l).1 = false) :
    chkPond q.sc size q.s q.act = (q.s, some (pondChecks q size)) :=
  if_neg (by simpa [Taken.sc] using h)

theorem chkPond_fenced (h : ¬∀ l ∈ q.act, fencedAt q.s q.g (pondEa q.sc l).1 = false) : chkPond q.sc size q.s q.act = (q.s, none) :=
  if_pos (by simpa [Taken.sc] using h)

/-- No page stands behind a pond address. -/
theorem checkPond_cause (s : State) (g : Group) (size lane ea : Nat) : (checkPond s g size lane ea).cause ≠ 1 := by
  unfold checkPond
  dsimp only
  split
  · simp
  · split
    · simp
    · split <;> simp

theorem lanesWith_pond : lanesWith 1 (pondChecks q size) = 0 :=
  maskOf_eq_zero fun i _ => List.any_eq_false.mpr fun x hx => by
    obtain ⟨l, -, rfl⟩ := List.mem_map.mp hx
    rw [beq_false_of_ne (checkPond_cause _ _ _ _ _), Bool.and_false]
    exact Bool.false_ne_true

end

/-- Settles O18: LDP and STP are checked accesses of pond memory. -/
theorem pondAccessIssue : Obligations.PondAccessIssue := by
  intro q ea chk passed free
  refine ⟨fun e he h hclean => ?_, fun e he h hclean => ?_⟩
  · have hr := ldpRows_run e he
    refine ⟨fun hfree hok => ?_, fun hfree => ?_, fun hfenced => ?_⟩
    · exact (gives_of_checked hr h (mPondLoad_eq _ _ _ _) hclean (chkPond_free hfree)).1 hok
    · exact (gives_of_checked hr h (mPondLoad_eq _ _ _ _) hclean (chkPond_free hfree)).2
    · exact holds_of_held hr h (mPondLoad_eq _ _ _ _) hclean (chkPond_fenced hfenced)
  · have hr := stpRows_run e he
    refine ⟨fun hfree hok => ?_, fun hfree => ?_, fun hfenced => ?_⟩
    · exact (gives_of_checked hr h (mPondStore_eq _ _ _) hclean (chkPond_free hfree)).1 hok
    · exact (gives_of_checked hr h (mPondStore_eq _ _ _) hclean (chkPond_free hfree)).2
    · exact holds_of_held hr h (mPondStore_eq _ _ _) hclean (chkPond_fenced hfenced)

/-! ## Lanes that fail (R201, R211, R376, R384) -/

/-- A form of global memory with R376's code of its access, its size and the number of its data's registers. -/
def ChecksGlobal (i : Slot → Instr) (code size n : Nat) : Prop :=
  ∃ k : SC → List LaneCheck → List Eff, Runs i fun op c => checkedAccess c op code
    (fun l => (globalEa c l).2 || datumPoison c c.d n l) (chkGlobal c { r := code != 2, w := code != 1 } size) (k c)

/-- A form of pond memory. -/
def ChecksPond (i : Slot → Instr) (size n : Nat) : Prop :=
  ∃ (code : Nat) (k : SC → List LaneCheck → List Eff), Runs i fun op c => checkedAccess c op code
    (fun l => (pondEa c l).2 || datumPoison c c.d n l) (chkPond c size) (k c)

theorem datumPoison_none (c : SC) (d l : Nat) : datumPoison c d 0 l = false := rfl

theorem ldRows_check : ∀ e ∈ ldRows, ChecksGlobal e.1 1 e.2.1 0 := fun e he =>
  ⟨_, (ldRows_run e he).congr fun op c => (mLoad_eq op _ c _).trans (by simp only [datumPoison_none, Bool.or_false]; rfl)⟩
theorem stRows_check : ∀ e ∈ stRows, ChecksGlobal e.1 2 e.2 (regsOf e.2) := fun e he => 
  ⟨_, (stRows_run e he).congr fun op c => mStore_eq op _ c⟩
theorem atomRows_check : ∀ e ∈ atomRows, ChecksGlobal e.1 3 e.2.2 (regsOf e.2.2) := fun e he =>
  ⟨_, (atomRows_run e he).congr fun op c => mAtom_eq op _ c _⟩
theorem atomcRows_check : ∀ e ∈ atomcRows, ChecksGlobal e.1 3 e.2 (2 * regsOf e.2) := fun e he =>
  ⟨_, (atomcRows_run e he).congr fun op c => mAtomc_eq op _ c⟩
theorem ldpRows_check : ∀ e ∈ ldpRows, ChecksPond e.1 e.2.1 0 := fun e he =>
  ⟨_, _, (ldpRows_run e he).congr fun op c => (mPondLoad_eq op _ c _).trans (by simp only [datumPoison_none, Bool.or_false]; rfl)⟩
theorem stpRows_check : ∀ e ∈ stpRows, ChecksPond e.1 e.2 (regsOf e.2) := fun e he =>
  ⟨_, _, (stpRows_run e he).congr fun op c => mPondStore_eq op _ c⟩

/-- The forms of O17, family by family. -/
theorem globalRows_check : ∀ e ∈ ([(.ldB8, 1, 1, 0), (.ldS8, 1, 1, 0), (.ldB16, 1, 2, 0), (.ldS16, 1, 2, 0), (.ldB32, 1, 4, 0),
    (.ldB64, 1, 8, 0),
    (.stB8, 2, 1, 1), (.stB16, 2, 2, 1), (.stB32, 2, 4, 1), (.stB64, 2, 8, 2),
    (.atomAdd, 3, 4, 1), (.atomMinS, 3, 4, 1), (.atomMinU, 3, 4, 1), (.atomMaxS, 3, 4, 1), (.atomMaxU, 3, 4, 1), (.atomAnd, 3, 4, 1),
    (.atomOr, 3, 4, 1), (.atomXor, 3, 4, 1), (.atomExch, 3, 4, 1), (.atomAddB64, 3, 8, 2), (.atomExchB64, 3, 8, 2),
    (.atomFaddF32, 3, 4, 1), (.atomFminF32, 3, 4, 1), (.atomFmaxF32, 3, 4, 1), (.atomcB32, 3, 4, 2), (.atomcB64, 3, 8, 4)]
    : List ((Slot → Instr) × Nat × Nat × Nat)), ChecksGlobal e.1 e.2.1 e.2.2.1 e.2.2.2 := by
  intro e he
  have hfamily : e ∈ ldRows.map (fun r => (r.1, 1, r.2.1, 0)) ++ stRows.map (fun r => (r.1, 2, r.2, regsOf r.2))
      ++ atomRows.map (fun r => (r.1, 3, r.2.2, regsOf r.2.2)) ++ atomcRows.map (fun r => (r.1, 3, r.2, 2 * regsOf r.2)) := he
  rcases List.mem_append.mp hfamily with hfamily | hatomc
  · rcases List.mem_append.mp hfamily with hfamily | hatom
    · rcases List.mem_append.mp hfamily with hld | hst
      · obtain ⟨r, hr, rfl⟩ := List.mem_map.mp hld
        exact ldRows_check r hr
      · obtain ⟨r, hr, rfl⟩ := List.mem_map.mp hst
        exact stRows_check r hr
    · obtain ⟨r, hr, rfl⟩ := List.mem_map.mp hatom
      exact atomRows_check r hr
  · obtain ⟨r, hr, rfl⟩ := List.mem_map.mp hatomc
    exact atomcRows_check r hr

theorem pondRows_check : ∀ e ∈ ([(.ldpB8, 1, 0), (.ldpS8, 1, 0), (.ldpB16, 2, 0), (.ldpS16, 2, 0), (.ldpB32, 4, 0), (.ldpB64, 8, 0),
    (.stpB8, 1, 1), (.stpB16, 2, 1), (.stpB32, 4, 1), (.stpB64, 8, 2)] : List ((Slot → Instr) × Nat × Nat)),
    ChecksPond e.1 e.2.1 e.2.2 := by
  intro e he
  have hfamily : e ∈ ldpRows.map (fun r => (r.1, r.2.1, 0)) ++ stpRows.map (fun r => (r.1, r.2, regsOf r.2)) := he
  rcases List.mem_append.mp hfamily with hldp | hstp
  · obtain ⟨r, hr, rfl⟩ := List.mem_map.mp hldp
    exact ldpRows_check r hr
  · obtain ⟨r, hr, rfl⟩ := List.mem_map.mp hstp
    exact stpRows_check r hr

/-- Settles O17: every form of global and of pond memory fails in one order, and no page stands behind a pond address. -/
theorem failedAccessOrder : Obligations.FailedAccessOrder := by
  refine ⟨?_, ?_⟩
  · intro e he code size need q h hlf hclean s' l hchk
    obtain ⟨k, hr⟩ := globalRows_check e he
    obtain ⟨h4, h3, h1, h2⟩ := fails_in_order hr h rfl hclean hchk hlf
    exact ⟨h4, fun n4 => h3 (not_not.mp n4), fun n4 n3 => h1 (not_not.mp n4) (not_not.mp n3),
      fun n4 n3 n1 => h2 (not_not.mp n4) (not_not.mp n3) (not_not.mp n1)⟩
  · intro e he q h hlf hclean hfree l
    obtain ⟨code, k, hr⟩ := pondRows_check e he
    obtain ⟨h4, h3, -, h2⟩ := fails_in_order hr h rfl hclean (chkPond_free hfree) hlf
    exact ⟨h4, fun n4 => h3 (not_not.mp n4), fun n4 n3 => h2 (not_not.mp n4) (not_not.mp n3) lanesWith_pond⟩

/-! ## FENCE, DRAIN and PREF (R228-R230) -/

section
variable {q : Taken}

theorem mFence_idle (hact : actives q.sc = 0) : mFence q.sc = (q.s, .ok [] 0 []) := congrArg _ (if_pos hact)

theorem mFence_orders (hact : actives q.sc ≠ 0) : mFence q.sc = (q.s, .ok [.fence (scopeOr4 q.sc) false] 0 []) := congrArg _ (if_neg hact)

theorem mDrain_idle (hact : actives q.sc = 0) : mDrain q.sc = (q.s, .ok [] 0 []) := congrArg _ (if_pos hact)

theorem mDrain_waits (hact : actives q.sc ≠ 0) : mDrain q.sc = (q.s, .ok [.fence (scopeOr4 q.sc) true, .wait .drain] 0 []) :=
  congrArg _ (if_neg hact)

/-- Lanes whose addresses were all formed leave them all in the record. -/
theorem traceEff_formed {c : SC} {l : List LaneCheck} (h : ∀ x ∈ l, x.formed = true) :
    traceEff c l = [.trace (slotWord c) c.mod.lf (l.map fun x => (x.lane, x.ea))] := by
  rw [traceEff, List.filter_eq_self.mpr h]

theorem mPref_sc {s' : State} {l : List LaneCheck}
    (hchk : checkLanes q.s q.is.loc q.g.ctx { r := true } 1
      ((q.act.filter fun l => !(globalEa q.sc l).2).map fun l => (l, (globalEa q.sc l).1)) = (s', some l)) :
    mPref q.sc = (s', .ok
      ((if q.sc.mod.cache = 2 then [] else [.prefetch ((l.filter fun x => x.cause == 0).map fun x => x.pa / 1024)])
        ++ [.trace (slotWord q.sc) q.sc.mod.lf (q.act.map fun i => (i, (globalEa q.sc i).1))]) 0 []) := by
  have hlanes : chkGlobal q.sc { r := true } 1 q.sc.s ((lanesOf (actives q.sc)).filter fun l => !(globalEa q.sc l).2) = (s', some l) :=
    hchk
  have hformed : ∀ x ∈ q.act.map fun i => ({ lane := i, ea := (globalEa q.sc i).1, cause := 0, level := 0, pa := 0 } : LaneCheck),
      x.formed = true := List.forall_mem_map.mpr fun _ _ => rfl
  have htrace := traceEff_formed (c := q.sc) hformed
  rw [List.map_map] at htrace
  simp only [mPref, hlanes]
  exact congrArg (fun t => (s', SlotRes.ok (_ ++ t) 0 [])) htrace

end

/-! ## FIFOPUSH and FIFOPOP (R217, R243) -/

section
variable {q : Taken}

theorem mFifoPush_idle (hact : actives q.sc = 0) : mFifoPush q.sc = (q.s, .ok [] 0 []) := congrArg _ (if_pos hact)

theorem mFifoPop_idle (hact : actives q.sc = 0) : mFifoPop q.sc = (q.s, .ok [] 0 []) := congrArg _ (if_pos hact)

/-- An operand that names a FIFO bank of the set. -/
theorem fifoBank_named {b bank : Nat} (hlt : (q.s32 q.a).val.toNat < 32) (hclean : (q.s32 q.a).poison = false)
    (hb : (pondOf q.s q.g).2[(q.s32 q.a).val.toNat]? = some b) (hbank : bank = (pondOf q.s q.g).1 * 32 + b)
    (hmode : (getBank q.s bank).mode = 2) : fifoBank q.sc = .ok bank := by
  subst hbank
  have hlegal : (decide ((sreg q.sc.g q.sc.pt q.sc.a).val.toNat ≥ 32) || (sreg q.sc.g q.sc.pt q.sc.a).poison) = false :=
    Bool.or_eq_false_iff.mpr ⟨decide_eq_false (not_le.mpr hlt), hclean⟩
  have hplace : (pondOf q.sc.s q.sc.g).2[(sreg q.sc.g q.sc.pt q.sc.a).val.toNat]? = some b := hb
  simp only [fifoBank, hlegal, hplace]
  exact (if_neg Bool.false_ne_true).trans (if_neg (by simp [Taken.sc, hmode]))

theorem pathBusy_eq_false (h : ∀ e ∈ q.g.macc, meets e.mask q.path.mask = false) : pathBusy q.sc = false :=
  List.any_eq_false.mpr fun e he => by
    rw [show meets e.mask q.sc.pt.mask = false from h e he]
    exact Bool.false_ne_true

variable {bank : Nat} (hact : actives q.sc ≠ 0) (hbank : fifoBank q.sc = .ok bank)
  (hheld : ((getBank q.s bank).fencing.isSome || pathBusy q.sc) = false)
include hact hbank hheld

theorem mFifoPop_takes (hfifo : (getBank q.s bank).fifo ≠ []) : mFifoPop q.sc =
    (q.s, .ok (poisonedDest q.sc q.d 1 (guardPoison q.sc) ++ [.fifoPop bank q.d (actives q.sc)]) 0 []) := by
  have hheld' : ((getBank q.sc.s bank).fencing.isSome || pathBusy q.sc) = false := hheld
  have hentry : (getBank q.sc.s bank).fifo.isEmpty = false := List.isEmpty_eq_false_iff.mpr hfifo
  simp only [mFifoPop, pureM, if_neg hact, hbank, hheld', hentry]
  rfl

theorem mFifoPop_waits (hfifo : (getBank q.s bank).fifo = []) : mFifoPop q.sc = (q.s, .wait) := by
  have hheld' : ((getBank q.sc.s bank).fencing.isSome || pathBusy q.sc) = false := hheld
  have hempty : (getBank q.sc.s bank).fifo.isEmpty = true := List.isEmpty_iff.mpr hfifo
  simp only [mFifoPop, pureM, if_neg hact, hbank, hheld', hempty]
  rfl

variable (hclean : q.clean fun l => (vreg q.g q.b l).poison)
include hclean

theorem mFifoPush_puts (hroom : (getBank q.s bank).fifo.length < 4096) : mFifoPush q.sc =
    (q.s, .ok [.fifoPush bank ((List.range 16).map fun l => if (actives q.sc).getLsbD l then (vreg q.g q.b l).val else 0)] 0 []) := by
  have hheld' : ((getBank q.sc.s bank).fencing.isSome || pathBusy q.sc) = false := hheld
  have hdirty : maskOf (fun l => (actives q.sc ||| guardPoison q.sc).getLsbD l && (vreg q.sc.g q.sc.b l).poison) = 0#16 :=
    dirtyLanes_clean hclean
  simp only [mFifoPush, pureM, if_neg hact, hbank, hdirty, hheld', if_neg (not_le.mpr (show (getBank q.sc.s bank).fifo.length < 4096 from hroom))]
  rfl

theorem mFifoPush_waits (hfull : (getBank q.s bank).fifo.length ≥ 4096) : mFifoPush q.sc = (q.s, .wait) := by
  have hheld' : ((getBank q.sc.s bank).fencing.isSome || pathBusy q.sc) = false := hheld
  have hdirty : maskOf (fun l => (actives q.sc ||| guardPoison q.sc).getLsbD l && (vreg q.sc.g q.sc.b l).poison) = 0#16 :=
    dirtyLanes_clean hclean
  simp only [mFifoPush, pureM, if_neg hact, hbank, hdirty, hheld', if_pos (show (getBank q.sc.s bank).fifo.length ≥ 4096 from hfull)]
  rfl

end

/-- Settles O21: what each slot answers with no lane active, and with some. -/
theorem orderingAndFifoSlots : Obligations.OrderingAndFifoSlots := by
  intro q scope
  refine ⟨?_, fun h hact => ?_, fun h hact => ?_, fun h s' l hchk => ?_, ?_⟩
  · simp only [List.forall_mem_cons, List.not_mem_nil, IsEmpty.forall_iff, implies_true, and_true]
    exact ⟨fun h hact => gives_of_ok h rfl (exec_fence q.w q.s) (mFence_idle hact),
      fun h hact => gives_of_ok h rfl (exec_drain q.w q.s) (mDrain_idle hact),
      fun h hact => gives_of_ok h rfl (exec_fifopush q.w q.s) (mFifoPush_idle hact),
      fun h hact => gives_of_ok h rfl (exec_fifopop q.w q.s) (mFifoPop_idle hact)⟩
  · exact gives_of_ok h rfl (exec_fence q.w q.s) (mFence_orders hact)
  · exact gives_of_ok h rfl (exec_drain q.w q.s) (mDrain_waits hact)
  · exact gives_of_ok h rfl (exec_pref q.w q.s) (mPref_sc hchk)
  · intro b bank hlt hpoison hb hbank hmode hfence hact hquiet
    have hnamed := fifoBank_named hlt hpoison hb hbank hmode
    have hheld : ((getBank q.s bank).fencing.isSome || pathBusy q.sc) = false := by rw [hfence, pathBusy_eq_false hquiet]; rfl
    refine ⟨fun h hclean => ⟨fun hroom => ?_, fun hfull => ?_⟩, fun h => ⟨fun hentry => ?_, fun hempty => ?_⟩⟩
    · exact gives_of_ok h rfl (exec_fifopush q.w q.s) (mFifoPush_puts hact hnamed hheld hclean hroom)
    · exact holds_of_wait h rfl (exec_fifopush q.w q.s) (mFifoPush_waits hact hnamed hheld hclean hfull)
    · exact gives_of_ok h rfl (exec_fifopop q.w q.s) (mFifoPop_takes hact hnamed hheld hentry)
    · exact holds_of_wait h rfl (exec_fifopop q.w q.s) (mFifoPop_waits hact hnamed hheld hempty)

end Sys2Proof.Laws.MemorySlots
end

section
/-! SUPPORT. LDT and STT: coordinates under BORDER, where a lane's element stands, which accesses the lanes make, and the statement O19
(R208, R219-R223). -/

namespace Sys2Proof.Laws.TensorSlots

open Sys2Proof.Machine Sys2Proof.Safety Sys2Proof.Laws

/-! ## Coordinates under BORDER (R221) -/

section
variable {border ext : Nat} {i : Int}

theorem borderCoord_inside (h0 : 0 ≤ i) (h1 : i < ext) : borderCoord border ext i = some i.toNat := if_pos ⟨h0, h1⟩

theorem borderCoord_refused (h : i < 0 ∨ (ext : Int) ≤ i) (hborder : border < 2) : borderCoord border ext i = none := by
  rw [borderCoord, if_neg (by omega), if_neg (by omega), if_neg (by omega)]

theorem borderCoord_clamped (h : i < 0 ∨ (ext : Int) ≤ i) : borderCoord 2 ext i = some (if i < 0 then 0 else ext - 1) := by
  rw [borderCoord, if_neg (by omega), if_pos rfl]

theorem borderCoord_wrapped : borderCoord 3 ext i = some (i % (ext : Int)).toNat := by
  by_cases h : 0 ≤ i ∧ i < ext
  · rw [borderCoord_inside h.1 h.2, Int.emod_eq_of_lt h.1 h.2]
  · rw [borderCoord, if_neg h]
    rfl

end

/-! ## Where a lane's element stands (R221, R222) -/

section
variable (c : SC) (t : Tensor)

/-- The place of a lane's element and of its lowest bit; none where BORDER gives its coordinates none. -/
abbrev lanePlace (l : Nat) : Option (Nat × Nat) :=
  (borderCoords t ((List.range t.rank).map fun k => (vreg c.g (c.b + k) l).val.toInt)).map (elemAddress t)

/-- The elements in range, whose addresses are translated. -/
abbrev nearLanes (ls : List Nat) : List (Nat × Nat) :=
  ls.filterMap fun l => (lanePlace c t l).bind fun p => if p.1 < 2 ^ 57 then some (l, p.1) else none

/-- The checks of lanes, given those of the elements in range: one that BORDER refuses reads zero or is out of range. -/
abbrev tensorChecks (ls : List Nat) (l : List LaneCheck) : List LaneCheck := ls.filterMap fun i => match lanePlace c t i with
  | none => if t.border = 1 then none else some ⟨i, 0, 4, 0, 0, false⟩
  | some p => if p.1 < 2 ^ 57 then l.find? (fun y => y.lane == i) else some ⟨i, p.1, 4, 0, 0, true⟩

/-- The bytes that an element's access takes. -/
abbrev elemBytes : Nat := if elemWidth t.fmt < 8 then 1 else elemWidth t.fmt / 8

variable {c t} {l : Nat}

theorem tensorLane_refused (h : lanePlace c t l = none) :
    tensorLane c t l = if t.border = 1 then ⟨l, 0, 0, 0, true, false⟩ else ⟨l, 0, 0, 4, false, false⟩ := by
  simp only [tensorLane, Option.map_eq_none_iff.mp h]

theorem tensorLane_placed {p : Nat × Nat} (h : lanePlace c t l = some p) :
    tensorLane c t l = ⟨l, p.1, p.2, if p.1 < 2 ^ 57 then 0 else 4, false, true⟩ := by
  obtain ⟨ix, hix, rfl⟩ := Option.map_eq_some_iff.mp h
  simp only [tensorLane, hix]
  by_cases hp : (elemAddress t ix).1 < 2 ^ 57
  · rw [if_neg (not_le.mpr hp), if_pos hp]
  · rw [if_pos (not_lt.mp hp), if_neg hp]

theorem tensorLane_lane (c : SC) (t : Tensor) (l : Nat) : (tensorLane c t l).lane = l := by
  cases h : lanePlace c t l with
  | none => rw [tensorLane_refused h]; split <;> rfl
  | some p => rw [tensorLane_placed h]

theorem tensorLane_bit (c : SC) (t : Tensor) (l : Nat) : (tensorLane c t l).bit = ((lanePlace c t l).getD (0, 0)).2 := by
  cases h : lanePlace c t l with
  | none => rw [tensorLane_refused h]; split <;> rfl
  | some p => rw [tensorLane_placed h]; rfl

theorem tensorLane_zero (c : SC) (t : Tensor) (l : Nat) : (tensorLane c t l).zero = ((lanePlace c t l).isNone && t.border == 1) := by
  cases h : lanePlace c t l with
  | none =>
    rw [tensorLane_refused h]
    by_cases hborder : t.border = 1 <;> simp [hborder]
  | some p => rw [tensorLane_placed h]; rfl

theorem nearLanes_eq (ls : List Nat) :
    (((ls.map (tensorLane c t)).filter fun x => x.cause == 0 && !x.zero).map fun x => (x.lane, x.ea)) = nearLanes c t ls := by
  rw [← List.filterMap_eq_filter, List.map_filterMap, List.filterMap_map]
  refine List.filterMap_congr fun i _ => ?_
  cases h : lanePlace c t i with
  | none =>
    simp only [Function.comp_apply, tensorLane_refused h]
    by_cases hborder : t.border = 1 <;> simp [hborder]
  | some p =>
    by_cases hp : p.1 < 2 ^ 57
    · simp only [Function.comp_apply, tensorLane_placed h, Option.bind_some, if_pos hp]
      rfl
    · simp only [Function.comp_apply, tensorLane_placed h, Option.bind_some, if_neg hp]
      rfl

theorem tensorChecks_eq (ls : List Nat) (l : List LaneCheck) :
    ((ls.map (tensorLane c t)).filterMap fun x =>
      if x.cause != 0 then some ⟨x.lane, x.ea, 4, 0, 0, x.formed⟩
      else if x.zero then none
      else l.find? fun y => y.lane == x.lane) = tensorChecks c t ls l := by
  rw [List.filterMap_map]
  refine List.filterMap_congr fun i _ => ?_
  cases h : lanePlace c t i with
  | none =>
    simp only [Function.comp_apply, tensorLane_refused h]
    by_cases hborder : t.border = 1 <;> simp [hborder]
  | some p =>
    by_cases hp : p.1 < 2 ^ 57
    · simp only [Function.comp_apply, tensorLane_placed h, if_pos hp]
      rfl
    · simp only [Function.comp_apply, tensorLane_placed h, if_neg hp]
      rfl

theorem lane_of_tensorChecks {ls : List Nat} {l : List LaneCheck} {x : LaneCheck} (h : x ∈ tensorChecks c t ls l) : x.lane ∈ ls := by
  obtain ⟨i, hi, hx⟩ := List.mem_filterMap.mp h
  suffices x.lane = i from this ▸ hi
  cases hplace : lanePlace c t i with
  | none =>
    simp only [hplace] at hx
    split at hx
    · simp at hx
    · rw [← Option.some.inj hx]
  | some p =>
    simp only [hplace] at hx
    split at hx
    · simpa using List.find?_some hx
    · rw [← Option.some.inj hx]

end

/-! ## The meaning after its descriptor (R219, R220) -/

/-- The checks of the lanes of a tensor access. -/
def tensorChk (store : Bool) (t : Tensor) (c : SC) (s : State) (ls : List Nat) : State × Option (List LaneCheck) :=
  match checkLanes s c.is.loc c.g.ctx (if store then { w := true } else { r := true }) 1
      (((ls.map (tensorLane c t)).filter fun x => x.cause == 0 && !x.zero).map fun x => (x.lane, x.ea)) with
  | (s, none) => (s, none)
  | (s, some l) =>
    (s, some ((ls.map (tensorLane c t)).filterMap fun x =>
      if x.cause != 0 then some ⟨x.lane, x.ea, 4, 0, 0, x.formed⟩
      else if x.zero then none
      else l.find? fun y => y.lane == x.lane))

/-- The lowest bit of an active lane's element. -/
def activeBit (act : LaneMask) (t : Tensor) (c : SC) (l : Nat) : Nat :=
  ((((lanesOf act).map (tensorLane c t)).find? fun x => x.lane == l).getD ⟨l, 0, 0, 0, true, false⟩).bit

/-- The effects of the lanes that passed. -/
def tensorEffs (store : Bool) (act : LaneMask) (t : Tensor) (c : SC) (good : List LaneCheck) : List Eff :=
  if store then
    accessEff c .write false (elemBytes t) (good.map fun x =>
      { readAccess x with
        data := natLe ((vpair c.g c.d x.lane).1 * 2 ^ activeBit act t c x.lane) (elemBytes t)
        mask := subMask (elemWidth t.fmt) (activeBit act t c x.lane) })
  else
    let zs := (((lanesOf act).map (tensorLane c t)).filter (·.zero)).flatMap fun x =>
      (List.range (regsOf (elemBytes t))).map fun j => RegWrite.v (c.d + j) x.lane ⟨0, false⟩
    accessEff c (.load (elemWidth t.fmt) false c.d) false (elemBytes t) (good.map fun x =>
      { readAccess x with mask := subMask (elemWidth t.fmt) (activeBit act t c x.lane) })
    ++ (if zs.isEmpty then [] else [.result 14 zs])
    ++ poisonedDest c c.d (regsOf (elemBytes t)) (guardPoison c)

/-- The lanes whose coordinates or datum are poisoned. -/
def tensorDirty (store : Bool) (t : Tensor) (c : SC) (l : Nat) : Bool :=
  ((List.range t.rank).any fun k => (vreg c.g (c.b + k) l).poison) || (store && datumPoison c c.d (regsOf (elemBytes t)) l)

/-- A tensor access after its descriptor, which it keeps first. -/
def tensorBody (store : Bool) (op : Nat) (act : LaneMask) (t : Tensor) (keep : List Eff) : Meaning := fun c =>
  match checkedAccess c op (if store then 2 else 1) (tensorDirty store t c) (tensorChk store t c) (tensorEffs store act t c) with
  | (s, .ok e f u) => (s, .ok (keep ++ e) f u)
  | r => r

section
variable {q : Taken} {store : Bool} {op n : Nat} {s1 : State} {desc : List DWord} {fresh : Bool}
  (hact : actives q.sc ≠ 0) (hclean : (q.s32 q.a).poison = false) (hlt : (q.s32 q.a).val.toNat < 65536)
  (hdesc : readDesc q.sc (q.s32 q.a).val.toNat = (s1, .ok desc fresh))
include hact hclean hlt hdesc

/-- A descriptor with a format fault, or an odd register of a 64-bit element, is illegal. -/
theorem mTensor_illegal (hbad : tensorBad desc = true ∨ (elemWidth (tensorOf desc).fmt = 64 ∧ q.d % 2 = 1)) :
    mTensor store op q.sc = (s1, trapOf 2) := by
  have hpoison : (sreg q.sc.g q.sc.pt q.sc.a).poison = false := hclean
  have hnumber : ¬(sreg q.sc.g q.sc.pt q.sc.a).val.toNat ≥ 65536 := not_le.mpr hlt
  have hread : readDesc q.sc (sreg q.sc.g q.sc.pt q.sc.a).val.toNat = (s1, .ok desc fresh) := hdesc
  have hillegal : (tensorBad desc || (elemWidth (tensorOf desc).fmt == 64 && q.sc.d % 2 == 1)) = true := by
    simpa [show q.sc.d = q.d from rfl] using hbad
  simp only [mTensor, if_neg hact, hpoison, if_neg hnumber, hread, hillegal, Bool.false_eq_true, if_false, if_true]

theorem mTensor_legal (hgood : ¬(tensorBad desc = true ∨ (elemWidth (tensorOf desc).fmt = 64 ∧ q.d % 2 = 1))) :
    mTensor store op q.sc = withUses (tensorUses store desc)
      (tensorBody store op (actives q.sc) (tensorOf desc) (if fresh then [.keep (q.s32 q.a).val.toNat desc] else [])) { q.sc with s := s1 } := by
  have hpoison : (sreg q.sc.g q.sc.pt q.sc.a).poison = false := hclean
  have hnumber : ¬(sreg q.sc.g q.sc.pt q.sc.a).val.toNat ≥ 65536 := not_le.mpr hlt
  have hread : readDesc q.sc (sreg q.sc.g q.sc.pt q.sc.a).val.toNat = (s1, .ok desc fresh) := hdesc
  have hlegal : (tensorBad desc || (elemWidth (tensorOf desc).fmt == 64 && q.sc.d % 2 == 1)) = false := by
    rw [← Bool.not_eq_true]
    simpa [show q.sc.d = q.d from rfl] using hgood
  simp only [mTensor, if_neg hact, hpoison, if_neg hnumber, hread, hlegal, Bool.false_eq_true, if_false]
  rfl

end

/-! ## The descriptor (R220) -/

section
variable {q : Taken} {n : Nat} {desc : List DWord}

theorem readDesc_kept (hcount : n < (getCtx q.s q.g.ctx).ttcount) (hkept : tget [] (getCtx q.s q.g.ctx).kept n = desc) (hne : desc ≠ []) :
    readDesc q.sc n = (q.s, .ok desc false) := by
  obtain ⟨d, ds, rfl⟩ := List.exists_cons_of_ne_nil hne
  have hcount' : ¬n ≥ (getCtx q.sc.s q.sc.g.ctx).ttcount := not_le.mpr hcount
  have hkept' : tget [] (getCtx q.sc.s q.sc.g.ctx).kept n = d :: ds := hkept
  simp only [readDesc, if_neg hcount', hkept']
  rfl

theorem readDesc_fresh {s1 : State} {pa : Nat} (hcount : n < (getCtx q.s q.g.ctx).ttcount) (hkept : tget [] (getCtx q.s q.g.ctx).kept n = [])
    (hva : (getCtx q.s q.g.ctx).ttbase + 64 * n < 2 ^ 57)
    (htr : translateNow q.s (coreUnit q.is.loc) q.g.ctx ((getCtx q.s q.g.ctx).ttbase + 64 * n) { r := true } = (s1, .ok pa)) :
    readDesc q.sc n = (s1, .ok (mem64s s1.mem pa 8) true) := by
  have hcount' : ¬n ≥ (getCtx q.sc.s q.sc.g.ctx).ttcount := not_le.mpr hcount
  have hkept' : tget [] (getCtx q.sc.s q.sc.g.ctx).kept n = [] := hkept
  have hva' : ¬(getCtx q.sc.s q.sc.g.ctx).ttbase + 64 * n ≥ 2 ^ 57 := not_le.mpr hva
  have htr' : translateNow q.sc.s (coreUnit q.sc.is.loc) q.sc.g.ctx ((getCtx q.sc.s q.sc.g.ctx).ttbase + 64 * n) { r := true } =
    (s1, .ok pa) := htr
  simp only [readDesc, if_neg hcount', hkept', if_neg hva', htr']

end

/-! ## The effects of the lanes (R221-R223) -/

section
variable {c : SC} {act : LaneMask} {t : Tensor}

/-- The lanes that read zero. -/
abbrev zeroLanes (c : SC) (t : Tensor) (ls : List Nat) : List Nat := ls.filter fun i => (lanePlace c t i).isNone && t.border == 1

theorem activeBit_eq {l : Nat} (hl : l ∈ lanesOf act) : activeBit act t c l = ((lanePlace c t l).getD (0, 0)).2 := by
  have hfound : ((lanesOf act).map (tensorLane c t)).find? (fun x => x.lane == l) = some (tensorLane c t l) := by
    cases hfind : ((lanesOf act).map (tensorLane c t)).find? fun x => x.lane == l with
    | none =>
      have hmiss := List.find?_eq_none.mp hfind _ (List.mem_map_of_mem hl)
      rw [tensorLane_lane] at hmiss
      exact absurd (beq_self_eq_true l) hmiss
    | some y =>
      obtain ⟨i, -, rfl⟩ := List.mem_map.mp (List.mem_of_find?_eq_some hfind)
      have hlane : (tensorLane c t i).lane = l := by simpa using List.find?_some hfind
      rw [tensorLane_lane] at hlane
      rw [hlane]
  rw [activeBit, hfound, Option.getD_some, tensorLane_bit]

theorem zeroLanes_eq (ls : List Nat) (f : Nat → List RegWrite) :
    (((ls.map (tensorLane c t)).filter (·.zero)).flatMap fun x => f x.lane) = (zeroLanes c t ls).flatMap f := by
  rw [List.filter_map, List.flatMap_map]
  simp only [Function.comp_def, tensorLane_zero, tensorLane_lane]

theorem regsOf_pos (size : Nat) : 0 < regsOf size := by
  unfold regsOf
  split <;> decide

theorem isEmpty_flatMap_range {n : Nat} (hn : 0 < n) (ls : List Nat) (f : Nat → Nat → RegWrite) :
    (ls.flatMap fun i => (List.range n).map (f i)).isEmpty = ls.isEmpty := by
  cases ls with
  | nil => rfl
  | cons i ls => simp [List.range_eq_nil, hn.ne']

theorem tensorEffs_load {good : List LaneCheck} (hgood : ∀ x ∈ good, x.lane ∈ lanesOf act) : tensorEffs false act t c good =
    accessEff c (.load (elemWidth t.fmt) false c.d) false (elemBytes t) (good.map fun x =>
      { readAccess x with mask := subMask (elemWidth t.fmt) ((lanePlace c t x.lane).getD (0, 0)).2 })
    ++ (if (zeroLanes c t (lanesOf act)).isEmpty then [] else [.result 14 ((zeroLanes c t (lanesOf act)).flatMap fun i =>
        (List.range (regsOf (elemBytes t))).map fun j => .v (c.d + j) i ⟨0, false⟩)])
    ++ poisonedDest c c.d (regsOf (elemBytes t)) (guardPoison c) := by
  have hlanes : (good.map fun x => { readAccess x with mask := subMask (elemWidth t.fmt) (activeBit act t c x.lane) }) =
      good.map fun x => { readAccess x with mask := subMask (elemWidth t.fmt) ((lanePlace c t x.lane).getD (0, 0)).2 } :=
    List.map_congr_left fun x hx => by rw [activeBit_eq (hgood x hx)]
  rw [tensorEffs, if_neg Bool.false_ne_true, hlanes]
  dsimp only
  rw [zeroLanes_eq (lanesOf act) fun i => (List.range (regsOf (elemBytes t))).map fun j => RegWrite.v (c.d + j) i ⟨0, false⟩,
    isEmpty_flatMap_range (regsOf_pos _)]

theorem tensorEffs_store {good : List LaneCheck} (hgood : ∀ x ∈ good, x.lane ∈ lanesOf act) : tensorEffs true act t c good =
    accessEff c .write false (elemBytes t) (good.map fun x =>
      { readAccess x with
        data := natLe ((vpair c.g c.d x.lane).1 * 2 ^ ((lanePlace c t x.lane).getD (0, 0)).2) (elemBytes t)
        mask := subMask (elemWidth t.fmt) ((lanePlace c t x.lane).getD (0, 0)).2 }) := by
  rw [tensorEffs, if_pos rfl]
  exact congrArg _ (List.map_congr_left fun x hx => by rw [activeBit_eq (hgood x hx)])

end

/-- A 64-bit element takes a pair of registers. -/
theorem regsOf_elemBytes (t : Tensor) : regsOf (elemBytes t) = if elemWidth t.fmt = 64 then 2 else 1 := by
  unfold elemBytes elemWidth
  split <;> rfl

theorem tensorUses_eq (store : Bool) (desc : List DWord) (q : Taken) : tensorUses store desc q.sc =
    [⟨.v, q.b, (tensorOf desc).rank, false⟩, ⟨.v, q.d, regsOf (elemBytes (tensorOf desc)), !store⟩] := by
  rw [regsOf_elemBytes]
  rfl

/-- A load has no datum that could be poisoned. -/
theorem tensorDirty_load (t : Tensor) (c : SC) (l : Nat) :
    tensorDirty false t c l = (List.range t.rank).any fun k => (vreg c.g (c.b + k) l).poison := Bool.or_false _

/-! ## What the slots complete with -/

section
variable {c : SC} {store : Bool} {op : Nat} {act : LaneMask} {t : Tensor} {keep : List Eff} {s' : State} {l : List LaneCheck}

theorem tensorChk_some {s : State} {ls : List Nat}
    (h : checkLanes s c.is.loc c.g.ctx (if store then { w := true } else { r := true }) 1 (nearLanes c t ls) = (s', some l)) :
    tensorChk store t c s ls = (s', some (tensorChecks c t ls l)) := by
  simp only [tensorChk, nearLanes_eq, h, tensorChecks_eq]

variable (hclean : dirtyLanes c (tensorDirty store t c) = 0#16) (hchk : tensorChk store t c c.s (lanesOf (actives c)) = (s', some l))
include hclean hchk

theorem tensorBody_lanefault (hlf : c.mod.lf = true) : tensorBody store op act t keep c =
    (s', .ok (keep ++ (laneFaultEff c op l ++ tensorEffs store act t c (l.filter fun x => x.cause == 0) ++ traceEff c l)) 0 []) := by
  rw [tensorBody, checkedAccess_lanefault hclean hchk hlf]

theorem tensorBody_passes (hlf : c.mod.lf = false) (hok : ∀ x ∈ l, x.cause = 0) : tensorBody store op act t keep c =
    (s', .ok (keep ++ (tensorEffs store act t c l ++ traceEff c l)) 0 []) := by
  rw [tensorBody, checkedAccess_passes hclean hchk hlf hok]

end

section
variable {q : Taken} {store : Bool} {i : Slot → Instr} {s1 s' : State} {desc : List DWord} {fresh : Bool} {l : List LaneCheck}

/-- The effect that keeps a descriptor that has been read. -/
abbrev keepEff (q : Taken) (fresh : Bool) (desc : List DWord) : List Eff :=
  if fresh then [.keep (q.s32 q.a).val.toNat desc] else []

/-- A tensor access of a legal descriptor whose registers are held and not pending, with clean coordinates and datum. -/
theorem tensor_gives (hr : MemorySlots.Runs i (mTensor store)) (h : q.ready (i q.w))
    (hact : actives q.sc ≠ 0) (hnumber : (q.s32 q.a).poison = false) (hlt : (q.s32 q.a).val.toNat < 65536)
    (hdesc : readDesc q.sc (q.s32 q.a).val.toNat = (s1, .ok desc fresh))
    (hgood : ¬(tensorBad desc = true ∨ (elemWidth (tensorOf desc).fmt = 64 ∧ q.d % 2 = 1)))
    (hfit : ∀ k ∈ tensorUses store desc q.sc, k.first + k.cnt ≤ 8 * q.g.blocks ∧ pendingUse q.g q.path k = false)
    (hclean : q.clean (tensorDirty store (tensorOf desc) q.sc))
    (hchk : checkLanes s1 q.is.loc q.g.ctx (if store then { w := true } else { r := true }) 1 (nearLanes q.sc (tensorOf desc) q.act) =
      (s', some l)) :
    let all := tensorChecks q.sc (tensorOf desc) q.act l
    ((∀ x ∈ all, x.cause = 0) → q.sc.mod.lf = false → q.gives (i q.w) s' (keepEff q fresh desc
        ++ (tensorEffs store (actives q.sc) (tensorOf desc) q.sc all ++ traceEff q.sc all)) 0 (tensorUses store desc q.sc))
    ∧ (q.sc.mod.lf = true → q.gives (i q.w) s' (keepEff q fresh desc ++ (laneFaultEff q.sc q.f.op all
        ++ tensorEffs store (actives q.sc) (tensorOf desc) q.sc (all.filter fun x => x.cause == 0) ++ traceEff q.sc all)) 0
        (tensorUses store desc q.sc)) := by
  intro all
  obtain ⟨hi, hx⟩ := hr.ready h
  have hbody {effs : List Eff} (hb : tensorBody store q.f.op (actives q.sc) (tensorOf desc) (keepEff q fresh desc) { q.sc with s := s1 } =
      (s', .ok effs 0 [])) : q.gives (i q.w) s' effs 0 (tensorUses store desc q.sc) :=
    gives_of_ok h hi hx ((mTensor_legal hact hnumber hlt hdesc hgood).trans
      (Branches.withUsesIf_ok (c := { q.sc with s := s1 }) (live := fun _ => true) (fun _ u hu _ => (hfit u hu).1) (fun u hu => (hfit u hu).2) hb))
  have hlanes : dirtyLanes { q.sc with s := s1 } (tensorDirty store (tensorOf desc) q.sc) = 0#16 := dirtyLanes_clean hclean
  have hchecks : tensorChk store (tensorOf desc) { q.sc with s := s1 } s1 q.act = (s', some all) := tensorChk_some hchk
  exact ⟨fun hok hlf => hbody (tensorBody_passes hlanes hchecks hlf hok), fun hlf => hbody (tensorBody_lanefault hlanes hchecks hlf)⟩

end

theorem ldt_runs : MemorySlots.Runs .ldt (mTensor false) := ⟨_, fun w => ⟨rfl, exec_ldt w⟩⟩
theorem stt_runs : MemorySlots.Runs .stt (mTensor true) := ⟨_, fun w => ⟨rfl, exec_stt w⟩⟩

/-- Settles O19: BORDER's cases, the illegal descriptor, and the accesses of LDT and of STT. -/
theorem tensorAccessIssue : Obligations.TensorAccessIssue := by
  refine ⟨fun border ext i hext => ⟨borderCoord_inside, borderCoord_refused, fun hi => ?_, fun hi => ?_, ?_⟩, ?_⟩
  · rw [borderCoord_clamped (.inl hi), if_pos hi]
  · rw [borderCoord_clamped (.inr hi), if_neg (by omega)]
  · have hne : (ext : Int) ≠ 0 := by omega
    exact ⟨i % ext, i / ext, borderCoord_wrapped, Int.emod_nonneg i hne, Int.emod_lt_of_pos i (by omega),
      (Int.emod_add_ediv_mul i ext).symm⟩
  intro q s1 desc keep hact hnumber n x hlt hcount hsource t w size us fit bad place bit near all zeros dirty loads stores done
  obtain ⟨fresh, hdesc, rfl⟩ : ∃ fresh, readDesc q.sc n = (s1, .ok desc fresh) ∧ keep = keepEff q fresh desc := by
    rcases hsource with ⟨hne, hkept, rfl, rfl⟩ | ⟨hkept, hva, pa, htr, rfl, rfl⟩
    · exact ⟨false, readDesc_kept hcount hkept hne, rfl⟩
    · exact ⟨true, readDesc_fresh hcount hkept hva htr, rfl⟩
  refine ⟨?_, fun h hgood hfit hclean s' l hchk => ?_, fun h hgood hfit hclean s' l hchk => ?_⟩
  · have hillegal {i : Slot → Instr} {store : Bool} (hr : MemorySlots.Runs i (mTensor store)) (h : q.ready (i q.w)) (hbad : bad) :
        exec (i q.w) q.s = .next (trapSlot s1 q.is q.is.idx ⟨2, 0, 0, 0⟩) :=
      trapSlot_of_trap h (hr.ready h).1 (hr.ready h).2 (mTensor_illegal hact hnumber hlt hdesc hbad)
    simp only [List.forall_mem_cons, List.not_mem_nil, IsEmpty.forall_iff, implies_true, and_true]
    exact ⟨hillegal ldt_runs, hillegal stt_runs⟩
  · have hgives := tensor_gives ldt_runs h hact hnumber hlt hdesc hgood (by rw [tensorUses_eq]; exact hfit)
      (fun i hi hlane => (tensorDirty_load t q.sc i).trans (hclean i hi hlane)) hchk
    have hlanes : ∀ y ∈ tensorChecks q.sc t q.act l, y.lane ∈ lanesOf (actives q.sc) := fun _ => lane_of_tensorChecks
    dsimp only at hgives
    rw [tensorEffs_load hlanes, tensorEffs_load fun y hy => hlanes y (List.mem_of_mem_filter hy), tensorUses_eq] at hgives
    exact hgives
  · have hgives := tensor_gives stt_runs h hact hnumber hlt hdesc hgood (by rw [tensorUses_eq]; exact hfit) hclean hchk
    have hlanes : ∀ y ∈ tensorChecks q.sc t q.act l, y.lane ∈ lanesOf (actives q.sc) := fun _ => lane_of_tensorChecks
    dsimp only at hgives
    rw [tensorEffs_store hlanes, tensorEffs_store fun y hy => hlanes y (List.mem_of_mem_filter hy), tensorUses_eq] at hgives
    exact hgives

end Sys2Proof.Laws.TensorSlots
end

section
/-! SUPPORT. Which operations change the bytes of memory: those that move copies, wake paths or land results change none, a write stores
its lanes, and every one keeps the canonical form; with the statement O53 (R204, R225, R233, R370). -/

namespace Sys2Proof.Laws

open Sys2Proof.Machine

/-- The bytes of global memory and of the ponds. -/
abbrev bytesOf (s : State) : Memory × Memory := (s.mem, s.pond)

/-! ## Operations that change no byte -/

theorem bytesOf_acquireBy (a : Agent) (scope : Nat) (s : State) : bytesOf (acquireBy a scope s) = bytesOf s := rfl

theorem bytesOf_putGroup (s : State) (loc : Nat) (g : Group) : bytesOf (putGroup s loc g) = bytesOf s := rfl

theorem bytesOf_modGroup (s : State) (loc : Nat) (f : Group → Group) : bytesOf (modGroup s loc f) = bytesOf s := by simp

theorem bytesOf_wantCopy (s : State) (a : Agent) (cl line : Nat) : bytesOf (wantCopy s a cl line) = bytesOf s := by
  unfold wantCopy
  split <;> rfl

theorem bytesOf_bindLines (s : State) (a : Agent) (cl : Nat) (copy : Bool) (lines : List Nat) :
    bytesOf (bindLines s a cl copy lines) = bytesOf s := by
  unfold bindLines
  split
  · exact foldl_unchanged (fun s l => bytesOf_wantCopy s a cl l) lines s
  · have hdrop (s : State) (l : Nat) : bytesOf (dropCopy s cl l) = bytesOf s := rfl
    exact foldl_unchanged hdrop lines (takeIn a lines s)

theorem bytesOf_wakeBuild (s : State) (pa : Nat) : bytesOf (wakeBuild s pa) = bytesOf s := by
  refine foldl_unchanged (fun s e => ?_) s.groups s
  split
  · rfl
  · split <;> rfl

theorem bytesOf_wakeBarbPath (s : State) (loc p : Nat) : bytesOf (wakeBarbPath s loc p) = bytesOf s := by
  unfold wakeBarbPath
  split
  · rfl
  · refine foldl_unchanged (fun s w => ?_) _ s
    split
    · dsimp only
      split
      · rfl
      · exact bytesOf_modGroup s loc _
    · rfl

theorem bytesOf_wakeBarb (s : State) : bytesOf (wakeBarb s) = bytesOf s := by
  have hpaths (s : State) (e : Nat × Option Group) : bytesOf (wakeBarbPath (wakeBarbPath s e.1 0) e.1 1) = bytesOf s :=
    (bytesOf_wakeBarbPath _ e.1 1).trans (bytesOf_wakeBarbPath s e.1 0)
  exact foldl_unchanged hpaths s.groups s

theorem bytesOf_bindLoad (s : State) (loc i : Nat) (viaCopy : Bool) : bytesOf (bindLoad s loc i viaCopy) = bytesOf s := by
  have hlines (e : MemEntry) (a : Agent) (cl : Nat) (copy : Bool) :
      bytesOf (if e.pond then s else bindLines s a cl copy (entryLines e)) = bytesOf s := by
    split
    · rfl
    · exact bytesOf_bindLines _ _ _ _ _
  fun_cases bindLoad s loc i viaCopy
  case case4 => exact hlines _ _ _ _
  case case5 => exact hlines _ _ _ _
  all_goals rfl

/-! ## Writes and atomics (R204, R225) -/

/-- One lane's store in its memory: the bytes under its mask are replaced. -/
def storeLane (m : Memory) (a : LaneAccess) : Memory := mwrite m a.pa (mergeBytes a.mask (mread m a.pa a.data.length) a.data)

theorem bytesOf_writeBy (me : Agent) (s : State) (pa : Nat) (bs : List Byte) : bytesOf (writeBy me s pa bs) = (mwrite s.mem pa bs, s.pond) := rfl

/-- The lanes of a write store one after another, in the pond or at the home. -/
theorem bytesOf_writeLanes (me : Agent) (e : MemEntry) (lanes : List LaneAccess) (s : State) :
    bytesOf (lanes.foldl (fun s a => writeLane me s e a) s) =
      if e.pond then (s.mem, lanes.foldl storeLane s.pond) else (lanes.foldl storeLane s.mem, s.pond) := by
  induction lanes generalizing s with
  | nil => split <;> rfl
  | cons a lanes ih =>
    rw [List.foldl_cons, ih, writeLane]
    split <;> rfl

section
variable {land : Group → LaneMask → List RegWrite → Group} {s : State} {loc i : Nat} {g : Group} {e : MemEntry}
  (hg : getGroup s loc = some g) (he : g.macc[i]? = some e) (hready : entryReady g i = true)
include hg he hready

theorem bytesOf_performWith_write (hk : e.kind = .write) : bytesOf (performWith land s loc i) =
    if e.pond then (s.mem, e.lanes.foldl storeLane s.pond) else (e.lanes.foldl storeLane s.mem, s.pond) := by
  simp only [performWith, hg, he, hready, hk, Bool.not_true, Bool.false_eq_true, if_false]
  refine Eq.trans ?_ (bytesOf_writeLanes (agentOf g loc e.mask) e e.lanes (putGroup s loc (dropEntry g i)))
  split
  · exact bytesOf_wakeBarb _
  · exact bytesOf_bindLines _ _ _ _ _

theorem performWith_fence (hk : e.kind = .fence) :
    performWith land s loc i = acquireBy (agentOf g loc e.mask) e.scope (putGroup s loc (dropEntry g i)) := by
  simp only [performWith, hg, he, hready, hk, Bool.not_true, Bool.false_eq_true, if_false]

theorem performWith_drain (hk : e.kind = .drain) : performWith land s loc i =
    acquireBy (agentOf g loc e.mask) e.scope (modGroup (putGroup s loc (dropEntry g i)) loc fun g => endDrain g e.mask) := by
  simp only [performWith, hg, he, hready, hk, Bool.not_true, Bool.false_eq_true, if_false]

end

/-! ## The canonical form -/

/-- Global memory and the ponds are in canonical form. -/
def CanonicalBytes (b : Memory × Memory) : Prop := b.1.wf = true ∧ b.2.wf = true

theorem storeLane_wf {m : Memory} (a : LaneAccess) (h : m.wf = true) : (storeLane m a).wf = true := mwrite_wf _ _ _ h

theorem storeLanes_wf (lanes : List LaneAccess) {m : Memory} (h : m.wf = true) : (lanes.foldl storeLane m).wf = true := by
  induction lanes generalizing m with
  | nil => exact h
  | cons a lanes ih => exact ih (storeLane_wf a h)

theorem atomicLane_canonical (me : Agent) {s : State} (op : AtomOp) (size d : Nat) (a : LaneAccess) (h : CanonicalBytes (bytesOf s)) :
    CanonicalBytes (bytesOf (atomicLane me s op size d a).1) := by
  have hwrite (bs : List Byte) : CanonicalBytes (bytesOf (writeBy me s a.pa bs)) := ⟨mwrite_wf _ _ _ h.1, h.2⟩
  unfold atomicLane
  dsimp only
  split
  · split
    · rw [bytesOf_wakeBuild]
      exact hwrite _
    · exact h
  · exact hwrite _

theorem atomicLanes_canonical (me : Agent) (op : AtomOp) (size d : Nat) (lanes : List LaneAccess) {s : State}
    (h : CanonicalBytes (bytesOf s)) : CanonicalBytes (bytesOf (atomicLanes me s op size d lanes).1) := by
  induction lanes generalizing s with
  | nil => exact h
  | cons a lanes ih => exact ih (atomicLane_canonical me op size d a h)

theorem writeLanes_canonical (me : Agent) (e : MemEntry) (lanes : List LaneAccess) {s : State} (h : CanonicalBytes (bytesOf s)) :
    CanonicalBytes (bytesOf (lanes.foldl (fun s a => writeLane me s e a) s)) := by
  rw [bytesOf_writeLanes]
  split
  · exact ⟨h.1, storeLanes_wf lanes h.2⟩
  · exact ⟨storeLanes_wf lanes h.1, h.2⟩

/-- Every entry that performs keeps the form, whatever is done with what an atomic returns. -/
theorem performWith_canonical (land : Group → LaneMask → List RegWrite → Group) {s : State} (loc i : Nat) (h : CanonicalBytes (bytesOf s)) :
    CanonicalBytes (bytesOf (performWith land s loc i)) := by
  have hatomic (g : Group) (e : MemEntry) (cl : Nat) (op : AtomOp) (d : Nat) (f : State × List RegWrite → Group → Group) :
      let me := agentOf g loc e.mask
      let r := atomicLanes me (putGroup s loc (dropEntry g i)) op e.size d e.lanes
      CanonicalBytes (bytesOf (modGroup (bindLines r.1 me cl false (entryLines e)) loc (f r))) := by
    dsimp only
    rw [bytesOf_modGroup, bytesOf_bindLines]
    exact atomicLanes_canonical _ op e.size d e.lanes h
  fun_cases performWith land s loc i
  case case6 =>
    rw [bytesOf_acquireBy, bytesOf_modGroup]
    exact h
  case case7 =>
    rw [bytesOf_wakeBarb]
    exact writeLanes_canonical _ _ _ h
  case case8 =>
    rw [bytesOf_bindLines]
    exact writeLanes_canonical _ _ _ h
  case case9 g _ e _ _ cl _ _ op d _ _ _ _ => exact hatomic g e cl op d fun r g => land g e.mask r.2
  case case10 g _ e _ _ cl _ _ op d _ _ _ _ => exact hatomic g e cl op d fun r g => land g e.mask r.2
  all_goals exact h

theorem settleWrites_canonical {s : State} (loc n : Nat) (h : CanonicalBytes (bytesOf s)) :
    CanonicalBytes (bytesOf (settleWrites s loc n)) := by
  induction n generalizing s with
  | zero => exact h
  | succ n ih =>
    unfold settleWrites
    split
    · exact h
    · split
      · exact h
      · exact ih (performWith_canonical _ loc _ h)

theorem settleGroup_canonical {s : State} (loc : Nat) (h : CanonicalBytes (bytesOf s)) : CanonicalBytes (bytesOf (settleGroup s loc)) := by
  unfold settleGroup
  split
  · exact h
  · exact settleWrites_canonical loc _ h

theorem settleAtomics_canonical {s : State} (loc n : Nat) (h : CanonicalBytes (bytesOf s)) :
    CanonicalBytes (bytesOf (settleAtomics s loc n)) := by
  induction n generalizing s with
  | zero => exact settleGroup_canonical loc h
  | succ n ih =>
    unfold settleAtomics
    split
    · exact h
    · split
      · refine ih ?_
        split
        · split
          · rw [bytesOf_bindLoad]
            exact h
          · exact performWith_canonical _ loc 0 h
        · exact h
      · exact settleGroup_canonical loc h

theorem drainBank_canonical {s : State} (k : Nat) (h : CanonicalBytes (bytesOf s)) : CanonicalBytes (bytesOf (drainBank s k)) :=
  ⟨h.1, mzero_wf _ _ _ h.2⟩

/-! ## Writes over pages (R104, R370) -/

section
variable {s : State} (u : TUnit) (c asn root va : Nat) (n : Need)

theorem cacheLeaf_wf (leaf : Leaf) (h : s.mem.wf = true) : (cacheLeaf s u asn va leaf n).mem.wf = true := by
  unfold cacheLeaf tlbDrop
  dsimp only
  split
  · exact h
  · exact writeN_wf _ _ _ _ h

theorem dropTables_wf (h : s.mem.wf = true) : (dropTables s u asn va).mem.wf = true := by
  unfold dropTables
  split <;> exact h

theorem keepTables_wf (l : List (Nat × Nat × Nat)) (h : s.mem.wf = true) : (keepTables s u asn va l).mem.wf = true := by
  unfold keepTables
  split <;> exact h

theorem walkFrom_wf (fuel table : Nat) (h : s.mem.wf = true) : (walkFrom s u asn fuel table va n).1.mem.wf = true := by
  fun_cases walkFrom s u asn fuel table va n
  case case5 => exact cacheLeaf_wf _ _ _ _ _ (keepTables_wf _ _ _ _ h)
  all_goals exact h

theorem walkAnew_wf (h : s.mem.wf = true) : (walkAnew s u asn root va n).1.mem.wf = true :=
  walkFrom_wf _ _ _ _ _ _ (dropTables_wf _ _ _ h)

theorem walkFresh_wf (h : s.mem.wf = true) : (walkFresh s u asn root va n).1.mem.wf = true := by
  have hwalk (fuel table : Nat) {t : State} {r : XRes} (hw : walkFrom s u asn fuel table va n = (t, r)) : t.mem.wf = true := by
    have hfrom := walkFrom_wf u asn va n fuel table h
    rwa [hw] at hfrom
  fun_cases walkFresh s u asn root va n
  case case1 => exact walkFrom_wf _ _ _ _ _ _ h
  case case2 fuel table _ _ _ hw => exact hwalk fuel table hw
  case case3 fuel table _ _ hw => exact hwalk fuel table hw
  case case4 fuel table _ _ _ _ hw => exact walkAnew_wf _ _ _ _ _ (hwalk fuel table hw)

theorem reReadLeaf_wf (e : TlbEntry) (h : s.mem.wf = true) : (reReadLeaf s u asn root va n e).1.mem.wf = true := by
  fun_cases reReadLeaf s u asn root va n e
  · exact h
  · exact cacheLeaf_wf _ _ _ _ _ h
  · exact walkAnew_wf _ _ _ _ _ h

theorem translate_wf (h : s.mem.wf = true) : (Machine.translate s u c va n).1.mem.wf = true := by
  fun_cases Machine.translate s u c va n
  · exact h
  · exact walkFresh_wf _ _ _ _ _ h
  · exact walkAnew_wf _ _ _ _ _ h
  · exact reReadLeaf_wf _ _ _ _ _ _ h
  · exact h

theorem translateNow_wf (h : s.mem.wf = true) : (translateNow s u c va n).1.mem.wf = true := by
  have htr := translate_wf u c va n h
  unfold translateNow
  split
  · next hres => rwa [hres] at htr
  · exact htr

theorem translateRange_wf (len fuel : Nat) (h : s.mem.wf = true) : (translateRange s u c va len n fuel).1.mem.wf = true := by
  induction fuel generalizing s va len with
  | zero => exact h
  | succ fuel ih =>
    have hpage := translateNow_wf u c va n h
    unfold translateRange
    split
    · exact h
    · dsimp only
      split
      · next hres => rwa [hres] at hpage
      · next hres => rwa [hres] at hpage
      · next hres =>
        rw [hres] at hpage
        have hrest := ih (va + min len (65536 - va % 65536)) (len - min len (65536 - va % 65536)) hpage
        split
        · next hres' => rwa [hres'] at hrest
        · next hres' => rwa [hres'] at hrest

theorem writePieces_wf (l : List (Nat × Nat)) (bs : List Byte) (h : s.mem.wf = true) : (writePieces s l bs).mem.wf = true := by
  induction l generalizing s bs with
  | nil => exact h
  | cons p l ih => exact ih (bs.drop p.2) (mwrite_wf _ _ _ h)

theorem writeVirt_wf (bs : List Byte) (h : s.mem.wf = true) : (writeVirt s u c va bs).1.mem.wf = true := by
  have hrange := translateRange_wf u c va { w := true } bs.length (bs.length / 65536 + 2) h
  unfold writeVirt
  split
  · next hres => rwa [hres] at hrange
  · next hres =>
    rw [hres] at hrange
    exact writePieces_wf _ bs hrange

end

/-- Settles O53: each operation keeps the form of both memories. -/
theorem canonicalMemory : Obligations.CanonicalMemory := by
  intro s hmem hpond
  have h : CanonicalBytes (bytesOf s) := ⟨hmem, hpond⟩
  refine ⟨fun a pa bs => mwrite_wf _ _ _ hmem, fun u c va bs => writeVirt_wf u c va bs hmem, fun loc i b => ?_,
    fun loc i => performWith_canonical _ loc i h, fun loc n => settleAtomics_canonical loc n h, fun k => drainBank_canonical k h⟩
  have hbytes := bytesOf_bindLoad s loc i b
  exact (hbytes ▸ h : CanonicalBytes (bytesOf (bindLoad s loc i b)))

end Sys2Proof.Laws
end

section
/-! SUPPORT. What a write stores, byte by byte and bit by bit, when an access may perform, and the statement O43 (R204, R212, R223, R228,
R229). -/

namespace Sys2Proof.Laws.StorePerformance

open Sys2Proof.Machine Sys2Proof.Safety Sys2Proof.Laws

/-! ## The moves of accesses (R11, R242, R253) -/

theorem exec_memoryResultLand (s : State) :
    exec .memoryResultLand s = .next (memoryLand s s.args.n s.args.m (s.args.v.getLsbD 0)) := by rfl
theorem exec_storePerform (s : State) : exec .storePerform s = .next (storePerform s s.args.n s.args.m) := by rfl

section
variable {s : State} {loc i : Nat} {g : Group} {e : MemEntry} (hg : getGroup s loc = some g) (he : g.macc[i]? = some e)
include hg he

theorem mayGo_eq : mayGo s loc i = entryReach s loc e := by simp only [mayGo, hg, he]

variable (hready : entryReady g i = true)
include hready

/-- An access that may perform has its addresses. -/
theorem placeEntry_ready : placeEntry s loc i = s := by
  have hplaced : entryPlaced e = true := by
    simp only [entryReady, he, Bool.and_eq_true] at hready
    exact hready.1
  simp only [placeEntry, hg, he, hplaced, if_true]

theorem storePerform_reaches (hreach : entryReach s loc e = true) : storePerform s loc i = performEntry s loc i := by
  rw [storePerform, placeEntry_ready hg he hready]
  exact if_pos ((mayGo_eq hg he).trans hreach)

/-- An access whose way a failed die link closes stays as it is. -/
theorem storePerform_closed (hreach : entryReach s loc e = false) : storePerform s loc i = s := by
  rw [storePerform, placeEntry_ready hg he hready]
  exact if_neg (by rw [mayGo_eq hg he, hreach]; exact Bool.false_ne_true)

theorem memoryLand_closed (viaCopy : Bool) (hreach : entryReach s loc e = false) : memoryLand s loc i viaCopy = s := by
  rw [memoryLand, placeEntry_ready hg he hready]
  exact if_neg (by rw [mayGo_eq hg he, hreach]; exact Bool.false_ne_true)

end

/-! ## Bytes read and merged -/

theorem length_mread (m : Memory) (a n : Nat) : (mread m a n).length = n := by
  induction n generalizing a with
  | zero => rfl
  | succ n ih => rw [mread, List.length_cons, ih]

theorem mread_congr {m m' : Memory} {a n : Nat} (h : ∀ i < n, mget m (a + i) = mget m' (a + i)) : mread m a n = mread m' a n := by
  induction n generalizing a with
  | zero => rfl
  | succ n ih =>
    have hhead : mget m a = mget m' a := h 0 (Nat.succ_pos n)
    rw [mread, mread, hhead, ih fun i hi => ?_]
    rw [Nat.add_assoc, Nat.add_comm 1]
    exact h (i + 1) (by omega)

theorem length_mergeBytes {mask : Byte} {old new : List Byte} (h : old.length = new.length) : (mergeBytes mask old new).length = new.length := by
  rw [mergeBytes, List.length_zipWith, h, Nat.min_self]

/-- A mask of all bits replaces the bytes whole. -/
theorem mergeBytes_full {old new : List Byte} (h : old.length = new.length) : mergeBytes 0xFF old new = new := by
  have hbyte (o n : Byte) : (o &&& ~~~0xFF) ||| (n &&& 0xFF) = n := by
    rw [show ~~~(0xFF : Byte) = 0#8 by decide, BitVec.and_zero, BitVec.zero_or]
    exact BitVec.and_allOnes
  induction old generalizing new with
  | nil => rw [List.length_eq_zero_iff.mp h.symm]; rfl
  | cons o old ih =>
    cases new with
    | nil => simp at h
    | cons n new =>
      have htail := ih (Nat.succ.inj h)
      rw [mergeBytes] at htail ⊢
      rw [List.zipWith_cons_cons, htail, hbyte]

/-! ## One lane's store -/

section
variable {m : Memory} {a : LaneAccess} (hwf : m.wf = true)
include hwf

theorem mget_storeLane_out {b : Nat} (h : Outside b a.pa a.data.length) : mget (storeLane m a) b = mget m b :=
  mget_mwrite_out m a.pa b _ hwf (by rwa [length_mergeBytes (length_mread _ _ _)])

theorem mread_storeLane_full (hmask : a.mask = 0xFF) : mread (storeLane m a) a.pa a.data.length = a.data := by
  rw [storeLane, hmask, mergeBytes_full (length_mread _ _ _)]
  exact ModuleEvents.mread_mwrite m a.pa a.data hwf

/-- Of a byte the bits under the mask are replaced. -/
theorem storeLane_bit {d : Byte} (hdata : a.data = [d]) (b i : Nat) (hi : i < 8) : (mget (storeLane m a) b).getLsbD i =
    if a.pa = b ∧ a.mask.getLsbD i = true then d.getLsbD i else (mget m b).getLsbD i := by
  have hput : storeLane m a = mput m a.pa ((mget m a.pa &&& ~~~a.mask) ||| (d &&& a.mask)) := by rw [storeLane, hdata]; rfl
  by_cases hb : a.pa = b
  · subst hb
    rw [hput, mget_mput m a.pa _ hwf, BitVec.getLsbD_or, BitVec.getLsbD_and, BitVec.getLsbD_and, BitVec.getLsbD_not, decide_eq_true hi]
    cases hbit : a.mask.getLsbD i <;> simp
  · rw [hput, mget_mput_ne m a.pa b _ hwf (Ne.symm hb), if_neg fun h => hb h.1]

end

/-! ## The lanes of a write, one after another -/

section
variable {n : Nat}

theorem mget_storeLanes_out {lanes : List LaneAccess} {m : Memory} (hwf : m.wf = true) (hlen : ∀ a ∈ lanes, a.data.length = n) {b : Nat}
    (h : ∀ a ∈ lanes, Outside b a.pa n) : mget (lanes.foldl storeLane m) b = mget m b := by
  induction lanes generalizing m with
  | nil => rfl
  | cons a lanes ih =>
    rw [List.forall_mem_cons] at hlen h
    rw [List.foldl_cons, ih (storeLane_wf a hwf) hlen.2 h.2]
    exact mget_storeLane_out hwf (hlen.1 ▸ h.1)

/-- Lanes that do not overlap each read back what they stored. -/
theorem mread_storeLanes {lanes : List LaneAccess} {m : Memory} (hwf : m.wf = true) (hlen : ∀ a ∈ lanes, a.data.length = n)
    (hmask : ∀ a ∈ lanes, a.mask = 0xFF) (hapart : lanes.Pairwise fun a b => a.pa + n ≤ b.pa ∨ b.pa + n ≤ a.pa) :
    ∀ a ∈ lanes, mread (lanes.foldl storeLane m) a.pa n = a.data := by
  induction lanes generalizing m with
  | nil => exact fun _ h => absurd h List.not_mem_nil
  | cons a lanes ih =>
    rw [List.forall_mem_cons] at hlen hmask
    rw [List.pairwise_cons] at hapart
    rw [List.forall_mem_cons, List.foldl_cons]
    refine ⟨?_, ih (storeLane_wf a hwf) hlen.2 hmask.2 hapart.2⟩
    calc mread (lanes.foldl storeLane (storeLane m a)) a.pa n
        = mread (storeLane m a) a.pa n := mread_congr fun i hi =>
          mget_storeLanes_out (storeLane_wf a hwf) hlen.2 fun b hb => by have := hapart.1 b hb; simp only [Outside]; omega
      _ = a.data := by rw [← hlen.1]; exact mread_storeLane_full hwf hmask.1

/-- A bit that no lane's element takes keeps its value. -/
theorem storeLanes_bit_kept {lanes : List LaneAccess} {m : Memory} (hwf : m.wf = true) (hlen : ∀ a ∈ lanes, a.data.length = 1)
    {b i : Nat} (hi : i < 8) (h : ∀ a ∈ lanes, a.pa = b → a.mask.getLsbD i = false) :
    (mget (lanes.foldl storeLane m) b).getLsbD i = (mget m b).getLsbD i := by
  induction lanes generalizing m with
  | nil => rfl
  | cons a lanes ih =>
    rw [List.forall_mem_cons] at hlen h
    obtain ⟨d, hd⟩ := List.length_eq_one_iff.mp hlen.1
    rw [List.foldl_cons, ih (storeLane_wf a hwf) hlen.2 h.2, storeLane_bit hwf hd b i hi]
    exact if_neg fun ⟨hb, hbit⟩ => Bool.false_ne_true ((h.1 hb).symm.trans hbit)

/-- Lanes whose elements do not overlap each take the bits under their mask. -/
theorem storeLanes_bit_taken {lanes : List LaneAccess} {m : Memory} (hwf : m.wf = true) (hlen : ∀ a ∈ lanes, a.data.length = 1)
    (hapart : lanes.Pairwise fun a b => a.pa ≠ b.pa ∨ a.mask &&& b.mask = 0) {i : Nat} (hi : i < 8) :
    ∀ a ∈ lanes, a.mask.getLsbD i = true → (mget (lanes.foldl storeLane m) a.pa).getLsbD i = (a.data.headD 0).getLsbD i := by
  induction lanes generalizing m with
  | nil => exact fun _ h => absurd h List.not_mem_nil
  | cons a lanes ih =>
    rw [List.forall_mem_cons] at hlen
    rw [List.pairwise_cons] at hapart
    rw [List.forall_mem_cons, List.foldl_cons]
    refine ⟨fun hbit => ?_, ih (storeLane_wf a hwf) hlen.2 hapart.2⟩
    obtain ⟨d, hd⟩ := List.length_eq_one_iff.mp hlen.1
    rw [storeLanes_bit_kept (storeLane_wf a hwf) hlen.2 hi, storeLane_bit hwf hd a.pa i hi, if_pos ⟨rfl, hbit⟩, hd]
    · rfl
    · intro b hb hpa
      rcases hapart.1 b hb with hne | hmask
      · exact absurd hpa.symm hne
      · have hboth : (a.mask &&& b.mask).getLsbD i = false := by rw [hmask]; exact BitVec.getLsbD_zero
        rwa [BitVec.getLsbD_and, hbit, Bool.true_and] at hboth

/-- The same, byte by byte. -/
theorem mget_storeLanes_masked {lanes : List LaneAccess} {m : Memory} (hwf : m.wf = true) (hlen : ∀ a ∈ lanes, a.data.length = 1)
    (hapart : lanes.Pairwise fun a b => a.pa ≠ b.pa ∨ a.mask &&& b.mask = 0) :
    ∀ a ∈ lanes, mget (lanes.foldl storeLane m) a.pa &&& a.mask = a.data.headD 0 &&& a.mask := by
  intro a ha
  refine BitVec.eq_of_getLsbD_eq fun i hi => ?_
  rw [BitVec.getLsbD_and, BitVec.getLsbD_and]
  cases hbit : a.mask.getLsbD i with
  | false => rw [Bool.and_false, Bool.and_false]
  | true => rw [storeLanes_bit_taken hwf hlen hapart hi a ha hbit]

end

/-! ## FENCE and DRAIN (R228, R229) -/

theorem endWaits_pathsOnly {g : Group} {p : Nat} (f : Wait → Bool) (h : (pathAt g p).st ≠ .join) : PathsOnly g (endWaits g p f) := by
  rw [endWaits_of_ne_join f h]
  exact putPath_pathsOnly _ _ _

/-- Ending the DRAIN of paths that do not stand at JOIN changes those paths only. -/
theorem endDrain_pathsOnly {g : Group} (mask : LaneMask) (h : ∀ p < 2, (pathAt g p).st ≠ .join) : PathsOnly g (endDrain g mask) := by
  have hrefl : PathsOnly g g := ⟨g.p0, g.p1, g.stack, rfl⟩
  have h1 : (pathAt (endWaits g 0 isDrain) 1).st ≠ .join := by
    rw [endWaits_of_ne_join _ (h 0 (by decide))]
    rcases pathAt_modPath_or g 0 1 _ with heq | heq <;> rw [heq] <;> exact h 1 (by decide)
  unfold endDrain
  dsimp only
  split
  · split
    · exact (endWaits_pathsOnly _ (h 0 (by decide))).trans (endWaits_pathsOnly _ h1)
    · exact endWaits_pathsOnly _ (h 0 (by decide))
  · split
    · exact endWaits_pathsOnly _ (h 1 (by decide))
    · exact hrefl

/-- An entry that leaves keeps the states of the paths. -/
theorem pathAt_dropEntry_st (g : Group) (i p : Nat) : (pathAt (dropEntry g i) p).st = (pathAt g p).st := by
  unfold pathAt
  split <;> rfl

theorem dropEntry_sameFiles (g : Group) (i : Nat) : SameFiles g (dropEntry g i) := ⟨rfl, rfl, rfl, rfl, rfl, rfl, rfl⟩

/-- What a fence or a drain leaves: its group without the entry, and every byte. -/
theorem fence_performs {s : State} {loc i : Nat} {g : Group} {e : MemEntry} (hg : getGroup s loc = some g) (he : g.macc[i]? = some e)
    (hready : entryReady g i = true) (hk : e.kind = .fence ∨ e.kind = .drain) (hst : ∀ p < 2, (pathAt g p).st ≠ .join) :
    ∃ h, getGroup (performEntry s loc i) loc = some h ∧ PathsOnly (dropEntry g i) h ∧ bytesOf (performEntry s loc i) = bytesOf s := by
  have hdropped := getGroup_putGroup s loc (dropEntry g i)
  rcases hk with hk | hk
  · rw [performEntry, performWith_fence hg he hready hk]
    exact ⟨_, hdropped, ⟨_, _, _, rfl⟩, rfl⟩
  · rw [performEntry, performWith_drain hg he hready hk, modGroup_some _ hdropped]
    exact ⟨_, getGroup_putGroup _ loc _, endDrain_pathsOnly e.mask fun p hp => by rw [pathAt_dropEntry_st]; exact hst p hp, rfl⟩

/-- Settles O43: what stays, what a write stores in its memory, and a fence. -/
theorem storePerformance : Obligations.StorePerformance := by
  intro s g e hg he hready hmem hpond
  refine ⟨fun hreach => ?_, fun hreach hk hlen => ?_, fun hreach hk hst => ?_⟩
  · rw [exec_storePerform, exec_memoryResultLand, storePerform_closed hg he hready hreach, memoryLand_closed hg he hready _ hreach]
    exact ⟨rfl, rfl⟩
  · have hbytes : bytesOf (performEntry s s.args.n s.args.m) = _ := bytesOf_performWith_write hg he hready hk
    refine ⟨_, (exec_storePerform s).trans (congrArg _ (storePerform_reaches hg he hready hreach)), ?_⟩
    generalize performEntry s s.args.n s.args.m = s' at hbytes
    cases hp : e.pond with
    | true =>
      rw [hp, if_pos rfl] at hbytes
      obtain ⟨hm, hpo⟩ := Prod.mk.inj hbytes
      rw [hm, hpo]
      exact ⟨hmem, storeLanes_wf _ hpond, fun h => absurd h (by decide), fun _ => ⟨rfl, fun b => mget_storeLanes_out hpond hlen⟩,
        mread_storeLanes hpond hlen, fun h1 hapart => ⟨mget_storeLanes_masked hpond (h1 ▸ hlen) hapart,
          fun b i hi => storeLanes_bit_kept hpond (h1 ▸ hlen) hi⟩⟩
    | false =>
      rw [hp, if_neg Bool.false_ne_true] at hbytes
      obtain ⟨hm, hpo⟩ := Prod.mk.inj hbytes
      rw [hm, hpo]
      exact ⟨storeLanes_wf _ hmem, hpond, fun _ => ⟨rfl, fun b => mget_storeLanes_out hmem hlen⟩, fun h => absurd h (by decide),
        mread_storeLanes hmem hlen, fun h1 hapart => ⟨mget_storeLanes_masked hmem (h1 ▸ hlen) hapart,
          fun b i hi => storeLanes_bit_kept hmem (h1 ▸ hlen) hi⟩⟩
  · obtain ⟨h, hget, hpaths, hbytes⟩ := fence_performs hg he hready hk hst
    obtain ⟨hm, hpo⟩ := Prod.mk.inj hbytes
    exact ⟨_, h, (exec_storePerform s).trans (congrArg _ (storePerform_reaches hg he hready hreach)), hget, hpaths.pending.1,
      hpaths.sameFiles, hm, hpo⟩

end Sys2Proof.Laws.StorePerformance
end

section
/-! SUPPORT. Two statements about accesses that fail, each on a state that it admits and no run reaches: a memory whose addresses do not
rise, and a group table that lists one place twice (R233, R240, R353). -/

namespace Sys2Proof.Laws.AccessRefutations

open Sys2Proof.Machine Sys2Proof.Safety Sys2Proof.Laws

/-! ## A memory whose addresses do not rise -/

/-- A load of the byte at 3 to v0 of lane 0, which may bind from a copy of its line. -/
def byteLoad : MemEntry :=
  { kind := .load 8 false 0, mask := 1, pond := false, size := 1, lanes := [{ lane := 0, va := 3, pa := 3, data := [] }], baddr := 0
    word := 0, modw := 0, scope := 0, cached := true }

/-- A group whose path has made it. -/
def loadingGroup : Group := { p0 := { st := .live, mask := 1 }, macc := [byteLoad] }

/-- The reset state with that group at place 0 and a memory that lists address 1024 before address 3; the move binds from a copy. -/
def unsortedState : State :=
  { State.reset with groups := [(0, some loadingGroup)], mem := [(1024, 1), (3, 7)], args := { n := 0, m := 0, v := 1 } }

/-- Address 3 stands behind a greater one, where a read does not look for it. -/
theorem mread_unsorted : mread unsortedState.mem 3 1 = [0] := by decide

/-- The copy of line 0 lists address 3 alone, so the load binds what stands there. -/
theorem load_binds_hidden_byte : (getGroup (memoryLand unsortedState 0 0 true) 0).map (fun h => vreg h 0 0) = some ⟨7, false⟩ := by decide

/-- Refutes O42: where the cluster has no copy of the line it gives the lane the bytes at the home, and admits a memory whose addresses do not
rise. The copy that the load fills then holds a byte that a read at the home does not find (R233). A premise `Memory.wf s.mem` is missing. -/
theorem not_loadBinding : ¬ Obligations.LoadBinding := by
  intro hall
  obtain ⟨s', h, hnext, hget, -, -, -, hlanes, -⟩ := hall unsortedState loadingGroup byteLoad 8 0 false (by decide) (by decide) rfl rfl
    (by decide) (by decide) (by decide) (by decide) (.inl (by decide)) (by decide)
  obtain ⟨hhome, -⟩ := hlanes _ List.mem_cons_self
  have hs' : s' = memoryLand unsortedState 0 0 true := (Host.Outcome.next.inj hnext).symm
  have hzero : vreg h 0 0 = ⟨0, false⟩ := hhome.trans (by decide)
  have hbound := load_binds_hidden_byte
  rw [← hs', show getGroup s' 0 = some h from hget, Option.map_some, hzero] at hbound
  exact absurd hbound (by decide)

/-! ## A place that the group table lists twice -/

/-- GPUBLISH's exchange of the word at 0 for one of TYPE 6, which answers in p0. -/
def publication : MemEntry :=
  { kind := .atomic .publish 0, mask := 1, pond := false, size := 8
    lanes := [{ lane := 0, va := 0, pa := 0, data := [6, 0, 0, 0, 0, 0, 0, 0] }], baddr := 0, word := 0, modw := 0, scope := 0, cached := false }

/-- A group whose path has made it, with no register set. -/
def publishingGroup : Group := { p0 := { st := .live, mask := 1 }, macc := [publication] }

/-- A second entry of the same place, parked on the word, whose v0 holds 1 in lane 0. -/
def parkedGroup : Group := { p0 := { st := .parked, mask := 1, parks := [.build 0] }, v := [(0, ⟨1, false⟩)] }

/-- The reset state with both entries under place 0 and a word of TYPE 7 at address 0. -/
def twiceListed : State := { State.reset with groups := [(0, some publishingGroup), (0, some parkedGroup)], mem := [(0, 7)] }

/-- The publication wakes every listed group that is parked on the word, and so writes the second entry over the publishing group. -/
theorem publication_overwrites_group : (getGroup (storePerform twiceListed 0 0) 0).map (·.v) = some [(0, ⟨1, false⟩)] := by decide

/-- Refutes O44: its clause on GPUBLISH keeps the publishing group's vector registers, and admits a group table that lists the group's place
twice. The wake of the parked paths then takes the second entry for the group of that place and puts it there (R353). A premise
`tblWf none s.groups` is missing. -/
theorem not_atomicPerformance : ¬ Obligations.AtomicPerformance := by
  rintro ⟨-, hpublish⟩
  obtain ⟨s', h, hnext, hget, -, -, -, -, -, -, hv, -⟩ := hpublish twiceListed publishingGroup publication _ 0 (by decide) (by decide)
    (by decide) rfl (by decide) (by decide) rfl rfl rfl (by decide) rfl rfl
  have hs' : s' = storePerform twiceListed 0 0 := (Host.Outcome.next.inj hnext).symm
  have hover := publication_overwrites_group
  rw [← hs', show getGroup s' 0 = some h from hget, Option.map_some, hv] at hover
  exact absurd hover (by decide)

end Sys2Proof.Laws.AccessRefutations
end

section
/-! SUPPORT. The slots that create children: when a creation traps, waits or goes on, the requests of CPY and COLL, and the statement O29
(R256-R260, R271, R279, R415, R416). -/

namespace Sys2Proof.Laws.ChildSlots

open Sys2Proof.Machine Sys2Proof.Safety Sys2Proof.Laws

/-! ## Creation (R256, R268) -/

section
variable {q : Taken} {r : ChildReq} {effs : List Eff}

theorem createSlot_seventeenth (hfull : unreleased q.s q.g + creating q.sc ≥ 16) : createSlot q.sc r effs = trapOf 4 := if_pos hfull

section
variable (hfew : unreleased q.s q.g + creating q.sc < 16) {cls : Nat} (hcls : r.cls = cls)
include hfew hcls

theorem createSlot_counterFull (hfull : (classCounter q.g cls).length ≥ 65535) : createSlot q.sc r effs = .wait := by
  subst hcls
  exact (if_neg (Nat.not_le.mpr hfew)).trans (if_pos hfull)

theorem createSlot_creates (hcount : (classCounter q.g cls).length < 65535) (hroom : createHold q.sc cls = false) :
    createSlot q.sc r effs = .ok (effs ++ [.child q.d r]) 0 [] := by
  subst hcls
  have hroom' : ¬createHold q.sc r.cls = true := by rw [hroom]; exact Bool.false_ne_true
  exact (if_neg (Nat.not_le.mpr hfew)).trans ((if_neg (Nat.not_le.mpr hcount)).trans (if_neg hroom'))

end

end

/-- The predecessor that s(b) names; none where B = 63 (R259). -/
def predecessor (q : Taken) : PWord := if q.b = 63 then ⟨0, false⟩ else q.s32 q.b

/-! ## CPY (R271, R279) -/

/-- The request of a copy with a descriptor, whose bit 13 of y5 is any-end mode (R271). -/
def copyRequest (q : Taken) (y : List DWord) : ChildReq :=
  { cls := 1, pred := (predecessor q).val, any := bitOf (dwAt y 5) 13, det := q.sc.mod.det, scope := scopeOr4 q.sc
    cache := q.sc.mod.cache.toNat, desc := y }

/-- The words of a descriptor that CPY stages: those that differ from y0..y7. -/
def stagedWords (q : Taken) (word : Nat → DWord) : List Eff :=
  ((List.range 8).filter fun j => decide (word j ≠ tget 0 q.g.y j)).map fun j => Eff.stage j (word j)

theorem stagedWords_standing (q : Taken) : stagedWords q (tget 0 q.g.y) = [] := by
  simp [stagedWords]

theorem getD_map_range {word : Nat → DWord} {n j : Nat} (hj : j < n) : ((List.range n).map word).getD j 0 = word j := by
  simp [List.getD_eq_getElem?_getD, hj]

/-- A descriptor's words are those of the list that holds it. -/
theorem stagedWords_listed (q : Taken) (word : Nat → DWord) :
    stagedWords q (fun j => ((List.range 8).map word).getD j 0) = stagedWords q word := by
  have hword : ∀ j ∈ List.range 8, ((List.range 8).map word).getD j 0 = word j := fun j hj => getD_map_range (List.mem_range.mp hj)
  have hkeep : ((List.range 8).filter fun j => decide (((List.range 8).map word).getD j 0 ≠ tget 0 q.g.y j))
      = (List.range 8).filter fun j => decide (word j ≠ tget 0 q.g.y j) :=
    List.filter_congr fun j hj => by rw [hword j hj]
  rw [stagedWords, hkeep]
  exact List.map_congr_left fun j hj => by rw [hword j (List.mem_of_mem_filter hj)]

theorem copyStage_uniforms {q : Taken} (ha : q.a ≠ 63) :
    copyStage q.sc = (List.range 8).map fun j => BitVec.ofNat 64 (spair q.g q.path (q.a + 2 * j)).1 := if_pos ha

theorem copyStage_standing {q : Taken} (ha : q.a = 63) (himm : q.w.imm = none) : copyStage q.sc = (List.range 8).map (tget 0 q.g.y) := by
  have himm' : q.sc.w.imm = none := himm
  simp only [copyStage, if_neg (not_not_intro (show q.sc.a = 63 from ha)), himm']
  rfl

section
variable {q : Taken} (ho : q.on) (hpred : (predecessor q).poison = false)
include ho hpred

/-- A CPY of legal and clean operands stages its descriptor and creates a copy of it. -/
theorem yCpy_eq {word : Nat → DWord} (hdesc : copyStage q.sc = (List.range 8).map word)
    (hlegal : q.a = 63 ∨ q.a % 2 = 0 ∧ q.a ≤ 48 ∧ ∀ j < 16, (q.s32 (q.a + j)).poison = false) :
    yCpy q.sc = (q.s, createSlot q.sc (copyRequest q ((List.range 8).map word)) (stagedWords q word)) := by
  have hfield : ¬(decide (q.a ≠ 63) && (q.a % 2 == 1 || decide (q.a > 48))) = true := by
    rcases hlegal with ha | ⟨heven, hrun, -⟩
    · simp [ha]
    · simp [heven, hrun]
  have hclean : ¬((decide (q.a ≠ 63) && (List.range 16).any fun j => (q.s32 (q.a + j)).poison) || (predecessor q).poison) = true := by
    rcases hlegal with ha | ⟨-, -, hwords⟩
    · simp [ha, hpred]
    · simpa [hpred] using fun _ => hwords
  rw [yCpy, QueueAndRecordSlots.consuming_on ho, ← stagedWords_listed, ← hdesc]
  exact congrArg (q.s, ·) ((if_neg hfield).trans (if_neg hclean))

/-- A CPY that names uniforms takes its descriptor from the pairs at s(a). -/
theorem yCpy_uniforms (ha : q.a ≠ 63) (heven : q.a % 2 = 0) (hrun : q.a ≤ 48) (hwords : ∀ j < 16, (q.s32 (q.a + j)).poison = false) :
    yCpy q.sc = (q.s, createSlot q.sc
      (copyRequest q ((List.range 8).map fun j => BitVec.ofNat 64 (spair q.g q.path (q.a + 2 * j)).1))
      (stagedWords q fun j => BitVec.ofNat 64 (spair q.g q.path (q.a + 2 * j)).1)) :=
  yCpy_eq ho hpred (copyStage_uniforms ha) (.inr ⟨heven, hrun, hwords⟩)

/-- A CPY of y0..y7 as they stand stages nothing. -/
theorem yCpy_standing (ha : q.a = 63) (himm : q.w.imm = none) :
    yCpy q.sc = (q.s, createSlot q.sc (copyRequest q ((List.range 8).map (tget 0 q.g.y))) []) := by
  rw [yCpy_eq ho hpred (copyStage_standing ha himm) (.inl ha), stagedWords_standing]

end

/-! ## COLL (R415) -/

/-- The alignment of A is among the checks of a ready slot (R57). -/
theorem coll_aligned {q : Taken} (ho : q.on) (h : q.ready (.coll q.w)) : q.a % 2 = 0 := by
  obtain ⟨hi, -, -, -, -, -, -, hchecks, -⟩ := h
  have hf : formColl = q.f := congrArg Prod.fst (Option.some.inj hi)
  have hval : (spreg q.g q.path q.w.p.toNat).val = true := congrArg PBit.val (show scalarGuard q.sc = ⟨true, false⟩ from ho)
  obtain ⟨-, hlegal⟩ := Bool.or_eq_false_iff.mp hchecks
  rw [guardOpen, hval, Bool.or_true, Bool.true_and, ← hf] at hlegal
  have hfault : operandFault formColl q.w q.g.blocks = false := hlegal
  simp only [operandFault, Bool.or_eq_false_iff] at hfault
  obtain ⟨⟨⟨⟨-, ha⟩, -⟩, -⟩, -⟩ := hfault
  exact bne_eq_false_iff_eq.mp ha

/-- The request of a collective with its eight uniforms. -/
def collRequest (q : Taken) : ChildReq :=
  { cls := 2, pred := (predecessor q).val, any := (q.s32 (q.a + 7)).val.getLsbD 10, det := q.sc.mod.det
    scope := if q.sc.mod.scope = 0 then 5 else q.sc.mod.scope.toNat, cache := q.sc.mod.cache.toNat
    desc := (List.range 8).map fun j => (q.s32 (q.a + j)).val.setWidth 64 }

/-- A COLL of legal and clean operands creates a collective. -/
theorem yColl_eq {q : Taken} (ho : q.on) (hpred : (predecessor q).poison = false) (heven : q.a % 2 = 0)
    (hrun : q.a ≤ 56) (hwords : ∀ j < 8, (q.s32 (q.a + j)).poison = false) :
    yColl q.sc = (q.s, createSlot q.sc (collRequest q) []) := by
  have hfield : ¬(decide (q.a % 2 = 1) || decide (q.a > 56)) = true := by simp; omega
  have hclean : ¬((predecessor q).poison || ((List.range 8).map fun j => q.s32 (q.a + j)).any (·.poison)) = true := by
    simpa [hpred] using hwords
  rw [yColl, QueueAndRecordSlots.consuming_on ho]
  exact congrArg (q.s, ·) ((if_neg hfield).trans (if_neg hclean))

/-- Settles O29: CPY and COLL hand a request to the one creation, which traps, waits or creates. -/
theorem childCreation : Obligations.ChildCreation := by
  intro q ho pred count word hpred
  refine ⟨fun h ha heven hrun hwords => ?uniforms, fun h ha himm hfew hcount hroom => ?standing,
    fun h hrun hwords hfew hcount hroom => ?collective⟩
  case uniforms =>
    have hcpy := yCpy_uniforms ho hpred ha heven hrun hwords
    refine ⟨fun hfew hfull => ?_, fun hfew hcount hroom => ?_, fun hfull => ?_⟩
    · exact holds_of_wait h rfl (exec_cpy q.w q.s) (hcpy.trans (congrArg _ (createSlot_counterFull hfew rfl hfull)))
    · exact gives_of_ok h rfl (exec_cpy q.w q.s) (hcpy.trans (congrArg _ (createSlot_creates hfew rfl hcount hroom)))
    · exact traps_of_trap h rfl (exec_cpy q.w q.s) (hcpy.trans (congrArg _ (createSlot_seventeenth hfull)))
  case standing =>
    exact gives_of_ok h rfl (exec_cpy q.w q.s)
      ((yCpy_standing ho hpred ha himm).trans (congrArg _ (createSlot_creates hfew rfl hcount hroom)))
  case collective =>
    exact gives_of_ok h rfl (exec_coll q.w q.s)
      ((yColl_eq ho hpred (coll_aligned ho h) hrun hwords).trans (congrArg _ (createSlot_creates hfew rfl hcount hroom)))

end Sys2Proof.Laws.ChildSlots
end

section
/-! SUPPORT. The slots that act on a token or wait for a counter: what each answers where its guard is 1, and the statement O30 (R255, R257,
R262, R268, R280-R283). -/

namespace Sys2Proof.Laws.TokenSlots

open Sys2Proof.Machine Sys2Proof.Safety Sys2Proof.Laws

/-- The child that the token in s(a) names for the group's context. -/
abbrev named (q : Taken) : Option (Nat × Child) := childByToken q.s q.g.ctx (q.s32 q.a).val

/-- The answer of a token form (R278). -/
abbrev answer (q : Taken) (x : Word) : Eff := .result 4 [.s q.d ⟨x, false⟩]

/-! ## The token of s(a) (R255, R257) -/

section
variable {q : Taken} (ho : q.on) (hp : (q.s32 q.a).poison = false) {bad : SC → Bool}
  {f : SC → Word → Option (Nat × Child) → State × SlotRes} (hbad : bad q.sc = false)
include ho hp hbad

/-- A token form hands on the child that its clean token names and that the group owns. -/
theorem onTokenIf_own {k : Option (Nat × Child)} (hown : ownChild q.sc (q.s32 q.a).val = .ok k) :
    onTokenIf bad f q.sc = f q.sc (q.s32 q.a).val k := by
  have hown' : ownChild q.sc (sreg q.sc.g q.sc.pt q.sc.a).val = .ok k := hown
  have hp' : (sreg q.sc.g q.sc.pt q.sc.a).poison = false := hp
  rw [onTokenIf, QueueAndRecordSlots.consuming_on ho]
  simp only [hbad, hown', hp', Bool.false_eq_true, if_false]
  rfl

theorem onTokenIf_stale (hn : named q = none) : onTokenIf bad f q.sc = f q.sc (q.s32 q.a).val none :=
  onTokenIf_own ho hp hbad (by
    have hn' : childByToken q.sc.s q.sc.g.ctx (q.s32 q.a).val = none := hn
    simp only [ownChild, hn'])

variable {key : Nat} {h : Child} (hn : named q = some (key, h))
include hn

theorem onTokenIf_owned (hown : ownedBy q.g h = true) : onTokenIf bad f q.sc = f q.sc (q.s32 q.a).val (some (key, h)) :=
  onTokenIf_own ho hp hbad (by
    have hn' : childByToken q.sc.s q.sc.g.ctx (q.s32 q.a).val = some (key, h) := hn
    have hown' : ownedBy q.sc.g h = true := hown
    simp only [ownChild, hn', hown', if_true])

end

/-- The child of another group, or of a kernel, traps. -/
theorem onTokenIf_foreign {q : Taken} (ho : q.on) {bad : SC → Bool} {f : SC → Word → Option (Nat × Child) → State × SlotRes}
    (hbad : bad q.sc = false) {key : Nat} {h : Child} (hn : named q = some (key, h)) (hown : ownedBy q.g h = false) :
    onTokenIf bad f q.sc = (q.s, .trap ⟨2, 0, 0, (q.s32 q.a).val⟩) := by
  have htrap : ownChild q.sc (sreg q.sc.g q.sc.pt q.sc.a).val = .error ⟨2, 0, 0, (q.s32 q.a).val⟩ := by
    have hn' : childByToken q.sc.s q.sc.g.ctx (sreg q.sc.g q.sc.pt q.sc.a).val = some (key, h) := hn
    have hown' : ownedBy q.sc.g h = false := hown
    simp only [ownChild, hn', hown', Bool.false_eq_true, if_false]
    rfl
  rw [onTokenIf, QueueAndRecordSlots.consuming_on ho]
  simp only [hbad, htrap, Bool.false_eq_true, if_false]
  rfl

section
variable {q : Taken} (ho : q.on) {f : SC → Word → Option (Nat × Child) → State × SlotRes}
include ho

theorem onToken_stale (hp : (q.s32 q.a).poison = false) (hn : named q = none) : onToken f q.sc = f q.sc (q.s32 q.a).val none :=
  onTokenIf_stale ho hp (bad := fun _ => false) rfl hn

variable {key : Nat} {h : Child} (hn : named q = some (key, h))
include hn

theorem onToken_owned (hp : (q.s32 q.a).poison = false) (hown : ownedBy q.g h = true) :
    onToken f q.sc = f q.sc (q.s32 q.a).val (some (key, h)) := onTokenIf_owned ho hp (bad := fun _ => false) rfl hn hown

theorem onToken_foreign (hown : ownedBy q.g h = false) : onToken f q.sc = (q.s, .trap ⟨2, 0, 0, (q.s32 q.a).val⟩) :=
  onTokenIf_foreign ho (bad := fun _ => false) rfl hn hown

end

/-! ## TWAIT and TTEST (R280) -/

/-- The store of a child's record at the pair that CREG names (R280). -/
def recordStore (q : Taken) (key : Nat) (h : Child) (pa : Nat) : Eff :=
  .access { entryOf q.sc .write false 64
    [{ lane := 0, va := (spair q.g q.path q.sc.mod.creg.toNat).1, pa := pa, data := childRecord q.s key h }] with scope := 1, cached := false }

section
variable {q : Taken} {key : Nat} {h : Child}

theorem reportChild_complete (hst : h.st = .complete) :
    reportChild q.sc key h = (q.s, .ok [answer q (statusWord h false), .acquire h.req.scope, .childFree key] 0 []) := by
  simp only [reportChild, hst]
  rfl

section
variable (hst : h.st = .faulted ∨ h.st = .cancelled)
include hst

/-- What is reported of a child that has failed. -/
theorem reportChild_failed : reportChild q.sc key h =
    if q.sc.mod.cv then storeRecord q.sc key h [answer q (statusWord h false), .acquire h.req.scope]
    else (q.s, .ok [answer q (statusWord h false), .acquire h.req.scope] 0 []) := by
  rcases hst with hst | hst <;> (simp only [reportChild, hst]; rfl)

theorem childEnded_failed : childEnded h = true := by
  rcases hst with hst | hst <;> simp [childEnded, liveChild, hst]

end

theorem childEnded_complete (hst : h.st = .complete) : childEnded h = true := by
  simp [childEnded, liveChild, hst]

/-- A record whose place passes its check is stored after the effects before it. -/
theorem storeRecord_passes {k : List Eff} {s' : State} {x : LaneCheck}
    (hchk : checkGlobal q.s q.is.loc q.g.ctx { w := true } 64 0 (spair q.g q.path q.sc.mod.creg.toNat).1 = (s', some x))
    (hx : x.cause = 0) : storeRecord q.sc key h k = (s', .ok (k ++ [recordStore q key h x.pa]) 0 []) := by
  have hchk' : checkGlobal q.sc.s q.sc.is.loc q.sc.g.ctx { w := true } 64 0 (spair q.sc.g q.sc.pt q.sc.creg).1 = (s', some x) := hchk
  simp only [storeRecord, hchk', hx]
  rfl

end

/-- The pair CREG may be poisoned only where CV does not name it. -/
theorem recordPair_clean {q : Taken} (hcv : q.sc.mod.cv = true → (spair q.g q.path q.sc.mod.creg.toNat).2 = false) :
    ¬(q.sc.mod.cv && (spair q.g q.path q.sc.mod.creg.toNat).2) = true := by
  simpa using hcv

section
variable {q : Taken} {wait : Bool} (ho : q.on) (hp : (q.s32 q.a).poison = false)
  (hcv : q.sc.mod.cv = true → (spair q.g q.path q.sc.mod.creg.toNat).2 = false)
include ho

theorem yTest_foreign {key : Nat} {h : Child} (hn : named q = some (key, h)) (hown : ownedBy q.g h = false) :
    yTest wait q.sc = (q.s, .trap ⟨2, 0, 0, (q.s32 q.a).val⟩) := onToken_foreign ho hn hown

include hp hcv

theorem yTest_stale (hn : named q = none) : yTest wait q.sc = (q.s, .ok [answer q 3] 0 []) :=
  (onToken_stale ho hp hn).trans (if_neg (recordPair_clean hcv))

variable {key : Nat} {h : Child} (hn : named q = some (key, h)) (hown : ownedBy q.g h = true)
include hn hown

/-- A current token of the group's own: its child is reported once it has ended; before that TWAIT waits and TTEST answers. -/
theorem yTest_owned : yTest wait q.sc = if childEnded h then reportChild q.sc key h
    else if wait then (q.s, .wait) else (q.s, .ok [answer q (statusWord h false)] 0 []) :=
  (onToken_owned ho hn hp hown).trans (if_neg (recordPair_clean hcv))

theorem yTest_ended (hend : childEnded h = true) : yTest wait q.sc = reportChild q.sc key h :=
  (yTest_owned ho hp hcv hn hown).trans (if_pos hend)

theorem yTest_pending (hlive : childEnded h = false) :
    yTest wait q.sc = if wait then (q.s, .wait) else (q.s, .ok [answer q (statusWord h false)] 0 []) :=
  (yTest_owned ho hp hcv hn hown).trans (if_neg (by simp [hlive]))

end

/-- TWAIT and TTEST are rows of one meaning. -/
theorem testRows : ∀ i ∈ ([.twait, .ttest] : List (Slot → Instr)), ∃ f wait, ∀ w s, slotOf (i w) = some (f, 8, w)
    ∧ exec (i w) s = runSlot f 8 w (yTest wait) s := by
  simp only [List.forall_mem_cons, List.not_mem_nil, false_imp_iff, implies_true, and_true]
  exact ⟨⟨formTwait, true, fun w s => ⟨rfl, exec_twait w s⟩⟩, ⟨formTtest, false, fun w s => ⟨rfl, exec_ttest w s⟩⟩⟩

/-! ## TCANCEL, TDET, TREL and TPRIO (R281, R282) -/

section
variable {q : Taken} (ho : q.on) (hp : (q.s32 q.a).poison = false)
include ho hp

theorem yTcancel_eq : yTcancel q.sc = (q.s, .ok [.tcancel q.d (q.s32 q.a).val] 0 []) := by
  have hp' : ¬(q.s32 q.a).poison = true := by simp [hp]
  rw [yTcancel, QueueAndRecordSlots.consuming_on ho]
  exact congrArg (q.s, ·) (if_neg hp')

theorem yTdet_stale (hn : named q = none) : yTdet q.sc = (q.s, .ok [] 0 []) := onToken_stale ho hp hn

theorem yTrel_stale (hn : named q = none) : yTrel q.sc = (q.s, .ok [] 0 []) := onToken_stale ho hp hn

variable {key : Nat} {h : Child} (hn : named q = some (key, h)) (hown : ownedBy q.g h = true)
include hn hown

theorem yTdet_owned : yTdet q.sc = (q.s, .ok [.childDetach key] 0 []) := onToken_owned ho hn hp hown

theorem yTrel_owned : yTrel q.sc = (q.s, .ok [if childEnded h then .childFree key else .childGiveUp key] 0 []) :=
  onToken_owned ho hn hp hown

/-- TPRIO of a child that has not ended sets its priority, up to its maximum (R260). -/
theorem yTprio_owned (hv : (q.uy true).val.toNat ≤ 3) (hvp : (q.uy true).poison = false) (hlive : childEnded h = false) :
    yTprio q.sc = (q.s, .ok [.childPrio key (min (q.uy true).val.toNat h.maxPrio)] 0 []) := by
  rw [← uB_sc] at hv hvp ⊢
  refine (onTokenIf_owned ho hp (by simpa using hv) hn hown).trans ?_
  simp only [hvp, hlive, Bool.false_eq_true, if_false]
  rfl

end

/-! ## CNTWAIT (R268, R283) -/

/-- The earliest child of a class that has left its counter faulted and has not been reported. -/
abbrev unreported (q : Taken) (cls : Nat) : Option (Nat × Child) :=
  earliest ((leftChildren q.s q.g cls).filter fun k => decide (k.2.st = .faulted) && !k.2.reported)

/-- What CNTWAIT acquires: the widest scope of the children that have left the counter (log 27). -/
abbrev counterAcquire (q : Taken) (cls : Nat) : Eff :=
  .acquire (((leftChildren q.s q.g cls).map fun k => k.2.req.scope).foldl max (tget 0 q.g.leftScopes cls))

/-- The entries that CNTWAIT frees: those of complete children that have left the counter. -/
abbrev counterFrees (q : Taken) (cls : Nat) : List Eff :=
  ((leftChildren q.s q.g cls).filter fun k => decide (k.2.st = .complete)).map fun k => Eff.childFree k.1

section
variable {q : Taken} {cls : Nat} (ho : q.on) (hbound : (q.uy true).poison = false)
include ho hbound

theorem yCntwait_waits (habove : (classCounter q.g cls).length > (q.uy true).val.toNat) : yCntwait cls q.sc = (q.s, .wait) := by
  rw [← uB_sc] at habove hbound
  rw [yCntwait, QueueAndRecordSlots.consuming_on ho]
  exact congrArg (q.s, ·) ((if_neg (by simp [hbound])).trans (if_pos habove))

variable (hfallen : (classCounter q.g cls).length ≤ (q.uy true).val.toNat)
include hfallen

/-- Once the counter has fallen to the bound, CNTWAIT answers the token of the earliest child that faulted unreported, or 0. -/
theorem yCntwait_answers {k : Option (Nat × Child)} (hk : unreported q cls = k) : yCntwait cls q.sc =
    (q.s, .ok (k.elim [answer q 0, counterAcquire q cls]
      (fun e => [answer q (tokenOf e.1 e.2.gen), counterAcquire q cls, .childReported e.1]) ++ counterFrees q cls) 0 []) := by
  have hk' : earliest ((leftChildren q.sc.s q.sc.g cls).filter fun e => decide (e.2.st = .faulted) && !e.2.reported) = k := hk
  have hcount : ¬(classCounter q.sc.g cls).length > (q.uy true).val.toNat := Nat.not_lt.mpr hfallen
  rw [yCntwait, QueueAndRecordSlots.consuming_on ho]
  simp only [pureM, uB_sc, hbound, hcount, hk', Bool.false_eq_true, if_false]
  cases k <;> rfl

end

/-- The three forms of CNTWAIT are rows of one meaning. -/
theorem cntwaitRows : ∀ e ∈ ([(.cntwaitMx, 0), (.cntwaitCp, 1), (.cntwaitCo, 2)] : List ((Slot → Instr) × Nat)), ∃ f, ∀ w s,
    slotOf (e.1 w) = some (f, 8, w) ∧ exec (e.1 w) s = runSlot f 8 w (yCntwait e.2) s := by
  simp only [List.forall_mem_cons, List.not_mem_nil, false_imp_iff, implies_true, and_true]
  exact ⟨⟨formCntwaitMx, fun w s => ⟨rfl, exec_cntwaitMx w s⟩⟩, ⟨formCntwaitCp, fun w s => ⟨rfl, exec_cntwaitCp w s⟩⟩,
    ⟨formCntwaitCo, fun w s => ⟨rfl, exec_cntwaitCo w s⟩⟩⟩

/-- Settles O30: the answers of the token forms to a stale token, to the child of another owner, and to the group's own child in each of
its states, where TREL of a child already detached follows R262 (log 27); and those of CNTWAIT above its bound and at it. -/
theorem childTokens : Obligations.ChildTokens := by
  intro q ho tok here answer hp
  refine ⟨fun i hi h hcv => ?test, fun key c hn hown hlive hcv => ⟨fun h => ?ttest, fun h => ?twait⟩, fun h => ?tcancel,
    fun hn => ⟨fun h => ?tdetStale, fun h => ?trelStale⟩,
    fun key c hn hown => ⟨fun h => ?tdet, fun h => ?trel, fun h hv hvp hlive => ?tprio⟩, fun e he h hb => ?cntwait⟩
  case test =>
    obtain ⟨f, wait, hrow⟩ := testRows i hi
    obtain ⟨hf, hx⟩ := hrow q.w q.s
    refine ⟨fun hn => ?stale, fun key c hn => ⟨fun hown => ?foreign, fun hown hst => ?complete, fun hown hst => ?failed⟩⟩
    case stale => exact gives_of_ok h hf hx (yTest_stale ho hp hcv hn)
    case foreign => exact trapSlot_of_trap h hf hx (yTest_foreign ho hn hown)
    case complete =>
      exact gives_of_ok h hf hx ((yTest_ended ho hp hcv hn hown (childEnded_complete hst)).trans (reportChild_complete hst))
    case failed =>
      have hm := (yTest_ended (wait := wait) ho hp hcv hn hown (childEnded_failed hst)).trans (reportChild_failed hst)
      refine ⟨fun hoff => gives_of_ok h hf hx (hm.trans (if_neg (by simp [hoff]))), fun hon => ?_⟩
      intro va s' x hchk hx0
      exact gives_of_ok h hf hx ((hm.trans (if_pos hon)).trans (storeRecord_passes hchk hx0))
  case ttest => exact gives_of_ok h rfl (exec_ttest q.w q.s) (yTest_pending ho hp hcv hn hown hlive)
  case twait => exact holds_of_wait h rfl (exec_twait q.w q.s) (yTest_pending ho hp hcv hn hown hlive)
  case tcancel => exact gives_of_ok h rfl (exec_tcancel q.w q.s) (yTcancel_eq ho hp)
  case tdetStale => exact gives_of_ok h rfl (exec_tdet q.w q.s) (yTdet_stale ho hp hn)
  case trelStale => exact gives_of_ok h rfl (exec_trel q.w q.s) (yTrel_stale ho hp hn)
  case tdet => exact gives_of_ok h rfl (exec_tdet q.w q.s) (yTdet_owned ho hp hn hown)
  case trel => exact gives_of_ok h rfl (exec_trel q.w q.s) (yTrel_owned ho hp hn hown)
  case tprio => exact gives_of_ok h rfl (exec_tprio q.w q.s) (yTprio_owned ho hp hn hown hv hvp hlive)
  case cntwait =>
    obtain ⟨f, hrow⟩ := cntwaitRows e he
    obtain ⟨hf, hx⟩ := hrow q.w q.s
    refine ⟨fun habove => ?waits, fun hfallen => ⟨fun hnone => ?clear, fun key c hsome => ?reports⟩⟩
    case waits => exact holds_of_wait h hf hx (yCntwait_waits ho hb habove)
    case clear => exact gives_of_ok h hf hx (yCntwait_answers ho hb hfallen hnone)
    case reports => exact gives_of_ok h hf hx (yCntwait_answers ho hb hfallen hsome)

end Sys2Proof.Laws.TokenSlots
end

section
/-! SUPPORT. The events of children: which child an engine starts, and what a chunk, an end and a pause do in each case; the statement O47
(R258, R261, R265, R269, R275, R277). -/

namespace Sys2Proof.Laws.ChildEvents

open Sys2Proof.Machine Sys2Proof.Safety Sys2Proof.Laws

/-! ## What the events of children run -/

section
variable (s : State)

theorem exec_childStart : exec .childStart s = .next (onEngine s fun e => engineStart s e) := by rfl
theorem exec_copyChunkComplete : exec .copyChunkComplete s = .next (copyChunkEvent s s.args.n) := by rfl
theorem exec_circuitBeatArrive : exec .circuitBeatArrive s = .next (circuitBeat s s.args.n) := by rfl
theorem exec_childComplete : exec .childComplete s =
    .next (if s.args.m = 0 then childMove s s.args.n else childError s s.args.n s.args.m) := by rfl
theorem exec_childPause : exec .childPause s = .next (childPause s s.args.n) := by rfl

end

/-! ## The child that an engine starts (R261) -/

/-- The better of two candidates is one of them, and no lower in priority than either. -/
theorem betterChild_spec (a b : Nat × Child) :
    (betterChild a b = a ∨ betterChild a b = b) ∧ a.2.prio ≤ (betterChild a b).2.prio ∧ b.2.prio ≤ (betterChild a b).2.prio := by
  unfold betterChild
  split
  · next hbetter =>
    simp only [gt_iff_lt, Bool.or_eq_true, Bool.and_eq_true, decide_eq_true_eq, beq_iff_eq] at hbetter
    exact ⟨.inl rfl, le_rfl, by omega⟩
  · next hworse =>
    simp only [gt_iff_lt, Bool.or_eq_true, decide_eq_true_eq, not_or] at hworse
    exact ⟨.inr rfl, by omega, le_rfl⟩

/-- Of the best candidate so far and the next, the better. -/
def keepBetter (o : Option (Nat × Child)) (c : Nat × Child) : Option (Nat × Child) := some (o.elim c fun b => betterChild b c)

/-- Taking the better child again and again ends with one than which none has a higher priority. -/
theorem foldl_keepBetter_some {r : Nat × Child} (l : List (Nat × Child)) (b : Nat × Child) (hr : l.foldl keepBetter (some b) = some r) :
    r ∈ b :: l ∧ ∀ c ∈ b :: l, c.2.prio ≤ r.2.prio := by
  induction l generalizing b with
  | nil =>
    obtain rfl : b = r := Option.some.inj hr
    simp
  | cons a l ih =>
    obtain ⟨hmem, hmax⟩ := ih (betterChild b a) hr
    obtain ⟨hpick, hb, ha⟩ := betterChild_spec b a
    have hbest := hmax _ List.mem_cons_self
    refine ⟨?_, ?_⟩
    · rcases List.mem_cons.mp hmem with rfl | hmem
      · rcases hpick with hpick | hpick <;> simp [hpick]
      · exact List.mem_cons_of_mem _ (List.mem_cons_of_mem _ hmem)
    · simp only [List.forall_mem_cons]
      exact ⟨hb.trans hbest, ha.trans hbest, fun c hc => hmax c (List.mem_cons_of_mem _ hc)⟩

theorem foldl_keepBetter {r : Nat × Child} {l : List (Nat × Child)} (hr : l.foldl keepBetter none = some r) :
    r ∈ l ∧ ∀ c ∈ l, c.2.prio ≤ r.2.prio := by
  cases l with
  | nil => exact absurd hr (Option.some_ne_none r).symm
  | cons b l => exact foldl_keepBetter_some l b hr

/-- The children that an engine may start. -/
def candidates (s : State) (e : Engine) : List (Nat × Child) :=
  s.children.filterMap fun q => q.2.bind fun h => if mayStart s e q.1 h then some (q.1, h) else none

theorem mem_candidates {s : State} {e : Engine} {k : Nat} {c : Child} :
    (k, c) ∈ candidates s e ↔ (k, some c) ∈ s.children ∧ mayStart s e k c = true := by
  simp only [candidates, List.mem_filterMap, Option.bind_eq_some_iff, Option.ite_none_right_eq_some, Option.some.injEq, Prod.mk.injEq]
  constructor
  · rintro ⟨⟨j, o⟩, hmem, d, rfl, hstart, rfl, rfl⟩
    exact ⟨hmem, hstart⟩
  · rintro ⟨hmem, hstart⟩
    exact ⟨_, hmem, c, rfl, hstart, rfl, rfl⟩

theorem nextStart_eq (s : State) (e : Engine) : nextStart s e = (candidates s e).foldl keepBetter none := by
  unfold nextStart candidates
  congr 1
  · funext o c
    cases o <;> rfl
  · refine List.filterMap_congr fun q _ => ?_
    obtain ⟨j, o⟩ := q
    cases o <;> rfl

/-- The engine's next child may start, and none that may start has a higher priority. -/
theorem nextStart_spec {s : State} {e : Engine} {k : Nat} {c : Child} (hnext : nextStart s e = some (k, c)) :
    mayStart s e k c = true ∧ ∀ j d, (j, some d) ∈ s.children → mayStart s e j d = true → d.prio ≤ c.prio := by
  rw [nextStart_eq] at hnext
  obtain ⟨hmem, hmax⟩ := foldl_keepBetter hnext
  exact ⟨(mem_candidates.mp hmem).2, fun j d hd hstart => hmax (j, d) (mem_candidates.mpr ⟨hd, hstart⟩)⟩

theorem mayStart_issued {s : State} {e : Engine} {k : Nat} {c : Child} (h : mayStart s e k c = true) : c.st = .issued := by
  simp only [mayStart, Bool.and_eq_true, decide_eq_true_eq] at h
  obtain ⟨⟨⟨⟨-, hst⟩, -⟩, -⟩, -⟩ := h
  exact hst

section
variable {s : State} {e : Engine}

theorem onEngine_of (he : s.args.data = .engine e) (f : Engine → State) : onEngine s f = f e := by
  simp only [onEngine, he]

theorem engineStart_idle (h : nextStart s e = none) : engineStart s e = s := by
  simp only [engineStart, h]

theorem engineStart_starts {k : Nat} {c : Child} (h : nextStart s e = some (k, c)) :
    engineStart s e = startChild (putChild s k { c with st := .running }) k { c with st := .running } := by
  simp only [engineStart, h]

end

/-! ## Chunks and beats (R275, R277) -/

section
variable {s : State} {key : Nat} {h : Child} (hc : getChild s key = some h)
include hc

section
variable (hcls : h.cls = 1) (hbegun : h.begun = true) (hmay : mayMove h = true) (hover : copyOver h = false)
include hcls hbegun hmay hover

/-- The chunk of a copy that may move: on a circuit it waits for its beats. -/
theorem copyChunkEvent_eq : copyChunkEvent s key =
    if (copyDesc h.req.desc).circ ≠ 0 ∧ h.beats < chunkBeats h then s else copyChunk s key h := by
  simp only [copyChunkEvent, hc]
  exact (if_neg (by simp [hcls, hbegun, hmay, hover])).trans (if_congr (by simp) rfl rfl)

/-- A beat counts for a chunk that waits for it. -/
theorem circuitBeat_eq : circuitBeat s key =
    if (copyDesc h.req.desc).circ = 0 ∨ chunkBeats h ≤ h.beats then s else putChild s key { h with beats := h.beats + 1 } := by
  simp only [circuitBeat, hc]
  exact if_congr (by simp [hcls, hbegun, hmay, hover]) rfl rfl

end

/-! ## Moves and ends (R258, R265) -/

theorem childMove_stays (hmay : mayMove h = false) : childMove s key = s := by
  simp only [childMove, hc, hmay, Bool.not_false, if_true]

theorem childError_stays (hmay : mayMove h = false) (cause : Nat) : childError s key cause = s := by
  simp only [childError, hc, hmay, Bool.not_false, Bool.true_or, if_true]

section
variable (hmay : mayMove h = true)
include hmay

theorem childMove_begins (hbegun : h.begun = false) : childMove s key = startChild s key h := by
  simp only [childMove, hc, hmay, hbegun, Bool.not_true, Bool.not_false, Bool.false_eq_true, if_false, if_true]

/-- A soft error ends a matrix or copy child. -/
theorem childError_soft (hbegun : h.begun = true) (hsent : h.sent = false) (hcls : h.cls ≤ 1) :
    childError s key 11 = finishChild (dropRemotes s key) key .faulted 11 0 0 := by
  simp only [childError, hc, hmay, hbegun, hsent, hcls, Bool.not_true, Bool.or_self, Bool.false_eq_true, if_false, and_self, if_true]

variable (hbegun : h.begun = true)
include hbegun

theorem childMove_matrix (hcls : h.cls = 0) : childMove s key = mxMove s key h := by
  simp only [childMove, hc, hmay, hbegun, hcls, Bool.not_true, Bool.false_eq_true, if_false]

theorem childMove_copy (hcls : h.cls = 1) :
    childMove s key = if copyOver h then finishChild s key .complete 0 0 0 else s := by
  simp only [childMove, hc, hmay, hbegun, hcls, Bool.not_true, Bool.false_eq_true, if_false]

end

/-! ## Pauses (R269) -/

theorem childPause_chunkGoes (hgoes : chunkGoes h = true) : childPause s key = s := by
  simp only [childPause, hc, hgoes, if_true]

section
variable (hgoes : chunkGoes h = false)
include hgoes

theorem childPause_cancelled {cause : Nat} (hcancel : h.cancel = some cause) :
    childPause s key = finishChild (dropRemotes s key) key .cancelled cause 0 0 := by
  simp only [childPause, hc, hgoes, hcancel, Bool.false_eq_true, if_false]

theorem childPause_pauses (hcancel : h.cancel = none) (hstop : h.stop = true) : childPause s key = pauseChild s key h := by
  simp only [childPause, hc, hgoes, hcancel, hstop, Bool.false_eq_true, if_false, if_true]

end

theorem childPause_idle (hcancel : h.cancel = none) (hstop : h.stop = false) : childPause s key = s := by
  simp only [childPause, hc, hcancel, hstop, Bool.false_eq_true, if_false, ite_self]

end

/-- Only a running child's chunk is being written. -/
theorem chunkGoes_of_ne_running {h : Child} (hst : h.st ≠ .running) : chunkGoes h = false := by
  simp [chunkGoes, hst]

section
variable {s : State} {key : Nat} {h : Child}

theorem pauseChild_waiting (hst : h.st = .waiting) : pauseChild s key h = putChild s key { h with st := .paused 2, stop := false } := by
  simp only [pauseChild, hst]

theorem pauseChild_issued (hst : h.st = .issued) : pauseChild s key h = putChild s key { h with st := .paused 1, stop := false } := by
  simp only [pauseChild, hst]

/-- A running child that pauses gives up the answers that its chunk had asked for (log 26). -/
theorem pauseChild_running (hst : h.st = .running) : pauseChild s key h = putChild (histogram (dropRemotes s key) h false true) key
    { h with st := .paused 3, stop := false, asked := false, got := [], beats := 0 } := by
  simp only [pauseChild, hst]

end

/-- Settles O47: each clause is what its event's function does in the case that the clause names. -/
theorem childEvents : Obligations.ChildEvents := by
  rintro s key h rfl hc
  refine ⟨fun e he => ⟨fun hnone => ?noStart, fun k c hnext => ?start⟩,
    fun hcls hbegun hmay hover => ⟨fun hcirc hfew => ?beat, fun hready => ?chunk⟩,
    fun hm hmay => ⟨fun hbegun => ?begins, fun hbegun hcls hover => ?done, fun hbegun hcls hover => ?undone, fun hbegun hcls => ?matrix⟩,
    fun hm hmay hbegun hsent hcls => ?softError, fun hmay => ?stays, fun hgoes => ?chunkGoes, fun hcancel hstop => ?noPause,
    fun hcancel hstop hst => ?waiting, fun hcancel hstop hst => ?issued, fun hcancel hstop hst hgoes => ?running,
    fun cause hcancel hgoes => ?cancelled⟩
  case noStart => rw [exec_childStart, onEngine_of he, engineStart_idle hnone]
  case start =>
    obtain ⟨hstart, hbest⟩ := nextStart_spec hnext
    refine ⟨?_, mayStart_issued hstart, hbest⟩
    rw [exec_childStart, onEngine_of he, engineStart_starts hnext]
  case beat =>
    rw [exec_copyChunkComplete, exec_circuitBeatArrive, copyChunkEvent_eq hc hcls hbegun hmay hover,
      circuitBeat_eq hc hcls hbegun hmay hover, if_pos ⟨hcirc, hfew⟩, if_neg (not_or.mpr ⟨hcirc, Nat.not_le.mpr hfew⟩)]
    exact ⟨rfl, rfl⟩
  case chunk =>
    have hgo : ¬((copyDesc h.req.desc).circ ≠ 0 ∧ h.beats < chunkBeats h) := by
      rw [not_and_or, not_not, not_lt]
      exact hready
    rw [exec_copyChunkComplete, exec_circuitBeatArrive, copyChunkEvent_eq hc hcls hbegun hmay hover,
      circuitBeat_eq hc hcls hbegun hmay hover, if_neg hgo, if_pos hready]
    exact ⟨rfl, rfl⟩
  case begins => rw [exec_childComplete, if_pos hm, childMove_begins hc hmay hbegun]
  case done => rw [exec_childComplete, if_pos hm, childMove_copy hc hmay hbegun hcls, if_pos hover]
  case undone => rw [exec_childComplete, if_pos hm, childMove_copy hc hmay hbegun hcls, hover, if_neg Bool.false_ne_true]
  case matrix => rw [exec_childComplete, if_pos hm, childMove_matrix hc hmay hbegun hcls]
  case softError => rw [exec_childComplete, hm, if_neg (by decide), childError_soft hc hmay hbegun hsent hcls]
  case stays => rw [exec_childComplete, childMove_stays hc hmay, childError_stays hc hmay, ite_self]
  case chunkGoes => rw [exec_childPause, childPause_chunkGoes hc hgoes]
  case noPause => rw [exec_childPause, childPause_idle hc hcancel hstop]
  case waiting =>
    rw [exec_childPause, childPause_pauses hc (chunkGoes_of_ne_running (by simp [hst])) hcancel hstop, pauseChild_waiting hst]
  case issued =>
    rw [exec_childPause, childPause_pauses hc (chunkGoes_of_ne_running (by simp [hst])) hcancel hstop, pauseChild_issued hst]
  case running => rw [exec_childPause, childPause_pauses hc hgoes hcancel hstop, pauseChild_running hst]
  case cancelled => rw [exec_childPause, childPause_cancelled hc hgoes hcancel]

end Sys2Proof.Laws.ChildEvents
end

section
/-! SUPPORT. The matrix slots that set up a call, and the scale latches: what MXDEF, MXPARM, MXZERO, KSET and KLD answer where their guard
is 1, and the statement O27 (R286, R287, R297, R298, R313, R315, R317). -/

namespace Sys2Proof.Laws.MatrixSetup

open Sys2Proof.Machine Sys2Proof.Safety Sys2Proof.Laws

/-! ## Numbers -/

/-- A bit of a number by division (R3). -/
theorem bitOf_iff {x i : Nat} : bitOf x i = true ↔ x / 2 ^ i % 2 = 1 := by
  rw [bitOf, Nat.testBit_eq_decide_div_mod_eq, decide_eq_true_iff]

/-- A word of 24 bits in two's complement. -/
theorem toSigned_toNat (x : BitVec 24) : toSigned 24 x.toNat = x.toInt := by
  rw [BitVec.toInt_eq_toNat_cond, toSigned]
  split <;> split <;> omega

/-- The sign extension of R9 is that of the bit vector. -/
theorem ofNat_signExt64 (x : BitVec 24) : BitVec.ofNat 64 (signExt64 24 x.toNat) = x.signExtend 64 := by
  rw [signExt64, toSigned_toNat]
  exact BitVec.eq_of_toNat_eq (Nat.mod_eq_of_lt (by rw [ofSigned]; omega))

/-- The entry, the control word or the lane that a slot's operand names. -/
abbrev operand (q : Taken) : Nat := (q.uy true).val.toNat

/-- The number of tiles that MXZERO names. -/
abbrev tileCount (q : Taken) : Nat := operand q % 16 + 1

/-- No tile of a run meets a test that fails of each. -/
theorem not_any_tile {a n : Nat} {p : Nat → Bool} (h : ∀ i < n, p (a + i) = false) : ¬((List.range n).map (a + ·)).any p = true := by
  simpa using h

/-! ## The routine table (R313) -/

/-- A definition from a clean legal address whose page can be read takes the descriptor there, and traps when its format is illegal. -/
theorem xDefine_reads {q : Taken} {i pa : Nat} {s' : State}
    (hfree : ∀ e, routineEntry q.s (coreOf q.is.loc) i = some e → e.holder = q.is.loc)
    (hp : (spair q.g q.path q.a).2 = false) (hlt : (spair q.g q.path q.a).1 < 2 ^ 57) (halign : (spair q.g q.path q.a).1 % 64 = 0)
    (hidle : pathBusy q.sc = false)
    (ht : translateNow q.s (coreUnit q.is.loc) q.g.ctx (spair q.g q.path q.a).1 { r := true } = (s', .ok pa)) :
    xDefine q.sc i = (s', if routineBad (mem64s s'.mem pa 8) then trapOf 2 else .ok [.routine i (mem64s s'.mem pa 8)] 0 []) := by
  have hheld : ¬(match routineEntry q.s (coreOf q.is.loc) i with
      | some e => e.holder != q.is.loc
      | none => false) = true := by
    cases he : routineEntry q.s (coreOf q.is.loc) i with
    | none => exact Bool.false_ne_true
    | some e => simp [hfree e he]
  have ht' : translateNow q.sc.s (coreUnit q.sc.is.loc) q.sc.g.ctx (spair q.sc.g q.sc.pt q.sc.a).1 { r := true } = (s', .ok pa) := ht
  refine (if_neg hheld).trans ((if_neg (Bool.eq_false_iff.mp hp)).trans ((if_neg (Nat.not_le.mpr hlt)).trans
    ((if_neg (not_not_intro halign)).trans ((if_neg (Bool.eq_false_iff.mp hidle)).trans ?_))))
  simp only [ht']
  exact (apply_ite (s', ·) _ _ _).symm

section
variable {q : Taken} (ho : q.on)
include ho

section
variable (hi : operand q ≤ 255) (hp : (q.uy true).poison = false)
include hi hp

/-- MXDEF of a legal entry number reads a descriptor. -/
theorem xMxdef_defines (ha : q.a ≠ 63) : xMxdef q.sc = xDefine q.sc (operand q) := by
  rw [xMxdef, QueueAndRecordSlots.consuming_on ho]
  simp only [uB_sc]
  exact (if_neg (Nat.not_lt.mpr hi)).trans ((if_neg ha).trans (if_neg (Bool.eq_false_iff.mp hp)))

/-- MXDEF_REL frees an entry that the group holds, and traps on any other. -/
theorem xMxdef_releases (ha : q.a = 63) : xMxdef q.sc = (q.s,
    if !holdsEntry q.s q.is.loc (operand q) then trapOf 2 else .ok [.routineFree (operand q)] 0 []) := by
  rw [xMxdef, QueueAndRecordSlots.consuming_on ho]
  simp only [uB_sc]
  exact (if_neg (Nat.not_lt.mpr hi)).trans ((if_pos ha).trans
    ((if_congr Iff.rfl rfl (if_neg (Bool.eq_false_iff.mp hp))).trans (apply_ite (q.s, ·) _ _ _).symm))

end

/-! ## Parameters (R315) -/

/-- The pair that MXPARM adds its immediate to: none where A = 63. -/
abbrev addend (q : Taken) : Nat × Bool := if q.a = 63 then (0, false) else spair q.g q.path q.a

/-- The immediate of MXPARM. -/
def offset (q : Taken) : BitVec 64 :=
  match q.w.imm with
  | some x => x.signExtend 64
  | none => 0

theorem xMxparm_eq : xMxparm q.sc = (q.s,
    if (addend q).2 then trapOf 7 else .ok [.result 2 [.x q.d (BitVec.ofNat 64 (addend q).1 + offset q)]] 0 []) := by
  have hsum : BitVec.ofNat 64 ((addend q).1 + (match q.w.imm with
      | some x => signExt64 24 x.toNat
      | none => 0)) = BitVec.ofNat 64 (addend q).1 + offset q := by
    rw [BitVec.ofNat_add, offset]
    cases q.w.imm with
    | some x => exact congrArg _ (ofNat_signExt64 x)
    | none => rfl
  rw [xMxparm, QueueAndRecordSlots.consuming_on ho, ← hsum]
  rfl

/-! ## Tiles (R286, R317) -/

/-- An MXZERO with a legal control word, whose tiles no child uses, claims or frees them; a claim waits for tiles that are held
elsewhere (R286). -/
theorem xMxzero_acts (hp : (q.uy true).poison = false) (hlt : operand q < 512) (hz : operand q / 16 % 16 = 0)
    (hrun : q.a + tileCount q ≤ 64) (hunused : ∀ i < tileCount q, tileUsed q.s (coreOf q.is.loc) (q.a + i) = false)
    (hheld : bitOf (operand q) 8 = true → ∀ i < tileCount q, tileHolder q.s (coreOf q.is.loc) (q.a + i) = .group q.is.loc) :
    xMxzero q.sc = (q.s,
      if bitOf (operand q) 8 then .ok [.tilesFree q.a (tileCount q)] 0 []
      else if ((List.range (tileCount q)).map (q.a + ·)).any fun t =>
        decide (tileHolder q.s (coreOf q.is.loc) t ≠ .free) && !holdsTile q.s q.is.loc t then .wait
      else .ok [.tilesZero q.a (tileCount q)] 0 []) := by
  have hfield : ¬(decide (operand q / 512 ≠ 0) || decide (operand q / 16 % 16 ≠ 0)) = true := by simpa [hz] using Nat.div_eq_of_lt hlt
  have hown : ¬(bitOf (operand q) 8 && ((List.range (tileCount q)).map (q.a + ·)).any fun t =>
      decide (t < 64) && !holdsTile q.s q.is.loc t) = true := by
    intro hbad
    obtain ⟨hrel, hany⟩ := Bool.and_eq_true_iff.mp hbad
    exact not_any_tile (fun i hi => by simp [holdsTile, hheld hrel i hi]) hany
  rw [xMxzero, QueueAndRecordSlots.consuming_on ho]
  simp only [pureM, uB_sc]
  exact congrArg (q.s, ·) ((if_neg hfield).trans ((if_neg hown).trans ((if_neg (Bool.eq_false_iff.mp hp)).trans
    ((if_neg (Nat.not_lt.mpr hrun)).trans (if_neg (not_any_tile hunused))))))

/-! ## Scale latches (R298) -/

theorem kSet_eq : kSet q.sc = (q.s, if (q.uy true).poison then trapOf 7 else .ok [.latch q.d (q.uy true).val] 0 []) := by
  rw [kSet, QueueAndRecordSlots.consuming_on ho, Taken.uy, Taken.imm]
  simp only [pureM]
  cases himm : q.w.imm with
  | some x => simp only [show q.sc.w.imm = some x from himm]; rfl
  | none => simp only [show q.sc.w.imm = none from himm]; rfl

theorem kLd_eq : kLd q.sc = (q.s,
    if operand q > 15 then trapOf 2
    else if (q.uy true).poison || (vreg q.g q.a (operand q)).poison then trapOf 7
    else .ok [.latch q.d (vreg q.g q.a (operand q)).val] 0 []) := by
  rw [kLd, QueueAndRecordSlots.consuming_on ho]
  simp only [pureM, uB_sc]
  rfl

end

/-- Settles O27: each clause's premises pick the answer of its form. -/
theorem matrixSetupAndLatches : Obligations.MatrixSetupAndLatches := by
  refine ⟨?define, ?release, ?parameter, ?tiles, ?latchSet, ?latchLoad⟩
  case define =>
    intro q h ho ha i va hi hp hvap hlt halign hidle hfree s' pa ht
    have hdef := (xMxdef_defines ho hi hp ha).trans (xDefine_reads hfree hvap hlt halign hidle ht)
    refine ⟨fun hgood => ?_, fun hbad => ?_⟩
    · exact gives_of_ok h rfl (exec_mxdef q.w q.s) (hdef.trans (congrArg _ (if_neg (Bool.eq_false_iff.mp hgood))))
    · exact trapSlot_of_trap h rfl (exec_mxdef q.w q.s) (hdef.trans (congrArg _ (if_pos hbad)))
  case release =>
    intro q h ho ha hi hp
    have hrel := xMxdef_releases ho hi hp ha
    refine ⟨fun hheld => ?_, fun hother => ?_⟩
    · exact gives_of_ok h rfl (exec_mxdefRel q.w q.s) (hrel.trans (congrArg _ (if_neg (by rw [hheld]; exact Bool.false_ne_true))))
    · exact traps_of_trap h rfl (exec_mxdefRel q.w q.s) (hrel.trans (congrArg _ (if_pos (by rw [hother]; rfl))))
  case parameter =>
    intro q h ho p v
    refine ⟨fun hclean => ?_, fun hdirty => ?_⟩
    · exact gives_of_ok h rfl (exec_mxparm q.w q.s) ((xMxparm_eq ho).trans (congrArg _ (if_neg (Bool.eq_false_iff.mp hclean))))
    · exact traps_of_trap h rfl (exec_mxparm q.w q.s) ((xMxparm_eq ho).trans (congrArg _ (if_pos hdirty)))
  case tiles =>
    intro q h ho hp ctl n core hlt hz hrun hunused
    refine ⟨fun hclaim hfree => ?_, fun hrel hheld => ?_⟩
    · have hrel : ¬bitOf ctl 8 = true := by rw [bitOf_iff]; omega
      have hgo : ∀ i < n, (decide (tileHolder q.s core (q.a + i) ≠ .free) && !holdsTile q.s q.is.loc (q.a + i)) = false := fun i hi => by
        rcases hfree i hi with hf | hf
        · rw [hf]; rfl
        · simp [holdsTile, core, hf]
      exact gives_of_ok h rfl (exec_mxzero q.w q.s)
        ((xMxzero_acts ho hp hlt hz hrun hunused (absurd · hrel)).trans
          (congrArg _ ((if_neg hrel).trans (if_neg (not_any_tile hgo)))))
    · have hbit : bitOf ctl 8 = true := by rw [bitOf_iff]; omega
      exact gives_of_ok h rfl (exec_mxzero q.w q.s)
        ((xMxzero_acts ho hp hlt hz hrun hunused fun _ => hheld).trans (congrArg _ (if_pos hbit)))
  case latchSet =>
    intro q h ho
    refine ⟨fun hclean => ?_, fun hdirty => ?_⟩
    · exact gives_of_ok h rfl (exec_kset q.w q.s) ((kSet_eq ho).trans (congrArg _ (if_neg (Bool.eq_false_iff.mp hclean))))
    · exact traps_of_trap h rfl (exec_kset q.w q.s) ((kSet_eq ho).trans (congrArg _ (if_pos hdirty)))
  case latchLoad =>
    intro q h ho l
    refine ⟨fun hl hlp hvp => ?_, fun hl hdirty => ?_, fun hl => ?_⟩
    · have hclean : ¬(l.poison || (vreg q.g q.a l.val.toNat).poison) = true := by simp [hlp, hvp]
      exact gives_of_ok h rfl (exec_kld q.w q.s) ((kLd_eq ho).trans (congrArg _ ((if_neg (Nat.not_lt.mpr hl)).trans (if_neg hclean))))
    · have hdirty' : (l.poison || (vreg q.g q.a l.val.toNat).poison) = true := by simpa using hdirty
      exact traps_of_trap h rfl (exec_kld q.w q.s) ((kLd_eq ho).trans (congrArg _ ((if_neg (Nat.not_lt.mpr hl)).trans (if_pos hdirty'))))
    · exact traps_of_trap h rfl (exec_kld q.w q.s) ((kLd_eq ho).trans (congrArg _ (if_pos hl)))

end Sys2Proof.Laws.MatrixSetup
end

section
/-! SUPPORT. MXCALL and MXACC: what each answers where its guard is 1, and the statement O28 (R286, R314, R316). -/

namespace Sys2Proof.Laws.MatrixCalls

open Sys2Proof.Machine Sys2Proof.Safety Sys2Proof.Laws
open Sys2Proof.Laws.MatrixSetup (operand bitOf_iff)

/-! ## MXCALL (R314) -/

/-- The request of a call of a routine: the parameters and the scale latch as they stand. -/
def callRequest (q : Taken) (desc : List DWord) : ChildReq :=
  { cls := 0, pred := (ChildSlots.predecessor q).val, any := (routineOf desc).any, det := q.sc.mod.det, scope := scopeOr4 q.sc
    cache := q.sc.mod.cache.toNat, desc := desc, x := [0, 1, 2, 3, 7].map fun j => tget 0 q.g.x j
    latch := tget 0 q.g.k (routineOf desc).kl, rm := q.sc.mod.rm.toNat }

/-- MXCALL names x registers only beyond its fields. -/
theorem xCallUses_ne_v : ∀ u ∈ xCallUses, u.kind ≠ .v := by decide

/-- A call of an entry and of tiles that the group holds, with clean operands, hands its request to the one creation. -/
theorem xMxcall_creates {q : Taken} {e : RoutineEntry} {effs : List Eff} {flags : BitVec 6} (ho : q.on)
    (hidle : xCallUses.any (pendingUse q.g q.path) = false) (hi : (q.s32 q.a).val.toNat ≤ 255) (hap : (q.s32 q.a).poison = false)
    (hpred : (ChildSlots.predecessor q).poison = false)
    (hentry : routineEntry q.s (coreOf q.is.loc) (q.s32 q.a).val.toNat = some e) (hheld : e.holder = q.is.loc)
    (htiles : ∀ j < blockTiles (routineOf e.desc), holdsTile q.s q.is.loc ((routineOf e.desc).acc0 + j) = true)
    (hcreate : createSlot q.sc (callRequest q e.desc) [] = .ok effs flags []) :
    xMxcall q.sc = (q.s, .ok effs flags xCallUses) := by
  have hlegal : ¬(decide ((q.s32 q.a).val.toNat > 255) || decide (e.holder ≠ q.is.loc)
      || !(List.range (blockTiles (routineOf e.desc))).all fun j => holdsTile q.s q.is.loc ((routineOf e.desc).acc0 + j)) = true := by
    simpa [hi, hheld] using htiles
  have hclean : ¬((q.s32 q.a).poison || (ChildSlots.predecessor q).poison) = true := by simp [hap, hpred]
  have hentry' : routineEntry q.sc.s (coreOf q.sc.is.loc) (uA q.sc).val.toNat = some e := hentry
  rw [xMxcall, QueueAndRecordSlots.consuming_on ho]
  refine Branches.withUsesIf_ok (fun _ u hu hv => absurd hv (xCallUses_ne_v u hu)) (fun u hu => Bool.eq_false_iff.mpr (List.any_eq_false.mp hidle u hu)) ?_
  simp only [pureM, hentry']
  exact congrArg (q.s, ·) ((if_neg hlegal).trans ((if_neg hclean).trans hcreate))

/-! ## MXACC (R316) -/

/-- The places that MXACC moves, each a register of the four and a lane of the path. -/
abbrev cells (q : Taken) : List (Nat × Nat) := (List.range 4).flatMap fun j => (lanesOf q.path.mask).map fun l => (j, l)

section
variable {q : Taken} (ho : q.on)
include ho

theorem xMxacc_notHeld (hother : holdsTile q.s q.is.loc q.a = false) : xMxacc q.sc = (q.s, trapOf 2) := by
  have hbad : (decide (operand q / 1024 ≠ 0) || decide (operand q / 64 % 4 ≠ 0) || !holdsTile q.s q.is.loc q.a
      || (bitOf (operand q) 9 && (bitOf (operand q) 8 || decide (operand q % 64 ≠ 0)))) = true := by simp [hother]
  rw [xMxacc, QueueAndRecordSlots.consuming_on ho]
  simp only [pureM, uB_sc]
  exact congrArg (q.s, ·) (if_pos hbad)

/-- An MXACC with a legal control word, on a tile that the group holds and no child uses, reads the tile's flags, or writes clean registers
to its row, or reads the row. -/
theorem xMxacc_held (hp : (q.uy true).poison = false) (hlt : operand q < 1024) (hz : operand q / 64 % 4 = 0)
    (hunused : tileUsed q.s (coreOf q.is.loc) q.a = false) (hheld : holdsTile q.s q.is.loc q.a = true)
    (hflags : bitOf (operand q) 9 = true → bitOf (operand q) 8 = false ∧ operand q % 64 = 0)
    (hclean : bitOf (operand q) 8 = true → ∀ e ∈ cells q, (vreg q.g (q.d + e.1) e.2).poison = false) :
    xMxacc q.sc = (q.s,
      if bitOf (operand q) 9 then .ok [.result 16 ((lanesOf q.path.mask).map fun l =>
        .v q.d l ⟨(tget (0 : BitVec 5) (getCore q.s (coreOf q.is.loc)).xflags q.a).setWidth 32, false⟩)] 0 []
      else if bitOf (operand q) 8 then .ok [.tileWrite q.a ((cells q).map fun e =>
        (64 * (operand q % 64) + 16 * e.1 + e.2, (vreg q.g (q.d + e.1) e.2).val))] 0 []
      else .ok [.result 16 ((cells q).map fun e =>
        .v (q.d + e.1) e.2 ⟨accElem q.s (coreOf q.is.loc) q.a (operand q % 64) (16 * e.1 + e.2), false⟩)] 0 []) := by
  have hlegal : ¬(decide (operand q / 1024 ≠ 0) || decide (operand q / 64 % 4 ≠ 0) || !holdsTile q.s q.is.loc q.a
      || (bitOf (operand q) 9 && (bitOf (operand q) 8 || decide (operand q % 64 ≠ 0)))) = true := by
    simpa [hz, hheld, Nat.div_eq_of_lt hlt] using hflags
  have hwhole : ¬(bitOf (operand q) 8 && (cells q).any fun e => (vreg q.g (q.d + e.1) e.2).poison) = true := fun hbad => by
    obtain ⟨hdir, hany⟩ := Bool.and_eq_true_iff.mp hbad
    obtain ⟨e, he, hdirty⟩ := List.any_eq_true.mp hany
    exact absurd ((hclean hdir e he).symm.trans hdirty) Bool.false_ne_true
  rw [xMxacc, QueueAndRecordSlots.consuming_on ho]
  simp only [pureM, uB_sc]
  exact congrArg (q.s, ·) ((if_neg hlegal).trans ((if_neg (Bool.eq_false_iff.mp hp)).trans ((if_neg hwhole).trans
    (if_neg (Bool.eq_false_iff.mp hunused)))))

end

/-- Settles O28: a legal call goes to the one creation, and the bits DIR and XF of its control word pick what MXACC does. -/
theorem matrixCallAndTiles : Obligations.MatrixCallAndTiles := by
  refine ⟨?call, ?move⟩
  case call =>
    intro q e h ho pred r us i hidle hi hap hpred hentry hheld htiles hfew hcount hroom
    exact gives_of_ok h rfl (exec_mxcall q.w q.s)
      (xMxcall_creates ho hidle hi hap hpred hentry hheld htiles (ChildSlots.createSlot_creates hfew rfl hcount hroom))
  case move =>
    intro q h ho hp ctl row core cells hlt hz hunused
    refine ⟨fun hother => ?notHeld, fun hheld hread => ?read, fun hheld hwrite hclean => ?write, fun hheld hflags => ?flags⟩
    case notHeld => exact traps_of_trap h rfl (exec_mxacc q.w q.s) (xMxacc_notHeld ho hother)
    case read =>
      have hdir : ¬bitOf ctl 8 = true := by rw [bitOf_iff]; omega
      have hxf : ¬bitOf ctl 9 = true := by rw [bitOf_iff]; omega
      exact gives_of_ok h rfl (exec_mxacc q.w q.s)
        ((xMxacc_held ho hp hlt hz hunused hheld (absurd · hxf) (absurd · hdir)).trans
          (congrArg _ ((if_neg hxf).trans (if_neg hdir))))
    case write =>
      have hdir : bitOf ctl 8 = true := by rw [bitOf_iff]; omega
      have hxf : ¬bitOf ctl 9 = true := by rw [bitOf_iff]; omega
      exact gives_of_ok h rfl (exec_mxacc q.w q.s)
        ((xMxacc_held ho hp hlt hz hunused hheld (absurd · hxf) fun _ => hclean).trans
          (congrArg _ ((if_neg hxf).trans (if_pos hdir))))
    case flags =>
      have hctl : operand q = 512 := hflags
      have hdir : bitOf (operand q) 8 = false := by rw [hctl]; rfl
      have hxf : bitOf (operand q) 9 = true := by rw [hctl]; rfl
      exact gives_of_ok h rfl (exec_mxacc q.w q.s)
        ((xMxacc_held ho hp hlt hz hunused hheld (fun _ => ⟨hdir, by rw [hctl]⟩)
          fun hw => absurd (hdir.symm.trans hw) Bool.false_ne_true).trans (congrArg _ (if_pos hxf)))

end Sys2Proof.Laws.MatrixCalls
end

section
/-! SUPPORT. BAR, BARB and WAITEVT: what each answers where its guard is 1, and the statement O34 (R355-R366). -/

namespace Sys2Proof.Laws.BarrierAndEventSlots

open Sys2Proof.Machine Sys2Proof.Safety Sys2Proof.Laws BlocksBanksAndTraces

/-- The pond offset of BARB's word. -/
abbrev wordOffset (q : Taken) : Nat := (q.s32 q.a).val.toNat

/-- The checks of BARB's word (R365). -/
abbrev wordCheck (q : Taken) : LaneCheck := checkPond q.s q.g 8 0 (wordOffset q)

/-- An access that the slot follows is outstanding on its path, or its word's bank is fenced. -/
abbrev Held (q : Taken) : Prop := fencedAt q.s q.g (wordOffset q) = true ∨ pathBusy q.sc = true

/-- The word is not in use, or counts no bytes for an arrival (R365). -/
abbrev Unusable (q : Taken) (mode : Nat) : Prop :=
  (mode ≠ 0 ∧ (barAt q.s (wordCheck q).pa).v = false) ∨ (mode = 2 ∧ (barAt q.s (wordCheck q).pa).expect = 0)

/-- The group has arrived in a phase that is still its set's. -/
abbrev Arrived (q : Taken) : Prop := q.g.arr = true ∧ setPhase q.s q.g = q.g.ph

section
variable {q : Taken} (ho : q.on)
include ho

/-! ## BAR (R360, R361) -/

theorem zBar_eq (mode : Nat) : zBar mode q.sc = (q.s,
    if ¬Alone q then trapOf 2
    else if mode = 2 then (if q.g.arr then .ok [.wait (.bar q.g.ph)] 0 [] else .nothing)
    else if Arrived q then .wait
    else if q.g.macc ≠ [] then .hold
    else .ok ([.barArrive] ++ if mode = 0 then [.wait (.bar (setPhase q.s q.g))] else []) 0 []) := by
  have hone : (!onePath q.sc) = true ↔ ¬Alone q := by
    simp only [onePath, Bool.not_eq_true', ← Bool.not_eq_true, Bool.and_eq_true, beq_iff_eq]
    rfl
  have harr : (q.g.arr && setPhase q.s q.g == q.g.ph) = true ↔ Arrived q := by rw [Bool.and_eq_true, beq_iff_eq]
  have hbusy : groupBusy q.g = true ↔ q.g.macc ≠ [] := by simp [groupBusy]
  rw [zBar, QueueAndRecordSlots.consuming_on ho]
  exact congrArg (q.s, ·) (if_congr hone rfl (if_congr Iff.rfl rfl (if_congr harr rfl (if_congr hbusy rfl rfl))))

/-- A BAR that arrives in a new phase, with nothing outstanding. -/
theorem zBar_arrives {mode : Nat} (hmode : mode ≠ 2) (hone : Alone q) (harr : ¬Arrived q) (hm : q.g.macc = []) :
    zBar mode q.sc = (q.s, .ok ([.barArrive] ++ if mode = 0 then [.wait (.bar (setPhase q.s q.g))] else []) 0 []) := by
  rw [zBar_eq ho, if_neg (not_not_intro hone), if_neg hmode, if_neg harr, if_neg (not_not_intro hm)]

/-! ## BARB (R364, R365) -/

omit ho in
/-- The byte counts that `barb.init` and `barb.expect` take (R365). -/
theorem bytes_inRange {x : Nat} (h : 0 < x ∧ x < 2 ^ 28) : (x == 0 || decide (x ≥ 2 ^ 28)) = false := by
  simpa [Nat.pos_iff_ne_zero] using h

section
variable {mode : Nat} (hbad : barbBad mode (count q) = false) (ha : (q.s32 q.a).poison = false) (hp : (q.uy true).poison = false)
include hbad ha hp

theorem zBarb_eq : zBarb mode q.sc = (q.s,
    if Held q then .hold
    else if (wordCheck q).cause = 4 then trapOf 4 (wordOffset q)
    else if (wordCheck q).cause = 3 then trapOf 3 (wordOffset q)
    else if (wordCheck q).cause = 2 then trapOf 6 (wordOffset q)
    else if Unusable q mode then trapOf 2
    else .ok [.barbOp mode (wordOffset q) (count q) (q.d % 16)] 0 []) := by
  have hheld : (fencedAt q.s q.g (wordOffset q) || pathBusy q.sc) = true ↔ Held q := by rw [Bool.or_eq_true]
  have hpois : ¬((q.s32 q.a).poison || (q.uy true).poison) = true := by simp [ha, hp]
  have huse : ((mode != 0 && !(barAt q.s (wordCheck q).pa).v) || (mode == 2 && (barAt q.s (wordCheck q).pa).expect == 0)) = true
      ↔ Unusable q mode := by simp [Unusable]
  rw [zBarb, QueueAndRecordSlots.consuming_on ho]
  simp only [pureM, zB, uB_sc]
  exact congrArg (q.s, ·) ((if_neg (Bool.eq_false_iff.mp hbad)).trans ((if_neg hpois).trans
    (if_congr hheld rfl (if_congr Iff.rfl rfl (if_congr Iff.rfl rfl (if_congr Iff.rfl rfl (if_congr huse rfl rfl)))))))

/-- What BARB comes to, in the order of its checks. -/
theorem barb_answers {i : Slot → Instr} {f : Form} (h : q.ready (i q.w)) (hi : slotOf (i q.w) = some (f, 10, q.w))
    (hx : exec (i q.w) q.s = runSlot f 10 q.w (zBarb mode) q.s) :
    (Held q → exec (i q.w) q.s = .next (holdSlot q.s q.is false))
    ∧ (fencedAt q.s q.g (wordOffset q) = false → pathBusy q.sc = false →
      ((wordCheck q).cause = 0 → (mode ≠ 0 → (barAt q.s (wordCheck q).pa).v = true) → (mode = 2 → (barAt q.s (wordCheck q).pa).expect ≠ 0) →
        q.yields (i q.w) [.barbOp mode (wordOffset q) (count q) (q.d % 16)] 0)
      ∧ ((wordCheck q).cause = 3 → q.traps (i q.w) 3 (wordOffset q) 0) ∧ ((wordCheck q).cause = 4 → q.traps (i q.w) 4 (wordOffset q) 0)
      ∧ ((wordCheck q).cause = 2 → q.traps (i q.w) 6 (wordOffset q) 0)
      ∧ ((wordCheck q).cause = 0 → Unusable q mode → q.traps (i q.w) 2 0 0)) := by
  have hz := zBarb_eq ho hbad ha hp
  refine ⟨fun hheld => holds_of_hold h hi hx (by rw [hz, if_pos hheld]), fun hfence hbusy => ?_⟩
  have hfree : ¬Held q := by simp [hfence, hbusy]
  rw [if_neg hfree] at hz
  refine ⟨fun hc hv he => gives_of_ok h hi hx ?_, fun hc => traps_of_trap h hi hx (by rw [hz, hc]; rfl),
    fun hc => traps_of_trap h hi hx (by rw [hz, hc]; rfl), fun hc => traps_of_trap h hi hx (by rw [hz, hc]; rfl),
    fun hc hu => traps_of_trap h hi hx (by rw [hz, hc, if_pos hu]; rfl)⟩
  have husable : ¬Unusable q mode := by
    simp only [not_or, not_and, Bool.not_eq_false]
    exact ⟨hv, he⟩
  rw [hz, hc, if_neg husable]
  rfl

end

/-! ## WAITEVT (R366) -/

/-- A WAITEVT whose word passes its checks waits on it. -/
theorem zWaitevt_waits {va : Nat} {s' : State} {x : LaneCheck} (hcond : q.d / 8 < 4) (hd : q.d % 8 ≠ 7)
    (hva : spair q.g q.path q.a = (va, false)) (hb : (q.s32 q.b).poison = false)
    (hchk : checkGlobal q.s q.is.loc q.g.ctx { r := true } 4 0 va = (s', some x)) (hx : x.cause = 0) :
    zWaitevt q.sc = (s', .ok [.wait (.waitevt ⟨some x.pa, va, q.is.baddr, slotWord q.sc, modWord q.sc, (q.s32 q.b).val,
      (q.w.imm.map BitVec.toNat).getD 0, false, 0⟩)] 0 [⟨.sp, q.d % 8, 1, true⟩]) := by
  have hva' : spair q.sc.g q.sc.pt q.sc.a = (va, false) := hva
  have hb' : (sreg q.sc.g q.sc.pt q.sc.b).poison = false := hb
  have hchk' : checkGlobal q.sc.s q.sc.is.loc q.sc.g.ctx { r := true } 4 0 va = (s', some x) := hchk
  have hlegal : ¬(decide (q.sc.d / 8 ≥ 4) || decide (q.sc.d % 8 = 7)) = true := by
    rw [Bool.or_eq_true, decide_eq_true_eq, decide_eq_true_eq]
    exact not_or.mpr ⟨Nat.not_le.mpr hcond, hd⟩
  rw [zWaitevt, QueueAndRecordSlots.consuming_on ho]
  refine (if_neg hlegal).trans ?_
  simp only [hva', hb', hchk', hx]
  cases himm : q.w.imm with
  | none =>
    have himm' : q.sc.w.imm = none := himm
    simp only [himm']
    rfl
  | some y =>
    have himm' : q.sc.w.imm = some y := himm
    simp only [himm']
    rfl

end

/-- The D field of a legal WAITEVT names a condition and a scalar predicate (R366). -/
theorem waitevt_dest {q : Taken} (h : q.ready (.waitevt q.w)) : q.d / 8 < 4 ∧ q.d % 8 ≠ 7 := by
  obtain ⟨hf, -, -, hok, -⟩ := h
  have hform : formWaitevt = q.f := (Prod.mk.inj (Option.some.inj hf)).1
  rw [← hform, slotOk] at hok
  simp only [Bool.and_eq_true] at hok
  obtain ⟨⟨⟨⟨hd, -⟩, -⟩, -⟩, -⟩ := hok
  simpa [formWaitevt, opdOk, Taken.d] using hd

/-- Settles O34: BAR's, BARB's and WAITEVT's answers, form by form. -/
theorem barrierAndEventSlots : Obligations.BarrierAndEventSlots := by
  intro q ho one clear
  have hclear : clear → ¬Arrived q ∧ q.g.macc = [] := fun ⟨hnew, hm⟩ => ⟨fun h => hnew h.1 h.2, hm⟩
  refine ⟨?one, ?bar, ?arrive, ?wait, ?waitOnly, ?barb, ?event⟩
  case one =>
    have refuse {i : Slot → Instr} {f : Form} {mode : Nat} (hi : slotOf (i q.w) = some (f, 10, q.w))
        (hx : exec (i q.w) q.s = runSlot f 10 q.w (zBar mode) q.s) (h : q.ready (i q.w)) (hone : ¬one) : q.traps (i q.w) 2 0 0 :=
      traps_of_trap h hi hx (by rw [zBar_eq ho, if_pos (show ¬Alone q from hone)]; rfl)
    simp only [List.forall_mem_cons]
    exact ⟨refuse rfl (exec_bar q.w q.s), refuse rfl (exec_barArrive q.w q.s), refuse rfl (exec_barWait q.w q.s), nofun⟩
  case bar =>
    intro hone hc h
    exact gives_of_ok h rfl (exec_bar q.w q.s) (zBar_arrives ho (by decide) hone (hclear hc).1 (hclear hc).2)
  case arrive =>
    intro hone hc h
    exact gives_of_ok h rfl (exec_barArrive q.w q.s) (zBar_arrives ho (by decide) hone (hclear hc).1 (hclear hc).2)
  case wait =>
    have await {i : Slot → Instr} {f : Form} {mode : Nat} (hmode : mode ≠ 2) (hi : slotOf (i q.w) = some (f, 10, q.w))
        (hx : exec (i q.w) q.s = runSlot f 10 q.w (zBar mode) q.s) (hone : one) (h : q.ready (i q.w)) :
        (q.g.arr = true → setPhase q.s q.g = q.g.ph → exec (i q.w) q.s = .next (holdSlot q.s q.is true))
        ∧ ((q.g.arr = true → setPhase q.s q.g ≠ q.g.ph) → q.g.macc ≠ [] → exec (i q.w) q.s = .next (holdSlot q.s q.is false)) := by
      have hz := zBar_eq ho mode
      rw [if_neg (show ¬¬Alone q from not_not_intro hone), if_neg hmode] at hz
      refine ⟨fun harr hph => holds_of_wait h hi hx (by rw [hz, if_pos (show Arrived q from ⟨harr, hph⟩)]),
        fun hnew hm => holds_of_hold h hi hx ?_⟩
      rw [hz, if_neg (show ¬Arrived q from fun ha => hnew ha.1 ha.2), if_pos hm]
    simp only [List.forall_mem_cons]
    exact ⟨await (by decide) rfl (exec_bar q.w q.s), await (by decide) rfl (exec_barArrive q.w q.s), nofun⟩
  case waitOnly =>
    intro hone h
    refine gives_of_ok h rfl (exec_barWait q.w q.s) ?_
    rw [zBar_eq ho, if_neg (show ¬¬Alone q from not_not_intro hone), if_pos rfl]
    cases q.g.arr <;> rfl
  case barb =>
    refine List.forall_mem_cons.mpr ⟨?barbInit, List.forall_mem_cons.mpr ⟨?barbExpect, List.forall_mem_cons.mpr ⟨?barbArrive,
      List.forall_mem_cons.mpr ⟨?barbWait, nofun⟩⟩⟩⟩
    case barbInit =>
      exact fun h hx ha hp => barb_answers (i := .barbInit) (mode := 0) ho (bytes_inRange hx) ha hp h rfl (exec_barbInit q.w q.s)
    case barbExpect =>
      exact fun h hx ha hp => barb_answers (i := .barbExpect) (mode := 1) ho (bytes_inRange hx) ha hp h rfl (exec_barbExpect q.w q.s)
    case barbArrive =>
      exact fun h hx ha hp =>
        barb_answers (i := .barbArrive) (mode := 2) ho (decide_eq_false (Nat.not_lt.mpr hx)) ha hp h rfl (exec_barbArrive q.w q.s)
    case barbWait =>
      exact fun h hx ha hp =>
        barb_answers (i := .barbWait) (mode := 3) ho (decide_eq_false (Nat.not_le.mpr hx)) ha hp h rfl (exec_barbWait q.w q.s)
  case event =>
    intro h hb va s' x hva hchk hx
    exact gives_of_ok h rfl (exec_waitevt q.w q.s) (zWaitevt_waits ho (waitevt_dest h).1 (waitevt_dest h).2 hva hb hchk hx)

end Sys2Proof.Laws.BarrierAndEventSlots
end

section
/-! SUPPORT. TRAP, BRK and RTE: what a guard does to a slot that consumes it, what each answers, and the statement O36 (R76, R391, R392). -/

namespace Sys2Proof.Laws.TrapAndReturnSlots

open Sys2Proof.Machine Sys2Proof.Safety Sys2Proof.Laws

/-! ## A guard that is 0 or poisoned (R76) -/

/-- A consuming slot with its guard 0 has no effect. -/
theorem consuming_off {m : Meaning} {c : SC} (h : scalarGuard c = ⟨false, false⟩) : consuming m c = (c.s, .nothing) := by
  simp only [consuming, h, Bool.false_eq_true, if_false]

/-- A poisoned guard traps POISON where the meaning answers a trap that gives way to it. -/
theorem consuming_poison {m : Meaning} {c : SC} {t : TrapInfo} (h : (scalarGuard c).poison = true) (hm : (m c).2 = .trap t)
    (ht : ¬t.cause ≤ 2) : consuming m c = (c.s, trapOf 7) := by
  have hm' : m c = ((m c).1, .trap t) := by rw [← hm]
  cases hv : (scalarGuard c).val with
  | false => simp only [consuming, h, hv, if_true, Bool.false_eq_true, if_false]
  | true => rw [consuming, hm']; simp only [h, hv, if_true, if_neg ht]

/-- A slot that with its guard 1 answers a trap that gives way to POISON: what a guard of 0 and a poisoned one make of it. -/
theorem guarded_answers {q : Taken} {i : Instr} {f : Form} {m : Meaning} (h : q.ready i)
    (hi : slotOf i = some (f, 10, q.w)) (hx : exec i q.s = runSlot f 10 q.w (consuming m) q.s) {t : TrapInfo}
    (hm : (m q.sc).2 = .trap t) (ht : ¬t.cause ≤ 2) :
    (scalarGuard q.sc = ⟨false, false⟩ → q.yields i [] 0) ∧ ((scalarGuard q.sc).poison = true → q.traps i 7 0 0) :=
  ⟨fun hg => gives_of_ok h hi hx (consuming_off hg), fun hg => traps_of_trap h hi hx (consuming_poison hg hm ht)⟩

section
variable {q : Taken} (ho : q.on)
include ho

theorem zTrap_eq : zTrap q.sc = (q.s, if (q.uy true).poison then trapOf 7 else trapOf 14 (q.uy true).val.toNat) := by
  rw [zTrap, QueueAndRecordSlots.consuming_on ho]
  simp only [pureM, zB, uB_sc]
  rfl

/-! ## RTE (R392) -/

/-- Outside a handler RTE is refused. -/
theorem zRte_outside (skip : Bool) (h : q.g.hnd = false) : zRte skip q.sc = (q.s, trapOf 2) := by
  have hbad : (!q.g.hnd || q.path.window.isSome) = true := by rw [h]; rfl
  rw [zRte, QueueAndRecordSlots.consuming_on ho]
  exact congrArg (q.s, ·) (if_pos hbad)

/-- In a handler, outside a delay window, RTE returns to sr.epc where that is the address of a bundle. -/
theorem zRte_inside (skip : Bool) (h : q.g.hnd = true) (hw : q.path.window = none) : zRte skip q.sc = (q.s,
    if q.g.epc.toNat ≥ 2 ^ 57 then trapOf 4 q.g.epc.toNat
    else if q.g.epc.toNat % 4 ≠ 0 then trapOf 3 q.g.epc.toNat
    else .ok [.rte q.g.epc.toNat (q.g.ecause.toNat / 4096 % 8) skip] 0 []) := by
  have hok : ¬(!q.g.hnd || q.path.window.isSome) = true := by simp [h, hw]
  have hlen : fld q.g.ecause.toNat 14 12 = q.g.ecause.toNat / 4096 % 8 := ModuleEvents.fld_eq_div q.g.ecause.toNat 14 12
  rw [zRte, QueueAndRecordSlots.consuming_on ho, ← hlen]
  exact congrArg (q.s, ·) (if_neg hok)

/-- What RTE comes to. -/
theorem rte_answers {i : Instr} {f : Form} {skip : Bool} (h : q.ready i) (hi : slotOf i = some (f, 10, q.w))
    (hx : exec i q.s = runSlot f 10 q.w (zRte skip) q.s) :
    let t := q.g.epc.toNat
    (q.g.hnd = true → q.path.window = none → t < 2 ^ 57 → t % 4 = 0 → q.yields i [.rte t (q.g.ecause.toNat / 4096 % 8) skip] 0)
    ∧ (q.g.hnd = false → q.traps i 2 0 0)
    ∧ (q.g.hnd = true → q.path.window = none → t ≥ 2 ^ 57 → q.traps i 4 t 0)
    ∧ (q.g.hnd = true → q.path.window = none → t < 2 ^ 57 → t % 4 ≠ 0 → q.traps i 3 t 0) := by
  refine ⟨fun hh hw hlt halign => gives_of_ok h hi hx ?_, fun hh => traps_of_trap h hi hx (zRte_outside ho skip hh),
    fun hh hw hge => traps_of_trap h hi hx (by rw [zRte_inside ho skip hh hw, if_pos hge]; rfl), fun hh hw hlt halign =>
      traps_of_trap h hi hx (by rw [zRte_inside ho skip hh hw, if_neg (Nat.not_le.mpr hlt), if_pos halign]; rfl)⟩
  rw [zRte_inside ho skip hh hw, if_neg (Nat.not_le.mpr hlt), if_neg (not_not_intro halign)]

end

/-- Settles O36: what the guard does to TRAP and BRK, and the answers of the four forms with their guard 1. -/
theorem trapAndReturnSlots : Obligations.TrapAndReturnSlots := by
  refine ⟨?guard, fun q ho => ⟨fun h hp => ?trap, fun h hp => ?poison, fun h => ?brk, ?rte⟩⟩
  case guard =>
    refine List.forall_mem_cons.mpr ⟨fun q h => ?_, List.forall_mem_cons.mpr ⟨fun q h => ?_, nofun⟩⟩
    · cases hp : (uB true q.sc).poison with
      | true => exact guarded_answers h rfl (exec_trap q.w q.s) (t := ⟨7, 0, 0, 0⟩) (if_pos hp) (by decide)
      | false =>
        exact guarded_answers h rfl (exec_trap q.w q.s) (t := ⟨14, (uB true q.sc).val.toNat, 0, 0⟩)
          (if_neg (Bool.eq_false_iff.mp hp)) (by decide : ¬(14 : Nat) ≤ 2)
    · exact guarded_answers h rfl (exec_brk q.w q.s) (t := ⟨15, q.b, 0, 0⟩) rfl (by decide : ¬(15 : Nat) ≤ 2)
  case trap => exact traps_of_trap h rfl (exec_trap q.w q.s) (by rw [zTrap_eq ho, hp]; rfl)
  case poison => exact traps_of_trap h rfl (exec_trap q.w q.s) (by rw [zTrap_eq ho, hp]; rfl)
  case brk => exact traps_of_trap h rfl (exec_brk q.w q.s) (QueueAndRecordSlots.consuming_on ho _)
  case rte =>
    exact List.forall_mem_cons.mpr ⟨fun h => rte_answers ho h rfl (exec_rte q.w q.s),
      List.forall_mem_cons.mpr ⟨fun h => rte_answers ho h rfl (exec_rteSkip q.w q.s), nofun⟩⟩

end Sys2Proof.Laws.TrapAndReturnSlots
end

section
/-! SUPPORT. Taking a trap: the word that sr.ecause takes, handler entry, the stop of a context, and the statement O37 (R383, R384, R388, R389,
R393, R493). -/

namespace Sys2Proof.Laws.TrapEntry

open Sys2Proof.Machine Sys2Proof.Safety Sys2Proof.Laws

/-! ## sr.ecause (R388) -/

section
variable {is : Issue} {slot : Nat} {dw : Bool} {t : TrapInfo}
  (hlo : 1 ≤ is.len) (hhi : is.len ≤ 8) (hslot : slot < 8) (hcause : t.cause < 256)
include hlo hhi hslot hcause

theorem ecauseWord_toNat : (ecauseWord is slot dw t).toNat =
    t.lanes.toNat * 65536 + b01 dw * 32768 + (is.len - 1) * 4096 + 2048 + slot * 256 + t.cause := by
  have hlanes := t.lanes.isLt
  have hdw : b01 dw ≤ 1 := by cases dw <;> decide
  rw [ecauseWord, BitVec.toNat_ofNat, Nat.mod_eq_of_lt (by omega : is.len - 1 < 8), Nat.mod_eq_of_lt hslot]
  exact Nat.mod_eq_of_lt (by omega)

/-- The fields of sr.ecause: cause, slot, HND, length, window and lanes. -/
theorem ecauseWord_fields :
    let e := ecauseWord is slot dw t
    e.toNat % 256 = t.cause ∧ e.toNat / 256 % 8 = slot ∧ e.toNat / 4096 % 8 + 1 = is.len
    ∧ e.getLsbD 11 = true ∧ e.getLsbD 15 = dw ∧ e.toNat / 65536 = t.lanes.toNat := by
  have he := ecauseWord_toNat (dw := dw) hlo hhi hslot hcause
  have hdw : b01 dw ≤ 1 := by cases dw <;> decide
  refine ⟨by omega, by omega, by omega, ?_, ?_, by omega⟩
  · rw [← BitVec.testBit_toNat, Nat.testBit_eq_decide_div_mod_eq, he]
    exact decide_eq_true (by omega)
  · rw [← BitVec.testBit_toNat, Nat.testBit_eq_decide_div_mod_eq, he,
      show (t.lanes.toNat * 65536 + b01 dw * 32768 + (is.len - 1) * 4096 + 2048 + slot * 256 + t.cause) / 2 ^ 15 % 2 = b01 dw by omega]
    cases dw <;> rfl

end

/-! ## Handler entry (R388) -/

section
variable (g : Group) (handler : Nat) (is : Issue) (slot : Nat) (t : TrapInfo)

/-- What the path of a trap stands at in the handler. -/
def handlerPath : Path := { pathAt g is.path with window := none, pc := handler, doomed := none, rejected := none }

/-- The group of a trap with its saved registers, its window and its latch writes set aside. -/
def setAside : Group :=
  { g with epc := BitVec.ofNat 64 is.baddr, efault := BitVec.ofNat 64 t.addr,
           ecause := ecauseWord is slot (pathAt g is.path).window.isSome t, hnd := true, hndPath := is.path,
           asideWin := (pathAt g is.path).window, kpend := g.kpend.map fun k => { k with aside := true } }

theorem enterHandler_eq : enterHandler g handler is slot t = putPath (setAside g is slot t) is.path (handlerPath g handler is) := rfl

end

/-! ## The stop of a context (R89, R393) -/

/-- Squashing a bundle changes neither groups nor contexts. -/
theorem squashOn_keeps (s : State) (c : Nat) (cores : List Nat) :
    (squashOn s c cores).groups = s.groups ∧ (squashOn s c cores).ctxs = s.ctxs := by
  unfold squashOn squash
  repeat' split
  all_goals exact ⟨rfl, rfl⟩

theorem stopUnits_groups (s : State) (c : Nat) (cores : List Nat) : (stopUnits s c cores).groups = s.groups :=
  (squashOn_keeps s c cores).1

/-- A stop leaves every group as it is. -/
theorem stopContext_groups (s : State) (c cmd : Nat) (cores : List Nat) : (stopContext s c cmd cores).groups = s.groups := by
  simp only [stopContext]
  split
  · exact stopUnits_groups s c cores
  · exact stopUnits_groups _ c cores

/-- A context that is stopped reads as written. -/
theorem getCtx_putCtx_stopped {s : State} {c : Nat} {x : Context} (h : x.st = .preempting) : getCtx (putCtx s c x) c = x :=
  tget_tput_some ({} : Context) s.ctxs c x fun he => absurd ((congrArg Context.st he).symm.trans h) (by decide)

/-- A context that is pre-empting stays so when its stop reaches more units. -/
theorem stopUnits_preempting {s : State} {c : Nat} {cores : List Nat} (h : (getCtx s c).st = .preempting) :
    (getCtx (stopUnits s c cores) c).st = .preempting := by
  have hsquash : (getCtx (squashOn s c cores) c).st = .preempting := by rwa [getCtx, (squashOn_keeps s c cores).2]
  let x := getCtx (squashOn s c cores) c
  let y : Context := { x with stopped := x.stopped ++ cores.filter fun n => !x.stopped.contains n }
  exact (congrArg Context.st (getCtx_putCtx_stopped (s := squashOn s c cores) (x := y) hsquash)).trans hsquash

/-- A context that stops is pre-empting. -/
theorem stopContext_preempting (s : State) (c cmd : Nat) (cores : List Nat) :
    (getCtx (stopContext s c cmd cores) c).st = .preempting := by
  simp only [stopContext]
  split
  next h => exact stopUnits_preempting h
  next => exact stopUnits_preempting (congrArg Context.st (getCtx_putCtx_stopped rfl))

/-! ## Raising a trap (R388, R389) -/

/-- A trap finds its path in the handler already. -/
abbrev Again (g : Group) (is : Issue) : Prop := g.hnd = true ∧ g.hndPath = is.path

/-- A trap that the context takes in its handler. -/
abbrev Handled (s : State) (g : Group) (is : Issue) (t : TrapInfo) : Prop :=
  (getCtx s g.ctx).tp = 1 ∧ ¬Again g is ∧ (t.cause = 15 → (getCtx s g.ctx).dbgctl.getLsbD 0 = false)

/-- The state in which the bundle is abandoned. -/
def abandoned (s : State) : State := { s with cur := none, epoch := s.epoch + 1 }

/-- The group of a trap that stops its context. -/
def trappedGroup (g : Group) (is : Issue) : Group :=
  { modPath g is.path (fun p => { p with doomed := none, rejected := none }) with trapped := true, hndPath := is.path }

section
variable {s : State} {is : Issue} {g : Group} (slot : Nat) {t : TrapInfo} (hg : getGroup s is.loc = some g)
include hg

theorem raiseTrap_eq : raiseTrap s is slot t =
    if Handled s g is t then putGroup (abandoned s) is.loc (enterHandler g (getCtx s g.ctx).handler is slot t)
    else
      let r := (is.loc, trapRecord (abandoned s) is g slot t (g.hnd && g.hndPath == is.path))
      modCtx (stopContext (putGroup (abandoned s) is.loc (trappedGroup g is)) g.ctx 0 [coreOf is.loc]) g.ctx
        fun x => { x with faulting := true, trapRecs := x.trapRecs ++ [r] } := by
  have hg' : getGroup { s with cur := none, epoch := s.epoch + 1 } is.loc = some g := hg
  have hif : (((getCtx s g.ctx).tp = 1 && !(g.hnd && g.hndPath == is.path)) && !(t.cause == 15 && (getCtx s g.ctx).dbgctl.getLsbD 0)) = true
      ↔ Handled s g is t := by
    simp [Handled, Again, and_assoc, imp_iff_not_or]
  simp only [raiseTrap, hg']
  exact if_congr hif rfl rfl

/-- A trap that its context handles. -/
theorem raiseTrap_handled (h : Handled s g is t) :
    raiseTrap s is slot t = putGroup (abandoned s) is.loc (enterHandler g (getCtx s g.ctx).handler is slot t) := by
  rw [raiseTrap_eq slot hg, if_pos h]

/-- A trap that its context does not handle stops it. -/
theorem raiseTrap_stops (h : ¬Handled s g is t) :
    (getCtx (raiseTrap s is slot t) g.ctx).faulting = true ∧ (getCtx (raiseTrap s is slot t) g.ctx).st = .preempting
    ∧ getGroup (raiseTrap s is slot t) is.loc = some (trappedGroup g is) := by
  have hst := stopContext_preempting (putGroup (abandoned s) is.loc (trappedGroup g is)) g.ctx 0 [coreOf is.loc]
  obtain ⟨x, hfault, hx, heq⟩ : ∃ x : Context, x.faulting = true ∧ x.st = .preempting ∧ raiseTrap s is slot t =
      putCtx (stopContext (putGroup (abandoned s) is.loc (trappedGroup g is)) g.ctx 0 [coreOf is.loc]) g.ctx x := by
    rw [raiseTrap_eq slot hg, if_neg h]
    refine ⟨_, ?_, ?_, modCtx_eq _ _ _⟩
    · rfl
    · exact hst
  rw [heq, getCtx_putCtx_stopped hx]
  refine ⟨hfault, hx, ?_⟩
  rw [getGroup, putCtx_groups, stopContext_groups]
  exact getGroup_putGroup _ _ _

end

/-! ## Soft errors (R383, R384) -/

/-- The slot rows run a meaning in the frame of their form. -/
theorem exec_slot {i : Instr} {f : Form} {cls : Nat} {w : Slot} (h : slotOf i = some (f, cls, w)) :
    ∃ m, ∀ s, exec i s = runSlot f cls w m s := by
  cases i <;> cases h <;> exact ⟨_, fun _ => rfl⟩

/-- A soft error that meets a slot of a legal encoding traps before its operands are looked at. -/
theorem softError_traps {q : Taken} {i : Instr} (hi : slotOf i = some (q.f, q.cls, q.w)) (hcur : q.s.cur = some q.is)
    (hg : getGroup q.s q.is.loc = some q.g) (hok : slotOk q.f q.w = true) (he : eGiven q.f q.w = true) (hord : q.is.above ≤ q.cls)
    (hb : q.cls = 9 → q.path.window = none) (hsoft : softAt q.is = true) : q.traps i 13 0 (softLanes q.is) := by
  obtain ⟨m, hx⟩ := exec_slot hi
  have hlegal : (!slotOk q.f q.w || !eGiven q.f q.w || decide (q.cls < q.is.above)
      || (q.cls == 9 && (pathAt q.g q.is.path).window.isSome)) = false := by
    simp only [Taken.path] at hb
    by_cases hc : q.cls = 9
    · simp [hok, he, hord, hb hc]
    · simp [hok, he, hord, hc]
  simp only [Taken.traps, hx, runSlot, hcur, hg, slotStep, hlegal, hsoft, Bool.false_eq_true, if_false, if_true]
  rfl

/-- Settles O37: handler entry, the stop of the context, and a soft error at a slot. -/
theorem trapEntry : Obligations.TrapEntry := by
  intro s is g slot t hg hpath hlo hhi hslot hcause x again pt s'
  refine ⟨fun htp hagain hbrk => ?handled, fun hnot => ?stops,
    fun i q hi hcur hgq hok he hord hb hsoft => softError_traps hi hcur hgq hok he hord hb hsoft⟩
  case handled =>
    have hs' : s' = putGroup (abandoned s) is.loc (enterHandler g x.handler is slot t) :=
      raiseTrap_handled slot hg ⟨htp, hagain, hbrk⟩
    obtain ⟨hcode, hat, hlen, hhnd, hwin, hlanes⟩ := ecauseWord_fields (dw := pt.window.isSome) hlo hhi hslot hcause
    have hstack := putPath_stack (setAside g is slot t) is.path (handlerPath g x.handler is)
    have hother := pathAt_putPath_other hpath (setAside g is slot t) (handlerPath g x.handler is)
    have hown := pathAt_putPath (setAside g is slot t) is.path (handlerPath g x.handler is)
    obtain ⟨a, b, l, heq⟩ := putPath_pathsOnly (setAside g is slot t) is.path (handlerPath g x.handler is)
    refine ⟨enterHandler g x.handler is slot t, by rw [hs', getGroup_putGroup], ?_⟩
    rw [enterHandler_eq, hown, hother, hstack, heq]
    exact ⟨rfl, rfl, rfl, rfl, hcode, hat, hlen, hhnd, hwin, hlanes, rfl, rfl, rfl, ⟨rfl, rfl, rfl, rfl, rfl, rfl, rfl⟩, rfl, rfl, rfl,
      rfl, by rw [hs']; rfl⟩
  case stops =>
    have hstop : ¬Handled s g is t := by
      rintro ⟨htp, hagain, hbrk⟩
      rcases hnot with h | h | ⟨hc, hd⟩
      · exact h htp
      · exact hagain h
      · exact absurd ((hbrk hc).symm.trans hd) (by decide)
    obtain ⟨hfault, hst, hgroup⟩ := raiseTrap_stops slot hg hstop
    have hown := pathAt_modPath g is.path fun p => { p with doomed := none, rejected := none }
    have hother := pathAt_putPath_other hpath g { pathAt g is.path with doomed := none, rejected := none }
    have honly := putPath_pathsOnly g is.path { pathAt g is.path with doomed := none, rejected := none }
    exact ⟨hfault, hst, trappedGroup g is, hgroup, rfl, honly.sameFiles, honly.sameSpecials, honly.pending.2, honly.pending.1,
      putPath_stack g is.path _, (congrArg Path.pc hown).trans rfl, (congrArg Path.window hown).trans rfl, hother⟩

end Sys2Proof.Laws.TrapEntry
end

section
/-! SUPPORT. What a slot of an open scanline word comes to, answer by answer (R447, R451). -/

namespace Sys2Proof.Laws.ScanlineSlots

open Sys2Proof.Machine Sys2Proof.Safety Sys2Proof.Laws

/-- What the answer of a slot's meaning leads to. -/
def slotEnds (w : SlIssue) : State × SlRes → State
  | (s, .ok l) => slAdvance s { w with results := w.results ++ l }
  | (s, .jump t) => slAdvance s { w with next := t }
  | (s, .fault d) => slStepped (slFault { s with slw := none } w.core w.k (d.getD w.addr)) w.core
  | (s, .wait mode reg) => slWaitEnd s w mode reg
  | (s, .done) => slDoneEnd s w

section
variable {q : SlTaken} {i : Instr} {m : SlMeaning} {s' : State} (h : q.ready i) (hx : exec i q.s = runSl m q.s)
include h hx

/-- A slot of the open word reaches its meaning. -/
theorem exec_of_ready {a : State × SlRes} (hm : m q.c = a) : exec i q.s = .next (slotEnds q.w a) := by
  rw [hx, ← hm, runSl, h.1]
  simp only [SlTaken.c]
  rcases m (slC q.s q.w) with ⟨s, r⟩
  cases r <;> rfl

/-- A slot that answers results yields them. -/
theorem yields_of_ok {l : List SlResult} (hm : m q.c = (s', .ok l)) : q.yields i s' l := exec_of_ready h hx hm

/-- A slot that answers a fault with no address of its own ends its context's program with the word's. -/
theorem faults_of_fault (hm : m q.c = (s', .fault none)) :
    exec i q.s = .next (slStepped (slFault { s' with slw := none } q.w.core q.w.k q.w.addr) q.w.core) := exec_of_ready h hx hm

/-- A taken branch sets the word that comes next. -/
theorem jumps_of_jump {t : Nat} (hm : m q.c = (s', .jump t)) : exec i q.s = .next (slAdvance s' { q.w with next := t }) :=
  exec_of_ready h hx hm

/-- A slot with no results and no branch leaves the word as it is. -/
theorem advances_of_nothing (hm : m q.c = (q.s, .ok [])) : exec i q.s = .next (slAdvance q.s q.w) := by
  rw [exec_of_ready h hx hm, slotEnds, List.append_nil]

end

/-- A form that computes from its own file yields its one result there. -/
theorem yields_of_pure {q : SlTaken} {i : Instr} {f : SlC → Word} {v : Word} (hx : exec i q.s = runSl (slPure f) q.s) (hv : f q.c = v)
    (h : q.ready i) : q.yields i q.s [q.own v] :=
  yields_of_ok h hx (by rw [← hv]; rfl)

end Sys2Proof.Laws.ScanlineSlots
end

section
/-! SUPPORT. The scanline forms that compute from their own file, and the statement O54 (R453-R455, R459, R463). -/

namespace Sys2Proof.Laws.ScanlineArithmetic

open Sys2Proof.Machine Sys2Proof.Safety Sys2Proof.Laws ScanlineSlots

/-- An immediate is its bits, sign-extended (R454). -/
theorem toSigned_eq_toInt (w n : Nat) : toSigned w n = (BitVec.ofNat w n).toInt := by
  have hlt := Nat.mod_lt n (Nat.two_pow_pos w)
  have hhalf : n % 2 ^ w < 2 ^ (w - 1) ↔ 2 * (n % 2 ^ w) < 2 ^ w := by
    cases w with
    | zero => simp [Nat.mod_one]
    | succ k => rw [Nat.add_sub_cancel, Nat.pow_succ']; omega
  rw [BitVec.toInt_eq_toNat_cond, BitVec.toNat_ofNat, toSigned]
  exact if_congr hhalf rfl rfl

theorem slImm_eq_signExtend (w n : Nat) : slImm w n = (BitVec.ofNat w n).signExtend 32 := by
  rw [slImm, toSigned_eq_toInt]
  rfl

/-- The high half of a word is a binary16 as it stands (R455). -/
theorem slH2f_high (x : Word) : slH2f (x.toNat / 65536) = BitVec.ofNat 32 (encodeF binary32 (decodeF binary16 (x.toNat / 65536))) := by
  have hx := x.isLt
  rw [slH2f, Nat.mod_eq_of_lt (by omega)]

/-- SYS reads the word that its field numbers (R463). -/
theorem mSlSys_eq (q : SlTaken) : mSlSys q.c = (q.s, .ok [q.own (BitVec.ofNat 32 ([q.c.h.sliceOf q.c.x.slice, q.c.h.hact, q.c.h.vact,
    q.c.x.head, q.c.h.frameOf q.c.x.slice, q.c.frame.ext1, q.c.frame.ext2, q.w.k, q.w.core].getD q.c.yf q.c.h.lead))]) := by
  refine congrArg (fun v : Nat => (q.s, SlRes.ok [q.own (BitVec.ofNat 32 v)])) ?_
  split
  case h_10 =>
    simp only [imp_false] at *
    have hbig : 9 ≤ q.c.yf := by omega
    exact (List.getD_eq_default _ _ hbig).symm
  all_goals next hfield => rw [hfield]; rfl

/-- Settles O54: each form is a function of its own file, and XFER one of two files. -/
theorem scanlineArithmetic : Obligations.ScanlineArithmetic := by
  intro q X Y D F imm5 imm10 low
  have himm5 : slImm 5 q.c.yf = imm5 := slImm_eq_signExtend 5 q.c.yf
  have himm10 : slImm 10 q.c.xy = imm10 := slImm_eq_signExtend 10 q.c.xy
  refine ⟨?own, ?xfer, ?pose, ?sys⟩
  case own =>
    simp only [List.forall_mem_cons]
    exact ⟨yields_of_pure (exec_slAdd q.s) rfl, yields_of_pure (exec_slLAdd q.s) rfl, yields_of_pure (exec_slSub q.s) rfl,
      yields_of_pure (exec_slAnd q.s) rfl, yields_of_pure (exec_slOr q.s) rfl, yields_of_pure (exec_slXor q.s) rfl,
      yields_of_pure (exec_slShl q.s) (IntegerArithmetic.shl_eq_shiftLeft X Y),
      yields_of_pure (exec_slShr q.s) (IntegerArithmetic.shr_eq_shiftRight X Y),
      yields_of_pure (exec_slSar q.s) (IntegerArithmetic.sar_eq_shiftArith X Y),
      yields_of_pure (exec_slMin q.s) (IntegerArithmetic.minS_eq X Y), yields_of_pure (exec_slMax q.s) (IntegerArithmetic.maxS_eq X Y),
      yields_of_pure (exec_slSlt q.s) (if_congr decide_eq_true_iff rfl rfl), yields_of_pure (exec_slSeq q.s) rfl,
      yields_of_pure (exec_slImul q.s) rfl,
      yields_of_pure (exec_slAddi q.s) (congrArg (X + ·) himm5), yields_of_pure (exec_slLAddi q.s) (congrArg (X + ·) himm5),
      yields_of_pure (exec_slCAddi q.s) (congrArg (X + ·) himm5),
      yields_of_pure (exec_slMovi q.s) himm10, yields_of_pure (exec_slMMovi q.s) himm10, yields_of_pure (exec_slLMovi q.s) himm10,
      yields_of_pure (exec_slCMovi q.s) himm10,
      yields_of_pure (exec_slMovl q.s) rfl, yields_of_pure (exec_slMMovl q.s) rfl, yields_of_pure (exec_slLMovl q.s) rfl,
      yields_of_pure (exec_slCMovl q.s) rfl,
      yields_of_pure (exec_slFadd q.s) rfl, yields_of_pure (exec_slMFadd q.s) rfl, yields_of_pure (exec_slFsub q.s) rfl,
      yields_of_pure (exec_slMFsub q.s) rfl, yields_of_pure (exec_slFmin q.s) rfl, yields_of_pure (exec_slFmax q.s) rfl,
      yields_of_pure (exec_slFslt q.s) rfl, yields_of_pure (exec_slFmul q.s) rfl, yields_of_pure (exec_slFfma q.s) rfl,
      yields_of_pure (exec_slFdiv q.s) rfl, yields_of_pure (exec_slFrcp q.s) rfl, yields_of_pure (exec_slFsqrt q.s) rfl,
      yields_of_pure (exec_slF2i q.s) rfl, yields_of_pure (exec_slI2f q.s) rfl, yields_of_pure (exec_slF2h q.s) rfl,
      yields_of_pure (exec_slH2fl q.s) rfl, yields_of_pure (exec_slH2fh q.s) (slH2f_high X), List.forall_mem_nil _⟩
  case xfer =>
    simp only [List.forall_mem_cons]
    exact ⟨fun h => yields_of_ok h (exec_slXferA q.s) rfl, fun h => yields_of_ok h (exec_slXferB q.s) rfl,
      fun h => yields_of_ok h (exec_slXferM q.s) rfl, fun h => yields_of_ok h (exec_slXferL q.s) rfl,
      fun h => yields_of_ok h (exec_slXferW q.s) rfl, fun h => yields_of_ok h (exec_slXferC q.s) rfl, List.forall_mem_nil _⟩
  case pose =>
    have hhalf : q.c.yf % 16 % 2 = q.c.yf % 2 := Nat.mod_mod_of_dvd _ (by decide)
    refine yields_of_pure (exec_slPose q.s) ?_
    dsimp only
    rw [hhalf]
  case sys => exact fun h => yields_of_ok h (exec_slSys q.s) (mSlSys_eq q)

end Sys2Proof.Laws.ScanlineArithmetic
end

section
/-! SUPPORT. The statement O55 fails on a state that its premises allow and no run reaches: a table of scanline cores that lists one core twice (R447,
R467). -/

namespace Sys2Proof.Laws.ScanlineRefutation

open Sys2Proof.Machine Sys2Proof.Safety Sys2Proof.Laws

/-- A core that does not step, whose context 0 stands at 16. -/
def runningCore : SlCore := { ctxs := [(0, { pc := 16 })] }

/-- A second entry of the same core, which steps and is held. -/
def steppingCore : SlCore := { stepping := true, sampHeld := true }

/-- The last slot of a word of core 0, context 0, whose next word is at 0. -/
def lastSlot : SlIssue := { core := 0, k := 0, addr := 16, word := 0, pos := 0, next := 0, results := [] }

/-- The reset state with both entries under core 0 and that word open. -/
def coreTwiceListed : SlTaken :=
  ⟨{ State.reset with slcores := [(0, runningCore), (0, steppingCore)], slw := some lastSlot }, lastSlot⟩

/-- Gone on to the word at 0, the context and with it the core's entry read as unlisted ones, so the table drops the entry. The core then reads
as the second one, which steps: it is asked to freeze. -/
theorem slAdvance_ends_step : (getSl (slAdvance coreTwiceListed.s coreTwiceListed.w) 0).stepping = false := by decide

/-- What the statement names leaves the second entry as it is. -/
theorem modSlc_reveals_stepping :
    (getSl (modSlc { coreTwiceListed.s with slw := none } 0 0 fun x => { x with pc := 0, inflight := x.inflight ++ [] }) 0).stepping = true := by
  decide

/-- Refutes O55: it says that a word whose last slot is done sets its context's pc and results in flight and nothing else, and allows a table of
scanline cores that lists one core twice. Where the context's new values are those of an unlisted one, the update drops the core's first entry,
and the second one, which steps, freezes as after its word (R447, R467). A premise `tblWf {} s.slcores` is missing. -/
theorem not_scanlineMemoryAndControl : ¬ Obligations.ScanlineMemoryAndControl := by
  intro hall
  obtain ⟨hlast, -⟩ := hall coreTwiceListed
  have hend := slAdvance_ends_step
  rw [show slAdvance coreTwiceListed.s coreTwiceListed.w = _ from hlast (by decide) (by decide) []] at hend
  exact absurd (modSlc_reveals_stepping.symm.trans hend) (by decide)

end Sys2Proof.Laws.ScanlineRefutation
end

section
/-! SUPPORT. The byte of memory that a translation writes: which leaf entry it marks, that nothing else of memory changes, and the statement O39
(R367-R372). -/

namespace Sys2Proof.Laws.TranslationFrame

open Sys2Proof.Machine Sys2Proof.Laws

/-! ## Bytes of numbers -/

theorem getElem_mread (m : Memory) (a n i : Nat) (hi : i < (mread m a n).length) : (mread m a n)[i] = mget m (a + i) := by
  induction n generalizing a i with
  | zero => exact absurd hi (Nat.not_lt_zero i)
  | succ n ih =>
    cases i with
    | zero => rfl
    | succ i =>
      simp only [mread, List.getElem_cons_succ]
      rw [ih, Nat.add_right_comm, Nat.add_assoc]

/-- The bytes of the number that bytes stand for are those bytes. -/
theorem natLe_leNat (bs : List Byte) : natLe (leNat bs) bs.length = bs := by
  induction bs with
  | nil => rfl
  | cons b bs ih =>
    have hb := b.isLt
    have hhead : BitVec.ofNat 8 (b.toNat + 256 * leNat bs) = b := BitVec.eq_of_toNat_eq (by rw [BitVec.toNat_ofNat]; omega)
    rw [leNat, List.length_cons, natLe, hhead, show (b.toNat + 256 * leNat bs) / 256 = leNat bs by omega, ih]

/-- Bits of its lowest byte set in a number. -/
theorem or_lowByte (b c : Byte) (r : Nat) : (b.toNat + 256 * r) ||| c.toNat = (b ||| c).toNat + 256 * r := by
  have hb := b.isLt
  have hor := (b ||| c).isLt
  rw [Nat.add_comm, show 256 = 2 ^ 8 by rfl, Nat.two_pow_add_eq_or_of_lt hb, Nat.or_assoc, ← BitVec.toNat_or, Nat.add_comm,
    Nat.two_pow_add_eq_or_of_lt hor]

/-! ## A marked entry (R370) -/

/-- A byte with A and, for a write, D set. -/
def markByte (n : Need) (b : Byte) : Byte := b ||| (if n.w then 0x60 else 0x20)

theorem markByte_markByte (n : Need) (b : Byte) : markByte n (markByte n b) = markByte n b := by
  rw [markByte, markByte, BitVec.or_assoc, BitVec.or_self]

/-- A and D lie in the lowest byte of an entry. -/
theorem markedLeaf_eq (n : Need) (b : Byte) (r : Nat) : markedLeaf (b.toNat + 256 * r) n = (markByte n b).toNat + 256 * r := by
  rw [markByte, ← or_lowByte]
  cases hw : n.w with
  | false => simp [markedLeaf, hw]
  | true => simp only [markedLeaf, hw, if_true, Nat.or_assoc]; rfl

/-- An entry that has its marks already keeps its lowest byte. -/
theorem markByte_of_markedLeaf {m : Memory} {n : Need} {a : Nat} (h : markedLeaf (readN m a 8) n = readN m a 8) :
    markByte n (mget m a) = mget m a := by
  rw [readN, mread, leNat, markedLeaf_eq] at h
  exact BitVec.eq_of_toNat_eq (by omega)

/-- The lowest byte of an entry that has been marked has the bits, and every other byte stays. -/
theorem mget_markedEntry {m : Memory} (h : m.wf = true) (n : Need) (a j : Nat) :
    mget (writeN m a 8 (markedLeaf (readN m a 8) n)) j = if j = a then markByte n (mget m a) else mget m j := by
  have hlen := StorePerformance.length_mread m (a + 1) 7
  have hbytes : natLe (markedLeaf (readN m a 8) n) 8 = markByte n (mget m a) :: mread m (a + 1) 7 := by
    have hback := natLe_leNat (markByte n (mget m a) :: mread m (a + 1) 7)
    rw [List.length_cons, hlen] at hback
    rw [readN, mread, leNat, markedLeaf_eq]
    exact hback
  have hwf := mput_wf m a (markByte n (mget m a)) h
  rw [writeN, hbytes, mwrite]
  by_cases hja : j = a
  · rw [if_pos hja, mget_mwrite_out _ _ _ _ hwf (by omega), hja, mget_mput m a _ h]
  · rw [if_neg hja]
    by_cases hin : a + 1 ≤ j ∧ j < a + 8
    · have hi : j - (a + 1) < (mread m (a + 1) 7).length := by omega
      have hread := mget_mwrite_in (mput m a (markByte n (mget m a))) (a + 1) (j - (a + 1)) (mread m (a + 1) 7) hwf hi
      rw [getElem_mread, Nat.add_sub_cancel' hin.1] at hread
      exact hread
    · rw [mget_mwrite_out _ _ _ _ hwf (by omega), mget_mput_ne m a j _ h hja]

/-! ## What a translation may do to memory -/

/-- Memory after a translation that may mark the entry at `p`: every other byte stays, the lowest of that entry stays or is marked, and it is
marked where the translation gave an address. -/
structure Marks (n : Need) (p : Option Nat) (r : XRes) (m m' : Memory) : Prop where
  elsewhere : ∀ a, p ≠ some a → mget m' a = mget m a
  there : ∀ a, p = some a → mget m' a = mget m a ∨ mget m' a = markByte n (mget m a)
  done : ∀ a pa, p = some a → r = .ok pa → mget m' a = markByte n (mget m a)

/-- A translation that gives no address, or needs no entry marked, leaves memory as it is. -/
theorem Marks.same {n : Need} {p : Option Nat} {r : XRes} (m : Memory) (h : ∀ a pa, p = some a → r ≠ .ok pa) : Marks n p r m m :=
  ⟨fun _ _ => rfl, fun _ _ => .inl rfl, fun a pa hp hr => absurd hr (h a pa hp)⟩

/-- Every byte that changes is the lowest of the entry, and is marked. -/
theorem Marks.changed {n : Need} {p : Option Nat} {r : XRes} {m m' : Memory} (h : Marks n p r m m') {a : Nat}
    (ha : mget m' a ≠ mget m a) : mget m' a = markByte n (mget m a) ∧ p = some a := by
  have hp : p = some a := by_contra fun hne => ha (h.elsewhere a hne)
  exact ⟨(h.there a hp).resolve_left ha, hp⟩

/-- The entry of the leaf that a walk of this memory comes to. -/
def walkedLeaf (m : Memory) (va fuel table : Nat) : Option Nat :=
  match walk m va fuel table with
  | .ok l => some l.at_
  | .error _ => none

/-- A walk's leaf is the entry at its address. -/
theorem walk_pte {m : Memory} {va fuel table : Nat} {l : Leaf} (h : walk m va fuel table = .ok l) : l.pte = readN m l.at_ 8 := by
  induction fuel generalizing table with
  | zero => cases h
  | succ level ih =>
    simp only [walk] at h
    split at h
    · cases h
    · split at h
      · cases h
      · split at h
        · cases h
          rfl
        · exact ih h

section
variable {s : State} (u : TUnit) (c asn root va : Nat) (n : Need)

theorem dropTables_mem : (dropTables s u asn va).mem = s.mem := by
  unfold dropTables
  split <;> rfl

theorem keepTables_mem (l : List (Nat × Nat × Nat)) : (keepTables s u asn va l).mem = s.mem := by
  unfold keepTables
  split <;> rfl

/-- A leaf that is cached is marked at its home. -/
theorem cacheLeaf_marks (h : s.mem.wf = true) {l : Leaf} (hl : l.pte = readN s.mem l.at_ 8) (r : XRes) :
    Marks n (some l.at_) r s.mem (cacheLeaf s u asn va l n).mem := by
  have hbyte (j : Nat) : mget (cacheLeaf s u asn va l n).mem j = if j = l.at_ then markByte n (mget s.mem l.at_) else mget s.mem j := by
    unfold cacheLeaf tlbDrop
    dsimp only
    split
    next heq =>
      rw [hl] at heq
      split
      next hj => rw [markByte_of_markedLeaf heq, hj]
      next => rfl
    next => rw [hl]; exact mget_markedEntry h n l.at_ j
  refine ⟨fun a ha => ?_, fun a ha => .inr ?_, fun a _ ha _ => ?_⟩
  · rw [hbyte, if_neg fun he => ha (congrArg some he.symm)]
  all_goals
    cases ha
    rw [hbyte, if_pos rfl]

theorem walkFrom_marks (fuel table : Nat) (h : s.mem.wf = true) :
    Marks n (walkedLeaf s.mem va fuel table) (walkFrom s u asn fuel table va n).2 s.mem (walkFrom s u asn fuel table va n).1.mem := by
  fun_cases walkFrom s u asn fuel table va n
  case case5 _ leaf hw _ _ _ =>
    have hleaf : walkedLeaf s.mem va fuel table = some leaf.at_ := by rw [walkedLeaf, hw]
    have hmem := keepTables_mem (s := s) u asn va (walkTables s.mem va fuel table)
    have hmark := cacheLeaf_marks u asn va n (by rwa [hmem]) (by rw [hmem]; exact walk_pte hw) (.ok (leafPa leaf.pte leaf.bits va))
    rwa [hmem, ← hleaf] at hmark
  all_goals exact .same _ nofun

/-- With no cached entry left, the walk from the context's root. -/
theorem walkAnew_marks (h : s.mem.wf = true) :
    Marks n (walkedLeaf s.mem va 5 root) (walkAnew s u asn root va n).2 s.mem (walkAnew s u asn root va n).1.mem := by
  have hmem : (dropTables (tlbDrop s u asn va) u asn va).mem = s.mem := dropTables_mem u asn va
  have hwalk := walkFrom_marks u asn va n 5 root (hmem ▸ h)
  rwa [hmem] at hwalk

/-- A walk that fails leaves the state as it is. -/
theorem walkFrom_fault {fuel table cause level : Nat} {t : State} (h : walkFrom s u asn fuel table va n = (t, .fault cause level)) : t = s := by
  unfold walkFrom at h
  split at h
  · cases h
  · split at h
    · exact (Prod.mk.inj h).1.symm
    · dsimp only at h
      split at h
      · exact (Prod.mk.inj h).1.symm
      · split at h
        · exact (Prod.mk.inj h).1.symm
        · cases h

end

/-- The entry that a translation without a cached leaf uses: by the walk from the lowest cached table, or by that from the root (R371, R372). -/
def freshPlace (s : State) (u : TUnit) (asn root va : Nat) (n : Need) : Option Nat :=
  match cachedTable s u asn va with
  | none => walkedLeaf s.mem va 5 root
  | some (fuel, table) =>
    match (walkFrom s u asn fuel table va n).2 with
    | .fault _ _ => walkedLeaf s.mem va 5 root
    | _ => walkedLeaf s.mem va fuel table

/-- The entry that a write through a cached leaf with D = 0 uses: that leaf, read again, or the one that a walk from the root finds (R370). -/
def reReadPlace (s : State) (root va : Nat) (n : Need) (e : TlbEntry) : Option Nat :=
  if sameLeaf (if e.bits = 16 then 0 else (e.bits - 12) / 9) (readN s.mem e.at_ 8) e.pte.toNat n then some e.at_
  else walkedLeaf s.mem va 5 root

/-- The leaf entry that a translation may mark. -/
def markPlace (s : State) (u : TUnit) (c va : Nat) (n : Need) : Option Nat :=
  let x := getCtx s c
  match tlbFind s u x.asn va with
  | some e =>
    if !grants e.pte.toNat n || closedPa s (leafPa e.pte.toNat e.bits va) n then walkedLeaf s.mem va 5 x.root
    else if n.w && !bitOf e.pte.toNat 6 then reReadPlace s x.root va n e
    else none
  | none => freshPlace s u x.asn x.root va n

section
variable {s : State} (u : TUnit) (c asn root va : Nat) (n : Need) (h : s.mem.wf = true)
include h

theorem walkFresh_marks :
    Marks n (freshPlace s u asn root va n) (walkFresh s u asn root va n).2 s.mem (walkFresh s u asn root va n).1.mem := by
  unfold freshPlace walkFresh
  cases cachedTable s u asn va with
  | none => exact walkFrom_marks u asn va n 5 root h
  | some e =>
    obtain ⟨fuel, table⟩ := e
    have hwalk := walkFrom_marks u asn va n fuel table h
    dsimp only
    rcases hw : walkFrom s u asn fuel table va n with ⟨t, r⟩
    rw [hw] at hwalk
    cases r with
    | ok pa => exact hwalk
    | hold => exact hwalk
    | fault cause level =>
      obtain rfl := walkFrom_fault u asn va n hw
      exact walkAnew_marks u asn root va n h

theorem reReadLeaf_marks (e : TlbEntry) :
    Marks n (reReadPlace s root va n e) (reReadLeaf s u asn root va n e).2 s.mem (reReadLeaf s u asn root va n e).1.mem := by
  unfold reReadPlace
  fun_cases reReadLeaf s u asn root va n e
  case case1 => exact .same _ nofun
  case case2 _ hsame =>
    rw [if_pos hsame]
    exact cacheLeaf_marks (l := ⟨readN s.mem e.at_ 8, e.at_, e.bits⟩) u asn va n h rfl _
  case case3 _ hchanged =>
    rw [if_neg hchanged]
    exact walkAnew_marks u asn root va n h

/-- A translation marks its entry where it gives an address, and changes no other byte. -/
theorem translate_marks : Marks n (markPlace s u c va n) (Machine.translate s u c va n).2 s.mem (Machine.translate s u c va n).1.mem := by
  unfold markPlace
  fun_cases Machine.translate s u c va n
  case case1 => exact .same _ nofun
  case case2 hnone =>
    dsimp only
    rw [hnone]
    exact walkFresh_marks u _ _ va n h
  case case3 e hcached _ hrefused =>
    dsimp only
    rw [hcached]
    dsimp only
    rw [if_pos hrefused]
    exact walkAnew_marks u _ _ va n h
  case case4 e hcached _ hserves hwrite =>
    dsimp only
    rw [hcached]
    dsimp only
    rw [if_neg hserves, if_pos hwrite]
    exact reReadLeaf_marks u _ _ va n h e
  case case5 e hcached _ hserves hwrite =>
    dsimp only
    rw [hcached]
    dsimp only
    rw [if_neg hserves, if_neg hwrite]
    exact .same _ nofun

end

/-! ## The lanes of an access (R201) -/

section
variable (loc ctx : Nat) (n : Need) (size : Nat)

/-- The check of one address changes what its translation does. -/
theorem checkGlobal_changed {s : State} (lane ea : Nat) (h : s.mem.wf = true) :
    let t := (checkGlobal s loc ctx n size lane ea).1
    Translated s t ∧ t.mem.wf = true ∧ ∀ a, mget t.mem a ≠ mget s.mem a →
      mget t.mem a = markByte n (mget s.mem a) ∧ markPlace s (coreUnit loc) ctx ea n = some a := by
  have htr := translate_translated s (coreUnit loc) ctx ea n
  have hwf := translate_wf (coreUnit loc) ctx ea n h
  have hmarks := translate_marks (coreUnit loc) ctx ea n h
  unfold checkGlobal
  split
  · exact ⟨.refl s, h, fun a ha => absurd rfl ha⟩
  · split
    · exact ⟨.refl s, h, fun a ha => absurd rfl ha⟩
    · rcases hres : Machine.translate s (coreUnit loc) ctx ea n with ⟨t, r⟩
      rw [hres] at htr hwf hmarks
      cases r <;> exact ⟨htr, hwf, fun a ha => hmarks.changed ha⟩

/-- The checks of lanes change what their translations do, each in the state that the lanes before it leave. -/
theorem checkLanes_changed {s : State} (l : List (Nat × Nat)) (h : s.mem.wf = true) :
    let t := (checkLanes s loc ctx n size l).1
    Translated s t ∧ t.mem.wf = true ∧ ∀ a, mget t.mem a ≠ mget s.mem a → mget t.mem a = markByte n (mget s.mem a)
      ∧ ∃ i e, l[i]? = some e ∧ markPlace (checkLanes s loc ctx n size (l.take i)).1 (coreUnit loc) ctx e.2 n = some a := by
  induction l generalizing s with
  | nil => exact ⟨.refl s, h, fun a ha => absurd rfl ha⟩
  | cons e l ih =>
    obtain ⟨lane, ea⟩ := e
    obtain ⟨htr, hwf, hfirst⟩ := checkGlobal_changed loc ctx n size lane ea h
    have hhere {a : Nat} (ha : markPlace s (coreUnit loc) ctx ea n = some a) : ∃ i e, ((lane, ea) :: l)[i]? = some e
        ∧ markPlace (checkLanes s loc ctx n size (((lane, ea) :: l).take i)).1 (coreUnit loc) ctx e.2 n = some a := ⟨0, _, rfl, ha⟩
    rcases hres : checkGlobal s loc ctx n size lane ea with ⟨t, q⟩
    rw [hres] at htr hwf hfirst
    cases q with
    | none =>
      have hlast : checkLanes s loc ctx n size ((lane, ea) :: l) = (t, none) := by rw [checkLanes, hres]
      rw [hlast]
      exact ⟨htr, hwf, fun a ha => ⟨(hfirst a ha).1, hhere (hfirst a ha).2⟩⟩
    | some q =>
      have hnext (k : List (Nat × Nat)) : (checkLanes s loc ctx n size ((lane, ea) :: k)).1 = (checkLanes t loc ctx n size k).1 := by
        rw [checkLanes, hres]
        dsimp only
        split <;> simp only [*]
      obtain ⟨htr', hwf', hrest⟩ := ih hwf
      rw [hnext]
      refine ⟨htr.trans htr', hwf', fun a ha => ?_⟩
      by_cases hthen : mget (checkLanes t loc ctx n size l).1.mem a = mget t.mem a
      · rw [hthen] at ha ⊢
        exact ⟨(hfirst a ha).1, hhere (hfirst a ha).2⟩
      · obtain ⟨hmark, i, e, hi, hplace⟩ := hrest a hthen
        refine ⟨?_, i + 1, e, hi, by rw [List.take_succ_cons, hnext]; exact hplace⟩
        by_cases hnow : mget t.mem a = mget s.mem a
        · rw [hmark, hnow]
        · rw [hmark, (hfirst a hnow).1, markByte_markByte]

end

/-- Settles O39: what a translation may mark, and how the lanes of an access add up. -/
theorem translationFrame : Obligations.TranslationFrame := by
  have frame {s t : State} (h : Translated s t) : t = { s with mem := t.mem, tlb := t.tlb } := by
    obtain ⟨mem, tlb, rfl⟩ := h
    rfl
  refine ⟨fun s u c va n h => ?_, fun s loc ctx size n l h => ?_⟩
  · have hmarks := translate_marks u c va n h
    exact ⟨frame (translate_translated s u c va n), translate_wf u c va n h, hmarks.elsewhere, hmarks.there, hmarks.done⟩
  · obtain ⟨htr, hwf, hchanged⟩ := checkLanes_changed loc ctx n size l h
    exact ⟨frame htr, hwf, hchanged⟩

end Sys2Proof.Laws.TranslationFrame
end

section
/-! SUPPORT. The commands and events of heads and of scanline cores between words: one equation for each case of the model's functions, and the
statement O60 that is assembled from them (R424-R440, R449, R457, R462, R465-R467). -/

namespace Sys2Proof.Laws.HeadAndScanlineEvents

open Sys2Proof.Machine Sys2Proof.Safety Sys2Proof.Laws

/-- A command register's value has the code of its command. -/
theorem cmdOf_withCmd (s : State) {n : BitVec 64} (hn : n.toNat < 16) : cmdOf (withCmd s n) = n.toNat := by
  have hmask : (0xFFFFFFFFFFFFFFF0 : BitVec 64).toNat % 2 ^ 4 = 0 := rfl
  rw [cmdOf, ModuleEvents.fld_eq_div, withCmd, BitVec.toNat_or, BitVec.toNat_and]
  rw [Nat.pow_zero, Nat.div_one, Nat.or_mod_two_pow, Nat.and_mod_two_pow, hmask, Nat.and_zero, Nat.zero_or, Nat.mod_eq_of_lt hn]

section
variable {s : State} {hd : Nat} {v : DWord}

/-! ## Commands of heads (R428, R429) -/

theorem headCommand_start (hb : (getHead s hd).busy = false) (hv : cmdOf v = 1) : headCommand s hd v = headStart s hd v := by
  simp only [headCommand, hb, hv, Bool.false_eq_true, if_false]

theorem headCommand_stop (hb : (getHead s hd).busy = false) (hv : cmdOf v = 2) : headCommand s hd v = headStop s hd := by
  simp only [headCommand, hb, hv, Bool.false_eq_true, if_false]

/-- The address of the descriptor that START names. -/
abbrev descAt (v : DWord) : Nat := v.toNat / 128 % 2 ^ 45 * 128

/-- A head as START takes it from a descriptor: its event queue, its staged pose and what it has sent stay. -/
def freshHead (s : State) (hd : Nat) (v : DWord) : Head :=
  let h := getHead s hd
  { evq := h.evq, evhead := h.evhead, evtail := h.evtail, evlost := h.evlost, staged := h.staged, shipped := h.shipped, st := .starting
    desc := bytesDw (readHome s (descAt v) 128) }

section
variable (hst : (getHead s hd).st = .idle ∨ (getHead s hd).st = .error) (hin : inGddr (descAt v) 128 = true)
include hst hin

theorem headStart_eq : headStart s hd v =
    if startErr s hd (freshHead s hd v) = 0 then putHead s hd (freshHead s hd v)
    else putHead s hd { getHead s hd with err := startErr s hd (freshHead s hd v) } := by
  have hst' : ¬((getHead s hd).st ≠ .idle ∧ (getHead s hd).st ≠ .error) := fun h => hst.elim h.1 h.2
  have hat : fld v.toNat 51 7 * 128 = descAt v := congrArg (· * 128) (ModuleEvents.fld_eq_div v.toNat 51 7)
  simp only [headStart, if_neg hst', hat, hin, Bool.not_true, Bool.false_eq_true, if_false]
  change (match startErr s hd (freshHead s hd v) with
    | 0 => putHead s hd (freshHead s hd v)
    | e => putHead s hd { getHead s hd with err := e }) = _
  cases startErr s hd (freshHead s hd v) <;> rfl

end

theorem headStop_active (hst : (getHead s hd).st = .active) :
    headStop s hd = stopCheck (dropUnbegun (putHead s hd { getHead s hd with st := .stopping, err := 0 }) hd) hd := by
  simp only [headStop, hst]

theorem headStop_error (hst : (getHead s hd).st = .error) : headStop s hd = putHead s hd { getHead s hd with st := .idle, err := 0 } := by
  simp only [headStop, hst]

theorem headStop_refused (hst : (getHead s hd).st = .idle ∨ (getHead s hd).st = .starting ∨ (getHead s hd).st = .stopping) :
    headStop s hd = putHead s hd { getHead s hd with err := 2 } := by
  rcases hst with hst | hst | hst <;> simp only [headStop, hst]

/-! ## Poses and publications (R424, R432) -/

theorem poseCommitWrite_set (hv : v.getLsbD 0 = true) :
    poseCommitWrite s hd v =
      putHead s hd { getHead s hd with poseIn := (getHead s hd).poseIn ++ [(List.range 8).map fun j => tget 0 (getHead s hd).staged j] } := if_pos hv

theorem mailboxWrite_serving {p : List DWord} {rest : List (List DWord)} (hp : (getHead s hd).poseIn = p :: rest)
    (hst : (getHead s hd).st = .starting ∨ (getHead s hd).st = .active) :
    mailboxWrite s hd = putHead s hd { getHead s hd with poseIn := rest, mailbox := (p :: (getHead s hd).mailbox).take 8, fresh := true } := by
  have hserves : headServing (getHead s hd) = true := by
    rcases hst with hst | hst <;> simp [headServing, hst]
  simp only [mailboxWrite, hp, hserves, if_true]

theorem mailboxWrite_discards {p : List DWord} {rest : List (List DWord)} (hp : (getHead s hd).poseIn = p :: rest)
    (hst : (getHead s hd).st = .idle ∨ (getHead s hd).st = .stopping ∨ (getHead s hd).st = .error) :
    mailboxWrite s hd = putHead s hd { getHead s hd with poseIn := rest } := by
  have hserves : headServing (getHead s hd) = false := by
    rcases hst with hst | hst | hst <;> simp [headServing, hst]
  simp only [mailboxWrite, hp, hserves, Bool.false_eq_true, if_false]

/-- The numbers of the three tensors of a frame descriptor. -/
abbrev frameTensorNumbers (d : List DWord) : List Nat := [dwAt d 0 / 2 ^ 32 % 65536, dwAt d 0 / 65536 % 65536, dwAt d 0 % 65536]

theorem frameTensorNumbers_eq (d : List DWord) :
    frameTensorNumbers d = [fld (dwAt d 0) 47 32, fld (dwAt d 0) 31 16, fld (dwAt d 0) 15 0] := by
  rw [ModuleEvents.fld_eq_div, ModuleEvents.fld_eq_div, ModuleEvents.fld_eq_div, Nat.pow_zero, Nat.div_one]
  rfl

section
variable {c va : Nat} {rest : List (Nat × Nat)} (hp : (getHead s hd).pubIn = (c, va) :: rest)
include hp

/-- A publication that comes when its head does not take it is discarded. -/
theorem takePublication_discards (ht : headTakes (getHead s hd) c = false) :
    takePublication s hd = putHead s hd { getHead s hd with pubIn := rest } := by
  simp only [takePublication, hp, ht, Bool.not_false, if_true]

section
variable (ht : headTakes (getHead s hd) c = true) {s1 : State} {b : List Byte}
  (hr : tarnRead (acquireBy .tarn 4 (putHead s hd { getHead s hd with pubIn := rest, pub := (getHead s hd).pub + 1 })) c va 128 = (s1, .ok b))
include ht hr

theorem takePublication_bad (hbad : frameDescBad (bytesDw b) = true) :
    takePublication s hd = headEvent s1 hd 4 0 (frameNow (getHead s1 hd)) 0 0 := by
  simp only [takePublication, hp, ht, hr, hbad, Bool.not_true, Bool.false_eq_true, if_false, if_true]

section
variable (hgood : frameDescBad (bytesDw b) = false) {s2 : State} {ts : List (Option (List DWord))} {f : Frame}
  (hts : frameTensors s1 c (frameTensorNumbers (bytesDw b)) = (s2, .ok ts)) (hf : frameOk (getHead s2 hd).pub.toNat (bytesDw b) ts = some f)
include hgood hts hf

/-- A frame that finds none pending is the pending one. -/
theorem takePublication_first (hold : (getHead s2 hd).pendingFrame = none) :
    takePublication s hd = putHead s2 hd { getHead s2 hd with pendingFrame := some f } := by
  rw [frameTensorNumbers_eq] at hts
  simp only [takePublication, hp, ht, hr, hgood, hts, hf, hold, Bool.not_true, Bool.false_eq_true, if_false]

/-- A frame that finds one pending supersedes it, which retires. -/
theorem takePublication_supersedes {old : Frame} (hold : (getHead s2 hd).pendingFrame = some old) :
    takePublication s hd = retire (putHead s2 hd { getHead s2 hd with pendingFrame := some f }) hd (frameNow (getHead s2 hd)) old := by
  rw [frameTensorNumbers_eq] at hts
  simp only [takePublication, hp, ht, hr, hgood, hts, hf, hold, Bool.not_true, Bool.false_eq_true, if_false]

end
end
end

/-! ## The output's training and loss (R429) -/

theorem outputTrained_eq (hst : (getHead s hd).st = .starting) (hout : (getHead s hd).out = 0 ∨ (getLink s (16 + (getHead s hd).fport)).st = .up) :
    outputTrained s hd = putHead s hd { getHead s hd with st := .active, since := headClock s } := by
  have hready : (decide ((getHead s hd).st = .starting) && ((getHead s hd).out == 0 || decide ((getLink s (16 + (getHead s hd).fport)).st = .up))) = true := by
    simpa [hst] using hout
  exact if_pos hready

theorem outputFailed_eq (hst : (getHead s hd).st = .starting) :
    outputFailed s hd = headEvent (putHead s hd (blankHead (getHead s hd) .error)) hd 6 0 (frameNow (getHead s hd)) 0 0 := if_pos hst

theorem outputLost_eq (hst : (getHead s hd).st = .starting ∨ (getHead s hd).st = .active ∨ (getHead s hd).st = .stopping) :
    outputLost s hd = headError s hd := by
  have hholds : headHolds (getHead s hd) = true := by
    rcases hst with hst | hst | hst <;> simp [headHolds, headServing, hst]
  exact if_pos hholds

/-! ## The slices of a frame (R433, R434, R436) -/

/-- A latch of a slice that is not its frame's first takes the mailbox's newest pose when it is fresh, else the pose of the last latch. -/
theorem poseLatch_eq {line : Nat} {p : List DWord} {rest : List (List DWord)} (hdue : headDue (getHead s hd) 0 = some line)
    (hbox : (getHead s hd).mailbox = p :: rest) (hslice : (getHead s hd).sliceOf (getHead s hd).nextLatch ≠ 0) :
    poseLatch s hd =
      let h := getHead s hd
      let pose := if h.fresh then p else h.lastPose
      acquireBy .tarn 4 (putHead s hd { h.beamTo line with
        nextLatch := h.nextLatch + 1, fresh := false, lastPose := pose
        slices := h.slices ++ [(h.nextLatch, { frame := h.inUse, pose := pose })], outPoses := tput [] h.outPoses h.nextLatch pose }) := by
  have hadopt : ((getHead s hd).sliceOf (getHead s hd).nextLatch == 0 && (getHead s hd).pendingFrame.isSome) = false := by
    rw [beq_false_of_ne hslice, Bool.false_and]
  cases hfresh : (getHead s hd).fresh <;>
    simp only [poseLatch, hdue, hadopt, hbox, hfresh, Bool.false_eq_true, if_false, if_true]

section
variable {line : Nat}

theorem sliceStart_framed {q : Slice} {f : Frame} (hdue : headDue (getHead s hd) 1 = some line)
    (hq : (getHead s hd).slice (getHead s hd).nextStart = some q) (hf : q.frame = some f) :
    sliceStart s hd =
      let h := getHead s hd
      slTake (modSlice (putHead s hd { h.beamTo line with nextStart := h.nextStart + 1 }) hd h.nextStart fun q => { q with st := .started })
        (sliceCore h h.nextStart) := by
  obtain ⟨st, frame, pose, pixels⟩ := q
  cases hf
  simp only [sliceStart, hdue, hq]

theorem sliceStart_frameless (hdue : headDue (getHead s hd) 1 = some line)
    (hf : ((getHead s hd).slice (getHead s hd).nextStart).bind (·.frame) = none) :
    sliceStart s hd =
      let h := getHead s hd
      modSlice (putHead s hd { h.beamTo line with nextStart := h.nextStart + 1 }) hd h.nextStart fun q => { q with st := .fallback } := by
  cases hq : (getHead s hd).slice (getHead s hd).nextStart with
  | none => simp only [sliceStart, hdue, hq]
  | some q =>
    obtain ⟨st, frame, pose, pixels⟩ := q
    have hnone : frame = none := by simpa [hq] using hf
    cases hnone
    simp only [sliceStart, hdue, hq]

end

/-- A slice that missed its deadline falls back; MISS counts it. -/
def sliceMissed (s u : State) (hd : Nat) (q : Slice) : State :=
  sliceEvent (modHead (fallback u hd (getHead s hd).nextDeadline q.pose) hd fun h => { h with miss := h.miss + 1 }) hd 1 (getHead s hd).nextDeadline (dwAt q.pose 7)

/-- The slice at its deadline, its pixels dropped. -/
def sliceDropped (s : State) (hd line : Nat) : State :=
  modSlice (putHead s hd { (getHead s hd).beamTo line with nextDeadline := (getHead s hd).nextDeadline + 1 }) hd (getHead s hd).nextDeadline
    fun q => { q with st := .fallback, pixels := [] }

section
variable {line : Nat} {q : Slice} (hheld : tarnHeld s (getHead s hd) = false) (hdue : headDue (getHead s hd) 2 = some line)
  (hq : (getHead s hd).slice (getHead s hd).nextDeadline = some q)
include hheld hdue hq

theorem sliceDeadline_complete (hst : q.st = .complete) :
    sliceDeadline s hd = putHead s hd { (getHead s hd).beamTo line with nextDeadline := (getHead s hd).nextDeadline + 1 } := by
  simp only [sliceDeadline, hdue, hheld, hq, hst, Bool.false_eq_true, if_false, if_true]

theorem sliceDeadline_waiting (hst : q.st = .latched ∨ q.st = .started ∨ q.st = .fallback) :
    sliceDeadline s hd = sliceMissed s (sliceDropped s hd line) hd q := by
  rcases hst with hst | hst | hst <;>
    simp only [sliceDeadline, hdue, hheld, hq, hst, Bool.false_eq_true, if_false, reduceCtorEq] <;> rfl

theorem sliceDeadline_running {c j : Nat} (hst : q.st = .running c j) :
    sliceDeadline s hd = sliceMissed s (slEnd (sliceDropped s hd line) c j) hd q := by
  simp only [sliceDeadline, hdue, hheld, hq, hst, Bool.false_eq_true, if_false, reduceCtorEq]
  rfl

end

theorem sliceOutput_none {line : Nat} (hdue : headDue (getHead s hd) 3 = some line) (hq : (getHead s hd).slice (getHead s hd).nextOutput = none) :
    sliceOutput s hd = putHead s hd { (getHead s hd).beamTo line with nextOutput := (getHead s hd).nextOutput + 1 } := by
  simp only [sliceOutput, hdue, hq]

/-- The slice's pixels as its output takes them, before they go to a stream. -/
def sliceEncoded (s : State) (hd line : Nat) (q : Slice) : State :=
  putHead s hd { (getHead s hd).beamTo line with
    sentSlice := q.pixels.flatMap fun p => [encodeOut (getHead s hd).enc p.r, encodeOut (getHead s hd).enc p.g, encodeOut (getHead s hd).enc p.b] }

/-- The slice sent and written to the history. -/
def sliceSent (s : State) (hd line : Nat) (q : Slice) : State :=
  let i := (getHead s hd).nextOutput
  let t := sliceEncoded s hd line q
  historyWrite (if (getHead s hd).out = 1 then sendStream (noteShipped t hd i q) hd i else t) hd i q.pixels

/-- What a head forgets with its slice `i`, `n` slices a frame. -/
def forgetSlice (n i : Nat) (h : Head) : Head :=
  { h with
    nextOutput := i + 1
    slices := h.slices.filter fun e => e.1 != i
    outPoses := h.outPoses.filter fun e => decide (i < e.1 + n)
    written := h.written.filter fun e => decide ((h.frameOf i - 1) * n ≤ e.1) }

theorem sliceOutput_some {line : Nat} {q : Slice} (hdue : headDue (getHead s hd) 3 = some line) (hheld : tarnHeld s (getHead s hd) = false)
    (hq : (getHead s hd).slice (getHead s hd).nextOutput = some q) :
    sliceOutput s hd =
      let h := getHead s hd
      stopCheck (retireDone (modHead (sliceSent s hd line q) hd (forgetSlice h.slicesPer h.nextOutput)) hd (h.frameOf h.nextOutput)) hd := by
  simp only [sliceOutput, hdue, hheld, hq, Bool.false_eq_true, if_false]
  rfl

end

/-! ## Calls of Tarn's Oxbow (R440, R465) -/

section
variable {s : State} {p : Nat × Nat × Nat}

theorem callStart_idle (hn : nextCall s = none) : callStart s = s := by
  cases hrun : s.tarnRun <;> simp only [callStart, hrun, hn]

/-- The context that a call's scanline context works for. -/
abbrev callCtx (s : State) (p : Nat × Nat × Nat) : Nat := headCtx (getHead s (getSlc s p.1 p.2.1).head)

/-- A call whose block and tensors read and are well-formed runs from its first k-block. -/
theorem callStart_runs {t : TarnCall} {s1 s2 : State} {b : List Byte} {tens : List DWord} (hrun : s.tarnRun = none) (hn : nextCall s = some (p, t))
    (hread : callRead s p (callCtx s p) t.addr 128 = (s1, some b)) (hgood : tarnRoutineBad ((bytesDw b).take 8) = false)
    (hzero : ∀ y ∈ (bytesDw b).drop 12, y = 0) (htens : callTensors s1 p (callCtx s p) (mxTensors ((bytesDw b).take 8)) = (s2, some tens))
    (hjob : jobBad (callJob (callCtx s p) ((bytesDw b).take 12 ++ tens)) = false)
    (hwin : let j := callJob (callCtx s p) ((bytesDw b).take 12 ++ tens)
      j.r.win = true → 0 < (outExtents j.r (j.tensor 0)).1 ∧ 0 < (outExtents j.r (j.tensor 0)).2) :
    callStart s = modCall { s2 with tarnRun := some p } p fun t => { t with st := 2, block := (bytesDw b).take 12 ++ tens, cursor := 0 } := by
  have hany : ((bytesDw b).drop 12).any (· != 0) = false := by simpa using hzero
  have hextents : ∀ j, j = callJob (callCtx s p) ((bytesDw b).take 12 ++ tens) →
      (j.r.win && (decide ((outExtents j.r (j.tensor 0)).1 ≤ 0) || decide ((outExtents j.r (j.tensor 0)).2 ≤ 0))) = false := by
    rintro j rfl
    cases hw : (callJob (callCtx s p) ((bytesDw b).take 12 ++ tens)).r.win with
    | false => rw [Bool.false_and]
    | true =>
      obtain ⟨h1, h2⟩ := hwin hw
      rw [decide_eq_false (not_le.mpr h1), decide_eq_false (not_le.mpr h2)]
      rfl
  simp only [callStart, hrun, hn, hread, hgood, hany, htens, hjob, hextents _ rfl, Bool.or_self, Bool.false_eq_true, if_false]

variable (hrun : s.tarnRun = some p)
include hrun

theorem callError_soft : callError s 11 = endCall s p 4 11 0 (getCall s p).cursor 0 := by
  simp only [callError, hrun, true_or, if_true]

theorem callComplete_cancelled (hst : (getCall s p).st = 6) : callComplete s = endCall s p 5 8 0 (getCall s p).cursor 0 := by
  simp only [callComplete, hrun, hst, if_true]

section
variable (hst : (getCall s p).st ≠ 6) (hblocks : blockCount (callJob (callCtx s p) (getCall s p).block).r ≠ 0)
  (hterms : termCount (callJob (callCtx s p) (getCall s p).block).r ≠ 0)
include hst hblocks hterms

/-- A running call ends after its last k-block. -/
theorem callComplete_last {s1 : State} (hstep : mxStep s (callJob (callCtx s p) (getCall s p).block) ((getCall s p).cursor.toNat / 2 ^ 32)
      ((getCall s p).cursor.toNat % 2 ^ 32) = (s1, .done)) :
    callComplete s = endCall s1 p 3 0 0 (getCall s p).cursor 0 := by
  simp only [callComplete, hrun, hst, hblocks, hterms, hstep, or_self, if_false]

/-- A running call goes on at its next k-block. -/
theorem callComplete_next {s1 : State} {o k : Nat} (hstep : mxStep s (callJob (callCtx s p) (getCall s p).block)
      ((getCall s p).cursor.toNat / 2 ^ 32) ((getCall s p).cursor.toNat % 2 ^ 32) = (s1, .next o k)) :
    callComplete s = modCall s1 p fun t => { t with cursor := mxCursor o k } := by
  simp only [callComplete, hrun, hst, hblocks, hterms, hstep, or_self, if_false]

end
end

/-! ## Scanline cores (R449, R457, R466, R467) -/

section
variable {s : State} {core : Nat} {v : DWord}

theorem slcoreCommand_busy (hb : slBusy (getSl s core) = true) : slcoreCommand s core v = modSl s core fun c => { c with err := 1 } := if_pos hb

section
variable (hb : slBusy (getSl s core) = false)
include hb

theorem slcoreCommand_stop (hv : cmdOf v = 1) : slcoreCommand s core v = slcoreStop s core v := by
  simp only [slcoreCommand, hb, hv, Bool.false_eq_true, if_false]

theorem slcoreCommand_run (hv : cmdOf v = 2) : slcoreCommand s core v = slcoreRun s core v := by
  simp only [slcoreCommand, hb, hv, Bool.false_eq_true, if_false]

theorem slcoreCommand_step (hv : cmdOf v = 3) : slcoreCommand s core v = slcoreStep s core v := by
  simp only [slcoreCommand, hb, hv, Bool.false_eq_true, if_false]

end

/-- The address of the dump that a command of a scanline core names. -/
abbrev dumpAt (v : DWord) : Nat := v.toNat / 4096 % 2 ^ 40 * 4096

theorem fld_dump (v : DWord) : fld v.toNat 51 12 * 4096 = dumpAt v := congrArg (· * 4096) (ModuleEvents.fld_eq_div v.toNat 51 12)

section
variable (hs : (getSl s core).stopped = false)
include hs

theorem slcoreStop_running : slcoreStop s core v = slAskFreeze (modSl s core fun c => { c with err := 0, dump := dumpAt v }) core := by
  simp only [slcoreStop, hs, fld_dump, Bool.false_eq_true, if_false]

theorem slcoreRun_running : slcoreRun s core v = modSl s core fun c => { c with err := 2 } := by
  simp only [slcoreRun, hs, Bool.not_false, if_true]

theorem slcoreStep_running : slcoreStep s core v = modSl s core fun c => { c with err := 2 } := by
  simp only [slcoreStep, hs, Bool.not_false, if_true]

end

section
variable (hs : (getSl s core).stopped = true)
include hs

theorem slcoreStop_stopped : slcoreStop s core v = modSl s core fun c => { c with err := 2 } := if_pos hs

theorem slcoreRun_stopped : slcoreRun s core v = slResume s core (dumpAt v) false := by
  simp only [slcoreRun, hs, fld_dump, Bool.not_true, Bool.false_eq_true, if_false]

theorem slcoreStep_stopped : slcoreStep s core v = slResume s core (dumpAt v) true := by
  simp only [slcoreStep, hs, fld_dump, Bool.not_true, Bool.false_eq_true, if_false]

end

theorem slBreak_at (hbreak : slAtBreak s core = true) : slBreak s core = slFreeze s core := if_pos hbreak

theorem slBreak_not (hbreak : slAtBreak s core = false) : slBreak s core = s := if_neg (ne_true_of_eq_false hbreak)

theorem fetchDone_cons {k : Nat} {f : SlFetch} {rest : List SlFetch} (hf : (getSlc s core k).fetches = f :: rest) :
    fetchDone s core k = slWake (putSlc { s with lineStore := mwrite s.lineStore (lsKey core k f.off) f.data } core k
      { getSlc s core k with fetches := rest }) core k := by
  simp only [fetchDone, hf]

theorem fifoDrain_nonempty {k : Nat} (hf : (getSlc s core k).fifo ≠ []) :
    fifoDrain s core k = slWake (modSlice (putSlc s core k { getSlc s core k with fifo := [] }) (getSlc s core k).head (getSlc s core k).slice
      fun q => { q with pixels := q.pixels ++ (getSlc s core k).fifo }) core k := by
  have hne : ¬(getSlc s core k).fifo.isEmpty = true := fun h => hf (List.isEmpty_iff.mp h)
  exact if_neg hne

end

/-! ## The command registers' writes, with their busy bit clear -/

section
variable {s : State}

theorem exec_headStart_idle (hb : (getHead s (argHead s)).busy = false) : exec .headStart s = .next (headStart s (argHead s) (withCmd s 1)) :=
  congrArg Host.Outcome.next (headCommand_start hb (cmdOf_withCmd s (by decide)))

theorem exec_headStop_idle (hb : (getHead s (argHead s)).busy = false) : exec .headStop s = .next (headStop s (argHead s)) :=
  congrArg Host.Outcome.next (headCommand_stop hb (cmdOf_withCmd s (by decide)))

theorem exec_slcoreStop_idle (hb : slBusy (getSl s (argCore s)) = false) : exec .slcoreStop s = .next (slcoreStop s (argCore s) (withCmd s 1)) :=
  congrArg Host.Outcome.next (slcoreCommand_stop hb (cmdOf_withCmd s (by decide)))

theorem exec_slcoreRun_idle (hb : slBusy (getSl s (argCore s)) = false) : exec .slcoreRun s = .next (slcoreRun s (argCore s) (withCmd s 2)) :=
  congrArg Host.Outcome.next (slcoreCommand_run hb (cmdOf_withCmd s (by decide)))

theorem exec_slcoreStep_idle (hb : slBusy (getSl s (argCore s)) = false) : exec .slcoreStep s = .next (slcoreStep s (argCore s) (withCmd s 3)) :=
  congrArg Host.Outcome.next (slcoreCommand_step hb (cmdOf_withCmd s (by decide)))

theorem exec_tarnCallComplete (s : State) :
    exec .tarnCallComplete s = .next (if s.args.m = 0 then callComplete s else callError s s.args.m) := rfl

theorem exec_tarnCallComplete_ok (hm : s.args.m = 0) : exec .tarnCallComplete s = .next (callComplete s) := by
  rw [exec_tarnCallComplete, if_pos hm]

theorem exec_tarnCallComplete_soft (hm : s.args.m = 11) : exec .tarnCallComplete s = .next (callError s 11) := by
  have hne : ¬(11 : Nat) = 0 := by decide
  rw [exec_tarnCallComplete, hm, if_neg hne]

end

/-- Settles O60, by the cases of the function that each command and event runs. -/
theorem headAndScanlineEvents : Obligations.HeadAndScanlineEvents := by
  unfold Obligations.HeadAndScanlineEvents
  intro s hd h core k x cmd base dump
  refine ⟨fun hb => ?headCommands, rfl, rfl, fun hv => congrArg Host.Outcome.next (poseCommitWrite_set hv), fun p rest hp => ?mailbox, fun c va rest hp => ?publication,
    fun hst hout => congrArg Host.Outcome.next (outputTrained_eq hst hout), fun hst => congrArg Host.Outcome.next (outputFailed_eq hst),
    fun hst => congrArg Host.Outcome.next (outputLost_eq hst),
    fun line p rest hdue hbox hslice => congrArg Host.Outcome.next (poseLatch_eq hdue hbox hslice), fun line hdue => ?start,
    fun line q hheld hdue hq => ?deadline, fun line hdue => ?output, fun f rest hf => congrArg Host.Outcome.next (fetchDone_cons hf), ?callStart,
    fun p hrun hm => ?callComplete, fun p hrun hm => (exec_tarnCallComplete_soft hm).trans (congrArg Host.Outcome.next (callError_soft hrun)), ?slcoreCommands,
    ⟨fun hbreak => congrArg Host.Outcome.next (slBreak_at hbreak), fun hbreak => congrArg Host.Outcome.next (slBreak_not hbreak)⟩,
    fun hf => congrArg Host.Outcome.next (fifoDrain_nonempty hf), rfl⟩
  case headCommands =>
    refine ⟨fun hst hin => ⟨fun hok => ?_, fun herr => ?_⟩, fun hst => ?_, fun hst => ?_, fun hst => ?_⟩
    · exact (exec_headStart_idle hb).trans (congrArg Host.Outcome.next ((headStart_eq hst hin).trans (if_pos hok)))
    · exact (exec_headStart_idle hb).trans (congrArg Host.Outcome.next ((headStart_eq hst hin).trans (if_neg herr)))
    · exact (exec_headStop_idle hb).trans (congrArg Host.Outcome.next (headStop_active hst))
    · exact (exec_headStop_idle hb).trans (congrArg Host.Outcome.next (headStop_error hst))
    · exact (exec_headStop_idle hb).trans (congrArg Host.Outcome.next (headStop_refused hst))
  case mailbox =>
    exact ⟨fun hst => congrArg Host.Outcome.next (mailboxWrite_serving hp hst), fun hst => congrArg Host.Outcome.next (mailboxWrite_discards hp hst)⟩
  case publication =>
    refine ⟨fun ht => congrArg Host.Outcome.next (takePublication_discards hp ht), fun ht s1 b hr => ⟨fun hbad => ?_, fun hgood s2 ts f hts => ?_⟩⟩
    · exact congrArg Host.Outcome.next (takePublication_bad hp ht hr hbad)
    · exact fun hf => ⟨fun hold => congrArg Host.Outcome.next (takePublication_first hp ht hr hgood hts hf hold),
        fun old hold => congrArg Host.Outcome.next (takePublication_supersedes hp ht hr hgood hts hf hold)⟩
  case start =>
    exact ⟨fun q f hq hf => congrArg Host.Outcome.next (sliceStart_framed hdue hq hf), fun hf => congrArg Host.Outcome.next (sliceStart_frameless hdue hf)⟩
  case deadline =>
    exact ⟨fun hst => congrArg Host.Outcome.next (sliceDeadline_complete hheld hdue hq hst),
      fun hst => congrArg Host.Outcome.next (sliceDeadline_waiting hheld hdue hq hst),
      fun c j hst => congrArg Host.Outcome.next (sliceDeadline_running hheld hdue hq hst)⟩
  case output =>
    exact ⟨fun hq => congrArg Host.Outcome.next (sliceOutput_none hdue hq), fun q hheld hq => congrArg Host.Outcome.next (sliceOutput_some hdue hheld hq)⟩
  case callStart =>
    exact ⟨fun hn => congrArg Host.Outcome.next (callStart_idle hn), fun p t s1 b s2 tens hrun hn hread hgood hzero htens hjob hwin =>
      congrArg Host.Outcome.next (callStart_runs hrun hn hread hgood hzero htens hjob hwin)⟩
  case callComplete =>
    refine ⟨fun hst => ?_, fun hst hblocks hterms => ⟨fun s1 hstep => ?_, fun s1 o k hstep => ?_⟩⟩
    · exact (exec_tarnCallComplete_ok hm).trans (congrArg Host.Outcome.next (callComplete_cancelled hrun hst))
    · exact (exec_tarnCallComplete_ok hm).trans (congrArg Host.Outcome.next (callComplete_last hrun hst hblocks hterms hstep))
    · exact (exec_tarnCallComplete_ok hm).trans (congrArg Host.Outcome.next (callComplete_next hrun hst hblocks hterms hstep))
  case slcoreCommands =>
    refine ⟨fun hb => ?_, fun hb => ⟨fun hs => ⟨?_, ?_, ?_⟩, fun hs => ⟨?_, ?_, ?_⟩⟩⟩
    · refine List.forall_mem_cons.mpr ⟨?_, List.forall_mem_cons.mpr ⟨?_, List.forall_mem_cons.mpr ⟨?_, List.forall_mem_nil _⟩⟩⟩
      · exact congrArg Host.Outcome.next (slcoreCommand_busy (v := withCmd s 1) hb)
      · exact congrArg Host.Outcome.next (slcoreCommand_busy (v := withCmd s 2) hb)
      · exact congrArg Host.Outcome.next (slcoreCommand_busy (v := withCmd s 3) hb)
    · exact (exec_slcoreStop_idle hb).trans (congrArg Host.Outcome.next (slcoreStop_running hs))
    · exact (exec_slcoreRun_idle hb).trans (congrArg Host.Outcome.next (slcoreRun_running hs))
    · exact (exec_slcoreStep_idle hb).trans (congrArg Host.Outcome.next (slcoreStep_running hs))
    · exact (exec_slcoreRun_idle hb).trans (congrArg Host.Outcome.next (slcoreRun_stopped hs))
    · exact (exec_slcoreStep_idle hb).trans (congrArg Host.Outcome.next (slcoreStep_stopped hs))
    · exact (exec_slcoreStop_idle hb).trans (congrArg Host.Outcome.next (slcoreStop_stopped hs))

end Sys2Proof.Laws.HeadAndScanlineEvents
end
